-- ==== Sys2Proof/Word.lean ====
section
/-! DEFINITION. The word types of the machine: 64-bit words and lane masks, 32-bit lane elements, bytes, and the
64-element rows that vector registers and accumulator rows hold. -/
namespace Sys2Proof

/-- A 64-bit scalar value, address or lane mask (R42). -/
abbrev Word := BitVec 64

/-- A 32-bit element of a vector register or accumulator row (R42). -/
abbrev Elem := BitVec 32

/-- A byte of memory (R3). -/
abbrev Byte := BitVec 8

/-- The 64 elements of one vector register or accumulator row, lane 0 first; an element past the end reads as zero. -/
abbrev Lanes := List Elem

end Sys2Proof
end

