-- ==== Sys2Proof/Machine/Map.lean ====
section
/-! DEFINITION. Finite maps with natural-number keys in one canonical form: a list of pairs, keys strictly rising.
`mapSet` keeps out entries that equal the value an unlisted key reads as, so equal contents are equal lists. -/
namespace Sys2Proof.Machine

/-- Pairs of a key and a value, keys strictly rising. -/
abbrev Map (α : Type) := List (Nat × α)

/-- The value listed at a key. -/
def mapFind {α : Type} : Map α → Nat → Option α
  | [], _ => none
  | (k, v) :: r, a => if k = a then some v else mapFind r a

/-- The value at a key, `d` where the key is not listed. -/
def mapGet {α : Type} (d : α) (m : Map α) (a : Nat) : α :=
  match mapFind m a with
  | some v => v
  | none => d

/-- List a value at a key, in place of what was listed there. -/
def mapPut {α : Type} : Map α → Nat → α → Map α
  | [], a, v => [(a, v)]
  | (k, w) :: r, a, v =>
    if a < k then (a, v) :: (k, w) :: r
    else if a = k then (a, v) :: r
    else (k, w) :: mapPut r a v

/-- Remove the entries of a key. -/
def mapErase {α : Type} : Map α → Nat → Map α
  | [], _ => []
  | (k, w) :: r, a => if a = k then mapErase r a else (k, w) :: mapErase r a

/-- Write a value at a key, keeping the list free of entries equal to `d`. -/
def mapSet {α : Type} [DecidableEq α] (d : α) (m : Map α) (a : Nat) (v : α) : Map α :=
  if v = d then mapErase m a else mapPut m a v

/-- Every key of the list is greater than a bound. -/
def mapAbove {α : Type} (b : Nat) : Map α → Bool
  | [] => true
  | (k, _) :: r => decide (b < k) && mapAbove b r

/-- The canonical form: keys strictly rising and no entry equal to the unlisted value. -/
def mapWf {α : Type} [DecidableEq α] (d : α) : Map α → Bool
  | [] => true
  | (k, v) :: r => mapAbove k r && decide (v ≠ d) && mapWf d r

/-- Keys strictly rising, whatever the values. -/
def mapSorted {α : Type} : Map α → Bool
  | [] => true
  | (k, _) :: r => mapAbove k r && mapSorted r

/-- Change the value listed at a key, if one is. -/
def mapModify {α : Type} (m : Map α) (a : Nat) (f : α → α) : Map α :=
  match mapFind m a with
  | some v => mapPut m a (f v)
  | none => m

/-- Change every listed value. -/
def mapAll {α β : Type} (m : Map α) (f : Nat → α → β) : Map β := m.map fun e => (e.1, f e.1 e.2)

/-- The first listed key (in rising order) whose value passes a test. -/
def mapFirst {α : Type} (p : Nat → α → Bool) : Map α → Option (Nat × α)
  | [] => none
  | (k, v) :: r => if p k v then some (k, v) else mapFirst p r

/-- Keep the entries that pass a test. -/
def mapKeep {α : Type} (m : Map α) (p : Nat → α → Bool) : Map α := m.filter fun e => p e.1 e.2

/-- The next key above every listed key. -/
def mapNext {α : Type} : Map α → Nat
  | [] => 0
  | [(k, _)] => k + 1
  | _ :: r => mapNext r

end Sys2Proof.Machine
end

