-- ==== Sys2Proof/Machine/Bytes.lean ====
section
/-! DEFINITION. Numbers, bytes and bit fields: little-endian bytes (R3), two's complement reading and wrapping, and
lane masks. -/
namespace Sys2Proof.Machine

/-- The `n` low bytes of a number, lowest first (R3). -/
def leBytes : Nat → Nat → List Byte
  | 0, _ => []
  | n + 1, x => BitVec.ofNat 8 x :: leBytes n (x / 256)

/-- The number whose bytes, lowest first, are listed (R3). -/
def leNat : List Byte → Nat
  | [] => 0
  | b :: r => b.toNat + 256 * leNat r

/-- Doublewords as bytes. -/
def dwBytes (l : List Word) : List Byte := l.flatMap fun x => leBytes 8 x.toNat

/-- Split a list into groups of `n`; the last group may be short. -/
def chunks {α : Type} (n : Nat) : Nat → List α → List (List α)
  | 0, _ => []
  | k + 1, l => l.take n :: chunks n k (l.drop n)

/-- The first `k` doublewords of a list of bytes. -/
def bytesDw (k : Nat) (l : List Byte) : List Word := (chunks 8 k l).map fun c => BitVec.ofNat 64 (leNat c)

/-- The low `w` bits of a number. -/
def low (w x : Nat) : Nat := x % 2 ^ w

/-- The low `w` bits of a number read in two's complement. -/
def signed (w x : Nat) : Int :=
  let y := x % 2 ^ w
  if 2 * y < 2 ^ w then (y : Int) else (y : Int) - 2 ^ w

/-- The low `w` bits of a number as an integer, unsigned or in two's complement (ToInt of R109). -/
def toInt (w : Nat) (uns : Bool) (x : Nat) : Int := if uns then ((x % 2 ^ w : Nat) : Int) else signed w x

/-- An integer modulo 2^w. -/
def wrap (w : Nat) (i : Int) : Nat := (i % (2 ^ w : Nat)).toNat

/-- Least value of a width and signedness (Range of R109). -/
def rangeLo (w : Nat) (uns : Bool) : Int := if uns then 0 else -(2 ^ (w - 1) : Nat)

/-- Greatest value of a width and signedness (Range of R109). -/
def rangeHi (w : Nat) (uns : Bool) : Int := if uns then (2 ^ w : Nat) - 1 else (2 ^ (w - 1) : Nat) - 1

/-- An integer brought into a range, and whether it lay outside. -/
def clampTo (lo hi x : Int) : Int × Bool :=
  if x < lo then (lo, true) else if hi < x then (hi, true) else (x, false)

/-- A 32-bit value sign-extended to 64 bits. -/
def sx32 (x : BitVec 32) : Word := x.signExtend 64

/-- Division of naturals rounding upwards. -/
def ceilDiv (a b : Nat) : Nat := if b = 0 then 0 else (a + b - 1) / b

/-- Bits [lo + len - 1 : lo] of a number. -/
def bits (x lo len : Nat) : Nat := (x >>> lo) % 2 ^ len

/-- A bit of a number. -/
def bit (x i : Nat) : Bool := (x >>> i) % 2 = 1

/-- A truth value as 0 or 1. -/
def b2n (b : Bool) : Nat := if b then 1 else 0

/-- All ones or zero. -/
def allOnes (b : Bool) : Word := if b then BitVec.allOnes 64 else 0

/-- Lane `i` is in a mask. -/
def inMask (m : Word) (i : Nat) : Bool := m.getLsbD i

/-- The lanes of a mask in rising order. -/
def maskLanes (m : Word) : List Nat := (List.range 64).filter (inMask m)

/-- The mask of the lanes that pass a test. -/
def maskOf (p : Nat → Bool) : Word := BitVec.ofBoolListLE ((List.range 64).map p)

/-- The number of ones. -/
def popcount (w x : Nat) : Nat := ((List.range w).filter (bit x)).length

/-- The position of the lowest one, `w` if there is none. -/
def lowestOne (w x : Nat) : Nat := ((List.range w).find? (bit x)).getD w

/-- The number of leading zeros of a `w`-bit value. -/
def leadingZeros (w x : Nat) : Nat := w - ((List.range w).filter fun i => decide (2 ^ i ≤ x % 2 ^ w)).length

/-- Replace the element at a position of a list. -/
def listSet {α : Type} (l : List α) (i : Nat) (v : α) : List α := l.set i v

/-- The lanes of a register: for each lane, a function of its number. -/
def lanesOf (f : Nat → Elem) : Lanes := (List.range 64).map f

/-- The element of one lane. -/
def laneOf (l : Lanes) (i : Nat) : Elem := l.getD i 0

/-- A register in which every lane reads as zero. -/
def zeroLanes : Lanes := lanesOf fun _ => 0

/-- Write the lanes of a mask, leaving the others. -/
def blend (m : Word) (new old : Nat → Elem) : Lanes := lanesOf fun i => if inMask m i then new i else old i

end Sys2Proof.Machine
end

