-- ==== Sys2Proof/Config.lean ====
section
/-! DEFINITION. What one implementation fixes, and the values that the manual leaves open. A constant declared
`opaque` has no body: nothing can be proved of its value. -/
namespace Sys2Proof.Config

/-- arn.id: ordering number 0x5720 and ROM release 1 (Table 13.1). -/
def arnId : BitVec 32 := 0x57200001

/-- SHAKE256 of the ROM, 512 bits (Table 15.5); the manual gives no value (log 20). -/
opaque romMeasure : List Byte

/-- A byte of a core's scratchpad that nothing has written, by core and place (log 5). -/
opaque scratchInit : Nat → Nat → Byte

/-- Choices that the manual leaves to the part, drawn by a counter of the state (log 6). -/
opaque choose : Nat → Bool

/-- Values that the manual leaves unstated, drawn by a counter of the state (log 7). -/
opaque freeWord : Nat → Word

/-- The FP32 element that a receiver makes of a scale byte and an E2M1 code whose product lies beyond FP32 (R71, log 17). -/
opaque beyondF32 : Nat → Nat → BitVec 32

/-- The random bytes of the n-th ML-KEM key generation: d and z, 64 bytes (R349, log 20). -/
opaque mlKemSeed : Nat → List Byte

/-- The random bytes with which SLH-DSA signs a message, 32 bytes (R361, log 20). -/
opaque slhRandom : List Byte → List Byte

/-- The Tsuldo root public key in ROM, 64 bytes (R388); the manual gives no value (log 30). -/
opaque romRootKey : List Byte

/-- The key that the ROM derives from the package's SRAM start-up pattern for a blob's secret fields, 32 bytes (R389,
log 30). -/
opaque romSecretKey : List Byte

/-- The nonce, additional data and tag of a blob's secret fields, by the blob's bytes: the manual does not say where they
stand (R389, log 30). -/
opaque blobGcm : List Byte → List Byte × List Byte × List Byte

/-- What a scrub record holds of the running SHAKE256 state over its page lists, 24 bytes, by those lists (R353,
log 47). -/
opaque scrubHash : List Byte → List Byte

end Sys2Proof.Config
end

