-- ==== Sys2Proof/Syntax.lean ====
section
/-! DEFINITION. The operations and events of the machine as syntax: one constructor of `Instr` for every row of the
table of operations and events, with the fields that its encoding, packet, frame or event carries. The events that
the machine posts to itself stand before those that reach it from outside. -/
namespace Sys2Proof

/-- The four instruction forms (Table 3.1). -/
inductive Form where
  /-- L = 0b00: one word. -/
  | base
  /-- L = 0b01: word 0 and two extended words. -/
  | ext
  /-- L = 0b10: word 0 and a 64-bit literal. -/
  | lit
  /-- L = 0b11: word 0, two extended words and a 64-bit literal. -/
  | extLit
deriving DecidableEq, Repr

/-- The fields of a native instruction (Tables 3.2 and 3.3). OP and FN are the constructor. A form without extended
words has the extended fields zero, and a form without a literal has the literal zero. -/
structure Fields where
  form : Form := .base
  d : BitVec 8 := 0
  a : BitVec 8 := 0
  b : BitVec 8 := 0
  c : BitVec 8 := 0
  mod : BitVec 7 := 0
  pn : BitVec 1 := 0
  pg : BitVec 4 := 0
  la : BitVec 4 := 0
  /-- Extended word 2: IMM32 or descriptor fields. -/
  w2 : BitVec 32 := 0
  lit : BitVec 64 := 0
deriving DecidableEq, Repr

/-- The fields of a forerunner word (Table 3.13); fop is the constructor. -/
structure FrFields where
  d : BitVec 8 := 0
  a : BitVec 8 := 0
  b : BitVec 8 := 0
  pg : BitVec 3 := 0
  pn : BitVec 1 := 0
  sub : BitVec 4 := 0
  imm : BitVec 24 := 0
deriving DecidableEq, Repr

/-- A command packet: its queue, the ring word of its header and its words, header first (R312, R313). -/
structure Packet where
  queue : BitVec 8
  head : BitVec 32
  words : List Word
deriving DecidableEq, Repr

/-- The packet delivery modes of Ultra Ethernet (Table 16.3). -/
inductive UeMode where
  /-- Reliable unordered delivery. -/
  | rud
  /-- Reliable ordered delivery. -/
  | rod
  /-- A mode that the device does not support. -/
  | other
deriving DecidableEq, Repr

/-- What the link says of a frame (R385, R386): its link sequence number, its packet number, and how many frames of this
port the other end has accepted. -/
structure LinkInfo where
  seq : Nat
  pn : Nat
  acks : Nat
deriving DecidableEq, Repr

/-- A Baranmor frame (Table 16.4) with the port it arrives on; `rsvd` tells whether a reserved bit is set. -/
structure Frame where
  ty : BitVec 8 := 0
  domain : BitVec 16 := 0
  src : BitVec 11 := 0
  whi : BitVec 11 := 0
  wlo : BitVec 11 := 0
  all : Bool := false
  ece : Bool := false
  ce : Bool := false
  comb : Bool := false
  tile : Bool := false
  retx : Bool := false
  gen : BitVec 32 := 0
  gtid : BitVec 16 := 0
  mbase : BitVec 11 := 0
  axes : BitVec 3 := 0
  sizes : BitVec 55 := 0
  pattern : BitVec 128 := 0
  va : Word := 0
  opnum : BitVec 32 := 0
  seq : BitVec 32 := 0
  total : BitVec 32 := 0
  tag : BitVec 16 := 0
  plen : BitVec 16 := 0
  first : BitVec 11 := 0
  last : BitVec 11 := 0
  count : BitVec 11 := 0
  op : BitVec 4 := 0
  etype : BitVec 3 := 0
  aux : Word := 0
  rsvd : Bool := false
  payload : List Byte := []
  port : BitVec 4 := 0
  /-- The Ultra Ethernet mode that carries it; none on Baranmor (R373). -/
  via : Option UeMode := none
  /-- What its link says of it; none where it is the next of its link in order. -/
  link : Option LinkInfo := none
deriving DecidableEq, Repr

/-- A received Ultra Ethernet packet: its mode, whether it was trimmed, the TSS key under which its security check
passes, and the placement fields, which are those of a STORE or of a TACK or NACK (R373, R374). -/
structure UePacket where
  mode : UeMode
  trimmed : Bool
  tssKey : List Byte
  frame : Frame
deriving DecidableEq, Repr

/-- A copy of the configuration blob, as the flash holds it (Table 17.1). -/
structure Blob where
  bytes : List (BitVec 8)
deriving DecidableEq, Repr

/-- An error of the hardware that ECC meets (R396): an input, like a sensor's reading (log 48). -/
inductive HwError where
  /-- A single-bit error of an LPDDR5X word, corrected as it is read. -/
  | corrected (pa : Nat)
  /-- A 32-byte sector of memory becomes uncorrectable; a whole write of it mends it. -/
  | sector (pa : Nat)
  /-- A sector of LPDDR5X that no write mends: it reads a mismatch or, with `bad`, uncorrectable (R364). -/
  | stuck (pa : Nat) (bad : Bool)
  /-- A register row of a warp: its class (v, s, p, h, c, n as 0 to 5) and number, and the row's index. -/
  | register (warp cls idx row : Nat)
  /-- The column-scale register of a warp, and the row's index. -/
  | columns (warp row : Nat)
  /-- A scratchpad row of a block, 256 bytes, and the row's index. -/
  | scratch (block off row : Nat)
  /-- An accumulator row of a block, and the row's index. -/
  | accum (block r row : Nat)
  /-- A weight buffer of a core, and the row's index. -/
  | buffer (core buf row : Nat)
deriving DecidableEq, Repr

/-- The readings that the health block reports (Table 17.6), and the errors met since the last ones. -/
structure Sensors where
  power : BitVec 16
  tin : BitVec 8
  tout : BitVec 8
  tx : BitVec 16
  tc : BitVec 32
  flow : BitVec 32
  errors : List HwError := []
deriving DecidableEq, Repr

/-- One constructor for every row of the table of operations and events. -/
inductive Instr where
  /-- R109: Scalar add of s[A] and s[B] into s[D], with the MOD type and .sat in the longer forms. -/
  | sadd (f : Fields)
  /-- R109: Scalar subtract of s[B] from s[A] into s[D]. -/
  | ssub (f : Fields)
  /-- R109: Scalar multiply, low half, into s[D]. -/
  | smul (f : Fields)
  /-- R109: Scalar multiply, high half of the 2w-bit product, into s[D]. -/
  | smulh (f : Fields)
  /-- R109: Scalar bitwise AND. -/
  | sand (f : Fields)
  /-- R109: Scalar bitwise OR. -/
  | sor (f : Fields)
  /-- R109: Scalar bitwise XOR. -/
  | sxor (f : Fields)
  /-- R109: Scalar shift left by the full 64-bit count. -/
  | sshl (f : Fields)
  /-- R109: Scalar logical shift right. -/
  | sshr (f : Fields)
  /-- R109: Scalar arithmetic shift right. -/
  | ssra (f : Fields)
  /-- R109: Scalar minimum, signed by default. -/
  | smin (f : Fields)
  /-- R109: Scalar maximum, signed by default. -/
  | smax (f : Fields)
  /-- R109: Copies s[A] to s[D]. -/
  | smov (f : Fields)
  /-- R109: Scalar rotate left by the count modulo the width. -/
  | srot (f : Fields)
  /-- R110: Scalar division, with the results of Table 4.2 for zero divisors and overflow. -/
  | sdiv (f : Fields)
  /-- R110: Scalar remainder, by Table 4.2. -/
  | srem (f : Fields)
  /-- R146: Per-lane integer add on the effective mask. -/
  | vadd (f : Fields)
  /-- R146: Per-lane integer subtract. -/
  | vsub (f : Fields)
  /-- R146: Per-lane integer multiply, low half. -/
  | vmul (f : Fields)
  /-- R146: Per-lane integer multiply, high half. -/
  | vmulh (f : Fields)
  /-- R146: Per-lane bitwise AND. -/
  | vand (f : Fields)
  /-- R146: Per-lane bitwise OR. -/
  | vor (f : Fields)
  /-- R146: Per-lane bitwise XOR. -/
  | vxor (f : Fields)
  /-- R146: Per-lane shift left. -/
  | vshl (f : Fields)
  /-- R146: Per-lane logical shift right. -/
  | vshr (f : Fields)
  /-- R146: Per-lane arithmetic shift right. -/
  | vsra (f : Fields)
  /-- R146: Per-lane integer minimum. -/
  | vmin (f : Fields)
  /-- R146: Per-lane integer maximum. -/
  | vmax (f : Fields)
  /-- R146: Copies v[A] to v[D] bit for bit on the effective lanes. -/
  | vmov (f : Fields)
  /-- R154: Per-lane FP32 add, rn, IEEE overflow policy in the base form. -/
  | fadd (f : Fields)
  /-- R154: Per-lane FP32 subtract. -/
  | fsub (f : Fields)
  /-- R154: Per-lane FP32 multiply. -/
  | fmul (f : Fields)
  /-- R154: Per-lane FP32 minimum with canonical NaN. -/
  | fmin (f : Fields)
  /-- R154: Per-lane FP32 maximum with canonical NaN. -/
  | fmax (f : Fields)
  /-- R118: Predicate AND of whole lane masks. -/
  | pand (f : Fields)
  /-- R118: Predicate OR of whole lane masks. -/
  | por (f : Fields)
  /-- R118: Predicate XOR of whole lane masks. -/
  | pxor (f : Fields)
  /-- R118: Predicate AND-NOT of whole lane masks. -/
  | pandn (f : Fields)
  /-- R154: Packed add of two BF16 values per register. -/
  | hadd2 (f : Fields)
  /-- R154: Packed multiply of two BF16 values per register. -/
  | hmul2 (f : Fields)
  /-- R112: Counts the leading zero bits of s[A]. -/
  | sclz (f : Fields)
  /-- R112: Counts the one bits of s[A]. -/
  | spopc (f : Fields)
  /-- R113: Extracts a bit field from s[A], optionally sign-extended. -/
  | sbfe (f : Fields)
  /-- R113: Inserts the low bits of s[A] into a field of s[D]. -/
  | sbfi (f : Fields)
  /-- R114: Selects s[A] or s[B] by whether p[C] has an effective lane set. -/
  | ssel (f : Fields)
  /-- R115: Loads a 32-bit immediate, a high half or a 64-bit literal into s[D]. -/
  | sli (f : Fields)
  /-- R116: Computes base plus shifted index, with the PC as base under .pc. -/
  | slea (f : Fields)
  /-- R117: Scalar compare writing a whole predicate or its effective lanes. -/
  | scmp (f : Fields)
  /-- R120: Writes the complement of p[A] to p[D]. -/
  | pnot (f : Fields)
  /-- R120: Copies p[A] to p[D], or to s[D] under .s. -/
  | pmov (f : Fields)
  /-- R120: Writes s[A] or an immediate to p[D]. -/
  | pset (f : Fields)
  /-- R121: Counts the set bits of p[A] into s[D]. -/
  | pcnt (f : Fields)
  /-- R121: Writes the index of the lowest set bit of p[A], or 64. -/
  | pff (f : Fields)
  /-- R124: Uniform branch of the whole slot. -/
  | bra (f : Fields)
  /-- R124: Uniform conditional branch under .any, .all or .none. -/
  | brc (f : Fields)
  /-- R126: Divergent branch that splits, keeps or pushes paths by R12 and R13. -/
  | brv (f : Fields)
  /-- R16: Reconvergence point: parks the slot when its rpc matches, then Resolve runs. -/
  | rcv (f : Fields)
  /-- R124: Writes the return address to s[D] and branches to the target. -/
  | call (f : Fields)
  /-- R124: Writes the return address to s[D] and branches to s[A]. -/
  | callx (f : Fields)
  /-- R124: Uniform branch to s[A] with a return hint. -/
  | ret (f : Fields)
  /-- R124: Uniform branch to s[A]. -/
  | jmpx (f : Fields)
  /-- R128: Removes the effective lanes from the slot and warp.lanes, then Resolve runs. -/
  | exit (f : Fields)
  /-- R139: No effect beyond counting towards lookahead windows. -/
  | nop (f : Fields)
  /-- R138: Moves the warp behind its level and makes it not ready for n clk. -/
  | yld (f : Fields)
  /-- R130: Pushes a software record onto the divergence stack. -/
  | dpsh (f : Fields)
  /-- R131: Pops a software record into s registers, then Resolve runs. -/
  | dpop (f : Fields)
  /-- R134: Takes a breakpoint trap, or halts the warp when breakpoint halts are armed. -/
  | bkpt (f : Fields)
  /-- R133: Takes a software trap with cause 0x8000 or n. -/
  | trap (f : Fields)
  /-- R19: Pops a trap entry and restores both slots. -/
  | rtt (f : Fields)
  /-- R136: Reads a control register into s or v registers. -/
  | csrr (f : Fields)
  /-- R137: Writes s[A] to a control register according to its access code. -/
  | csrw (f : Fields)
  /-- R140: Writes the package clk count to s[D]. -/
  | clock (f : Fields)
  /-- R148: Per-lane integer multiply-add, optionally wide and saturating. -/
  | vmad (f : Fields)
  /-- R149: Per-lane absolute value. -/
  | vabs (f : Fields)
  /-- R149: Per-lane negation. -/
  | vneg (f : Fields)
  /-- R149: Per-lane count of leading zeros. -/
  | vclz (f : Fields)
  /-- R149: Per-lane population count. -/
  | vpopc (f : Fields)
  /-- R150: Per-lane bit field extract. -/
  | vbfe (f : Fields)
  /-- R150: Per-lane bit field insert. -/
  | vbfi (f : Fields)
  /-- R151: Per-lane select by p[C]. -/
  | vsel (f : Fields)
  /-- R152: Per-lane integer compare writing predicate lane bits. -/
  | vcmp (f : Fields)
  /-- R151: Broadcasts s[A] or an immediate to v[D]. -/
  | vbcst (f : Fields)
  /-- R165: Cross-lane shuffle within segments. -/
  | vshf (f : Fields)
  /-- R166: Segmented reduction over the effective lanes. -/
  | vred (f : Fields)
  /-- R166: Segmented inclusive or exclusive scan. -/
  | vscan (f : Fields)
  /-- R167: Per-lane four-byte dot product added to v[C]. -/
  | vdot4 (f : Fields)
  /-- R156: Fused multiply-add with one rounding. -/
  | ffma (f : Fields)
  /-- R157: Clears the sign bit, canonicalising NaNs. -/
  | fabs (f : Fields)
  /-- R157: Inverts the sign bit, canonicalising NaNs. -/
  | fneg (f : Fields)
  /-- R158: Float compare writing predicate lane bits. -/
  | fcmp (f : Fields)
  /-- R157: Writes the class mask of a float. -/
  | fclass (f : Fields)
  /-- R156: Multiplies by 2^n with one rounding. -/
  | fscale (f : Fields)
  /-- R156: Rounds to an integral value of the same format. -/
  | frnd (f : Fields)
  /-- R156: Packed BF16 fused multiply-add. -/
  | hfma2 (f : Fields)
  /-- R159: Correctly rounded reciprocal. -/
  | frcp (f : Fields)
  /-- R159: Correctly rounded reciprocal square root. -/
  | frsq (f : Fields)
  /-- R159: Correctly rounded square root. -/
  | fsqrt (f : Fields)
  /-- R159: Correctly rounded 2^x in FP32. -/
  | fexp2 (f : Fields)
  /-- R159: Correctly rounded log2 x in FP32. -/
  | flog2 (f : Fields)
  /-- R159: Correctly rounded sine. -/
  | fsin (f : Fields)
  /-- R159: Correctly rounded cosine. -/
  | fcos (f : Fields)
  /-- R159: Correctly rounded hyperbolic tangent. -/
  | ftanh (f : Fields)
  /-- R161: Converts one float element between formats, optionally with an E8M0 scale. -/
  | fcvt (f : Fields)
  /-- R162: Converts a float to an integer type. -/
  | f2i (f : Fields)
  /-- R162: Converts an integer to a float format. -/
  | i2f (f : Fields)
  /-- R173: Per-lane global load through a capability. -/
  | ld (f : Fields)
  /-- R173: Per-lane global store through a capability. -/
  | st (f : Fields)
  /-- R175: Uniform load into s[D]. -/
  | ldk (f : Fields)
  /-- R176: Prefetches a line into L1 or L2; never faults. -/
  | pref (f : Fields)
  /-- R176: Writes back and invalidates a byte range from L1, or also writes it back from L2. -/
  | cflush (f : Fields)
  /-- R177: Per-lane scratchpad load. -/
  | lds (f : Fields)
  /-- R177: Per-lane scratchpad store. -/
  | sts (f : Fields)
  /-- R179: Per-lane atomic on global memory at the home slice. -/
  | atom (f : Fields)
  /-- R180: Per-lane atomic on scratchpad. -/
  | atoms (f : Fields)
  /-- R181: Orders the warp's own accesses by kind and scope. -/
  | fence (f : Fields)
  /-- R183: Loads a capability and its tag from a granule. -/
  | cld (f : Fields)
  /-- R183: Stores a capability and sets the granule's tag. -/
  | cst (f : Fields)
  /-- R184: Copies a capability with its tag. -/
  | cmov (f : Fields)
  /-- R184: Narrows a capability's bounds. -/
  | cbnd (f : Fields)
  /-- R184: Narrows a capability's permissions. -/
  | cperm (f : Fields)
  /-- R185: Reads one capability field into s[D]. -/
  | cget (f : Fields)
  /-- R185: Tests validity or subset of capabilities into a predicate. -/
  | ctest (f : Fields)
  /-- R186: Seals or unseals a capability under an authority. -/
  | cseal (f : Fields)
  /-- R197: Loads a weight tile into a matrix engine weight buffer. -/
  | wld (f : Fields)
  /-- R198: Loads the warp's column-scale register from memory. -/
  | wscl (f : Fields)
  /-- R198: Sets the column-scale register to absent. -/
  | wsclNone (f : Fields)
  /-- R199: Streams activation rows through loaded weights into accumulator rows. -/
  | mma (f : Fields)
  /-- R200: Grouped products from a group descriptor. -/
  | mmag (f : Fields)
  /-- R202: Pod product that pairs with the partner or goes unpaired. -/
  | mmap (f : Fields)
  /-- R204: Sliced integer-pass product of FP or wide integer matrices. -/
  | msl (f : Fields)
  /-- R206: Allocates accumulator banks from the block's quota. -/
  | aalloc (f : Fields)
  /-- R206: Returns accumulator banks after their owners complete. -/
  | afree (f : Fields)
  /-- R207: Sets a warp's accumulator window; warp 0 only. -/
  | awin (f : Fields)
  /-- R208: Zeroes window rows and empties their sidebands. -/
  | azero (f : Fields)
  /-- R208: Reads one accumulator row into v[D] by lane. -/
  | lda (f : Fields)
  /-- R208: Writes v[D] by lane into one accumulator row. -/
  | sta (f : Fields)
  /-- R210: Converts accumulator rows to memory with scales, ReLU and rounding. -/
  | aepi (f : Fields)
  /-- R203: Applies guidance to conditional and unconditional rows of a pod. -/
  | agui (f : Fields)
  /-- R211: Sets the top-k count and index base and empties sidebands. -/
  | atopk (f : Fields)
  /-- R212: Writes top-k sidebands to memory. -/
  | atksRd (f : Fields)
  /-- R212: Reads top-k sidebands back from memory, sorted and trimmed to k. -/
  | atksWr (f : Fields)
  /-- R214: Closes the warp's issued engine operations into a batch. -/
  | mfence (f : Fields)
  /-- R214: Waits on one handle and faults on a failed operation. -/
  | mwait (f : Fields)
  /-- R214: Waits on batches and reports listed failures once. -/
  | mwaitB (f : Fields)
  /-- R215: Writes a handle's status word without waiting. -/
  | htest (f : Fields)
  /-- R215: Cancels an operation that has not started. -/
  | hcancel (f : Fields)
  /-- R215: Copies a handle with its status. -/
  | hmov (f : Fields)
  /-- R201: Asks for a pod as the conditional member and waits for the partner. -/
  | podC (f : Fields)
  /-- R201: Asks for a pod as the unconditional member and waits for the partner. -/
  | podU (f : Fields)
  /-- R201: Dissolves the issuer's pod. -/
  | podOff (f : Fields)
  /-- R227: Publishes a byte copy entry on the copy ring. -/
  | cpy (f : Fields)
  /-- R221: Initialises or reinitialises the block's copy ring. -/
  | cpyInit (f : Fields)
  /-- R221: Loads a copy capability slot after its entries complete. -/
  | cpyCap (f : Fields)
  /-- R227: Publishes a tensor box copy between memory and scratchpad. -/
  | cpyt (f : Fields)
  /-- R227: Publishes a row gather into scratchpad. -/
  | cpyg (f : Fields)
  /-- R227: Publishes a row scatter from scratchpad. -/
  | cpyx (f : Fields)
  /-- R228: Publishes a reducing copy applied per sector atomically. -/
  | cpyr (f : Fields)
  /-- R232: Sets a named barrier's expected warps and sectors. -/
  | bari (f : Fields)
  /-- R232: Arrives at a named barrier and returns its phase. -/
  | bara (f : Fields)
  /-- R232: Waits while a named barrier's phase is unchanged. -/
  | barw (f : Fields)
  /-- R232: Reads a named barrier's state or sector count. -/
  | bart (f : Fields)
  /-- R235: Sets a package barrier's expected count. -/
  | sbarInit (f : Fields)
  /-- R235: Arrives at a package barrier. -/
  | sbarArrive (f : Fields)
  /-- R235: Waits while a package barrier's generation is unchanged. -/
  | sbarWait (f : Fields)
  /-- R235: Arrives at and waits on a package barrier. -/
  | sbarSync (f : Fields)
  /-- R234: Joins or creates a membership set. -/
  | setj (f : Fields)
  /-- R234: Leaves a membership set. -/
  | setl (f : Fields)
  /-- R234: Set barrier over the current members. -/
  | setw (f : Fields)
  /-- R243: Stores lanes to every module a pattern matches. -/
  | gst (f : Fields)
  /-- R243: Loads lanes from the one module a pattern matches. -/
  | gld (f : Fields)
  /-- R244: Performs lane atomics at every matched module. -/
  | gatom (f : Fields)
  /-- R245: Contributes to a fabric reduction over a pattern's modules. -/
  | gred (f : Fields)
  /-- R244: Copies a local range to every matched module. -/
  | gcpy (f : Fields)
  /-- R242: Waits on a grid handle and writes its gathered count. -/
  | gwait (f : Fields)
  /-- R239: Replaces one axis of a pattern register. -/
  | gpatAx (f : Fields)
  /-- R239: Writes the low half of a pattern from a literal. -/
  | gpatL0 (f : Fields)
  /-- R239: Writes the high half of a pattern from a literal. -/
  | gpatL1 (f : Fields)
  /-- R239: Reads the issuer's coordinate on an axis. -/
  | gcrdAx (f : Fields)
  /-- R239: Reads a pattern's derived count. -/
  | gcrdCnt (f : Fields)
  /-- R239: Reads the issuer's position in a pattern's prefix order. -/
  | gcrdIdx (f : Fields)
  /-- R248: Fires a tile table entry and returns a grid handle. -/
  | ttfire (f : Fields)
  /-- R248: Places a tile table in an arm slot of the block. -/
  | ttfireArm (f : Fields)
  /-- R249: Waits until a tile entry's arrivals reach expect and subtracts expect. -/
  | ttwait (f : Fields)
  /-- R101: Forerunner no operation. -/
  | frNoOperation (f : FrFields)
  /-- R101: Forerunner integer add on active lanes. -/
  | frIntegerAdd (f : FrFields)
  /-- R101: Forerunner integer subtract. -/
  | frIntegerSubtract (f : FrFields)
  /-- R101: Forerunner integer multiply, low half. -/
  | frIntegerMultiply (f : FrFields)
  /-- R101: Forerunner bitwise AND. -/
  | frAnd (f : FrFields)
  /-- R101: Forerunner bitwise OR. -/
  | frOr (f : FrFields)
  /-- R101: Forerunner bitwise XOR. -/
  | frXor (f : FrFields)
  /-- R101: Forerunner shift left. -/
  | frShiftLeft (f : FrFields)
  /-- R101: Forerunner logical shift right. -/
  | frLogicalShiftRight (f : FrFields)
  /-- R101: Forerunner arithmetic shift right. -/
  | frArithmeticShiftRight (f : FrFields)
  /-- R101: Forerunner FP32 add. -/
  | frFp32Add (f : FrFields)
  /-- R101: Forerunner FP32 multiply. -/
  | frFp32Multiply (f : FrFields)
  /-- R101: Forerunner FP32 fused multiply-add. -/
  | frFp32Fma (f : FrFields)
  /-- R101: Forerunner register move. -/
  | frMove (f : FrFields)
  /-- R101: Forerunner vector load immediate. -/
  | frLoadImmediate (f : FrFields)
  /-- R101: Forerunner write of the lane number. -/
  | frLaneNumber (f : FrFields)
  /-- R101: Forerunner integer compare into predicate lane bits. -/
  | frIntegerCompare (f : FrFields)
  /-- R101: Forerunner FP32 compare into predicate lane bits. -/
  | frFp32Compare (f : FrFields)
  /-- R101: Forerunner scalar add immediate. -/
  | frScalarAddImmediate (f : FrFields)
  /-- R101: Forerunner scalar load immediate. -/
  | frScalarLoadImmediate (f : FrFields)
  /-- R101: Forerunner global load word. -/
  | frLoadWord (f : FrFields)
  /-- R101: Forerunner global store word. -/
  | frStoreWord (f : FrFields)
  /-- R101: Forerunner scratchpad load word. -/
  | frScratchpadLoadWord (f : FrFields)
  /-- R101: Forerunner scratchpad store word. -/
  | frScratchpadStoreWord (f : FrFields)
  /-- R104: Forerunner fence at a scope code 2 to 6. -/
  | frFence (f : FrFields)
  /-- R102: Forerunner if: raises nesting counters of inactive or false lanes. -/
  | frIf (f : FrFields)
  /-- R102: Forerunner else: swaps counters 0 and 1. -/
  | frElse (f : FrFields)
  /-- R102: Forerunner end if: lowers nonzero counters. -/
  | frEndIf (f : FrFields)
  /-- R102: Forerunner break: adds n to counters of active true lanes. -/
  | frBreak (f : FrFields)
  /-- R102: Forerunner loop: branches while any lane is active, else lowers counters. -/
  | frLoop (f : FrFields)
  /-- R101: Forerunner uniform branch. -/
  | frBranch (f : FrFields)
  /-- R101: Forerunner call. -/
  | frCall (f : FrFields)
  /-- R101: Forerunner return. -/
  | frReturn (f : FrFields)
  /-- R103: Forerunner arrival and wait on named barrier 0. -/
  | frBlockBarrier (f : FrFields)
  /-- R102: Forerunner exit of the active lanes. -/
  | frExit (f : FrFields)
  /-- R101: Forerunner software trap. -/
  | frTrap (f : FrFields)
  /-- R321: Clears a queue's blocked bit when its awaited condition may hold. -/
  | packetUnblock (queue : BitVec 8)
  /-- R315: Re-reads a blocked WAITMEM word at least once per 1,024 clk. -/
  | waitmemPoll (queue : BitVec 8)
  /-- R315: Halts the queue with error 0x0A when tmo passes. -/
  | waitmemTimeout (queue : BitVec 8)
  /-- R324: A launch that waited 2^20 clk stops lower launches from placing. -/
  | placementWaitExpiry (launch : Nat)
  /-- R32: Abandons a launch with cause 0x07 after 2^27 clk of waiting. -/
  | startBarrierTimeout (launch : Nat)
  /-- R41: Stops every warp and terminates the context with code 0x02. -/
  | launchDeadline (launch : Nat)
  /-- R325: Arnal pre-empts in requeue mode or restarts the slice count. -/
  | timeSliceExpiry (launch core : Nat)
  /-- R39: Moves a draining context to precise save. -/
  | drainDeadline (ctx : Nat)
  /-- R332: Stops warps and engines at boundaries and writes the save area. -/
  | preciseSave (ctx : Nat)
  /-- R39: Moves a save that has not finished to forced reset. -/
  | saveDeadline (ctx : Nat)
  /-- R337: Checks saved state and restores the context's blocks. -/
  | contextResume (ctx : Nat)
  /-- R341: Terminates a context with no retirement for hang × 1,024 clk. -/
  | hangWatchdog (ctx : Nat)
  /-- R342: Terminates a context whose barrier or set phase has not completed in time. -/
  | barrierTimeoutWatchdog (ctx : Nat)
  /-- R138: Makes a yielded warp ready again after n clk. -/
  | yldExpiry (warp : Nat)
  /-- R202: An MMAP waiting 1,024 clk goes unpaired. -/
  | mmapRendezvousTimeout (warp : Nat)
  /-- R188: The engine starts an accepted operation once dependences allow. -/
  | engineOperationStart (core op : Nat)
  /-- R189: An engine operation completes, satisfying its handle and setting flags. -/
  | engineOperationComplete (core op : Nat)
  /-- R225: Checks and starts a published copy ring entry. -/
  | copyEntryStart (block : Nat)
  /-- R230: A copy entry delivers and counts its sectors and increments done. -/
  | copyEntryComplete (block entry : Nat)
  /-- R253: Writes back a dirty L1 sector 2^16 clk after its first dirty write. -/
  | l1WritebackTimeout (l1 sector : Nat)
  /-- R242: A grid handle completes when its gathered count reaches the expected count. -/
  | gridOperationComplete (op : Nat)
  /-- R245: Fails a reduction not gathered within 2^30 clk with cause 0x12. -/
  | reductionTimeout (reduction : Nat)
  /-- R323: Launches a block for a full group of ready records. -/
  | nodeGroupLaunch (node : Nat)
  /-- R323: Launches a partial group when its timer falls due. -/
  | nodeGroupTimer (node : Nat)
  /-- R379: Resends a frame lacking TACKs, failing after 16 tries. -/
  | retransmissionTimeout (seq : Nat)
  /-- R321: Selects up to 32 ready queues and runs their head packets by group order. -/
  | arnalRound
  /-- R261: Starts invalidation of a VA range of one ASID. -/
  | invalRange
  /-- R261: Starts invalidation of everything of one ASID. -/
  | invalAsid
  /-- R261: Starts invalidation of every ASID. -/
  | invalAll
  /-- R261: Finishes an invalidation, sets done and clears busy. -/
  | invalidationComplete
  /-- R324: Arnal places the next block on the best fitting core. -/
  | blockPlacement
  /-- R364: The scrub engine zeroes and verifies one frame. -/
  | scrubFrame
  /-- R367: Writes the signed scrub receipt and releases held resources. -/
  | scrubReceipt
  /-- R398: Rewrites the health block and adjusts power throttling. -/
  | healthUpdate (x : Sensors)
  /-- R393: After the quiesce, streams every image line to the safe tier. -/
  | checkpointStream
  /-- R392: Writes the manifest and done word and requeues saved contexts. -/
  | checkpointFinish
  /-- R87: A warp reaches a word that is no instruction and takes the illegal-instruction fault precisely. Such words include major 0x3F, the reserved group 0x3E, an unassigned FN, an unaccepted form, or an unassigned forerunner opcode. -/
  | illegalInstruction
  /-- R318: Installs or replaces a grid table for a context. -/
  | gridtabInstall (p : Packet)
  /-- R318: Removes an installed grid table. -/
  | gridtabRemove (p : Packet)
  /-- R317: Makes a context live with its tables, queues and save area. -/
  | ctxnew (p : Packet)
  /-- R317: Ends a context once its work has drained and frees its IDs. -/
  | ctxend (p : Packet)
  /-- R347: Creates a husk naming a key slot, ways and root capability. -/
  | huskCreate (p : Packet)
  /-- R347: Destroys a husk once its contexts and scrubs are done. -/
  | huskDestroy (p : Packet)
  /-- R350: Unwraps a key blob into a key slot. -/
  | keyslotLoad (p : Packet)
  /-- R350: Zeroises a key slot that no husk names. -/
  | keyslotZeroise (p : Packet)
  /-- R363: Starts a scrub of a context's frames and makes it ending. -/
  | scrubStart (p : Packet)
  /-- R363: Adds a page list to a scrub in progress. -/
  | scrubContinue (p : Packet)
  /-- R361: Writes a signed device report with a fresh ML-KEM key. -/
  | attest (p : Packet)
  /-- R319: Writes a tensor layout table entry indivisibly. -/
  | layout (p : Packet)
  /-- R314: Reads, validates and multicasts a launch record and arrives at the start barrier. -/
  | launch (p : Packet)
  /-- R322: Opens a work-graph node. -/
  | nodeOpen (p : Packet)
  /-- R323: Launches partial groups and retires once every claimed record is consumed. -/
  | nodeClose (p : Packet)
  /-- R320: Pre-empts a context and leaves it parked. -/
  | preemptPark (p : Packet)
  /-- R320: Pre-empts a context and requeues its saved blocks. -/
  | preemptRequeue (p : Packet)
  /-- R320: Turns a parked context into a requeued one. -/
  | preemptResume (p : Packet)
  /-- R392: Accepts a whole-memory checkpoint and starts its quiesce. -/
  | ckpt (p : Packet)
  /-- R315: Blocks its queue until a memory word meets a condition. -/
  | waitmem (p : Packet)
  /-- R316: Stores a value with release and optionally raises an MSI-X vector. -/
  | signalStore (p : Packet)
  /-- R316: Atomic add with release and optional interrupt. -/
  | signalAdd (p : Packet)
  /-- R316: Atomic unsigned max with release and optional interrupt. -/
  | signalMax (p : Packet)
  /-- R315: Retires the next n packets unexecuted when the test holds. -/
  | condSkip (p : Packet)
  /-- R315: Moves head back n words when the test holds. -/
  | condRepeat (p : Packet)
  /-- R315: Moves head forward n words when the test holds. -/
  | condJump (p : Packet)
  /-- R310: Accepts a new queue tail or halts the queue with error 0x0B. -/
  | doorbellTail (queue : BitVec 8) (value : BitVec 64)
  /-- R310: Re-reads the descriptor and clears a halt. -/
  | doorbellReload (queue : BitVec 8) (value : BitVec 64)
  /-- R310: Completes the packet in progress and disables the queue. -/
  | doorbellStop (queue : BitVec 8) (value : BitVec 64)
  /-- R265: Replay verdict restarts a faulted engine operation at its progress. -/
  | faultReplay (seq : BitVec 32)
  /-- R265: Fail verdict ends a faulted engine operation with its cause. -/
  | faultFail (seq : BitVec 32)
  /-- R4: Host write to a BAR0 register without behaviour of its own. -/
  | registerWrite (offset : Nat) (value : BitVec 64)
  /-- R308: Host read through the BAR2 window at home slices. -/
  | bar2Read (offset : Nat) (bytes : Nat)
  /-- R308: Host write through the BAR2 window at home slices. -/
  | bar2Write (offset : Nat) (data : List Byte)
  /-- R262: An engine load pipe meets a page fault and stops at its progress point. -/
  | enginePageFault (core op : Nat)
  /-- R264: Re-reads rd and appends a waiting fault record when space exists. -/
  | faultQueueRetry (ctx : Nat)
  /-- R217: Periodic self-test of a quarter of the matrix array. -/
  | matrixSelfTest (core : Nat) (quarter : BitVec 2) (pass : Bool)
  /-- R378: Received STORE frame placed at va after acceptance checks. -/
  | frameStore (f : Frame)
  /-- R378: Received remote load request answered with LDREP. -/
  | frameLdreq (f : Frame)
  /-- R243: Received load reply written to the GLD destination. -/
  | frameLdrep (f : Frame)
  /-- R244: Received remote atomic performed in lane order. -/
  | frameAtom (f : Frame)
  /-- R244: Received old values of a remote atomic. -/
  | frameAtrep (f : Frame)
  /-- R381: Received exponent frame of a binned sum. -/
  | frameExp (f : Frame)
  /-- R381: Received root exponent vector; contributor sends its bins. -/
  | frameExpr (f : Frame)
  /-- R381: Received reduction contribution or partial, combined at the root. -/
  | frameRed (f : Frame)
  /-- R380: Received .all reduction result placed and reported with DONE. -/
  | frameRedr (f : Frame)
  /-- R379: Received transport acknowledgement releasing retained frames. -/
  | frameTack (f : Frame)
  /-- R380: Received completion report added to the gathered count. -/
  | frameDone (f : Frame)
  /-- R380: Received refusal or fault that fails the operation. -/
  | frameNack (f : Frame)
  /-- R31: Received multicast launch record validated before placement. -/
  | frameLaunch (f : Frame)
  /-- R31: Received start-barrier arrive, release, refuse or cancel. -/
  | frameStart (f : Frame)
  /-- R374: Received Ultra Ethernet packet placed by offset. -/
  | uePacket (p : UePacket)
  /-- R387: A port leaves service; traffic moves to other ports. -/
  | linkDown (port : BitVec 4) (cause : Nat)
  /-- R387: A port returns to service after re-key or retraining. -/
  | linkUp (port : BitVec 4) (cause : Nat)
  /-- R386: MACsec check failure drops a frame; a second takes the link down. -/
  | integrityFailure (port : BitVec 4)
  /-- R385: Link-level resend of an undelivered frame. -/
  | llrResend (port : BitVec 4)
  /-- R391: Power-up or PERST#: verify blob, train, test, wipe and bring up ports. -/
  | coldBoot (blobs : Option Blob × Option Blob) (fails : List (Nat × BitVec 2))
  /-- R368: Function-level reset keeping memory and resuming scrubs. -/
  | warmReset (a b : Option Blob)
  /-- R400: A die at 100 °C lowers issue duty until 95 °C. -/
  | thermalThrottle (x : Sensors)
  /-- R400: A die at 115 °C stops all activity until cold boot. -/
  | thermalTrip (x : Sensors)
  /-- R88: The fetch of an instruction's words fails translation, capability or X, and the warp traps with trap.addr set to the first failing word. -/
  | instructionFetchFault (cause : BitVec 16) (addr : Word)
  /-- R376: A received Baranmor frame of an unassigned type is dropped, and a rate-limited error record of class 0x08, code 0x03 is written. -/
  | malformedFrame (f : Frame)
deriving DecidableEq, Repr

end Sys2Proof
end

