-- ==== Sys2Proof/Machine/State.lean ====
section
/-! DEFINITION. The state of one package: warps, blocks, cores, contexts, memory, Arnal, the fabric endpoint and the
outside inputs that have arrived, all as plain data, and the state at reset. -/
namespace Sys2Proof.Machine

/-! ### Registers of a warp -/

/-- A capability register or granule: 256 bits and the tag (R42, R169). -/
structure Cap where
  bits : BitVec 256 := 0
  tag : Bool := false
deriving DecidableEq, Repr

/-- A handle register: the value that programs see, and the operation whose status it follows (R189). -/
structure Handle where
  value : Word := 0
  /-- The key of the operation in `State.ops`; 0 names none. -/
  uid : Nat := 0
deriving DecidableEq, Repr

/-- The register classes of Table 1.8. -/
inductive RegClass where
  /-- Vector registers. -/
  | v
  /-- Scalar registers. -/
  | s
  /-- Predicate registers. -/
  | p
  /-- Handle registers. -/
  | h
  /-- Capability registers. -/
  | c
  /-- Pattern registers. -/
  | n
deriving DecidableEq, Repr

/-- A register named by an instruction (R36). -/
structure Reg where
  cls : RegClass
  idx : Nat
deriving DecidableEq, Repr

/-- An open lookahead window: instructions still covered, and the destinations of its opener (R36). -/
structure Window where
  left : Nat
  regs : List Reg
deriving DecidableEq, Repr

/-- The instruction being issued: its warp, slot, address and length, and whether it is forerunner code. -/
structure Issue where
  warp : Nat
  slot : Nat
  pc : Word
  len : Nat := 4
  fr : Bool := false
  /-- Registers over which a nonzero LA opens a window, and LA (R36). -/
  opens : List Reg := []
  la : Nat := 0
  /-- The other slot issues in the same cycle: exceptions are gathered and delivered after both (R20, R107). -/
  paired : Bool := false
  /-- Words of the instruction (R336). -/
  words : List (BitVec 32) := []
deriving DecidableEq, Repr

/-- A matrix operand in memory as captured at issue: capability, offset, stride and count (R193, R194). -/
structure MatRef where
  cap : Cap
  off : Word
  stride : Nat
  count : Nat
deriving DecidableEq, Repr

/-- One product: rows, formats and flags of an MMA, an MMAP member or an MMAG (R199, R200, R202). -/
structure Product where
  /-- Block-relative accumulator row of activation row 0. -/
  row : Nat
  act : MatRef
  afmt : Nat
  wfmt : Nat
  kdim : Nat
  ndim : Nat
  acc : Bool
  rs : Bool
  cs : Bool
  /-- Top-k: k and the index of column 0 (R199). -/
  topk : Option (Nat × Nat) := none
  /-- The weight buffer assignment that the product reads; an MMAG names one for each group. -/
  load : Nat := 0
deriving DecidableEq, Repr

/-- An MMAP that waits at rendezvous: all that it needs to be accepted (R202). -/
structure MmapReq where
  issue : Issue
  /-- The effective mask. -/
  mask : Word
  d : Nat
  p : Product
  w : MatRef
  /-- What both members compare: M, K, N, formats, weight address and stride. -/
  shape : List Nat
  /-- The pod sequence number at issue. -/
  seq : BitVec 32
  since : Nat
  sregs : List Word
  caps : List Cap
deriving DecidableEq, Repr

/-- What an engine, copy or grid access met at a page (Table 8.5). -/
structure FaultInfo where
  va : Word
  write : Nat := 0
  perm : Bool := false
  own : Bool := false
  mem : Bool := false
deriving DecidableEq, Repr

/-- An engine operation stopped at a page fault: waiting for queue space, or for the verdict on a record (R264). -/
inductive FaultWait where
  /-- The record is not yet appended. -/
  | queue (i : FaultInfo)
  /-- The record with this sequence number awaits its verdict. -/
  | verdict (seq : BitVec 32) (i : FaultInfo)
deriving DecidableEq, Repr

/-- What a waiting slot waits on (R331, Table 14.8). -/
inductive Wait where
  /-- BARW on a named barrier, at a phase. -/
  | barrier (b : Nat) (phase : BitVec 32)
  /-- SETW on a set, at a phase. -/
  | set (n : Nat) (phase : BitVec 32)
  /-- SBAR.wait or SBAR.sync on a package barrier, at a generation; SBAR.sync has arrived. -/
  | pkg (b : Nat) (gen : Word) (arrived : Bool)
  /-- MWAIT or GWAIT on an operation (R214, R242); `warp` tells that the other slot fetches nothing meanwhile. -/
  | handle (uid : Nat) (warp : Bool)
  /-- MWAIT.b on the batches up to one (R214). -/
  | batch (b : Word)
  /-- TTWAIT on an entry of a table (R249). -/
  | tile (t : Cap) (i : Nat)
  /-- An instruction on rows and sidebands that operations hold: its spans, and whether owners of other warps count
  (R190, R192). -/
  | rows (rows sides : List (Nat × Nat × Bool)) (owners : Bool)
  /-- Space in the copy ring (R222). -/
  | ringSpace
  /-- CPY.init: the started entries of a halted ring (R221). -/
  | ringDrain
  /-- CPY.cap: the published entries that name a capability slot (R221). -/
  | copySlot (n : Nat)
  /-- MMAG: earlier operations of its warp that write bytes which it reads at issue (R190): first and count. -/
  | reads (va n : Nat)
  /-- MMAG: the instruction, its destination and the page fault of what it reads at issue (R193), none once it may be
  tried again. -/
  | readFault (issue : Issue) (d : Nat) (w : Option FaultWait)
  /-- An MMAP at rendezvous (R202). -/
  | mmap (r : MmapReq)
  /-- A POD that names a partner: the partner's warp.id, the issuer's role (true for the unconditional member), the
  instruction and its effective mask (R201). -/
  | pod (partner : Nat) (uncond : Bool) (issue : Issue) (mask : Word)
  /-- A GLD whose request is out: the operation (R241). -/
  | load (op : Nat)
deriving DecidableEq, Repr

/-- One PC slot of a warp (R9). -/
structure Slot where
  live : Bool := false
  parked : Bool := false
  pc : Word := 0
  mask : Word := 0
  rpc : Word := 0
  windows : List Window := []
  /-- The slot has issued an instruction that waits (R331). -/
  wait : Option Wait := none
  /-- Conflicts that this slot has lost in a row to the other slot (R10). -/
  losses : Nat := 0
deriving DecidableEq, Repr

/-- Pod membership: pod.state of Table 1.9. -/
structure Pod where
  on : Bool := false
  /-- True for the unconditional member. -/
  uncond : Bool := false
  partner : BitVec 6 := 0
  seq : BitVec 32 := 0
deriving DecidableEq, Repr

/-- A resident warp. Registers are maps from the register number; an unlisted register reads as zero (R25). -/
structure Warp where
  s0 : Slot := {}
  s1 : Slot := {}
  v : Map Lanes := []
  s : Map Word := []
  p : Map Word := []
  h : Map Handle := []
  c : Map Cap := []
  n : Map (BitVec 128) := []
  /-- warp.lanes: lanes not yet exited. -/
  lanes : Word := 0
  dstkSp : Word := 0
  accBase : BitVec 13 := 0
  accLimit : BitVec 13 := 0
  trapVec : Word := 0
  trapCause : BitVec 16 := 0
  trapAddr : Word := 0
  trapPc : Word := 0
  podG : Elem := 0
  pod : Pod := {}
  /-- arith.flags. -/
  flags : BitVec 4 := 0
  /-- Bits of arith.flags that an event of this clk has set: a write of this clk leaves them (R5). -/
  flagsNew : BitVec 4 := 0
  /-- The column-scale register, absent or 64 FP32 values (R198). -/
  colScale : Option Lanes := none
  topk : Nat := 0
  ib : Nat := 0
  /-- The last closed batch (R214). -/
  batch : Word := 0
  /-- The last handle serial given; the next is one more, skipping zero (R189). -/
  serial : BitVec 32 := 0
  /-- The failure list: handle value and batch (R214). -/
  failures : List (Word × Word) := []
  ovlo : Word := 0
  ovhi : Word := 0
  /-- Forerunner nesting counters by lane (R98). -/
  nest : Map Nat := []
  /-- The forerunner barrier word: the phase read, if the warp has arrived and not returned (R103). -/
  frBarrier : Option (BitVec 32) := none
  /-- The clk before which a yielded warp is not ready (R138). -/
  yieldUntil : Nat := 0
  /-- A YLD has issued, and the warps that it puts before this one are still to be noted (R138). -/
  yielded : Bool := false
  /-- Ready warps of its partition and level that a YLD has put before this one, and that have not issued since
  (R138). -/
  behind : List Nat := []
  /-- Conflicts that the warp has lost in a row to the other pick of its partition (R34). -/
  lost : Nat := 0
  /-- The clk since which the warp has been ready without issuing (R33). -/
  readySince : Nat := 0
  /-- Creation order on the package: the lesser is the older (R33). -/
  born : Nat := 0
  /-- A BKPT at this address has halted the warp in this cycle (R330). -/
  haltPending : Option Word := none
  /-- Register rows with an uncorrectable error, and their row indexes (R396). -/
  torn : List (Reg × Nat) := []
  /-- The row index of the column-scale register where it holds an uncorrectable error (R396). -/
  tornCols : Option Nat := none
  /-- A trap entry has been pushed in this clk: a halt of the same clk marks its head (R330). -/
  trapNew : Bool := false
deriving DecidableEq, Repr

/-! ### Blocks -/

/-- A named barrier (R232), with the clk that its phase's timer has counted (R342). -/
structure Barrier where
  phase : BitVec 32 := 0
  expWarps : Nat := 0
  expSectors : Nat := 0
  arrivals : Nat := 0
  sectors : Nat := 0
  failed : Bool := false
  overflow : Bool := false
  /-- The ring sequence number that a copy fault reports (R219). -/
  failSeq : Nat := 0
  timer : Option Nat := none
  /-- Warps that have arrived in this phase. -/
  who : Word := 0
deriving DecidableEq, Repr

/-- A membership set: members and arrivals by warp.id (R234). -/
structure MSet where
  members : Word := 0
  arrived : Word := 0
  phase : BitVec 32 := 0
  timer : Option Nat := none
deriving DecidableEq, Repr

/-- A top-k sideband entry (Table 6.10). -/
structure SideEntry where
  valid : Bool := false
  index : BitVec 12 := 0
  score : Elem := 0
deriving DecidableEq, Repr

/-- One sector of a copy entry (R230): where its bytes go, and the source bytes that it holds; the rest of it is zero. -/
structure Piece where
  /-- The destination is the scratchpad. -/
  dstScratch : Bool
  dst : Nat
  len : Nat
  srcScratch : Bool
  src : Nat
  srcLen : Nat
  /-- Place of the source bytes in the sector. -/
  skip : Nat := 0
  /-- The sector counts for the entry's barrier. -/
  counted : Bool := true
deriving DecidableEq, Repr

/-- A copy ring entry that has started (R224). -/
structure CopyOp where
  seq : Nat
  /-- The entry's four doublewords as read at start. -/
  words : List Word
  /-- Its sectors in order. -/
  pieces : List Piece := []
  progress : Nat := 0
  fault : Option FaultWait := none
  /-- arith.flags bits raised so far (R228). -/
  flags : BitVec 4 := 0
deriving DecidableEq, Repr

/-- The copy ring of a block as the copy engine holds it (R220): its header in scratchpad shows the same, and an entry
that software corrupts there halts the ring. -/
structure Ring where
  /-- Scratchpad offset of the header. -/
  off : Nat
  /-- log2 of the entry count. -/
  k : Nat
  head : BitVec 32 := 0
  finished : BitVec 32 := 0
  halted : Bool := false
  failSeq : BitVec 32 := 0
  cause : Nat := 0
  progress : Nat := 0
  /-- Entries from head on that had started before a save: those that had ended, and the progress and arith.flags bits
  of those that had not (R228, R250, R262). -/
  begun : List (Nat × Option (Nat × BitVec 4)) := []
deriving DecidableEq, Repr

/-- 4 KiB of a core's scratchpad that no block holds: whether it was flash-cleared (R358), and the bytes written in it
since (R359). -/
structure SpadUnit where
  cleared : Bool := false
  bytes : Map Byte := []
deriving DecidableEq, Repr

/-- A resident or draining block (R22). -/
structure Block where
  ctx : Nat
  launch : Nat
  /-- block.id. -/
  idx : Nat
  core : Nat
  wpb : Nat
  /-- Vector registers per warp (R28). -/
  vregs : Nat
  spu : Nat
  accb : Nat
  prio : Nat
  /-- The 4 KiB units of the core's scratchpad that it holds, in the order of its offsets, and whether each was
  flash-cleared before (R358). -/
  units : List (Nat × Bool) := []
  /-- Scratchpad bytes written since their units were last cleared, by offset (R359). -/
  scratch : Map Byte := []
  /-- Allocated accumulator banks, block-relative (R206). -/
  banks : BitVec 64 := 0
  acc : Map Lanes := []
  side : Map (List SideEntry) := []
  bars : Map Barrier := []
  sets : Map MSet := []
  /-- The copy ring, if initialised (R221). -/
  ring : Option Ring := none
  copySlots : Map Cap := []
  arm : Map Cap := []
  copies : Map CopyOp := []
  /-- Rows with an uncorrectable error: 1 scratchpad or 2 accumulator, the row, and its index (R396). -/
  torn : List (Nat × Nat × Nat) := []
  /-- Warps of the block that have ended. -/
  ended : Word := 0
  born : Nat := 0
deriving DecidableEq, Repr

/-! ### Engines -/

/-- State and cause of an operation that handles follow (Table 6.12), and what a register keeps of a weight load. -/
structure OpStat where
  state : Nat := 0
  cause : Nat := 0
  progress : Nat := 0
  /-- Bit [16]: a binned sum overflowed (R245). -/
  overflow : Bool := false
  warp : Nat := 0
  value : Word := 0
  batch : Word := 0
  /-- The operation is a WLD: fmt, K and N. -/
  desc : Option (Nat × Nat × Nat) := none
  /-- 4 for grid operations, else 0 or 2 (Table 6.1). -/
  grp : Nat := 0
deriving DecidableEq, Repr

/-- The hidden state of an MSL (R204). -/
structure MslState where
  scaled : Bool := false
  exps : List Int := []
  fxps : List Int := []
  rowBad : List Bool := []
  colBad : List Bool := []
  /-- Level accumulators by level × 2,048 + 32 i + j. -/
  levels : Map Int := []
  pair : Nat := 0
deriving DecidableEq, Repr

/-- What an engine operation does (majors 0x35 to 0x37). -/
inductive EngineKind where
  /-- A weight load into a buffer assignment (R197). -/
  | wld (w : MatRef) (fmt kdim ndim : Nat) (load : Nat)
  /-- A column-scale load; none makes the register absent (R198). -/
  | wscl (w : Option MatRef)
  /-- A streamed product through a named load: the key of the load's operation (R199). -/
  | mma (p : Product) (wld : Nat)
  /-- Grouped products: weights, buffer assignment and valid rows of each group that is not empty (R200). A group that
  was done before a save has no assignment, and names 0. -/
  | mmag (p : Product) (groups : List (MatRef × Nat × List Nat))
  /-- One member of an MMAP: its product, the weights, and whether it is paired (R202). -/
  | mmap (p : Product) (w : MatRef) (paired : Bool)
  /-- A sliced product (R204). -/
  | msl (row : Nat) (a b : MatRef) (fmt kdim slices : Nat) (full w64 : Bool) (st : MslState)
  /-- An epilogue write (R210). -/
  | aepi (row : Nat) (dst : MatRef) (fmt ndim : Nat) (cs : Bool) (rs : Option Nat) (int relu ieee : Bool) (mode : Nat)
  /-- Guidance: own and partner rows, roles and the sequence number at issue (R203). -/
  | agui (row prow n : Nat) (g : Elem) (uncond : Bool) (partner : Nat) (seq : BitVec 32)
  /-- Sideband read or write (R212). -/
  | atks (row n : Nat) (m : MatRef) (wr : Bool) (k ib : Nat)
deriving DecidableEq, Repr

/-- An operation accepted by a core's matrix engine (R188). -/
structure EngineOp where
  uid : Nat
  warp : Nat
  block : Nat
  ctx : Nat
  /-- The slot that issued it. -/
  slot : Nat
  kind : EngineKind
  value : Word := 0
  batch : Word := 0
  running : Bool := false
  /-- It had started before a save (R215). -/
  begun : Bool := false
  progress : Nat := 0
  /-- arith.flags bits raised so far (R55). -/
  flags : BitVec 4 := 0
  /-- The column scales that the operation captured (R190). -/
  colScale : Option Lanes := none
  /-- Words of the instruction and captured registers, for the save area (R336). -/
  words : List (BitVec 32) := []
  sregs : List Word := []
  caps : List Cap := []
  fault : Option FaultWait := none
  /-- pod state of an MMAP or AGUI for the save area: 1 paired or 2 unpaired, role, partner, sequence. -/
  podInfo : Nat × Bool × Nat × BitVec 32 := (0, false, 0, 0)
deriving DecidableEq, Repr

/-- Weights that a buffer assignment has latched (R197). -/
structure Weights where
  fmt : Nat
  kdim : Nat
  ndim : Nat
  /-- Element codes, column j at 128 j + k. -/
  elems : Map Nat := []
  /-- E8M0 scales, column j at 4 j + b. -/
  scales : Map Nat := []
  colScale : Option Lanes := none
deriving DecidableEq, Repr

/-- A weight load: the operation it belongs to, its buffer and, once read, its weights. -/
structure Load where
  op : Nat
  ctx : Nat
  block : Nat
  buf : Nat
  value : Word := 0
  weights : Option Weights := none
deriving DecidableEq, Repr

/-- A sector held by an L1: 32 bytes of one virtual sector of an ASID (R252, R253). -/
structure Sector where
  asid : BitVec 16
  /-- VA divided by 32. -/
  va : Nat
  /-- PA divided by 32. -/
  pa : Nat
  data : List Byte
  tag : Bool
  read : Bool
  write : Bool
  /-- Dirty bytes. -/
  dirty : BitVec 32 := 0
  /-- The writing warp and slot of the dirty bytes. -/
  warp : Nat := 0
  slot : Nat := 0
  since : Nat := 0
  /-- The context that filled it, and the husk of the leaf, if it is a husk page's (R354). -/
  ctx : Nat := 0
  husk : Option Nat := none
deriving DecidableEq, Repr

/-- A cached leaf (R260): the page's first VA, its level and the entry. -/
structure TlbEntry where
  asid : BitVec 16
  level : Nat
  va : Nat
  pte : Word
deriving DecidableEq, Repr

/-- What a core owns beside its blocks. -/
structure Core where
  ops : List EngineOp := []
  /-- Loads by assignment number, with those whose buffer still holds them. -/
  loads : Map Load := []
  nextLoad : Nat := 1
  mxRows : Nat := 128
  mxFence : BitVec 4 := 0
  /-- CLOCK of the last passed self-test and the first and last serials retired since, by warp (R397). -/
  testClk : Word := 0
  testSerials : Map (Nat × Nat × Nat) := []
  /-- Round-robin pointers by partition and level (R33). -/
  rr : Map Nat := []
  /-- Issue clk counts for R35 below the top level, by partition. -/
  low : Map Nat := []
  /-- The clks until which ports serve the reads of an earlier pick, by partition (R34). -/
  busy : Map (List Nat) := []
  /-- Weight buffers with an uncorrectable error, and their row indexes (R396). -/
  torn : Map Nat := []
  /-- clk in which the matrix engine has worked since the device's last self-test of its own (R217). -/
  testDue : Nat := 0
  /-- Self-tests to be made once no operation is under way: quarter, and whether it passes (R217). -/
  tests : List (BitVec 2 × Bool) := []
  /-- What the scratchpad's units that no block holds contain, by number (R358, R359). -/
  spad : Map SpadUnit := []
deriving DecidableEq, Repr

/-! ### Contexts, launches, queues -/

/-- A package barrier of a context (R235). -/
structure SBar where
  gen : Word := 0
  expected : Nat := 0
  arrivals : Nat := 0
deriving DecidableEq, Repr

/-- What the device keeps of a saved block that its record in the save area has no place for (log 23). -/
structure Kept where
  launch : Nat
  idx : Nat
  ring : Option Ring := none
  /-- Barriers, for the warps that have arrived and the copy that failed. -/
  bars : Map Barrier := []
  /-- SBAR.syncs that have arrived and wait: warp.id, slot, address, barrier and generation (R250). -/
  syncs : List (Nat × Nat × Word × Nat × Word) := []
  /-- warp.id and buffer assignment of the load of each weight image. -/
  images : List (Nat × Nat) := []
  /-- Operations that load weights, with their buffer assignments, and MSLs with the marks of their scale passes: warp.id,
  handle value and kind. -/
  kinds : List (Nat × Word × EngineKind) := []
deriving DecidableEq, Repr

/-- A saved block of a resumed context that waits for a core (R324, R337): its launch, block.id, place in the save area
and shape. -/
structure Unplaced where
  launch : Nat
  idx : Nat
  off : Nat
  wpb : Nat
  vregs : Nat
  spu : Nat
  accb : Nat
deriving DecidableEq, Repr

/-- Pre-emption of a context: level 1 or 2, the resume mode, and the deadlines left (R39, R320). -/
structure Preempt where
  level : Nat
  requeue : Bool
  drain : Nat
  save : Nat
  /-- The packet that started it: queue, head and tag, or none (R402). -/
  packet : Option (Nat × BitVec 32 × BitVec 32) := none
  /-- Warps that halted at a BKPT (R329). -/
  halts : List Nat := []
  /-- Started by a checkpoint (R392). -/
  ckpt : Bool := false
deriving DecidableEq, Repr

/-- A live context (R317). -/
structure Context where
  asid : BitVec 16
  root : BitVec 52
  cgen : BitVec 24
  prot : Bool
  husk : Nat
  bkpt : Bool
  fq : Nat
  fqlog : Nat
  save : Nat
  savelen : Nat
  ltab : Nat
  lcount : Nat
  hang : Nat
  /-- clk counted by the hang watchdog (R341). -/
  hangCount : Nat := 0
  ending : Bool := false
  /-- It was ended by forced reset (R338). -/
  dead : Bool := false
  preempt : Option Preempt := none
  /-- Saved in its save area and off its cores. -/
  saved : Bool := false
  /-- Kept off its cores until a PREEMPT with resume (R320). -/
  parked : Bool := false
  halted : Bool := false
  /-- The packet whose requeue or resume leads to the resume (R402). -/
  resumeBy : Option (Nat × BitVec 32 × BitVec 32) := none
  /-- A time-slice expiry held while halted or saved. -/
  sliceHeld : Option (Nat × Nat) := none
  /-- Root measurement (R360). -/
  measure : List Byte := []
  /-- Generation number of the undestroyed decapsulation key, and the th of that ATTEST (R349). -/
  dk : Option (Nat × List Byte) := none
  sbars : Map SBar := []
  /-- What the device keeps of saved blocks beside the save area (log 23). -/
  kept : List Kept := []
  /-- The launches of the save area in order of launch index, with the deadline words written there (R335). -/
  savedLaunches : List (Nat × Word) := []
  /-- The saved blocks of a resume that have not been placed yet, in the order of the save area (R337). -/
  unplaced : List Unplaced := []
  /-- Cores on which a block of the context was ever placed (R365). -/
  cores : List Nat := []
  scrub : Option Nat := none
deriving DecidableEq, Repr

/-- Stages of a launch on this module (R31, R314). -/
inductive Stage where
  /-- Accepted; arrived at the start barrier at this clk. -/
  | waiting (since : Nat)
  /-- Released: its blocks may be placed. -/
  | placing
deriving DecidableEq, Repr

/-- A launch accepted by this module, or a node group (R31, R323). -/
structure Launch where
  ctx : Nat
  queue : Option Nat
  qprio : Nat
  savedl : Nat
  head : BitVec 32
  packetTag : BitVec 32
  /-- The sixteen doublewords of the record (Table 1.4). -/
  words : List Word
  /-- Tags of progcap, argcap and stkcap. -/
  tags : BitVec 3
  /-- The done word: physical address and value; none where there is none to write (R314). -/
  done : Option (Nat × Word)
  /-- The address field of the done word, dval, and whether the address is physical (R335). -/
  doneAddr : Word := 0
  dval : Word := 0
  donePhys : Bool := false
  /-- The leaf that translated the done word's address (R354). -/
  doneLeaf : Word := 0
  stage : Stage
  /-- This module holds the LAUNCH packet. -/
  origin : Bool := true
  /-- Module number of the originator. -/
  fromMod : BitVec 11 := 0
  opnum : BitVec 32 := 0
  /-- Members that have arrived, when this module gathers the start barrier. -/
  arrived : Nat := 0
  /-- This module is a member of the job. -/
  member : Bool := true
  next : Nat := 0
  last : Nat := 0
  /-- clk left to the deadline. -/
  deadline : Option Nat := none
  /-- clk since which the next block has not fitted (R324). -/
  waitSince : Option Nat := none
  /-- It holds back launches of equal or lower priority (R324). -/
  holds : Bool := false
  /-- Node and group number of a node group. -/
  node : Option (Nat × Nat) := none
  /-- Time-slice count by core (R41). -/
  slice : Map Nat := []
deriving DecidableEq, Repr

/-- An installed grid table (R29). -/
structure GridTable where
  ctx : Nat
  gen : BitVec 32
  axes : Nat
  sizes : BitVec 55
  count : Nat
  /-- Port address of each rank. -/
  ports : List (BitVec 48)
deriving DecidableEq, Repr

/-- An open work-graph node (R322). -/
structure Node where
  ctx : Nat
  queue : Nat
  qprio : Nat
  maxprio : Nat := 3
  savedl : Nat
  head : BitVec 32
  packetTag : BitVec 32
  phys : Bool
  priv : Bool
  tmpl : Word
  ctl : Word
  ring : Word
  timer : Nat
  grp : Nat
  rsz : Nat
  slog : Nat
  gtab : Word
  consumed : Nat := 0
  groups : Nat := 0
  /-- First sequence number not yet in a group. -/
  next : Nat := 0
  /-- The clk at which each record from `next` on became ready, by sequence number (R323). -/
  ready : Map Nat := []
  closing : Bool := false
  /-- Groups launched and not yet consumed: group, first sequence number, count, ended. -/
  openGroups : List (Nat × Nat × Nat × Bool) := []
deriving DecidableEq, Repr

/-- A queue as Arnal holds it (R310, R311). -/
structure Queue where
  latched : Bool := false
  enable : Bool := false
  priv : Bool := false
  size : Nat := 0
  ring : Nat := 0
  ctx : Nat := 0xFFF
  qprio : Nat := 0
  maxprio : Nat := 0
  savedl : Nat := 0
  head : BitVec 32 := 0
  tail : BitVec 32 := 0
  halted : Bool := false
  blocked : Bool := false
  err : Nat := 0
  retired : BitVec 32 := 0
  /-- clk at which the packet at head, wholly published, reached the head (R315). -/
  headSince : Option Nat := none
  /-- The packet at head has begun and waits: its own progress, 0 before. -/
  stage : Nat := 0
deriving DecidableEq, Repr

/-! ### Protected contexts -/

/-- A husk (R347). -/
structure Husk where
  slot : Nat
  ways : Nat
  root : BitVec 256
  /-- It holds its ways (R351). -/
  placed : Bool := false
  /-- Queues whose destroy of it waits. -/
  dying : List Nat := []
deriving DecidableEq, Repr

/-- A page-owner entry (Table 15.2), with the key under which its lines were sealed when it was claimed. -/
structure Owner where
  state : Nat := 0
  husk : Nat := 0
  ctx : Nat := 0
  seq : BitVec 32 := 0
  key : List Byte := []
  /-- A retired frame that is being scrubbed stays retired. -/
  retired : Bool := false
  /-- Its lines are seals: a husk has claimed it, and no scrub has freed it since (R354). -/
  seals : Bool := false
deriving DecidableEq, Repr

/-- A scrub held by the device: the scrub record of R353. -/
structure Scrub where
  seq : BitVec 32
  state : Nat
  ctx : Nat
  husk : Nat
  slot : Nat
  prot : Bool
  rcpt : Option Nat
  /-- Listed frames still to do, in list order. -/
  todo : List Nat
  /-- Other frames of the context still to do, in rising order. -/
  rest : List Nat := []
  /-- Frames done, in order. -/
  did : List Nat := []
  total : Nat
  doneFrames : Nat := 0
  retiredFrames : Nat := 0
  exc : List (Nat × Nat) := []
  resets : Nat := 0
  lists : List Byte := []
  /-- CLOCK at acceptance, and the same in the current boot. -/
  start : Word := 0
  bootStart : Word := 0
  measure : List Byte := []
  cores : List Nat := []
  /-- A scrub of orphaned frames has no receipt (R368). -/
  orphan : Bool := false
  accepted : Nat := 0
deriving DecidableEq, Repr

/-! ### Grid operations and the fabric -/

/-- A tile table's capabilities and one of its entries (R247). -/
structure TileView where
  src : Cap
  rem : Cap
  /-- The entry's doublewords. -/
  dw : List Nat
deriving DecidableEq, Repr

/-- A grid operation of this module, outstanding (R242). -/
structure GridOp where
  warp : Nat
  block : Nat
  ctx : Nat
  core : Nat
  /-- FN of major 0x3C; 5 for a tile firing that has not started. -/
  fn : Nat
  value : Word := 0
  /-- The operation has no handle: a tile firing made by a store (R248), or a GLD. -/
  silent : Bool := false
  /-- GLD.acq (R243). -/
  acq : Bool := false
  /-- The header that its frames share: grid, pattern, first destination address, operation number, length and, for a
  reduction, tag, operator and type. -/
  head : Frame := {}
  expected : Nat := 0
  gathered : Nat := 0
  /-- First byte and length of the local source (R241), and the bytes of it that have been read. -/
  srcVa : Word := 0
  len : Nat := 0
  progress : Nat := 0
  /-- First byte and length of the places at its targets that its frames sent so far write (R339). -/
  places : List (Nat × Nat) := []
  /-- The source has been read. -/
  sent : Bool := false
  /-- The contribution of a reduction, as read. -/
  data : List Byte := []
  /-- Result bytes of a reduction placed in this module. -/
  placed : Nat := 0
  /-- Exponent vectors received, by destination offset (R381). -/
  exps : Map (List Byte) := []
  /-- Lanes, first v register, and bytes of each lane of a GATOM that returns values or the size code of a GLD. -/
  ret : Option (Word × Nat × Nat) := none
  /-- Reply data that has arrived. -/
  reply : Option (List Byte) := none
  /-- Tile firing: arm slot, entry, table capability. -/
  tile : Option (Nat × Nat × Cap) := none
  /-- E2M1 compression of a tile's contribution: the error-feedback buffer (R71). -/
  comp : Option Word := none
  /-- Paths (R383). -/
  spray : Nat := 1
  fault : Option FaultWait := none
  /-- arith.flags bits raised so far (R55). -/
  flags : BitVec 4 := 0
  /-- The doublewords of a tile entry as they stood at its firing, where they could be read then (R291). -/
  entry : Option (List Nat) := none
  /-- A tile firing that has ended, and whose flag is still to be written: state and cause (R248). -/
  ending : Option (Nat × Nat) := none
  /-- The cause and address with which a GLD's target failed (R243). -/
  failed : Option (Nat × Word) := none
  since : Nat := 0
deriving DecidableEq, Repr

/-- The part of a reduction that the frames of one destination address carry, being combined at this root (R381). -/
structure Reduction where
  /-- The header of the first contribution: its identity, operator, type, length and .all. -/
  head : Frame
  /-- Exponent contributions: first and last position, count, bytes. -/
  exps : List (Nat × Nat × Nat × List Byte) := []
  /-- Contributions and partials: first and last position, count, bytes. -/
  parts : List (Nat × Nat × Nat × List Byte) := []
  /-- The exponent vector that the root has sent. -/
  expr : Option (List Byte) := none
  /-- Decoded values of compressed contributions that await the exponent vector (R71). -/
  raw : List (Nat × Nat × Nat × List Byte) := []
  /-- The clk of the first contribution (R245). -/
  since : Nat := 0
  /-- arith.flags bits raised by combining here (R55). -/
  flags : BitVec 4 := 0
deriving DecidableEq, Repr

/-- A frame kept for retransmission: module numbers whose TACK is awaited, the clk it was last sent, resends (R379). -/
structure TxFrame where
  frame : Frame
  wait : List (BitVec 11)
  sent : Nat
  tries : Nat := 0
  /-- The grid operation that it belongs to; 0 for none. -/
  op : Nat := 0
  /-- Its path (R383). -/
  path : Nat := 0
deriving DecidableEq, Repr

/-- The congestion window of one target (R384). -/
structure Flow where
  /-- Unacknowledged frames allowed. -/
  window : Nat := 4096
  /-- Sequence number at which the present round trip began. -/
  round : BitVec 32 := 0
  /-- A mark has been echoed in it. -/
  marked : Bool := false
deriving DecidableEq, Repr

/-- A remote access under way at this target (R267): the frame, the bytes or lanes of it that are done, the data of the
lanes read, and the fault at which it has stopped. -/
structure Remote where
  frame : Frame
  done : Nat := 0
  data : List Byte := []
  wait : Option FaultWait := none
  /-- A save of its context has dropped its wait: it goes on when the context has been resumed (R266). -/
  parked : Bool := false
deriving DecidableEq, Repr

/-- A frame as it leaves on a port: the entropy value of its path (R383), its link sequence and packet numbers (R385,
R386), and what its transport puts around it: the EtherType of a Baranmor frame (R375), or the fabric address and the TSS
key of an Ultra Ethernet packet (R374). -/
structure Sent where
  frame : Frame
  entropy : Nat
  lseq : Nat
  pn : Nat
  etype : BitVec 16
  addr : Word
  key : List Byte
deriving DecidableEq, Repr

/-- The receive window of one sender: highest sequence accepted and the accepted ones below it (R379). -/
structure RxWindow where
  high : BitVec 32
  seen : List (BitVec 32) := []
deriving DecidableEq, Repr

/-- An operation being received: bytes accepted and whether it has been reported or refused (R380). -/
structure RxOp where
  bytes : Nat := 0
  done : Bool := false
  bad : Bool := false
deriving DecidableEq, Repr

/-- A port: in service, and the state of its link encryption and retry (R385, R386). -/
structure Port where
  up : Bool := false
  /-- Authentication failures under the current key. -/
  authFails : Nat := 0
  rekey : Bool := false
  /-- Next packet number to send. -/
  pn : Nat := 1
  /-- Next link sequence number to send. -/
  lseq : Nat := 0
  /-- Frames sent that the other end is not known to have accepted, oldest first, with their resends. -/
  replay : List (Sent × Nat) := []
  /-- The link sequence number to be accepted next. -/
  rxSeq : Nat := 0
  /-- The last packet number accepted. -/
  rxPn : Nat := 0
  /-- clk of the last malformed-frame record (R376). -/
  malformed : Option Nat := none
deriving DecidableEq, Repr

/-- A checkpoint in progress (R392). -/
structure Ckpt where
  port : BitVec 48
  roff : Word
  one : Option Nat
  done : Nat
  dval : Word
  queue : Nat
  /-- 0 quiesce, 1 stream, 2 the manifest is to be sent, 3 its acknowledgement is awaited. -/
  phase : Nat := 0
  saved : List Nat := []
  clkEnd : Word := 0
  clkLast : Word := 0
  /-- Sideband records sent, one after another. -/
  side : List Byte := []
  /-- Ranges still to stream: offset in the image, physical address, bytes. -/
  todo : List (Nat × Nat × Nat) := []
  /-- Line bytes sent, in order. -/
  sent : List Byte := []
  /-- The offset in the image up to which it has been sent. -/
  reach : Nat := 0
  /-- The CKPT packet (R402). -/
  name : Nat × BitVec 32 × BitVec 32 := (0, 0, 0)
deriving DecidableEq, Repr

/-! ### Exceptions -/

/-- A synchronous exception: cause, trap.addr, lanes that raised it, and whether the instruction completes (TRAP,
BKPT) so that its slot resumes after it (R107). -/
structure Trap where
  cause : BitVec 16
  addr : Word := 0
  lanes : Word := 0
  completes : Bool := false
deriving DecidableEq, Repr

/-! ### The package -/

/-- The memory system: home-slice values and what copies of them the L1s and the translation structures hold. -/
structure MemSys where
  /-- Physical memory: bytes unequal to zero, by address (log 4). -/
  bytes : List Host.Cell := []
  /-- Tagged granules, by PA / 32 (R257). -/
  tags : Map Bool := []
  /-- Sectors with an uncorrectable error, by PA / 32 (R257). -/
  poison : Map Bool := []
  /-- Sectors that no write mends, by PA / 32: true where they read uncorrectable, false where they read a mismatch
  (R364). -/
  stuck : Map Bool := []
  /-- What sectors held before writes changed them, newest first, by PA / 32: the count of creations at the write, and the
  32 bytes (R89). -/
  past : Map (List (Nat × List Byte)) := []
  /-- Lines newer in L2 than in LPDDR5X, by PA / 128 (R256). -/
  l2dirty : Map Bool := []
  /-- L1 sectors by L1: the core, or 1,024 + the cluster when fused (R252, R255). -/
  l1 : Map (List Sector) := []
  /-- Cached leaves by translation structure, oldest first: the TLB of each cluster, and 4,096 + the die for the
  last-level TLB of a die (R260). -/
  tlb : Map (List TlbEntry) := []
deriving DecidableEq, Repr

/-- The translation control registers (Table 8.4) and the engine faults that await verdicts (R264, R265). -/
structure Xlat where
  invalAsid : BitVec 16 := 0
  invalVa : BitVec 48 := 0
  invalLen : BitVec 32 := 0
  /-- inval.status: busy, done, error. -/
  invalStatus : BitVec 3 := 0
  /-- Bits of inval.status that an event of this clk has set (R5). -/
  invalNew : BitVec 3 := 0
  /-- The invalidation in progress: kind, ASID, first VA and bytes, as they stood at its start. -/
  inval : Option (Nat × BitVec 16 × Nat × Nat) := none
  faultStale : Bool := false
  /-- fault.stale has been set in this clk (R5). -/
  staleNew : Bool := false
  /-- The next fault sequence number. -/
  faultSeq : BitVec 32 := 1
  /-- Stopped operations waiting for queue space, oldest first: kind, owner, operation (R264). -/
  waiting : List (Nat × Nat × Nat) := []
deriving DecidableEq, Repr

/-- Arnal: its registers (Table 13.1) and its queues. -/
structure Arnal where
  queues : Map Queue := []
  /-- Round-robin pointers of the four queue priorities (R321). -/
  rr : Map Nat := []
  rounds : Nat := 0
  qtab : BitVec 52 := 0
  enable : Bool := false
  errbase : BitVec 52 := 0
  errlog : BitVec 5 := 0
  errwr : BitVec 32 := 0
  errrd : BitVec 32 := 0
  status : BitVec 3 := 0
  /-- Bits of arn.status that an event of this clk has set: a write of this clk leaves them (R5). -/
  statusNew : BitVec 3 := 0
  /-- arn.win: PA[51:32] of the BAR2 window. -/
  win : BitVec 20 := 0
  bstate : BitVec 4 := 0
  /-- MSI-X vectors raised, oldest first. -/
  msix : List Nat := []
  /-- Reply to the last BAR2 read; none where it was unsupported. -/
  hostReply : Option (List Byte) := none
deriving DecidableEq, Repr

/-- Husks, key slots, page ownership and scrubs (15). -/
structure Protect where
  husks : Map Husk := []
  keys : Map (List Byte) := []
  owners : Map Owner := []
  /-- Lines of owned frames sealed under a key other than the frame's claim key, by PA / 128 (R357). -/
  lineKeys : Map (List Byte) := []
  /-- Lines held in a husk's ways and newer than their seal, by PA / 128 (R356). -/
  waysDirty : Map Nat := []
  scrubs : Map Scrub := []
  scrubSeq : BitVec 32 := 0
  /-- clk of the last record of a refused BAR2 access (R355). -/
  lastRefuse : Option Nat := none
  /-- Key pairs generated so far (R349). -/
  keygens : Nat := 0
  /-- A warm reset's scrubs must end before Arnal serves some packets (R368). -/
  recovering : Bool := false
deriving DecidableEq, Repr

/-- What the configuration blob in use gives (Table 17.1). -/
structure BlobConfig where
  domain : BitVec 16 := 0
  mnum : BitVec 11 := 0
  etype : BitVec 16 := 0
  kr : BitVec 16 := 0
  ueaddr : Word := 0
  rto : Nat := 0
  pdef : BitVec 16 := 0
  /-- Base of the reserved region. -/
  resv : BitVec 52 := 0
  /-- Frames of the retired list, by PA / 65,536. -/
  retired : List Nat := []
  idkey : List Byte := []
  cak : List Byte := []
  tsskey : List Byte := []
  /-- SHAKE256 of the blob. -/
  digest : List Byte := []
deriving DecidableEq, Repr

/-- The fabric endpoint: ports, transport, and operations under way (16). -/
structure Fabric where
  ports : Map Port := []
  /-- Next frame sequence number and operation number of this sender (R379). -/
  txSeq : BitVec 32 := 0
  opnum : BitVec 32 := 1
  tx : Map TxFrame := []
  rx : Map RxWindow := []
  /-- Operations being received, by sender × 2^32 + opnum. -/
  rxOps : Map RxOp := []
  gridOps : Map GridOp := []
  reds : Map Reduction := []
  /-- Remote accesses under way (R267). -/
  remote : Map Remote := []
  /-- Congestion windows by target (R384). -/
  flows : Map Flow := []
  /-- Frames that wait for the sending limit (R379): frame, operation, path. -/
  queue : List (Frame × Nat × Nat) := []
  /-- Frames of this module to itself that have not been received yet. -/
  loop : List Frame := []
  /-- Launch records that wait for an earlier start barrier on their table (R32). -/
  held : List Frame := []
  /-- Frames sent to the outside, oldest first. -/
  wire : List Sent := []
deriving DecidableEq, Repr

/-- Health, power and cooling (R398 to R400). -/
structure Health where
  upd : BitVec 32 := 0
  duty : Nat := 255
  plim : BitVec 16 := 0
  corrected : BitVec 32 := 0
  /-- Corrected errors of a frame since its last record, and the clk of that record (R396). -/
  ceSince : Map Nat := []
  ceLast : Map Nat := []
  uncorrected : BitVec 32 := 0
  power : Bool := false
  thermal : Bool := false
  tripped : Bool := false
deriving DecidableEq, Repr

/-- The whole machine. -/
structure State where
  /-- clk since the last cold boot or warm reset (R140). -/
  clk : Nat := 0
  /-- Inputs and device events that have come due, oldest first (log 3). -/
  inbox : List Instr := []
  /-- Warps still to issue in this clk, in order (log 3). -/
  picks : List Nat := []
  /-- Launch deadlines and time slices of this clk: they come after what the warps do in it (R330). -/
  late : List Instr := []
  /-- What the picks of this clk that have issued use, by warp: shared units, and registers read (R34). -/
  used : List (Nat × List Nat × List Nat) := []
  /-- The instruction being issued. -/
  cur : Option Issue := none
  /-- Exceptions raised in this cycle: slot, address of the instruction, and exception (R20). -/
  traps : List (Nat × Word × Trap) := []
  /-- Counter of free values (log 7). -/
  free : Nat := 0
  /-- Counter of creation orders. -/
  births : Nat := 1
  /-- Warps by 64 × block + warp.id. -/
  warps : Map Warp := []
  blocks : Map Block := []
  cores : Map Core := []
  /-- Fused clusters (R255). -/
  fused : List Nat := []
  /-- Statuses of the operations that handles follow, and the next key. -/
  ops : Map OpStat := []
  nextOp : Nat := 1
  mem : MemSys := {}
  xlat : Xlat := {}
  ctxs : Map Context := []
  /-- Last capability generation used with each context ID since cold boot (R317). -/
  lastGen : Map Nat := []
  launches : Map Launch := []
  grids : Map GridTable := []
  /-- Nodes by 64 × context + number. -/
  nodes : Map Node := []
  arn : Arnal := {}
  prot : Protect := {}
  cfg : BlobConfig := {}
  warmResets : BitVec 32 := 0
  fab : Fabric := {}
  ckpt : Option Ckpt := none
  health : Health := {}
deriving DecidableEq, Repr

/-- Reasons for a run to stop. -/
inductive Fault where
  /-- Raised by the common entry of a warp's instruction (`Ops.native`) when no warp is issuing one. `step` never
  gives that, so it is safe. -/
  | noIssuer
deriving DecidableEq, Repr

/-- Reasons for the model to refuse an instruction. -/
inductive Refusal where
  /-- Raised by `exec` for an instruction that has no meaning yet; safe. -/
  | notModelled (mnemonic : String)
deriving DecidableEq, Repr

/-- The machine before its first cold boot: no context, queue or table, every register at its reset value, and boot in
progress (arn.bstate = 0, Table 13.1). -/
def State.reset : State := {}

end Sys2Proof.Machine
end

