-- ==== Sys2Proof/Machine/Regs.lean ====
section
/-! DEFINITION. The registers of a warp through one reader and one writer each: s0 reads as zero and p0 as all ones,
writes to them are discarded (R42), and every write of a c register clears perms [15:8] (R184). -/
namespace Sys2Proof.Machine

/-- s[i]. -/
def Warp.getS (w : Warp) (i : Nat) : Word := if i = 0 then 0 else mapGet 0 w.s i

/-- Write s[i]. -/
def Warp.setS (w : Warp) (i : Nat) (x : Word) : Warp := if i = 0 then w else { w with s := mapSet 0 w.s i x }

/-- p[i]. -/
def Warp.getP (w : Warp) (i : Nat) : Word := if i = 0 then BitVec.allOnes 64 else mapGet 0 w.p i

/-- Write all of p[i]. -/
def Warp.setP (w : Warp) (i : Nat) (x : Word) : Warp := if i = 0 then w else { w with p := mapSet 0 w.p i x }

/-- Write the bits of p[i] that a mask names. -/
def Warp.setPLanes (w : Warp) (i : Nat) (m x : Word) : Warp := w.setP i ((w.getP i &&& ~~~m) ||| (x &&& m))

/-- v[r] of one lane. -/
def Warp.getV (w : Warp) (r lane : Nat) : Elem := laneOf (mapGet zeroLanes w.v r) lane

/-- The 64-bit value of the pair at r on one lane; its low half is in the even register (R3). -/
def Warp.getV2 (w : Warp) (r lane : Nat) : Word := w.getV (r + 1) lane ++ w.getV r lane

/-- Write v[r] on the lanes of a mask (R141). -/
def Warp.setV (w : Warp) (r : Nat) (m : Word) (f : Nat → Elem) : Warp :=
  { w with v := mapSet zeroLanes w.v r (blend m f (w.getV r)) }

/-- Write the pair at r on the lanes of a mask. -/
def Warp.setV2 (w : Warp) (r : Nat) (m : Word) (f : Nat → Word) : Warp :=
  (w.setV r m fun i => (f i).extractLsb' 0 32).setV (r + 1) m fun i => (f i).extractLsb' 32 32

/-- h[i]. -/
def Warp.getH (w : Warp) (i : Nat) : Handle := mapGet {} w.h i

/-- Write h[i]. -/
def Warp.setH (w : Warp) (i : Nat) (x : Handle) : Warp := { w with h := mapSet {} w.h i x }

/-- c[i]. -/
def Warp.getC (w : Warp) (i : Nat) : Cap := mapGet {} w.c i

/-- A capability as a c register holds it: perms [15:8] zero (R184). -/
def regCap (x : Cap) : Cap := { x with bits := x.bits &&& ~~~(0xFF#256 <<< 136) }

/-- Write c[i]. -/
def Warp.setC (w : Warp) (i : Nat) (x : Cap) : Warp := { w with c := mapSet {} w.c i (regCap x) }

/-- n[i]. -/
def Warp.getN (w : Warp) (i : Nat) : BitVec 128 := mapGet 0 w.n i

/-- Write n[i]. -/
def Warp.setN (w : Warp) (i : Nat) (x : BitVec 128) : Warp := { w with n := mapSet 0 w.n i x }

/-- An event sets bits of arith.flags (R55), which a write of the same clk leaves set (R5). -/
def Warp.raiseFlags (w : Warp) (x : BitVec 4) : Warp := { w with flags := w.flags ||| x, flagsNew := w.flagsNew ||| x }

/-- arith.flags[i] if a condition holds. -/
def flagIf (c : Bool) (i : Nat) : BitVec 4 := if c then 1#4 <<< i else 0

/-- Slot k. -/
def Warp.slot (w : Warp) (k : Nat) : Slot := if k = 0 then w.s0 else w.s1

/-- Replace slot k. -/
def Warp.setSlot (w : Warp) (k : Nat) (x : Slot) : Warp := if k = 0 then { w with s0 := x } else { w with s1 := x }

/-- End every lookahead window of the warp (R37). -/
def Warp.endWindows (w : Warp) : Warp :=
  { w with s0 := { w.s0 with windows := [] }, s1 := { w.s1 with windows := [] } }

/-- The value that means "no reconvergence point" (R9). -/
def noRpc : Word := BitVec.allOnes 64

/-- An empty slot. -/
def emptySlot : Slot := {}

/-- pod.state as software reads it (Table 1.9). -/
def Pod.bits (p : Pod) : Word :=
  BitVec.ofNat 64 (b2n p.on + 2 * b2n p.uncond + 4 * p.partner.toNat + 256 * p.seq.toNat)

/-! ### Fields of a capability (Table 5.10) -/

/-- Base address. -/
def Cap.base (c : Cap) : Word := c.bits.extractLsb' 0 64

/-- Length in bytes. -/
def Cap.len (c : Cap) : Word := c.bits.extractLsb' 64 64

/-- Permissions. -/
def Cap.perms (c : Cap) : BitVec 16 := c.bits.extractLsb' 128 16

/-- Object type. -/
def Cap.otype (c : Cap) : BitVec 12 := c.bits.extractLsb' 144 12

/-- Context ID. -/
def Cap.ctx (c : Cap) : BitVec 12 := c.bits.extractLsb' 156 12

/-- Generation. -/
def Cap.gen (c : Cap) : BitVec 24 := c.bits.extractLsb' 168 24

/-- Reserved bits [255:192]. -/
def Cap.rsvd (c : Cap) : Word := c.bits.extractLsb' 192 64

/-- A capability from its fields. -/
def mkCap (rsvd : Word) (gen : BitVec 24) (ctx otype : BitVec 12) (perms : BitVec 16) (len base : Word) (tag : Bool) :
    Cap :=
  { bits := rsvd ++ gen ++ ctx ++ otype ++ perms ++ len ++ base, tag }

/-- Permission bits of Table 5.11. -/
def permR : BitVec 16 := 0x01
/-- Write. -/
def permW : BitVec 16 := 0x02
/-- Execute. -/
def permX : BitVec 16 := 0x04
/-- Load capabilities. -/
def permLC : BitVec 16 := 0x08
/-- Store capabilities. -/
def permSC : BitVec 16 := 0x10
/-- Remote memory. -/
def permRM : BitVec 16 := 0x20
/-- Atomics. -/
def permAT : BitVec 16 := 0x40
/-- Engine operand. -/
def permEN : BitVec 16 := 0x80

/-- A capability as 32 bytes. -/
def Cap.bytes (c : Cap) : List Byte := leBytes 32 c.bits.toNat

/-- A capability from 32 bytes and a tag. -/
def capOf (l : List Byte) (tag : Bool) : Cap := { bits := BitVec.ofNat 256 (leNat l), tag }

/-! ### Warps and blocks of the package -/

/-- The key of a warp. -/
def warpKey (block wid : Nat) : Nat := 64 * block + wid

/-- The block of a warp key. -/
def warpBlock (key : Nat) : Nat := key / 64

/-- The warp.id of a warp key. -/
def warpId (key : Nat) : Nat := key % 64

/-- Write a warp back. -/
def State.putWarp (s : State) (key : Nat) (w : Warp) : State := { s with warps := mapPut s.warps key w }

/-- Change a resident warp. -/
def State.modWarp (s : State) (key : Nat) (f : Warp → Warp) : State := { s with warps := mapModify s.warps key f }

/-- The block of a key; an unlisted one is empty. -/
def State.block (s : State) (key : Nat) : Block :=
  (mapFind s.blocks key).getD
    { ctx := 0, launch := 0, idx := 0, core := 0, wpb := 0, vregs := 0, spu := 0, accb := 0, prio := 0 }

/-- Change a block. -/
def State.modBlock (s : State) (key : Nat) (f : Block → Block) : State := { s with blocks := mapModify s.blocks key f }

/-- What a core owns beside its blocks. -/
def State.core (s : State) (n : Nat) : Core := mapGet {} s.cores n

/-- Write a core back. -/
def State.putCore (s : State) (n : Nat) (c : Core) : State := { s with cores := mapSet {} s.cores n c }

/-- The context of a block. -/
def State.ctxOf (s : State) (block : Nat) : Nat := (s.block block).ctx

/-- Change a live context. -/
def State.modCtx (s : State) (n : Nat) (f : Context → Context) : State := { s with ctxs := mapModify s.ctxs n f }

/-- Named barrier b of a block, as placement sets it where it is not listed (R232). -/
def Block.bar (b : Block) (n : Nat) : Barrier := mapGet { expWarps := b.wpb } b.bars n

/-- Write a named barrier. -/
def Block.setBar (b : Block) (n : Nat) (x : Barrier) : Block := { b with bars := mapSet { expWarps := b.wpb } b.bars n x }

/-- The warps of a block that have not ended, by warp.id. -/
def Block.liveWarps (b : Block) : Word := maskOf fun i => decide (i < b.wpb) && !(inMask b.ended i)

/-! ### The scratchpad of a block -/

/-- Bytes of a block's scratchpad. -/
def Block.scratchSize (b : Block) : Nat := 4096 * b.spu

/-- A byte of the scratchpad that the block has not written and found unwritten: zero in a unit that was flash-cleared
(R358), else a free value (log 5). -/
def Block.scratchRest (b : Block) (i : Nat) : Byte :=
  match b.units[i / 4096]? with
  | some (_, true) => 0
  | some (u, false) => Config.scratchInit b.core (4096 * u + i % 4096)
  | none => Config.scratchInit b.core i

/-- A byte of the scratchpad (R358, R359). -/
def Block.scratchByte (b : Block) (i : Nat) : Byte :=
  match mapFind b.scratch i with
  | some x => x
  | none => b.scratchRest i

/-- The index of a row with an uncorrectable error among rows `lo` to `hi` of a kind (R396). -/
def Block.tornRow (b : Block) (unit lo hi : Nat) : Option Nat :=
  (b.torn.find? fun x => decide (x.1 = unit ∧ lo ≤ x.2.1 ∧ x.2.1 ≤ hi)).map fun x => x.2.2

/-- The same for `n` bytes of the scratchpad, in rows of 256 bytes. -/
def Block.tornBytes (b : Block) (i n : Nat) : Option Nat := b.tornRow 1 (i / 256) ((i + n - 1) / 256)

/-- Read bytes of the scratchpad. -/
def Block.scratchRead (b : Block) (i : Nat) : Nat → List Byte
  | 0 => []
  | n + 1 => b.scratchByte i :: b.scratchRead (i + 1) n

/-- Write bytes of the scratchpad. -/
def Block.scratchWrite (b : Block) (i : Nat) : List Byte → Block
  | [] => b
  | x :: r => { b with scratch := mapPut b.scratch i x }.scratchWrite (i + 1) r

/-- The units of a core's scratchpad that a block of `n` units is given: the lowest ones that no block holds
(log 5). -/
def State.freeUnits (s : State) (core n : Nat) : List Nat :=
  let taken := s.blocks.flatMap fun b => if b.2.core = core then b.2.units.map Prod.fst else []
  ((List.range 128).filter fun u => !(taken.contains u)).take n

/-- A block takes units: it finds in them what their last owners left (R359). -/
def Block.takeUnits (b : Block) (c : Core) (us : List Nat) : Block :=
  let got := us.map fun u => mapGet {} c.spad u
  { b with
    units := us.zip (got.map fun x => x.cleared)
    scratch := (List.range got.length).flatMap fun i => ((got.getD i {}).bytes).map fun e => (4096 * i + e.1, e.2) }

/-- A block gives its units back (R358, R359): those of a protected context are flash-cleared, others keep their bytes. -/
def State.leaveUnits (s : State) (b : Block) : State :=
  let prot := (mapFind s.ctxs b.ctx).any fun c => c.prot
  let c := s.core b.core
  let left := fun (i : Nat) (u : Nat × Bool) =>
    if prot then ({ cleared := true } : SpadUnit)
    else
      { cleared := u.2
        bytes := (b.scratch.filter fun e => decide (e.1 / 4096 = i)).map fun e => (e.1 % 4096, e.2) }
  let spad := (List.range b.units.length).foldl
    (fun m i =>
      let u := b.units.getD i (0, false)
      mapSet {} m u.1 (left i u))
    c.spad
  if b.units.isEmpty then s else s.putCore b.core { c with spad }

/-- A 32-bit word of the scratchpad. -/
def Block.scratchWord (b : Block) (i : Nat) : BitVec 32 := BitVec.ofNat 32 (leNat (b.scratchRead i 4))

/-- The copy ring has published entries that have not completed, and is not halted (R222, R225). -/
def Block.ringBusy (b : Block) : Bool :=
  match b.ring with
  | none => false
  | some r => !b.copies.isEmpty || (r.begun.any fun x => x.2.isSome) || (!r.halted && decide (b.scratchWord r.off ≠ r.finished))

/-! ### Choices and posted events -/

/-- Draw a choice that the manual leaves to the part (log 6). -/
def State.choose (s : State) : Bool × State := (Config.choose s.free, { s with free := s.free + 1 })

/-- Draw a value that the manual leaves unstated (log 7). -/
def State.freeWord (s : State) : Word × State := (Config.freeWord s.free, { s with free := s.free + 1 })

/-- Free values for bytes that an uncorrectable error has destroyed (R257, log 7). -/
def State.freeBytes (s : State) : Nat → List Byte × State
  | 0 => ([], s)
  | n + 1 =>
    let (x, s) := s.freeWord
    let (l, s) := s.freeBytes n
    (x.extractLsb' 0 8 :: l, s)

/-- Add an event to those that have come due. -/
def State.post (s : State) (e : Instr) : State := { s with inbox := s.inbox ++ [e] }

/-- The C-die and cluster of a core number (R8). -/
def clusterOf (core : Nat) : Nat := core / 4

/-- The 720 core numbers in rising order (R8). -/
def coreIds : List Nat := (List.range 4).flatMap fun d => (List.range 180).map fun i => 256 * d + i

end Sys2Proof.Machine
end

