-- ==== Sys2Proof/Machine/Flags.lean ====
section
/-! DEFINITION. arith.flags (Table 1.9, R55): the flags that results raise. -/
namespace Sys2Proof.Machine

/-- Flags that one computation raises, as the bits of arith.flags. -/
abbrev FlagSet := BitVec 4

/-- [0]: an INT32 accumulation saturated. -/
def flagInt : FlagSet := 1

/-- [1]: a malformed INT4X outlier. -/
def flagOutlier : FlagSet := 2

/-- [2]: a NaN was produced. -/
def flagNan : FlagSet := 4

/-- [3]: a result overflowed to infinity or saturated. -/
def flagOvf : FlagSet := 8

/-- The flag of a condition. -/
def flagOn (c : Bool) (f : FlagSet) : FlagSet := if c then f else 0

/-- The flags of the lanes of a mask together. -/
def flagsOf (m : Word) (f : Nat → FlagSet) : FlagSet := (maskLanes m).foldl (fun a i => a ||| f i) 0

/-- A W1C write of arith.flags (R4, R5): a bit that an event of the same cycle has set stands. -/
def Warp.clearFlags (w : Warp) (x : FlagSet) : Warp := { w with flags := w.flags &&& ~~~(x &&& ~~~w.flagsNew) }

end Sys2Proof.Machine
end

