-- ==== Sys2Proof/Machine/Encoding.lean ====
section
/-! DEFINITION. What each instruction's encoding says: its major opcode and FN, the register class that every field
names, the bits of word 2 that it uses, the forms and MOD values that it accepts, and the register fields that count
for the register-range check and the lookahead windows (03 §3.1 to §3.5, and the tables of 04 to 07). -/
namespace Sys2Proof.Machine

/-- A choice between two values. -/
def pick {α : Type} (c : Bool) (x y : α) : α := if c then x else y

/-- The `len` bits of a value from bit `lo` up, as a number. -/
def fld {n : Nat} (x : BitVec n) (lo len : Nat) : Nat := (x.toNat >>> lo) % 2 ^ len

/-- A bit of MOD. -/
def mb (f : Fields) (i : Nat) : Bool := f.mod.getLsbD i

/-- The extended form without a literal. -/
def xf (f : Fields) : Bool := decide (f.form = .ext)

/-- MOD takes one of the listed values. -/
def modIn (f : Fields) (l : List Nat) : Bool := l.contains f.mod.toNat

/-- Only the bits of a mask are set in MOD. -/
def modOnly (f : Fields) (m : Nat) : Bool := decide (f.mod.toNat &&& m = f.mod.toNat)

/-- A count within its range. -/
def inRange (x lo hi : Nat) : Bool := decide (lo ≤ x ∧ x ≤ hi)

/-- What an operand field of word 0 or the C field names (Table 3.4). -/
inductive FieldClass where
  /-- Not used: reserved in full. -/
  | unused
  /-- Bits of an offset or a scope: every value accepted here. -/
  | raw
  /-- A v register. -/
  | v
  /-- An even v register and the next. -/
  | vp
  /-- A quad of v registers, index a multiple of 4. -/
  | vq
  /-- An s register. -/
  | s
  /-- An even s register and the next. -/
  | sp
  /-- An even s register and the next two. -/
  | st
  /-- An even s register and the next three. -/
  | sq
  /-- A p register. -/
  | p
  /-- An h register. -/
  | h
  /-- A c register. -/
  | c
  /-- An n register. -/
  | n
deriving DecidableEq, Repr

/-- The reserved bits of a field that names a class are zero (R77, Table 3.4). -/
def fieldOk (k : FieldClass) (x : BitVec 8) : Bool :=
  match k with
  | .unused => decide (x = 0)
  | .raw => true
  | .v => true
  | .vp => decide (x.toNat % 2 = 0)
  | .vq => decide (x.toNat % 4 = 0)
  | .s => decide (x.toNat < 128)
  | .sp => decide (x.toNat < 128 ∧ x.toNat % 2 = 0)
  | .st => decide (x.toNat ≤ 124 ∧ x.toNat % 2 = 0)
  | .sq => decide (x.toNat ≤ 124 ∧ x.toNat % 2 = 0)
  | .p => decide (x.toNat < 16)
  | .h => decide (x.toNat < 16)
  | .c => decide (x.toNat < 16)
  | .n => decide (x.toNat < 8)

/-- `k` registers of a class from an index up. -/
def regRange (k : RegClass) (i : Nat) : Nat → List Reg
  | 0 => []
  | m + 1 => ⟨k, i⟩ :: regRange k (i + 1) m

/-- The registers that a field names (R36, R77). -/
def fieldRegs (k : FieldClass) (x : BitVec 8) : List Reg :=
  match k with
  | .unused => []
  | .raw => []
  | .v => regRange .v x.toNat 1
  | .vp => regRange .v x.toNat 2
  | .vq => regRange .v x.toNat 4
  | .s => regRange .s x.toNat 1
  | .sp => regRange .s x.toNat 2
  | .st => regRange .s x.toNat 3
  | .sq => regRange .s x.toNat 4
  | .p => regRange .p x.toNat 1
  | .h => regRange .h x.toNat 1
  | .c => regRange .c x.toNat 1
  | .n => regRange .n x.toNat 1

/-- The encoding of an instruction, for the fields that it carries. -/
structure Sig where
  op : Nat
  /-- FN; base majors have none. -/
  fn : Option Nat := none
  /-- Long-latency: LA may be nonzero (R79). -/
  ll : Bool := false
  /-- The form and MOD are defined: check 2 of Table 3.10. -/
  legal : Bool := true
  d : FieldClass := .unused
  a : FieldClass := .unused
  b : FieldClass := .unused
  c : FieldClass := .unused
  /-- The bits of extended word 2 that are used. -/
  w2 : BitVec 32 := 0
  /-- Further reserved-field conditions: check 3. -/
  ok : Bool := true
  /-- The guard field is in use. -/
  guard : Bool := true
  /-- The D field is a destination. -/
  dst : Bool := true
  /-- Registers named in word 2 that are no destination. -/
  srcs : List Reg := []
  /-- Destinations named in word 2. -/
  dsts : List Reg := []
deriving DecidableEq, Repr

/-- v register or pair. -/
def vw (wide : Bool) : FieldClass := if wide then .vp else .v

/-- v register, pair or quad by size code (R172). -/
def vsize (size : Nat) : FieldClass := if size = 5 then .vp else if size = 6 then .vq else .v

/-- The literal obeys the width rule of R81: for a 32-bit operand, its high bits all equal bit 31 or are all zero. -/
def litFits (wide : Bool) (l : BitVec 64) : Bool :=
  wide || decide (l.toNat < 2 ^ 32) || decide (2 ^ 64 - 2 ^ 31 ≤ l.toNat)

/-- bsel of Table 3.5. -/
def bsel (f : Fields) : Nat := fld f.mod 5 2

/-- type of Table 3.5. -/
def btype (f : Fields) : Nat := fld f.mod 0 5

/-- B is replaced by an immediate or literal under a base major (R81). -/
def baseImm (f : Fields) : Bool :=
  match f.form with
  | .base => false
  | .ext => decide (bsel f = 2)
  | .lit => true
  | .extLit => true

/-- The forms and selections of R80, R81 and R85 under a base major: `s1` tells whether B may be an s register. -/
def baseForm (s1 : Bool) (f : Fields) : Bool :=
  match f.form with
  | .base => true
  | .ext => decide (bsel f = 0 ∨ bsel f = 2 ∨ (s1 = true ∧ bsel f = 1))
  | .lit => true
  | .extLit => decide (bsel f = 2)

/-- Word 2 of a base major holds IMM32 only in form 0b01 with bsel 0b10. -/
def baseW2 (f : Fields) : BitVec 32 := pick (xf f && decide (bsel f = 2)) 0xFFFFFFFF#32 0#32

/-- A literal stands in the instruction. -/
def hasLit (f : Fields) : Bool := decide (f.form = .lit ∨ f.form = .extLit)

/-- Scalar base majors (R108): types up to `tmax`. -/
def scalarSig (op tmax : Nat) (f : Fields) : Sig :=
  { op, legal := baseForm false f && decide (btype f ≤ tmax), d := .s, a := .s, b := pick (baseImm f) .unused .s
    w2 := baseW2 f, ok := !(hasLit f) || litFits (decide (btype f / 2 % 2 = 0)) f.lit }

/-- SMOV: forms 0b00 and 0b01 with MOD zero (R108). -/
def smovSig (f : Fields) : Sig :=
  { op := 0x0C, legal := decide (f.form = .base) || (xf f && modIn f [0]), d := .s, a := .s }

/-- Vector integer base majors (R145). -/
def vectorSig (op : Nat) (types : Nat → Bool) (f : Fields) : Sig :=
  let w := decide (btype f / 2 % 2 = 1)
  { op, legal := baseForm true f && types (btype f), d := vw w, a := vw w
    b := pick (baseImm f) .unused (pick (decide (bsel f = 1)) .s (vw w))
    w2 := baseW2 f, ok := !(hasLit f) || litFits w f.lit }

/-- VMOV: form 0b00, or form 0b01 with bsel 0b00 and types 0 and 2 (R145). -/
def vmovSig (f : Fields) : Sig :=
  { op := 0x1C, legal := decide (f.form = .base) || (xf f && modIn f [0, 2])
    d := vw (decide (btype f = 2)), a := vw (decide (btype f = 2)) }

/-- Float and packed BF16 base majors (R153): `dbl` tells whether .f64 exists. -/
def floatSig (op : Nat) (types : Nat → Bool) (dbl : Bool) (f : Fields) : Sig :=
  let w := dbl && decide (btype f / 4 % 2 = 1)
  { op, legal := baseForm true f && types (btype f), d := vw w, a := vw w
    b := pick (baseImm f) .unused (pick (decide (bsel f = 1)) .s (vw w))
    w2 := baseW2 f, ok := !(hasLit f) || litFits w f.lit }

/-- Predicate base majors (R118). -/
def predSig (op : Nat) (f : Fields) : Sig :=
  { op, legal := baseForm true f && decide (btype f ≤ 1), d := .p, a := .p
    b := pick (baseImm f) .unused (pick (decide (bsel f = 1)) .s .p), w2 := baseW2 f }

/-- The assigned control register indices of Table 1.9. -/
def csrAssigned (i : Nat) : Bool :=
  [0x000, 0x001, 0x002, 0x003, 0x004, 0x005, 0x006, 0x007, 0x008, 0x010, 0x011, 0x012, 0x013, 0x020, 0x021, 0x022,
   0x030, 0x031, 0x040, 0x041, 0x042, 0x043, 0x050, 0x051, 0x060, 0x070, 0x080, 0x081].contains i

/-- lane.id has lane scope (R43). -/
def csrLane (i : Nat) : Bool := decide (i = 0)

/-- The destination class of CSRR (R136). -/
def csrrDest (f : Fields) : FieldClass :=
  if f.mod = 0 then .s else if f.mod = 1 then .v else .vp

/-- Formats of FCVT (R160). -/
def cvtFmt (x : Nat) : Bool := [3, 4, 5, 6, 7, 10, 11, 14, 15].contains x

/-- Float formats of F2I and I2F (R160). -/
def intFmt (x : Nat) : Bool := [10, 11, 14, 15].contains x

/-- Elements of a format in its register (R161). -/
def fmtCount (x : Nat) : Nat :=
  if x = 3 then 8 else if x = 4 ∨ x = 5 ∨ x = 6 ∨ x = 7 then 4 else if x = 10 ∨ x = 11 then 2 else 1

/-- The scope of an ordered access is defined (Table 5.14). -/
def orderLegal (f : Fields) : Bool := decide (fld f.mod 4 2 = 0 ∨ fld f.c 0 3 ≠ 7)

/-- C[7:3] names a set under .set and is zero otherwise (R172). -/
def orderSet (f : Fields) : Bool := decide (fld f.mod 4 2 = 0 ∨ fld f.c 0 3 = 1 ∨ fld f.c 3 5 = 0)

/-- The slot and barrier numbers of a copy are not reserved (R226). -/
def copyFields (f : Fields) : Bool :=
  decide (fld f.w2 0 4 ≤ 8 ∧ fld f.w2 4 4 ≤ 8 ∧ (fld f.w2 8 5 ≤ 15 ∨ fld f.w2 8 5 = 31))

/-- Operators and types of CPYR (Table 7.5). -/
def copyOp (op ty : Nat) : Bool :=
  match op with
  | 0 => [0, 2].contains ty
  | 1 => [0, 1, 2, 3].contains ty
  | 2 => [0, 1, 2, 3].contains ty
  | 3 => [4, 5].contains ty
  | 4 => [4].contains ty
  | 5 => [1, 3].contains ty
  | _ => false

/-- Operators and types of GRED (Table 7.16). -/
def gridRedOp (op ty : Nat) : Bool :=
  match op with
  | 0 => [0, 1].contains ty
  | 1 => [0, 1, 2, 3].contains ty
  | 2 => [0, 1, 2, 3].contains ty
  | 3 => [4, 5].contains ty
  | 4 => [4].contains ty
  | 5 => [4].contains ty
  | 6 => [0, 1, 2, 3].contains ty
  | _ => false

/-- The offset register X of a grid access: s under .u, else v (R240). -/
def gridReg (u : Bool) (f : Fields) : Reg := ⟨pick u .s .v, fld f.w2 4 8⟩

/-- An s register named by X has bit 7 clear. -/
def gridOff (u : Bool) (f : Fields) : Bool := !u || decide (fld f.w2 4 8 < 128)

/-- The encoding and the fields of a native instruction; none for every other row of the table. The manual does not say
whether D of an ATOM.nr or ATOMS.nr other than .cas, which is neither read nor written, is then reserved: the model
accepts any v register there (DESIGN CHOICE, log 45). Nor does it say whether IMM32[31:16] of CPERM.imm is reserved (R184):
the model accepts and ignores any value there (DESIGN CHOICE, log 45). -/
def nativeSig (i : Instr) : Option (Fields × Sig) :=
  match i with
  | .sadd f => some (f, scalarSig 0x00 7 f)
  | .ssub f => some (f, scalarSig 0x01 7 f)
  | .smul f => some (f, scalarSig 0x02 3 f)
  | .smulh f => some (f, scalarSig 0x03 3 f)
  | .sand f => some (f, scalarSig 0x04 0 f)
  | .sor f => some (f, scalarSig 0x05 0 f)
  | .sxor f => some (f, scalarSig 0x06 0 f)
  | .sshl f => some (f, scalarSig 0x07 3 f)
  | .sshr f => some (f, scalarSig 0x08 3 f)
  | .ssra f => some (f, scalarSig 0x09 3 f)
  | .smin f => some (f, scalarSig 0x0a 3 f)
  | .smax f => some (f, scalarSig 0x0b 3 f)
  | .smov f => some (f, smovSig f)
  | .srot f => some (f, scalarSig 0x0d 3 f)
  | .sdiv f => some (f, scalarSig 0x0e 3 f)
  | .srem f => some (f, scalarSig 0x0f 3 f)
  | .vadd f => some (f, vectorSig 0x10 (fun ty => decide (ty ≤ 7)) f)
  | .vsub f => some (f, vectorSig 0x11 (fun ty => decide (ty ≤ 7)) f)
  | .vmul f => some (f, vectorSig 0x12 (fun ty => decide (ty ≤ 3)) f)
  | .vmulh f => some (f, vectorSig 0x13 (fun ty => decide (ty ≤ 3)) f)
  | .vand f => some (f, vectorSig 0x14 (fun ty => decide (ty = 0 ∨ ty = 2)) f)
  | .vor f => some (f, vectorSig 0x15 (fun ty => decide (ty = 0 ∨ ty = 2)) f)
  | .vxor f => some (f, vectorSig 0x16 (fun ty => decide (ty = 0 ∨ ty = 2)) f)
  | .vshl f => some (f, vectorSig 0x17 (fun ty => decide (ty ≤ 3)) f)
  | .vshr f => some (f, vectorSig 0x18 (fun ty => decide (ty ≤ 3)) f)
  | .vsra f => some (f, vectorSig 0x19 (fun ty => decide (ty ≤ 3)) f)
  | .vmin f => some (f, vectorSig 0x1a (fun ty => decide (ty ≤ 3)) f)
  | .vmax f => some (f, vectorSig 0x1b (fun ty => decide (ty ≤ 3)) f)
  | .vmov f => some (f, vmovSig f)
  | .fadd f => some (f, floatSig 0x1d (fun ty => decide (ty < 16)) true f)
  | .fsub f => some (f, floatSig 0x1e (fun ty => decide (ty < 16)) true f)
  | .fmul f => some (f, floatSig 0x1f (fun ty => decide (ty < 16)) true f)
  | .fmin f => some (f, floatSig 0x20 (fun ty => decide (ty = 0 ∨ ty = 4)) true f)
  | .fmax f => some (f, floatSig 0x21 (fun ty => decide (ty = 0 ∨ ty = 4)) true f)
  | .pand f => some (f, predSig 0x22 f)
  | .por f => some (f, predSig 0x23 f)
  | .pxor f => some (f, predSig 0x24 f)
  | .pandn f => some (f, predSig 0x25 f)
  | .hadd2 f => some (f, floatSig 0x26 (fun ty => decide (ty < 4 ∨ 8 ≤ ty ∧ ty < 12)) false f)
  | .hmul2 f => some (f, floatSig 0x27 (fun ty => decide (ty < 4 ∨ 8 ≤ ty ∧ ty < 12)) false f)
  | .sclz f => some (f, { op := 0x28, fn := some 0, legal := xf f && modIn f [0, 2], d := .s, a := .s })
  | .spopc f => some (f, { op := 0x28, fn := some 1, legal := xf f && modIn f [0, 2], d := .s, a := .s })
  | .sbfe f => some (f,
      { op := 0x28, fn := some 2, legal := xf f && modOnly f 3, d := .s, a := .s, b := pick (mb f 1) .s .unused
        c := pick (mb f 1) .s .unused, w2 := pick (mb f 1) 0#32 0x7F3F#32
        ok := mb f 1 || decide (fld f.w2 8 7 ≤ 64) })
  | .sbfi f => some (f,
      { op := 0x28, fn := some 3, legal := xf f && modOnly f 2, d := .s, a := .s, b := pick (mb f 1) .s .unused
        c := pick (mb f 1) .s .unused, w2 := pick (mb f 1) 0#32 0x7F3F#32
        ok := mb f 1 || decide (fld f.w2 8 7 ≤ 64) })
  | .ssel f => some (f,
      { op := 0x28, fn := some 4, legal := xf f && modIn f [0], d := .s, a := .s, b := .s, c := .p })
  | .sli f => some (f,
      { op := 0x28, fn := some 5
        legal := (xf f || decide (f.form = .extLit)) && modIn f [0, 1] && (xf f || modIn f [0]), d := .s
        w2 := pick (xf f) 0xFFFFFFFF#32 0#32 })
  | .slea f => some (f,
      { op := 0x28, fn := some 6, legal := (xf f || decide (f.form = .extLit)) && modOnly f 31 && (xf f || mb f 4)
        d := .s, a := pick (mb f 3) .unused .s, b := pick (mb f 4) .unused .s
        w2 := pick (xf f && mb f 4) 0xFFFFFFFF#32 0#32 })
  | .scmp f => some (f,
      { op := 0x28, fn := some 7
        legal := (xf f || decide (f.form = .extLit)) && decide (fld f.mod 0 3 ≤ 5) && modOnly f 63 && (xf f || mb f 4)
        d := .p, a := .s, b := pick (mb f 4) .unused .s, w2 := pick (xf f && mb f 4) 0xFFFFFFFF#32 0#32 })
  | .pnot f => some (f, { op := 0x29, fn := some 0, legal := xf f && modOnly f 1, d := .p, a := .p })
  | .pmov f => some (f,
      { op := 0x29, fn := some 1, legal := xf f && modIn f [0, 1, 2], d := pick (mb f 1) .s .p, a := .p })
  | .pset f => some (f,
      { op := 0x29, fn := some 2, legal := xf f && modOnly f 3, d := .p, a := pick (mb f 1) .unused .s
        w2 := pick (mb f 1) 0xFFFFFFFF#32 0#32 })
  | .pcnt f => some (f, { op := 0x29, fn := some 3, legal := xf f && modOnly f 1, d := .s, a := .p })
  | .pff f => some (f, { op := 0x29, fn := some 4, legal := xf f && modOnly f 1, d := .s, a := .p })
  | .bra f => some (f,
      { op := 0x2a, fn := some 0, legal := (xf f || decide (f.form = .extLit)) && modIn f [0]
        w2 := pick (xf f) 0xFFFFFFFC#32 0#32, ok := xf f || decide (fld f.lit 0 2 = 0) })
  | .brc f => some (f,
      { op := 0x2a, fn := some 1, legal := (xf f || decide (f.form = .extLit)) && modIn f [0, 1, 2], a := .p
        w2 := pick (xf f) 0xFFFFFFFC#32 0#32, ok := xf f || decide (fld f.lit 0 2 = 0) })
  | .brv f => some (f,
      { op := 0x2a, fn := some 2, legal := xf f, a := .p, b := .raw, c := .raw, w2 := 0xFFFFFFFC#32 })
  | .rcv f => some (f,
      { op := 0x2a, fn := some 3, legal := xf f && modOnly f 1, w2 := pick (mb f 0) 0#32 0xFFFFFFFC#32
        guard := false })
  | .call f => some (f,
      { op := 0x2a, fn := some 4, legal := (xf f || decide (f.form = .extLit)) && modIn f [0], d := .s
        w2 := pick (xf f) 0xFFFFFFFC#32 0#32, ok := xf f || decide (fld f.lit 0 2 = 0) })
  | .callx f => some (f, { op := 0x2a, fn := some 5, legal := xf f && modIn f [0], d := .s, a := .s })
  | .ret f => some (f, { op := 0x2a, fn := some 6, legal := xf f && modIn f [0], a := .s })
  | .jmpx f => some (f, { op := 0x2a, fn := some 7, legal := xf f && modIn f [0], a := .s })
  | .exit f => some (f, { op := 0x2a, fn := some 8, legal := xf f && modIn f [0] })
  | .nop f => some (f, { op := 0x2b, fn := some 0, legal := xf f && modIn f [0] })
  | .yld f => some (f, { op := 0x2b, fn := some 1, legal := xf f && modIn f [0], w2 := 0xFFFF#32 })
  | .dpsh f => some (f, { op := 0x2b, fn := some 2, legal := xf f && modIn f [0], a := .s, b := .s, c := .s })
  | .dpop f => some (f, { op := 0x2b, fn := some 3, legal := xf f && modIn f [0], d := .s, a := .s, b := .s })
  | .bkpt f => some (f, { op := 0x2b, fn := some 4, legal := xf f && modIn f [0], w2 := 0xFFFF#32 })
  | .trap f => some (f, { op := 0x2b, fn := some 5, legal := xf f && modIn f [0], w2 := 0x7FFF#32 })
  | .rtt f => some (f, { op := 0x2b, fn := some 6, legal := xf f && modIn f [0], guard := false })
  | .csrr f => some (f,
      { op := 0x2b, fn := some 7
        legal := xf f && modIn f [0, 1, 2] && csrAssigned (fld f.w2 0 12) && !(modIn f [0] && csrLane (fld f.w2 0 12))
        d := csrrDest f, w2 := 0xFFF#32 })
  | .csrw f => some (f,
      { op := 0x2b, fn := some 8, legal := xf f && modIn f [0] && csrAssigned (fld f.w2 0 12), a := .s
        w2 := 0xFFF#32 })
  | .clock f => some (f, { op := 0x2b, fn := some 9, legal := xf f && modIn f [0], d := .s })
  | .vmad f => some (f,
      { op := 0x2c, fn := some 0, legal := xf f && modOnly f 13, d := vw (mb f 3), a := .v, b := .v
        c := vw (mb f 3) })
  | .vabs f => some (f, { op := 0x2c, fn := some 1, legal := xf f && modOnly f 4, d := .v, a := .v })
  | .vneg f => some (f, { op := 0x2c, fn := some 2, legal := xf f && modOnly f 4, d := .v, a := .v })
  | .vclz f => some (f, { op := 0x2c, fn := some 3, legal := xf f && modIn f [0], d := .v, a := .v })
  | .vpopc f => some (f, { op := 0x2c, fn := some 4, legal := xf f && modIn f [0], d := .v, a := .v })
  | .vbfe f => some (f,
      { op := 0x2c, fn := some 5, legal := xf f && modOnly f 3, d := .v, a := .v, b := pick (mb f 1) .v .unused
        c := pick (mb f 1) .v .unused, w2 := pick (mb f 1) 0#32 0x3F1F#32
        ok := mb f 1 || decide (fld f.w2 8 6 ≤ 32) })
  | .vbfi f => some (f,
      { op := 0x2c, fn := some 6, legal := xf f && modOnly f 2, d := .v, a := .v, b := pick (mb f 1) .v .unused
        c := pick (mb f 1) .v .unused, w2 := pick (mb f 1) 0#32 0x3F1F#32
        ok := mb f 1 || decide (fld f.w2 8 6 ≤ 32) })
  | .vsel f => some (f,
      { op := 0x2c, fn := some 7, legal := xf f && modOnly f 1, d := vw (mb f 0), a := vw (mb f 0)
        b := vw (mb f 0), c := .p })
  | .vcmp f => some (f,
      { op := 0x2c, fn := some 8
        legal := (xf f || decide (f.form = .extLit)) && decide (fld f.mod 0 3 ≤ 5) && !(mb f 4 && mb f 6) && (xf f || mb f 4)
        d := .p, a := vw (mb f 5), b := pick (mb f 4) .unused (pick (mb f 6) .s (vw (mb f 5)))
        w2 := pick (xf f && mb f 4) 0xFFFFFFFF#32 0#32, ok := xf f || litFits (mb f 5) f.lit })
  | .vbcst f => some (f,
      { op := 0x2c, fn := some 9, legal := (xf f || decide (f.form = .extLit)) && modOnly f 3 && (xf f || mb f 1)
        d := vw (mb f 0), a := pick (mb f 1) .unused .s, w2 := pick (xf f && mb f 1) 0xFFFFFFFF#32 0#32
        ok := xf f || litFits (mb f 0) f.lit })
  | .vshf f => some (f,
      { op := 0x2d, fn := some 0, legal := xf f && modOnly f 0x73 && decide (fld f.mod 4 3 ≤ 5), d := .v, a := .v
        b := pick (decide (fld f.mod 0 2 = 0)) .v .unused, w2 := pick (decide (fld f.mod 0 2 = 0)) 0#32 0x3F#32 })
  | .vred f => some (f,
      { op := 0x2d, fn := some 1, legal := xf f && decide (fld f.mod 0 4 ≤ 10) && decide (fld f.mod 4 3 ≤ 5)
        d := .v, a := .v })
  | .vscan f => some (f,
      { op := 0x2d, fn := some 2, legal := xf f && decide (fld f.mod 0 4 ≤ 10) && decide (fld f.mod 4 3 ≤ 5)
        d := .v, a := .v, w2 := 1#32 })
  | .vdot4 f => some (f,
      { op := 0x2d, fn := some 3, legal := xf f && modOnly f 7, d := .v, a := .v, b := .v, c := .v })
  | .ffma f => some (f,
      { op := 0x2e, fn := some 0, legal := xf f && modOnly f 15, d := vw (mb f 2), a := vw (mb f 2)
        b := vw (mb f 2), c := vw (mb f 2) })
  | .fabs f => some (f,
      { op := 0x2e, fn := some 1, legal := xf f && modOnly f 4, d := vw (mb f 2), a := vw (mb f 2) })
  | .fneg f => some (f,
      { op := 0x2e, fn := some 2, legal := xf f && modOnly f 4, d := vw (mb f 2), a := vw (mb f 2) })
  | .fcmp f => some (f,
      { op := 0x2e, fn := some 3, legal := (xf f || decide (f.form = .extLit)) && modOnly f 31 && (xf f || mb f 4)
        d := .p, a := vw (mb f 3), b := pick (mb f 4) .unused (vw (mb f 3))
        w2 := pick (xf f && mb f 4) 0xFFFFFFFF#32 0#32, ok := xf f || litFits (mb f 3) f.lit })
  | .fclass f => some (f, { op := 0x2e, fn := some 4, legal := xf f && modOnly f 4, d := .v, a := vw (mb f 2) })
  | .fscale f => some (f,
      { op := 0x2e, fn := some 5, legal := xf f && modOnly f 15, d := vw (mb f 2), a := vw (mb f 2), b := .v })
  | .frnd f => some (f,
      { op := 0x2e, fn := some 6, legal := xf f && modOnly f 7, d := vw (mb f 2), a := vw (mb f 2) })
  | .hfma2 f => some (f,
      { op := 0x2e, fn := some 7, legal := xf f && modOnly f 11, d := .v, a := .v, b := .v, c := .v })
  | .frcp f => some (f,
      { op := 0x2f, fn := some 0, ll := true, legal := xf f && modOnly f 7, d := vw (mb f 2), a := vw (mb f 2) })
  | .frsq f => some (f,
      { op := 0x2f, fn := some 1, ll := true, legal := xf f && modOnly f 7, d := vw (mb f 2), a := vw (mb f 2) })
  | .fsqrt f => some (f,
      { op := 0x2f, fn := some 2, ll := true, legal := xf f && modOnly f 7, d := vw (mb f 2), a := vw (mb f 2) })
  | .fexp2 f => some (f, { op := 0x2f, fn := some 3, ll := true, legal := xf f && modIn f [0], d := .v, a := .v })
  | .flog2 f => some (f, { op := 0x2f, fn := some 4, ll := true, legal := xf f && modIn f [0], d := .v, a := .v })
  | .fsin f => some (f, { op := 0x2f, fn := some 5, ll := true, legal := xf f && modIn f [0], d := .v, a := .v })
  | .fcos f => some (f, { op := 0x2f, fn := some 6, ll := true, legal := xf f && modIn f [0], d := .v, a := .v })
  | .ftanh f => some (f, { op := 0x2f, fn := some 7, ll := true, legal := xf f && modIn f [0], d := .v, a := .v })
  | .fcvt f => some (f,
      { op := 0x30, fn := some 0, legal := xf f && modOnly f 15 && cvtFmt (fld f.w2 0 4) && cvtFmt (fld f.w2 4 4)
        d := vw (decide (fld f.w2 0 4 = 15)), a := vw (decide (fld f.w2 4 4 = 15)), b := pick (mb f 3) .v .unused
        w2 := 0x77FF#32
        ok := decide (fld f.w2 8 3 < fmtCount (fld f.w2 0 4)) && decide (fld f.w2 12 3 < fmtCount (fld f.w2 4 4)) })
  | .f2i f => some (f,
      { op := 0x30, fn := some 1, legal := xf f && modOnly f 3 && intFmt (fld f.w2 0 4)
        d := vw (decide (6 ≤ fld f.w2 4 3)), a := vw (decide (fld f.w2 0 4 = 15)), w2 := 0x17F#32 })
  | .i2f f => some (f,
      { op := 0x30, fn := some 2, legal := xf f && modOnly f 3 && intFmt (fld f.w2 0 4)
        d := vw (decide (fld f.w2 0 4 = 15)), a := vw (decide (6 ≤ fld f.w2 4 3)), w2 := 0x17F#32 })
  | .ld f => some (f,
      { op := 0x31, fn := some 0, ll := true
        legal := xf f && decide (fld f.mod 0 3 ≤ 6) && decide (fld f.mod 4 2 ≤ 1) && orderLegal f
        d := vsize (fld f.mod 0 3), a := pick (mb f 3) .s .v, b := .c
        c := pick (decide (fld f.mod 4 2 = 0)) .unused .raw, w2 := 0xFFFFFFFF#32, ok := orderSet f })
  | .st f => some (f,
      { op := 0x31, fn := some 1, ll := true
        legal := xf f && [0, 2, 4, 5, 6].contains (fld f.mod 0 3) && decide (fld f.mod 4 2 ≤ 1) && orderLegal f
        d := vsize (fld f.mod 0 3), a := pick (mb f 3) .s .v, b := .c
        c := pick (decide (fld f.mod 4 2 = 0)) .unused .raw, w2 := 0xFFFFFFFF#32, ok := orderSet f, dst := false })
  | .ldk f => some (f,
      { op := 0x31, fn := some 2, ll := true
        legal := xf f && decide (fld f.mod 0 3 ≤ 5) && modOnly f 0x37 && decide (fld f.mod 4 2 ≤ 1) && orderLegal f
        d := .s, a := .s, b := .c, c := pick (decide (fld f.mod 4 2 = 0)) .unused .raw, w2 := 0xFFFFFFFF#32
        ok := orderSet f })
  | .pref f => some (f,
      { op := 0x31, fn := some 3, ll := true, legal := xf f && modOnly f 9, a := pick (mb f 3) .s .v, b := .c
        w2 := 0xFFFFFFFF#32 })
  | .cflush f => some (f,
      { op := 0x31, fn := some 4, ll := true, legal := xf f && modOnly f 1, a := .s, b := .c, c := .s
        w2 := 0xFFFFFFFF#32 })
  | .lds f => some (f,
      { op := 0x32, fn := some 0, ll := true
        legal := xf f && decide (fld f.mod 0 3 ≤ 6) && decide (fld f.mod 4 2 ≤ 1) && orderLegal f
        d := vsize (fld f.mod 0 3), a := pick (mb f 3) .s .v, c := pick (decide (fld f.mod 4 2 = 0)) .unused .raw
        w2 := 0xFFFFFFFF#32, ok := orderSet f })
  | .sts f => some (f,
      { op := 0x32, fn := some 1, ll := true
        legal := xf f && [0, 2, 4, 5, 6].contains (fld f.mod 0 3) && decide (fld f.mod 4 2 ≤ 1) && orderLegal f
        d := vsize (fld f.mod 0 3), a := pick (mb f 3) .s .v, c := pick (decide (fld f.mod 4 2 = 0)) .unused .raw
        w2 := 0xFFFFFFFF#32, ok := orderSet f, dst := false })
  | .atom f => some (f,
      { op := 0x33, fn := some 0, ll := true
        legal := xf f && decide (fld f.mod 0 4 ≤ 10) && decide (fld f.w2 16 3 ≠ 7) && decide (fld f.w2 19 3 ≤ 4)
        d := vw (mb f 4), a := pick (mb f 5) .s .v, b := .c, c := vw (mb f 4), w2 := 0x7FFFFFF#32
        dst := !(mb f 6) || decide (fld f.mod 0 4 = 9) })
  | .atoms f => some (f,
      { op := 0x33, fn := some 1, ll := true
        legal := xf f && decide (fld f.mod 0 4 ≤ 10) && decide (fld f.w2 16 3 ≠ 7) && decide (fld f.w2 19 3 ≤ 4)
        d := vw (mb f 4), a := pick (mb f 5) .s .v, c := vw (mb f 4), w2 := 0x7FFFFFF#32
        dst := !(mb f 6) || decide (fld f.mod 0 4 = 9) })
  | .fence f => some (f,
      { op := 0x33, fn := some 2, ll := true, legal := xf f && modOnly f 3 && decide (fld f.w2 0 3 ≠ 7)
        w2 := 0xFF#32 })
  | .cld f => some (f,
      { op := 0x34, fn := some 0, ll := true, legal := xf f && modIn f [0], d := .c, a := .s, b := .c
        w2 := 0xFFFFFFFF#32 })
  | .cst f => some (f,
      { op := 0x34, fn := some 1, ll := true, legal := xf f && modIn f [0], a := .s, b := .c, c := .c
        w2 := 0xFFFFFFFF#32 })
  | .cmov f => some (f, { op := 0x34, fn := some 2, legal := xf f && modIn f [0], d := .c, a := .c })
  | .cbnd f => some (f,
      { op := 0x34, fn := some 3, legal := xf f && modOnly f 1, d := .c, a := .c, b := .s
        c := pick (mb f 0) .unused .s, w2 := pick (mb f 0) 0xFFFFFFFF#32 0#32 })
  | .cperm f => some (f,
      { op := 0x34, fn := some 4, legal := xf f && modOnly f 1, d := .c, a := .c, b := pick (mb f 0) .unused .s
        w2 := pick (mb f 0) 0xFFFFFFFF#32 0#32 })
  | .cget f => some (f, { op := 0x34, fn := some 5, legal := xf f && decide (f.mod.toNat ≤ 6), d := .s, a := .c })
  | .ctest f => some (f,
      { op := 0x34, fn := some 6, legal := xf f && modIn f [0, 1], d := .p, a := .c, b := pick (mb f 0) .c .unused })
  | .cseal f => some (f, { op := 0x34, fn := some 7, legal := xf f && modOnly f 1, d := .c, a := .c, b := .c })
  | .wld f => some (f,
      { op := 0x35, fn := some 0, ll := true, legal := xf f && modIn f [0] && decide (fld f.w2 0 4 < 12), d := .h
        a := .s, b := .c, c := .s, w2 := 0x1FFFF#32 })
  | .wscl f => some (f, { op := 0x35, fn := some 1, ll := true, legal := xf f && modIn f [0], a := .s, b := .c })
  | .wsclNone f => some (f, { op := 0x35, fn := some 1, ll := true, legal := xf f && modIn f [1] })
  | .mma f => some (f,
      { op := 0x35, fn := some 2, ll := true, legal := xf f && modOnly f 15, d := .h, a := .sp, b := .c, c := .h
        w2 := 0xFFFF#32 })
  | .mmag f => some (f,
      { op := 0x35, fn := some 3, ll := true, legal := xf f && modIn f [0], d := .h, a := .s, b := .c
        w2 := 0xFFF#32 })
  | .mmap f => some (f,
      { op := 0x35, fn := some 4, ll := true, legal := xf f && modOnly f 7, d := .h, a := .sp, b := .c, c := .sp
        w2 := 0x7FFFFFFF#32, srcs := [⟨.c, fld f.w2 12 4⟩] })
  | .msl f => some (f,
      { op := 0x35, fn := some 5, ll := true
        legal := xf f && modOnly f 3 && decide (12 ≤ fld f.w2 16 4) && (!(mb f 1) || decide (fld f.w2 16 4 < 14))
        d := .h, a := .sp, b := .c, c := .st, w2 := 0x7FFFFF#32, srcs := [⟨.c, fld f.w2 12 4⟩] })
  | .aalloc f => some (f,
      { op := 0x36, fn := some 0, ll := true, legal := xf f && modIn f [0], a := .s, w2 := 0x7F#32
        ok := inRange (fld f.w2 0 7) 1 64 })
  | .afree f => some (f,
      { op := 0x36, fn := some 1, ll := true, legal := xf f && modIn f [0], a := .s, w2 := 0x7F#32
        ok := inRange (fld f.w2 0 7) 1 64 })
  | .awin f => some (f,
      { op := 0x36, fn := some 2, ll := true, legal := xf f && modIn f [0], a := .s, b := .s, c := .s })
  | .azero f => some (f,
      { op := 0x36, fn := some 3, ll := true, legal := xf f && modIn f [0], a := .s, w2 := 0x1FFFFFF#32
        ok := inRange (fld f.w2 12 13) 1 4096 })
  | .lda f => some (f,
      { op := 0x36, fn := some 4, ll := true, legal := xf f && modIn f [0], d := .v, a := .s, w2 := 0xFFFFFFFF#32 })
  | .sta f => some (f,
      { op := 0x36, fn := some 5, ll := true, legal := xf f && modIn f [0], d := .v, a := .s, w2 := 0xFFFFFFFF#32
        dst := false })
  | .aepi f => some (f,
      { op := 0x37, fn := some 0, ll := true
        legal := xf f && [6, 7, 8, 9, 10, 11, 13, 14].contains (fld f.w2 12 4), d := .h, a := .sp, b := .c
        c := pick (mb f 1) .s .unused, w2 := 0x3FFFFF#32 })
  | .agui f => some (f,
      { op := 0x37, fn := some 1, ll := true, legal := xf f && modIn f [0], d := .h, a := .s, w2 := 0x1FFFFFF#32
        ok := inRange (fld f.w2 12 13) 1 4096 })
  | .atopk f => some (f,
      { op := 0x37, fn := some 2, ll := true, legal := xf f && modOnly f 15, a := .s, b := .s, w2 := 0x1FFFFFF#32
        ok := inRange (fld f.mod 0 4) 1 8 && inRange (fld f.w2 12 13) 1 4096 })
  | .atksRd f => some (f,
      { op := 0x37, fn := some 3, ll := true, legal := xf f && modIn f [0], d := .h, a := .s, b := .c, c := .s
        w2 := 0x1FFF#32, ok := inRange (fld f.w2 0 13) 1 4096 })
  | .atksWr f => some (f,
      { op := 0x37, fn := some 3, ll := true, legal := xf f && modIn f [1], d := .h, a := .s, b := .c, c := .s
        w2 := 0x1FFF#32, ok := inRange (fld f.w2 0 13) 1 4096 })
  | .mfence f => some (f, { op := 0x38, fn := some 0, ll := true, legal := xf f && modIn f [0], d := .s })
  | .mwait f => some (f, { op := 0x38, fn := some 1, ll := true, legal := xf f && modIn f [0], a := .h })
  | .mwaitB f => some (f, { op := 0x38, fn := some 1, ll := true, legal := xf f && modIn f [1], a := .s })
  | .htest f => some (f, { op := 0x38, fn := some 2, ll := true, legal := xf f && modIn f [0], d := .s, a := .h })
  | .hcancel f => some (f, { op := 0x38, fn := some 3, ll := true, legal := xf f && modIn f [0], d := .s, a := .h })
  | .hmov f => some (f, { op := 0x38, fn := some 4, ll := true, legal := xf f && modIn f [0], d := .h, a := .h })
  | .podC f => some (f, { op := 0x38, fn := some 5, ll := true, legal := xf f && modIn f [0], a := .s })
  | .podU f => some (f, { op := 0x38, fn := some 5, ll := true, legal := xf f && modIn f [1], a := .s })
  | .podOff f => some (f, { op := 0x38, fn := some 5, ll := true, legal := xf f && modIn f [2] })
  | .cpy f => some (f,
      { op := 0x39, fn := some 0, ll := true, legal := xf f && modIn f [0], d := .s, a := .sp, b := .s
        w2 := 0x1FFF#32, ok := copyFields f })
  | .cpyInit f => some (f,
      { op := 0x39, fn := some 0, ll := true, legal := xf f && modIn f [1], a := .s, w2 := 0xF#32 })
  | .cpyCap f => some (f, { op := 0x39, fn := some 0, ll := true, legal := xf f && modIn f [2], b := .c, w2 := 7#32 })
  | .cpyt f => some (f,
      { op := 0x39, fn := some 1, ll := true, legal := xf f && modIn f [0], d := .s, a := .sp, b := .s, c := .sp
        w2 := 0x1FFF#32, ok := copyFields f })
  | .cpyg f => some (f,
      { op := 0x39, fn := some 2, ll := true, legal := xf f && modIn f [0], d := .s, a := .sp, b := .s, c := .s
        w2 := 0x1FFF#32, ok := copyFields f })
  | .cpyx f => some (f,
      { op := 0x39, fn := some 3, ll := true, legal := xf f && modIn f [0], d := .s, a := .sp, b := .s, c := .s
        w2 := 0x1FFF#32, ok := copyFields f })
  | .cpyr f => some (f,
      { op := 0x39, fn := some 4, ll := true
        legal := xf f && modOnly f 63 && copyOp (fld f.mod 0 3) (fld f.mod 3 3), d := .s, a := .sp, b := .s
        w2 := 0x1FFF#32, ok := copyFields f })
  | .bari f => some (f,
      { op := 0x3a, fn := some 0, ll := true, legal := xf f && modIn f [0], a := .s, b := .s, w2 := 0xF#32 })
  | .bara f => some (f, { op := 0x3a, fn := some 1, ll := true, legal := xf f && modIn f [0], d := .s, w2 := 0xF#32 })
  | .barw f => some (f, { op := 0x3a, fn := some 2, ll := true, legal := xf f && modIn f [0], a := .s, w2 := 0xF#32 })
  | .bart f => some (f, { op := 0x3a, fn := some 3, ll := true, legal := xf f && modOnly f 1, d := .s, w2 := 0xF#32 })
  | .sbarInit f => some (f,
      { op := 0x3a, fn := some 4, ll := true, legal := xf f && modIn f [0], a := .s, w2 := 7#32 })
  | .sbarArrive f => some (f,
      { op := 0x3a, fn := some 4, ll := true, legal := xf f && modIn f [1], d := .s, w2 := 7#32 })
  | .sbarWait f => some (f,
      { op := 0x3a, fn := some 4, ll := true, legal := xf f && modIn f [2], a := .s, w2 := 7#32 })
  | .sbarSync f => some (f, { op := 0x3a, fn := some 4, ll := true, legal := xf f && modIn f [3], w2 := 7#32 })
  | .setj f => some (f, { op := 0x3b, fn := some 0, ll := true, legal := xf f && modIn f [0], d := .s, a := .s })
  | .setl f => some (f, { op := 0x3b, fn := some 1, ll := true, legal := xf f && modIn f [0], a := .s })
  | .setw f => some (f, { op := 0x3b, fn := some 2, ll := true, legal := xf f && modIn f [0], a := .s })
  | .gst f => some (f,
      { op := 0x3c, fn := some 0, ll := true, legal := xf f && modOnly f 0x1B && decide (fld f.mod 0 2 ≤ 2)
        d := vsize (4 + fld f.mod 0 2), a := .n, b := .c, w2 := 0xFFFFFFF#32, ok := gridOff (mb f 3) f
        dst := false, srcs := [gridReg (mb f 3) f], dsts := [⟨.h, fld f.w2 0 4⟩] })
  | .gld f => some (f,
      { op := 0x3c, fn := some 1, ll := true, legal := xf f && modOnly f 0x1B && decide (fld f.mod 0 2 ≤ 2)
        d := vsize (4 + fld f.mod 0 2), a := .n, b := .c, w2 := 0xFFFFFF0#32, ok := gridOff (mb f 3) f
        srcs := [gridReg (mb f 3) f] })
  | .gatom f => some (f,
      { op := 0x3c, fn := some 2, ll := true, legal := xf f && decide (fld f.mod 0 4 ≤ 10), d := vw (mb f 4)
        a := .n, b := .c, c := vw (mb f 4), w2 := 0xFFFFFFF#32, ok := gridOff (mb f 5) f, dst := !(mb f 6)
        srcs := [gridReg (mb f 5) f], dsts := [⟨.h, fld f.w2 0 4⟩] })
  | .gred f => some (f,
      { op := 0x3c, fn := some 3, ll := true, legal := xf f && gridRedOp (fld f.mod 0 3) (fld f.mod 3 3), d := .h
        a := .n, b := .c, c := .sq, w2 := 0xF#32, srcs := [⟨.c, fld f.w2 0 4⟩] })
  | .gcpy f => some (f,
      { op := 0x3c, fn := some 4, ll := true, legal := xf f && modIn f [0], d := .h, a := .n, b := .c, c := .sq
        w2 := 0xF#32, srcs := [⟨.c, fld f.w2 0 4⟩] })
  | .gwait f => some (f, { op := 0x3d, fn := some 0, ll := true, legal := xf f && modIn f [0], d := .s, a := .h })
  | .gpatAx f => some (f,
      { op := 0x3d, fn := some 1, ll := true, legal := xf f && modIn f [0], d := .n, a := .n, b := .s, c := .s
        w2 := 0x37#32, ok := decide (fld f.w2 0 3 ≤ 4) })
  | .gpatL0 f => some (f,
      { op := 0x3d, fn := some 1, ll := true, legal := decide (f.form = .extLit) && modIn f [1], d := .n, a := .n })
  | .gpatL1 f => some (f,
      { op := 0x3d, fn := some 1, ll := true, legal := decide (f.form = .extLit) && modIn f [2], d := .n, a := .n })
  | .gcrdAx f => some (f,
      { op := 0x3d, fn := some 2, ll := true, legal := xf f && modIn f [0], d := .s, w2 := 7#32
        ok := decide (fld f.w2 0 3 ≤ 4) })
  | .gcrdCnt f => some (f, { op := 0x3d, fn := some 2, ll := true, legal := xf f && modIn f [1], d := .s, a := .n })
  | .gcrdIdx f => some (f, { op := 0x3d, fn := some 2, ll := true, legal := xf f && modIn f [2], d := .s, a := .n })
  | .ttfire f => some (f,
      { op := 0x3d, fn := some 3, ll := true, legal := xf f && modIn f [0], d := .h, a := .s, b := .c })
  | .ttfireArm f => some (f,
      { op := 0x3d, fn := some 3, ll := true, legal := xf f && modIn f [1], b := .c, w2 := 3#32 })
  | .ttwait f => some (f,
      { op := 0x3d, fn := some 4, ll := true, legal := xf f && modIn f [0], d := .s, a := .s, b := .c })
  | .frNoOperation .. => none
  | .frIntegerAdd .. => none
  | .frIntegerSubtract .. => none
  | .frIntegerMultiply .. => none
  | .frAnd .. => none
  | .frOr .. => none
  | .frXor .. => none
  | .frShiftLeft .. => none
  | .frLogicalShiftRight .. => none
  | .frArithmeticShiftRight .. => none
  | .frFp32Add .. => none
  | .frFp32Multiply .. => none
  | .frFp32Fma .. => none
  | .frMove .. => none
  | .frLoadImmediate .. => none
  | .frLaneNumber .. => none
  | .frIntegerCompare .. => none
  | .frFp32Compare .. => none
  | .frScalarAddImmediate .. => none
  | .frScalarLoadImmediate .. => none
  | .frLoadWord .. => none
  | .frStoreWord .. => none
  | .frScratchpadLoadWord .. => none
  | .frScratchpadStoreWord .. => none
  | .frFence .. => none
  | .frIf .. => none
  | .frElse .. => none
  | .frEndIf .. => none
  | .frBreak .. => none
  | .frLoop .. => none
  | .frBranch .. => none
  | .frCall .. => none
  | .frReturn .. => none
  | .frBlockBarrier .. => none
  | .frExit .. => none
  | .frTrap .. => none
  | .gridtabInstall .. => none
  | .gridtabRemove .. => none
  | .ctxnew .. => none
  | .ctxend .. => none
  | .huskCreate .. => none
  | .huskDestroy .. => none
  | .keyslotLoad .. => none
  | .keyslotZeroise .. => none
  | .scrubStart .. => none
  | .scrubContinue .. => none
  | .attest .. => none
  | .layout .. => none
  | .launch .. => none
  | .nodeOpen .. => none
  | .nodeClose .. => none
  | .preemptPark .. => none
  | .preemptRequeue .. => none
  | .preemptResume .. => none
  | .ckpt .. => none
  | .waitmem .. => none
  | .signalStore .. => none
  | .signalAdd .. => none
  | .signalMax .. => none
  | .condSkip .. => none
  | .condRepeat .. => none
  | .condJump .. => none
  | .doorbellTail .. => none
  | .doorbellReload .. => none
  | .doorbellStop .. => none
  | .arnalRound => none
  | .packetUnblock .. => none
  | .waitmemPoll .. => none
  | .waitmemTimeout .. => none
  | .invalRange => none
  | .invalAsid => none
  | .invalAll => none
  | .invalidationComplete => none
  | .faultReplay .. => none
  | .faultFail .. => none
  | .registerWrite .. => none
  | .bar2Read .. => none
  | .bar2Write .. => none
  | .blockPlacement => none
  | .placementWaitExpiry .. => none
  | .startBarrierTimeout .. => none
  | .launchDeadline .. => none
  | .timeSliceExpiry .. => none
  | .drainDeadline .. => none
  | .preciseSave .. => none
  | .saveDeadline .. => none
  | .contextResume .. => none
  | .hangWatchdog .. => none
  | .barrierTimeoutWatchdog .. => none
  | .yldExpiry .. => none
  | .mmapRendezvousTimeout .. => none
  | .engineOperationStart .. => none
  | .engineOperationComplete .. => none
  | .enginePageFault .. => none
  | .faultQueueRetry .. => none
  | .matrixSelfTest .. => none
  | .copyEntryStart .. => none
  | .copyEntryComplete .. => none
  | .l1WritebackTimeout .. => none
  | .gridOperationComplete .. => none
  | .reductionTimeout .. => none
  | .nodeGroupLaunch .. => none
  | .nodeGroupTimer .. => none
  | .frameStore .. => none
  | .frameLdreq .. => none
  | .frameLdrep .. => none
  | .frameAtom .. => none
  | .frameAtrep .. => none
  | .frameExp .. => none
  | .frameExpr .. => none
  | .frameRed .. => none
  | .frameRedr .. => none
  | .frameTack .. => none
  | .frameDone .. => none
  | .frameNack .. => none
  | .frameLaunch .. => none
  | .frameStart .. => none
  | .uePacket .. => none
  | .retransmissionTimeout .. => none
  | .linkDown .. => none
  | .linkUp .. => none
  | .integrityFailure .. => none
  | .llrResend .. => none
  | .scrubFrame => none
  | .scrubReceipt => none
  | .coldBoot .. => none
  | .warmReset .. => none
  | .checkpointStream => none
  | .checkpointFinish => none
  | .healthUpdate .. => none
  | .thermalThrottle .. => none
  | .thermalTrip .. => none
  | .illegalInstruction => none
  | .instructionFetchFault .. => none
  | .malformedFrame .. => none

/-- The reserved bits of an encoding are zero (R79, R86): check 3 of Table 3.10. -/
def sigOk (f : Fields) (g : Sig) : Bool :=
  fieldOk g.d f.d && fieldOk g.a f.a && fieldOk g.b f.b && fieldOk g.c f.c && (g.ll || decide (f.la = 0)) &&
  decide (f.w2 &&& ~~~g.w2 = 0) && (g.guard || (decide (f.pg = 0) && decide (f.pn = 0))) && g.ok

/-- The fields that a form does not carry are zero. -/
def formOk (f : Fields) : Bool :=
  match f.form with
  | .base => decide (f.c = 0 ∧ f.mod = 0 ∧ f.pn = 0 ∧ f.pg = 0 ∧ f.la = 0 ∧ f.w2 = 0 ∧ f.lit = 0)
  | .ext => decide (f.lit = 0)
  | .lit => decide (f.c = 0 ∧ f.mod = 0 ∧ f.pn = 0 ∧ f.pg = 0 ∧ f.la = 0 ∧ f.w2 = 0)
  | .extLit => true

/-- Every register that an instruction names, destinations and guard included (R36). -/
def sigNames (f : Fields) (g : Sig) : List Reg :=
  fieldRegs g.d f.d ++ fieldRegs g.a f.a ++ fieldRegs g.b f.b ++ fieldRegs g.c f.c ++ g.srcs ++ g.dsts ++
  [⟨.p, f.pg.toNat⟩]

/-- The destinations over which a long-latency instruction opens a window; s0 and p0 open none (R36). -/
def sigDests (f : Fields) (g : Sig) : List Reg :=
  ((if g.dst then fieldRegs g.d f.d else []) ++ g.dsts).filter
    (fun r => !(decide (r = ⟨.s, 0⟩) || decide (r = ⟨.p, 0⟩)))

/-- The words of an instruction in each form. -/
def formLen (m : Form) : Nat :=
  match m with
  | .base => 4
  | .ext => 12
  | .lit => 12
  | .extLit => 20

/-- The encoding of a forerunner word, for the fields that it carries (Table 3.14). -/
structure FrSig where
  fop : Nat
  d : FieldClass := .unused
  a : FieldClass := .unused
  b : FieldClass := .unused
  /-- The bits of imm that are used. -/
  imm : BitVec 24 := 0
  /-- The bits of sub that are used. -/
  sub : BitVec 4 := 0
  guard : Bool := true
  ok : Bool := true
  /-- Further v registers named. -/
  more : List Nat := []
deriving DecidableEq, Repr

/-- The reserved bits of a forerunner register field are zero: s has six index bits and p three (R100). -/
def frFieldOk (k : FieldClass) (x : BitVec 8) : Bool :=
  match k with
  | .unused => decide (x = 0)
  | .s => decide (x.toNat < 64)
  | .p => decide (x.toNat < 8)
  | .c => decide (x.toNat < 16)
  | _ => true

/-- The encoding and the fields of a forerunner instruction; none for every other row of the table. Table 3.14 gives the
compare conditions 0 to 5 and break counts from 1 and names no fault for the others: the model takes a condition 6 or 7
of an integer compare and a break count of 0 as reserved values (DESIGN CHOICE, log 45). -/
def frSig (i : Instr) : Option (FrFields × FrSig) :=
  match i with
  | .frNoOperation f => some (f, { fop := 0x00 })
  | .frIntegerAdd f => some (f, { fop := 0x01, d := .v, a := .v, b := pick (f.sub.getLsbD 0) .unused .v, imm := pick (f.sub.getLsbD 0) 0xFFFFFF#24 0#24, sub := 1 })
  | .frIntegerSubtract f => some (f, { fop := 0x02, d := .v, a := .v, b := pick (f.sub.getLsbD 0) .unused .v, imm := pick (f.sub.getLsbD 0) 0xFFFFFF#24 0#24, sub := 1 })
  | .frIntegerMultiply f => some (f, { fop := 0x03, d := .v, a := .v, b := pick (f.sub.getLsbD 0) .unused .v, imm := pick (f.sub.getLsbD 0) 0xFFFFFF#24 0#24, sub := 1 })
  | .frAnd f => some (f, { fop := 0x04, d := .v, a := .v, b := pick (f.sub.getLsbD 0) .unused .v, imm := pick (f.sub.getLsbD 0) 0xFFFFFF#24 0#24, sub := 1 })
  | .frOr f => some (f, { fop := 0x05, d := .v, a := .v, b := pick (f.sub.getLsbD 0) .unused .v, imm := pick (f.sub.getLsbD 0) 0xFFFFFF#24 0#24, sub := 1 })
  | .frXor f => some (f, { fop := 0x06, d := .v, a := .v, b := pick (f.sub.getLsbD 0) .unused .v, imm := pick (f.sub.getLsbD 0) 0xFFFFFF#24 0#24, sub := 1 })
  | .frShiftLeft f => some (f, { fop := 0x07, d := .v, a := .v, b := pick (f.sub.getLsbD 0) .unused .v, imm := pick (f.sub.getLsbD 0) 0xFFFFFF#24 0#24, sub := 1 })
  | .frLogicalShiftRight f => some (f, { fop := 0x08, d := .v, a := .v, b := pick (f.sub.getLsbD 0) .unused .v, imm := pick (f.sub.getLsbD 0) 0xFFFFFF#24 0#24, sub := 1 })
  | .frArithmeticShiftRight f => some (f, { fop := 0x09, d := .v, a := .v, b := pick (f.sub.getLsbD 0) .unused .v, imm := pick (f.sub.getLsbD 0) 0xFFFFFF#24 0#24, sub := 1 })
  | .frFp32Add f => some (f, { fop := 0x0a, d := .v, a := .v, b := .v })
  | .frFp32Multiply f => some (f, { fop := 0x0b, d := .v, a := .v, b := .v })
  | .frFp32Fma f => some (f, { fop := 0x0c, d := .v, a := .v, b := .v, imm := 0xFF#24, more := [f.imm.toNat % 256] })
  | .frMove f => some (f, { fop := 0x0d, d := .v, a := .v })
  | .frLoadImmediate f => some (f, { fop := 0x0e, d := .v, imm := 0xFFFFFF#24 })
  | .frLaneNumber f => some (f, { fop := 0x0f, d := .v })
  | .frIntegerCompare f => some (f, { fop := 0x10, d := .p, a := .v, b := .v, sub := 15, ok := decide (f.sub.toNat % 8 ≤ 5) })
  | .frFp32Compare f => some (f, { fop := 0x11, d := .p, a := .v, b := .v, sub := 7 })
  | .frScalarAddImmediate f => some (f, { fop := 0x12, d := .s, a := .s, imm := 0xFFFFFF#24 })
  | .frScalarLoadImmediate f => some (f, { fop := 0x13, d := .s, imm := 0xFFFFFF#24 })
  | .frLoadWord f => some (f, { fop := 0x18, d := .v, a := pick (f.sub.getLsbD 0) .s .v, b := .c, imm := 0xFFFFFF#24, sub := 1 })
  | .frStoreWord f => some (f, { fop := 0x19, d := .v, a := pick (f.sub.getLsbD 0) .s .v, b := .c, imm := 0xFFFFFF#24, sub := 1 })
  | .frScratchpadLoadWord f => some (f, { fop := 0x1a, d := .v, a := pick (f.sub.getLsbD 0) .s .v, imm := 0xFFFFFF#24, sub := 1 })
  | .frScratchpadStoreWord f => some (f, { fop := 0x1b, d := .v, a := pick (f.sub.getLsbD 0) .s .v, imm := 0xFFFFFF#24, sub := 1 })
  | .frFence f => some (f, { fop := 0x1c, sub := 7, ok := decide (2 ≤ f.sub.toNat % 8 ∧ f.sub.toNat % 8 ≤ 6) })
  | .frIf f => some (f, { fop := 0x20, a := .p, guard := false })
  | .frElse f => some (f, { fop := 0x21, guard := false })
  | .frEndIf f => some (f, { fop := 0x22, guard := false })
  | .frBreak f => some (f, { fop := 0x23, a := .p, imm := 0xFF#24, guard := false, ok := decide (f.imm.toNat % 256 ≠ 0) })
  | .frLoop f => some (f, { fop := 0x24, imm := 0xFFFFFF#24, guard := false })
  | .frBranch f => some (f, { fop := 0x25, imm := 0xFFFFFF#24, guard := false })
  | .frCall f => some (f, { fop := 0x26, d := .s, imm := 0xFFFFFF#24, guard := false })
  | .frReturn f => some (f, { fop := 0x27, a := .s, guard := false })
  | .frBlockBarrier f => some (f, { fop := 0x28, guard := false })
  | .frExit f => some (f, { fop := 0x29, guard := false })
  | .frTrap f => some (f, { fop := 0x2a, imm := 0x7FFF#24, guard := false })
  | .sadd .. => none
  | .ssub .. => none
  | .smul .. => none
  | .smulh .. => none
  | .sand .. => none
  | .sor .. => none
  | .sxor .. => none
  | .sshl .. => none
  | .sshr .. => none
  | .ssra .. => none
  | .smin .. => none
  | .smax .. => none
  | .smov .. => none
  | .srot .. => none
  | .sdiv .. => none
  | .srem .. => none
  | .vadd .. => none
  | .vsub .. => none
  | .vmul .. => none
  | .vmulh .. => none
  | .vand .. => none
  | .vor .. => none
  | .vxor .. => none
  | .vshl .. => none
  | .vshr .. => none
  | .vsra .. => none
  | .vmin .. => none
  | .vmax .. => none
  | .vmov .. => none
  | .fadd .. => none
  | .fsub .. => none
  | .fmul .. => none
  | .fmin .. => none
  | .fmax .. => none
  | .pand .. => none
  | .por .. => none
  | .pxor .. => none
  | .pandn .. => none
  | .hadd2 .. => none
  | .hmul2 .. => none
  | .sclz .. => none
  | .spopc .. => none
  | .sbfe .. => none
  | .sbfi .. => none
  | .ssel .. => none
  | .sli .. => none
  | .slea .. => none
  | .scmp .. => none
  | .pnot .. => none
  | .pmov .. => none
  | .pset .. => none
  | .pcnt .. => none
  | .pff .. => none
  | .bra .. => none
  | .brc .. => none
  | .brv .. => none
  | .rcv .. => none
  | .call .. => none
  | .callx .. => none
  | .ret .. => none
  | .jmpx .. => none
  | .exit .. => none
  | .nop .. => none
  | .yld .. => none
  | .dpsh .. => none
  | .dpop .. => none
  | .bkpt .. => none
  | .trap .. => none
  | .rtt .. => none
  | .csrr .. => none
  | .csrw .. => none
  | .clock .. => none
  | .vmad .. => none
  | .vabs .. => none
  | .vneg .. => none
  | .vclz .. => none
  | .vpopc .. => none
  | .vbfe .. => none
  | .vbfi .. => none
  | .vsel .. => none
  | .vcmp .. => none
  | .vbcst .. => none
  | .vshf .. => none
  | .vred .. => none
  | .vscan .. => none
  | .vdot4 .. => none
  | .ffma .. => none
  | .fabs .. => none
  | .fneg .. => none
  | .fcmp .. => none
  | .fclass .. => none
  | .fscale .. => none
  | .frnd .. => none
  | .hfma2 .. => none
  | .frcp .. => none
  | .frsq .. => none
  | .fsqrt .. => none
  | .fexp2 .. => none
  | .flog2 .. => none
  | .fsin .. => none
  | .fcos .. => none
  | .ftanh .. => none
  | .fcvt .. => none
  | .f2i .. => none
  | .i2f .. => none
  | .ld .. => none
  | .st .. => none
  | .ldk .. => none
  | .pref .. => none
  | .cflush .. => none
  | .lds .. => none
  | .sts .. => none
  | .atom .. => none
  | .atoms .. => none
  | .fence .. => none
  | .cld .. => none
  | .cst .. => none
  | .cmov .. => none
  | .cbnd .. => none
  | .cperm .. => none
  | .cget .. => none
  | .ctest .. => none
  | .cseal .. => none
  | .wld .. => none
  | .wscl .. => none
  | .wsclNone .. => none
  | .mma .. => none
  | .mmag .. => none
  | .mmap .. => none
  | .msl .. => none
  | .aalloc .. => none
  | .afree .. => none
  | .awin .. => none
  | .azero .. => none
  | .lda .. => none
  | .sta .. => none
  | .aepi .. => none
  | .agui .. => none
  | .atopk .. => none
  | .atksRd .. => none
  | .atksWr .. => none
  | .mfence .. => none
  | .mwait .. => none
  | .mwaitB .. => none
  | .htest .. => none
  | .hcancel .. => none
  | .hmov .. => none
  | .podC .. => none
  | .podU .. => none
  | .podOff .. => none
  | .cpy .. => none
  | .cpyInit .. => none
  | .cpyCap .. => none
  | .cpyt .. => none
  | .cpyg .. => none
  | .cpyx .. => none
  | .cpyr .. => none
  | .bari .. => none
  | .bara .. => none
  | .barw .. => none
  | .bart .. => none
  | .sbarInit .. => none
  | .sbarArrive .. => none
  | .sbarWait .. => none
  | .sbarSync .. => none
  | .setj .. => none
  | .setl .. => none
  | .setw .. => none
  | .gst .. => none
  | .gld .. => none
  | .gatom .. => none
  | .gred .. => none
  | .gcpy .. => none
  | .gwait .. => none
  | .gpatAx .. => none
  | .gpatL0 .. => none
  | .gpatL1 .. => none
  | .gcrdAx .. => none
  | .gcrdCnt .. => none
  | .gcrdIdx .. => none
  | .ttfire .. => none
  | .ttfireArm .. => none
  | .ttwait .. => none
  | .gridtabInstall .. => none
  | .gridtabRemove .. => none
  | .ctxnew .. => none
  | .ctxend .. => none
  | .huskCreate .. => none
  | .huskDestroy .. => none
  | .keyslotLoad .. => none
  | .keyslotZeroise .. => none
  | .scrubStart .. => none
  | .scrubContinue .. => none
  | .attest .. => none
  | .layout .. => none
  | .launch .. => none
  | .nodeOpen .. => none
  | .nodeClose .. => none
  | .preemptPark .. => none
  | .preemptRequeue .. => none
  | .preemptResume .. => none
  | .ckpt .. => none
  | .waitmem .. => none
  | .signalStore .. => none
  | .signalAdd .. => none
  | .signalMax .. => none
  | .condSkip .. => none
  | .condRepeat .. => none
  | .condJump .. => none
  | .doorbellTail .. => none
  | .doorbellReload .. => none
  | .doorbellStop .. => none
  | .arnalRound => none
  | .packetUnblock .. => none
  | .waitmemPoll .. => none
  | .waitmemTimeout .. => none
  | .invalRange => none
  | .invalAsid => none
  | .invalAll => none
  | .invalidationComplete => none
  | .faultReplay .. => none
  | .faultFail .. => none
  | .registerWrite .. => none
  | .bar2Read .. => none
  | .bar2Write .. => none
  | .blockPlacement => none
  | .placementWaitExpiry .. => none
  | .startBarrierTimeout .. => none
  | .launchDeadline .. => none
  | .timeSliceExpiry .. => none
  | .drainDeadline .. => none
  | .preciseSave .. => none
  | .saveDeadline .. => none
  | .contextResume .. => none
  | .hangWatchdog .. => none
  | .barrierTimeoutWatchdog .. => none
  | .yldExpiry .. => none
  | .mmapRendezvousTimeout .. => none
  | .engineOperationStart .. => none
  | .engineOperationComplete .. => none
  | .enginePageFault .. => none
  | .faultQueueRetry .. => none
  | .matrixSelfTest .. => none
  | .copyEntryStart .. => none
  | .copyEntryComplete .. => none
  | .l1WritebackTimeout .. => none
  | .gridOperationComplete .. => none
  | .reductionTimeout .. => none
  | .nodeGroupLaunch .. => none
  | .nodeGroupTimer .. => none
  | .frameStore .. => none
  | .frameLdreq .. => none
  | .frameLdrep .. => none
  | .frameAtom .. => none
  | .frameAtrep .. => none
  | .frameExp .. => none
  | .frameExpr .. => none
  | .frameRed .. => none
  | .frameRedr .. => none
  | .frameTack .. => none
  | .frameDone .. => none
  | .frameNack .. => none
  | .frameLaunch .. => none
  | .frameStart .. => none
  | .uePacket .. => none
  | .retransmissionTimeout .. => none
  | .linkDown .. => none
  | .linkUp .. => none
  | .integrityFailure .. => none
  | .llrResend .. => none
  | .scrubFrame => none
  | .scrubReceipt => none
  | .coldBoot .. => none
  | .warmReset .. => none
  | .checkpointStream => none
  | .checkpointFinish => none
  | .healthUpdate .. => none
  | .thermalThrottle .. => none
  | .thermalTrip .. => none
  | .illegalInstruction => none
  | .instructionFetchFault .. => none
  | .malformedFrame .. => none

/-- The reserved bits of a forerunner word are zero (R96, R101, R104). -/
def frSigOk (f : FrFields) (g : FrSig) : Bool :=
  frFieldOk g.d f.d && frFieldOk g.a f.a && frFieldOk g.b f.b && decide (f.imm &&& ~~~g.imm = 0) &&
  decide (f.sub &&& ~~~g.sub = 0) && (g.guard || (decide (f.pg = 0) && decide (f.pn = 0))) && g.ok

/-- The v registers that a forerunner word names (R28). -/
def frVregs (f : FrFields) (g : FrSig) : List Nat :=
  (if g.d = .v then [f.d.toNat] else []) ++ (if g.a = .v then [f.a.toNat] else []) ++
  (if g.b = .v then [f.b.toNat] else []) ++ g.more

/-- The instruction of a base major. -/
def baseCtor (op : Nat) (f : Fields) : Option Instr :=
  match op with
  | 0x00 => some (.sadd f)
  | 0x01 => some (.ssub f)
  | 0x02 => some (.smul f)
  | 0x03 => some (.smulh f)
  | 0x04 => some (.sand f)
  | 0x05 => some (.sor f)
  | 0x06 => some (.sxor f)
  | 0x07 => some (.sshl f)
  | 0x08 => some (.sshr f)
  | 0x09 => some (.ssra f)
  | 0x0a => some (.smin f)
  | 0x0b => some (.smax f)
  | 0x0c => some (.smov f)
  | 0x0d => some (.srot f)
  | 0x0e => some (.sdiv f)
  | 0x0f => some (.srem f)
  | 0x10 => some (.vadd f)
  | 0x11 => some (.vsub f)
  | 0x12 => some (.vmul f)
  | 0x13 => some (.vmulh f)
  | 0x14 => some (.vand f)
  | 0x15 => some (.vor f)
  | 0x16 => some (.vxor f)
  | 0x17 => some (.vshl f)
  | 0x18 => some (.vshr f)
  | 0x19 => some (.vsra f)
  | 0x1a => some (.vmin f)
  | 0x1b => some (.vmax f)
  | 0x1c => some (.vmov f)
  | 0x1d => some (.fadd f)
  | 0x1e => some (.fsub f)
  | 0x1f => some (.fmul f)
  | 0x20 => some (.fmin f)
  | 0x21 => some (.fmax f)
  | 0x22 => some (.pand f)
  | 0x23 => some (.por f)
  | 0x24 => some (.pxor f)
  | 0x25 => some (.pandn f)
  | 0x26 => some (.hadd2 f)
  | 0x27 => some (.hmul2 f)
  | _ => none

/-- The instruction of group 0x28 with a given FN (Table 3.8). -/
def group28 (fn : Nat) (f : Fields) : Option Instr :=
  match fn with
  | 0 => some (.sclz f)
  | 1 => some (.spopc f)
  | 2 => some (.sbfe f)
  | 3 => some (.sbfi f)
  | 4 => some (.ssel f)
  | 5 => some (.sli f)
  | 6 => some (.slea f)
  | 7 => some (.scmp f)
  | _ => none

/-- The instruction of group 0x29 with a given FN (Table 3.8). -/
def group29 (fn : Nat) (f : Fields) : Option Instr :=
  match fn with
  | 0 => some (.pnot f)
  | 1 => some (.pmov f)
  | 2 => some (.pset f)
  | 3 => some (.pcnt f)
  | 4 => some (.pff f)
  | _ => none

/-- The instruction of group 0x2a with a given FN (Table 3.8). -/
def group2a (fn : Nat) (f : Fields) : Option Instr :=
  match fn with
  | 0 => some (.bra f)
  | 1 => some (.brc f)
  | 2 => some (.brv f)
  | 3 => some (.rcv f)
  | 4 => some (.call f)
  | 5 => some (.callx f)
  | 6 => some (.ret f)
  | 7 => some (.jmpx f)
  | 8 => some (.exit f)
  | _ => none

/-- The instruction of group 0x2b with a given FN (Table 3.8). -/
def group2b (fn : Nat) (f : Fields) : Option Instr :=
  match fn with
  | 0 => some (.nop f)
  | 1 => some (.yld f)
  | 2 => some (.dpsh f)
  | 3 => some (.dpop f)
  | 4 => some (.bkpt f)
  | 5 => some (.trap f)
  | 6 => some (.rtt f)
  | 7 => some (.csrr f)
  | 8 => some (.csrw f)
  | 9 => some (.clock f)
  | _ => none

/-- The instruction of group 0x2c with a given FN (Table 3.8). -/
def group2c (fn : Nat) (f : Fields) : Option Instr :=
  match fn with
  | 0 => some (.vmad f)
  | 1 => some (.vabs f)
  | 2 => some (.vneg f)
  | 3 => some (.vclz f)
  | 4 => some (.vpopc f)
  | 5 => some (.vbfe f)
  | 6 => some (.vbfi f)
  | 7 => some (.vsel f)
  | 8 => some (.vcmp f)
  | 9 => some (.vbcst f)
  | _ => none

/-- The instruction of group 0x2d with a given FN (Table 3.8). -/
def group2d (fn : Nat) (f : Fields) : Option Instr :=
  match fn with
  | 0 => some (.vshf f)
  | 1 => some (.vred f)
  | 2 => some (.vscan f)
  | 3 => some (.vdot4 f)
  | _ => none

/-- The instruction of group 0x2e with a given FN (Table 3.8). -/
def group2e (fn : Nat) (f : Fields) : Option Instr :=
  match fn with
  | 0 => some (.ffma f)
  | 1 => some (.fabs f)
  | 2 => some (.fneg f)
  | 3 => some (.fcmp f)
  | 4 => some (.fclass f)
  | 5 => some (.fscale f)
  | 6 => some (.frnd f)
  | 7 => some (.hfma2 f)
  | _ => none

/-- The instruction of group 0x2f with a given FN (Table 3.8). -/
def group2f (fn : Nat) (f : Fields) : Option Instr :=
  match fn with
  | 0 => some (.frcp f)
  | 1 => some (.frsq f)
  | 2 => some (.fsqrt f)
  | 3 => some (.fexp2 f)
  | 4 => some (.flog2 f)
  | 5 => some (.fsin f)
  | 6 => some (.fcos f)
  | 7 => some (.ftanh f)
  | _ => none

/-- The instruction of group 0x30 with a given FN (Table 3.8). -/
def group30 (fn : Nat) (f : Fields) : Option Instr :=
  match fn with
  | 0 => some (.fcvt f)
  | 1 => some (.f2i f)
  | 2 => some (.i2f f)
  | _ => none

/-- The instruction of group 0x31 with a given FN (Table 3.8). -/
def group31 (fn : Nat) (f : Fields) : Option Instr :=
  match fn with
  | 0 => some (.ld f)
  | 1 => some (.st f)
  | 2 => some (.ldk f)
  | 3 => some (.pref f)
  | 4 => some (.cflush f)
  | _ => none

/-- The instruction of group 0x32 with a given FN (Table 3.8). -/
def group32 (fn : Nat) (f : Fields) : Option Instr :=
  match fn with
  | 0 => some (.lds f)
  | 1 => some (.sts f)
  | _ => none

/-- The instruction of group 0x33 with a given FN (Table 3.8). -/
def group33 (fn : Nat) (f : Fields) : Option Instr :=
  match fn with
  | 0 => some (.atom f)
  | 1 => some (.atoms f)
  | 2 => some (.fence f)
  | _ => none

/-- The instruction of group 0x34 with a given FN (Table 3.8). -/
def group34 (fn : Nat) (f : Fields) : Option Instr :=
  match fn with
  | 0 => some (.cld f)
  | 1 => some (.cst f)
  | 2 => some (.cmov f)
  | 3 => some (.cbnd f)
  | 4 => some (.cperm f)
  | 5 => some (.cget f)
  | 6 => some (.ctest f)
  | 7 => some (.cseal f)
  | _ => none

/-- The instruction of group 0x35 with a given FN (Table 3.8). -/
def group35 (fn : Nat) (f : Fields) : Option Instr :=
  match fn with
  | 0 => some (.wld f)
  | 1 => if f.mod = 0 then some (.wscl f) else if f.mod = 1 then some (.wsclNone f) else none
  | 2 => some (.mma f)
  | 3 => some (.mmag f)
  | 4 => some (.mmap f)
  | 5 => some (.msl f)
  | _ => none

/-- The instruction of group 0x36 with a given FN (Table 3.8). -/
def group36 (fn : Nat) (f : Fields) : Option Instr :=
  match fn with
  | 0 => some (.aalloc f)
  | 1 => some (.afree f)
  | 2 => some (.awin f)
  | 3 => some (.azero f)
  | 4 => some (.lda f)
  | 5 => some (.sta f)
  | _ => none

/-- The instruction of group 0x37 with a given FN (Table 3.8). -/
def group37 (fn : Nat) (f : Fields) : Option Instr :=
  match fn with
  | 0 => some (.aepi f)
  | 1 => some (.agui f)
  | 2 => some (.atopk f)
  | 3 => if f.mod = 0 then some (.atksRd f) else if f.mod = 1 then some (.atksWr f) else none
  | _ => none

/-- The instruction of group 0x38 with a given FN (Table 3.8). -/
def group38 (fn : Nat) (f : Fields) : Option Instr :=
  match fn with
  | 0 => some (.mfence f)
  | 1 => if f.mod = 0 then some (.mwait f) else if f.mod = 1 then some (.mwaitB f) else none
  | 2 => some (.htest f)
  | 3 => some (.hcancel f)
  | 4 => some (.hmov f)
  | 5 => if f.mod = 0 then some (.podC f) else if f.mod = 1 then some (.podU f) else if f.mod = 2 then some (.podOff f) else none
  | _ => none

/-- The instruction of group 0x39 with a given FN (Table 3.8). -/
def group39 (fn : Nat) (f : Fields) : Option Instr :=
  match fn with
  | 0 => if f.mod = 0 then some (.cpy f) else if f.mod = 1 then some (.cpyInit f) else if f.mod = 2 then some (.cpyCap f) else none
  | 1 => some (.cpyt f)
  | 2 => some (.cpyg f)
  | 3 => some (.cpyx f)
  | 4 => some (.cpyr f)
  | _ => none

/-- The instruction of group 0x3a with a given FN (Table 3.8). -/
def group3a (fn : Nat) (f : Fields) : Option Instr :=
  match fn with
  | 0 => some (.bari f)
  | 1 => some (.bara f)
  | 2 => some (.barw f)
  | 3 => some (.bart f)
  | 4 => if f.mod = 0 then some (.sbarInit f) else if f.mod = 1 then some (.sbarArrive f) else if f.mod = 2 then some (.sbarWait f) else if f.mod = 3 then some (.sbarSync f) else none
  | _ => none

/-- The instruction of group 0x3b with a given FN (Table 3.8). -/
def group3b (fn : Nat) (f : Fields) : Option Instr :=
  match fn with
  | 0 => some (.setj f)
  | 1 => some (.setl f)
  | 2 => some (.setw f)
  | _ => none

/-- The instruction of group 0x3c with a given FN (Table 3.8). -/
def group3c (fn : Nat) (f : Fields) : Option Instr :=
  match fn with
  | 0 => some (.gst f)
  | 1 => some (.gld f)
  | 2 => some (.gatom f)
  | 3 => some (.gred f)
  | 4 => some (.gcpy f)
  | _ => none

/-- The instruction of group 0x3d with a given FN (Table 3.8). -/
def group3d (fn : Nat) (f : Fields) : Option Instr :=
  match fn with
  | 0 => some (.gwait f)
  | 1 => if f.mod = 0 then some (.gpatAx f) else if f.mod = 1 then some (.gpatL0 f) else if f.mod = 2 then some (.gpatL1 f) else none
  | 2 => if f.mod = 0 then some (.gcrdAx f) else if f.mod = 1 then some (.gcrdCnt f) else if f.mod = 2 then some (.gcrdIdx f) else none
  | 3 => if f.mod = 0 then some (.ttfire f) else if f.mod = 1 then some (.ttfireArm f) else none
  | 4 => some (.ttwait f)
  | _ => none

/-- The instruction that OP, FN and MOD select (R82, R84); none for an unassigned one. -/
def nativeCtor (op fn : Nat) (f : Fields) : Option Instr :=
  match op with
  | 0x28 => group28 fn f
  | 0x29 => group29 fn f
  | 0x2a => group2a fn f
  | 0x2b => group2b fn f
  | 0x2c => group2c fn f
  | 0x2d => group2d fn f
  | 0x2e => group2e fn f
  | 0x2f => group2f fn f
  | 0x30 => group30 fn f
  | 0x31 => group31 fn f
  | 0x32 => group32 fn f
  | 0x33 => group33 fn f
  | 0x34 => group34 fn f
  | 0x35 => group35 fn f
  | 0x36 => group36 fn f
  | 0x37 => group37 fn f
  | 0x38 => group38 fn f
  | 0x39 => group39 fn f
  | 0x3a => group3a fn f
  | 0x3b => group3b fn f
  | 0x3c => group3c fn f
  | 0x3d => group3d fn f
  | _ => baseCtor op f

/-- The forerunner instruction of an opcode (Table 3.14); none for an unassigned one. -/
def frCtor (fop : Nat) (f : FrFields) : Option Instr :=
  match fop with
  | 0x00 => some (.frNoOperation f)
  | 0x01 => some (.frIntegerAdd f)
  | 0x02 => some (.frIntegerSubtract f)
  | 0x03 => some (.frIntegerMultiply f)
  | 0x04 => some (.frAnd f)
  | 0x05 => some (.frOr f)
  | 0x06 => some (.frXor f)
  | 0x07 => some (.frShiftLeft f)
  | 0x08 => some (.frLogicalShiftRight f)
  | 0x09 => some (.frArithmeticShiftRight f)
  | 0x0a => some (.frFp32Add f)
  | 0x0b => some (.frFp32Multiply f)
  | 0x0c => some (.frFp32Fma f)
  | 0x0d => some (.frMove f)
  | 0x0e => some (.frLoadImmediate f)
  | 0x0f => some (.frLaneNumber f)
  | 0x10 => some (.frIntegerCompare f)
  | 0x11 => some (.frFp32Compare f)
  | 0x12 => some (.frScalarAddImmediate f)
  | 0x13 => some (.frScalarLoadImmediate f)
  | 0x18 => some (.frLoadWord f)
  | 0x19 => some (.frStoreWord f)
  | 0x1a => some (.frScratchpadLoadWord f)
  | 0x1b => some (.frScratchpadStoreWord f)
  | 0x1c => some (.frFence f)
  | 0x20 => some (.frIf f)
  | 0x21 => some (.frElse f)
  | 0x22 => some (.frEndIf f)
  | 0x23 => some (.frBreak f)
  | 0x24 => some (.frLoop f)
  | 0x25 => some (.frBranch f)
  | 0x26 => some (.frCall f)
  | 0x27 => some (.frReturn f)
  | 0x28 => some (.frBlockBarrier f)
  | 0x29 => some (.frExit f)
  | 0x2a => some (.frTrap f)
  | _ => none

end Sys2Proof.Machine
end

