-- ==== Sys2Proof/WellFormed.lean ====
section
/-! DEFINITION. Which instructions stand for an encoding that the decode checks of Table 3.10 pass. -/
namespace Sys2Proof

open Sys2Proof.Machine

/-- An instruction whose form and MOD are defined and whose reserved bits are zero (R80, R85, R86); every packet, event
and frame is well formed as it stands. -/
def wellFormed (i : Instr) : Bool :=
  match nativeSig i with
  | some (f, g) => formOk f && g.legal && sigOk f g
  | none =>
    match frSig i with
    | some (f, g) => frSigOk f g
    | none => true

end Sys2Proof
end

