-- ==== Sys2Proof/Decode.lean ====
section
/-! DEFINITION. Decoding: from the words at an address to an instruction and its length, or to the decode fault that
the words raise (Table 3.10, checks 2 and 3); and the encoder, from the same layouts. -/
namespace Sys2Proof

open Sys2Proof.Machine

/-- What decoding answers. -/
inductive Decoded where
  /-- An instruction and its length in bytes. -/
  | instr (i : Instr) (len : Nat)
  /-- Check 2 fails: the illegal-instruction fault. -/
  | illegal
  /-- Check 3 fails: the reserved-field fault. -/
  | reserved
deriving DecidableEq, Repr

/-- The form that the length field L selects (Table 3.1). -/
def formOf (w0 : BitVec 32) : Form :=
  match (w0.extractLsb' 0 2).toNat with
  | 0 => .base
  | 1 => .ext
  | 2 => .lit
  | _ => .extLit

/-- The length in bytes that word 0 tells (R73). -/
def lenOf (w0 : BitVec 32) : Nat := formLen (formOf w0)

/-- The fields of the words of an instruction (Tables 3.1 to 3.3). -/
def fieldsOf (w0 w1 w2 w3 w4 : BitVec 32) : Fields :=
  match formOf w0 with
  | .base =>
    { form := .base, d := w0.extractLsb' 8 8, a := w0.extractLsb' 16 8, b := w0.extractLsb' 24 8 }
  | .ext =>
    { form := .ext, d := w0.extractLsb' 8 8, a := w0.extractLsb' 16 8, b := w0.extractLsb' 24 8
      c := w1.extractLsb' 17 8, mod := w1.extractLsb' 25 7, pn := w1.extractLsb' 16 1
      pg := w1.extractLsb' 12 4, la := w1.extractLsb' 8 4, w2 := w2 }
  | .lit =>
    { form := .lit, d := w0.extractLsb' 8 8, a := w0.extractLsb' 16 8, b := w0.extractLsb' 24 8, lit := w2 ++ w1 }
  | .extLit =>
    { form := .extLit, d := w0.extractLsb' 8 8, a := w0.extractLsb' 16 8, b := w0.extractLsb' 24 8
      c := w1.extractLsb' 17 8, mod := w1.extractLsb' 25 7, pn := w1.extractLsb' 16 1
      pg := w1.extractLsb' 12 4, la := w1.extractLsb' 8 4, w2 := w2, lit := w4 ++ w3 }

/-- FN: extended word 1 [7:0], and 0 where no extended word stands. -/
def fnOf (w0 w1 : BitVec 32) : Nat :=
  match formOf w0 with
  | .base => 0
  | .ext => (w1.extractLsb' 0 8).toNat
  | .lit => 0
  | .extLit => (w1.extractLsb' 0 8).toNat

/-- Checks 2 and 3 of Table 3.10 for a selected instruction; `fn` must be zero under a base major (R86). -/
def checkNative (fn len : Nat) (i : Instr) : Decoded :=
  match nativeSig i with
  | none => .illegal
  | some (f, g) =>
    if g.legal = false then .illegal
    else if (g.fn.isSome || decide (fn = 0)) && sigOk f g then .instr i len
    else .reserved

/-- Decode the five words at an address as native code; words past the instruction's length are not looked at. -/
def decodeNative (w0 w1 w2 w3 w4 : BitVec 32) : Decoded :=
  let f := fieldsOf w0 w1 w2 w3 w4
  let fn := fnOf w0 w1
  let op := (w0.extractLsb' 2 6).toNat
  if 0x28 ≤ op ∧ (formOf w0 = .base ∨ formOf w0 = .lit) then .illegal
  else
    match nativeCtor op fn f with
    | none => .illegal
    | some i => checkNative fn (lenOf w0) i

/-- The fields of a forerunner word (Table 3.13). -/
def frFieldsOf (w : BitVec 64) : FrFields :=
  { d := w.extractLsb' 8 8, a := w.extractLsb' 16 8, b := w.extractLsb' 24 8, pg := w.extractLsb' 32 3
    pn := w.extractLsb' 35 1, sub := w.extractLsb' 36 4, imm := w.extractLsb' 40 24 }

/-- Decode a forerunner word (R96). -/
def decodeFr (w : BitVec 64) : Decoded :=
  match frCtor (w.extractLsb' 0 8).toNat (frFieldsOf w) with
  | none => .illegal
  | some i =>
    match frSig i with
    | none => .illegal
    | some (f, g) => if frSigOk f g then .instr i 8 else .reserved

/-- A 32-bit word from the bytes at an offset, lowest address first; bytes past the end read as zero (R73). -/
def wordAt (l : List Byte) (i : Nat) : BitVec 32 :=
  l.getD (i + 3) 0 ++ l.getD (i + 2) 0 ++ l.getD (i + 1) 0 ++ l.getD i 0

/-- Decode the bytes at an address, as native or forerunner code. -/
def decode (fr : Bool) (l : List Byte) : Decoded :=
  if fr then decodeFr (wordAt l 4 ++ wordAt l 0)
  else decodeNative (wordAt l 0) (wordAt l 4) (wordAt l 8) (wordAt l 12) (wordAt l 16)

/-- The length field of a form. -/
def formBits (m : Form) : BitVec 2 :=
  match m with
  | .base => 0
  | .ext => 1
  | .lit => 2
  | .extLit => 3

/-- Word 0 (Table 3.2). -/
def word0 (f : Fields) (op : BitVec 6) : BitVec 32 := f.b ++ f.a ++ f.d ++ op ++ formBits f.form

/-- Extended word 1 (Table 3.3). -/
def word1 (f : Fields) (fn : BitVec 8) : BitVec 32 := f.mod ++ f.c ++ f.pn ++ f.pg ++ f.la ++ fn

/-- The words of an instruction in its form (Table 3.1). -/
def formWords (f : Fields) (op : BitVec 6) (fn : BitVec 8) : List (BitVec 32) :=
  match f.form with
  | .base => [word0 f op]
  | .ext => [word0 f op, word1 f fn, f.w2]
  | .lit => [word0 f op, f.lit.extractLsb' 0 32, f.lit.extractLsb' 32 32]
  | .extLit => [word0 f op, word1 f fn, f.w2, f.lit.extractLsb' 0 32, f.lit.extractLsb' 32 32]

/-- A forerunner word (Table 3.13). -/
def frWord (f : FrFields) (fop : BitVec 8) : BitVec 64 :=
  f.imm ++ f.sub ++ f.pn ++ f.pg ++ f.b ++ f.a ++ f.d ++ fop

/-- The words of an instruction, first word first; none for an event, which has no encoding. -/
def encode (i : Instr) : Option (List (BitVec 32)) :=
  match nativeSig i with
  | some (f, g) => some (formWords f (BitVec.ofNat 6 g.op) (BitVec.ofNat 8 (g.fn.getD 0)))
  | none =>
    match frSig i with
    | some (f, g) =>
      let w := frWord f (BitVec.ofNat 8 g.fop)
      some [w.extractLsb' 0 32, w.extractLsb' 32 32]
    | none => none

/-- Decode a list of words, words past the end reading as zero. -/
def decodeWords (fr : Bool) (l : List (BitVec 32)) : Decoded :=
  if fr then decodeFr (l.getD 1 0 ++ l.getD 0 0)
  else decodeNative (l.getD 0 0) (l.getD 1 0) (l.getD 2 0) (l.getD 3 0) (l.getD 4 0)

/-- The instruction that the decoder reads from an instruction whose bits are `w`, numbered as the table of operations
numbers them: bit 0 is the least significant bit of word 0, and later words follow upwards. -/
def decodeTableWord (nbits w : Nat) : Option Instr :=
  let v := BitVec.ofNat 160 (w % 2 ^ nbits)
  match decodeNative (v.extractLsb' 0 32) (v.extractLsb' 32 32) (v.extractLsb' 64 32) (v.extractLsb' 96 32)
      (v.extractLsb' 128 32) with
  | .instr i _ => some i
  | .illegal => none
  | .reserved => none

end Sys2Proof
end

