-- ==== Sys2Proof/Machine/Float.lean ====
section
/-! DEFINITION. Floating-point values as exact reals (R48 to R55): decoding a code, exact arithmetic with the IEEE
rules for specials and zero signs, and Convert, the one rounding. -/
namespace Sys2Proof.Machine

/-- A floating-point value: a NaN, an infinity, or (−1)^neg × m × 2^e, where m = 0 is a zero with a sign. -/
inductive FVal where
  /-- Any NaN; payloads are never propagated (R50). -/
  | nan
  /-- An infinity. -/
  | inf (neg : Bool)
  /-- A finite value. -/
  | fin (neg : Bool) (m : Nat) (e : Int)
deriving DecidableEq, Repr

/-- Which codes are not finite (Table 2.2). -/
inductive Specials where
  /-- Infinities and NaNs as in IEEE 754. -/
  | ieee
  /-- NaN at all ones only (E4M3). -/
  | nanOnly
  /-- None. -/
  | none
deriving DecidableEq, Repr

/-- The layout of a format (Table 2.2). -/
structure FFmt where
  eb : Nat
  mb : Nat
  bias : Nat
  specials : Specials := .ieee
deriving DecidableEq, Repr

/-- E2M1. -/
def e2m1 : FFmt := { eb := 2, mb := 1, bias := 1, specials := .none }
/-- E2M3. -/
def e2m3 : FFmt := { eb := 2, mb := 3, bias := 1, specials := .none }
/-- E3M2. -/
def e3m2 : FFmt := { eb := 3, mb := 2, bias := 3, specials := .none }
/-- E4M3. -/
def e4m3 : FFmt := { eb := 4, mb := 3, bias := 7, specials := .nanOnly }
/-- E5M2. -/
def e5m2 : FFmt := { eb := 5, mb := 2, bias := 15 }
/-- BF16. -/
def bf16 : FFmt := { eb := 8, mb := 7, bias := 127 }
/-- FP16. -/
def fp16 : FFmt := { eb := 5, mb := 10, bias := 15 }
/-- FP32. -/
def fp32 : FFmt := { eb := 8, mb := 23, bias := 127 }
/-- FP64. -/
def fp64 : FFmt := { eb := 11, mb := 52, bias := 1023 }

/-- The format of a code of Table 2.1 that names a float. -/
def fmtOf (code : Nat) : FFmt :=
  match code with
  | 3 => e2m1
  | 4 => e2m3
  | 5 => e3m2
  | 6 => e4m3
  | 7 => e5m2
  | 10 => bf16
  | 11 => fp16
  | 15 => fp64
  | _ => fp32

/-- The bits of a format. -/
def FFmt.width (f : FFmt) : Nat := 1 + f.eb + f.mb

/-- The code of the largest finite magnitude. -/
def FFmt.maxCode (f : FFmt) : Nat :=
  match f.specials with
  | .ieee => (2 ^ f.eb - 1) * 2 ^ f.mb - 1
  | .nanOnly => 2 ^ (f.eb + f.mb) - 2
  | .none => 2 ^ (f.eb + f.mb) - 1

/-- The code of the sign. -/
def FFmt.signBit (f : FFmt) (neg : Bool) : Nat := if neg then 2 ^ (f.eb + f.mb) else 0

/-- The canonical NaN (Table 2.6); a format without NaNs has none, and converts a NaN to +0 (Table 2.7). -/
def FFmt.nanCode (f : FFmt) : Nat :=
  match f.specials with
  | .ieee => (2 ^ f.eb - 1) * 2 ^ f.mb + 2 ^ (f.mb - 1)
  | .nanOnly => 2 ^ (f.eb + f.mb) - 1
  | .none => 0

/-- The value of a code (R48 to R51). -/
def FFmt.decode (f : FFmt) (x : Nat) : FVal :=
  let neg := bit x (f.eb + f.mb)
  let e := bits x f.mb f.eb
  let m := bits x 0 f.mb
  let special := match f.specials with
    | .ieee => decide (e = 2 ^ f.eb - 1)
    | .nanOnly => decide (bits x 0 (f.eb + f.mb) = 2 ^ (f.eb + f.mb) - 1)
    | .none => false
  if special then (if m = 0 then .inf neg else .nan)
  else if e = 0 then .fin neg m (1 - f.bias - f.mb : Int)
  else .fin neg (2 ^ f.mb + m) ((e : Int) - f.bias - f.mb)

/-- The sign of a value; a NaN has none. -/
def FVal.neg : FVal → Bool
  | .nan => false
  | .inf n => n
  | .fin n _ _ => n

/-- Rounding modes: rn, rz, rm and rp as 0 to 3. -/
abbrev RMode := Nat

/-- A discarded part of a value leads to the greater magnitude: `r` of `2^k` was cut from a value whose kept part is
`n`. -/
def roundsUp (mode : RMode) (neg : Bool) (n r k : Nat) : Bool :=
  match mode with
  | 0 => decide (2 ^ k < 2 * r) || (decide (2 * r = 2 ^ k) && decide (n % 2 = 1))
  | 1 => false
  | 2 => neg && decide (r ≠ 0)
  | _ => !neg && decide (r ≠ 0)

/-- The length of a number in bits. -/
def bitLen (m : Nat) : Nat := if m = 0 then 0 else Nat.log2 m + 1

/-- m × 2^e as an integer number of quanta 2^q, rounded. A value below half a quantum leaves only its being nonzero. -/
def roundQuanta (mode : RMode) (neg : Bool) (m : Nat) (e q : Int) : Nat :=
  if q ≤ e then m * 2 ^ (e - q).toNat
  else
    let k := (q - e).toNat
    if bitLen m + 1 < k then b2n (roundsUp mode neg 0 (min m 1) 2)
    else
      let n := m / 2 ^ k
      let r := m % 2 ^ k
      if roundsUp mode neg n r k then n + 1 else n

/-- Round a finite value to a magnitude code, as if the exponent had no upper bound: codes past the largest finite
one mean overflow. -/
def FFmt.roundMag (f : FFmt) (mode : RMode) (neg : Bool) (m : Nat) (e : Int) : Nat :=
  let top : Int := e + bitLen m - 1
  let emin : Int := 1 - (f.bias : Int)
  let q := (if top < emin then emin else top) - f.mb
  let n := roundQuanta mode neg m e q
  if n < 2 ^ f.mb then n
  else
    let up := decide (2 ^ (f.mb + 1) ≤ n)
    let n := if up then n / 2 else n
    let q := if up then q + 1 else q
    (q + f.mb + f.bias).toNat * 2 ^ f.mb + (n - 2 ^ f.mb)

/-- The result of an overflow on a side: saturating, or by the IEEE policy (Table 2.7). -/
def FFmt.overflow (f : FFmt) (mode : RMode) (ieee neg : Bool) : Nat :=
  let away := match mode with
    | 0 => true
    | 1 => false
    | 2 => neg
    | _ => !neg
  match f.specials with
  | .ieee => if ieee && away then f.signBit neg + f.maxCode + 1 else f.signBit neg + f.maxCode
  | .nanOnly => f.signBit neg + f.maxCode
  | .none => f.signBit neg + f.maxCode

/-- Convert to a float format (R54): the code, and the flags that the conversion raises (R50, R55). -/
def FFmt.convert (f : FFmt) (mode : RMode) (ieee : Bool) (x : FVal) : Nat × FlagSet :=
  match x with
  | .nan =>
    match f.specials with
    | .ieee => (f.nanCode, flagNan)
    | .nanOnly => (f.nanCode, flagNan)
    | .none => (0, flagOvf)
  | .inf neg =>
    match f.specials with
    | .ieee =>
      if ieee then (f.signBit neg + f.maxCode + 1, 0) else (f.signBit neg + f.maxCode, flagOvf)
    | .nanOnly => (f.signBit neg + f.maxCode, flagOvf)
    | .none => (f.signBit neg + f.maxCode, flagOvf)
  | .fin neg m e =>
    if m = 0 then (f.signBit neg, 0)
    else
      let c := f.roundMag mode neg m e
      if f.maxCode < c then (f.overflow mode ieee neg, flagOvf) else (f.signBit neg + c, 0)

/-- A finite value rounded to an integer. -/
def roundInt (mode : RMode) (neg : Bool) (m : Nat) (e : Int) : Int :=
  let n := roundQuanta mode neg m e 0
  if neg then -(n : Int) else n

/-- Convert to an integer type (R54, R162): NaN gives 0, values out of range saturate, both with the flag. -/
def convertInt (w : Nat) (uns : Bool) (mode : RMode) (x : FVal) : Int × FlagSet :=
  match x with
  | .nan => (0, flagOvf)
  | .inf neg => (if neg then rangeLo w uns else rangeHi w uns, flagOvf)
  | .fin neg m e =>
    let big := decide (m ≠ 0 ∧ (2 * w : Int) < e + bitLen m)
    let (r, out) :=
      if big then (if neg then rangeLo w uns else rangeHi w uns, true)
      else clampTo (rangeLo w uns) (rangeHi w uns) (roundInt mode neg m e)
    (r, flagOn out flagOvf)

/-- An integer as a value. -/
def FVal.ofInt (i : Int) : FVal := .fin (decide (i < 0)) i.natAbs 0

/-- Multiply by a power of two. -/
def FVal.scale (x : FVal) (n : Int) : FVal :=
  match x with
  | .nan => .nan
  | .inf s => .inf s
  | .fin s m e => .fin s m (e + n)

/-- Invert the sign. -/
def FVal.flip (x : FVal) : FVal :=
  match x with
  | .nan => .nan
  | .inf s => .inf (!s)
  | .fin s m e => .fin (!s) m e

/-- The value is a NaN. -/
def FVal.isNan (x : FVal) : Bool := decide (x = .nan)

/-- The value is an infinity. -/
def FVal.isInf : FVal → Bool
  | .inf _ => true
  | .nan => false
  | .fin _ _ _ => false

/-- The value is a zero. -/
def FVal.isZero : FVal → Bool
  | .fin _ m _ => decide (m = 0)
  | .nan => false
  | .inf _ => false

/-- A finite magnitude as a signed number of quanta 2^q, for q at most its exponent. -/
def quanta (neg : Bool) (m : Nat) (e q : Int) : Int :=
  let n : Int := (m * 2 ^ (e - q).toNat : Nat)
  if neg then -n else n

/-- The exact sum, with the IEEE rules for specials; a sum that is exactly zero is +0, or −0 when rounding towards −∞,
unless both are zeros of one sign. -/
def FVal.add (mode : RMode) (a b : FVal) : FVal :=
  match a, b with
  | .nan, _ => .nan
  | _, .nan => .nan
  | .inf x, .inf y => if x = y then .inf x else .nan
  | .inf x, .fin _ _ _ => .inf x
  | .fin _ _ _, .inf y => .inf y
  | .fin x m e, .fin y n d =>
    if m = 0 ∧ n = 0 then .fin (if x = y then x else decide (mode = 2)) 0 0
    else if m = 0 then b
    else if n = 0 then a
    else
      let q := if e ≤ d then e else d
      let r := quanta x m e q + quanta y n d q
      if r = 0 then .fin (decide (mode = 2)) 0 0 else .fin (decide (r < 0)) r.natAbs q

/-- The exact product, with the IEEE rules for specials. -/
def FVal.mul (a b : FVal) : FVal :=
  match a, b with
  | .nan, _ => .nan
  | _, .nan => .nan
  | .inf x, .inf y => .inf (x != y)
  | .inf x, .fin y n _ => if n = 0 then .nan else .inf (x != y)
  | .fin x m _, .inf y => if m = 0 then .nan else .inf (x != y)
  | .fin x m e, .fin y n d => .fin (x != y) (m * n) (e + d)

/-- The exact a × b + c. -/
def FVal.fma (mode : RMode) (a b c : FVal) : FVal := FVal.add mode (a.mul b) c

/-- Order of two values that are no NaN; −0 and +0 are equal. -/
def FVal.lt (a b : FVal) : Bool :=
  match a, b with
  | .nan, _ => false
  | _, .nan => false
  | .inf x, .inf y => x && !y
  | .inf x, .fin _ _ _ => x
  | .fin _ _ _, .inf y => !y
  | .fin x m e, .fin y n d =>
    let q := if e ≤ d then e else d
    decide (quanta x m e q < quanta y n d q)

/-- Two values that are no NaN are equal; −0 equals +0. -/
def FVal.eqv (a b : FVal) : Bool := !a.isNan && !b.isNan && !(a.lt b) && !(b.lt a)

/-- Least or greatest of two values, −0 below +0 (R154). -/
def FVal.pickMin (a b : FVal) : FVal :=
  if a.isNan || b.isNan then .nan
  else if a.lt b then a
  else if b.lt a then b
  else if a.neg then a else b

/-- The greater, with +0 above −0 (R154). -/
def FVal.pickMax (a b : FVal) : FVal :=
  if a.isNan || b.isNan then .nan
  else if a.lt b then b
  else if b.lt a then a
  else if a.neg then b else a

/-- Round to an integral value of the same format (R156). -/
def FVal.integral (mode : RMode) (x : FVal) : FVal :=
  match x with
  | .nan => .nan
  | .inf s => .inf s
  | .fin s m e => if 0 ≤ e then x else .fin s (roundQuanta mode s m e 0) 0

/-- Comparisons of FCMP: .eq .ne .lt .le .gt .ge .un .ord (R158). -/
def compareFloat (cond : Nat) (a b : FVal) : Bool :=
  let un := a.isNan || b.isNan
  match cond with
  | 0 => a.eqv b
  | 1 => un || !(a.eqv b)
  | 2 => a.lt b
  | 3 => a.lt b || a.eqv b
  | 4 => b.lt a
  | 5 => b.lt a || a.eqv b
  | 6 => un
  | _ => !un

/-! ### Roots and reciprocals -/

/-- The integer square root, bit by bit from `2^k` down. -/
def isqrtFrom (n : Nat) : Nat → Nat → Nat
  | 0, r => r
  | k + 1, r =>
    let t := r + 2 ^ k
    isqrtFrom n k (if t * t ≤ n then t else r)

/-- The integer square root. -/
def isqrt (n : Nat) : Nat := isqrtFrom n (bitLen n / 2 + 1) 0

/-- Append to an exact lower part two bits that tell whether something below it was cut off. -/
def withSticky (n : Nat) (cut : Bool) : Nat := 4 * n + b2n cut

/-- 1 / x to more bits than any format rounds at (R159). -/
def FVal.recip (x : FVal) : FVal :=
  match x with
  | .nan => .nan
  | .inf s => .fin s 0 0
  | .fin s m e =>
    if m = 0 then .inf s
    else
      let k := bitLen m + 128
      .fin s (withSticky (2 ^ k / m) (decide (2 ^ k % m ≠ 0))) (-e - k - 2)

/-- The square root to more bits than any format rounds at (R159). -/
def FVal.sqrt (x : FVal) : FVal :=
  match x with
  | .nan => .nan
  | .inf s => if s then .nan else .inf false
  | .fin s m e =>
    if m = 0 then x
    else if s then .nan
    else
      let k : Nat := 256 + (e % 2).toNat
      let n := m * 2 ^ k
      let r := isqrt n
      .fin false (withSticky r (decide (r * r ≠ n))) ((e - k) / 2 - 2)

/-- 1 / √x to more bits than any format rounds at (R159). -/
def FVal.rsqrt (x : FVal) : FVal :=
  match x with
  | .nan => .nan
  | .inf s => if s then .nan else .fin false 0 0
  | .fin s m e =>
    if m = 0 then .inf s
    else if s then .nan
    else
      let m := m * 2 ^ (e % 2).toNat
      let e := e - e % 2
      let k := bitLen m + 128
      let r := isqrt (2 ^ (2 * k) / m)
      .fin false (withSticky r (decide (r * r * m ≠ 2 ^ (2 * k)))) (-(e / 2) - k - 2)

/-! ### Binned sums (R69) -/

/-- Exponent of a magnitude: ⌊log2⌋ of a nonzero finite value. -/
def FVal.exponent : FVal → Int
  | .fin _ m e => e + bitLen m - 1
  | .nan => 0
  | .inf _ => 0

/-- The special result of a binned sum, where it has one. -/
def binSpecial (l : List FVal) : Option FVal :=
  if l.any FVal.isNan || (l.contains (.inf true) && l.contains (.inf false)) then some .nan
  else if l.contains (.inf true) then some (.inf true)
  else if l.contains (.inf false) then some (.inf false)
  else if l.all FVal.isZero then some (.fin (l.all FVal.neg) 0 0)
  else none

/-- Pass 1: the greatest exponent of the values that are not zero. -/
def binExp (l : List FVal) : Int :=
  (l.filter fun x => !x.isZero).foldl (fun (a : Option Int) x =>
    match a with
    | none => some x.exponent
    | some y => some (if y < x.exponent then x.exponent else y)) none |>.getD 0

/-- The bins of a format: two for FP32, three for FP64. -/
def binCount (f : FFmt) : Nat := if f = fp64 then 3 else 2

/-- The quantum exponent of pass 2. -/
def binQ (f : FFmt) (e : Int) : Int := e - 40 * binCount f + 1

/-- Pass 2: a value in quanta. -/
def binQuanta (f : FFmt) (e : Int) (x : FVal) : Int :=
  match x with
  | .fin s m d =>
    let n : Int := roundQuanta 0 s m d (binQ f e)
    if s then -n else n
  | .nan => 0
  | .inf _ => 0

/-- The bins of a value in quanta, most significant first. -/
def binsOf (f : FFmt) (m : Int) : List Int :=
  (List.range (binCount f)).map fun j =>
    let d : Int := (m.natAbs / 2 ^ (40 * (binCount f - 1 - j)) % 2 ^ 40 : Nat)
    if m < 0 then -d else d

/-- The total of bins. -/
def binTotal (f : FFmt) (bins : List Int) : Int :=
  (List.range (binCount f)).foldl
    (fun t j => t + bins.getD j 0 * (2 ^ (40 * (binCount f - 1 - j)) : Nat))
    0

/-- The final rounding of a binned sum. A total of zero is +0. -/
def binRound (f : FFmt) (e total : Int) : Nat × FlagSet :=
  f.convert 0 true (.fin (decide (total < 0)) total.natAbs (binQ f e))

/-- A binned sum (R69). -/
def binnedSum (f : FFmt) (l : List FVal) : Nat × FlagSet :=
  match binSpecial l with
  | some x => f.convert 0 true x
  | none =>
    let e := binExp l
    binRound f e ((l.map (binQuanta f e)).foldl (· + ·) 0)

end Sys2Proof.Machine
end

