-- ==== Sys2Proof/Machine/MatrixNum.lean ====
section
/-! DEFINITION. The arithmetic of the matrix engine: packed records (R45, R195), the formats of Table 2.1 with the
INT4X outlier form (R47), the sum order of a product element (R56, R57), sliced products (R58 to R66), guidance
(R72), epilogue elements (R210) and the top-k order (R211). -/
namespace Sys2Proof.Machine

/-- Bits of an element (Table 2.1). -/
def elemBits (fmt : Nat) : Nat :=
  if fmt ≤ 3 then 4
  else if fmt ≤ 5 then 6
  else if fmt ≤ 9 then 8
  else if fmt ≤ 12 then 16
  else if fmt ≤ 14 then 32
  else 64

/-- A format of the integer path. -/
def intPath (fmt : Nat) : Bool := [0, 1, 8, 9].contains fmt

/-- A format of the integer or the float path, which MMA accepts. -/
def productFmt (fmt : Nat) : Bool := decide (fmt < 12)

/-- A format with one E8M0 scale for each 32 elements along K. -/
def scaledFmt (fmt : Nat) : Bool := decide (3 ≤ fmt ∧ fmt ≤ 7)

/-- Bytes of the packed elements of a record (R195). -/
def packedLen (fmt k : Nat) : Nat :=
  if elemBits fmt = 6 then 4 * ceilDiv (3 * ceilDiv k 4) 4 else 4 * ceilDiv (ceilDiv (k * elemBits fmt) 8) 4

/-- Bytes of the E8M0 scales of a record (R195). -/
def scaleLen (fmt k : Nat) : Nat := if scaledFmt fmt then 4 * ceilDiv (ceilDiv k 32) 4 else 0

/-- Bytes of a record (R195). -/
def recordLen (fmt k : Nat) (rs : Bool) : Nat := packedLen fmt k + scaleLen fmt k + (if rs then 4 else 0)

/-- The code of element k of a record (R45). -/
def elemCode (fmt : Nat) (l : List Byte) (k : Nat) : Nat :=
  let b := elemBits fmt
  if b = 4 then bits (l.getD (k / 2) 0).toNat (4 * (k % 2)) 4
  else if b = 6 then bits (leNat ((l.drop (3 * (k / 4))).take 3)) (6 * (k % 4)) 6
  else leNat ((l.drop (k * (b / 8))).take (b / 8))

/-- Decode the slots of one INT4X group from slot `i` on (R47): the values, and whether a marker is malformed. -/
def int4xGroup (slot : Nat → Nat) (nv : Nat) : Nat → Nat → List FVal × Bool
  | 0, _ => ([], false)
  | fuel + 1, i =>
    if nv ≤ i then ([], false)
    else if slot i = 8 then
      if nv ≤ i + 2 then
        let (r, _) := int4xGroup slot nv fuel (i + 1)
        (.fin false 0 0 :: r, true)
      else
        let (r, b) := int4xGroup slot nv fuel (i + 3)
        (e4m3.decode (16 * slot (i + 1) + slot (i + 2)) :: .fin false 0 0 :: .fin false 0 0 :: r, b)
    else
      let (r, b) := int4xGroup slot nv fuel (i + 1)
      (FVal.ofInt (signed 4 (slot i)) :: r, b)

/-- The values of a group of INT4X elements that starts at element 32 g of K (R47). -/
def int4xValues (code : Nat → Nat) (k g : Nat) : List FVal × Bool :=
  int4xGroup (fun i => code (32 * g + i)) (min 32 (k - 32 * g)) 33 0

/-- The values of K-block b of a record of K elements: those of indices 32 b to 32 b + 31 (R46 to R51). -/
def blockValues (fmt : Nat) (code : Nat → Nat) (k b : Nat) : List FVal :=
  let n := min 32 (k - 32 * b)
  match fmt with
  | 0 => (List.range n).map fun i => FVal.ofInt (signed 4 (code (32 * b + i)))
  | 1 => (List.range n).map fun i => FVal.ofInt (code (32 * b + i) : Nat)
  | 2 => (int4xValues code k b).1
  | 8 => (List.range n).map fun i => FVal.ofInt (signed 8 (code (32 * b + i)))
  | 9 => (List.range n).map fun i => FVal.ofInt (code (32 * b + i) : Nat)
  | _ => (List.range n).map fun i => (fmtOf fmt).decode (code (32 * b + i))

/-- A record of INT4X elements holds a malformed marker (R47). -/
def outlierFlag (fmt : Nat) (code : Nat → Nat) (k : Nat) : FlagSet :=
  flagOn (decide (fmt = 2) && (List.range (ceilDiv k 32)).any fun g => (int4xValues code k g).2) flagOutlier

/-- One operand of a product: element codes along K, E8M0 scale codes by K-block, and its FP32 scale if one applies. -/
structure Operand where
  fmt : Nat
  code : Nat → Nat
  scale : Nat → Nat
  fscale : Option FVal

/-- The exponent of an E8M0 scale; none for the scale NaN (R52). A format without scales reads 1.0. -/
def Operand.exp (o : Operand) (b : Nat) : Option Int :=
  if !(scaledFmt o.fmt) then some 0
  else if o.scale b = 255 then none
  else some ((o.scale b : Int) - 127)

/-- The FP32 scale, 1.0 where none applies (R53). -/
def Operand.factor (o : Operand) : FVal := o.fscale.getD (.fin false 1 0)

/-- The exact scaled sum of one K-block (R56). A sum that is exactly zero is −0 only when every product, with its
scales, is a zero with its sign bit set. -/
def blockSum (a w : Operand) (k b : Nat) (ea ew : Int) : FVal :=
  let products := ((blockValues a.fmt a.code k b).zip (blockValues w.fmt w.code k b)).map fun x => x.1.mul x.2
  let scaled := fun (x : FVal) => ((x.scale (ea + ew)).mul a.factor).mul w.factor
  let r := match products with
    | [] => scaled (.fin true 0 0)
    | p :: ps => scaled (ps.foldl (fun x y => FVal.add 0 x y) p)
  if r.isZero then
    .fin (products.all fun p =>
      let q := scaled p
      q.isZero && q.neg) 0 0
  else r

/-- The rounded K-block result of the float path (R53, R56). -/
def blockResult (a w : Operand) (k b : Nat) : Nat × FlagSet :=
  match a.exp b, w.exp b with
  | some ea, some ew =>
    if a.factor.isNan || w.factor.isNan then fp32.convert 0 true .nan
    else fp32.convert 0 true (blockSum a w k b ea ew)
  | none, _ => fp32.convert 0 true .nan
  | some _, none => fp32.convert 0 true .nan

/-- A float-path element: blocks added in increasing K order, one rounding each (R56). -/
def floatElement (a w : Operand) (k acc : Nat) : Nat × FlagSet :=
  (List.range (ceilDiv k 32)).foldl
    (fun x b =>
      let (blk, f) := blockResult a w k b
      let (y, g) := fp32.convert 0 true (FVal.add 0 (fp32.decode x.1) (fp32.decode blk))
      (y, x.2 ||| f ||| g))
    (acc, 0)

/-- A value of the integer path. -/
def FVal.toInt : FVal → Int
  | .fin s m e => if s then -((m * 2 ^ e.toNat : Nat) : Int) else ((m * 2 ^ e.toNat : Nat) : Int)
  | .nan => 0
  | .inf _ => 0

/-- An integer-path element: exact block sums added to INT32 with saturation (R57). -/
def intElement (a w : Operand) (k : Nat) (acc : Int) : Int × FlagSet :=
  (List.range (ceilDiv k 32)).foldl
    (fun x b =>
      let blk := ((blockValues a.fmt a.code k b).zip (blockValues w.fmt w.code k b)).foldl
        (fun (s : Int) y => s + y.1.toInt * y.2.toInt) 0
      let (v, out) := clampTo (rangeLo 32 false) (rangeHi 32 false) (x.1 + blk)
      (v, x.2 ||| flagOn out flagInt))
    (acc, 0)

/-- An element of a product (R199): `old` holds the accumulator element, or none where the product does not
accumulate. -/
def productElement (a w : Operand) (k : Nat) (old : Option Elem) : Elem × FlagSet :=
  if intPath w.fmt then
    let start : Int := match old with
      | some x => signed 32 x.toNat
      | none => 0
    let (v, f) := intElement a w k start
    (BitVec.ofNat 32 (wrap 32 v), f)
  else
    let start := match old with
      | some x => x.toNat
      | none => 2 ^ 31
    let (v, f) := floatElement a w k start
    (BitVec.ofNat 32 v, f)

/-! ### Sliced products -/

/-- Slice pairs in their order: increasing level, and within a level increasing p (R60). -/
def slicePairs (s : Nat) (full : Bool) : List (Nat × Nat) :=
  (List.range (2 * s + 1)).flatMap fun l =>
    (List.range (s + 1)).filterMap fun p =>
      let q := l - p
      if 1 ≤ p ∧ p < l ∧ q ≤ s ∧ (full ∨ l ≤ s + 1) then some (p, q) else none

/-- The highest level that runs (R62). -/
def topLevel (s : Nat) (full : Bool) : Nat := if full then 2 * s else s + 1

/-- The exponent of a row or column: one above that of its greatest magnitude, 0 if all its elements are zero (R58). -/
def sliceExp (l : List FVal) : Int :=
  (l.foldl
    (fun (a : Option Int) x =>
      if x.isZero then a
      else match a with
        | none => some x.exponent
        | some y => some (if y < x.exponent then x.exponent else y))
    none).elim 0 fun e => e + 1

/-- Slice t of a value scaled by 2^−e (R59): the truncation to 7 t bits less what the slices before it hold. -/
def sliceOf (x : FVal) (e : Int) (t : Nat) : Int :=
  match x with
  | .nan => 0
  | .inf _ => 0
  | .fin neg m d =>
    let cut := fun (t : Nat) =>
      let sh := d - e + 7 * (t : Int)
      if 0 ≤ sh then m * 2 ^ sh.toNat else m / 2 ^ (-sh).toNat
    let r : Int := (cut t : Int) - 128 * (cut (t - 1) : Int)
    if t = 0 then 0 else if neg then -r else r

/-- Elements of a sliced operand: the values of FP32 and FP64 codes, and of INT16 and INT32 ones. -/
def sliceValue (fmt code : Nat) : FVal :=
  match fmt with
  | 12 => FVal.ofInt (signed 16 code)
  | 13 => FVal.ofInt (signed 32 code)
  | 14 => fp32.decode code
  | _ => fp64.decode code

/-- A sliced format of floats. -/
def sliceFloat (fmt : Nat) : Bool := decide (14 ≤ fmt)

/-- s′ of R66. -/
def sliceCount (fmt s : Nat) : Nat := max s (if fmt = 12 then 3 else 5)

/-- The exponent by which an operand's elements are scaled before they are split: that of its row or column, or 7 s′
for integers, whose slices have integer weights (R59, R66). -/
def sliceScale (fmt s : Nat) (e : Int) : Int := if sliceFloat fmt then e else 7 * (sliceCount fmt s : Int)

/-- One pair's contribution to a level accumulator (R61). -/
def pairSum (a b : List FVal) (ea eb : Int) (p q : Nat) : Int :=
  (a.zip b).foldl (fun (s : Int) x => s + sliceOf x.1 ea p * sliceOf x.2 eb q) 0

/-- The combine of an FP32 or FP64 element (R62): least significant level first. -/
def combineFloat (level : Nat → Int) (top : Nat) (e : Int) (dbl : Bool) : Nat × FlagSet :=
  let (acc, f) := ((List.range (top + 1)).reverse.filter fun l => decide (2 ≤ l)).foldl
    (fun (x : Nat × FlagSet) l =>
      let (y, g) := fp64.convert 0 true (FVal.add 0 (fp64.decode x.1) ((FVal.ofInt (level l)).scale (-7 * (l : Int))))
      (y, x.2 ||| g))
    (0, 0)
  let (c, g) := (if dbl then fp64 else fp32).convert 0 true ((fp64.decode acc).scale e)
  (c, f ||| g)

/-- The combine of an integer element: exact, then saturated to its width (R66). -/
def combineInt (level : Nat → Int) (top n : Nat) (wide : Bool) : Nat × FlagSet :=
  let v := (List.range (top + 1)).foldl
    (fun (x : Int) l => if 2 ≤ l ∧ l ≤ 2 * n then x + level l * (2 ^ (7 * (2 * n - l)) : Nat) else x) 0
  let w := if wide then 64 else 32
  let (r, out) := clampTo (rangeLo w false) (rangeHi w false) v
  (wrap w r, flagOn out flagInt)

/-! ### Epilogue, guidance and top-k -/

/-- guide(c, u, g) (R72). -/
def guide (c u g : Elem) : Elem × FlagSet :=
  let (d, f) := fp32.convert 0 true (FVal.add 0 (fp32.decode c.toNat) (fp32.decode u.toNat).flip)
  let (r, h) := fp32.convert 0 true (FVal.fma 0 (fp32.decode g.toNat) (fp32.decode d) (fp32.decode u.toNat))
  (BitVec.ofNat 32 r, f ||| h)

/-- An element of AEPI (R210): scaled exactly, then converted with one rounding. -/
def epilogueElement (x : Elem) (int : Bool) (cs rs : Option FVal) (relu : Bool) (fmt mode : Nat) (ieee : Bool) :
    Nat × FlagSet :=
  let v := if int then FVal.ofInt (signed 32 x.toNat) else fp32.decode x.toNat
  let v := match cs with
    | some c => v.mul c
    | none => v
  let v := match rs with
    | some c => v.mul c
    | none => v
  let v := if relu && !v.isNan && v.neg then .fin false 0 0 else v
  match fmt with
  | 8 => let (i, f) := convertInt 8 false mode v; (wrap 8 i, f)
  | 9 => let (i, f) := convertInt 8 true mode v; (wrap 8 i, f)
  | 13 => let (i, f) := convertInt 32 false mode v; (wrap 32 i, f)
  | _ => (fmtOf fmt).convert mode ieee v

/-- before(a, b) of R211: score and index. -/
def rankBefore (a b : Elem × Nat) : Bool :=
  let x := fp32.decode a.1.toNat
  let y := fp32.decode b.1.toNat
  if x.isNan then y.isNan && decide (a.2 < b.2)
  else if y.isNan then true
  else if y.lt x then true
  else x.eqv y && decide (a.2 < b.2)

end Sys2Proof.Machine
end

