-- ==== Sys2Proof/Machine/Phys.lean ====
section
/-! DEFINITION. Physical memory at the home slices (R256): bytes, capability tags and uncorrectable errors of
LPDDR5X, and the lines of husks. Every write clears the tags of the granules that it touches (R169). -/
namespace Sys2Proof.Machine

/-- The byte of physical memory at an address; memory that nothing has written reads as zero (log 4). -/
def MemSys.byte (m : MemSys) (pa : Nat) : Byte := mapGet 0 m.bytes pa

/-- The canonical form of physical memory. -/
abbrev MemSys.wf (m : MemSys) : Bool := mapWf (0 : Byte) m.bytes

/-- Write one byte of physical memory. -/
def MemSys.setByte (m : MemSys) (pa : Nat) (x : Byte) : MemSys := { m with bytes := mapSet 0 m.bytes pa x }

/-- `n` bytes from an address up. -/
def MemSys.read (m : MemSys) (pa : Nat) : Nat → List Byte
  | 0 => []
  | n + 1 => m.byte pa :: m.read (pa + 1) n

/-- Write bytes from an address up. -/
def MemSys.store (m : MemSys) (pa : Nat) : List Byte → MemSys
  | [] => m
  | x :: r => (m.setByte pa x).store (pa + 1) r

/-- The tag of the granule of an address (R257). -/
def MemSys.tag (m : MemSys) (pa : Nat) : Bool := mapGet false m.tags (pa / 32)

/-- Set or clear the tag of a granule. -/
def MemSys.setTag (m : MemSys) (pa : Nat) (t : Bool) : MemSys := { m with tags := mapSet false m.tags (pa / 32) t }

/-- The sector of an address holds an uncorrectable error (R257). -/
def MemSys.bad (m : MemSys) (pa : Nat) : Bool := mapGet false m.poison (pa / 32)

/-- The 32-byte units from the one of `a` to the one of the last byte of a range of `n` bytes. -/
def unitsOf (size a n : Nat) : List Nat :=
  if n = 0 then [] else (List.range ((a + n - 1) / size - a / size + 1)).map fun i => a / size + i

/-- The frame of 64 KiB of a physical address (R353). -/
def frameOf (pa : Nat) : Nat := pa / 65536

/-- The owner entry of a frame; an unlisted frame is free (R353). -/
def State.owner (s : State) (frame : Nat) : Owner := mapGet {} s.prot.owners frame

/-- An entry of the page-owner table (Table 15.2). -/
def Owner.word (o : Owner) : Nat :=
  if o.state = 1 ∨ o.state = 2 then
    (if o.state = 2 then o.seq.toNat else 0) + 2 ^ 42 * o.ctx + 2 ^ 54 * o.husk + 2 ^ 62 * o.state
  else 2 ^ 62 * o.state

/-- The device writes its own data in the reserved region (R353, R390). -/
def State.putRegion (s : State) (off : Nat) (l : List Byte) : State :=
  { s with mem := s.mem.store (s.cfg.resv.toNat + off) l }

/-- Write the owner entry of a frame, in the page-owner table too: at offset 128 MiB of the reserved region (R353,
R390). An unlisted frame is free. -/
def State.putOwner (s : State) (f : Nat) (o : Owner) : State :=
  { s with prot := { s.prot with owners := mapSet {} s.prot.owners f o } }.putRegion (2 ^ 27 + 8 * f) (leBytes 8 o.word)

/-- The device refuses the reserved region once the configuration blob has placed it (R390). -/
def State.inRegion (s : State) (pa : Nat) : Bool :=
  decide (s.arn.bstate = 1 ∧ pa / 2 ^ 28 = s.cfg.resv.toNat / 2 ^ 28)

/-- Write bytes to lines that are open to it: tags of the touched granules are cleared, a wholly written sector loses its
uncorrectable error unless no write mends it, what it changes is noted for the fetches of placed blocks (R89), the lines
become newer than LPDDR5X, and lines of a husk newer than their seal. -/
def State.put (s : State) (pa : Nat) (l : List Byte) : State :=
  if l.isEmpty then s
  else
    let n := l.length
    let m := s.mem.store pa l
    let secs := unitsOf 32 pa n
    let lines := unitsOf 128 pa n
    let whole := fun u => decide (pa ≤ 32 * u ∧ 32 * u + 32 ≤ pa + n)
    let changed := secs.filter fun u => decide (m.read (32 * u) 32 ≠ s.mem.read (32 * u) 32)
    { s with
      mem := { m with
        tags := secs.foldl (fun t u => mapErase t u) m.tags
        poison := secs.foldl (fun t u => if whole u && !mapGet false m.stuck u then mapErase t u else t) m.poison
        past := if s.blocks.isEmpty then m.past
          else changed.foldl (fun t u => mapPut t u ((s.births, s.mem.read (32 * u) 32) :: mapGet [] t u)) m.past
        l2dirty := lines.foldl (fun t u => mapSet false t u true) m.l2dirty }
      prot := { s.prot with
        waysDirty := lines.foldl
          (fun t u =>
            let o := s.owner (u / 512)
            if o.state = 1 then mapPut t u o.husk else t)
          s.prot.waysDirty } }

/-- Read a doubleword at the home slices. -/
def State.readDw (s : State) (pa : Nat) : Word := BitVec.ofNat 64 (leNat (s.mem.read pa 8))

/-- Some sector of a range holds an uncorrectable error. -/
def State.anyBad (s : State) (pa n : Nat) : Bool := (unitsOf 32 pa n).any fun u => s.mem.bad (32 * u)

/-- Remove the entries of a map whose keys lie in a range. -/
def mapClear {α : Type} (m : Map α) (lo n : Nat) : Map α :=
  mapKeep m fun k _ => !(decide (lo ≤ k ∧ k < lo + n))

/-- The entries of a map whose keys lie in a range. -/
def mapWithin {α : Type} (m : Map α) (lo n : Nat) : Map α := mapKeep m fun k _ => decide (lo ≤ k ∧ k < lo + n)

/-- A sector that no write mends, after it was written with zero (R364): uncorrectable, or with a first byte that is a
free value other than zero. -/
def State.spoil (s : State) (sec : Nat) (bad : Bool) : State :=
  if bad then { s with mem := { s.mem with poison := mapPut s.mem.poison sec true } }
  else
    let (x, s) := s.freeWord
    let b : Byte := x.extractLsb' 0 8
    { s with mem := s.mem.setByte (32 * sec) (if b = 0 then 1 else b) }

/-- Zero a range of whole lines, with clear tags and no errors but those that no write mends. -/
def State.zeroLines (s : State) (pa n : Nat) : State :=
  let t := { s with
    mem := { s.mem with
      bytes := mapClear s.mem.bytes pa n
      tags := mapClear s.mem.tags (pa / 32) (n / 32)
      poison := mapClear s.mem.poison (pa / 32) (n / 32)
      l2dirty := mapClear s.mem.l2dirty (pa / 128) (n / 128) } }
  (mapWithin s.mem.stuck (pa / 32) (n / 32)).foldl (fun s e => s.spoil e.1 e.2) t

/-- The key of a husk's key slot; empty when the slot is (R346). -/
def State.huskKey (s : State) (husk : Nat) : List Byte :=
  match mapFind s.prot.husks husk with
  | some h => mapGet [] s.prot.keys h.slot
  | none => []

/-- The key under which a line of an owned frame is sealed (R357). -/
def State.lineKey (s : State) (line : Nat) : List Byte :=
  match mapFind s.prot.lineKeys line with
  | some k => k
  | none => (s.owner (line / 512)).key

/-- A line of a husk unseals under the husk's key: it is held newer in the ways, or its seal was made with that key
(R357). -/
def State.sealOk (s : State) (husk line : Nat) : Bool :=
  (mapFind s.prot.waysDirty line).isSome ||
  (!(s.huskKey husk).isEmpty && decide (s.lineKey line = s.huskKey husk))

/-- Write lines of a physical range back to LPDDR5X, sealing those of husks (R176, R356). -/
def State.cleanLines (s : State) (pa n : Nat) : State :=
  let lo := pa / 128
  let hi := (pa + n + 127) / 128
  let here := fun (l : Nat) => decide (lo ≤ l ∧ l < hi)
  let sealed := s.prot.waysDirty.filter fun e => here e.1
  { s with
    prot := { s.prot with
      waysDirty := s.prot.waysDirty.filter fun e => !(here e.1)
      lineKeys := sealed.foldl
        (fun t e => if (s.owner (e.1 / 512)).key = s.huskKey e.2 then mapErase t e.1 else mapPut t e.1 (s.huskKey e.2))
        s.prot.lineKeys }
    mem := { s.mem with l2dirty := s.mem.l2dirty.filter fun e => !(here e.1) } }

/-- Seal every dirty line that a husk holds in its ways (R351, R356). -/
def State.sealHusk (s : State) (husk : Nat) : State :=
  let mine := s.prot.waysDirty.filter fun e => decide (e.2 = husk)
  { s with
    prot := { s.prot with
      waysDirty := s.prot.waysDirty.filter fun e => decide (e.2 ≠ husk)
      lineKeys := mine.foldl
        (fun t e =>
          if (s.owner (e.1 / 512)).key = s.huskKey husk then mapErase t e.1 else mapPut t e.1 (s.huskKey husk))
        s.prot.lineKeys }
    mem := { s.mem with l2dirty := mine.foldl (fun t e => mapErase t e.1) s.mem.l2dirty } }

/-- Discard every L1's copies of a frame, with no write-back. -/
def State.dropCopies (s : State) (frame : Nat) : State :=
  let keep := fun (e : Nat × List Sector) =>
    let l := e.2.filter fun x => decide (x.pa / 2048 ≠ frame)
    if l.isEmpty then none else some (e.1, l)
  { s with mem := { s.mem with l1 := s.mem.l1.filterMap keep } }

/-- Claim a free frame for a husk and a context: every line becomes the seal of 128 zero bytes with clear tags, and no
copy of what the frame held before stays (R354). -/
def State.claim (s : State) (frame husk ctx : Nat) : State :=
  let s := (s.dropCopies frame).zeroLines (65536 * frame) 65536
  let s := s.putOwner frame { state := 1, husk, ctx, key := s.huskKey husk, seals := true }
  { s with
    prot := { s.prot with
      lineKeys := mapClear s.prot.lineKeys (512 * frame) 512
      waysDirty := mapClear s.prot.waysDirty (512 * frame) 512 } }

/-- BAR0 is in service: the first health block is written, and the package has not tripped (R388, R391, R400). -/
def State.inService (s : State) : Bool := decide (s.arn.bstate = 1) && !s.health.tripped

/-- An event sets bits of arn.status (R5). -/
def State.setStatus (s : State) (x : BitVec 3) : State :=
  { s with arn := { s.arn with status := s.arn.status ||| x, statusNew := s.arn.statusNew ||| x } }

/-- Raise an MSI-X vector. -/
def State.msi (s : State) (v : Nat) : State := { s with arn := { s.arn with msix := s.arn.msix ++ [v] } }

/-- Bytes of LPDDR5X (Table 0.1). -/
def memBytes : Nat := 2 ^ 40

/-- Lines of the L2 (Table 0.1), and of one way of it (R351). -/
def l2Lines : Nat := 6 * 2 ^ 30 / 128
/-- Lines of one way of the L2. -/
def wayLines : Nat := 2 ^ 28 / 128

/-- The L2, and each husk's ways, hold no more lines that are newer than LPDDR5X than they have room for: the lowest are
written back (Table 0.1, R351, log 6). -/
def State.trimL2 (s : State) : State :=
  let drop := fun (s : State) (l : List Nat) => l.foldl (fun s u => s.cleanLines (128 * u) 128) s
  let s := drop s ((s.mem.l2dirty.take (s.mem.l2dirty.length - l2Lines)).map Prod.fst)
  s.prot.husks.foldl
    (fun s h =>
      let mine := s.prot.waysDirty.filter fun e => decide (e.2 = h.1)
      drop s ((mine.take (mine.length - h.2.ways * wayLines)).map Prod.fst))
    s

/-- The lines that a write covers in part. -/
def partLines (pa n : Nat) : List Nat :=
  (unitsOf 128 pa n).filter fun u => !(decide (pa ≤ 128 * u ∧ 128 * u + 128 ≤ pa + n))

/-- A husk's line is open to a write of part of it: its seal matches, or it is no owned line (R356). -/
def State.lineOpen (s : State) (line : Nat) : Bool :=
  let o := s.owner (line / 512)
  decide (o.state ≠ 1) || s.sealOk o.husk line

/-- A husk's line whose seal does not match is an uncorrectable error of all its sectors once part of it is written
(R357). -/
def State.breakLine (s : State) (line : Nat) : State :=
  { s with mem := { s.mem with
      poison := [0, 1, 2, 3].foldl (fun t i => mapSet false t (4 * line + i) true) s.mem.poison } }

/-- A physical address that names no memory open to a packet or to a write of Arnal's: beyond LPDDR5X (log 49), in the
reserved region (R390), or in a frame that is owned or being scrubbed, which only its own husk's ways hold in the clear
(R352, R354). -/
def State.closed (s : State) (pa : Nat) : Bool :=
  decide (memBytes ≤ pa) || s.inRegion pa || decide ((s.owner (frameOf pa)).state = 1 ∨ (s.owner (frameOf pa)).state = 2)

/-- An address of the scrub records or of the page-owner table, which only the device's own upkeep of them writes (R353,
R390). -/
def State.inTables (s : State) (pa : Nat) : Bool := s.inRegion pa && decide (65536 ≤ pa % 2 ^ 28)

/-- Write bytes to lines that are open to it, and keep the L2 and the ways within their room. There is no memory beyond
LPDDR5X: a write there is lost (log 49). So is one that names the page-owner table or the scrub records (log 47). -/
def State.putHome (s : State) (pa : Nat) (l : List Byte) : State :=
  if memBytes < pa + l.length ∨ s.inTables pa = true then s else (s.put pa l).trimL2

/-- A write of Arnal's own to its error ring: a husk's line whose seal does not match breaks. -/
def State.ringWrite (s : State) (pa : Nat) (l : List Byte) : State :=
  (((partLines pa l.length).filter fun u => !s.lineOpen u).foldl (fun s u => s.breakLine u) s).putHome pa l

/-- Write an error record to the error ring, or drop it when the ring is full (R309, R340). `packet` names a queue,
the ring word and the tag of a packet. -/
def State.errorRecord (s : State) (cls code : Nat) (ctx : Nat) (packet : Option (Nat × BitVec 32 × BitVec 32))
    (d0 d1 : Word) : State :=
  let a := s.arn
  if a.errwr - a.errrd = BitVec.ofNat 32 (2 ^ a.errlog.toNat) then
    s.setStatus 1
  else
    let dw0 : Nat := cls % 256 + 256 * (code % 256) + 65536 * (ctx % 4096) +
      (match packet with
       | some (q, _, _) => 2 ^ 39 + 2 ^ 40 * (q % 256)
       | none => 0)
    let dw1 : Nat := match packet with
      | some (_, h, t) => h.toNat + 2 ^ 32 * t.toNat
      | none => 0
    let pa := a.errbase.toNat + 32 * (a.errwr.toNat % 2 ^ a.errlog.toNat)
    let s := s.ringWrite pa (dwBytes [BitVec.ofNat 64 dw0, BitVec.ofNat 64 dw1, d0, d1])
    ({ s with arn := { s.arn with errwr := a.errwr + 1 } }.setStatus 2).msi 0

/-- An uncorrectable error in LPDDR5X or L2 met by a reader: counted, with a record of class 0x06 (R396,
Table 17.4). -/
def State.memError (s : State) (pa : Nat) (engine : Bool) : State :=
  let s := { s with health := { s.health with uncorrected := s.health.uncorrected + 1 } }
  s.errorRecord 0x06 0x02 0xFFF none (BitVec.ofNat 64 pa) (BitVec.ofNat 64 (b2n engine))

/-- A seal that does not match: a record of class 0x07, and an uncorrectable error for the reader (R357). -/
def State.sealError (s : State) (pa husk : Nat) (engine : Bool) : State :=
  (s.errorRecord 0x07 0x05 0xFFF none (BitVec.ofNat 64 (128 * (pa / 128))) (BitVec.ofNat 64 husk)).memError pa engine

/-- An uncorrectable error of an SRAM row of a core, met by a reader: 0 a register, 1 the scratchpad, 2 the accumulator,
3 an engine buffer (R396, Table 17.4). -/
def State.sramError (s : State) (core unit row : Nat) : State :=
  let s := { s with health := { s.health with uncorrected := s.health.uncorrected + 1 } }
  s.errorRecord 0x06 0x04 0xFFF none (BitVec.ofNat 64 (core + 2 ^ 12 * unit)) (BitVec.ofNat 64 row)

/-- The memory-error fault of a warp that reads an SRAM row with an uncorrectable error (R396). -/
def sramTrap (lanes : Word) : Trap := { cause := 0x18, addr := 0, lanes }

/-! ### Writes at the home slices -/

/-- A write of part of a husk's line first fills the line, which checks its seal (R356, R357): one that does not match is
an uncorrectable error of all its sectors. -/
def State.openLine (s : State) (line : Nat) : State :=
  if s.lineOpen line then s
  else (s.sealError (128 * line) (s.owner (line / 512)).husk false).breakLine line

/-- Write bytes at the home slices. -/
def State.physWrite (s : State) (pa : Nat) (l : List Byte) : State :=
  if memBytes < pa + l.length ∨ s.inTables pa = true then s
  else ((partLines pa l.length).foldl (fun s u => s.openLine u) s).putHome pa l

/-- Write a doubleword at the home slices. -/
def State.physDw (s : State) (pa : Nat) (x : Word) : State := s.physWrite pa (leBytes 8 x.toNat)

end Sys2Proof.Machine
end

