-- ==== Sys2Proof/Machine/Translate.lean ====
section
/-! DEFINITION. Translation: the page-table walk (R258, R259), the cached leaves (R260) and the page-owner check
(R354). -/
namespace Sys2Proof.Machine

/-- The permissions that an access needs of its leaf (R259). -/
structure Need where
  r : Bool := false
  w : Bool := false
  x : Bool := false
  /-- An access from another module (RA). -/
  ra : Bool := false
deriving DecidableEq, Repr

/-- The answer of a translation. -/
inductive Landing where
  /-- The physical address and the leaf. -/
  | ok (pa : Nat) (pte : Word)
  /-- A page fault, or an uncorrectable error met by the walk. -/
  | fail (i : FaultInfo)
deriving DecidableEq, Repr

/-- The levels of Table 8.2 from the top: level, lowest VA bit indexed, index bits. -/
def levels : List (Nat × Nat × Nat) := [(5, 48, 9), (4, 39, 9), (3, 30, 9), (2, 27, 3), (1, 21, 6), (0, 16, 5)]

/-- Reserved bits that are zero in every entry: [63], [53:52], [11:8] and [6] (Table 8.3). -/
def pteRsvd (e : Nat) : Bool := bit e 63 || decide (bits e 52 2 ≠ 0) || decide (bits e 8 4 ≠ 0) || bit e 6

/-- A table entry with a field set that is zero for its kind (Table 8.3). -/
def tableBad (e : Nat) : Bool :=
  decide (bits e 54 9 ≠ 0) || bit e 7 || decide (bits e 2 4 ≠ 0)

/-- A leaf with a husk number and H clear, or with address bits below its page size (Table 8.3). -/
def leafBad (e shift : Nat) : Bool :=
  (!(bit e 54) && decide (bits e 55 8 ≠ 0)) || decide (bits e 12 (shift - 12) ≠ 0)

/-- What a walk ends at. -/
inductive Walk where
  /-- A leaf and the lowest VA bit above its page offset. -/
  | leaf (pte : Word) (shift : Nat)
  /-- The first entry that fails the walk. -/
  | miss
  /-- An entry with an uncorrectable error. -/
  | bad (pa : Nat)
deriving DecidableEq, Repr

/-- Walk the levels from a table (R259): entries are read at their home slices. -/
def State.walk (s : State) (va : Nat) : Nat → List (Nat × Nat × Nat) → Walk
  | _, [] => .miss
  | table, (lvl, sh, n) :: rest =>
    let at_ := table + 8 * bits va sh n
    if s.mem.bad at_ then .bad at_
    else
      let e := (s.readDw at_).toNat
      if !(bit e 0) || pteRsvd e then .miss
      else if bit e 1 then
        if lvl = 0 || tableBad e then .miss else s.walk va (4096 * bits e 12 40) rest
      else if 4 ≤ lvl || leafBad e sh then .miss
      else .leaf (BitVec.ofNat 64 e) sh

/-- VA bits [63:57] all equal bit 56 (R258). -/
def canonical (va : Nat) : Bool := decide (bits va 56 8 = 0 ∨ bits va 56 8 = 255)

/-- The translation structures that serve an access, nearest first, with their entries (R260): the TLB of its cluster
and the last-level TLB of the die; an access that no cluster makes, by Arnal or from another module, uses that of die 0
(log 6). -/
def tlbsOf (cluster : Option Nat) : List (Nat × Nat) :=
  match cluster with
  | some c => [(c, 512), (4096 + c / 64, 8192)]
  | none => [(4096, 8192)]

/-- The leaves that a translation structure holds. -/
def State.tlb (s : State) (id : Nat) : List TlbEntry := mapGet [] s.mem.tlb id

/-- A cached leaf covers an address of an ASID (R260). -/
def TlbEntry.covers (t : TlbEntry) (asid : BitVec 16) (va : Nat) : Bool :=
  decide (t.asid = asid ∧ t.va / 2 ^ t.level = va / 2 ^ t.level)

/-- Remove one element of a list that is longer than it may be: the part chooses which (log 6). -/
def State.makeRoom {α : Type} (s : State) (l : List α) (cap : Nat) : List α × State :=
  if l.length < cap then (l, s)
  else
    let (x, s) := s.freeWord
    (l.eraseIdx (x.toNat % l.length), s)

/-- Cache a leaf in a translation structure, in place of those that cover the same address. -/
def State.fillTlb (s : State) (id cap : Nat) (t : TlbEntry) (va : Nat) : State :=
  let (keep, s) := s.makeRoom ((s.tlb id).filter fun x => !(x.covers t.asid va)) cap
  { s with mem := { s.mem with tlb := mapSet [] s.mem.tlb id (keep ++ [t]) } }

/-- Cache what a walk has found in the structures that serve an access; a walk that faults leaves nothing behind. -/
def State.fillTlbs (s : State) (cluster : Option Nat) (asid : BitVec 16) (va : Nat) (w : Walk) : State :=
  match w with
  | .leaf pte sh =>
    (tlbsOf cluster).foldl
      (fun s x => s.fillTlb x.1 x.2 { asid, level := sh, va := va / 2 ^ sh * 2 ^ sh, pte } va) s
  | .miss => s
  | .bad _ => s

/-- A cached leaf that covers an address of an ASID, from the nearest structure that has one (R260). -/
def State.cached (s : State) (cluster : Option Nat) (asid : BitVec 16) (va : Nat) : Option TlbEntry :=
  (tlbsOf cluster).findSome? fun x => (s.tlb x.1).find? fun t => t.covers asid va

/-- The leaf that an access uses: that of a walk, or a cached one that a later store to the tables has not yet
reached, as the part chooses (R260, R261, log 6). -/
def State.findLeaf (s : State) (cluster : Option Nat) (asid : BitVec 16) (root va : Nat) : Walk × State :=
  let w := s.walk va root levels
  match s.cached cluster asid va with
  | none => (w, s.fillTlbs cluster asid va w)
  | some t =>
    let (old, s) := if w = .leaf t.pte t.level then (true, s) else s.choose
    let use := if old then .leaf t.pte t.level else w
    (use, if (s.tlb ((tlbsOf cluster).headD (0, 0)).1).contains t ∧ old then s else s.fillTlbs cluster asid va use)

/-- The permissions of a leaf cover what an access needs. -/
def grants (pte : Nat) (n : Need) : Bool :=
  (!n.r || bit pte 2) && (!n.w || bit pte 3) && (!n.x || bit pte 4) && (!n.ra || bit pte 7)

/-- The husk of a leaf with H set (Table 8.3). -/
def leafHusk (pte : Nat) : Option Nat := if bit pte 54 then some (bits pte 55 8) else none

/-- A context is bound to a husk. -/
def State.boundTo (s : State) (ctx h : Nat) : Bool := (mapFind s.ctxs ctx).any fun c => c.prot && decide (c.husk = h)

/-- The owner entry of a frame allows an access through a leaf as it stands, with no claim (R354). -/
def State.ownerAllows (s : State) (ctx : Nat) (husk : Option Nat) (frame : Nat) : Bool :=
  let o := s.owner frame
  match husk with
  | some h => s.boundTo ctx h && decide (o.state = 1 ∧ o.husk = h ∧ o.ctx = ctx)
  | none => decide (o.state = 0)

/-- The owner check of R354: true where the access proceeds, after a claim if the frame was free. -/
def State.ownerCheck (s : State) (ctx pte pa : Nat) : Bool × State :=
  match leafHusk pte with
  | some h =>
    if s.boundTo ctx h ∧ (s.owner (frameOf pa)).state = 0 then (true, s.claim (frameOf pa) h ctx)
    else (s.ownerAllows ctx (some h) (frameOf pa), s)
  | none => (s.ownerAllows ctx none (frameOf pa), s)

/-- Translate an address of a context (R258 to R260, R354) for an access that a cluster makes, or none. `acc` is the
access code of Table 8.5. A leaf that maps the reserved region, or memory that does not exist (log 49), does not grant
the access. -/
def State.translate (s : State) (cluster : Option Nat) (ctx : Nat) (va : Word) (need : Need) (acc : Nat) :
    Landing × State :=
  match mapFind s.ctxs ctx with
  | none => (.fail { va, write := acc }, s)
  | some c =>
    if !(canonical va.toNat) then (.fail { va, write := acc }, s)
    else
      let (w, s) := s.findLeaf cluster c.asid c.root.toNat va.toNat
      match w with
      | .miss => (.fail { va, write := acc }, s)
      | .bad pa => (.fail { va, write := acc, mem := true }, s.memError pa false)
      | .leaf pte sh =>
        let pa := bits pte.toNat 12 40 * 4096 + va.toNat % 2 ^ sh
        if !(grants pte.toNat need) || s.inRegion pa || decide (memBytes ≤ pa) then (.fail { va, write := acc, perm := true }, s)
        else
          let (ok, s) := s.ownerCheck ctx pte.toNat pa
          if ok then (.ok pa pte, s) else (.fail { va, write := acc, perm := true, own := true }, s)

/-- A line that an access reads is readable: no uncorrectable error in the bytes, and a husk's line unseals (R257,
R357). -/
def State.readable (s : State) (pte : Word) (pa n : Nat) : Bool :=
  !(s.anyBad pa n) &&
  (!(bit pte.toNat 54) || (unitsOf 128 pa n).all fun u => s.sealOk (bits pte.toNat 55 8) u)

/-- Record the error that makes a line unreadable. -/
def State.noteUnreadable (s : State) (pte : Word) (pa n : Nat) (engine : Bool) : State :=
  if s.anyBad pa n then s.memError pa engine else s.sealError pa (bits pte.toNat 55 8) engine

/-- Translate every page of a byte range, page by page: the spans in order (physical address, leaf and length), or the
first failure. `fuel` is the number of pages at most. -/
def State.translatePages (s : State) (cluster : Option Nat) (ctx : Nat) (need : Need) (acc : Nat) (va : Word) (n : Nat) :
    Nat → Except FaultInfo (List (Nat × Word × Nat)) × State
  | 0 => (.ok [], s)
  | fuel + 1 =>
    if n = 0 then (.ok [], s)
    else
      let k := min n (65536 - va.toNat % 65536)
      match s.translate cluster ctx va need acc with
      | (.fail i, s) => (.error i, s)
      | (.ok pa pte, s) =>
        match s.translatePages cluster ctx need acc (va + BitVec.ofNat 64 k) (n - k) fuel with
        | (.error i, s) => (.error i, s)
        | (.ok l, s) => (.ok ((pa, pte, k) :: l), s)

/-- Translate a byte range. -/
def State.translateRange (s : State) (cluster : Option Nat) (ctx : Nat) (need : Need) (acc : Nat) (va : Word) (n : Nat) :
    Except FaultInfo (List (Nat × Word × Nat)) × State :=
  s.translatePages cluster ctx need acc va n (n / 65536 + 2)

end Sys2Proof.Machine
end

