-- ==== Sys2Proof/Machine/L1.lean ====
section
/-! DEFINITION. The L1 (R252 to R255): sectors of virtual lines with their permissions and tag, dirty bytes that only
the writing slot sees until they are written back, and the accesses that are made at the home slice. Where a copy and
its home differ and the manual lets the part use either, the part chooses (log 6). -/
namespace Sys2Proof.Machine

/-- The L1 of a core: its own, or the cluster's when fused (R255). -/
def State.l1Of (s : State) (core : Nat) : Nat :=
  if s.fused.contains (clusterOf core) then 1024 + clusterOf core else core

/-- The sectors of an L1. -/
def State.sectors (s : State) (id : Nat) : List Sector := mapGet [] s.mem.l1 id

/-- Replace the sectors of an L1. -/
def State.putSectors (s : State) (id : Nat) (l : List Sector) : State :=
  { s with mem := { s.mem with l1 := mapSet [] s.mem.l1 id l } }

/-- The sector of an ASID and VA / 32. -/
def State.sector (s : State) (id : Nat) (asid : BitVec 16) (va : Nat) : Option Sector :=
  (s.sectors id).find? fun x => decide (x.asid = asid ∧ x.va = va)

/-- Drop the sector of an ASID and VA / 32. -/
def State.dropSector (s : State) (id : Nat) (asid : BitVec 16) (va : Nat) : State :=
  s.putSectors id ((s.sectors id).filter fun x => !(decide (x.asid = asid ∧ x.va = va)))

/-- Put a sector into an L1, in place of its own old copy. -/
def State.putSector (s : State) (id : Nat) (x : Sector) : State :=
  let s := s.dropSector id x.asid x.va
  s.putSectors id (s.sectors id ++ [x])

/-- Dirty bytes over those of another list. -/
def overlay (mask : BitVec 32) (new old : List Byte) : List Byte :=
  (List.range 32).map fun i => if mask.getLsbD i then new.getD i 0 else old.getD i 0

/-- The owner entry of a sector's frame allows its accesses (R354). -/
def State.sectorAllowed (s : State) (x : Sector) : Bool := s.ownerAllows x.ctx x.husk (x.pa / 2048)

/-- Write the dirty bytes of a sector to its home slice (R253). A write-back that the owner check refuses is lost: no
access is left to fault (R354, log 6). -/
def State.writeHome (s : State) (x : Sector) : State :=
  if x.dirty = 0 || !s.sectorAllowed x then s
  else
    let pa := 32 * x.pa
    let bad := s.mem.bad pa && decide (x.dirty ≠ BitVec.allOnes 32)
    let s := s.physWrite pa (overlay x.dirty x.data (s.mem.read pa 32))
    if bad then { s with mem := { s.mem with poison := mapSet false s.mem.poison x.pa true } } else s

/-- Write back a sector of an L1 and keep it there clean. -/
def State.writeBack (s : State) (id : Nat) (x : Sector) : State :=
  if x.dirty = 0 then s else (s.writeHome x).putSector id { x with dirty := 0, tag := false }

/-- Write back and drop the sectors of an L1 that pass a test. -/
def State.evictWhere (s : State) (id : Nat) (p : Sector → Bool) : State :=
  let l := s.sectors id
  let s := (l.filter p).foldl (fun s x => s.writeHome x) s
  s.putSectors id (l.filter fun x => !(p x))

/-- Write back the sectors of an L1 that pass a test and keep them clean. -/
def State.cleanWhere (s : State) (id : Nat) (p : Sector → Bool) : State :=
  let l := s.sectors id
  let s := (l.filter p).foldl (fun s x => s.writeHome x) s
  s.putSectors id (l.map fun x => if p x && decide (x.dirty ≠ 0) then { x with dirty := 0, tag := false } else x)

/-- The identifiers of the L1s that hold sectors. -/
def State.l1Ids (s : State) : List Nat := s.mem.l1.map Prod.fst

/-- Write back and drop the sectors of every L1 that pass a test. -/
def State.evictAll (s : State) (p : Sector → Bool) : State := s.l1Ids.foldl (fun s i => s.evictWhere i p) s

/-- Write back the sectors of every L1 that pass a test. -/
def State.cleanAll (s : State) (p : Sector → Bool) : State := s.l1Ids.foldl (fun s i => s.cleanWhere i p) s

/-- The dirty bytes of a sector differ from its home. -/
def State.differs (s : State) (x : Sector) : Bool :=
  decide (x.dirty ≠ 0) && decide (overlay x.dirty x.data (s.mem.read (32 * x.pa) 32) ≠ s.mem.read (32 * x.pa) 32)

/-- Before an observer reads or writes a home sector, any L1 that holds newer dirty bytes of it may already have
evicted them: the part chooses (R253, R269). -/
def State.settle (s : State) (pa32 : Nat) : State :=
  s.l1Ids.foldl
    (fun s id =>
      (s.sectors id).foldl
        (fun s x =>
          if x.pa = pa32 && s.differs x then
            let (c, s) := s.choose
            if c then s.writeBack id x else s
          else s)
        s)
    s

/-- Settle every sector of a physical range. -/
def State.settleRange (s : State) (pa n : Nat) : State := (unitsOf 32 pa n).foldl (fun s u => s.settle u) s

/-- An access that names its warp and slot, context and L1. -/
structure Who where
  id : Nat
  warp : Nat
  slot : Nat
  ctx : Nat
  asid : BitVec 16
deriving DecidableEq, Repr

/-- The party that the slots of a warp are to memory. -/
def State.who (s : State) (warp slot : Nat) : Who :=
  let b := s.block (warpBlock warp)
  { id := s.l1Of b.core, warp, slot, ctx := b.ctx
    asid := match mapFind s.ctxs b.ctx with
      | some c => c.asid
      | none => 0 }

/-- Some other slot or warp wrote the dirty bytes of a sector. -/
def foreign (x : Sector) (w : Who) : Bool :=
  decide (x.dirty ≠ 0) && !(decide (x.warp = w.warp) && decide (x.slot = w.slot))

/-- The home of a sector copy may serve it: its owner check passes, and it can be read (R354, R357). -/
def State.homeServes (s : State) (x : Sector) : Bool :=
  s.sectorAllowed x && !s.mem.bad (32 * x.pa) && x.husk.all fun h => s.sealOk h (x.pa / 4)

/-- The bytes of a sector copy that a hit may use: its own, or newer ones of the home where they differ and it can serve
them, as the part chooses. -/
def State.refresh (s : State) (id : Nat) (x : Sector) : Sector × State :=
  let home := s.mem.read (32 * x.pa) 32
  let now := overlay x.dirty x.data home
  if now = x.data || !s.homeServes x then (x, s)
  else
    let (c, s) := s.choose
    if c then
      let y := { x with data := now, tag := s.mem.tag (32 * x.pa) && decide (x.dirty = 0) }
      (y, s.putSector id y)
    else (x, s)

/-- The cluster of the party (R260). -/
def Who.cluster (w : Who) : Nat := if 1024 ≤ w.id then w.id - 1024 else clusterOf w.id

/-- Lines of 128 bytes that the array of one core holds: 256 KiB (Table 0.1). -/
def l1Lines : Nat := 2048

/-- The array of an L1 that holds a line: a fused L1 has four, told apart by VA[8:7] (R255). -/
def l1Array (id line : Nat) : Nat := if 1024 ≤ id then line % 4 else 0

/-- The lines of which an L1 holds sectors in one of its arrays: ASID and VA / 128. -/
def State.linesOf (s : State) (id array : Nat) : List (BitVec 16 × Nat) :=
  ((s.sectors id).filterMap fun x =>
    if l1Array id (x.va / 4) = array then some (x.asid, x.va / 4) else none).eraseDups

/-- A full array evicts a line before it takes one more: the part chooses which (R253, log 6). -/
def State.l1Room (s : State) (id : Nat) (asid : BitVec 16) (line : Nat) : State :=
  let l := s.linesOf id (l1Array id line)
  if l.contains (asid, line) || decide (l.length < l1Lines) then s
  else
    let (x, s) := s.freeWord
    let out := l.getD (x.toNat % l.length) (asid, line)
    s.evictWhere id fun y => decide ((y.asid, y.va / 4) = out)

/-- Fill a sector from its home slice after a translation. -/
def State.fillSector (s : State) (w : Who) (va : Word) (pa : Nat) (pte : Word) (readable : Bool) : Sector × State :=
  let s := (s.settle (pa / 32)).l1Room w.id w.asid (va.toNat / 128)
  let x : Sector :=
    { asid := w.asid, va := va.toNat / 32, pa := pa / 32, data := s.mem.read (pa / 32 * 32) 32
      tag := s.mem.tag pa, read := bit pte.toNat 2 && readable, write := bit pte.toNat 3, ctx := w.ctx
      husk := leafHusk pte.toNat }
  (x, s.putSector w.id x)

/-- What a sector's line carries of the leaf that filled it: its permissions, and its husk (R252). -/
def Sector.leaf (x : Sector) : Word :=
  BitVec.ofNat 64 (4 * b2n x.read + 8 * b2n x.write +
    (match x.husk with
     | some h => 2 ^ 54 + 2 ^ 55 * h
     | none => 0))

/-- The checks of an access to `n` bytes that lie in one sector: those of a hit where the L1 holds the sector with the
permission that the access needs, else the translation of the miss (R253). The answer is the address and the leaf with
which the access fills the sector; after a hit it does so only where another lane's fill has evicted the line since, as
an access that has passed its checks completes (R38, R174). -/
def State.l1Check (s : State) (w : Who) (va : Word) (n : Nat) (write : Bool) :
    Except FaultInfo (Option (Nat × Word)) × State :=
  match (s.sector w.id w.asid (va.toNat / 32)).filter fun x => if write then x.write else x.read with
  | some x => (.ok (some (32 * x.pa + va.toNat % 32, x.leaf)), s)
  | none =>
    match s.translate (some w.cluster) w.ctx va { r := !write, w := write } (b2n write) with
    | (.fail i, s) => (.error i, s)
    | (.ok pa pte, s) =>
      if write || s.readable pte pa n then (.ok (some (pa, pte)), s)
      else (.error { va, mem := true }, s.noteUnreadable pte pa n false)

/-- Read `n` bytes that lie in one sector, through the L1, after its check has passed: the bytes and the granule's
tag. -/
def State.l1Load (s : State) (w : Who) (va : Word) (n : Nat) (miss : Option (Nat × Word)) :
    (List Byte × Bool) × State :=
  let o := va.toNat % 32
  let take := fun (x : Sector) => ((x.data.drop o).take n, x.tag)
  let fill := fun (s : State) =>
    match miss with
    | some (pa, pte) =>
      let (x, s) := s.fillSector w va pa pte true
      (take x, s)
    | none => ((List.replicate n 0, false), s)
  match s.sector w.id w.asid (va.toNat / 32) with
  | some x =>
    if x.read then
      let s := if foreign x w then s.writeBack w.id x else s
      let x := if foreign x w then { x with dirty := 0, tag := false } else x
      let (x, s) := s.refresh w.id x
      (take x, s)
    else fill (s.writeBack w.id x)
  | none => fill s

/-- The byte mask of `n` bytes from offset `o` of a sector. -/
def byteMask (o n : Nat) : BitVec 32 := BitVec.ofNat 32 ((2 ^ n - 1) * 2 ^ o)

/-- Write bytes into a sector that the L1 holds with write permission. -/
def State.dirtySector (s : State) (w : Who) (x : Sector) (o : Nat) (l : List Byte) : State :=
  let d := byteMask o l.length
  let img := (List.range 32).map fun i => if d.getLsbD i then l.getD (i - o) 0 else x.data.getD i 0
  s.putSector w.id
    { x with
      data := img, dirty := x.dirty ||| d, tag := false, warp := w.warp, slot := w.slot
      since := if x.dirty = 0 then s.clk else x.since }

/-- Store bytes that lie in one sector, through the L1, after its check has passed (R253). -/
def State.l1Store (s : State) (w : Who) (va : Word) (l : List Byte) (miss : Option (Nat × Word)) : State :=
  let o := va.toNat % 32
  let fill := fun (s : State) =>
    match miss with
    | some (pa, pte) =>
      let (x, s) := s.fillSector w va pa pte (s.readable pte pa 1)
      s.dirtySector w x o l
    | none => s
  match s.sector w.id w.asid (va.toNat / 32) with
  | some x =>
    let s := if foreign x w then s.writeBack w.id x else s
    let x := if foreign x w then { x with dirty := 0, tag := false } else x
    if x.write then s.dirtySector w x o l else fill (s.writeBack w.id x)
  | none => fill s

/-- Prepare an access at the home slice: the own L1's copy of the sector is written back and dropped, then the
address is translated and copies elsewhere settle (R253). -/
def State.atHome (s : State) (w : Who) (va : Word) (need : Need) (acc : Nat) : Except FaultInfo (Nat × Word) × State :=
  let s := s.evictWhere w.id fun x => decide (x.asid = w.asid ∧ x.va = va.toNat / 32)
  match s.translate (some w.cluster) w.ctx va need acc with
  | (.fail i, s) => (.error i, s)
  | (.ok pa pte, s) => (.ok (pa, pte), s.settle (pa / 32))

/-- A release by a warp: its dirty bytes are written back (R253). -/
def State.release (s : State) (warp : Nat) : State :=
  s.cleanWhere (s.l1Of (s.block (warpBlock warp)).core) fun x => decide (x.warp = warp ∧ x.dirty ≠ 0)

/-- An acquire at a scope (Table 5.14): at .cluster or wider the copies in the core's L1 are discarded, dirty bytes
written back first; in a fused cluster .cluster discards nothing (R272). -/
def State.acquire (s : State) (warp scope : Nat) : State :=
  let core := (s.block (warpBlock warp)).core
  let fusedHere := s.fused.contains (clusterOf core)
  if 4 < scope ∨ (scope = 4 ∧ !fusedHere) then s.evictWhere (s.l1Of core) fun _ => true else s

/-- A core's engine has written a physical range: copies of it in the core's L1 are discarded (R254). -/
def State.discardRange (s : State) (core pa n : Nat) : State :=
  s.evictWhere (s.l1Of core) fun x => decide (pa < 32 * x.pa + 32 ∧ 32 * x.pa < pa + n)

end Sys2Proof.Machine
end

