-- ==== Sys2Proof/Machine/Ring.lean ====
section
/-! DEFINITION. The header of a copy ring (R220), its halt, and the stop of its entries at a save or a reset (R228,
R250). -/
namespace Sys2Proof.Machine

/-- The header's doublewords beside notify (Table 7.2). -/
def Ring.header (r : Ring) (notify : BitVec 32) : List Byte :=
  leBytes 8 (notify.toNat + 2 ^ 32 * (b2n r.halted + 2 * r.failSeq.toNat) % 2 ^ 64) ++
  leBytes 8 (r.head.toNat + 2 ^ 32 * r.finished.toNat) ++
  leBytes 8 (r.k + 2 ^ 24 * r.cause + 2 ^ 32 * (r.progress % 2 ^ 32)) ++ leBytes 8 0

/-- notify as the scratchpad holds it. -/
def Block.notify (b : Block) (r : Ring) : BitVec 32 := b.scratchWord r.off

/-- Write the header back, notify as it stands. -/
def Block.putRing (b : Block) (r : Ring) : Block :=
  { b with ring := some r }.scratchWrite r.off (r.header (b.notify r))

/-- Software has stored to a field that it may not write (Table 7.2). -/
def Block.ringCorrupt (b : Block) (r : Ring) : Bool := decide (b.scratchRead r.off 32 ≠ r.header (b.notify r))

/-- Halt a ring: it starts nothing more until CPY.init (R222, R225). -/
def Ring.halt (r : Ring) (q : BitVec 32) (cause : Nat) : Ring := { r with halted := true, failSeq := q, cause }

/-- Write the header as the engine: where software has stored to a field that it may not write, the ring halts with cause
0x05 (R220). -/
def Block.writeRing (b : Block) (old r : Ring) : Block :=
  b.putRing (if b.ringCorrupt old && !r.halted then r.halt r.head 5 else r)

/-- Running copy entries stop at a sector boundary (R250): the ring's header shows the first of them as the next to
start, with its progress, and the ring keeps those after it. -/
def Block.stopCopy (b : Block) : Block :=
  match b.copies, b.ring with
  | (q, c) :: _, some r =>
    let begun := (List.range (r.head - BitVec.ofNat 32 q).toNat).map fun i =>
      let k := (BitVec.ofNat 32 q + BitVec.ofNat 32 i).toNat
      (k, (mapFind b.copies k).map fun x => (x.progress, x.flags))
    { b with copies := [] }.writeRing r { r with head := BitVec.ofNat 32 q, progress := c.progress, begun }
  | _, _ => b

/-- A reset ends the running entries of a ring: its header records cause 0x07 (R220, R228). -/
def Block.resetCopy (b : Block) : Block :=
  match b.copies, b.ring with
  | (q, _) :: _, some r => { b with copies := [] }.putRing (r.halt (BitVec.ofNat 32 q) 7)
  | _, _ => b

/-- The sectors of reducing copies that are in flight (R228, R339): the one that each running CPYR on memory is about to
apply. -/
def Block.copiesInFlight (b : Block) : List Nat :=
  b.copies.flatMap fun e =>
    if bits (e.2.words.getD 3 0).toNat 0 4 = 4 ∧ e.2.fault = none then
      match e.2.pieces[e.2.progress]? with
      | some p => if p.dstScratch then [] else [32 * (p.dst / 32) + 1]
      | none => []
    else []

end Sys2Proof.Machine
end

