-- ==== Sys2Proof/Machine/Reset.lean ====
section
/-! DEFINITION. The end of blocks and launches (R25, R128, R314), the save-area header and diagnostic region
(Tables 14.4, 14.5 and 14.8), and forced reset (R338). -/
namespace Sys2Proof.Machine

/-- The keys of the blocks of a context, in increasing launch and then block.id (R332). -/
def State.ctxBlocks (s : State) (ctx : Nat) : List (Nat × Block) :=
  (s.blocks.filter fun e => decide (e.2.ctx = ctx)).mergeSort fun x y =>
    decide (x.2.launch < y.2.launch) || (decide (x.2.launch = y.2.launch) && decide (x.2.idx ≤ y.2.idx))

/-- The launches of a context in acceptance order that have blocks resident or saved (R332). -/
def State.ctxLaunches (s : State) (ctx : Nat) : List Nat :=
  let ls := (s.launches.filter fun e => decide (e.2.ctx = ctx)).map Prod.fst
  let saved := ((mapFind s.ctxs ctx).map fun c => c.unplaced.map fun x => x.launch).getD []
  ls.filter fun l => saved.contains l || s.blocks.any fun e => decide (e.2.launch = l)

/-- The launch index of a launch of a context (R332). -/
def State.launchIndex (s : State) (ctx launch : Nat) : Nat := ((s.ctxLaunches ctx).idxOf launch)

/-- A field of a launch record (Table 1.4): doubleword, low bit and width. -/
def Launch.field (l : Launch) (dw lo len : Nat) : Nat := bits (l.words.getD dw 0).toNat lo len

/-- The number of blocks of a launch. -/
def Launch.blockCount (l : Launch) : Nat := l.field 13 0 16 * l.field 13 16 16 * l.field 13 32 16

/-- The write of a launch's done word passes the owner check as the frame stands now (R354). -/
def State.doneOpen (s : State) (l : Launch) (pa : Nat) : Bool × State :=
  if l.donePhys then (!(s.closed pa), s) else s.ownerCheck l.ctx l.doneLeaf.toNat pa

/-- Write the done word of a launch that has one, with a release at package scope (R314). -/
def State.writeDone (s : State) (l : Launch) (v : Word) : State :=
  match l.done with
  | none => s
  | some (pa, _) =>
    match s.doneOpen l pa with
    | (true, s) => (s.settle (pa / 32)).physDw pa v
    | (false, s) => s

/-- Every block of a launch has been placed and has ended, or it was dropped: it has written its done word, or would
have, and leaves the state (R314, R316). -/
def State.finishLaunch (s : State) (key : Nat) : State :=
  match mapFind s.launches key with
  | none => s
  | some l =>
    let live := (s.blocks.any fun e => decide (e.2.launch = key)) ||
      (mapFind s.ctxs l.ctx).any fun c => c.unplaced.any fun x => decide (x.launch = key)
    if l.stage = .placing ∧ l.last ≤ l.next ∧ !live then
      let s := s.writeDone l (l.done.getD (0, 0)).2
      { s with launches := mapErase s.launches key }
    else s

/-- Drop a launch whose done word reads all ones (R314). -/
def State.dropLaunch (s : State) (key : Nat) : State :=
  match mapFind s.launches key with
  | none => s
  | some l =>
    let s := s.writeDone l (BitVec.allOnes 64)
    { s with launches := mapErase s.launches key }

/-- A husk has a block of one of its contexts placed (R351). -/
def State.huskPlaced (s : State) (husk : Nat) : Bool :=
  s.blocks.any fun e =>
    match mapFind s.ctxs e.2.ctx with
    | some c => c.prot && decide (c.husk = husk)
    | none => false

/-- Release the ways of a husk whose last block has left: its dirty lines are sealed and its ways cleared (R351). -/
def State.releaseWays (s : State) (husk : Nat) : State :=
  match mapFind s.prot.husks husk with
  | none => s
  | some h =>
    if h.placed && !(s.huskPlaced husk) then
      let s := s.sealHusk husk
      { s with prot := { s.prot with husks := mapPut s.prot.husks husk { h with placed := false } } }
    else s

/-- After a block of a context has left a core: the launch's slice count there returns to zero, a protected context's
L1 lines leave with its last block on the core, and its husk's ways with its last block (R41, R351, R358). -/
def State.leaveCore (s : State) (ctx launch core : Nat) : State :=
  let here := fun (p : Block → Bool) => s.blocks.any fun e => decide (e.2.core = core) && p e.2
  let s :=
    if here fun b => decide (b.launch = launch) then s
    else { s with launches := mapModify s.launches launch fun l => { l with slice := mapErase l.slice core } }
  match mapFind s.ctxs ctx with
  | none => s
  | some c =>
    if !c.prot then s
    else
      let s :=
        if here fun b => decide (b.ctx = ctx) then s
        else s.evictWhere (s.l1Of core) fun x => decide (x.asid = c.asid)
      s.releaseWays c.husk

/-- Engine or grid operations of a block are still in flight (R128). -/
def State.blockBusy (s : State) (key : Nat) : Bool :=
  let b := s.block key
  (s.core b.core).ops.any (fun o => decide (o.block = key)) || b.ringBusy ||
  s.fab.gridOps.any fun e => decide (e.2.block = key) && decide (e.2.fn ≠ 1)

/-- Node groups launched from a block that has ended: the group is marked (R323). -/
def Node.endGroup (n : Node) (g : Nat) : Node :=
  { n with openGroups := n.openGroups.map fun x => if x.1 = g then (x.1, x.2.1, x.2.2.1, true) else x }

/-- Where an access of a node to `len` bytes lands: under the context's tree, or physical (R322), with the checks of a
packet's address as things stand now (R352). A read meets no error and no seal that does not match (R257, R357). -/
def State.nodeAddr (s : State) (n : Node) (a : Word) (w : Bool) (len : Nat) : Option Nat × State :=
  let at_ : Option (Nat × Word) × State :=
    if n.phys then (if s.closed a.toNat then none else some (a.toNat, 0), s)
    else
      match s.translate none n.ctx a { r := !w, w } (b2n w) with
      | (.ok pa pte, s) => (some (pa, pte), s)
      | (.fail _, s) => (none, s)
  match at_ with
  | (none, s) => (none, s)
  | (some (pa, pte), s) =>
    if !w && !(s.readable pte pa len) then (none, s.noteUnreadable pte pa len false) else (some pa, s.settle (pa / 32))

/-- Advance consumed past the leading groups that have ended, at most `fuel` of them, with a release at package scope
(R323). -/
def State.nodeConsumeN (s : State) (key : Nat) : Nat → State
  | 0 => s
  | fuel + 1 =>
    match mapFind s.nodes key with
    | none => s
    | some n =>
      match n.openGroups with
      | (_, first, count, true) :: rest =>
        let n := { n with consumed := first + count, openGroups := rest }
        let s := { s with nodes := mapPut s.nodes key n }
        let (pa, s) := s.nodeAddr n (n.ctl + 8) true 8
        let s := match pa with
          | some p => s.physDw p (BitVec.ofNat 64 n.consumed)
          | none => s
        s.nodeConsumeN key fuel
      | _ => s

/-- Advance consumed past all the leading groups that have ended (R323). -/
def State.nodeConsume (s : State) (key : Nat) : State :=
  s.nodeConsumeN key (((mapFind s.nodes key).map fun n => n.openGroups.length).getD 0)

/-- A context under level 1 whose last block has ended has drained: no save is needed (Table 1.7). -/
def State.drained (s : State) (ctx : Nat) : State :=
  match mapFind s.ctxs ctx with
  | none => s
  | some c =>
    match c.preempt with
    | none => s
    | some p =>
      if p.level = 1 && !(s.blocks.any fun e => decide (e.2.ctx = ctx)) then
        s.modCtx ctx fun c => { c with preempt := none, parked := !p.requeue }
      else s

/-- The dirty L1 bytes of a block that ends are written back, so that the release of its launch's done word, or of its
node's consumed count, covers its stores (R314, R316, R323, log 8). -/
def State.releaseBlock (s : State) (key core : Nat) : State :=
  s.cleanWhere (s.l1Of core) fun x => decide (warpBlock x.warp = key ∧ x.dirty ≠ 0)

/-- A block ends once all its warps have ended and its operations have completed: its storage is released (R25,
R128). -/
def State.endBlock (s : State) (key : Nat) : State :=
  match mapFind s.blocks key with
  | none => s
  | some b =>
    if b.liveWarps ≠ 0 || s.blockBusy key then s
    else
      let s := s.leaveUnits b
      let s := { s with
        blocks := mapErase s.blocks key
        ops := s.ops.filter fun e => !(decide (warpBlock e.2.warp = key))
        fab := { s.fab with gridOps := s.fab.gridOps.filter fun e => !(decide (e.2.block = key)) } }
      let s := (s.releaseBlock key b.core).leaveCore b.ctx b.launch b.core
      let s :=
        match mapFind s.launches b.launch with
        | some l =>
          match l.node with
          | some (n, g) =>
            let s := { s with nodes := mapModify s.nodes n fun x => x.endGroup g }
            s.nodeConsume n
          | none => s
        | none => s
      (s.finishLaunch b.launch).drained b.ctx

/-! ### The save-area header and the diagnostic region -/

/-- The fields of the header that vary (Table 14.5). -/
structure SaveHeader where
  status : Nat := 0
  tcode : Nat := 0
  slice : Bool := false
  bkpt : Bool := false
  diag : Bool := false
  ctx : Nat := 0
  blocks : Nat := 0
  slen : Nat := 0
  dcount : Nat := 0
  ddrop : Nat := 0
  scount : Nat := 0
  sdrop : Nat := 0
  oblk : Nat := 0xFFFFFFFF
  wobj : Nat := 0xFF
  olaunch : Nat := 0
deriving DecidableEq, Repr

/-- The 256 bytes of the header (Table 14.5). -/
def SaveHeader.bytes (h : SaveHeader) (clk : Nat) : List Byte :=
  let dw : List Nat :=
    [1 + 2 ^ 32 * 0x57205341,
     h.status + 2 ^ 8 * h.tcode + 2 ^ 16 * b2n h.slice + 2 ^ 17 * b2n h.bkpt + 2 ^ 18 * b2n h.diag,
     h.ctx + 2 ^ 32 * h.blocks, h.slen, clk,
     h.dcount + 2 ^ 16 * h.ddrop + 2 ^ 32 * h.scount + 2 ^ 48 * h.sdrop,
     h.oblk + 2 ^ 32 * h.wobj + 2 ^ 40 * h.olaunch]
  dw.flatMap (leBytes 8) ++ List.replicate 200 0

/-- Write bytes into a save area, as far as it reaches (R333). -/
def State.saveWrite (s : State) (c : Context) (off : Nat) (l : List Byte) : State :=
  s.physWrite (c.save + off) (l.take (c.savelen - off))

/-- A named barrier as 16 bytes (Table 14.8). -/
def Barrier.bytes (b : Barrier) : List Byte :=
  leBytes 8 (b.phase.toNat + 2 ^ 32 * b.arrivals + 2 ^ 39 * b2n b.failed + 2 ^ 40 * b2n b.overflow +
    2 ^ 41 * b.expWarps) ++
  leBytes 8 (b.sectors + 2 ^ 32 * b.expSectors)

/-- What a slot waits on, as Table 14.8 codes it. -/
def Slot.waitCode (x : Slot) : Nat :=
  if !x.live then 0xFF
  else match x.wait with
    | none => 0xFF
    | some (.barrier b _) => b
    | some (.set n _) => 0x20 + n
    | some _ => 0xFE

/-- What a warp waits on: slot 0's wait first. -/
def Warp.waitCode (w : Warp) : Nat := if w.s0.waitCode ≠ 0xFF then w.s0.waitCode else w.s1.waitCode

/-- A diagnostic block entry (Table 14.8). -/
def State.diagEntry (s : State) (key : Nat) (b : Block) : List Byte :=
  let wc := fun i => match mapFind s.warps (warpKey key i) with
    | some w => w.waitCode
    | none => 0xFF
  let m := fun (p : Nat → Bool) =>
    (maskOf fun i => decide (i < b.wpb) &&
      (mapFind s.warps (warpKey key i)).any fun w => p w.s0.waitCode || p w.s1.waitCode).toNat
  leBytes 8 (b.idx + 2 ^ 32 * s.launchIndex b.ctx b.launch + 2 ^ 48 * b.core) ++ leBytes 8 s.clk ++
  leBytes 8 (m fun c => decide (c < 0xFE)) ++ leBytes 8 b.ended.toNat ++ leBytes 8 (m fun c => decide (c = 0xFE)) ++
  List.replicate 24 0 ++ (List.range 64).map (fun i => BitVec.ofNat 8 (wc i)) ++
  (List.range 16).flatMap (fun i => (b.bar i).bytes) ++ List.replicate 128 0

/-- The source code of a grid operation in the sector list (R339). -/
def GridOp.source (g : GridOp) : Nat :=
  if g.tile.isSome then 6
  else match g.fn with
    | 0 => 4
    | 2 => 5
    | 3 => 2
    | _ => 3

/-- Bytes of one lane's record in an ATOM frame: the offset, then one operand, or two for CAS. -/
def frameAtomStep (f : Frame) : Nat :=
  8 + (if f.etype = 1 then 8 else 4) * (if f.op = 9 then 2 else 1)

/-- The elements of a compressed contribution (R71), which its frame gives in aux [31:16] (log 17); 0 for any other
frame. -/
def packedCount (f : Frame) : Nat := if f.ty = 8 ∧ f.tile then bits f.aux.toNat 16 16 else 0

/-- First byte and length of the places at its targets that a frame writes, or contributes to: bins and codes stand for
the elements that they carry, and a frame that carries no data for its address writes nothing. -/
def framePlaces (f : Frame) : List (Nat × Nat) :=
  if !([1, 4, 8, 9].contains f.ty.toNat) then []
  else if packedCount f ≠ 0 then [(f.va.toNat, 4 * packedCount f)]
  else if f.ty = 8 ∧ f.op = 3 then
    let n := if f.etype = 5 then 8 else 4
    let bins := if f.etype = 5 then 3 else 2
    [(f.va.toNat, f.payload.length / (8 * bins) * n)]
  else if f.ty = 4 then
    (List.range (f.payload.length / frameAtomStep f)).map fun i =>
      ((f.va + BitVec.ofNat 64 (leNat ((f.payload.drop (i * frameAtomStep f)).take 8))).toNat, if f.etype = 1 then 8 else 4)
  else [(f.va.toNat, f.payload.length)]

/-- The sectors of a context's reducing copies that are in flight, and those of its grid operations that were sent and
are not acknowledged as applied everywhere (R339): a target acknowledges an operation as applied with DONE, as a whole
(R380). -/
def State.inFlight (s : State) (ctx : Nat) : List Nat :=
  ((s.ctxBlocks ctx).flatMap fun b => b.2.copiesInFlight) ++
  s.fab.gridOps.flatMap fun e =>
    if e.2.ctx = ctx ∧ e.2.fn ≠ 1 then
      (e.2.places.flatMap fun r => (unitsOf 32 r.1 r.2).map fun u => 32 * u + e.2.source).eraseDups
    else []

/-- The block that a watchdog names: key and object, coded as wobj (R342). -/
abbrev Offender := Option (Nat × Nat)

/-- Write the diagnostic region when a watchdog fired, and the sector list: the header fields that they fix (R339,
R344). -/
def State.writeDiag (s : State) (ctx : Nat) (c : Context) (watchdog : Bool) (off : Offender) (sectors : List Nat) :
    SaveHeader × State :=
  let blocks := s.ctxBlocks ctx
  let first := match off with
    | some (k, _) => blocks.filter fun e => decide (e.1 = k)
    | none => blocks
  let list := if watchdog then first else []
  let shown := list.take 32
  let s := (List.range shown.length).foldl
    (fun s i =>
      match shown[i]? with
      | some (k, b) => s.saveWrite c (0x1000 + 512 * i) (s.diagEntry k b)
      | none => s)
    s
  let secs := sectors.take 2048
  let s := s.saveWrite c 0x5000 (secs.flatMap (leBytes 8))
  ({ ctx, diag := watchdog, dcount := shown.length, ddrop := list.length - shown.length, scount := secs.length
     sdrop := min 0xFFFF (sectors.length - secs.length)
     oblk := match off with
       | some (k, _) => (s.block k).idx
       | none => 0xFFFFFFFF
     wobj := match off with
       | some (_, w) => w
       | none => 0xFF
     olaunch := match off with
       | some (k, _) => s.launchIndex ctx (s.block k).launch
       | none => 0 }, s)

/-- Remove everything of a context from the cores, engines and fabric: its warps, blocks, operations and their frames,
sent or not. Remote accesses to its pages drop the waits that they have there, and translate afresh once it has been
resumed (R266). -/
def State.offCores (s : State) (ctx : Nat) : State :=
  let mine := fun (k : Nat) => decide ((s.block k).ctx = ctx)
  let gone := (s.fab.gridOps.filter fun e => decide (e.2.ctx = ctx)).map Prod.fst
  let here := fun (k : Nat) => (mapFind s.fab.remote k).any fun r =>
    (mapFind s.grids r.frame.gtid.toNat).any fun t => decide (t.ctx = ctx)
  let s := (s.ctxBlocks ctx).foldl (fun s b => s.leaveUnits b.2) s
  { s with
    warps := s.warps.filter fun e => !(mine (warpBlock e.1))
    ops := s.ops.filter fun e => !(mine (warpBlock e.2.warp))
    picks := s.picks.filter fun k => !(mine (warpBlock k))
    cores := s.cores.map fun e =>
      (e.1, { e.2 with
        ops := e.2.ops.filter fun o => !(decide (o.ctx = ctx))
        loads := e.2.loads.filter fun l => !(decide (l.2.ctx = ctx)) })
    blocks := s.blocks.filter fun e => !(decide (e.2.ctx = ctx))
    xlat := { s.xlat with
      waiting := s.xlat.waiting.filter fun w =>
        match w with
        | (0, core, uid) => !((s.core core).ops.any fun o => decide (o.uid = uid ∧ o.ctx = ctx))
        | (1, block, _) => !(mine block)
        | (2, _, op) => !(gone.contains op)
        | (4, warp, _) => !(mine (warpBlock warp))
        | (_, _, k) => !(here k) }
    fab := { s.fab with
      gridOps := s.fab.gridOps.filter fun e => !(decide (e.2.ctx = ctx))
      remote := mapAll s.fab.remote fun k r =>
        if here k then { r with wait := none, parked := r.parked || r.wait.isSome } else r
      queue := s.fab.queue.filter fun x => x.2.1 = 0 || !(gone.contains x.2.1)
      tx := s.fab.tx.filter fun t => t.2.op = 0 || !(gone.contains t.2.op) } }

/-- The same under forced reset (R338 steps 1 and 2): what this module has combined for the context's grids goes too, and
the members of those reductions hear of it when their time limit passes (R245). -/
def State.discardWork (s : State) (ctx : Nat) : State :=
  let tables := (s.grids.filter fun e => decide (e.2.ctx = ctx)).map fun e => BitVec.ofNat 16 e.1
  let s := { s with blocks := mapAll s.blocks fun _ b => if b.ctx = ctx then b.resetCopy else b }
  let s := s.offCores ctx
  { s with fab := { s.fab with
      reds := mapAll s.fab.reds fun _ r =>
        if tables.contains r.head.gtid then { r with exps := [], parts := [], raw := [] } else r } }

/-- Forced reset of a context, level 3 (R338): its work is discarded, completed stores stand, the diagnostic region and
the header are written, every done word of its launches reads all ones, an error record of class 0x03 is written, and
the context counts as ending. `packet` and `d0` are those of R402. -/
def State.forcedReset (s : State) (ctx tcode : Nat) (packet : Option (Nat × BitVec 32 × BitVec 32)) (d0 : Word)
    (watchdog : Bool) (off : Offender) : State :=
  match mapFind s.ctxs ctx with
  | none => s
  | some c =>
    let sectors := s.inFlight ctx
    let s := s.cleanAll fun x => decide (x.asid = c.asid)
    let (h, s) := s.writeDiag ctx c watchdog off sectors
    let old := s
    let s := s.discardWork ctx
    let s := if c.prot then (s.evictAll fun x => decide (x.asid = c.asid)).releaseWays c.husk else s
    let s := s.saveWrite c 0 ({ h with status := 3, tcode }.bytes s.clk)
    let s := ((old.launches.filter fun e => decide (e.2.ctx = ctx)).map Prod.fst).foldl
      (fun s k => s.dropLaunch k) s
    let s := s.errorRecord 0x03 tcode ctx packet d0 (BitVec.ofNat 64 s.clk)
    s.modCtx ctx fun c =>
      { c with
        ending := true, dead := true, preempt := none, saved := false, parked := false, halted := false, hangCount := 0
        unplaced := [], sliceHeld := none }

/-- d0 of a termination record that names a block, its core and a warp (Table 14.10). -/
def State.blockD0 (s : State) (key wid : Nat) : Word :=
  let b := s.block key
  BitVec.ofNat 64 (b.idx + 2 ^ 32 * b.core + 2 ^ 42 * wid)

/-- d0 of a termination record that names no block (R402). -/
def noBlockD0 : Word := 0xFFFFFFFF

/-- The LAUNCH packet of a block's launch (R402). -/
def State.launchPacket (s : State) (launch : Nat) : Option (Nat × BitVec 32 × BitVec 32) :=
  match mapFind s.launches launch with
  | some l => l.queue.map fun q => (q, l.head, l.packetTag)
  | none => none

end Sys2Proof.Machine
end

