-- ==== Sys2Proof/Machine/Caps.lean ====
section
/-! DEFINITION. The checks of an access through a capability (R170, Table 5.12), for one access and for the lanes of a
mask. -/
namespace Sys2Proof.Machine

/-- Checks 1 to 7 of Table 5.12 for `n` bytes at an offset: the cause of the first that fails. `align` is the
alignment of check 7; 0 makes no check. -/
def State.capCheck (s : State) (ctx : Nat) (c : Cap) (need : BitVec 16) (off : Word) (n align : Nat) :
    Option (BitVec 16) :=
  let gen := match mapFind s.ctxs ctx with
    | some x => x.cgen
    | none => 0
  if !c.tag then some 0x10
  else if c.otype ≠ 0 then some 0x11
  else if c.ctx.toNat ≠ ctx then some 0x12
  else if c.gen ≠ gen then some 0x13
  else if c.perms &&& need ≠ need then some 0x14
  else if c.len.toNat < off.toNat + n then some 0x15
  else if align ≠ 0 ∧ (c.base + off).toNat % align ≠ 0 then some 0x16
  else none

/-- The cause of a failed translation, or of an uncorrectable error (Table 14.1). -/
def FaultInfo.cause (i : FaultInfo) : BitVec 16 := if i.mem then 0x18 else 0x17

/-- A failing check: the cause and the address it names. -/
abbrev Failure := BitVec 16 × Word

/-- Make a check on each lane listed, in order: the answers that passed, and the failures. -/
def checkLanes {α : Type} (chk : State → Nat → Except Failure α × State) :
    State → List Nat → List (Nat × α) × List (Nat × Failure) × State
  | s, [] => ([], [], s)
  | s, i :: r =>
    match chk s i with
    | (.ok x, s) =>
      let (good, bad, s) := checkLanes chk s r
      ((i, x) :: good, bad, s)
    | (.error e, s) =>
      let (good, bad, s) := checkLanes chk s r
      (good, (i, e) :: bad, s)

/-- The exception of the failing lanes: the check and address of the lowest, and the mask of all (R170). -/
def laneTrap (bad : List (Nat × Failure)) : Option Trap :=
  match bad with
  | [] => none
  | (_, c, a) :: _ => some { cause := c, addr := a, lanes := maskOf fun i => bad.any fun x => decide (x.1 = i) }

/-- The checks of one lane's access through the L1 (R170): the answer tells where a miss lands. -/
def State.laneCheck (s : State) (w : Who) (c : Cap) (need : BitVec 16) (off : Word) (n : Nat) (write : Bool) :
    Except Failure (Word × Option (Nat × Word)) × State :=
  match s.capCheck w.ctx c need off n n with
  | some cause => (.error (cause, c.base + off), s)
  | none =>
    match s.l1Check w (c.base + off) n write with
    | (.error i, s) => (.error (i.cause, c.base + off), s)
    | (.ok miss, s) => (.ok (c.base + off, miss), s)

end Sys2Proof.Machine
end

