-- ==== Sys2Proof/Machine/Sync.lean ====
section
/-! DEFINITION. Named barriers and membership sets of a block: arrivals, counted sectors, and the completion of a
phase (R232 to R234). -/
namespace Sys2Proof.Machine

/-- A barrier stops counting once its failed or overflow bit is set (R233). -/
def Barrier.stopped (b : Barrier) : Bool := b.failed || b.overflow

/-- The phase completes when both counts equal their expectations (R232). -/
def Barrier.settle (b : Barrier) : Barrier :=
  if !b.stopped && decide (b.arrivals = b.expWarps) && decide (b.sectors = b.expSectors) then
    { b with phase := b.phase + 1, arrivals := 0, sectors := 0, timer := none, who := 0, failSeq := 0 }
  else b

/-- Start the timer of a phase (R342). -/
def Barrier.start (b : Barrier) : Barrier :=
  { b with timer := match b.timer with
    | some t => some t
    | none => some 0 }

/-- One arrival (R232). -/
def Barrier.arrive (b : Barrier) (wid : Nat) : Barrier :=
  if b.arrivals = b.expWarps then { b with overflow := true }
  else ({ b with arrivals := b.arrivals + 1, who := b.who ||| BitVec.twoPow 64 wid }.start).settle

/-- One counted sector (R233). -/
def Barrier.sector (b : Barrier) : Barrier :=
  if b.stopped then b
  else if b.sectors = b.expSectors then { b with overflow := true }
  else ({ b with sectors := b.sectors + 1 }.start).settle

/-- A failing copy entry sets the failed bit (R225). -/
def Barrier.fail (b : Barrier) (seq : Nat) : Barrier :=
  if b.failed then b else { b with failed := true, failSeq := seq }

/-- Both counts are zero (R232). -/
def Barrier.quiet (b : Barrier) : Bool := decide (b.arrivals = 0 ∧ b.sectors = 0)

/-- The current members of a set; set 0 is the block (R23). -/
def Block.members (b : Block) (n : Nat) : Word := if n = 0 then b.liveWarps else (mapGet {} b.sets n).members

/-- Write a set; one without members and at its first phase is not listed. -/
def Block.putSet (b : Block) (n : Nat) (x : MSet) : Block := { b with sets := mapSet {} b.sets n x }

/-- A set's phase completes when every current member has arrived (R234). -/
def Block.settleSet (b : Block) (n : Nat) : Block :=
  let x := mapGet {} b.sets n
  if b.members n ≠ 0 ∧ b.members n &&& ~~~x.arrived = 0 then
    b.putSet n { x with arrived := 0, phase := x.phase + 1, timer := none }
  else b

/-- A warp arrives at a set (R234), and the phase's timer starts (R342). -/
def Block.arriveSet (b : Block) (n wid : Nat) : Block :=
  let x := mapGet {} b.sets n
  let t := match x.timer with
    | some t => t
    | none => 0
  (b.putSet n { x with arrived := x.arrived ||| BitVec.twoPow 64 wid, timer := some t }).settleSet n

/-- A warp leaves a set; the set dissolves with its last member (R234). -/
def Block.leaveSet (b : Block) (n wid : Nat) : Block :=
  let x := mapGet {} b.sets n
  let out := ~~~(BitVec.twoPow 64 wid)
  let y := { x with members := x.members &&& out, arrived := x.arrived &&& out }
  if n ≠ 0 ∧ y.members = 0 then { b with sets := mapErase b.sets n } else (b.putSet n y).settleSet n

/-- A warp that has ended leaves every set (R25). -/
def Block.leaveSets (b : Block) (wid : Nat) : Block :=
  (List.range 32).foldl
    (fun b n => if n = 0 ∨ (b.members n).getLsbD wid then b.leaveSet n wid else b)
    b

/-- Live sets of a core (R23); set 0 of a resident block counts (log 9). -/
def State.liveSets (s : State) (core : Nat) : Nat :=
  (s.blocks.map fun e =>
    if e.2.core = core then 1 + (e.2.sets.filter fun x => decide (x.1 ≠ 0)).length else 0).sum

end Sys2Proof.Machine
end

