-- ==== Sys2Proof/Machine/Engine.lean ====
section
/-! DEFINITION. The matrix engine's queue (R187 to R192): accepting operations, handles and their statuses (R189,
R214), footprints and the dependence rule (R190), weight buffers (R197), and the rendezvous of MMAP (R202). -/
namespace Sys2Proof.Machine

/-! ### Lookahead windows and retirement -/

/-- One issued instruction of the slot: windows that it fell in count down (R37). -/
def Slot.tick (x : Slot) : Slot :=
  { x with windows := (x.windows.map fun w => { w with left := w.left - 1 }).filter fun w => decide (w.left ≠ 0) }

/-- The windows of a slot after an instruction of it has issued, with the one that it opens (R36). -/
def Slot.issued (x : Slot) (is : Issue) : Slot :=
  let y := x.tick
  if is.la = 0 ∨ is.opens = [] then y else { y with windows := y.windows ++ [{ left := is.la, regs := is.opens }] }

/-- An instruction of a context has retired: the hang count restarts (R341). -/
def State.retired (s : State) (ctx : Nat) : State := s.modCtx ctx fun c => { c with hangCount := 0 }

/-- An instruction that waited completes from outside: its slot goes on after it. -/
def State.finishWait (s : State) (is : Issue) : State :=
  (s.modWarp is.warp fun w =>
    w.setSlot is.slot { (w.slot is.slot).issued is with pc := is.pc + BitVec.ofNat 64 is.len, wait := none }).retired
    (s.ctxOf (warpBlock is.warp))

/-! ### Engine accesses to memory -/

/-- The first byte of an operand. -/
def MatRef.base (m : MatRef) : Word := m.cap.base + m.off

/-- The address of row or column i of an operand. -/
def MatRef.rowAt (m : MatRef) (i : Nat) : Word := m.base + BitVec.ofNat 64 (i * m.stride)

/-- The footprint length of an operand with records of a length (R195). -/
def MatRef.span (m : MatRef) (rec : Nat) : Nat := (m.count - 1) * m.stride + rec

/-- The first sector of a translated range that an engine cannot read: the offset of its first byte in the range, its
address and its leaf. -/
def State.unreadable (s : State) : List (Nat × Word × Nat) → Option (Nat × Nat × Word)
  | [] => none
  | (pa, pte, n) :: r =>
    match (unitsOf 32 pa n).find? fun u => !(s.readable pte (32 * u) 32) with
    | some u => some (32 * u - pa, max pa (32 * u), pte)
    | none => (s.unreadable r).map fun x => (n + x.1, x.2)

/-- Bytes read by an engine of a core for a context, at the home slices (R193, R256). -/
def State.engineRead (s : State) (core ctx : Nat) (va : Word) (n : Nat) : Except FaultInfo (List Byte) × State :=
  match s.translateRange (some (clusterOf core)) ctx { r := true } 0 va n with
  | (.error i, s) => (.error i, s)
  | (.ok spans, s) =>
    match s.unreadable spans with
    | some (o, pa, pte) => (.error { va := va + BitVec.ofNat 64 o, mem := true }, s.noteUnreadable pte pa 1 true)
    | none =>
      let s := spans.foldl (fun s x => s.settleRange x.1 x.2.2) s
      (.ok (spans.flatMap fun x => s.mem.read x.1 x.2.2), s)

/-- Write bytes over translated spans. -/
def State.writeSpans (s : State) : List (Nat × Word × Nat) → List Byte → State
  | [], _ => s
  | (pa, _, k) :: r, l => (s.physWrite pa (l.take k)).writeSpans r (l.drop k)

/-- Bytes written by an engine of a core, at the home slices; copies in the core's L1 go (R254). -/
def State.engineWrite (s : State) (core ctx : Nat) (va : Word) (l : List Byte) : Except FaultInfo Unit × State :=
  match s.translateRange (some (clusterOf core)) ctx { w := true } 1 va l.length with
  | (.error i, s) => (.error i, s)
  | (.ok spans, s) =>
    let s := spans.foldl (fun s x => (s.discardRange core x.1 x.2.2).settleRange x.1 x.2.2) s
    (.ok (), s.writeSpans spans l)

/-! ### Footprints -/

/-- A range that an operation reads or writes: first, count, written. -/
abbrev Span := Nat × Nat × Bool

/-- Two ranges share a unit, and one of them is written. -/
def Span.meets (a b : Span) : Bool := (a.2.2 || b.2.2) && decide (a.1 < b.1 + b.2.1 ∧ b.1 < a.1 + a.2.1)

/-- What an operation declares (R190). -/
structure Foot where
  mem : List Span := []
  scratch : List Span := []
  rows : List Span := []
  sides : List Span := []
  /-- Buffer assignments; written by the load. -/
  loads : List Span := []
  /-- The column-scale register. -/
  col : List Span := []
deriving DecidableEq, Repr

/-- Some range of one list meets one of the other. -/
def spansMeet (a b : List Span) : Bool := a.any fun x => b.any fun y => x.meets y

/-- Two footprints overlap (R190). -/
def Foot.meets (a b : Foot) : Bool :=
  spansMeet a.mem b.mem || spansMeet a.scratch b.scratch || spansMeet a.rows b.rows || spansMeet a.sides b.sides ||
  spansMeet a.loads b.loads || spansMeet a.col b.col

/-- The memory of an operand. -/
def MatRef.foot (m : MatRef) (rec : Nat) (write : Bool) : Span := (m.base.toNat, m.span rec, write)

/-- The activations of a product. -/
def Product.actFoot (p : Product) : Span := p.act.foot (recordLen p.afmt p.kdim p.rs) false

/-- The footprint of an operation. -/
def EngineKind.foot : EngineKind → Foot
  | .wld w fmt k _ load =>
    { mem := [w.foot (recordLen fmt k false) false], loads := [(load, 1, true)], col := [(0, 1, false)] }
  | .wscl (some w) => { mem := [w.foot 256 false], col := [(0, 1, true)] }
  | .wscl none => { col := [(0, 1, true)] }
  | .mma p _ =>
    { mem := [p.actFoot], rows := [(p.row, p.act.count, true)]
      sides := if p.topk.isSome then [(p.row, p.act.count, true)] else [], loads := [(p.load, 1, false)] }
  | .mmag p gs =>
    { mem := p.actFoot :: gs.map fun g => g.1.foot (recordLen p.wfmt p.kdim false) false
      rows := gs.flatMap fun g => g.2.2.map fun r => (p.row + r, 1, true)
      loads := (gs.filter fun g => decide (g.2.1 ≠ 0)).map fun g => (g.2.1, 1, true), col := [(0, 1, false)] }
  | .mmap p w _ =>
    { mem := [p.actFoot, w.foot (recordLen p.wfmt p.kdim false) false], rows := [(p.row, p.act.count, true)]
      loads := [(p.load, 1, true)], col := [(0, 1, false)] }
  | .msl row a b fmt k _ _ _ _ =>
    { mem := [a.foot (recordLen fmt k false) false, b.foot (recordLen fmt k false) false]
      rows := [(row, a.count, true)] }
  | .aepi row dst fmt n cs rs _ _ _ _ =>
    { mem := [dst.foot (n * (elemBits fmt / 8)) true], rows := [(row, dst.count, false)]
      scratch := match rs with
        | some o => [(o, 4 * dst.count, false)]
        | none => []
      col := if cs then [(0, 1, false)] else [] }
  | .agui row prow n _ _ _ _ => { rows := [(row, n, true), (prow, n, false)] }
  | .atks row n m wr _ _ => { mem := [m.foot 64 (!wr)], sides := [(row, n, wr)] }

/-- The buffer assignments that an operation makes: it loads them itself. -/
def EngineKind.ownLoads : EngineKind → List Nat
  | .wld _ _ _ _ load => [load]
  | .mmag _ gs => (gs.map fun g => g.2.1).filter fun n => decide (n ≠ 0)
  | .mmap p _ _ => [p.load]
  | .wscl _ => []
  | .mma _ _ => []
  | .msl _ _ _ _ _ _ _ _ _ => []
  | .aepi _ _ _ _ _ _ _ _ _ _ => []
  | .agui _ _ _ _ _ _ _ => []
  | .atks _ _ _ _ _ _ => []

/-- The buffer assignments that an operation names. -/
def EngineKind.names (k : EngineKind) : List Nat := k.foot.loads.map fun x => x.1

/-- An accepted operation of a core names a buffer assignment (R197). -/
def Core.named (c : Core) (n : Nat) : Bool := c.ops.any fun o => o.kind.names.contains n

/-- An epilogue operation, whose page faults carry src 1 (Table 8.5). -/
def EngineKind.epilogue : EngineKind → Bool
  | .aepi _ _ _ _ _ _ _ _ _ _ => true
  | .agui _ _ _ _ _ _ _ => true
  | .atks _ _ _ _ _ _ => true
  | .wld _ _ _ _ _ => false
  | .wscl _ => false
  | .mma _ _ => false
  | .mmag _ _ => false
  | .mmap _ _ _ => false
  | .msl _ _ _ _ _ _ _ _ _ => false

/-- An operation of another warp or of the same one owns a row of a block (R192). -/
def State.rowOwned (s : State) (block row n : Nat) (p : EngineOp → Bool) : Bool :=
  (s.core (s.block block).core).ops.any fun o =>
    decide (o.block = block) && p o && o.kind.foot.rows.any fun x => x.2.2 && x.meets (row, n, true)

/-! ### Accepting operations -/

/-- The next handle serial, which skips zero (R189). -/
def Warp.nextSerial (w : Warp) : BitVec 32 := if w.serial + 1 = 0 then 1 else w.serial + 1

/-- A handle value (Table 6.1). -/
def handleValue (grp fn : Nat) (serial : BitVec 32) : Word := BitVec.ofNat 64 (serial.toNat + 2 ^ 32 * fn + 2 ^ 36 * grp)

/-- Write a new handle to h[d] of a warp: the operation's key, and the state. -/
def State.newHandle (s : State) (key d grp fn : Nat) (desc : Option (Nat × Nat × Nat)) : Nat × State :=
  match mapFind s.warps key with
  | none => (0, s)
  | some w =>
    let serial := w.nextSerial
    let v := handleValue grp fn serial
    let uid := s.nextOp
    let st : OpStat := { warp := key, value := v, batch := w.batch + 1, desc, grp }
    (uid, { s with nextOp := uid + 1, ops := mapPut s.ops uid st }.putWarp key
      ({ w with serial }.setH d { value := v, uid }))

/-- Assign the next weight buffer to a load (R197): the assignment's number. -/
def State.newLoad (s : State) (core : Nat) (l : Load) : Nat × State :=
  let c := s.core core
  (c.nextLoad, s.putCore core
    { c with nextLoad := c.nextLoad + 1, loads := mapPut c.loads c.nextLoad { l with buf := c.nextLoad % 2 } })

/-- A load's buffer has been assigned to a later load (R197). -/
def Core.displaced (c : Core) (n : Nat) : Bool := decide (n + 2 < c.nextLoad) || (mapFind c.loads n).isNone

/-- Write back what a slot has dirty in the footprint of an operation that it hands to an engine (R191, R253). -/
def State.flushFor (s : State) (key : Nat) (mem : List Span) : State :=
  let w := s.who key 0
  s.cleanWhere w.id fun x =>
    decide (x.asid = w.asid ∧ x.warp = key ∧ x.dirty ≠ 0) &&
    mem.any fun r => decide (r.1 < 32 * x.va + 32 ∧ 32 * x.va < r.1 + r.2.1)

/-- The engine accepts an operation of a warp (R188). -/
def State.accept (s : State) (o : EngineOp) : State :=
  let core := (s.block o.block).core
  let s := s.flushFor o.warp o.kind.foot.mem
  let c := s.core core
  s.putCore core { c with ops := c.ops ++ [o] }

/-- An operation has neither completed, failed nor been cancelled. -/
def OpStat.open (x : OpStat) : Bool := decide (x.state ≤ 1)

/-- An operation that has a status is open. -/
def State.opOpen (s : State) (uid : Nat) : Bool := (mapFind s.ops uid).any OpStat.open

/-- Some operation of the warp in the batches up to one is incomplete (R214). -/
def State.batchOpen (s : State) (key : Nat) (b : Word) : Bool :=
  (s.core (s.block (warpBlock key)).core).ops.any fun o => decide (o.warp = key ∧ o.batch ≤ b)

/-- Change the status of an operation. -/
def State.modStat (s : State) (uid : Nat) (f : OpStat → OpStat) : State := { s with ops := mapModify s.ops uid f }

/-- Widen the overflow range of unlisted failures (R214). -/
def Warp.widen (w : Warp) (batch : Word) : Warp :=
  { w with
    ovlo := if w.ovlo = 0 ∨ batch < w.ovlo then batch else w.ovlo
    ovhi := if w.ovhi < batch then batch else w.ovhi }

/-- Insert a failure by its serial. -/
def insertFailure (x : Word × Word) : List (Word × Word) → List (Word × Word)
  | [] => [x]
  | y :: r =>
    if (x.1.extractLsb' 0 32) < (y.1.extractLsb' 0 32) then x :: y :: r else y :: insertFailure x r

/-- Note a failed operation of a warp (R214): the 16 of lowest serial are listed, any other widens the overflow range,
and so does one that has no handle (log 12). -/
def Warp.noteFailure (w : Warp) (value batch : Word) : Warp :=
  if value = 0 then w.widen batch
  else
    let l := insertFailure (value, batch) w.failures
    match l.drop 16 with
    | [] => { w with failures := l }
    | x :: _ => { w with failures := l.take 16 }.widen x.2

/-- Note a handle that has retired since the last self-test of a core (R397): context, first and last serial of the
warp. -/
def Core.retire (c : Core) (o : EngineOp) : Core :=
  if o.value = 0 then c
  else
    let n := o.value.toNat % 2 ^ 32
    let first := match mapFind c.testSerials o.warp with
      | some (_, a, _) => a
      | none => n
    { c with testSerials := mapPut c.testSerials o.warp (o.ctx, first, n) }

/-- An operation of an engine has ended: its status, the flags that it raised if it succeeded (R55), the failure list,
and the end of its block if that waited for it (R128). Whether the handle of a failed operation counts as satisfied the
manual does not say: the model drops the flags of a failed engine operation, and raises those of a failed grid operation
(DESIGN CHOICE, log 50). -/
def State.opEnd (s : State) (core : Nat) (o : EngineOp) (state cause : Nat) : State :=
  let c := s.core core
  let s := s.putCore core ({ c with ops := c.ops.filter fun x => !(decide (x.uid = o.uid)) }.retire o)
  let s := s.modStat o.uid fun x => { x with state, cause }
  let s := s.modWarp o.warp fun w =>
    if state = 5 then w.noteFailure o.value o.batch
    else if state = 4 then w
    else w.raiseFlags o.flags
  s.endBlock o.block

/-! ### The rendezvous of MMAP -/

/-- Accept an MMAP of a warp (R202): its handle, its place in the pod's sequence, and the operation. -/
def State.acceptMmap (s : State) (r : MmapReq) (load : Nat) (weights : MatRef) (paired : Bool) : State :=
  match mapFind s.warps r.issue.warp with
  | none => s
  | some w =>
    let key := r.issue.warp
    let bk := warpBlock key
    let (uid, s) := s.newHandle key r.d 0 4 none
    let st := mapGet {} s.ops uid
    let s := s.modWarp key fun w => if w.pod.on then { w with pod := { w.pod with seq := w.pod.seq + 1 } } else w
    s.accept
      { uid, warp := key, block := bk, ctx := s.ctxOf bk, slot := r.issue.slot
        kind := .mmap { r.p with load } weights paired, value := st.value, batch := st.batch
        words := r.issue.words, sregs := r.sregs, caps := r.caps
        podInfo := (if paired then 1 else 2, w.pod.uncond, w.pod.partner.toNat, w.pod.seq) }

/-- A load made by the operation that comes next. -/
def State.loadFor (s : State) (bk : Nat) (value : Word) : Nat × State :=
  s.newLoad (s.block bk).core { op := s.nextOp, ctx := s.ctxOf bk, block := bk, buf := 0, value }

/-- The value of the next handle of a warp. -/
def State.nextValue (s : State) (key grp fn : Nat) : Word :=
  match mapFind s.warps key with
  | some w => handleValue grp fn w.nextSerial
  | none => 0

/-- An MMAP goes unpaired: its own load, and its own operation (R202). -/
def State.mmapAlone (s : State) (r : MmapReq) : State :=
  let (n, s) := s.loadFor (warpBlock r.issue.warp) (s.nextValue r.issue.warp 0 4)
  s.acceptMmap r n r.w false

/-- The MMAP at which a warp waits. -/
def Warp.waitingMmap (w : Warp) : Option MmapReq :=
  match w.s0.wait, w.s1.wait with
  | some (.mmap r), _ => some r
  | _, some (.mmap r) => some r
  | _, _ => none

/-- A waiting MMAP of a warp goes unpaired and completes. -/
def State.mmapGiveUp (s : State) (key : Nat) : State :=
  match mapFind s.warps key with
  | none => s
  | some w =>
    match w.waitingMmap with
    | some r => (s.mmapAlone r).finishWait r.issue
    | none => s

/-- An AGUI that has not read its partner's rows. -/
def EngineOp.guideWaits (o : EngineOp) : Bool :=
  !o.running && !o.begun && decide (o.progress = 0) &&
  (match o.kind with
   | .agui _ _ _ _ _ _ _ => true
   | _ => false)

/-- The AGUIs of warps that have not read their partner's rows fail with cause 0x03 (R203). -/
def State.failGuides (s : State) (keys : List Nat) : State :=
  s.cores.foldl
    (fun s c => (c.2.ops.filter fun o => keys.contains o.warp && o.guideWaits).foldl (fun s o => s.opEnd c.1 o 5 3) s) s

/-- The pod of a warp dissolves (R24, R201): an MMAP at which either member waits goes unpaired (R202), and an AGUI that
waits for the partner fails, whatever pod the warps form later (R203). -/
def State.dissolve (s : State) (key : Nat) : State :=
  match mapFind s.warps key with
  | none => s
  | some w =>
    if !w.pod.on then s
    else
      let other := warpKey (warpBlock key) w.pod.partner.toNat
      let off := fun (w : Warp) => { w with pod := {} }
      ((((s.modWarp key off).modWarp other off).mmapGiveUp key).mmapGiveUp other).failGuides [key, other]

/-- An MMAP that waits for a partner has waited for 1,024 clk, or its partner's number has passed its own (R202). -/
def State.mmapOver (s : State) (key : Nat) (w : Warp) (r : MmapReq) : Bool :=
  decide (r.since + 1024 ≤ s.clk) ||
  (match mapFind s.warps (warpKey (warpBlock key) w.pod.partner.toNat) with
   | some p => decide (r.seq.toNat < p.pod.seq.toNat)
   | none => true)

end Sys2Proof.Machine
end

