-- ==== Sys2Proof/Machine/LaneData.lean ====
section
/-! DEFINITION. The bytes that lanes load and store (R172, R173). -/
namespace Sys2Proof.Machine

/-- Bytes of a size code (R172). -/
def sizeBytes (size : Nat) : Nat :=
  match size with
  | 0 => 1
  | 1 => 1
  | 2 => 2
  | 3 => 2
  | 4 => 4
  | 5 => 8
  | _ => 16

/-- Loaded bytes as a value: .s8 and .s16 sign-extend, the rest zero-extend (R173). -/
def loadedValue (size w : Nat) (l : List Byte) : Nat :=
  let x := leNat l
  match size with
  | 1 => wrap w (signed 8 x)
  | 3 => wrap w (signed 16 x)
  | _ => x

/-- Write the words of loaded data to v[D] and the registers after it, lane by lane (R173). -/
def Warp.putLoaded (w : Warp) (d size : Nat) (m : Word) (x : Nat → Nat) : Warp :=
  let word := fun k i => BitVec.ofNat 32 (x i / 2 ^ (32 * k))
  if size = 6 then
    (((w.setV d m (word 0)).setV (d + 1) m (word 1)).setV (d + 2) m (word 2)).setV (d + 3) m (word 3)
  else if size = 5 then (w.setV d m (word 0)).setV (d + 1) m (word 1)
  else w.setV d m (word 0)

/-- The bytes that a lane stores, lowest-addressed word in v[D] (R173). -/
def Warp.storedBytes (w : Warp) (d size i : Nat) : List Byte :=
  if size = 6 then (List.range 4).flatMap fun k => leBytes 4 (w.getV (d + k) i).toNat
  else if size = 5 then leBytes 4 (w.getV d i).toNat ++ leBytes 4 (w.getV (d + 1) i).toNat
  else leBytes (sizeBytes size) (w.getV d i).toNat

/-- Loaded data of the lanes of a mask, `n` bytes each, in lane order. -/
def laneData (m : Word) (n : Nat) (l : List Byte) : List (Nat × List Byte) := (maskLanes m).zip (chunks n 64 l)

end Sys2Proof.Machine
end

