-- ==== Sys2Proof/Machine/Ops.lean ====
section
/-! DEFINITION. What every instruction of a warp shares: fetch (R87 to R89), the divergence stack (R14, R15), Resolve
(R16, R17), taking a trap (R18, R20, R21, R328) and returning from one (R19), the end of a warp (R25), lookahead
windows (R36, R37), and the common entry and exit of a meaning. -/
namespace Sys2Proof.Machine

/-- What every meaning answers. -/
abbrev Out := Host.Outcome State Fault Refusal

/-! ### Fetch -/

/-- The code kind of the page of an address, where it translates: true for forerunner code (R95). -/
def State.codeKind (s : State) (ctx : Nat) (va : Word) : Option Bool :=
  match mapFind s.ctxs ctx with
  | none => none
  | some c =>
    if canonical va.toNat then
      match s.walk va.toNat c.root.toNat levels with
      | .leaf pte _ => some (bit pte.toNat 5)
      | .miss => none
      | .bad _ => none
    else none

/-- Control would pass from an address to a page of the other code kind (R99). -/
def State.kindDiffers (s : State) (ctx : Nat) (fr : Bool) (old new : Word) : Bool :=
  decide (new.toNat / 65536 ≠ old.toNat / 65536) &&
  (match s.codeKind ctx new with
   | some k => k != fr
   | none => false)

/-- What a sector has held since a block was placed, before the writes that have come since (R89). -/
def State.oldSectors (s : State) (bkey pa32 : Nat) : List (List Byte) :=
  ((mapGet [] s.mem.past pa32).filter fun x => decide ((s.block bkey).born < x.1)).map Prod.snd

/-- The instruction bytes of a 32-byte sector: those at its home, or those that a store made since the block's placement
has changed, as the part chooses (R89, log 6). -/
def State.codeSector (s : State) (bkey pa32 : Nat) : List Byte × State :=
  let now := s.mem.read (32 * pa32) 32
  let old := (s.oldSectors bkey pa32).filter fun l => decide (l ≠ now)
  if old.isEmpty then (now, s)
  else
    let (x, s) := s.freeWord
    ((now :: old).getD (x.toNat % (old.length + 1)) now, s)

/-- The sector that the fetch of an instruction has last read: PA / 32 and its bytes. -/
abbrev FetchedSector := Option (Nat × List Byte)

/-- Fetch `n` bytes of code at an address: the bytes, whether the page holds forerunner code (check 1 of Table 3.10),
and the sector. Old or new bytes are chosen once for each sector of an instruction (R89): one read before stands. Check 1
names translation and c0 only; a PC that is not aligned to its word fails with 0x16, as check 7 of R170 (DESIGN CHOICE,
log 45). -/
def State.fetchWord (s : State) (key : Nat) (w : Warp) (va : Word) (n : Nat) (got : FetchedSector) :
    Except Failure (List Byte × Bool × FetchedSector) × State :=
  let ctx := s.ctxOf (warpBlock key)
  match s.capCheck ctx (w.getC 0) permX (va - (w.getC 0).base) n n with
  | some cause => (.error (cause, va), s)
  | none =>
    match s.translate (some (clusterOf (s.block (warpBlock key)).core)) ctx va { x := true } 0 with
    | (.fail i, s) => (.error (i.cause, va), s)
    | (.ok pa pte, s) =>
      if s.readable pte pa n then
        let (l, s) := match got.filter fun x => decide (x.1 = pa / 32) with
          | some x => (x.2, s)
          | none => s.codeSector (warpBlock key) (pa / 32)
        (.ok ((l.drop (pa % 32)).take n, bit pte.toNat 5, some (pa / 32, l)), s)
      else (.error (0x18, va), s.noteUnreadable pte pa n false)

/-- Fetch the words that follow the first word of a native instruction. The manual does not say what a later word in a
page of forerunner code is: the kind of the page of the first word holds for all of them (DESIGN CHOICE, log 45). -/
def State.fetchMore (s : State) (key : Nat) (w : Warp) (va : Word) (got : FetchedSector) :
    Nat → Except Failure (List Byte) × State
  | 0 => (.ok [], s)
  | n + 1 =>
    match s.fetchWord key w va 4 got with
    | (.error e, s) => (.error e, s)
    | (.ok (l, _, got), s) =>
      match s.fetchMore key w (va + 4) got n with
      | (.error e, s) => (.error e, s)
      | (.ok r, s) => (.ok (l ++ r), s)

/-- Fetch the instruction at an address: its bytes, and whether it is forerunner code. -/
def State.fetch (s : State) (key : Nat) (w : Warp) (pc : Word) : Except Failure (List Byte × Bool) × State :=
  match s.fetchWord key w pc 4 none with
  | (.error e, s) => (.error e, s)
  | (.ok (l, true, got), s) =>
    match s.fetchWord key w pc 8 got with
    | (.error e, s) => (.error e, s)
    | (.ok (l8, _, _), s) => (.ok (if l8.isEmpty then l else l8, true), s)
  | (.ok (l, false, got), s) =>
    match s.fetchMore key w (pc + 4) got (lenOf (wordAt l 0) / 4 - 1) with
    | (.error e, s) => (.error e, s)
    | (.ok r, s) => (.ok (l ++ r, false), s)

/-! ### The divergence stack -/

/-- A record of the divergence stack (Table 1.1). -/
structure Rec where
  pc : Word := 0
  mask : Word := 0
  rpc : Word := 0
  kind : BitVec 4 := 0
  flagP : Bool := false
  flagL : Bool := false
  flagT : Bool := false
  /-- flags.rsvd. -/
  rsvd : BitVec 9 := 0
  auxLo : BitVec 16 := 0
  auxHi : BitVec 32 := 0
deriving DecidableEq, Repr

/-- The 256 bits of a record. -/
def Rec.bits (r : Rec) : BitVec 256 :=
  r.auxHi ++ r.auxLo ++ r.rsvd ++ BitVec.ofBool r.flagT ++ BitVec.ofBool r.flagL ++ BitVec.ofBool r.flagP ++ r.kind ++
  r.rpc ++ r.mask ++ r.pc

/-- A record as bytes. -/
def Rec.bytes (r : Rec) : List Byte := leBytes 32 r.bits.toNat

/-- A record from 256 bits. -/
def recOf (x : BitVec 256) : Rec :=
  { pc := x.extractLsb' 0 64, mask := x.extractLsb' 64 64, rpc := x.extractLsb' 128 64
    kind := x.extractLsb' 192 4, flagP := x.getLsbD 196, flagL := x.getLsbD 197, flagT := x.getLsbD 198
    rsvd := x.extractLsb' 199 9, auxLo := x.extractLsb' 208 16, auxHi := x.extractLsb' 224 32 }

/-- The checks of one 32-byte access to the stack (R14): R and W of c15, and the translation. -/
def State.stackCheck (s : State) (w : Who) (wp : Warp) (at_ : Word) (write : Bool) :
    Except Failure (Option (Nat × Word)) × State :=
  let c := wp.getC 15
  match s.capCheck w.ctx c (permR ||| permW) (at_ - c.base) 32 32 with
  | some cause => (.error (cause, at_), s)
  | none =>
    match s.l1Check w at_ 32 write with
    | (.error i, s) => (.error (i.cause, at_), s)
    | (.ok m, s) => (.ok m, s)

/-- Read the record at an address of the stack. -/
def State.stackRead (s : State) (w : Who) (wp : Warp) (at_ : Word) : Except Failure Rec × State :=
  match s.stackCheck w wp at_ false with
  | (.error e, s) => (.error e, s)
  | (.ok m, s) =>
    let ((l, _), s) := s.l1Load w at_ 32 m
    (.ok (recOf (BitVec.ofNat 256 (leNat l))), s)

/-- The checks of a push of several records from an address up, all made before any is written (R21). -/
def State.stackChecks (s : State) (w : Who) (wp : Warp) (at_ : Word) :
    List Rec → Except Failure (List (Word × Rec × Option (Nat × Word))) × State
  | [] => (.ok [], s)
  | r :: rest =>
    match s.stackCheck w wp at_ true with
    | (.error e, s) => (.error e, s)
    | (.ok m, s) =>
      match s.stackChecks w wp (at_ + 32) rest with
      | (.error e, s) => (.error e, s)
      | (.ok l, s) => (.ok ((at_, r, m) :: l), s)

/-- Write records whose checks have passed. -/
def State.stackStore (s : State) (w : Who) (l : List (Word × Rec × Option (Nat × Word))) : State :=
  l.foldl (fun s x => s.l1Store w x.1 x.2.1.bytes x.2.2) s

/-- Write records from an address of the stack up, or fail and write nothing (R14). -/
def State.stackWrite (s : State) (w : Who) (wp : Warp) (at_ : Word) (l : List Rec) : Except Failure Unit × State :=
  match s.stackChecks w wp at_ l with
  | (.error e, s) => (.error e, s)
  | (.ok l, s) => (.ok (), s.stackStore w l)

/-- A slot as a path record (R15). -/
def Slot.path (x : Slot) : Rec := { pc := x.pc, mask := x.mask, rpc := x.rpc, flagP := x.parked }

/-- The checks of Table 1.2 on a path record, beside the other slot. -/
def pathBad (w : Warp) (r : Rec) (other : Slot) : Bool :=
  decide (r.kind ≠ 0 ∨ r.mask = 0 ∨ r.mask &&& ~~~w.lanes ≠ 0 ∨ r.rsvd ≠ 0 ∨ r.auxLo ≠ 0 ∨ r.auxHi ≠ 0) ||
  (other.live && decide (r.mask &&& other.mask ≠ 0))

/-- The slot that a path record is loaded into; a popped path has no windows (R37). -/
def Rec.slot (r : Rec) : Slot := { live := true, parked := r.flagP, pc := r.pc, mask := r.mask, rpc := r.rpc }

/-! ### Resolve -/

/-- RcvOuter and NextPc of an address (R16, R127): the RCV that stands there is fetched and decoded again. -/
def State.rcvAt (s : State) (key : Nat) (w : Warp) (a : Word) : Except Failure (Word × Word) × State :=
  match s.fetch key w a with
  | (.error e, s) => (.error e, s)
  | (.ok (l, fr), s) =>
    match decode fr l with
    | .instr (.rcv f) n =>
      (.ok (if mb f 0 then noRpc else a + sx32 f.w2, a + BitVec.ofNat 64 n), s)
    | _ => (.error (0x05, a), s)

/-- A warp has no lane left in either slot and no path to pop: it leaves its sets and its pod, and its block may end
(R25). -/
def State.endWarp (s : State) (key : Nat) : State :=
  match mapFind s.warps key with
  | none => s
  | some w =>
    let bk := warpBlock key
    let s := if w.pod.on then s.dissolve key else s
    let s := { s with warps := mapErase s.warps key, picks := s.picks.filter fun k => !(decide (k = key)) }
    let wid := warpId key
    let s := s.modBlock bk fun b => { b with ended := b.ended ||| BitVec.twoPow 64 wid }
    (s.modBlock bk fun b => b.leaveSets wid).endBlock bk

/-- Unpark a slot at its own RCV: it proceeds past it with the enclosing reconvergence point (R16). -/
def State.unpark (s : State) (key : Nat) (w : Warp) (k : Nat) : Except Failure Warp × State :=
  let x := w.slot k
  match s.rcvAt key w x.pc with
  | (.error e, s) => (.error e, s)
  | (.ok (outer, nxt), s) =>
    if s.kindDiffers (s.ctxOf (warpBlock key)) false x.pc nxt then (.error (0x01, 0), s)
    else (.ok (w.setSlot k { x with rpc := outer, pc := nxt, parked := false }), s)

/-- Merge slot 1 into slot 0, both parked at one RCV; the windows of both end (R16, R37). -/
def State.mergeSlots (s : State) (key : Nat) (w : Warp) : Except Failure Warp × State :=
  match s.unpark key w 0 with
  | (.error e, s) => (.error e, s)
  | (.ok u, s) => (.ok { u with s0 := { u.s0 with mask := w.s0.mask ||| w.s1.mask, windows := [] }, s1 := {} }, s)

/-- The top record of the stack; none when the stack is empty (R14). -/
def State.topRecord (s : State) (who : Who) (w : Warp) : Except Failure (Option Rec) × State :=
  if w.dstkSp = (w.getC 15).base then (.ok none, s)
  else
    match s.stackRead who w (w.dstkSp - 32) with
    | (.error e, s) => (.error e, s)
    | (.ok r, s) => (.ok (some r), s)

/-- What a round of Resolve answers: a changed warp, nothing more to do, or the end of the warp. -/
inductive Turn where
  /-- Slot state changed. -/
  | again (w : Warp)
  /-- Nothing changes any more. -/
  | done
  /-- WarpEnds(). -/
  | overrun
deriving DecidableEq, Repr

/-- Load the top record into a slot (R17). A path record whose PC lies in forerunner code is loaded as any other: R103
names no fault but for an RTT, and says that no such record comes about while forerunner code runs (DESIGN CHOICE,
log 45). -/
def popInto (w : Warp) (k : Nat) (r : Rec) : Except Failure Turn :=
  if pathBad w r (w.slot (1 - k)) then .error (0x05, w.dstkSp - 32)
  else .ok (.again ({ w with dstkSp := w.dstkSp - 32 }.setSlot k r.slot))

/-- One round of Resolve (R16), with the top record read. The exchange with a top record that is parked at the other
slot's RCV is made together with the merge that it leads to and the pop of the record that it writes: its checks come
before the merge's fetch, and it is written once all of them have passed, so that a fault has no effect. -/
def State.resolveTurn (s : State) (key : Nat) (who : Who) (w : Warp) (top : Option Rec) : Except Failure Turn × State :=
  let path := match top with
    | some r => if r.kind = 0 then some r else none
    | none => none
  if w.s1.live && !w.s0.live then (.ok (.again { w with s0 := w.s1, s1 := {} }), s)
  else if w.s0.live && w.s1.live && w.s0.parked && w.s1.parked then
    if w.s0.pc = w.s1.pc then
      match s.mergeSlots key w with
      | (.error e, s) => (.error e, s)
      | (.ok u, s) => (.ok (.again u), s)
    else
      match path.filter fun r => r.flagP && (decide (r.pc = w.s0.pc) || decide (r.pc = w.s1.pc)) with
      | some r =>
        let k := if r.pc = w.s0.pc then 1 else 0
        if pathBad w r (w.slot (1 - k)) then (.error (0x05, w.dstkSp - 32), s)
        else
          match s.stackChecks who w (w.dstkSp - 32) [(w.slot k).path] with
          | (.error e, s) => (.error e, s)
          | (.ok l, s) =>
            match s.mergeSlots key (w.setSlot k r.slot) with
            | (.error e, s) => (.error e, s)
            | (.ok u, s) =>
              match popInto u 1 (w.slot k).path with
              | .error e => (.error e, s)
              | .ok t => (.ok t, s.stackStore who l)
      | none =>
        let k := if w.s1.rpc.toNat < w.s0.rpc.toNat then 1 else 0
        match s.unpark key w k with
        | (.error e, s) => (.error e, s)
        | (.ok u, s) => (.ok (.again u), s)
  else if w.s0.live && !w.s1.live then
    match path with
    | some r => (popInto w 1 r, s)
    | none =>
      if w.s0.parked then
        match s.unpark key w 0 with
        | (.error e, s) => (.error e, s)
        | (.ok u, s) => (.ok (.again u), s)
      else (.ok .done, s)
  else if !w.s0.live && !w.s1.live then
    match path with
    | some r => (popInto w 0 r, s)
    | none => (.ok .overrun, s)
  else (.ok .done, s)

/-- The top record is looked at only where Resolve asks for it: not while both slots run. -/
def Warp.asksTop (w : Warp) : Bool :=
  !(w.s1.live && !w.s0.live) && !(w.s0.live && w.s1.live && !(w.s0.parked && w.s1.parked)) &&
  !(w.s0.live && w.s1.live && decide (w.s0.pc = w.s1.pc))

/-- Resolve (R16): rounds until nothing changes. A record that is exchanged or popped leads to a merge or to running
slots, so that the rounds are few; `fuel` bounds them. The answer is the warp's new state, or none when it ends. -/
def State.resolve (s : State) (key : Nat) (who : Who) (w : Warp) : Nat → Except Failure (Option Warp) × State
  | 0 => (.ok (some w), s)
  | fuel + 1 =>
    let (top, s) : Except Failure (Option Rec) × State :=
      if w.asksTop then s.topRecord who w else (.ok none, s)
    match top with
    | .error e => (.error e, s)
    | .ok top =>
      match s.resolveTurn key who w top with
      | (.error e, s) => (.error e, s)
      | (.ok .done, s) => (.ok (some w), s)
      | (.ok .overrun, s) => (.ok none, s)
      | (.ok (.again u), s) => s.resolve key who u fuel

/-- Rounds of Resolve that suffice for any warp. -/
def resolveFuel : Nat := 16

/-! ### Traps -/

/-- A slot as the record of a trap entry (R18). -/
def Slot.trapRec (x : Slot) (raised : Bool) : Rec :=
  if x.live then
    { pc := x.pc, mask := x.mask, rpc := x.rpc, kind := 1, flagP := x.parked, flagL := true, flagT := raised }
  else { kind := 1, flagT := raised }

/-- The three records of a trap entry, lowest address first (R18). -/
def trapEntry (w : Warp) (k : Nat) (pc : Word) (t : Trap) (suppressed halt : Bool) : List Rec :=
  [w.s1.trapRec (decide (k = 1)), w.s0.trapRec (decide (k = 0)),
   { pc, mask := t.lanes, rpc := t.addr, kind := 2, flagP := decide (k = 1), flagL := halt, flagT := suppressed
     auxLo := t.cause }]

/-- The warp as its handler finds it (R18). -/
def Warp.enterTrap (w : Warp) (pc : Word) (t : Trap) : Warp :=
  let m0 := if w.s0.live then w.s0.mask else 0
  let m1 := if w.s1.live then w.s1.mask else 0
  { w with
    s0 := { live := true, pc := w.trapVec, mask := m0 ||| m1, rpc := noRpc }
    s1 := {}
    dstkSp := w.dstkSp + 96, trapCause := t.cause, trapAddr := t.addr, trapPc := pc, trapNew := true }

/-- Remove the request of a GLD. -/
def State.dropLoad (s : State) (op : Nat) : State :=
  { s with fab := { s.fab with gridOps := mapKeep s.fab.gridOps fun k g => !(decide (k = op ∧ g.fn = 1)) } }

/-- The reply of a GLD is written to its lanes' registers, and the acquire of .acq made (R243). -/
def State.takeLoad (s : State) (key op : Nat) (g : GridOp) (l : List Byte) : State :=
  let (m, d, size) := g.ret.getD (0, 0, 0)
  let s := s.dropLoad op
  let s := if g.acq then s.acquire key 6 else s
  let got := laneData m (sizeBytes size) l
  s.modWarp key fun w => w.putLoaded d size m fun i => loadedValue size 32 (mapGet [] got i)

/-- An instruction of a slot whose wait has ended completes before its warp is saved or enters a handler: a SETW whose
phase has passed, an SBAR.sync whose generation has ended, and a GLD whose reply has come (R38, R40, R331). -/
def State.finishSlot (s : State) (key k : Nat) : State :=
  let bk := warpBlock key
  let x := ((mapFind s.warps key).getD {}).slot k
  let is : Issue := { warp := key, slot := k, pc := x.pc, len := 12 }
  match x.wait with
  | some (.set n phase) =>
    if (mapGet {} (s.block bk).sets n).phase = phase then s else (s.acquire key 1).finishWait is
  | some (.pkg b gen true) =>
    if (mapFind s.ctxs (s.ctxOf bk)).any fun c => decide ((mapGet {} c.sbars b).gen ≠ gen) then (s.acquire key 5).finishWait is
    else s
  | some (.load op) =>
    match mapFind s.fab.gridOps op with
    | some g =>
      match g.reply, g.failed with
      | some l, none => (s.takeLoad key op g l).finishWait is
      | _, _ => s
    | none => s
  | _ => s

/-- Withdraw what a waiting instruction has arrived at, since the instruction is executed again (log 11): the arrival of
SETW, that of SBAR.sync where `sync` asks for it, and the request of a GLD. -/
def State.withdrawSlot (s : State) (key : Nat) (sync : Bool) (x : Slot) : State :=
  let bk := warpBlock key
  match x.wait with
  | some (.set n phase) =>
    s.modBlock bk fun b =>
      let y := mapGet {} b.sets n
      if y.phase = phase then b.putSet n { y with arrived := y.arrived &&& ~~~(BitVec.twoPow 64 (warpId key)) } else b
  | some (.pkg b gen true) =>
    if sync then
      s.modCtx (s.ctxOf bk) fun c =>
        let y := mapGet {} c.sbars b
        if y.gen = gen then { c with sbars := mapSet {} c.sbars b { y with arrivals := y.arrivals - 1 } } else c
    else s
  | some (.load op) => s.dropLoad op
  | _ => s

/-- Withdraw the arrivals of both slots of a warp. -/
def State.withdraw (s : State) (key : Nat) (sync : Bool) : State :=
  match mapFind s.warps key with
  | some w => (s.withdrawSlot key sync w.s0).withdrawSlot key sync w.s1
  | none => s

/-- TAKE A TRAP (R18, R21, R328): the entry is pushed at dstk.sp and the handler entered; the context ends with code
0x0A when trap.vec reads zero, and with 0x01 when the entry cannot be written. `suppressed` tells that a co-issued
slot 1 instruction was not executed, `halt` that a debugger halt is pending; one of the context in this clk counts too
(R330). -/
def State.takeTrap (s : State) (key k : Nat) (pc : Word) (t : Trap) (suppressed halt : Bool) : State :=
  let s := s.finishSlot key (1 - k)
  let halt := halt || (mapFind s.ctxs (s.ctxOf (warpBlock key))).any fun c => c.halted
  match mapFind s.warps key with
  | none => s
  | some w =>
    let bk := warpBlock key
    let b := s.block bk
    let overrun := fun (s : State) (code : Nat) =>
      s.forcedReset b.ctx code (s.launchPacket b.launch) (s.blockD0 bk (warpId key)) false none
    if w.trapVec = 0 then overrun s 0x0A
    else
      match s.stackWrite (s.who key k) w w.dstkSp (trapEntry w k pc t suppressed halt) with
      | (.error _, s) => overrun s 0x01
      | (.ok _, s) => (s.withdraw key true).putWarp key (w.enterTrap pc t)

/-- RETURN FROM A TRAP (R19, R135): the slots of the entry on top, restored, and the stack pointer below it. The fault
is divergence-stack-format where the entry is not one. -/
def State.trapReturn (s : State) (who : Who) (w : Warp) : Except Failure Warp × State :=
  let sp := w.dstkSp
  let slotOk := fun (r : Rec) => decide (r.kind = 1 ∧ r.rsvd = 0 ∧ r.auxLo = 0 ∧ r.auxHi = 0)
  let restore := fun (r : Rec) =>
    let m := r.mask &&& w.lanes
    if r.flagL ∧ m ≠ 0 then { r.slot with mask := m } else ({} : Slot)
  if sp = (w.getC 15).base then (.error (0x05, sp), s)
  else
    match s.stackRead who w (sp - 32) with
    | (.error e, s) => (.error e, s)
    | (.ok head, s) =>
      if head.kind ≠ 2 ∨ head.rsvd ≠ 0 ∨ head.auxHi ≠ 0 then (.error (0x05, sp - 32), s)
      else
        match s.stackRead who w (sp - 64) with
        | (.error e, s) => (.error e, s)
        | (.ok r0, s) =>
          match s.stackRead who w (sp - 96) with
          | (.error e, s) => (.error e, s)
          | (.ok r1, s) =>
            if !(slotOk r0) then (.error (0x05, sp - 64), s)
            else if !(slotOk r1) then (.error (0x05, sp - 96), s)
            else
              let u := { w with s0 := restore r0, s1 := restore r1, dstkSp := sp - 96 }
              let fr := fun (x : Slot) => decide (s.codeKind who.ctx x.pc = some true)
              if u.s0.live && u.s1.live && (fr u.s0 || fr u.s1) then (.error (0x05, sp - 32), s)
              else (.ok u, s)

/-- A trap entry that a warp pushed in this clk shows the halt of its context (R330): flags.l of its head. -/
def State.markEntry (s : State) (key : Nat) (w : Warp) : State :=
  if !w.trapNew then s
  else
    let who := s.who key 0
    match s.stackRead who w (w.dstkSp - 32) with
    | (.error _, s) => s
    | (.ok r, s) => (s.stackWrite who w (w.dstkSp - 32) [{ r with flagL := true }]).2

/-- A debugger halt at a BKPT (R329): the context goes to level 2 with no drain time, under the save deadline of the
queue whose LAUNCH placed the block, and is parked as halted, with an error record of class 0x04. There is none where
the warp's context was reset in the same cycle (R330). -/
def State.startHalt (s : State) (key : Nat) (pc : Word) : State :=
  let bk := warpBlock key
  match mapFind s.blocks bk with
  | none => s
  | some b =>
    let packet := s.launchPacket b.launch
    let save := match mapFind s.launches b.launch with
      | some l => 1024 * l.savedl
      | none => 0
    let s := s.errorRecord 0x04 0x01 b.ctx packet (s.blockD0 bk (warpId key)) pc
    let s := (s.warps.filter fun e => decide (s.ctxOf (warpBlock e.1) = b.ctx)).foldl (fun s e => s.markEntry e.1 e.2) s
    s.modCtx b.ctx fun c =>
      let old := c.preempt.getD { level := 2, requeue := false, drain := 0, save, packet }
      let new := if old.halts.isEmpty then { old with save, packet } else old
      { c with
        halted := true
        preempt := some { new with halts := old.halts ++ [key], level := 2, requeue := false, drain := 0 } }

/-! ### The common entry and exit of a meaning -/

/-- What a meaning is given: the issuing warp and slot, the instruction's place and the effective mask (R78). -/
structure Env where
  key : Nat
  k : Nat
  w : Warp
  sl : Slot
  is : Issue
  /-- The effective mask. -/
  e : Word
  s : State
deriving DecidableEq, Repr

/-- How an instruction ends. -/
inductive Res where
  /-- It completes, and the slot continues after it. -/
  | next (s : State)
  /-- It completes, and the slot continues at an address. -/
  | jump (s : State) (pc : Word)
  /-- It completes, and has placed the slots itself. -/
  | moved (s : State)
  /-- It takes a trap; the state holds no effect of it. -/
  | trap (s : State) (t : Trap)
  /-- It waits, and issues again when it may go on. -/
  | wait (s : State) (w : Wait)
  /-- It completes and halts the warp for a debugger (R134). -/
  | halt (s : State)
deriving DecidableEq, Repr

/-- The warp's own state in memory of the package. -/
def Env.who (en : Env) : Who := en.s.who en.key en.k

/-- The context of the issuer. -/
def Env.ctx (en : Env) : Nat := en.s.ctxOf (warpBlock en.key)

/-- The key of the issuer's block. -/
def Env.bk (en : Env) : Nat := warpBlock en.key

/-- The issuer's block. -/
def Env.block (en : Env) : Block := en.s.block en.bk

/-- The address after the instruction. -/
def Env.fall (en : Env) : Word := en.is.pc + BitVec.ofNat 64 en.is.len

/-- The lanes of the effective mask, in rising order. -/
def Env.lanes (en : Env) : List Nat := maskLanes en.e

/-- Write the issuing warp back. -/
def Env.put (en : Env) (w : Warp) : State := en.s.putWarp en.key w

/-- The instruction completes with a changed warp. -/
def Env.done (en : Env) (w : Warp) : Res := .next (en.put w)

/-- A trap of the instruction with a cause and an address, on the lanes of the effective mask. -/
def Env.fail (en : Env) (cause : BitVec 16) (addr : Word := 0) : Res :=
  .trap en.s { cause, addr, lanes := en.e }

/-- A trap after checks that left marks of their own in the state. -/
def Env.failIn (en : Env) (s : State) (x : Failure) : Res :=
  .trap s { cause := x.1, addr := x.2, lanes := en.e }

/-- Deliver a trap of the instruction, or keep it until both co-issued instructions have ended (R20, R107). -/
def Env.raise (en : Env) (s : State) (t : Trap) : State :=
  let t := if t.lanes = 0 then { t with lanes := en.e } else t
  let s :=
    if t.completes then
      (s.modWarp en.key fun w => w.setSlot en.k { (w.slot en.k).issued en.is with pc := en.fall, wait := none }).retired
        en.ctx
    else s
  if en.is.paired then { s with traps := s.traps ++ [(en.k, en.is.pc, t)] }
  else s.takeTrap en.key en.k en.is.pc t false false

/-- The instruction has completed and its slot goes on at an address; passing to a page of the other code kind is the
illegal-instruction fault, without effect (R99). -/
def Env.leave (en : Env) (s : State) (pc : Word) : State :=
  if en.s.kindDiffers en.ctx en.is.fr en.is.pc pc then en.raise en.s { cause := 0x01 }
  else
    (s.modWarp en.key fun w => w.setSlot en.k { (w.slot en.k).issued en.is with pc, wait := none }).retired en.ctx

/-- A wait whose instruction has had an effect before it: an arrival, a request, or an offer to another warp. -/
def Wait.acted : Wait → Bool
  | .set _ _ => true
  | .pkg _ _ b => b
  | .barrier _ _ => true
  | .mmap _ => true
  | .pod _ _ _ _ => true
  | .load _ => true
  | .handle _ _ => false
  | .batch _ => false
  | .tile _ _ => false
  | .rows _ _ _ => false
  | .ringSpace => false
  | .ringDrain => false
  | .copySlot _ => false
  | .reads _ _ => false
  | .readFault _ _ _ => false

/-- The end of an instruction. One that acts and then waits, and that would fall through to a page of the other code kind,
raises that fault before it acts (R99). -/
def Env.finish (en : Env) (r : Res) : State :=
  match r with
  | .next s => en.leave s en.fall
  | .jump s pc => en.leave s pc
  | .moved s => s.retired en.ctx
  | .trap s t => en.raise s t
  | .wait s x =>
    if x.acted && en.s.kindDiffers en.ctx en.is.fr en.is.pc en.fall then en.raise en.s { cause := 0x01 }
    else s.modWarp en.key fun w => w.setSlot en.k { w.slot en.k with wait := some x }
  | .halt s =>
    if en.s.kindDiffers en.ctx en.is.fr en.is.pc en.fall then en.leave s en.fall
    else
      let s := en.leave s en.fall
      if en.is.paired then s.modWarp en.key fun w => { w with haltPending := some en.is.pc }
      else s.startHalt en.key en.is.pc

/-- The guard of an instruction's fields (R78). -/
def guardOf (w : Warp) (pg : Nat) (pn : Bool) : Word := if pn then ~~~(w.getP pg) else w.getP pg

/-- The issuer of the instruction in `cur`, with the mask that a guard leaves of its slot. -/
def State.env (s : State) (is : Issue) (g : Warp → Word) : Env :=
  let w := (mapFind s.warps is.warp).getD {}
  let sl := w.slot is.slot
  { key := is.warp, k := is.slot, w, sl, is, e := sl.mask &&& g w, s }

/-- Run a meaning on the issuer's effective mask; an empty mask leaves only the advance of the PC (R78). -/
def State.run (s : State) (is : Issue) (g : Warp → Word) (body : Env → Res) : State :=
  let en := s.env is g
  if en.e = 0 then en.finish (.next s) else en.finish (body en)

/-- The common form of a native instruction's meaning. -/
def native (f : Fields) (s : State) (body : Env → Res) : Out :=
  match s.cur with
  | none => .fault .noIssuer
  | some is => .next (s.run is (fun w => guardOf w f.pg.toNat (f.pn == 1#1)) body)

/-- Lanes whose nesting counters read zero (R102). -/
def Warp.zeroNest (w : Warp) : Word := maskOf fun i => decide (mapGet 0 w.nest i = 0)

/-- The common form of a forerunner instruction's meaning on its active lanes (R102). -/
def forerunner (f : FrFields) (s : State) (body : Env → Res) : Out :=
  match s.cur with
  | none => .fault .noIssuer
  | some is =>
    .next (s.run is (fun w => guardOf w f.pg.toNat (f.pn == 1#1) &&& w.zeroNest) body)

/-- The common form of a forerunner control instruction, which acts on the whole slot (R102). -/
def forerunnerSlot (s : State) (body : Env → Res) : Out :=
  match s.cur with
  | none => .fault .noIssuer
  | some is => .next (s.run is (fun _ => BitVec.allOnes 64) body)

/-- Resolve after an event of the issuing slot, which has left its warp as `w` (R16). -/
def Env.resolved (en : Env) (w : Warp) (s : State) : Res :=
  match s.resolve en.key en.who w resolveFuel with
  | (.error e, s) => en.failIn (s.putWarp en.key en.w) e
  | (.ok none, s) => .moved (s.putWarp en.key w |>.endWarp en.key)
  | (.ok (some u), s) => .moved (s.putWarp en.key u)

end Sys2Proof.Machine
end

