-- ==== Sys2Proof/Machine/Operands.lean ====
section
/-! DEFINITION. Operand forms (R78, R81, R123) and the integer operations that scalar and vector majors share (R109,
R110, R146). -/
namespace Sys2Proof.Machine

/-- IMM32 as a 64-bit operand: zero-extended for an unsigned 32-bit type, else sign-extended (R81). -/
def immWord (zext : Bool) (x : BitVec 32) : Word := if zext then x.zeroExtend 64 else sx32 x

/-- The immediate or literal that replaces B under a base major (R81). -/
def baseImmediate (f : Fields) (zext : Bool) : Word :=
  match f.form with
  | .base => 0
  | .ext => immWord zext f.w2
  | .lit => f.lit
  | .extLit => f.lit

/-- The immediate of an extended instruction that takes IMM32 or a literal (R115 to R117). -/
def extImmediate (f : Fields) : Word := if f.form = .extLit then f.lit else sx32 f.w2

/-- A branch target: the address plus the offset, or the literal (R123). -/
def branchTarget (f : Fields) (pc : Word) : Word := if f.form = .extLit then f.lit else pc + sx32 f.w2

/-- A target in a register: bits [1:0] are taken as zero (R123). -/
def registerTarget (x : Word) : Word := x &&& ~~~3#64

/-- s[A]. -/
def Env.sA (en : Env) (f : Fields) : Word := en.w.getS f.a.toNat

/-- s[B]. -/
def Env.sB (en : Env) (f : Fields) : Word := en.w.getS f.b.toNat

/-- s[C]. -/
def Env.sC (en : Env) (f : Fields) : Word := en.w.getS f.c.toNat

/-- The second operand of a scalar base major. -/
def Env.scalarB (en : Env) (f : Fields) : Word :=
  if baseImm f then baseImmediate f (decide (fld f.mod 0 2 = 3)) else en.sB f

/-- A v register or pair as a 64-bit value on one lane. -/
def Warp.vVal (w : Warp) (wide : Bool) (r lane : Nat) : Word :=
  if wide then w.getV2 r lane else (w.getV r lane).zeroExtend 64

/-- Write a v register or pair on the lanes of a mask. -/
def Warp.putV (w : Warp) (wide : Bool) (r : Nat) (m : Word) (g : Nat → Word) : Warp :=
  if wide then w.setV2 r m g else w.setV r m fun i => (g i).extractLsb' 0 32

/-- The second operand of a vector integer base major on one lane (R145, R146). -/
def Env.vectorB (en : Env) (f : Fields) (wide zext : Bool) (lane : Nat) : Word :=
  if baseImm f then baseImmediate f zext
  else if bsel f = 1 then (if wide then en.sB f else (en.sB f).truncate 32 |>.zeroExtend 64)
  else en.w.vVal wide f.b.toNat lane

/-- The operations of R109. -/
inductive IntOp where
  /-- Sum. -/
  | add
  /-- Difference. -/
  | sub
  /-- Low half of the product. -/
  | mul
  /-- High half of the product. -/
  | mulh
  /-- Bitwise and. -/
  | and
  /-- Bitwise or. -/
  | or
  /-- Bitwise exclusive or. -/
  | xor
  /-- Shift left. -/
  | shl
  /-- Logical shift right. -/
  | shr
  /-- Arithmetic shift right. -/
  | sra
  /-- Minimum. -/
  | min
  /-- Maximum. -/
  | max
  /-- Copy of the first operand. -/
  | mov
  /-- Rotate left. -/
  | rot
  /-- Quotient (Table 4.2). -/
  | div
  /-- Remainder (Table 4.2). -/
  | rem
deriving DecidableEq, Repr

/-- A quotient by Table 4.2. -/
def divInt (w : Nat) (uns : Bool) (x y : Int) : Int :=
  if y = 0 then (if uns then rangeHi w true else -1)
  else if !uns && decide (x = rangeLo w false) && decide (y = -1) then rangeLo w false
  else x.tdiv y

/-- A remainder by Table 4.2. -/
def remInt (w : Nat) (uns : Bool) (x y : Int) : Int :=
  if y = 0 then x
  else if !uns && decide (x = rangeLo w false) && decide (y = -1) then 0
  else x - y * x.tdiv y

/-- The exact result of an operation at a width and signedness (R109). -/
def IntOp.exact (op : IntOp) (w : Nat) (uns : Bool) (a b : Word) : Int :=
  let x := toInt w uns a.toNat
  let y := toInt w uns b.toNat
  let n := b.toNat
  let lo := low w a.toNat
  match op with
  | .add => x + y
  | .sub => x - y
  | .mul => x * y
  | .mulh => x * y / (2 ^ w : Nat)
  | .and => ((a &&& b).toNat : Int)
  | .or => ((a ||| b).toNat : Int)
  | .xor => ((a ^^^ b).toNat : Int)
  | .mov => (a.toNat : Int)
  | .min => if x ≤ y then x else y
  | .max => if x ≤ y then y else x
  | .div => divInt w uns x y
  | .rem => remInt w uns x y
  | .shl => if w ≤ n then 0 else x * (2 ^ n : Nat)
  | .shr => if w ≤ n then 0 else ((lo / 2 ^ n : Nat) : Int)
  | .sra => signed w a.toNat / (2 ^ (if n < w - 1 then n else w - 1) : Nat)
  | .rot => ((lo * 2 ^ (n % w) % 2 ^ w + lo / 2 ^ (w - n % w) : Nat) : Int)

/-- The `w` result bits of an operation, clamped under .sat, and the flags that it raises (R109). -/
def IntOp.result (op : IntOp) (w : Nat) (uns sat : Bool) (a b : Word) : Nat × FlagSet :=
  let r := op.exact w uns a b
  if sat then
    let (c, out) := clampTo (rangeLo w uns) (rangeHi w uns) r
    (wrap w c, flagOn out flagOvf)
  else (wrap w r, 0)

/-- A scalar result in its register: a 32-bit one is extended by its signedness (R109). -/
def scalarWord (w : Nat) (uns : Bool) (x : Nat) : Word :=
  if w = 64 then BitVec.ofNat 64 x
  else if uns then BitVec.ofNat 64 x
  else (BitVec.ofNat 32 x).signExtend 64

/-- A scalar base major (R109). -/
def scalarBase (op : IntOp) (f : Fields) (s : State) : Out :=
  native f s fun en =>
    let ty := btype f
    let w := if bit ty 1 then 32 else 64
    let uns := bit ty 0
    let (x, fl) := op.result w uns (bit ty 2) (en.sA f) (en.scalarB f)
    en.done ((en.w.setS f.d.toNat (scalarWord w uns x)).raiseFlags fl)

/-- A vector integer base major (R146). -/
def vectorBase (op : IntOp) (f : Fields) (s : State) : Out :=
  native f s fun en =>
    let ty := btype f
    let wide := bit ty 1
    let w := if wide then 64 else 32
    let uns := bit ty 0
    let r := fun i =>
      op.result w uns (bit ty 2) (en.w.vVal wide f.a.toNat i) (en.vectorB f wide (decide (ty % 4 = 1)) i)
    en.done ((en.w.putV wide f.d.toNat en.e fun i => BitVec.ofNat 64 (r i).1).raiseFlags
      (flagsOf en.e fun i => (r i).2))

end Sys2Proof.Machine
end

