-- ==== Sys2Proof/Machine/Accum.lean ====
section
/-! DEFINITION. The accumulator group (R205 to R208) and the checks on accumulator rows that the engine groups share
(Table 6.2). -/
namespace Sys2Proof.Machine

/-- A row of a block's accumulator. -/
def Block.accRow (b : Block) (r : Nat) : Lanes := mapGet zeroLanes b.acc r

/-- Write a row of a block's accumulator: an uncorrectable error of it goes. -/
def Block.setAcc (b : Block) (r : Nat) (x : Lanes) : Block :=
  { b with acc := mapSet zeroLanes b.acc r x, torn := b.torn.filter fun y => !(decide (y.1 = 2 ∧ y.2.1 = r)) }

/-- An empty sideband. -/
def noSide : List SideEntry := List.replicate 8 {}

/-- The sideband of a row: eight entries (R211). -/
def Block.sideRow (b : Block) (r : Nat) : List SideEntry := mapGet noSide b.side r

/-- Write the sideband of a row. -/
def Block.setSide (b : Block) (r : Nat) (x : List SideEntry) : Block := { b with side := mapSet noSide b.side r x }

/-- Empty the sidebands of rows. -/
def Block.clearSides (b : Block) (row n : Nat) : Block := { b with side := mapClear b.side row n }

/-- Zero rows and empty their sidebands: uncorrectable errors of them go. -/
def Block.clearRows (b : Block) (row n : Nat) : Block :=
  { b with
    acc := mapClear b.acc row n
    torn := b.torn.filter fun y => !(decide (y.1 = 2 ∧ row ≤ y.2.1 ∧ y.2.1 < row + n)) }.clearSides row n

/-- A bank of the block is allocated. -/
def Block.hasBank (b : Block) (k : Nat) : Bool := b.banks.getLsbD k

/-- The first of `n` window rows that lies outside the window, or whose bank is not allocated (Table 6.2). -/
def rowFault (w : Warp) (b : Block) (row n : Nat) : Option Nat :=
  ((List.range n).find? fun i =>
    let r := row + i
    decide (w.accLimit.toNat ≤ r + w.accBase.toNat) || !(b.hasBank ((w.accBase.toNat + r) / 64))).map fun i => row + i

/-- The accumulator-window fault of window rows, if any. -/
def windowFault (w : Warp) (b : Block) (row n : Nat) : Option Failure :=
  (rowFault w b row n).map fun r => (0x20, BitVec.ofNat 64 r)

/-- The window row that A and the offset field name. -/
def Env.rowOf (en : Env) (f : Fields) : Nat := (en.sA f + BitVec.ofNat 64 (fld f.w2 0 12)).toNat

/-- An instruction that touches rows or sidebands itself waits (R190, R192): for the operations of its own warp whose
footprints overlap, and where `owners` is set for those of any warp that write the rows. -/
def State.accHeld (s : State) (key : Nat) (rows sides : List Span) (owners : Bool) : Bool :=
  (s.core (s.block (warpBlock key)).core).ops.any fun o =>
    let x := o.kind.foot
    decide (o.block = warpBlock key) &&
    ((decide (o.warp = key) && (spansMeet x.rows rows || spansMeet x.sides sides)) ||
     (owners && (spansMeet (x.rows.filter fun y => y.2.2) rows || spansMeet (x.sides.filter fun y => y.2.2) sides)))

/-- Do something with rows and sidebands once nothing holds them. -/
def Env.withRows (en : Env) (rows sides : List Span) (owners : Bool) (go : Unit → Res) : Res :=
  if en.s.accHeld en.key rows sides owners then .wait en.s (.rows rows sides owners) else go ()

/-- The banks that AALLOC and AFREE name, as a mask. -/
def bankMask (a n : Nat) : BitVec 64 := BitVec.ofNat 64 ((2 ^ n - 1) * 2 ^ a)

/-- The first two bank checks of R206: a bank above 63, and a bank that is not in the state asked for. -/
def Env.bankFault (en : Env) (a n : Nat) (want : Bool) : Option Failure :=
  if 64 < a + n then some (0x21, BitVec.ofNat 64 (max a 64))
  else
    ((List.range n).find? fun i => en.block.hasBank (a + i) != want).map fun i => (0x21, BitVec.ofNat 64 (a + i))

/-- The number of banks that AALLOC and AFREE name. -/
def bankCount (f : Fields) : Nat := fld f.w2 0 7

/-- AALLOC (R206). -/
def execAalloc (f : Fields) (s : State) : Out :=
  native f s fun en =>
    let a := (en.sA f).toNat
    let n := bankCount f
    match en.bankFault a n false with
    | some e => en.failIn en.s e
    | none =>
      if en.block.accb < popcount 64 en.block.banks.toNat + n then en.fail 0x21 (en.sA f)
      else .next (en.s.modBlock en.bk fun b => { b with banks := b.banks ||| bankMask a n }.clearRows (64 * a) (64 * n))

/-- AFREE (R206). -/
def execAfree (f : Fields) (s : State) : Out :=
  native f s fun en =>
    let a := (en.sA f).toNat
    let n := bankCount f
    match en.bankFault a n true with
    | some e => en.failIn en.s e
    | none =>
      let span : Span := (64 * a, 64 * n, true)
      en.withRows [span] [span] true fun _ =>
        .next (en.s.modBlock en.bk fun b =>
          { b with banks := b.banks &&& ~~~(bankMask a n) }.clearRows (64 * a) (64 * n))

/-- AWIN (R207). -/
def execAwin (f : Fields) (s : State) : Out :=
  native f s fun en =>
    let t := (en.sA f).toNat
    let lo := (en.sB f).toNat
    let hi := (en.sC f).toNat
    if warpId en.key ≠ 0 ∨ en.block.wpb ≤ t ∨ (mapFind en.s.warps (warpKey en.bk t)).isNone ∨ 4096 < hi ∨ hi < lo then
      en.fail 0x21
    else
      .next (en.s.modWarp (warpKey en.bk t) fun w =>
        { w with accBase := BitVec.ofNat 13 lo, accLimit := BitVec.ofNat 13 hi })

/-- AZERO (R208). -/
def execAzero (f : Fields) (s : State) : Out :=
  native f s fun en =>
    let n := fld f.w2 12 13
    match windowFault en.w en.block (en.rowOf f) n with
    | some e => en.failIn en.s e
    | none =>
      let row := en.w.accBase.toNat + en.rowOf f
      en.withRows [(row, n, true)] [(row, n, true)] true fun _ => .next (en.s.modBlock en.bk fun b => b.clearRows row n)

/-- The window row of LDA and STA: s[A] + SignExtend(IMM32), modulo 2^64 (R208). -/
def Env.laneRow (en : Env) (f : Fields) : Nat := (en.sA f + sx32 f.w2).toNat

/-- LDA (R208). -/
def execLda (f : Fields) (s : State) : Out :=
  native f s fun en =>
    match windowFault en.w en.block (en.laneRow f) 1 with
    | some e => en.failIn en.s e
    | none =>
      let row := en.w.accBase.toNat + en.laneRow f
      en.withRows [(row, 1, false)] [] true fun _ =>
        match en.block.tornRow 2 row row with
        | some x => .trap (en.s.sramError en.block.core 2 x) (sramTrap en.e)
        | none => en.done (en.w.setV f.d.toNat en.e (laneOf (en.block.accRow row)))

/-- STA (R208). -/
def execSta (f : Fields) (s : State) : Out :=
  native f s fun en =>
    match windowFault en.w en.block (en.laneRow f) 1 with
    | some e => en.failIn en.s e
    | none =>
      let row := en.w.accBase.toNat + en.laneRow f
      en.withRows [(row, 1, true)] [] true fun _ =>
        .next (en.s.modBlock en.bk fun b =>
          b.setAcc row (blend en.e (en.w.getV f.d.toNat) (laneOf (b.accRow row))))

end Sys2Proof.Machine
end

