-- ==== Sys2Proof/Machine/Elementary.lean ====
section
/-! DEFINITION. Correctly rounded elementary functions (R70, R159): each is computed in fixed point with an error
bound, and rounded when both ends of the interval round alike; the precision is raised until they do (log 10). -/
namespace Sys2Proof.Machine

/-- The error bound of every fixed-point value below, in units of its last place. -/
def slack : Int := 2 ^ 32

/-- Sum of a series whose next term is made from the last one and its number. -/
def series (next : Nat → Int → Int) : Nat → Nat → Int → Int → Int
  | 0, _, _, acc => acc
  | fuel + 1, k, t, acc => if t = 0 then acc else series next fuel (k + 1) (next k t) (acc + t)

/-- atan(1 / n) in units of 2^-p. -/
def atanInv (p n : Nat) : Int :=
  let rec go : Nat → Nat → Nat → Int → Int
    | 0, _, _, acc => acc
    | fuel + 1, k, t, acc =>
      if t = 0 then acc
      else go fuel (k + 1) (t / (n * n)) (if k % 2 = 0 then acc + (t / (2 * k + 1) : Nat) else acc - (t / (2 * k + 1) : Nat))
  go (p + 8) 0 (2 ^ p / n) 0

/-- π in units of 2^-p (Machin's formula). -/
def piFix (p : Nat) : Int := 16 * atanInv p 5 - 4 * atanInv p 239

/-- 2 atanh(z), for z in units of 2^-p. -/
def twoAtanh (p : Nat) (z : Int) : Int :=
  let z2 := z * z / 2 ^ p
  let rec go : Nat → Nat → Int → Int → Int
    | 0, _, _, acc => acc
    | fuel + 1, k, t, acc => if t = 0 then acc else go fuel (k + 1) (t * z2 / 2 ^ p) (acc + t / (2 * k + 1 : Nat))
  2 * go (p + 8) 0 z 0

/-- ln 2 in units of 2^-p. -/
def ln2Fix (p : Nat) : Int := twoAtanh p (2 ^ p / 3)

/-- e^y for y in [0, 1) in units of 2^-p. -/
def expFix (p : Nat) (y : Int) : Int :=
  series (fun k t => t * y / 2 ^ p / (k + 1 : Nat)) (p + 8) 0 (2 ^ p) 0

/-- sin r for r in [0, 2) in units of 2^-p. -/
def sinFix (p : Nat) (r : Int) : Int :=
  let r2 := r * r / 2 ^ p
  series (fun k t => -(t * r2 / 2 ^ p) / ((2 * k + 2) * (2 * k + 3) : Nat)) (p + 8) 0 r 0

/-- cos r for r in [0, 2) in units of 2^-p. -/
def cosFix (p : Nat) (r : Int) : Int :=
  let r2 := r * r / 2 ^ p
  series (fun k t => -(t * r2 / 2 ^ p) / ((2 * k + 1) * (2 * k + 2) : Nat)) (p + 8) 0 (2 ^ p) 0

/-- A finite value in units of 2^-p, rounded down. -/
def fixOf (p : Nat) (neg : Bool) (m : Nat) (e : Int) : Int :=
  let i : Int := if neg then -(m : Int) else m
  if 0 ≤ e + p then i * (2 ^ (e + p).toNat : Nat) else i / (2 ^ (-(e + p)).toNat : Nat)

/-- A fixed-point value, with a scale, as a value. -/
def ofFix (p : Nat) (v n : Int) : FVal := .fin (decide (v < 0)) v.natAbs (n - p)

/-- The two ends of the interval around a fixed-point result round alike. -/
def agree (mode : RMode) (p : Nat) (v n : Int) : Option (Nat × FlagSet) :=
  let lo := fp32.convert mode true (ofFix p (v - slack) n)
  let hi := fp32.convert mode true (ofFix p (v + slack) n)
  if lo = hi then some lo else none

/-- Round a function given in fixed point, v × 2^(n − p) at precision p, raising the precision where it is too low. -/
def roundReal (f : Nat → Int × Int) : Nat × FlagSet :=
  match agree 0 320 (f 320).1 (f 320).2 with
  | some r => r
  | none =>
    match agree 0 1280 (f 1280).1 (f 1280).2 with
    | some r => r
    | none => fp32.convert 0 true (ofFix 1280 (f 1280).1 (f 1280).2)

/-- 2^x in FP32 (Table 5.6). -/
def exp2Float (x : FVal) : Nat × FlagSet :=
  match x with
  | .nan => fp32.convert 0 true .nan
  | .inf s => fp32.convert 0 true (if s then .fin false 0 0 else .inf false)
  | .fin s m e =>
    if m = 0 then fp32.convert 0 true (.fin false 1 0)
    else if 9 < e + bitLen m then fp32.convert 0 true (.fin false 1 (if s then -400 else 400))
    else
      let n := fixOf 0 s m e
      let exact := decide (0 ≤ e) || decide (m % 2 ^ (-e).toNat = 0)
      if exact then fp32.convert 0 true (.fin false 1 n)
      else
        roundReal fun p =>
          let q := p + 160
          let y := (fixOf q s m e - n * 2 ^ q) * ln2Fix q / 2 ^ q
          (expFix q y / 2 ^ 160, n)

/-- e^x in FP32 (R70). -/
def expFloat (x : FVal) : Nat × FlagSet :=
  match x with
  | .nan => fp32.convert 0 true .nan
  | .inf s => fp32.convert 0 true (if s then .fin false 0 0 else .inf false)
  | .fin s m e =>
    if m = 0 then fp32.convert 0 true (.fin false 1 0)
    else if 9 < e + bitLen m then fp32.convert 0 true (.fin false 1 (if s then -400 else 400))
    else
      roundReal fun p =>
        let q := p + 160
        let v := fixOf q s m e
        let l := ln2Fix q
        let n := v / l
        (expFix q (v - n * l) / 2 ^ 160, n)

/-- log2 x in FP32 (Table 5.6). -/
def log2Float (x : FVal) : Nat × FlagSet :=
  match x with
  | .nan => fp32.convert 0 true .nan
  | .inf s => fp32.convert 0 true (if s then .nan else .inf false)
  | .fin s m e =>
    if m = 0 then fp32.convert 0 true (.inf true)
    else if s then fp32.convert 0 true .nan
    else
      let k : Int := e + bitLen m - 1
      if m = 2 ^ (bitLen m - 1) then fp32.convert 0 true (FVal.ofInt k)
      else
        roundReal fun p =>
          let one : Int := 2 ^ p
          let g := fixOf p false m (e - k)
          (k * one + twoAtanh p ((g - one) * one / (g + one)) * one / ln2Fix p, 0)

/-- The quarter turn of a positive value and the rest of it in units of 2^-p (R159). -/
def reduceTurn (p m : Nat) (e : Int) : Int × Int :=
  let q := p + 160
  let half := piFix q / 2
  let v := fixOf q false m e
  (v / half, v % half / 2 ^ 160)

/-- sin of a positive finite value plus `shift` quarter turns, in units of 2^-p. -/
def sinTurn (shift : Int) (m : Nat) (e : Int) (p : Nat) : Int :=
  let (k, r) := reduceTurn p m e
  match ((k + shift) % 4).toNat with
  | 0 => sinFix p r
  | 1 => cosFix p r
  | 2 => -(sinFix p r)
  | _ => -(cosFix p r)

/-- sin x in FP32 (Table 5.6). -/
def sinFloat (x : FVal) : Nat × FlagSet :=
  match x with
  | .nan => fp32.convert 0 true .nan
  | .inf _ => fp32.convert 0 true .nan
  | .fin s m e =>
    if m = 0 then fp32.convert 0 true x
    else roundReal fun p => (if s then -(sinTurn 0 m e p) else sinTurn 0 m e p, 0)

/-- cos x in FP32 (Table 5.6). -/
def cosFloat (x : FVal) : Nat × FlagSet :=
  match x with
  | .nan => fp32.convert 0 true .nan
  | .inf _ => fp32.convert 0 true .nan
  | .fin _ m e =>
    if m = 0 then fp32.convert 0 true (.fin false 1 0)
    else roundReal fun p => (sinTurn 1 m e p, 0)

/-- tanh x in FP32 (Table 5.6); past 64 the value lies within 2^-100 of ±1. -/
def tanhFloat (x : FVal) : Nat × FlagSet :=
  match x with
  | .nan => fp32.convert 0 true .nan
  | .inf s => fp32.convert 0 true (.fin s 1 0)
  | .fin s m e =>
    if m = 0 then fp32.convert 0 true x
    else if 6 < e + bitLen m then fp32.convert 0 true (.fin s (2 ^ 100 - 1) (-100))
    else
      roundReal fun p =>
        let q := p + 160
        let v := fixOf q false m (e + 1)
        let l := ln2Fix q
        let n := v / l
        let t := expFix q (v - n * l) * (2 ^ n.toNat : Nat)
        let one : Int := 2 ^ q
        let r := (t - one) * one / (t + one) / 2 ^ 160
        (if s then -r else r, 0)

end Sys2Proof.Machine
end

