-- ==== Sys2Proof/Machine/Scalar.lean ====
section
/-! DEFINITION. Scalar base majors and the scalar miscellaneous group (04 §4.2, §4.3). -/
namespace Sys2Proof.Machine

/-- SADD (R109). -/
def execSadd (f : Fields) (s : State) : Out := scalarBase .add f s
/-- SSUB (R109). -/
def execSsub (f : Fields) (s : State) : Out := scalarBase .sub f s
/-- SMUL (R109). -/
def execSmul (f : Fields) (s : State) : Out := scalarBase .mul f s
/-- SMULH (R109). -/
def execSmulh (f : Fields) (s : State) : Out := scalarBase .mulh f s
/-- SAND (R109). -/
def execSand (f : Fields) (s : State) : Out := scalarBase .and f s
/-- SOR (R109). -/
def execSor (f : Fields) (s : State) : Out := scalarBase .or f s
/-- SXOR (R109). -/
def execSxor (f : Fields) (s : State) : Out := scalarBase .xor f s
/-- SSHL (R109). -/
def execSshl (f : Fields) (s : State) : Out := scalarBase .shl f s
/-- SSHR (R109). -/
def execSshr (f : Fields) (s : State) : Out := scalarBase .shr f s
/-- SSRA (R109). -/
def execSsra (f : Fields) (s : State) : Out := scalarBase .sra f s
/-- SMIN (R109). -/
def execSmin (f : Fields) (s : State) : Out := scalarBase .min f s
/-- SMAX (R109). -/
def execSmax (f : Fields) (s : State) : Out := scalarBase .max f s
/-- SMOV (R109). -/
def execSmov (f : Fields) (s : State) : Out := scalarBase .mov f s
/-- SROT (R109). -/
def execSrot (f : Fields) (s : State) : Out := scalarBase .rot f s
/-- SDIV (R110). -/
def execSdiv (f : Fields) (s : State) : Out := scalarBase .div f s
/-- SREM (R110). -/
def execSrem (f : Fields) (s : State) : Out := scalarBase .rem f s

/-- An instruction whose result goes to s[D]. -/
def scalarResult (f : Fields) (s : State) (g : Env → Word) : Out :=
  native f s fun en => en.done (en.w.setS f.d.toNat (g en))

/-- SCLZ (R112). -/
def execSclz (f : Fields) (s : State) : Out :=
  scalarResult f s fun en =>
    BitVec.ofNat 64 (leadingZeros (if mb f 1 then 32 else 64) (en.sA f).toNat)

/-- SPOPC (R112). -/
def execSpopc (f : Fields) (s : State) : Out :=
  scalarResult f s fun en => BitVec.ofNat 64 (popcount (if mb f 1 then 32 else 64) (en.sA f).toNat)

/-- Position and length of a scalar bit field, from word 2 or from registers (R113). -/
def Env.fieldPlace (en : Env) (f : Fields) : Nat × Nat :=
  if mb f 1 then (min (en.sB f).toNat 64, min (en.sC f).toNat 64) else (fld f.w2 0 6, fld f.w2 8 7)

/-- Extract a bit field of a `w`-bit value, bits past the end reading as zero (R113, R150). -/
def extractField (w a pos len : Nat) (sign : Bool) : Nat :=
  let x := a % 2 ^ w / 2 ^ pos % 2 ^ len
  if sign && decide (0 < len) then wrap w (signed len x) else x

/-- Insert the low bits of a value into a field of another, as far as it reaches (R113, R150). -/
def insertField (w d a pos len : Nat) : Nat :=
  if w ≤ pos then d % 2 ^ w
  else
    let n := min len (w - pos)
    let keep := d % 2 ^ pos + d % 2 ^ w / 2 ^ (pos + n) * 2 ^ (pos + n)
    keep + a % 2 ^ n * 2 ^ pos

/-- SBFE (R113). -/
def execSbfe (f : Fields) (s : State) : Out :=
  scalarResult f s fun en =>
    let (pos, len) := en.fieldPlace f
    BitVec.ofNat 64 (extractField 64 (en.sA f).toNat pos len (mb f 0))

/-- SBFI (R113). -/
def execSbfi (f : Fields) (s : State) : Out :=
  scalarResult f s fun en =>
    let (pos, len) := en.fieldPlace f
    BitVec.ofNat 64 (insertField 64 (en.w.getS f.d.toNat).toNat (en.sA f).toNat pos len)

/-- SSEL (R114). -/
def execSsel (f : Fields) (s : State) : Out :=
  scalarResult f s fun en => if en.w.getP f.c.toNat &&& en.e ≠ 0 then en.sA f else en.sB f

/-- SLI (R115). -/
def execSli (f : Fields) (s : State) : Out :=
  scalarResult f s fun en =>
    if f.form = .extLit then f.lit
    else if mb f 0 then f.w2 ++ (en.w.getS f.d.toNat).extractLsb' 0 32
    else sx32 f.w2

/-- SLEA (R116). -/
def execSlea (f : Fields) (s : State) : Out :=
  scalarResult f s fun en =>
    let base := if mb f 3 then en.is.pc else en.sA f
    let index := if mb f 4 then extImmediate f else en.sB f
    base + index <<< (fld f.mod 0 3)

/-- A comparison of integers: .eq, .ne, .lt, .le, .gt, .ge as 0 to 5 (R117, R152). -/
def compareInt (cond : Nat) (x y : Int) : Bool :=
  match cond with
  | 0 => decide (x = y)
  | 1 => decide (x ≠ y)
  | 2 => decide (x < y)
  | 3 => decide (x ≤ y)
  | 4 => decide (y < x)
  | _ => decide (y ≤ x)

/-- SCMP (R117). -/
def execScmp (f : Fields) (s : State) : Out :=
  native f s fun en =>
    let b := if mb f 4 then extImmediate f else en.sB f
    let c := allOnes (compareInt (fld f.mod 0 3) (toInt 64 (mb f 3) (en.sA f).toNat) (toInt 64 (mb f 3) b.toNat))
    en.done (if mb f 5 then en.w.setPLanes f.d.toNat en.e c else en.w.setP f.d.toNat c)

end Sys2Proof.Machine
end

