-- ==== Sys2Proof/Machine/VectorInt.lean ====
section
/-! DEFINITION. Vector integer base majors and the vector integer group (05 §5.2). -/
namespace Sys2Proof.Machine

/-- VADD (R146). -/
def execVadd (f : Fields) (s : State) : Out := vectorBase .add f s
/-- VSUB (R146). -/
def execVsub (f : Fields) (s : State) : Out := vectorBase .sub f s
/-- VMUL (R146). -/
def execVmul (f : Fields) (s : State) : Out := vectorBase .mul f s
/-- VMULH (R146). -/
def execVmulh (f : Fields) (s : State) : Out := vectorBase .mulh f s
/-- VAND (R146). -/
def execVand (f : Fields) (s : State) : Out := vectorBase .and f s
/-- VOR (R146). -/
def execVor (f : Fields) (s : State) : Out := vectorBase .or f s
/-- VXOR (R146). -/
def execVxor (f : Fields) (s : State) : Out := vectorBase .xor f s
/-- VSHL (R146). -/
def execVshl (f : Fields) (s : State) : Out := vectorBase .shl f s
/-- VSHR (R146). -/
def execVshr (f : Fields) (s : State) : Out := vectorBase .shr f s
/-- VSRA (R146). -/
def execVsra (f : Fields) (s : State) : Out := vectorBase .sra f s
/-- VMIN (R146). -/
def execVmin (f : Fields) (s : State) : Out := vectorBase .min f s
/-- VMAX (R146). -/
def execVmax (f : Fields) (s : State) : Out := vectorBase .max f s
/-- VMOV (R146). -/
def execVmov (f : Fields) (s : State) : Out := vectorBase .mov f s

/-- A per-lane instruction whose result goes to v[D] or the pair at D, with the flags that its lanes raise (R141,
R142). -/
def laneResult (f : Fields) (s : State) (wide : Bool) (g : Env → Nat → Word × FlagSet) : Out :=
  native f s fun en =>
    en.done ((en.w.putV wide f.d.toNat en.e fun i => (g en i).1).raiseFlags (flagsOf en.e fun i => (g en i).2))

/-- An exact integer at a width, clamped with a flag under .sat. -/
def narrow (w : Nat) (uns sat : Bool) (flag : FlagSet) (r : Int) : Word × FlagSet :=
  if sat then
    let (c, out) := clampTo (rangeLo w uns) (rangeHi w uns) r
    (BitVec.ofNat 64 (wrap w c), flagOn out flag)
  else (BitVec.ofNat 64 (wrap w r), 0)

/-- VMAD (R148). -/
def execVmad (f : Fields) (s : State) : Out :=
  let uns := mb f 0
  let wide := mb f 3
  laneResult f s wide fun en i =>
    let x := toInt 32 uns (en.w.getV f.a.toNat i).toNat
    let y := toInt 32 uns (en.w.getV f.b.toNat i).toNat
    let z := toInt (if wide then 64 else 32) uns (en.w.vVal wide f.c.toNat i).toNat
    narrow (if wide then 64 else 32) uns (mb f 2) flagOvf (x * y + z)

/-- VABS (R149). -/
def execVabs (f : Fields) (s : State) : Out :=
  laneResult f s false fun en i =>
    narrow 32 false (mb f 2) flagOvf (signed 32 (en.w.getV f.a.toNat i).toNat).natAbs

/-- VNEG (R149). -/
def execVneg (f : Fields) (s : State) : Out :=
  laneResult f s false fun en i => narrow 32 false (mb f 2) flagOvf (-(signed 32 (en.w.getV f.a.toNat i).toNat))

/-- VCLZ (R149). -/
def execVclz (f : Fields) (s : State) : Out :=
  laneResult f s false fun en i => (BitVec.ofNat 64 (leadingZeros 32 (en.w.getV f.a.toNat i).toNat), 0)

/-- VPOPC (R149). -/
def execVpopc (f : Fields) (s : State) : Out :=
  laneResult f s false fun en i => (BitVec.ofNat 64 (popcount 32 (en.w.getV f.a.toNat i).toNat), 0)

/-- Position and length of a vector bit field on a lane (R150). -/
def Env.lanePlace (en : Env) (f : Fields) (i : Nat) : Nat × Nat :=
  if mb f 1 then (min (en.w.getV f.b.toNat i).toNat 32, min (en.w.getV f.c.toNat i).toNat 32)
  else (fld f.w2 0 5, fld f.w2 8 6)

/-- VBFE (R150). -/
def execVbfe (f : Fields) (s : State) : Out :=
  laneResult f s false fun en i =>
    let (pos, len) := en.lanePlace f i
    (BitVec.ofNat 64 (extractField 32 (en.w.getV f.a.toNat i).toNat pos len (mb f 0)), 0)

/-- VBFI (R150). -/
def execVbfi (f : Fields) (s : State) : Out :=
  laneResult f s false fun en i =>
    let (pos, len) := en.lanePlace f i
    (BitVec.ofNat 64 (insertField 32 (en.w.getV f.d.toNat i).toNat (en.w.getV f.a.toNat i).toNat pos len), 0)

/-- VSEL (R151). -/
def execVsel (f : Fields) (s : State) : Out :=
  let wide := mb f 0
  laneResult f s wide fun en i =>
    (en.w.vVal wide (if inMask (en.w.getP f.c.toNat) i then f.a.toNat else f.b.toNat) i, 0)

/-- VCMP (R152). -/
def execVcmp (f : Fields) (s : State) : Out :=
  native f s fun en =>
    let wide := mb f 5
    let w := if wide then 64 else 32
    let c := fun i =>
      let b := if mb f 4 then extImmediate f else if mb f 6 then en.sB f else en.w.vVal wide f.b.toNat i
      compareInt (fld f.mod 0 3) (toInt w (mb f 3) (en.w.vVal wide f.a.toNat i).toNat) (toInt w (mb f 3) b.toNat)
    en.done (en.w.setPLanes f.d.toNat en.e (maskOf c))

/-- VBCST (R151). -/
def execVbcst (f : Fields) (s : State) : Out :=
  laneResult f s (mb f 0) fun en _ => (if mb f 1 then extImmediate f else en.sA f, 0)

end Sys2Proof.Machine
end

