-- ==== Sys2Proof/Machine/FloatOps.lean ====
section
/-! DEFINITION. Float base majors, the float group and the transcendental group (05 §5.3). -/
namespace Sys2Proof.Machine

/-- The format of an instruction with a .f64 bit. -/
def fpOf (dbl : Bool) : FFmt := if dbl then fp64 else fp32

/-- A v register, or pair under .f64, as a value on one lane. -/
def Env.fpV (en : Env) (dbl : Bool) (r i : Nat) : FVal := (fpOf dbl).decode (en.w.vVal dbl r i).toNat

/-- The second operand of a float base major on a lane (R81, R153): an FP32 immediate is taken bit for bit, and
converted exactly for FP64. -/
def Env.floatB (en : Env) (f : Fields) (dbl : Bool) (i : Nat) : FVal :=
  if baseImm f then
    match f.form with
    | .ext => fp32.decode f.w2.toNat
    | .base => fp32.decode f.w2.toNat
    | .lit => (fpOf dbl).decode (if dbl then f.lit.toNat else low 32 f.lit.toNat)
    | .extLit => (fpOf dbl).decode (if dbl then f.lit.toNat else low 32 f.lit.toNat)
  else if bsel f = 1 then (fpOf dbl).decode (if dbl then (en.sB f).toNat else low 32 (en.sB f).toNat)
  else en.fpV dbl f.b.toNat i

/-- A conversion's answer as a lane result. -/
def asLane (x : Nat × FlagSet) : Word × FlagSet := (BitVec.ofNat 64 x.1, x.2)

/-- A float base major (R154): rounding from type[1:0], FP64 from type[2], saturating from type[3]. -/
def floatBase (g : RMode → FVal → FVal → FVal) (f : Fields) (s : State) : Out :=
  let ty := btype f
  let dbl := bit ty 2
  laneResult f s dbl fun en i =>
    asLane ((fpOf dbl).convert (ty % 4) (!(bit ty 3)) (g (ty % 4) (en.fpV dbl f.a.toNat i) (en.floatB f dbl i)))

/-- FADD (R154). -/
def execFadd (f : Fields) (s : State) : Out := floatBase (fun m a b => FVal.add m a b) f s
/-- FSUB (R154). -/
def execFsub (f : Fields) (s : State) : Out := floatBase (fun m a b => FVal.add m a b.flip) f s
/-- FMUL (R154). -/
def execFmul (f : Fields) (s : State) : Out := floatBase (fun _ a b => a.mul b) f s

/-- FMIN and FMAX return one of their operands (R154). -/
def floatPick (g : FVal → FVal → FVal) (f : Fields) (s : State) : Out :=
  let dbl := bit (btype f) 2
  laneResult f s dbl fun en i =>
    asLane ((fpOf dbl).convert 0 true (g (en.fpV dbl f.a.toNat i) (en.floatB f dbl i)))

/-- FMIN (R154). -/
def execFmin (f : Fields) (s : State) : Out := floatPick FVal.pickMin f s
/-- FMAX (R154). -/
def execFmax (f : Fields) (s : State) : Out := floatPick FVal.pickMax f s

/-- The two BF16 elements of a register. -/
def halves (x : Nat) : FVal × FVal := (bf16.decode (low 16 x), bf16.decode (bits x 16 16))

/-- Two BF16 results in one register, with their flags. -/
def packHalves (a b : Nat × FlagSet) : Word × FlagSet := (BitVec.ofNat 64 (a.1 + 65536 * b.1), a.2 ||| b.2)

/-- The second operand of a packed BF16 major on a lane (R81). -/
def Env.packedB (en : Env) (f : Fields) (i : Nat) : Nat :=
  low 32 (if baseImm f then (baseImmediate f true).toNat
          else if bsel f = 1 then (en.sB f).toNat
          else (en.w.getV f.b.toNat i).toNat)

/-- A packed BF16 base major (R154). -/
def packedBase (g : RMode → FVal → FVal → FVal) (f : Fields) (s : State) : Out :=
  let ty := btype f
  laneResult f s false fun en i =>
    let a := halves (en.w.getV f.a.toNat i).toNat
    let b := halves (en.packedB f i)
    let r := fun x y => bf16.convert (ty % 4) (!(bit ty 3)) (g (ty % 4) x y)
    packHalves (r a.1 b.1) (r a.2 b.2)

/-- HADD2 (R154). -/
def execHadd2 (f : Fields) (s : State) : Out := packedBase (fun m a b => FVal.add m a b) f s
/-- HMUL2 (R154). -/
def execHmul2 (f : Fields) (s : State) : Out := packedBase (fun _ a b => a.mul b) f s

/-- FFMA (R156). -/
def execFfma (f : Fields) (s : State) : Out :=
  let dbl := mb f 2
  let m := fld f.mod 0 2
  laneResult f s dbl fun en i =>
    asLane ((fpOf dbl).convert m (!(mb f 3))
      (FVal.fma m (en.fpV dbl f.a.toNat i) (en.fpV dbl f.b.toNat i) (en.fpV dbl f.c.toNat i)))

/-- FABS and FNEG: the sign bit of a value that is no NaN (R157). -/
def signOp (g : Nat → Nat → Nat) (f : Fields) (s : State) : Out :=
  let dbl := mb f 2
  laneResult f s dbl fun en i =>
    let x := (en.w.vVal dbl f.a.toNat i).toNat
    let sb := 2 ^ ((fpOf dbl).width - 1)
    if ((fpOf dbl).decode x).isNan then asLane ((fpOf dbl).convert 0 true .nan) else (BitVec.ofNat 64 (g sb x), 0)

/-- FABS (R157). -/
def execFabs (f : Fields) (s : State) : Out := signOp (fun sb x => x % sb) f s
/-- FNEG (R157). -/
def execFneg (f : Fields) (s : State) : Out := signOp (fun sb x => (x + sb) % (2 * sb)) f s

/-- FCMP (R158). -/
def execFcmp (f : Fields) (s : State) : Out :=
  native f s fun en =>
    let dbl := mb f 3
    let c := fun i =>
      let b :=
        if mb f 4 then
          if f.form = .extLit then (fpOf dbl).decode (if dbl then f.lit.toNat else low 32 f.lit.toNat)
          else fp32.decode f.w2.toNat
        else en.fpV dbl f.b.toNat i
      compareFloat (fld f.mod 0 3) (en.fpV dbl f.a.toNat i) b
    en.done (en.w.setPLanes f.d.toNat en.e (maskOf c))

/-- The class mask of a code (R157). -/
def classMask (f : FFmt) (x : Nat) : Nat :=
  let sub := decide (bits x f.mb f.eb = 0)
  match f.decode x with
  | .nan => 2 ^ 8
  | .inf s => if s then 2 ^ 0 else 2 ^ 7
  | .fin s m _ =>
    if m = 0 then (if s then 2 ^ 3 else 2 ^ 4)
    else if sub then (if s then 2 ^ 2 else 2 ^ 5)
    else if s then 2 ^ 1 else 2 ^ 6

/-- FCLASS (R157). -/
def execFclass (f : Fields) (s : State) : Out :=
  let dbl := mb f 2
  laneResult f s false fun en i =>
    (BitVec.ofNat 64 (classMask (fpOf dbl) (en.w.vVal dbl f.a.toNat i).toNat), 0)

/-- FSCALE (R156). -/
def execFscale (f : Fields) (s : State) : Out :=
  let dbl := mb f 2
  laneResult f s dbl fun en i =>
    asLane ((fpOf dbl).convert (fld f.mod 0 2) (!(mb f 3))
      ((en.fpV dbl f.a.toNat i).scale (signed 32 (en.w.getV f.b.toNat i).toNat)))

/-- FRND (R156). -/
def execFrnd (f : Fields) (s : State) : Out :=
  let dbl := mb f 2
  laneResult f s dbl fun en i =>
    asLane ((fpOf dbl).convert 0 true ((en.fpV dbl f.a.toNat i).integral (fld f.mod 0 2)))

/-- HFMA2 (R156). -/
def execHfma2 (f : Fields) (s : State) : Out :=
  let m := fld f.mod 0 2
  laneResult f s false fun en i =>
    let a := halves (en.w.getV f.a.toNat i).toNat
    let b := halves (en.w.getV f.b.toNat i).toNat
    let c := halves (en.w.getV f.c.toNat i).toNat
    let r := fun x y z => bf16.convert m (!(mb f 3)) (FVal.fma m x y z)
    packHalves (r a.1 b.1 c.1) (r a.2 b.2 c.2)

/-- A correctly rounded root or reciprocal, with the selected rounding and the IEEE policy (R159). -/
def rootOp (g : FVal → FVal) (f : Fields) (s : State) : Out :=
  let dbl := mb f 2
  laneResult f s dbl fun en i =>
    asLane ((fpOf dbl).convert (fld f.mod 0 2) true (g (en.fpV dbl f.a.toNat i)))

/-- FRCP (R159). -/
def execFrcp (f : Fields) (s : State) : Out := rootOp FVal.recip f s
/-- FRSQ (R159). -/
def execFrsq (f : Fields) (s : State) : Out := rootOp FVal.rsqrt f s
/-- FSQRT (R159). -/
def execFsqrt (f : Fields) (s : State) : Out := rootOp FVal.sqrt f s

/-- A correctly rounded FP32 function (R159). -/
def elementary (g : FVal → Nat × FlagSet) (f : Fields) (s : State) : Out :=
  laneResult f s false fun en i => asLane (g (en.fpV false f.a.toNat i))

/-- FEXP2 (R159). -/
def execFexp2 (f : Fields) (s : State) : Out := elementary exp2Float f s
/-- FLOG2 (R159). -/
def execFlog2 (f : Fields) (s : State) : Out := elementary log2Float f s
/-- FSIN (R159). -/
def execFsin (f : Fields) (s : State) : Out := elementary sinFloat f s
/-- FCOS (R159). -/
def execFcos (f : Fields) (s : State) : Out := elementary cosFloat f s
/-- FTANH (R159). -/
def execFtanh (f : Fields) (s : State) : Out := elementary tanhFloat f s

end Sys2Proof.Machine
end

