-- ==== Sys2Proof/Machine/CrossLane.lean ====
section
/-! DEFINITION. The cross-lane group (05 §5.5). -/
namespace Sys2Proof.Machine

/-- Lanes of a segment: 64, 32, 16, 8, 4 or 2 (R163). -/
def segSize (f : Fields) : Nat := 64 / 2 ^ fld f.mod 4 3

/-- The source lane of VSHF; the lane itself where the source lies outside its segment (R165). -/
def shuffleLane (mode g n i : Nat) : Nat :=
  let base := i - i % g
  let j : Int := match mode with
    | 0 => ((base + n % g : Nat) : Int)
    | 1 => (i : Int) - n
    | 2 => (i : Int) + n
    | _ => ((i ^^^ n : Nat) : Int)
  if (base : Int) ≤ j ∧ j < (base + g : Nat) then j.toNat else i

/-- VSHF (R164, R165). -/
def execVshf (f : Fields) (s : State) : Out :=
  let mode := fld f.mod 0 2
  let g := segSize f
  laneResult f s false fun en i =>
    let n := if mode = 0 then (en.w.getV f.b.toNat i).toNat else fld f.w2 0 6
    ((en.w.getV f.a.toNat (shuffleLane mode g n i)).zeroExtend 64, 0)

/-- Combine two 32-bit values by an operator of Table 5.9; .fadd rounds. -/
def crossOp (op : Nat) (x y : Nat) : Nat × FlagSet :=
  let sx := signed 32 x
  let sy := signed 32 y
  let fx := fp32.decode x
  let fy := fp32.decode y
  match op with
  | 0 => ((x + y) % 2 ^ 32, 0)
  | 1 => (if sx ≤ sy then x else y, 0)
  | 2 => (if sx ≤ sy then y else x, 0)
  | 3 => (min x y, 0)
  | 4 => (max x y, 0)
  | 5 => (x &&& y, 0)
  | 6 => (x ||| y, 0)
  | 7 => (x ^^^ y, 0)
  | 8 => fp32.convert 0 true (FVal.add 0 fx fy)
  | 9 => fp32.convert 0 true (fx.pickMin fy)
  | _ => fp32.convert 0 true (fx.pickMax fy)

/-- The identity of an exclusive scan (Table 5.9). -/
def crossIdentity (op : Nat) : Nat :=
  match op with
  | 1 => 0x7FFFFFFF
  | 2 => 0x80000000
  | 3 => 0xFFFFFFFF
  | 5 => 0xFFFFFFFF
  | 8 => 0x80000000
  | 9 => 0x7F800000
  | 10 => 0xFF800000
  | _ => 0

/-- A value as a result of an operator by itself: a float minimum or maximum of one NaN is the canonical NaN. -/
def crossFirst (op x : Nat) : Nat × FlagSet :=
  if 8 ≤ op then fp32.convert 0 true (fp32.decode x) else (x, 0)

/-- A left fold of values, in order, with the flags of its steps. -/
def crossFold (op : Nat) : List Nat → Nat × FlagSet
  | [] => (crossIdentity op, 0)
  | x :: r => r.foldl (fun a y => let (z, fl) := crossOp op a.1 y; (z, a.2 ||| fl)) (crossFirst op x)

/-- Values of v[A] on effective lanes of the segment of a lane that pass a test, in rising order. -/
def Env.segment (en : Env) (f : Fields) (i : Nat) (p : Nat → Bool) : List Nat :=
  let g := segSize f
  (en.lanes.filter fun j => decide (j / g = i / g) && p j).map fun j => (en.w.getV f.a.toNat j).toNat

/-- VRED (R166). -/
def execVred (f : Fields) (s : State) : Out :=
  let op := fld f.mod 0 4
  laneResult f s false fun en i =>
    let l := en.segment f i fun _ => true
    asLane (if op = 8 then binnedSum fp32 (l.map fp32.decode) else crossFold op l)

/-- VSCAN (R166). -/
def execVscan (f : Fields) (s : State) : Out :=
  let op := fld f.mod 0 4
  let excl := fld f.w2 0 1 = 1
  laneResult f s false fun en i =>
    asLane (crossFold op (en.segment f i fun j => if excl then decide (j < i) else decide (j ≤ i)))

/-- VDOT4 (R167). -/
def execVdot4 (f : Fields) (s : State) : Out :=
  let ua := mb f 0
  let ub := mb f 1
  laneResult f s false fun en i =>
    let a := (en.w.getV f.a.toNat i).toNat
    let b := (en.w.getV f.b.toNat i).toNat
    let d := toInt 32 (ua && ub) (en.w.getV f.c.toNat i).toNat
    let r := (List.range 4).foldl
      (fun t k => t + toInt 8 ua (bits a (8 * k) 8) * toInt 8 ub (bits b (8 * k) 8))
      d
    narrow 32 (ua && ub) (mb f 2) flagInt r

end Sys2Proof.Machine
end

