-- ==== Sys2Proof/Machine/Collective.lean ====
section
/-! DEFINITION. The arithmetic of fabric reductions (R67 to R71): elementwise operators, the two rounds of a binned sum
as its frames carry them, the LSE combine and its nodes (R381), and E2M1 compression. -/
namespace Sys2Proof.Machine

/-- Bytes of an element of a GRED type (Table 7.16). -/
def gridElemSize (ty : Nat) : Nat := if ty = 1 ∨ ty = 3 ∨ ty = 5 then 8 else 4

/-- One element of an order-free operator (Tables 2.10 and 7.16); a NaN is the canonical one. -/
def gridElement (op ty d x : Nat) : Nat :=
  let w := 8 * gridElemSize ty
  let uns := decide (ty = 2 ∨ ty = 3)
  match op with
  | 0 => (d + x) % 2 ^ w
  | 1 => if toInt w uns d ≤ toInt w uns x then d else x
  | 2 => if toInt w uns d ≤ toInt w uns x then x else d
  | 4 => (fp32.convert 0 true ((fp32.decode d).pickMax (fp32.decode x))).1
  | _ => d ||| x

/-- The elements of a list of bytes. -/
def elemsOf (n : Nat) (l : List Byte) : List Nat := (chunks n (l.length / n) l).map leNat

/-- Two contributions of an order-free operator together. -/
def gridBytes (op ty : Nat) (a b : List Byte) : List Byte :=
  let n := gridElemSize ty
  ((elemsOf n a).zip (elemsOf n b)).flatMap fun x => leBytes n (gridElement op ty x.1 x.2)

/-! ### Binned sums -/

/-- Format of a binned sum's type. -/
def binFormat (ty : Nat) : FFmt := if ty = 5 then fp64 else fp32

/-- The exponent code of an EXP frame (log 17): a finite value's exponent, −32,768 for a zero, 32,766 for an infinity
and 32,767 for a NaN. -/
def expCode : FVal → Int
  | .nan => 32767
  | .inf _ => 32766
  | .fin s m e => if m = 0 then -32768 else FVal.exponent (.fin s m e)

/-- The exponent vector of a contribution. -/
def expVector (ty : Nat) (l : List Byte) : List Byte :=
  (elemsOf (gridElemSize ty) l).flatMap fun x => leBytes 2 (wrap 16 (expCode ((binFormat ty).decode x)))

/-- Exponent codes of a vector. -/
def expsOf (l : List Byte) : List Int := (elemsOf 2 l).map (signed 16)

/-- Elementwise maximum of two exponent vectors. -/
def maxExps (a b : List Byte) : List Byte :=
  ((expsOf a).zip (expsOf b)).flatMap fun x => leBytes 2 (wrap 16 (if x.1 ≤ x.2 then x.2 else x.1))

/-- The bins of a value against an exponent code (R69, log 17): under the codes of infinities and of zeros the first
bins count what decides the result. -/
def codeBins (f : FFmt) (e : Int) (x : FVal) : List Int :=
  if e = 32767 then List.replicate (binCount f) 0
  else if e = 32766 then
    (List.range (binCount f)).map fun j =>
      if (j = 0 ∧ x = .inf false) ∨ (j = 1 ∧ x = .inf true) then 1 else 0
  else if e = -32768 then (List.range (binCount f)).map fun j => if j = 0 ∧ !x.neg then 1 else 0
  else binsOf f (binQuanta f e x)

/-- The bins of a contribution against an exponent vector (R381). -/
def binBytes (ty : Nat) (exps l : List Byte) : List Byte :=
  let f := binFormat ty
  ((expsOf exps).zip (elemsOf (gridElemSize ty) l)).flatMap fun x =>
    (codeBins f x.1 (f.decode x.2)).flatMap fun b => leBytes 8 (wrap 64 b)

/-- Bins added elementwise. -/
def addBins (a b : List Byte) : List Byte :=
  ((elemsOf 8 a).zip (elemsOf 8 b)).flatMap fun x => leBytes 8 ((x.1 + x.2) % 2 ^ 64)

/-- The result of one element from its exponent code and bins, with its flags (R50, R55). -/
def binResult (f : FFmt) (e : Int) (bins : List Int) : Nat × FlagSet :=
  if e = 32767 then f.convert 0 true .nan
  else if e = 32766 then
    if bins.getD 0 0 ≠ 0 ∧ bins.getD 1 0 ≠ 0 then f.convert 0 true .nan
    else f.convert 0 true (.inf (decide (bins.getD 0 0 = 0)))
  else if e = -32768 then f.convert 0 true (.fin (decide (bins.getD 0 0 = 0)) 0 0)
  else binRound f e (binTotal f bins)

/-- The result of a binned sum from its exponent vector and its bins. -/
def binResults (ty : Nat) (exps bins : List Byte) : List Byte :=
  let f := binFormat ty
  let n := binCount f
  let es := expsOf exps
  let bs := (elemsOf 8 bins).map (signed 64)
  (List.range es.length).flatMap fun i =>
    leBytes (gridElemSize ty) (binResult f (es.getD i 0) ((bs.drop (n * i)).take n)).1

/-- Some finite element of a binned sum overflowed (R69): its result is an infinity. -/
def binOverflow (ty : Nat) (exps result : List Byte) : Bool :=
  ((expsOf exps).zip (elemsOf (gridElemSize ty) result)).any fun x =>
    decide (x.1 ≠ 32766) && ((binFormat ty).decode x.2).isInf

/-- The flags of a result of a float operator as it is placed (R50, R55): a NaN was produced; a binned sum overflowed. -/
def resultFlags (op ty : Nat) (exps result : List Byte) : FlagSet :=
  let nan := (elemsOf (gridElemSize ty) result).any fun x => ((binFormat ty).decode x).isNan
  if op = 4 then flagOn nan flagNan
  else if op = 3 then flagOn nan flagNan ||| flagOn (binOverflow ty exps result) flagOvf
  else 0

/-! ### LSE combine -/

/-- An FP32 result of a product or difference, rounded to nearest with the IEEE overflow. -/
def toF32 (x : FVal) : Nat := (fp32.convert 0 true x).1

/-- The LSE combine of two records of m, s and o (R70), with the flags that it raises. -/
def lseCombine (a b : List Byte) : List Byte × FlagSet :=
  let x := elemsOf 4 a
  let y := elemsOf 4 b
  let m1 := fp32.decode (x.getD 0 0)
  let m2 := fp32.decode (y.getD 0 0)
  let bad := fun (m : FVal) => m.isNan || decide (m = .inf false)
  let fill := fun (m r : Nat) => leBytes 4 m ++ (x.drop 1).flatMap fun _ => leBytes 4 r
  if bad m1 || bad m2 then (fill fp32.nanCode fp32.nanCode, flagNan)
  else if m1 = .inf true ∧ m2 = .inf true then (fill (toF32 (.inf true)) 0, 0)
  else if m1 = .inf true then (b, 0)
  else if m2 = .inf true then (a, 0)
  else
    let m := m1.pickMax m2
    let part := fun (q : FVal) =>
      let d := fp32.convert 0 true (FVal.add 0 q m.flip)
      let r := expFloat (fp32.decode d.1)
      (fp32.decode r.1, d.2 ||| r.2)
    let a1 := part m1
    let a2 := part m2
    let one := fun (p : Nat × Nat) =>
      let q := fp32.convert 0 true ((fp32.decode p.2).mul a2.1)
      let r := fp32.convert 0 true (FVal.fma 0 (fp32.decode p.1) a1.1 (fp32.decode q.1))
      (r.1, q.2 ||| r.2)
    let rest := ((x.drop 1).zip (y.drop 1)).map one
    (leBytes 4 (toF32 m) ++ rest.flatMap fun r => leBytes 4 r.1, rest.foldl (fun f r => f ||| r.2) (a1.2 ||| a2.2))

/-- A partial: first and last position, count, bytes. -/
abbrev Part := Nat × Nat × Nat × List Byte

/-- Two LSE partials may be combined, the first first (R381): for some varying axis i of the extents given, the second
is one whole setting of axis i, the first holds the settings before it, and both lie in one row of axis i. `below` is
the product of the extents of the axes after i. -/
def lseJoins (p q : Part) : List Nat → Bool
  | [] => false
  | e :: r =>
    let below := r.foldl (· * ·) 1
    (decide (q.1 = p.2.1 + 1 ∧ q.2.1 + 1 = q.1 + below ∧ q.1 % below = 0 ∧ p.1 % (below * e) = 0 ∧
      q.2.1 / (below * e) = p.1 / (below * e))) || lseJoins p q r

/-- Combine the first pair of LSE partials that may be combined. -/
def lseStep (ext : List Nat) (l : List Part) : Option (List Part × FlagSet) :=
  match l.findSome? fun p => (l.find? fun q => lseJoins p q ext).map fun q => (p, q) with
  | some (p, q) =>
    let r := lseCombine p.2.2.2 q.2.2.2
    some ((p.1, q.2.1, p.2.2.1 + q.2.2.1, r.1) :: l.filter (fun x =>
      !(decide (x.1 = p.1 ∧ x.2.1 = p.2.1)) && !(decide (x.1 = q.1 ∧ x.2.1 = q.2.1))), r.2)
  | none => none

/-- Combine LSE partials as far as R381 allows, with the flags raised; each step leaves one partial fewer. -/
def lseFold (ext : List Nat) : Nat → List Part → FlagSet → List Part × FlagSet
  | 0, l, fl => (l, fl)
  | n + 1, l, fl =>
    match lseStep ext l with
    | some (l, x) => lseFold ext n l (fl ||| x)
    | none => (l, fl)

/-- Any two partials of an order-free operator together. -/
def joinParts (f : List Byte → List Byte → List Byte) : List Part → List Part
  | [] => []
  | p :: r => [r.foldl (fun a b => (min a.1 b.1, max a.2.1 b.2.1, a.2.2.1 + b.2.2.1, f a.2.2.2 b.2.2.2)) p]

/-! ### E2M1 compression (R71) -/

/-- The smallest X with mx × 2^(−X) ≤ 6, clamped to −127 to 127, or −127 for zero. -/
def compressScale (mx : FVal) : Int :=
  if mx.isZero then -127
  else
    let e := mx.exponent
    let x := if FVal.lt (.fin false 6 0) (mx.scale (2 - e)) then e - 1 else e - 2
    if x < -127 then -127 else if 127 < x then 127 else x

/-- A block of up to 32 FP32 elements and its residuals: the scale byte and the E2M1 codes that are sent, the new
residuals, and the flags that forming the elements raises (R50, R55). -/
def compressBlock (x res : List Nat) : (Nat × List Nat) × List Nat × FlagSet :=
  let y := (x.zip res).map fun p => fp32.convert 0 true (FVal.add 0 (fp32.decode p.1) (fp32.decode p.2))
  let vs := y.map fun c => fp32.decode c.1
  let fl := y.foldl (fun f c => f ||| c.2) 0
  if vs.any fun v => v.isNan || v.isInf then ((255, y.map fun _ => 0), y.map fun _ => 0, fl)
  else
    let mag : FVal → FVal := fun v => match v with
      | .fin _ m e => .fin false m e
      | v => v
    let mx := vs.foldl (fun a v => a.pickMax (mag v)) (.fin false 0 0)
    let sc := compressScale mx
    let codes := vs.map fun v => (e2m1.convert 0 false (v.scale (-sc))).1
    (((sc + 127).toNat, codes),
     (vs.zip codes).map fun p => toF32 (FVal.add 0 p.1 ((e2m1.decode p.2).scale sc).flip), fl)

/-- The bytes of a block on the wire: the scale byte, then 16 bytes of 4-bit codes, the first lowest (log 17). -/
def packBlock (b : Nat × List Nat) : List Byte :=
  BitVec.ofNat 8 b.1 :: (List.range 16).map fun i => BitVec.ofNat 8 (b.2.getD (2 * i) 0 + 16 * b.2.getD (2 * i + 1) 0)

/-- The elements of a block as its receiver decodes it: E2M1 codes times the scale, exactly in FP32, or the canonical NaN
under the scale 0xFF. A code whose value lies beyond the format, such as 4.0 × 2^126, has no exact FP32 value, and the
manual states none: it is the free value `Config.beyondF32` (DESIGN CHOICE, log 17). -/
def unpackBlock (l : List Byte) : List Nat :=
  let x := (l.headD 0).toNat
  (List.range 32).map fun i =>
    let code := bits ((l.drop 1).getD (i / 2) 0).toNat (4 * (i % 2)) 4
    let c := fp32.convert 0 true ((e2m1.decode code).scale ((x : Int) - 127))
    if x = 255 then fp32.nanCode else if c.2 = 0 then c.1 else (Config.beyondF32 x code).toNat

/-- Blocks of 32 elements one after another: the bytes sent, the new residuals, and the flags. The manual gives blocks of 32 only:
what is left of a contribution after its last whole block is a block of its own, with codes of zero above it (DESIGN
CHOICE, log 17). -/
def compressAll : Nat → List Nat → List Nat → List Byte × List Nat × FlagSet
  | 0, _, _ => ([], [], 0)
  | n + 1, x, r =>
    if x.isEmpty then ([], [], 0)
    else
      let (a, b, f) := compressBlock (x.take 32) (r.take 32)
      let (c, d, g) := compressAll n (x.drop 32) (r.drop 32)
      (packBlock a ++ c, b ++ d, f ||| g)

/-- A contribution of a compressing tile entry as it is sent, its new residuals, and the flags raised. -/
def compressBytes (x res : List Byte) : List Byte × List Byte × FlagSet :=
  let (a, b, f) := compressAll (x.length / 4) (elemsOf 4 x) (elemsOf 4 res)
  (a, b.flatMap (leBytes 4), f)

/-- The elements of a compressed contribution of `n` elements as its receiver decodes them. -/
def expandBytes (n : Nat) (l : List Byte) : List Byte :=
  ((((chunks 17 (l.length / 17) l).flatMap unpackBlock).take n)).flatMap (leBytes 4)

end Sys2Proof.Machine
end

