-- ==== Sys2Proof/Machine/Crypto.lean ====
section
/-! DEFINITION. The published algorithms that 15 names: SHAKE256 and KMAC256 (FIPS 202, SP 800-185), AES-256
(FIPS 197) with XTS (IEEE 1619), GCM (SP 800-38D) and key unwrap (RFC 3394). ML-KEM and SLH-DSA build on it. -/
namespace Sys2Proof.Machine

/-! ### Keccak -/

/-- Rotation of lane (x, y) by x + 5 y (FIPS 202, rho). -/
def keccakRot : List Nat :=
  [0, 1, 62, 28, 27] ++ [36, 44, 6, 55, 20] ++ [3, 10, 43, 25, 39] ++ [41, 45, 15, 21, 8] ++ [18, 2, 61, 56, 14]

/-- Round constants (FIPS 202, iota). -/
def keccakRc : List Word :=
  [0x0000000000000001, 0x0000000000008082, 0x800000000000808A, 0x8000000080008000, 0x000000000000808B, 0x0000000080000001]
  ++ [0x8000000080008081, 0x8000000000008009, 0x000000000000008A, 0x0000000000000088, 0x0000000080008009, 0x000000008000000A]
  ++ [0x000000008000808B, 0x800000000000008B, 0x8000000000008089, 0x8000000000008003, 0x8000000000008002, 0x8000000000000080]
  ++ [0x000000000000800A, 0x800000008000000A, 0x8000000080008081, 0x8000000000008080, 0x0000000080000001, 0x8000000080008008]

/-- One round of Keccak-f[1600] on 25 lanes. -/
def keccakRound (a : List Word) (rc : Word) : List Word :=
  let at_ := fun (l : List Word) (i : Nat) => l.getD i 0
  let c := (List.range 5).map fun x => (List.range 5).foldl (fun z y => z ^^^ at_ a (x + 5 * y)) 0
  let d := (List.range 5).map fun x => at_ c ((x + 4) % 5) ^^^ (at_ c ((x + 1) % 5)).rotateLeft 1
  let b := (List.range 25).map fun i =>
    let j := (i % 5 + 3 * (i / 5)) % 5 + 5 * (i % 5)
    (at_ a j ^^^ at_ d (j % 5)).rotateLeft (keccakRot.getD j 0)
  (List.range 25).map fun i =>
    let y := 5 * (i / 5)
    let z := at_ b i ^^^ (~~~(at_ b (y + (i + 1) % 5)) &&& at_ b (y + (i + 2) % 5))
    if i = 0 then z ^^^ rc else z

/-- Keccak-f[1600]. -/
def keccakF (a : List Word) : List Word := keccakRc.foldl keccakRound a

/-- Bytes of a block of `rate` bytes as lanes, exclusive-ored into a state. -/
def keccakAbsorb (rate : Nat) (a : List Word) (block : List Byte) : List Word :=
  let l := bytesDw (rate / 8) block
  keccakF ((List.range 25).map fun i => a.getD i 0 ^^^ l.getD i 0)

/-- Absorb blocks of `rate` bytes. -/
def keccakBlocks (rate : Nat) (a : List Word) (l : List Byte) : List Word :=
  (chunks rate (l.length / rate) l).foldl (keccakAbsorb rate) a

/-- Squeeze `n` blocks of `rate` bytes. -/
def keccakSqueeze (rate : Nat) (a : List Word) : Nat → List Byte
  | 0 => []
  | n + 1 => (dwBytes a).take rate ++ keccakSqueeze rate (keccakF a) n

/-- The sponge of a rate with a domain suffix and pad10*1: `n` bytes. -/
def sponge (rate : Nat) (suffix : Byte) (l : List Byte) (n : Nat) : List Byte :=
  let pad := rate - l.length % rate
  let tail := if pad = 1 then [suffix ||| 0x80] else suffix :: List.replicate (pad - 2) 0 ++ [0x80]
  (keccakSqueeze rate (keccakBlocks rate (List.replicate 25 0) (l ++ tail)) (n / rate + 1)).take n

/-- SHAKE256, `n` bytes. -/
def shake256 (l : List Byte) (n : Nat) : List Byte := sponge 136 0x1F l n

/-- SHAKE128, `n` bytes. -/
def shake128 (l : List Byte) (n : Nat) : List Byte := sponge 168 0x1F l n

/-- SHA3-256 and SHA3-512 (FIPS 202). -/
def sha3 (bits : Nat) (l : List Byte) : List Byte := sponge (200 - bits / 4) 0x06 l (bits / 8)

/-- SHAKE256 of 512 bits. -/
def shake512 (l : List Byte) : List Byte := shake256 l 64

/-- The bytes of a number, most significant first, at least one (SP 800-185). -/
def beBytes (x : Nat) : List Byte := (leBytes (max 1 ((Nat.log2 x) / 8 + 1)) x).reverse

/-- left_encode (SP 800-185). -/
def leftEncode (x : Nat) : List Byte := BitVec.ofNat 8 (beBytes x).length :: beBytes x

/-- right_encode (SP 800-185). -/
def rightEncode (x : Nat) : List Byte := beBytes x ++ [BitVec.ofNat 8 (beBytes x).length]

/-- encode_string (SP 800-185). -/
def encodeString (l : List Byte) : List Byte := leftEncode (8 * l.length) ++ l

/-- bytepad to 136 (SP 800-185). -/
def bytepad (l : List Byte) : List Byte :=
  let x := leftEncode 136 ++ l
  x ++ List.replicate ((136 - x.length % 136) % 136) 0

/-- The bytes of an ASCII string. -/
def ascii (t : String) : List Byte := t.toList.map fun c => BitVec.ofNat 8 c.toNat

/-- KMAC256 of `n` bytes with a key and a customisation string. -/
def kmac256 (key l : List Byte) (n : Nat) (custom : String) : List Byte :=
  sponge 136 0x04
    (bytepad (encodeString (ascii "KMAC") ++ encodeString (ascii custom)) ++ bytepad (encodeString key) ++ l ++
      rightEncode (8 * n))
    n

/-- Bytes brought to a length. -/
def fixLen (n : Nat) (l : List Byte) : List Byte := (l ++ List.replicate n 0).take n

/-! ### AES-256 -/

/-- Multiplication in GF(2^8) modulo x^8 + x^4 + x^3 + x + 1. -/
def gfMul (a b : Nat) : Nat :=
  ((List.range 8).foldl
    (fun x i =>
      let (acc, a) := x
      (if bit b i then acc ^^^ a else acc, if 128 ≤ a then (2 * a % 256) ^^^ 0x1B else 2 * a))
    (0, a)).1

/-- The inverse in GF(2^8), 0 for 0: the power 254. -/
def gfInv (a : Nat) : Nat := (List.range 253).foldl (fun x _ => gfMul x a) a

/-- SubBytes on one byte. -/
def sbox (a : Nat) : Nat :=
  let b := gfInv a
  let r := fun (n : Nat) => (b <<< n ||| b >>> (8 - n)) % 256
  b ^^^ r 1 ^^^ r 2 ^^^ r 3 ^^^ r 4 ^^^ 0x63

/-- SubBytes as a table. -/
def sboxTable : List Nat := (List.range 256).map sbox

/-- InvSubBytes as a table. -/
def invSboxTable : List Nat := (List.range 256).map fun x => sboxTable.idxOf x

/-- The 60 words of the AES-256 key schedule, each of four bytes. -/
def aesSchedule (key : List Nat) : List (List Nat) :=
  let first := (List.range 8).map fun i => (key.drop (4 * i)).take 4
  (List.range 52).foldl
    (fun w k =>
      let i := k + 8
      let t := w.getD (i - 1) []
      let sub := fun (l : List Nat) => l.map fun x => sboxTable.getD x 0
      let t :=
        if i % 8 = 0 then
          let r := sub (t.drop 1 ++ t.take 1)
          (r.headD 0 ^^^ 2 ^ (i / 8 - 1)) :: r.drop 1
        else if i % 8 = 4 then sub t
        else t
      w ++ [((w.getD (i - 8) []).zip t).map fun x => x.1 ^^^ x.2])
    first

/-- Exclusive or of lists. -/
def xorList (a b : List Nat) : List Nat := (a.zip b).map fun x => x.1 ^^^ x.2

/-- The key of a round. -/
def roundKey (w : List (List Nat)) (r : Nat) : List Nat := ((w.drop (4 * r)).take 4).flatten

/-- MixColumns with a column of coefficients. -/
def mixWith (m : List Nat) (s : List Nat) : List Nat :=
  (List.range 16).map fun i =>
    (List.range 4).foldl (fun z k => z ^^^ gfMul (s.getD (i / 4 * 4 + k) 0) (m.getD ((k + 4 - i % 4) % 4) 0)) 0

/-- Encrypt one block of 16 bytes under a schedule. -/
def aesEncrypt (w : List (List Nat)) (p : List Nat) : List Nat :=
  let shift := fun (s : List Nat) => (List.range 16).map fun i => s.getD ((i + 4 * (i % 4)) % 16) 0
  let sub := fun (s : List Nat) => s.map fun x => sboxTable.getD x 0
  let s := (List.range 13).foldl
    (fun s r => xorList (mixWith [2, 3, 1, 1] (shift (sub s))) (roundKey w (r + 1)))
    (xorList p (roundKey w 0))
  xorList (shift (sub s)) (roundKey w 14)

/-- Decrypt one block of 16 bytes under a schedule. -/
def aesDecrypt (w : List (List Nat)) (c : List Nat) : List Nat :=
  let shift := fun (s : List Nat) => (List.range 16).map fun i => s.getD ((i + 12 * (i % 4)) % 16) 0
  let sub := fun (s : List Nat) => s.map fun x => invSboxTable.getD x 0
  let s := (List.range 13).foldl
    (fun s r => mixWith [14, 11, 13, 9] (xorList (sub (shift s)) (roundKey w (13 - r))))
    (xorList c (roundKey w 14))
  xorList (sub (shift s)) (roundKey w 0)

/-- Bytes as numbers. -/
def natBytes (l : List Byte) : List Nat := l.map BitVec.toNat

/-- Numbers as bytes. -/
def ofNatBytes (l : List Nat) : List Byte := l.map fun x => BitVec.ofNat 8 x

/-- Blocks of XTS from a tweak on. -/
def xtsBlocks (w : List (List Nat)) : Nat → Nat → List Byte → List Byte
  | 0, _, _ => []
  | n + 1, t, p =>
    let tb := natBytes (leBytes 16 t)
    let c := xorList (aesEncrypt w (xorList (natBytes (p.take 16)) tb)) tb
    let t2 := 2 * t
    ofNatBytes c ++ xtsBlocks w n (if 2 ^ 128 ≤ t2 then (t2 % 2 ^ 128) ^^^ 0x87 else t2) (p.drop 16)

/-- AES-256-XTS encryption of whole blocks under two keys and a tweak (IEEE 1619). -/
def xtsEncrypt (k1 k2 : List Byte) (tweak : Nat) (p : List Byte) : List Byte :=
  let t := aesEncrypt (aesSchedule (natBytes k2)) (natBytes (leBytes 16 tweak))
  xtsBlocks (aesSchedule (natBytes k1)) (p.length / 16) (leNat (ofNatBytes t)) p

/-- Multiplication of GHASH (SP 800-38D), on blocks read most significant byte first. -/
def ghashMul (x y : Nat) : Nat :=
  ((List.range 128).foldl
    (fun (a : Nat × Nat) i =>
      (if bit x (127 - i) then a.1 ^^^ a.2 else a.1, if a.2 % 2 = 1 then a.2 / 2 ^^^ (0xE1 * 2 ^ 120) else a.2 / 2))
    (0, y)).1

/-- Blocks of 16 bytes as numbers, most significant byte first; the last is filled with zeros. -/
def gcmBlocks (l : List Byte) : List Nat :=
  (chunks 16 (ceilDiv l.length 16) l).map fun c => leNat (fixLen 16 c).reverse

/-- Exclusive or of bytes. -/
def xorBytes (a b : List Byte) : List Byte := (a.zip b).map fun x => x.1 ^^^ x.2

/-- Block `n` of the key stream of GCM under a schedule and a nonce of 12 bytes. -/
def gcmStream (w : List (List Nat)) (nonce : List Byte) (n : Nat) : List Byte :=
  ofNatBytes (aesEncrypt w (natBytes (fixLen 12 nonce ++ (leBytes 4 n).reverse)))

/-- The tag of additional data and ciphertext in GCM. -/
def gcmTag (w : List (List Nat)) (nonce ad c : List Byte) : List Byte :=
  let hash := leNat (ofNatBytes (aesEncrypt w (List.replicate 16 0))).reverse
  let s := (gcmBlocks ad ++ gcmBlocks c ++ [8 * ad.length * 2 ^ 64 + 8 * c.length]).foldl
    (fun z x => ghashMul (z ^^^ x) hash) 0
  xorBytes (leBytes 16 s).reverse (gcmStream w nonce 1)

/-- AES-256-GCM decryption with a nonce of 12 bytes and additional data; none where the tag does not match. -/
def gcmDecrypt (key nonce ad c tag : List Byte) : Option (List Byte) :=
  let w := aesSchedule (natBytes key)
  if gcmTag w nonce ad c == tag then
    some (xorBytes c ((List.range (ceilDiv c.length 16)).flatMap fun i => gcmStream w nonce (i + 2)))
  else none

/-- AES key unwrap (RFC 3394) of n + 1 blocks of 8 bytes; none where the check value is wrong. -/
def aesKwUnwrap (kek l : List Byte) : Option (List Byte) :=
  let w := aesSchedule (natBytes kek)
  let n := l.length / 8 - 1
  let r0 := (chunks 8 n (l.drop 8))
  let steps := ((List.range (6 * n)).map fun i => 6 * n - i)
  let (a, r) := steps.foldl
    (fun (x : List Byte × List (List Byte)) t =>
      let i := (t - 1) % n
      let a := xorList (natBytes x.1) (natBytes (leBytes 8 t).reverse)
      let b := ofNatBytes (aesDecrypt w (a ++ natBytes (x.2.getD i [])))
      (b.take 8, x.2.set i (b.drop 8)))
    (l.take 8, r0)
  if a = List.replicate 8 0xA6 then some r.flatten else none

end Sys2Proof.Machine
end

