-- ==== Sys2Proof/Machine/FaultQueue.lean ====
section
/-! DEFINITION. Replayable faults of engines, copies and grid operations (R262 to R266): the operations that stop, the
fault records, and the fault queue of a context. A stopped operation is named by a kind (0 matrix engine, 1 copy
ring, 2 grid source, 3 grid target, 4 an MMAG at its issue), an owner (the core of kind 0, the block of kind 1, the
warp of kind 4) and its key (the slot of kind 4). -/
namespace Sys2Proof.Machine

/-- Where a stopped operation stands: kind, owner and key. -/
abbrev Stopped := Nat × Nat × Nat

/-- What a fault record says of a stopped operation (Table 8.5): its context and the fields that name it. -/
structure FaultSubject where
  ctx : Nat
  src : Nat
  warp : Nat := 0
  core : Nat := 0
  progress : Nat := 0
  op : Word := 0
  fault : Option FaultWait
deriving DecidableEq, Repr

/-- An operation of a core's engine. -/
def State.engineOp (s : State) (core uid : Nat) : Option EngineOp := (s.core core).ops.find? fun o => decide (o.uid = uid)

/-- Change an operation of a core's engine. -/
def State.modEngineOp (s : State) (core uid : Nat) (f : EngineOp → EngineOp) : State :=
  let c := s.core core
  s.putCore core { c with ops := c.ops.map fun o => if o.uid = uid then f o else o }

/-- The context that a frame's grid table binds on this module (R267). -/
def State.boundCtx (s : State) (gtid : BitVec 16) (gen : BitVec 32) : Option Nat :=
  match mapFind s.grids gtid.toNat with
  | some t => if t.gen = gen && (mapFind s.ctxs t.ctx).isSome then some t.ctx else none
  | none => none

/-- The handle value that a fault record of a remote access names (Table 8.5): that of this module's own operation, zero
for a tile firing made by a store. A frame of another module carries no handle value: its operation number stands for
it (log 17). -/
def State.remoteHandle (s : State) (f : Frame) : Word :=
  if f.src = s.cfg.mnum then
    match mapFirst (fun _ g => decide (g.head.opnum = f.opnum)) s.fab.gridOps with
    | some (_, g) => g.value
    | none => 0
  else f.opnum.zeroExtend 64

/-- The byte offset of a lane of an LDREQ or ATOM from the frame's address. -/
def frameLaneOffset (f : Frame) (i : Nat) : Nat :=
  let step := if f.ty = 4 then frameAtomStep f else 8
  leNat ((f.payload.drop (step * i)).take 8)

/-- Sectors that a remote access has finished (R262): the whole ones of a run of bytes from the first on, and those of the
lanes done of an LDREQ or ATOM (log 17). -/
def Remote.sectorsDone (r : Remote) : Nat :=
  let f := r.frame
  if f.ty = 2 ∨ f.ty = 4 then
    ((List.range r.done).map fun i => (f.va + BitVec.ofNat 64 (frameLaneOffset f i)).toNat / 32).eraseDups.length
  else (f.va.toNat % 32 + r.done) / 32

/-- What a fault record says of a stopped operation. -/
def State.faultSubject (s : State) (x : Stopped) : Option FaultSubject :=
  match x with
  | (0, core, uid) => (s.engineOp core uid).map fun o =>
    { ctx := o.ctx, src := b2n o.kind.epilogue, warp := warpId o.warp, core, progress := o.progress, op := o.value
      fault := o.fault }
  | (1, block, q) =>
    match mapFind (s.block block).copies q with
    | some c => some
      { ctx := s.ctxOf block, src := 2, warp := bits (c.words.getD 3 0).toNat 24 8, core := (s.block block).core
        progress := c.progress, op := BitVec.ofNat 64 c.seq, fault := c.fault }
    | none => none
  | (2, _, op) => (mapFind s.fab.gridOps op).map fun g =>
    { ctx := g.ctx, src := 5, warp := if g.silent then 0 else warpId g.warp, core := g.core, progress := g.gathered
      op := g.value, fault := g.fault }
  | (4, key, k) =>
    match mapFind s.warps key with
    | some w =>
      match (w.slot k).wait with
      | some (.readFault _ _ fault) => some
        { ctx := s.ctxOf (warpBlock key), src := 0, warp := warpId key, core := (s.block (warpBlock key)).core
          op := handleValue 0 3 w.nextSerial, fault }
      | _ => none
    | none => none
  | (_, _, k) => (mapFind s.fab.remote k).map fun r =>
    let f := r.frame
    { ctx := (s.boundCtx f.gtid f.gen).getD 0, src := if f.tile then 4 else 3
      progress := r.sectorsDone
      op := s.remoteHandle f, fault := r.wait }

/-- Set what an MMAG that waits at its issue waits for (R193). -/
def Slot.setReadFault (x : Slot) (w : Option FaultWait) : Slot :=
  match x.wait with
  | some (.readFault is d _) => { x with wait := some (.readFault is d w) }
  | _ => x

/-- Set what a stopped operation waits for. -/
def State.setFault (s : State) (x : Stopped) (w : Option FaultWait) : State :=
  match x with
  | (0, core, uid) => s.modEngineOp core uid fun o => { o with fault := w }
  | (1, block, q) => s.modBlock block fun b => { b with copies := mapModify b.copies q fun c => { c with fault := w } }
  | (2, _, op) => { s with fab := { s.fab with gridOps := mapModify s.fab.gridOps op fun g => { g with fault := w } } }
  | (4, key, k) => s.modWarp key fun p => p.setSlot k ((p.slot k).setReadFault w)
  | (_, _, k) => { s with fab := { s.fab with remote := mapModify s.fab.remote k fun r => { r with wait := w } } }

/-- The 32 bytes of a fault record (Table 8.5). -/
def faultRecord (seq : BitVec 32) (f : FaultSubject) (i : FaultInfo) : List Byte :=
  dwBytes
    [i.va,
     BitVec.ofNat 64 (seq.toNat + 2 ^ 32 * f.ctx + 2 ^ 44 * f.src + 2 ^ 48 * i.write + 2 ^ 50 * b2n i.perm +
       2 ^ 51 * b2n i.mem + 2 ^ 52 * b2n i.own),
     BitVec.ofNat 64 (f.core + 2 ^ 10 * f.warp + 2 ^ 32 * f.progress), f.op]

/-- A fault queue is full (R264): wr − rd, modulo 2^32, is not below 2^fqlog. -/
def queueFull (wr rd : Nat) (log : Nat) : Bool := decide (2 ^ log ≤ (wr + 2 ^ 32 - rd % 2 ^ 32) % 2 ^ 32)

/-- Append the record of one stopped operation, or leave it waiting while its context's queue is full (R264): the
answer tells whether the record was appended. -/
def State.appendFault (s : State) (x : Stopped) : Bool × State :=
  match s.faultSubject x with
  | none => (true, s)
  | some f =>
    match f.fault, mapFind s.ctxs f.ctx with
    | some (.queue i), some c =>
      let wr := (s.readDw c.fq).toNat % 2 ^ 32
      let rd := (s.readDw (c.fq + 8)).toNat
      if queueFull wr rd c.fqlog then (false, s)
      else
        let seq := s.xlat.faultSeq
        let s := s.physWrite (c.fq + 64 + 32 * (wr % 2 ^ c.fqlog)) (faultRecord seq f i)
        let s := s.physDw c.fq (BitVec.ofNat 64 ((wr + 1) % 2 ^ 32))
        let s := s.setFault x (some (.verdict seq i))
        (true, ({ s with
          xlat := { s.xlat with faultSeq := if seq + 1 = 0 then 1 else seq + 1 } }.setStatus 4).msi 0)
    | _, _ => (true, s)

/-- Append the records of a context's waiting operations in the order of their faults, until one finds the queue
full. -/
def State.appendAll (s : State) (ctx : Nat) : List Stopped → List Stopped × State
  | [] => ([], s)
  | x :: r =>
    match s.faultSubject x with
    | none => s.appendAll ctx r
    | some f =>
      if f.ctx = ctx then
        match s.appendFault x with
        | (true, s) => s.appendAll ctx r
        | (false, s) => (x :: r, s)
      else
        let (l, s) := s.appendAll ctx r
        (x :: l, s)

/-- Re-read rd and append what fits (R264). -/
def State.retryFaults (s : State) (ctx : Nat) : State :=
  let (l, s) := s.appendAll ctx s.xlat.waiting
  { s with xlat := { s.xlat with waiting := l } }

/-- An operation stops at a page fault or an uncorrectable error (R262): its record is appended, behind those that
wait. -/
def State.stopAt (s : State) (x : Stopped) (i : FaultInfo) : State :=
  let s := s.setFault x (some (.queue i))
  let s := { s with xlat := { s.xlat with waiting := s.xlat.waiting ++ [x] } }
  match s.faultSubject x with
  | some f => s.retryFaults f.ctx
  | none => s

/-- The event of a re-read of rd while operations of a context wait for queue space (R264). -/
def execFaultQueueRetry (ctx : Nat) (s : State) : Host.Outcome State Fault Refusal := .next (s.retryFaults ctx)

/-- A context whose engine operations are stopped: at level 2, or saved (R332). -/
def State.engineStopped (s : State) (ctx : Nat) : Bool :=
  match mapFind s.ctxs ctx with
  | some c =>
    c.saved || (match c.preempt with
      | some p => decide (2 ≤ p.level)
      | none => false)
  | none => true

end Sys2Proof.Machine
end

