-- ==== Sys2Proof/Machine/Header.lean ====
section
/-! DEFINITION. The header of a Baranmor frame (Table 16.4) as ten doublewords, and the bytes of a frame on a link
(R375). -/
namespace Sys2Proof.Machine

/-- The doublewords DW0 to DW9 of a frame's header. -/
def frameDws (f : Frame) : List Word :=
  [f.domain ++ f.src ++ f.whi ++ f.wlo ++ BitVec.ofBool f.rsvd ++ BitVec.ofBool f.all ++ BitVec.ofBool f.ece ++
     BitVec.ofBool f.ce ++ BitVec.ofBool f.comb ++ BitVec.ofBool f.tile ++ BitVec.ofBool f.retx ++ f.ty,
   f.gen ++ f.gtid ++ f.mbase ++ f.axes ++ 0#2,
   0#9 ++ f.sizes,
   f.pattern.extractLsb' 0 64,
   f.pattern.extractLsb' 64 64,
   f.va,
   f.opnum ++ f.seq,
   f.total ++ f.tag ++ f.plen,
   f.first ++ f.last ++ f.count ++ f.op ++ f.etype ++ 0#24,
   f.aux]

/-- The frame that a header's doublewords describe, before its payload. -/
def headerFrame (l : List Word) : Frame :=
  let dw := fun (i : Nat) => l.getD i 0
  { ty := (dw 0).extractLsb' 0 8
    retx := (dw 0).getLsbD 8
    tile := (dw 0).getLsbD 9
    comb := (dw 0).getLsbD 10
    ce := (dw 0).getLsbD 11
    ece := (dw 0).getLsbD 12
    all := (dw 0).getLsbD 13
    rsvd := (dw 0).getLsbD 14 || decide ((dw 1).extractLsb' 0 2 ≠ 0) || decide ((dw 2).extractLsb' 55 9 ≠ 0) ||
      decide ((dw 8).extractLsb' 0 24 ≠ 0)
    wlo := (dw 0).extractLsb' 15 11
    whi := (dw 0).extractLsb' 26 11
    src := (dw 0).extractLsb' 37 11
    domain := (dw 0).extractLsb' 48 16
    axes := (dw 1).extractLsb' 2 3
    mbase := (dw 1).extractLsb' 5 11
    gtid := (dw 1).extractLsb' 16 16
    gen := (dw 1).extractLsb' 32 32
    sizes := (dw 2).extractLsb' 0 55
    pattern := dw 4 ++ dw 3
    va := dw 5
    seq := (dw 6).extractLsb' 0 32
    opnum := (dw 6).extractLsb' 32 32
    plen := (dw 7).extractLsb' 0 16
    tag := (dw 7).extractLsb' 16 16
    total := (dw 7).extractLsb' 32 32
    etype := (dw 8).extractLsb' 24 3
    op := (dw 8).extractLsb' 27 4
    count := (dw 8).extractLsb' 31 11
    last := (dw 8).extractLsb' 42 11
    first := (dw 8).extractLsb' 53 11
    aux := dw 9 }

/-- The bytes of a frame after its Ethernet addresses (R375): the EtherType in network order, the header and the
payload. -/
def frameBytes (etype : BitVec 16) (f : Frame) : List Byte :=
  (leBytes 2 etype.toNat).reverse ++ dwBytes (frameDws f) ++ f.payload

/-- The frame in the bytes after the Ethernet addresses; none for another EtherType or a header cut short. -/
def readFrame (etype : BitVec 16) (l : List Byte) : Option Frame :=
  if l.take 2 = (leBytes 2 etype.toNat).reverse ∧ 82 ≤ l.length then
    let f := headerFrame (bytesDw 10 (l.drop 2))
    some { f with payload := (l.drop 82).take f.plen.toNat }
  else none

end Sys2Proof.Machine
end

