-- ==== Sys2Proof/Machine/Job.lean ====
section
/-! DEFINITION. The job of a warp (R29, R30, R372) and grid patterns (R236, R237). -/
namespace Sys2Proof.Machine

/-- The grid of a launch as an issuer sees it. -/
structure Job where
  gtid : BitVec 16 := 0
  gen : BitVec 32 := 0
  axes : Nat := 0
  sizes : BitVec 55 := 0
  count : Nat := 0
  /-- Module number of rank 0. -/
  mbase : Nat := 0
  /-- This module's rank. -/
  rank : Nat := 0
deriving DecidableEq, Repr

/-- Size of an axis; an axis at or beyond the count has size 1 (R29). -/
def axisSize (axes : Nat) (sizes : BitVec 55) (a : Nat) : Nat := if a < axes then fld sizes (11 * a) 11 else 1

/-- The coordinates of a rank, axis 0 first and most significant (R29). -/
def coordOf (axes : Nat) (sizes : BitVec 55) (rank : Nat) : List Nat :=
  (List.range 5).map fun a =>
    let below := ((List.range 5).map fun b => if a < b then axisSize axes sizes b else 1).foldl (· * ·) 1
    rank / below % axisSize axes sizes a

/-- The rank of coordinates (R29). -/
def rankOf (axes : Nat) (sizes : BitVec 55) (c : List Nat) : Nat :=
  (List.range 5).foldl (fun r a => r * axisSize axes sizes a + c.getD a 0) 0

/-- The grid of an installed table (R372). -/
def State.tableJob (s : State) (gtid : Nat) : Job :=
  match mapFind s.grids gtid with
  | none => {}
  | some t =>
    let mbase := ((t.ports.head?).getD 0).toNat % 2048
    { gtid := BitVec.ofNat 16 gtid, gen := t.gen, axes := t.axes, sizes := t.sizes, count := t.count, mbase
      rank := s.cfg.mnum.toNat - mbase }

/-- A field of the launch record of a block (Table 1.4); zero where the block's launch has gone. -/
def State.recordField (s : State) (bk dw lo len : Nat) : Nat :=
  match mapFind s.launches (s.block bk).launch with
  | some l => l.field dw lo len
  | none => 0

/-- The job of a block. -/
def State.jobOf (s : State) (bk : Nat) : Job := s.tableJob (s.recordField bk 12 0 16)

/-- The coordinates of this module in a job. -/
def Job.coord (j : Job) : List Nat := coordOf j.axes j.sizes j.rank

/-! ### Patterns -/

/-- Mode of an axis: 0 exact, 1 any, 2 range, 3 self (Table 7.12). -/
def patMode (n : BitVec 128) (a : Nat) : Nat := fld n (24 * a + 22) 2

/-- Upper bound of an axis. -/
def patHi (n : BitVec 128) (a : Nat) : Nat := fld n (24 * a + 11) 11

/-- Exact value or lower bound of an axis. -/
def patLo (n : BitVec 128) (a : Nat) : Nat := fld n (24 * a) 11

/-- A pattern is valid (R237). -/
def patValid (n : BitVec 128) : Bool :=
  decide (fld n 120 8 = 0) &&
  (List.range 5).all fun a =>
    match patMode n a with
    | 0 => decide (patHi n a = 0)
    | 1 => decide (patLo n a = 0 ∧ patHi n a = 0)
    | 2 => decide (patLo n a ≤ patHi n a)
    | _ => decide (patLo n a = 0 ∧ patHi n a = 0)

/-- The matched coordinates of an axis: first and count (R237). -/
def patAxis (j : Job) (n : BitVec 128) (o : List Nat) (a : Nat) : Nat × Nat :=
  let z := axisSize j.axes j.sizes a
  match patMode n a with
  | 0 => (patLo n a, if patLo n a < z then 1 else 0)
  | 1 => (0, z)
  | 2 => (patLo n a, min (patHi n a) (z - 1) + 1 - patLo n a)
  | _ => (o.getD a 0, 1)

/-- The derived count (R237). -/
def patCount (j : Job) (n : BitVec 128) : Nat :=
  ((List.range 5).map fun a => (patAxis j n j.coord a).2).foldl (· * ·) 1

/-- A coordinate is matched. -/
def patHas (j : Job) (n : BitVec 128) (o c : List Nat) : Bool :=
  (List.range 5).all fun a =>
    let (lo, k) := patAxis j n o a
    decide (lo ≤ c.getD a 0 ∧ c.getD a 0 < lo + k)

/-- The matched coordinates in coordinate-prefix order (R237): for each axis from the last, prefixed to the rest. -/
def patCoords (j : Job) (n : BitVec 128) (o : List Nat) : List (List Nat) :=
  ((List.range 5).reverse).foldl
    (fun acc a =>
      let (lo, k) := patAxis j n o a
      (List.range k).flatMap fun i => acc.map fun c => (lo + i) :: c)
    [[]]

/-- The module numbers that a pattern matches, in coordinate-prefix order. -/
def patModules (j : Job) (n : BitVec 128) : List Nat :=
  (patCoords j n j.coord).map fun c => j.mbase + rankOf j.axes j.sizes c

/-- The position of this module among the matched ones (R239). -/
def patIndex (j : Job) (n : BitVec 128) : Option Nat :=
  let l := patCoords j n j.coord
  let i := l.idxOf j.coord
  if i < l.length then some i else none

/-- A pattern with each self axis turned into exact (R377). -/
def patResolve (j : Job) (n : BitVec 128) : BitVec 128 :=
  (List.range 5).foldl
    (fun n a =>
      if patMode n a = 3 then
        let clear := n &&& ~~~(BitVec.ofNat 128 ((2 ^ 24 - 1) * 2 ^ (24 * a)))
        clear ||| BitVec.ofNat 128 ((j.coord.getD a 0) * 2 ^ (24 * a))
      else n)
    n

end Sys2Proof.Machine
end

