-- ==== Sys2Proof/Machine/Wire.lean ====
section
/-! DEFINITION. Baranmor frames and their transport (R375 to R380): addressing, the checks of an arriving frame,
sequence numbers, acknowledgement, duplicates and refusal. Ultra Ethernet carries the same frames (log 18). -/
namespace Sys2Proof.Machine

/-! ### Addressing -/

/-- The grid that a frame names. -/
def frameJob (f : Frame) : Job :=
  { gtid := f.gtid, gen := f.gen, axes := f.axes.toNat, sizes := f.sizes, mbase := f.mbase.toNat }

/-- The endpoints that a frame's window and pattern match (R377); a window of one number is that endpoint. -/
def frameTargets (f : Frame) : List Nat :=
  if f.wlo = f.whi then [f.wlo.toNat]
  else (patModules (frameJob f) f.pattern).filter fun m => decide (f.wlo.toNat ≤ m ∧ m ≤ f.whi.toNat)

/-- A pattern with one exact coordinate. -/
def exactPattern (c : List Nat) : BitVec 128 :=
  BitVec.ofNat 128 (((List.range 5).map fun a => c.getD a 0 % 2 ^ 11 * 2 ^ (24 * a)).foldl (· + ·) 0)

/-- The pattern of the endpoint with a module number in a frame's grid. -/
def endpointPattern (f : Frame) (m : Nat) : BitVec 128 :=
  exactPattern (coordOf f.axes.toNat f.sizes (m - f.mbase.toNat))

/-- A frame sent to one endpoint. -/
def frameTo (f : Frame) (m : Nat) : Frame :=
  { f with wlo := BitVec.ofNat 11 m, whi := BitVec.ofNat 11 m, pattern := endpointPattern f m }

/-- A frame sent to every module that its pattern matches. -/
def frameToAll (f : Frame) : Frame :=
  let l := patModules (frameJob f) f.pattern
  { f with wlo := BitVec.ofNat 11 (l.foldl min 2047), whi := BitVec.ofNat 11 (l.foldl max 0) }

/-- The answer of a type to the sender of a frame: it keeps the grid and the operation number. -/
def State.answer (s : State) (f : Frame) (ty : BitVec 8) : Frame :=
  frameTo
    { ty, domain := f.domain, src := s.cfg.mnum, gen := f.gen, gtid := f.gtid, mbase := f.mbase, axes := f.axes
      sizes := f.sizes, opnum := f.opnum, total := f.total, tile := f.tile, aux := f.aux, va := f.va, op := f.op
      etype := f.etype, all := f.all, via := f.via }
    f.src.toNat

/-! ### Sending -/

/-- The ports in service. -/
def State.upPorts (s : State) : List Nat := (s.fab.ports.filter fun p => p.2.up).map Prod.fst

/-- The port of a path: ports that are down are left out of the turn (R383). -/
def State.pathPort (s : State) (path : Nat) : Nat := s.upPorts.getD (path % max 1 s.upPorts.length) 0

/-- The TSS key of a packet (R374): that of its job for a protected context, derived from the key slot of the context's
husk, else the blob's, which the checkpoint's traffic with the safe tier uses too: it belongs to no job. -/
def State.tssKey (s : State) (f : Frame) : List Byte :=
  let husk := match s.boundCtx f.gtid f.gen with
    | some n => ((mapFind s.ctxs n).filter fun c => c.prot && decide (f.wlo < 1536 ∧ f.src < 1536)).map fun c => c.husk
    | none => none
  match husk with
  | some h =>
    kmac256 ((fixLen 96 (s.huskKey h)).drop 64) (leBytes 2 f.gtid.toNat ++ leBytes 4 f.gen.toNat) 32 "VRS5 TSS"
  | none => s.cfg.tsskey

/-- A frame as it leaves on a port of a path (R374, R375, R383): its transport is the blob's EtherType, or the fabric
address of its target and its TSS key. -/
def State.seal (s : State) (p : Port) (f : Frame) (path : Nat) : Sent :=
  { frame := f, entropy := path, lseq := p.lseq, pn := p.pn
    etype := if f.via.isNone then s.cfg.etype else 0
    addr := if f.via.isNone then 0 else s.cfg.ueaddr + f.wlo.zeroExtend 64
    key := if f.via.isNone then [] else s.tssKey f }

/-- Put a frame on a port's link (R385, R386): it takes the next link sequence and packet numbers, and stays in the
replay buffer. -/
def State.emit (s : State) (port : Nat) (f : Frame) (path : Nat) : State :=
  let p := mapGet {} s.fab.ports port
  let x := s.seal p f path
  { s with fab := { s.fab with
      wire := s.fab.wire ++ [x]
      ports := mapPut s.fab.ports port { p with pn := p.pn + 1, lseq := p.lseq + 1, replay := p.replay ++ [(x, 0)] } } }

/-- Originate a frame (R379): it takes the next sequence number, is kept until it is acknowledged, and goes to this
module itself where it is a target, and out of a port for the others. -/
def State.originate (s : State) (x : Frame × Nat × Nat) : State :=
  let (f, op, path) := x
  let port := s.pathPort path
  let f := { f with
    seq := s.fab.txSeq, port := BitVec.ofNat 4 port, plen := BitVec.ofNat 16 f.payload.length, link := none }
  let goals := (frameTargets f).map (BitVec.ofNat 11)
  let out := goals.any (fun m => decide (m ≠ s.cfg.mnum)) && !s.upPorts.isEmpty
  if goals.isEmpty then s
  else
    let s := if out then s.emit port f path else s
    { s with fab := { s.fab with
        txSeq := s.fab.txSeq + 1
        tx := mapPut s.fab.tx f.seq.toNat { frame := f, wait := goals, sent := s.clk, op, path }
        gridOps := mapModify s.fab.gridOps op fun g => { g with places := g.places ++ framePlaces f }
        loop := if goals.contains s.cfg.mnum then s.fab.loop ++ [f] else s.fab.loop } }

/-- The congestion window of a target (R384). -/
def State.flow (s : State) (m : Nat) : Flow := mapGet {} s.fab.flows m

/-- Frames that a target has not acknowledged. -/
def State.unacked (s : State) (m : Nat) : Nat :=
  (s.fab.tx.filter fun t => t.2.wait.contains (BitVec.ofNat 11 m)).length

/-- A frame may be originated now: sequence s + 4,096 waits for frame s (R379), and each target's window has room
(R384). -/
def State.mayOriginate (s : State) (f : Frame) : Bool :=
  (mapFind s.fab.tx (s.fab.txSeq - 4096).toNat).isNone &&
  (frameTargets f).all fun m => decide (s.unacked m < (s.flow m).window)

/-- The first element that passes a test, and the others in order. -/
def takeFirst {α : Type} (p : α → Bool) : List α → Option (α × List α)
  | [] => none
  | x :: r => if p x then some (x, r) else (takeFirst p r).map fun y => (y.1, x :: y.2)

/-- Originate waiting frames, oldest first, as far as the limits allow. -/
def State.pumpN (s : State) : Nat → State
  | 0 => s
  | n + 1 =>
    match takeFirst (fun x : Frame × Nat × Nat => s.mayOriginate x.1) s.fab.queue with
    | none => s
    | some (x, r) => ({ s with fab := { s.fab with queue := r } }.originate x).pumpN n

/-- Originate waiting frames. -/
def State.pump (s : State) : State := s.pumpN s.fab.queue.length

/-- Send a frame of an operation over a path. -/
def State.sendFrame (s : State) (f : Frame) (op path : Nat) : State :=
  { s with fab := { s.fab with queue := s.fab.queue ++ [(f, op, path)] } }.pump

/-- The other end of a port has accepted its link frames below a number: they leave the replay buffer (R385). -/
def Port.accepted (p : Port) (n : Nat) : Port := { p with replay := p.replay.filter fun x => decide (n ≤ x.1.lseq) }

/-- A frame that its target acknowledges has left every link that it was sent on, and so have those before it. -/
def Port.delivered (p : Port) (seq : BitVec 32) : Port :=
  match p.replay.find? fun x => decide (x.1.frame.seq = seq) && decide (x.1.frame.ty ≠ 0x0A) with
  | some x => p.accepted (x.1.lseq + 1)
  | none => p

/-- An endpoint has acknowledged a frame (R379). -/
def State.acked (s : State) (seq : BitVec 32) (who : BitVec 11) : State :=
  match mapFind s.fab.tx seq.toNat with
  | none => s
  | some t =>
    let wait := t.wait.filter fun m => decide (m ≠ who)
    let tx := if wait.isEmpty then mapErase s.fab.tx seq.toNat else mapPut s.fab.tx seq.toNat { t with wait }
    let ports := if who = s.cfg.mnum then s.fab.ports else mapAll s.fab.ports fun _ p => p.delivered seq
    { s with fab := { s.fab with tx, ports } }.pump

/-- The window of a target after one of its TACKs (R384): a mark narrows it, not below one frame, and a round trip
without marks widens it; by how much is the part's (log 7). -/
def State.adapt (s : State) (f : Frame) : State :=
  let w := s.flow f.src.toNat
  let (x, s) := s.freeWord
  let ended := decide ((f.seq - w.round).toNat < 2 ^ 31)
  let marked := w.marked || f.ece
  let window :=
    if f.ece then 1 + x.toNat % (max 1 (w.window - 1))
    else if ended && !marked then w.window + 1 + x.toNat % 4096
    else w.window
  let w := if ended then { window, round := s.fab.txSeq, marked := false : Flow } else { w with window, marked }
  { s with fab := { s.fab with flows := mapPut s.fab.flows f.src.toNat w } }

/-- Acknowledge a received frame (R379), echoing its congestion mark (R384). TACK frames carry no number of their
own. -/
def State.sendTack (s : State) (f : Frame) : State :=
  if f.src = s.cfg.mnum then s.acked f.seq f.src
  else
    s.emit f.port.toNat { s.answer f 0x0A with seq := f.seq, plen := 1, ece := f.ce, port := f.port } f.src.toNat

/-- The record of a refused frame (R378, Table 16.7). -/
def State.refusedRecord (s : State) (f : Frame) : State :=
  s.errorRecord 0x08 0x05 0xFFF none (BitVec.ofNat 64 (f.gtid.toNat + 2 ^ 32 * f.gen.toNat)) (f.src.zeroExtend 64)

/-- Refuse or fail an operation at its issuer (R378, R380): a NACK with a cause. -/
def State.nack (s : State) (f : Frame) (cause : Nat) (va : Word) : State :=
  let s := if cause = 0x13 then s.refusedRecord f else s
  s.sendFrame { s.answer f 0x0C with tag := BitVec.ofNat 16 cause, va } 0 f.src.toNat

/-- Refuse a frame that answers an operation of this module, or names none of its sender: the operation number in it is
not the sender's, so that the NACK carries none (log 18). -/
def State.nackAnswer (s : State) (f : Frame) : State := s.nack { f with opnum := 0 } 0x13 f.va

/-! ### Receiving -/

/-- A frame is malformed (R376), its type apart. -/
def frameMalformed (f : Frame) : Bool :=
  f.rsvd || decide (4096 < f.plen.toNat) || !(patValid f.pattern) ||
  (List.range 5).any fun a => decide (patMode f.pattern a = 3)

/-- Drop a malformed frame (R376), with a record at most once per port in each 2^20 clk. -/
def State.dropMalformed (s : State) (f : Frame) : State :=
  let p := mapGet {} s.fab.ports f.port.toNat
  let quiet := match p.malformed with
    | some t => decide (s.clk < t + 2 ^ 20)
    | none => false
  if quiet then s
  else
    let s := s.errorRecord 0x08 0x03 0xFFF none (BitVec.ofNat 64 (f.port.toNat + 2 ^ 8 * f.ty.toNat))
      (f.src.zeroExtend 64)
    { s with fab := { s.fab with ports := mapPut s.fab.ports f.port.toNat { p with malformed := some s.clk } } }

/-- This module has a rank in the grid that a frame names. -/
def State.inGrid (s : State) (f : Frame) : Bool :=
  let j := frameJob f
  let ranks := ((List.range 5).map fun a => axisSize j.axes j.sizes a).foldl (· * ·) 1
  decide (j.mbase ≤ s.cfg.mnum.toNat ∧ s.cfg.mnum.toNat < j.mbase + ranks)

/-- Types whose frames may answer an endpoint without a rank in the grid: an originator of a launch that is no member of
its job (R31), or this package in its exchange with the safe tier (R392); the test of the pattern then has no rank to
match (log 21). -/
def answersOne (f : Frame) : Bool := decide (f.wlo = f.whi) && [0x0A, 0x0B, 0x0C, 0x0E].contains f.ty.toNat

/-- An endpoint accepts a frame (R378). -/
def State.admits (s : State) (f : Frame) : Bool :=
  let j := frameJob f
  decide (f.domain = s.cfg.domain) && decide (f.wlo ≤ s.cfg.mnum ∧ s.cfg.mnum ≤ f.whi) &&
  (if s.inGrid f then patHas j f.pattern [] (coordOf j.axes j.sizes (s.cfg.mnum.toNat - j.mbase)) else answersOne f)

/-- A sequence number is a duplicate for a receive window (R379). -/
def RxWindow.dup (w : RxWindow) (q : BitVec 32) : Bool :=
  let below := (w.high - q).toNat
  decide (below < 2 ^ 31) && (decide (below = 0 ∨ 4095 < below) || w.seen.contains q)

/-- Accept a sequence number. -/
def RxWindow.add (w : RxWindow) (q : BitVec 32) : RxWindow :=
  let high := if (w.high - q).toNat < 2 ^ 31 then w.high else q
  let all := if high = q then w.high :: w.seen else q :: w.seen
  { high, seen := all.filter fun x => decide ((high - x).toNat ≤ 4095) }

/-- Receive a frame (R376, R378, R379): a malformed one and one for another endpoint are dropped, a duplicate is
acknowledged again, and a new one is acknowledged and acted on. -/
def State.receive (s : State) (f : Frame) (act : State → State) : State :=
  if s.health.tripped then s
  else if frameMalformed f then s.dropMalformed f
  else if !(s.admits f) then s
  else if f.ty = 0x0A then act s
  else
    let k := f.src.toNat
    let put := fun (w : RxWindow) => { s with fab := { s.fab with rx := mapPut s.fab.rx k w } }
    match mapFind s.fab.rx k with
    | none => act ((put { high := f.seq }).sendTack f)
    | some w => if w.dup f.seq then s.sendTack f else act ((put (w.add f.seq)).sendTack f)

/-- A port carries traffic. -/
def State.portUp (s : State) (p : Nat) : Bool := (mapGet {} s.fab.ports p).up

/-- Change a port. -/
def State.modPort (s : State) (p : Nat) (f : Port → Port) : State :=
  { s with fab := { s.fab with ports := mapPut s.fab.ports p (f (mapGet {} s.fab.ports p)) } }

/-- What a port makes of an arriving link frame. -/
inductive LinkStep where
  /-- It is the next, and its packet number is above the last accepted. -/
  | take
  /-- The link accepts it, and its packet number is not above the last accepted (R386). -/
  | stale
  /-- The link has accepted it before, or waits for one before it (R385). -/
  | skip
deriving DecidableEq, Repr

/-- The link step of a frame on a port. -/
def Port.step (p : Port) (l : Option LinkInfo) : LinkStep :=
  match l with
  | none => .take
  | some l => if l.seq ≠ p.rxSeq then .skip else if p.rxPn < l.pn then .take else .stale

/-- The link accepts a frame (R385, R386). -/
def Port.take (p : Port) (l : Option LinkInfo) : Port :=
  { p with rxSeq := p.rxSeq + 1, rxPn := max (p.rxPn + b2n l.isNone) ((l.map fun l => l.pn).getD 0) }

/-- A port in service leaves it (R387): its record, and a re-key where the cause is a second authentication failure. What
its replay buffer holds is left to the transport. -/
def State.takeDown (s : State) (p cause : Nat) : State :=
  if !(s.portUp p) then s
  else
    (s.modPort p fun x => { x with up := false, rekey := decide (cause = 1), replay := [] }).errorRecord 0x08 0x01 0xFFF none
      (BitVec.ofNat 64 p) (BitVec.ofNat 64 cause)

/-- A frame has failed the checks of its link's encryption (R386): it is counted; the second under one key takes the link
down. -/
def State.authFail (s : State) (p : Nat) : State :=
  let s := s.modPort p fun x => { x with authFails := x.authFails + 1 }
  if 2 ≤ (mapGet {} s.fab.ports p).authFails then s.takeDown p 1 else s

/-- A frame that arrives on a port in service, in the order of its link (R385, R386). -/
def State.arriveOn (s : State) (f : Frame) (act : Frame → State → State) : State :=
  let p := f.port.toNat
  if s.health.tripped ∨ !(s.portUp p) then s
  else
    let s := match f.link with
      | some l => s.modPort p fun x => x.accepted l.acks
      | none => s
    let g := { f with payload := f.payload.take f.plen.toNat, link := none }
    match (mapGet ({} : Port) s.fab.ports p).step f.link with
    | .skip => s
    | .stale => (s.modPort p fun x => { x with rxSeq := x.rxSeq + 1 }).authFail p
    | .take => act g (s.modPort p fun x => x.take f.link)

/-- A frame that arrives on a port in service, and is received. -/
def State.arrive (s : State) (f : Frame) (act : Frame → State → State) : State :=
  s.arriveOn f fun f s => s.receive f (act f)

end Sys2Proof.Machine
end

