-- ==== Sys2Proof/Machine/Target.lean ====
section
/-! DEFINITION. Grid operations as their frames act: completion and failure at the issuer (R242, R380), remote accesses
at a target (R267, R378), tile deliveries (R249), and the combining of reductions at their root (R245, R381). -/
namespace Sys2Proof.Machine

/-! ### The issuer's side -/

/-- Change a grid operation. -/
def State.modGrid (s : State) (k : Nat) (f : GridOp → GridOp) : State :=
  { s with fab := { s.fab with gridOps := mapModify s.fab.gridOps k f } }

/-- Address of an entry of a tile table (R247). -/
def tileEntry (t : Cap) (i : Nat) : Word := t.base + BitVec.ofNat 64 (64 + 64 * i)

/-- Write the flag of the entry that a firing belongs to (R248). -/
def State.tileFlag (s : State) (g : GridOp) (v : Nat) : Except FaultInfo Unit × State :=
  match g.tile with
  | none => (.ok (), s)
  | some (_, i, t) => s.engineWrite g.core g.ctx (tileEntry t i + 48) (leBytes 4 v)

/-- A grid operation leaves: its flags are raised (R55), its handle has a state and a cause, and its block may end. -/
def State.leaveGrid (s : State) (k : Nat) (g : GridOp) (state cause : Nat) : State :=
  let s := s.modStat k fun x => { x with state, cause }
  let s := if g.flags = 0 then s else s.modWarp g.warp fun w => w.raiseFlags g.flags
  { s with fab := { s.fab with gridOps := mapErase s.fab.gridOps k } }.endBlock g.block

/-- A grid operation ends. A tile firing leaves once the flag of its entry is written; a page fault of that write is
replayable (R248, R262). -/
def State.endGrid (s : State) (k : Nat) (g : GridOp) (state cause : Nat) : State :=
  match s.tileFlag g (if state = 5 then 4 else 3) with
  | (.ok _, s) => s.leaveGrid k g state cause
  | (.error e, s) => (s.modGrid k fun g => { g with ending := some (state, cause) }).stopAt (2, 0, k) e

/-- A grid operation fails (R242); a GLD keeps its cause for its lane's fault (R243). -/
def State.failGrid (s : State) (k cause : Nat) (va : Word) : State :=
  match mapFind s.fab.gridOps k with
  | none => s
  | some g =>
    if g.fn = 1 then s.modGrid k fun g => { g with failed := some (cause, va) }
    else if g.ending.isSome then s.leaveGrid k g 5 cause
    else s.endGrid k g 5 cause

/-- Every target has reported, the source has been read, and old values have come (R242). -/
def GridOp.complete (g : GridOp) : Bool :=
  decide (g.fn ≠ 1 ∧ g.gathered = g.expected) && g.sent && (g.ret.isNone || g.reply.isSome) && g.ending.isNone

/-- The event of a grid operation whose gathered count has reached the expected one (R242). -/
def execGridOperationComplete (op : Nat) (s : State) : Host.Outcome State Fault Refusal :=
  .next (match mapFind s.fab.gridOps op with
    | some g => if g.complete then s.endGrid op g 2 0 else s
    | none => s)

/-- Post the completion of an operation that has completed. -/
def State.checkGrid (s : State) (k : Nat) : State :=
  match mapFind s.fab.gridOps k with
  | some g => if g.complete then s.post (.gridOperationComplete k) else s
  | none => s

/-- Completions reported for an operation (R380). -/
def State.gather (s : State) (k n : Nat) : State :=
  ((s.modGrid k fun g => { g with gathered := g.gathered + n }).modStat k fun x => { x with progress := x.progress + n }).checkGrid k

/-- The operation of this module with an operation number. -/
def State.gridByNumber (s : State) (n : BitVec 32) : Option (Nat × GridOp) :=
  mapFirst (fun _ g => decide (g.head.opnum = n)) s.fab.gridOps

/-- Bytes of a destination that one frame of a reduction covers (log 17). -/
def redChunk (h : Frame) : Nat :=
  if h.op = 3 then (if h.etype = 5 then 1360 else 1024) else 4096

/-- Two headers name one reduction, their addresses apart (R381). -/
def sameGroup (a b : Frame) : Bool :=
  decide (a.gtid = b.gtid ∧ a.gen = b.gen ∧ a.pattern = b.pattern ∧ a.tag = b.tag)

/-- A frame carries a part of the reduction with a header: equal identity but for the address, which is that of one of
the pieces into which the destination is cut, and equal length (log 17). -/
def pieceOf (h f : Frame) : Bool :=
  sameGroup h f && decide (h.total = f.total) &&
  (let o := (f.va - h.va).toNat
   decide (o = 0 ∨ (o < h.total.toNat ∧ o % redChunk h = 0)))

/-- The GRED of this module that a part of a reduction belongs to. -/
def State.member (s : State) (f : Frame) : Option (Nat × GridOp) :=
  mapFirst (fun _ g => decide (g.fn = 3) && pieceOf g.head f) s.fab.gridOps

/-- The GRED of this module with the identity of a DONE of a reduction (R380). -/
def State.memberDone (s : State) (f : Frame) : Option (Nat × GridOp) :=
  mapFirst (fun _ g => decide (g.fn = 3) && sameGroup g.head f && decide (g.head.va = f.va)) s.fab.gridOps

/-- A NACK's header has the identity of a reduction: its cause stands in the low byte of the tag field (Table 16.4), so
that only the high byte of the tag tells reductions apart (log 17). -/
def nackNames (h f : Frame) : Bool :=
  decide (h.gtid = f.gtid ∧ h.gen = f.gen ∧ h.pattern = f.pattern ∧ h.va = f.va ∧
    h.tag.extractLsb' 8 8 = f.tag.extractLsb' 8 8)

/-- A GRED fails with a cause: a time limit fails the members that have contributed (R245). -/
def GridOp.failsWith (g : GridOp) (cause : Nat) : Bool := decide (cause ≠ 0x12) || g.sent

/-- The GREDs of this module that a NACK of a reduction fails. -/
def State.membersNack (s : State) (f : Frame) : List (Nat × GridOp) :=
  s.fab.gridOps.filter fun e => decide (e.2.fn = 3) && nackNames e.2.head f && e.2.failsWith (f.tag.toNat % 256)

/-- Drop what a root holds of the reduction with a header. -/
def State.dropReds (s : State) (h : Frame) : State :=
  { s with fab := { s.fab with reds := s.fab.reds.filter fun r => !(pieceOf h r.2.head) } }

/-! ### Failing and reporting reductions (R380) -/

/-- The arm slot and entry of this module's firing in a reduction, else those of a header (R249). -/
def State.redAux (s : State) (h : Frame) : BitVec 64 :=
  if h.tile then
    match s.member h with
    | some (_, g) => g.head.aux
    | none => h.aux
  else 0

/-- A frame of this module about a reduction, to every member of it: operation number 0 and the reduction's identity,
operator, type, length and .all (Table 16.4, R380, R381). -/
def State.redFrame (s : State) (h : Frame) (ty : BitVec 8) (l : List Byte) : Frame :=
  frameToAll
    { ty, domain := h.domain, src := s.cfg.mnum, gen := h.gen, gtid := h.gtid, mbase := h.mbase, axes := h.axes
      sizes := h.sizes, pattern := h.pattern, va := h.va, total := h.total, tag := h.tag, op := h.op, etype := h.etype
      all := h.all, tile := h.tile, aux := s.redAux h, payload := l }

/-- The key of this module's GRED in a reduction, to which the frames that it sends as a root belong (R379); 0 where it
has none. -/
def State.redKey (s : State) (f : Frame) : Nat :=
  match s.member f with
  | some (k, _) => k
  | none => 0

/-- Report the completed result of a reduction to every member. -/
def State.reportRed (s : State) (f : Frame) : State :=
  s.sendFrame { s.redFrame f 0x0B [] with count := 1 } (s.redKey f) f.wlo.toNat

/-- Fail a reduction here and tell every member: the NACK carries the reduction's identity and the cause. -/
def State.failRed (s : State) (f : Frame) (cause : Nat) : State :=
  let h := match s.member f with
    | some (_, g) => g.head
    | none => f
  let s := s.dropReds h
  let s := match s.member f with
    | some (k, g) => if g.failsWith cause then s.failGrid k cause 0 else s
    | none => s
  let tag := h.tag.extractLsb' 8 8 ++ BitVec.ofNat 8 cause
  s.sendFrame { s.redFrame h 0x0C [] with tag } 0 h.wlo.toNat

/-! ### Remote accesses -/

/-- Where a remote access lands. -/
inductive Reach where
  /-- A physical address. -/
  | ok (pa : Nat)
  /-- It is refused with cause 0x13 (R267, R352). -/
  | refuse
  /-- It meets a replayable fault. -/
  | fault (i : FaultInfo)
deriving DecidableEq, Repr

/-- The leaf at an address of a context, if its walk finds one. -/
def State.leafAt (s : State) (ctx : Nat) (va : Word) : Option Word :=
  match mapFind s.ctxs ctx with
  | none => none
  | some c =>
    if canonical va.toNat then
      match s.walk va.toNat c.root.toNat levels with
      | .leaf pte _ => some pte
      | .miss => none
      | .bad _ => none
    else none

/-- A leaf refuses remote accesses: RA is clear (R267), or it is a husk page whose husk is not the context's own or
holds no ways (R352). -/
def State.refusesRemote (s : State) (ctx : Nat) (pte : Word) : Bool :=
  !(bit pte.toNat 7) ||
  (bit pte.toNat 54 &&
   match mapFind s.ctxs ctx with
   | some c =>
     !(c.prot && decide (c.husk = bits pte.toNat 55 8) && (mapFind s.prot.husks c.husk).any fun h => h.placed)
   | none => true)

/-- Translate a remote access of `n` bytes in one sector. -/
def State.reach (s : State) (ctx : Nat) (va : Word) (need : Need) (acc n : Nat) : Reach × State :=
  if (s.leafAt ctx va).any fun p => s.refusesRemote ctx p then (.refuse, s)
  else
    match s.translate none ctx va need acc with
    | (.fail i, s) => (.fault i, s)
    | (.ok pa pte, s) =>
      if s.refusesRemote ctx pte then (.refuse, s)
      else if need.r && !(s.readable pte pa n) then
        (.fault { va, write := acc, mem := true }, s.noteUnreadable pte pa n true)
      else (.ok pa, s.settle (pa / 32))

/-- How far a remote access came: it ended, was refused, or stopped at a fault. -/
inductive Halt where
  /-- It is whole. -/
  | ended
  /-- Refused. -/
  | refused
  /-- Stopped. -/
  | stopped (i : FaultInfo)
deriving DecidableEq, Repr

/-- Place bytes sector by sector: the bytes placed. -/
def State.placeBytes (s : State) (ctx acc : Nat) : Nat → Word → List Byte → Nat × Halt × State
  | 0, _, _ => (0, .ended, s)
  | n + 1, va, l =>
    if l.isEmpty then (0, .ended, s)
    else
      let k := min l.length (32 - va.toNat % 32)
      match s.reach ctx va { w := true, ra := true } acc k with
      | (.refuse, s) => (0, .refused, s)
      | (.fault i, s) => (0, .stopped i, s)
      | (.ok pa, s) =>
        let (d, h, s) := (s.physWrite pa (l.take k)).placeBytes ctx acc n (va + BitVec.ofNat 64 k) (l.drop k)
        (k + d, h, s)

/-- Read lanes of an LDREQ, each of `n` bytes, in lane order: how many were read, and their bytes. -/
def State.readLanes (s : State) (ctx : Nat) (va : Word) (n : Nat) : List Nat → Nat × List Byte × Halt × State
  | [] => (0, [], .ended, s)
  | off :: r =>
    match s.reach ctx (va + BitVec.ofNat 64 off) { r := true, ra := true } 0 n with
    | (.refuse, s) => (0, [], .refused, s)
    | (.fault i, s) => (0, [], .stopped i, s)
    | (.ok pa, s) =>
      let data := s.mem.read pa n
      let (k, l, h, s) := s.readLanes ctx va n r
      (k + 1, data ++ l, h, s)

/-- The new value of an atomic at a target, and the flags that it raises (R179). -/
abbrev AtomFn := Nat → Bool → Nat → Nat → Nat → Nat × FlagSet

/-- Raise flags for the operation of this module that a frame belongs to (R55, R244). -/
def State.raiseGrid (s : State) (f : Frame) (fl : FlagSet) : State :=
  if fl = 0 ∨ f.src ≠ s.cfg.mnum then s
  else
    match s.gridByNumber f.opnum with
    | some (k, _) => s.modGrid k fun g => { g with flags := g.flags ||| fl }
    | none => s

/-- Perform the lanes of an ATOM from a lane on, in lane order (R244): the payload, in which each lane done holds the
old value at its operand, and the next lane. Where the issuer is this module, the flags of .fadd are raised for it. -/
def State.placeAtoms (s : State) (new : AtomFn) (ctx : Nat) (f : Frame) : Nat → Nat → List Byte → Nat × List Byte × Halt × State
  | 0, i, l => (i, l, .ended, s)
  | fuel + 1, i, l =>
    let step := frameAtomStep f
    let wide := decide (f.etype = 1)
    let n := if wide then 8 else 4
    if l.length < step * (i + 1) then (i, l, .ended, s)
    else
      let word := fun (o k : Nat) => leNat ((l.drop (step * i + o)).take k)
      let va := f.va + BitVec.ofNat 64 (word 0 8)
      match s.reach ctx va { r := true, w := true, ra := true } 2 n with
      | (.refuse, s) => (i, l, .refused, s)
      | (.fault x, s) => (i, l, .stopped x, s)
      | (.ok pa, s) =>
        let old := leNat (s.mem.read pa n)
        let r := new f.op.toNat wide old (word 8 n) (if f.op = 9 then word (8 + n) n else 0)
        let s := (s.physWrite pa (leBytes n r.1)).raiseGrid f r.2
        s.placeAtoms new ctx f fuel (i + 1) (l.take (step * i + 8) ++ leBytes n old ++ l.drop (step * i + 8 + n))

/-- The old values in the payload of an ATOM whose lanes are done. -/
def oldValues (f : Frame) (l : List Byte) : List Byte :=
  let step := frameAtomStep f
  (List.range (l.length / step)).flatMap fun i => (l.drop (step * i + 8)).take (if f.etype = 1 then 8 else 4)

/-- The byte offsets in an LDREQ's payload. -/
def laneOffsets (l : List Byte) : List Nat := elemsOf 8 l

/-- Key of an operation that is being received (R380). -/
def rxKey (f : Frame) : Nat := f.src.toNat * 2 ^ 32 + f.opnum.toNat

/-- The launch of this module's block that fired a frame; none for a frame of another module. -/
def State.firingLaunch (s : State) (f : Frame) : Option Nat :=
  if f.src = s.cfg.mnum then (s.gridByNumber f.opnum).map fun x => (s.block x.2.block).launch else none

/-- The table armed in a slot by the blocks of the firing's launch (R284): that of the lowest block.id. A frame names its
grid, and not its launch: for a frame of another module the launch is the oldest on that grid with the slot armed
(log 16). -/
def State.armedTable (s : State) (ctx slot : Nat) (f : Frame) : Option Cap :=
  let mine := s.firingLaunch f
  (s.ctxBlocks ctx).findSome? fun e =>
    if mine.getD e.2.launch = e.2.launch ∧ s.recordField e.1 12 0 16 = f.gtid.toNat then mapFind e.2.arm slot else none

/-- Add a remote access to those in progress: its key. -/
def State.putRemote (s : State) (f : Frame) : Nat × State :=
  let k := mapNext s.fab.remote
  (k, { s with fab := { s.fab with remote := mapPut s.fab.remote k { frame := f } } })

/-- Remove a remote access. -/
def State.dropRemote (s : State) (k : Nat) : State :=
  { s with fab := { s.fab with remote := mapErase s.fab.remote k } }

/-- The frame types that stand for stages of this target's own: the counting of a tile's delivery, of a store and of a
reduction. -/
def stageStore : BitVec 8 := 0x80
/-- As `stageStore`, for a reduction. -/
def stageRed : BitVec 8 := 0x81

/-- A frame writes the result of a reduction or counts its delivery. -/
def isResult (f : Frame) : Bool := decide (f.ty = 8 ∨ f.ty = 9 ∨ f.ty = stageRed)

/-- A remote access fails for good (R267, R380). -/
def State.failRemote (s : State) (k cause : Nat) : State :=
  match mapFind s.fab.remote k with
  | none => s
  | some r =>
    let f := r.frame
    let s := s.dropRemote k
    if isResult f then (if cause = 0x13 then s.refusedRecord f else s).failRed f cause
    else
      let o := mapGet {} s.fab.rxOps (rxKey f)
      let bad := { s with fab := { s.fab with rxOps := mapPut s.fab.rxOps (rxKey f) { o with bad := true } } }
      let va := match r.wait with
        | some (.verdict _ i) => i.va
        | some (.queue i) => i.va
        | none => f.va
      bad.nack f cause va

/-- Add one to the arrivals of the tile entry that a frame names (R249). -/
def State.tileArrive (s : State) (ctx : Nat) (f : Frame) : Halt × State :=
  match s.armedTable ctx (bits f.aux.toNat 0 2) f with
  | none => (.refused, s)
  | some t =>
    let i := bits f.aux.toNat 32 32
    let va := tileEntry t i + 52
    if t.len.toNat < 64 + 64 * (i + 1) then (.refused, s)
    else
      match s.translate none ctx va { r := true, w := true } 2 with
      | (.fail x, s) => (.stopped x, s)
      | (.ok pa pte, s) =>
        if !(s.readable pte pa 4) then (.stopped { va, write := 2, mem := true }, s.noteUnreadable pte pa 4 true)
        else
          let s := s.settle (pa / 32)
          (.ended, s.physWrite pa (leBytes 4 ((leNat (s.mem.read pa 4) + 1) % 2 ^ 32)))

/-- Report one completion of an operation to its issuer (R380). -/
def State.reportDone (s : State) (f : Frame) : State := s.sendFrame { s.answer f 0x0B with count := 1 } 0 f.src.toNat

/-- A reduced result is delivered to the entry that its frame names (R249), of a table that the launch of this module's
own firing has armed. -/
def State.resultOwner (s : State) (f : Frame) : Frame :=
  match s.member f with
  | some (_, g) => { g.head with aux := f.aux }
  | none => f

/-- A tile frame that writes, and for whose delivery no table is armed: it is refused before it writes (R249). -/
def State.noTable (s : State) (ctx : Nat) (f : Frame) : Bool :=
  f.tile && (decide (f.ty = 1) || decide (f.ty = 8) || decide (f.ty = 9)) &&
  (s.armedTable ctx (bits f.aux.toNat 0 2) (if f.ty = 1 then f else s.resultOwner f)).isNone

/-- Result bytes of a reduction have been placed here: when all have, the delivery is counted and reported. The flags of
the result, and the overflow bit of R245, are those of the modules that place it: without .all that is the root alone,
since a DONE has no field for them; the manual does not say which members' handles carry the bit (DESIGN CHOICE,
log 17). -/
def State.resultPlaced (s : State) (f : Frame) : Option Frame × State :=
  match s.member f with
  | none => (none, s)
  | some (k, g) =>
    let exps := mapGet [] g.exps (f.va - g.head.va).toNat
    let fl := resultFlags g.head.op.toNat g.head.etype.toNat exps f.payload
    let beyond := decide (g.head.op = 3) && binOverflow g.head.etype.toNat exps f.payload
    let s := if beyond then s.modStat k fun x => { x with overflow := true } else s
    let s := s.modGrid k fun g => { g with placed := g.placed + f.payload.length, flags := g.flags ||| fl }
    if g.len ≤ g.placed + f.payload.length then
      if g.head.tile then (some { g.head with aux := f.aux, ty := stageRed, payload := [] }, s)
      else (none, s.reportRed g.head)
    else (none, s)

/-- Bytes of an operation have been placed here (R380): when all have, the delivery is counted and reported. -/
def State.bytesPlaced (s : State) (f : Frame) (n : Nat) : Option Frame × State :=
  let o := mapGet {} s.fab.rxOps (rxKey f)
  let o := { o with bytes := o.bytes + n }
  if o.bytes < f.total.toNat || o.bad then
    (none, { s with fab := { s.fab with rxOps := mapPut s.fab.rxOps (rxKey f) o } })
  else
    let s := { s with fab := { s.fab with rxOps := mapErase s.fab.rxOps (rxKey f) } }
    if f.tile then (some { f with ty := stageStore, payload := [] }, s) else (none, s.reportDone f)

/-- Work on a remote access until it ends, is refused or stops: a frame for a next stage, if there is one. -/
def State.workRemote (s : State) (new : AtomFn) (k ctx : Nat) (r : Remote) : Option Frame × State :=
  let f := r.frame
  let stop := fun (s : State) (r : Remote) (i : FaultInfo) =>
    ((none : Option Frame),
     { s with fab := { s.fab with remote := mapPut s.fab.remote k { r with wait := none, parked := false } } }.stopAt
       (3, 0, k) i)
  if f.ty = 2 then
    let offs := laneOffsets f.payload
    let n := f.total.toNat / max 1 offs.length
    match s.readLanes ctx f.va n (offs.drop r.done) with
    | (_, l, .ended, s) => (none, (s.dropRemote k).sendFrame { s.answer f 3 with payload := r.data ++ l } 0 f.src.toNat)
    | (i, _, .refused, s) => (none, (s.dropRemote k).nack f 0x13 (f.va + BitVec.ofNat 64 (offs.getD (r.done + i) 0)))
    | (i, l, .stopped x, s) => stop s { r with done := r.done + i, data := r.data ++ l } x
  else if f.ty = 4 then
    match s.placeAtoms new ctx f 64 r.done f.payload with
    | (_, l, .ended, s) =>
      let old := oldValues f l
      let s := if patCount (frameJob f) f.pattern = 1
        then s.sendFrame { s.answer f 5 with payload := old } 0 f.src.toNat else s
      (s.dropRemote k).bytesPlaced f old.length
    | (_, _, .refused, s) => (none, s.failRemote k 0x13)
    | (i, l, .stopped x, s) => stop s { r with frame := { f with payload := l }, done := i } x
  else if f.ty = stageStore || f.ty = stageRed then
    match s.tileArrive ctx f with
    | (.ended, s) =>
      let s := s.dropRemote k
      (none, if f.ty = stageRed then s.reportRed f else s.reportDone f)
    | (.refused, s) => (none, s.failRemote k 0x13)
    | (.stopped i, s) => stop s r i
  else
    let acc := if isResult f then 2 else 1
    match s.placeBytes ctx acc (f.payload.length / 32 + 2) (f.va + BitVec.ofNat 64 r.done) (f.payload.drop r.done) with
    | (_, .ended, s) =>
      if isResult f then (s.dropRemote k).resultPlaced f else (s.dropRemote k).bytesPlaced f f.payload.length
    | (_, .refused, s) => (none, s.failRemote k 0x13)
    | (d, .stopped i, s) => stop s { r with done := r.done + d } i

/-- Run a remote access that waits for nothing, and the stage after it. A tile frame needs a table in its slot before it
writes (R249). -/
def State.runRemote (s : State) (new : AtomFn) (k : Nat) : State :=
  let once := fun (s : State) (k : Nat) =>
    match (mapFind s.fab.remote k).filter fun r => r.wait.isNone with
    | some r =>
      match s.boundCtx r.frame.gtid r.frame.gen with
      | some ctx =>
        if r.done = 0 && s.noTable ctx r.frame then (none, s.failRemote k 0x13) else s.workRemote new k ctx r
      | none => (none, s.failRemote k 0x13)
    | none => (none, s)
  match once s k with
  | (none, s) => s
  | (some f, s) =>
    let (k, s) := s.putRemote f
    (once s k).2

/-- Start a remote access for a frame that has been accepted. -/
def State.startRemote (s : State) (new : AtomFn) (f : Frame) : State :=
  if (s.boundCtx f.gtid f.gen).isNone then s.nack f 0x13 f.va
  else
    let (k, s) := s.putRemote f
    s.runRemote new k

/-! ### The root of a reduction -/

/-- Extents of the axes of a pattern. -/
def frameExtents (f : Frame) : List Nat := (List.range 5).map fun a => (patAxis (frameJob f) f.pattern [] a).2

/-- Combine what a root holds (R381), with the flags that this raises. -/
def combineParts (f : Frame) (l : List Part) : List Part × FlagSet :=
  if f.op = 5 then lseFold (frameExtents f) l.length l 0
  else if f.op = 3 then (joinParts addBins l, 0)
  else (joinParts (gridBytes f.op.toNat f.etype.toNat) l, 0)

/-- The result of an operator from its whole combination: a lone contribution of FP32 max has its NaN made canonical
too (R50, R67). -/
def wholeResult (f : Frame) (b : List Byte) : List Byte :=
  if f.op = 4 then gridBytes 4 f.etype.toNat b b else b

/-- The whole of a reduction: the part that covers every contribution. -/
def wholePart (f : Frame) (l : List Part) : Option (List Byte) :=
  (l.find? fun p => decide (p.2.2.1 = patCount (frameJob f) f.pattern)).map fun p => p.2.2.2

/-- Change a reduction that this root combines. -/
def State.putRed (s : State) (k : Nat) (r : Reduction) : State :=
  { s with fab := { s.fab with reds := mapPut s.fab.reds k r } }

/-- A root has every contribution: it writes the result, or sends it to every member under .all. -/
def State.sendResult (s : State) (new : AtomFn) (k : Nat) (r : Reduction) : State :=
  let c := combineParts r.head r.parts
  let r := { r with parts := c.1, flags := r.flags ||| c.2 }
  match wholePart r.head c.1 with
  | none => s.putRed k r
  | some b =>
    let res := if r.head.op = 3 then binResults r.head.etype.toNat (r.expr.getD []) b else wholeResult r.head b
    let op := s.redKey r.head
    let s := { s with fab := { s.fab with reds := mapErase s.fab.reds k } }
    let s := if r.flags = 0 then s else s.modGrid op fun g => { g with flags := g.flags ||| r.flags }
    if r.head.all then s.sendFrame (s.redFrame r.head 9 res) op r.head.wlo.toNat
    else
      let (q, s) := s.putRemote (s.redFrame r.head 8 res)
      s.runRemote new q

/-- A root has every exponent vector: it sends their maximum to the contributors, notes it for its own operation, and bins
the decoded values of compressed contributions against it. -/
def State.sendExps (s : State) (new : AtomFn) (k : Nat) (r : Reduction) : State :=
  let l := joinParts maxExps r.exps
  match wholePart r.head l with
  | none => s.putRed k { r with exps := l }
  | some e =>
    let bins : List Part := r.raw.map fun p => (p.1, p.2.1, p.2.2.1, binBytes r.head.etype.toNat e p.2.2.2)
    let r := { r with exps := [], raw := [], parts := r.parts ++ bins, expr := some e }
    let s := s.putRed k r
    let own := s.redKey r.head
    let s := s.sendFrame (s.redFrame r.head 7 e) own r.head.wlo.toNat
    let s := s.modGrid own fun g => { g with exps := mapPut g.exps (r.head.va - g.head.va).toNat e }
    if bins.isEmpty then s else s.sendResult new k r

/-- A contribution joins a reduction at its root (R381): an exponent vector, a partial, or a compressed contribution,
which the receiver decodes (R71) and which then counts in both rounds. -/
def State.joinRed (s : State) (new : AtomFn) (k : Nat) (r : Reduction) (f : Frame) : State :=
  let p := fun (l : List Byte) => ((f.first.toNat, f.last.toNat, f.count.toNat, l) : Part)
  if f.ty = 6 then s.sendExps new k { r with exps := r.exps ++ [p f.payload] }
  else if packedCount f ≠ 0 then
    let l := expandBytes (packedCount f) f.payload
    s.sendExps new k { r with exps := r.exps ++ [p (expVector f.etype.toNat l)], raw := r.raw ++ [p l] }
  else s.sendResult new k { r with parts := r.parts ++ [p f.payload] }

/-- The clk of the first contribution to the reduction that a contribution belongs to: pieces of one destination are one
reduction (R245). -/
def State.redSince (s : State) (f : Frame) : Nat :=
  let h := match s.member f with
    | some (_, g) => g.head
    | none => f
  (s.fab.reds.filter fun r => pieceOf h r.2.head && pieceOf h f).foldl (fun t r => min t r.2.since) s.clk

/-- A contribution arrives at the root (R245, R381). One that differs in operator, type, length or .all fails the
reduction with cause 0x11. -/
def State.contribute (s : State) (new : AtomFn) (f : Frame) : State :=
  if (s.boundCtx f.gtid f.gen).isNone then s.nack f 0x13 f.va
  else
    match mapFirst (fun _ r => sameGroup r.head f && decide (r.head.va = f.va)) s.fab.reds with
    | none => s.joinRed new (mapNext s.fab.reds) { head := { f with payload := [] }, since := s.redSince f } f
    | some (k, r) =>
      let h := r.head
      if h.op = f.op ∧ h.etype = f.etype ∧ h.total = f.total ∧ h.all = f.all then s.joinRed new k r f else s.failRed f 0x11

/-- The path of the frame of a reduction for an offset of its destination (R293, R383). -/
def GridOp.redPath (g : GridOp) (off : Nat) : Nat :=
  if 1 < g.spray then off / redChunk g.head % g.spray else g.head.wlo.toNat

/-- The root's exponent vector arrives at a contributor: it bins its values and sends them (R381); a compressed
contribution has been sent whole. -/
def State.sendBins (s : State) (f : Frame) : State :=
  match s.member f with
  | none => s
  | some (k, g) =>
    let off := (f.va - g.head.va).toNat
    let ty := g.head.etype.toNat
    let l := (g.data.drop off).take (f.payload.length / 2 * gridElemSize ty)
    let s := s.modGrid k fun g => { g with exps := mapPut g.exps off f.payload }
    if g.comp.isSome then s
    else s.sendFrame { g.head with ty := 8, va := f.va, payload := binBytes ty f.payload l } k (g.redPath off)

end Sys2Proof.Machine
end

