-- ==== Sys2Proof/Machine/Tile.lean ====
section
/-! DEFINITION. Starting grid operations at the issuer (R240 to R242), tile tables and their firing (R247, R248), and
the engine's reads of local sources (R241, R262). -/
namespace Sys2Proof.Machine

/-- The header that the frames of a grid operation share: the pattern resolved (R377), the destination and the bytes at
each target. -/
def State.gridHead (s : State) (j : Job) (n : BitVec 128) (va : Word) (total : Nat) : Frame :=
  frameToAll
    { domain := s.cfg.domain, src := s.cfg.mnum, gen := j.gen, gtid := j.gtid, mbase := BitVec.ofNat 11 j.mbase
      axes := BitVec.ofNat 3 j.axes, sizes := j.sizes, pattern := patResolve j n, va, opnum := s.fab.opnum
      total := BitVec.ofNat 32 total }

/-- Add a grid operation; the operation number is used up. Without targets it is complete (R242). -/
def State.addGrid (s : State) (k : Nat) (g : GridOp) : State :=
  let next := if s.fab.opnum + 1 = 0 then 1 else s.fab.opnum + 1
  { s with fab := { s.fab with opnum := next, gridOps := mapPut s.fab.gridOps k { g with since := s.clk } } }

/-- A key for an operation without a handle. -/
def State.silentKey (s : State) : Nat × State := (s.nextOp, { s with nextOp := s.nextOp + 1 })

/-! ### Tile tables -/

/-- The arm slot of a block in which a capability is placed (R248). -/
def Block.armSlot (b : Block) (c : Cap) : Option Nat := (mapFirst (fun _ x => decide (x = c)) b.arm).map Prod.fst

/-- The bound of an entry (R248): it lies wholly within the table. -/
def tileFits (t : Cap) (i : Nat) : Bool := decide (64 + 64 * (i + 1) ≤ t.len.toNat)

/-- The armed table and entry of a block whose flag lies at an address. -/
def Block.flagAt (b : Block) (va : Word) : Option (Nat × Nat × Cap) :=
  b.arm.findSome? fun e =>
    let o := (va - e.2.base).toNat
    let i := (o - 64) / 64
    if 64 ≤ o ∧ o % 64 = 48 ∧ tileFits e.2 i then some (e.1, i, e.2) else none

/-- Read a capability granule for an engine. -/
def State.engineCap (s : State) (core ctx : Nat) (va : Word) : Except FaultInfo Cap × State :=
  match s.engineRead core ctx va 32 with
  | (.error i, s) => (.error i, s)
  | (.ok l, s) =>
    match s.translate (some (clusterOf core)) ctx va { r := true } 0 with
    | (.fail i, s) => (.error i, s)
    | (.ok pa _, s) => (.ok (capOf l (s.mem.tag pa)), s)

/-- A field of an entry. -/
def TileView.fld (x : TileView) (dw lo n : Nat) : Nat := bits (x.dw.getD dw 0) lo n
/-- The pattern of an entry. -/
def TileView.pattern (x : TileView) : BitVec 128 := BitVec.ofNat 128 (x.dw.getD 0 0 + 2 ^ 64 * x.dw.getD 1 0)
/-- The entry reduces. -/
def TileView.reduce (x : TileView) : Bool := decide (x.fld 4 62 1 = 1)
/-- Its length. -/
def TileView.length (x : TileView) : Nat := x.fld 4 0 32
/-- Its type. -/
def TileView.ty (x : TileView) : Nat := x.fld 4 52 3
/-- Its operator. -/
def TileView.op (x : TileView) : Nat := x.fld 4 48 3
/-- Its compression. -/
def TileView.comp (x : TileView) : Nat := x.fld 4 55 2

/-- Read the doublewords of an entry of a table. -/
def State.tileDws (s : State) (core ctx : Nat) (t : Cap) (i : Nat) : Except FaultInfo (List Nat) × State :=
  match s.engineRead core ctx (tileEntry t i) 64 with
  | (.error e, s) => (.error e, s)
  | (.ok l, s) => (.ok ((bytesDw 8 l).map BitVec.toNat), s)

/-- Read the header of a table, and an entry unless its doublewords are known. -/
def State.tileViewOf (s : State) (core ctx : Nat) (t : Cap) (i : Nat) (known : Option (List Nat)) :
    Except FaultInfo TileView × State :=
  match s.engineCap core ctx t.base with
  | (.error e, s) => (.error e, s)
  | (.ok src, s) =>
    match s.engineCap core ctx (t.base + 32) with
    | (.error e, s) => (.error e, s)
    | (.ok rem, s) =>
      match known with
      | some dw => (.ok { src, rem, dw }, s)
      | none =>
        match s.tileDws core ctx t i with
        | (.error e, s) => (.error e, s)
        | (.ok dw, s) => (.ok { src, rem, dw }, s)

/-- Read the header and an entry of a table. -/
def State.tileView (s : State) (core ctx : Nat) (t : Cap) (i : Nat) : Except FaultInfo TileView × State :=
  s.tileViewOf core ctx t i none

/-- A firing of an entry begins (R248): its operation waits to be started by the engine. A store to the entry's fields
after the firing has no effect on it (R291): it takes them as they stand now. An entry that itself meets a page fault
cannot be read now, and is read when it starts (log 16). -/
def State.fireTile (s : State) (k warp : Nat) (value : Word) (silent : Bool) (x : Nat × Nat × Cap) : State :=
  let bk := warpBlock warp
  let (dws, s) := s.tileDws (s.block bk).core (s.ctxOf bk) x.2.2 x.2.1
  s.addGrid k
    { warp, block := bk, ctx := s.ctxOf bk, core := (s.block bk).core, fn := 5, value, silent, tile := some x
      entry := dws.toOption }

/-- A GRED's length suits its operator and type (R245). -/
def redLength (op ty n : Nat) : Bool :=
  if op = 5 then decide (n % 4 = 0 ∧ 12 ≤ n ∧ n ≤ 1032) else decide (n % gridElemSize ty = 0)

/-- The issuer is a contributor (R245). -/
def isMember (j : Job) (n : BitVec 128) : Bool := (patIndex j n).isSome

/-- A fired entry cannot run: it is malformed (R247), or one of the checks of the instruction that it stands for fails. -/
def State.tileBad (s : State) (ctx : Nat) (j : Job) (x : TileView) : Bool :=
  let n := x.length
  let cap := fun (c : Cap) (need : BitVec 16) (o align : Nat) => (s.capCheck ctx c need (BitVec.ofNat 64 o) n align).isSome
  let align := if x.reduce then gridElemSize x.ty else 0
  decide (x.fld 7 32 32 ≠ 0 ∨ x.fld 4 51 1 ≠ 0 ∨ 2 ≤ x.comp ∨ x.ty = 7) ||
  decide (x.comp = 1) && !(x.reduce && decide (x.op = 3 ∧ x.ty = 4)) ||
  x.reduce && (!(gridRedOp x.op x.ty) || !(redLength x.op x.ty n) || !(isMember j x.pattern)) ||
  !(patValid x.pattern) || cap x.src permR (x.dw.getD 2 0) align || cap x.rem (permW ||| permRM) (x.dw.getD 3 0) align ||
  decide (x.comp = 1) && cap x.src (permR ||| permW) (x.dw.getD 5 0) 4

/-- The header of a reduction of this module: its frames go to the root, which has the first matched coordinate
(R245). -/
def redHead (j : Job) (n : BitVec 128) (h : Frame) (op ty : Nat) (all : Bool) (tag : BitVec 16) : Frame :=
  let i := BitVec.ofNat 11 ((patIndex j n).getD 0)
  let root := BitVec.ofNat 11 ((patModules j n).headD 0)
  { h with
    wlo := root, whi := root, all, tag, first := i, last := i, count := 1, op := BitVec.ofNat 4 op
    etype := BitVec.ofNat 3 ty }

/-- The transport of a GCPY or of a store entry (R373): Ultra Ethernet where its pattern matches one module. -/
def onePeer (h : Frame) (n : Nat) : Frame := if n = 1 then { h with via := some .rud } else h

/-- The operation that a fired entry stands for, as it starts (R248). -/
def State.tileOp (s : State) (j : Job) (g : GridOp) (slot i : Nat) (x : TileView) : GridOp :=
  let h := s.gridHead j x.pattern (x.rem.base + BitVec.ofNat 64 (x.dw.getD 3 0)) x.length
  let h := { h with tile := true, aux := BitVec.ofNat 64 (slot + 2 ^ 32 * i) }
  let n := patCount j x.pattern
  let all := decide (x.fld 4 61 1 = 1)
  let g := { g with
    srcVa := x.src.base + BitVec.ofNat 64 (x.dw.getD 2 0), len := x.length, spray := x.fld 4 57 4 + 1, since := s.clk }
  if x.reduce then
    { g with
      fn := 3, head := redHead j x.pattern h x.op x.ty all (BitVec.ofNat 16 (x.fld 4 32 16))
      expected := if all then n else 1
      comp := if x.comp = 1 then some (x.src.base + BitVec.ofNat 64 (x.dw.getD 5 0)) else none }
  else { g with fn := 4, head := onePeer h n, expected := n, sent := decide (n = 0) }

/-- The engine starts a fired entry (R248): it reads the header's capabilities, and sets the flag to 2, or to 4 where the
entry cannot run. The entry's fields are those of the firing (R291). -/
def State.startTile (s : State) (k : Nat) (g : GridOp) : State :=
  match g.tile with
  | none => s
  | some (slot, i, t) =>
    match s.tileViewOf g.core g.ctx t i g.entry with
    | (.error e, s) => s.stopAt (2, 0, k) e
    | (.ok x, s) =>
      let j := s.jobOf g.block
      if s.tileBad g.ctx j x then s.failGrid k 0x10 0
      else
        match s.tileFlag g 2 with
        | (.error e, s) => s.stopAt (2, 0, k) e
        | (.ok _, s) => (s.addGrid k (s.tileOp j g slot i x)).checkGrid k

/-! ### The engine's reads of local sources -/

/-- Cut bytes into pieces with their offsets; an empty list is one empty piece. -/
def pieces (n : Nat) (l : List Byte) : List (Nat × List Byte) :=
  (List.range (max 1 (ceilDiv l.length n))).map fun i => (n * i, (l.drop (n * i)).take n)

/-- Send the contribution of a reduction: exponent vectors for a binned sum, else the elements (R381). Its frames take
the paths of its spray in turn (R293, R383). -/
def State.sendRed (s : State) (k : Nat) (g : GridOp) (data : List Byte) : State :=
  let s := s.modGrid k fun g => { g with data, sent := true }
  (pieces (redChunk g.head) data).foldl
    (fun s x =>
      let va := g.head.va + BitVec.ofNat 64 x.1
      if g.head.op = 3 then
        s.sendFrame { g.head with ty := 6, va, payload := expVector g.head.etype.toNat x.2 } k (g.redPath x.1)
      else s.sendFrame { g.head with ty := 8, va, payload := x.2 } k (g.redPath x.1))
    s

/-- Send a compressed contribution of `n` elements (R71): scale bytes and codes, piece by piece, with the elements of a
piece in aux [31:16] (log 17). -/
def State.sendPacked (s : State) (k : Nat) (g : GridOp) (n : Nat) (codes : List Byte) : State :=
  let s := s.modGrid k fun g => { g with sent := true }
  (pieces 136 codes).foldl
    (fun s x =>
      let i := x.1 / 136
      let va := g.head.va + BitVec.ofNat 64 (1024 * i)
      let aux := g.head.aux ||| BitVec.ofNat 64 (65536 * min 256 (n - 256 * i))
      s.sendFrame { g.head with ty := 8, va, aux, payload := x.2 } k (g.redPath (1024 * i)))
    s

/-- Compress a contribution against its error-feedback buffer (R71), and send it. -/
def State.sendContribution (s : State) (k : Nat) (g : GridOp) (data : List Byte) : State :=
  match g.comp with
  | none => s.sendRed k g data
  | some efb =>
    match s.engineRead g.core g.ctx efb data.length with
    | (.error e, s) => s.stopAt (2, 0, k) e
    | (.ok res, s) =>
      let (codes, new, fl) := compressBytes data res
      match s.engineWrite g.core g.ctx efb new with
      | (.error e, s) => s.stopAt (2, 0, k) e
      | (.ok _, s) =>
        let s := s.modGrid k fun g => { g with flags := g.flags ||| fl }
        if data.isEmpty then s.sendRed k g data else s.sendPacked k g (data.length / 4) codes

/-- The engine reads up to 4,096 further bytes of a source, and sends what can be sent (R244, R245). -/
def State.readSource (s : State) (k : Nat) (g : GridOp) : State :=
  let n := min 4096 (g.len - g.progress)
  match s.engineRead g.core g.ctx (g.srcVa + BitVec.ofNat 64 g.progress) n with
  | (.error e, s) => s.stopAt (2, 0, k) e
  | (.ok l, s) =>
    let at_ := g.progress + n
    if g.fn = 4 then
      let f := { g.head with ty := 1, va := g.head.va + BitVec.ofNat 64 g.progress, payload := l }
      let path := if 1 < g.spray then g.progress / 4096 % g.spray else f.wlo.toNat
      (s.modGrid k fun g => { g with progress := at_, sent := decide (g.len ≤ at_) }).sendFrame f k path
    else if at_ < g.len then s.modGrid k fun g => { g with progress := at_, data := g.data ++ l }
    else s.sendContribution k g (g.data ++ l)

/-- The engine's work on a grid operation in one clk. -/
def State.gridStep (s : State) (k : Nat) (g : GridOp) : State :=
  if g.fault.isSome then s
  else
    match g.ending with
    | some (state, cause) => s.endGrid k g state cause
    | none =>
      if g.fn = 5 then s.startTile k g
      else if g.sent then s.checkGrid k
      else if g.fn = 3 ∨ g.fn = 4 then s.readSource k g
      else s

end Sys2Proof.Machine
end

