-- ==== Sys2Proof/Machine/GlobalMem.lean ====
section
/-! DEFINITION. Loads and stores of global memory through a capability (05 §5.7): LD, ST, LDK, PREF and CFLUSH. -/
namespace Sys2Proof.Machine

/-- A lane's base register: s[A], or v[A] zero-extended (R173). -/
def Env.laneBase (en : Env) (uni : Bool) (a i : Nat) : Word :=
  if uni then en.w.getS a else (en.w.getV a i).zeroExtend 64

/-- The order field of a memory instruction asks for an acquire or a release (R172). -/
def ordered (f : Fields) : Bool := decide (fld f.mod 4 2 = 1)

/-- The scope of an ordered access; a set of which the warp is not a member acts as .core (R172). -/
def Env.scopeOf (en : Env) (scope set : Nat) : Nat :=
  if scope = 1 && !((en.block.members set).getLsbD (warpId en.key)) then 3 else scope

/-- The address an access of a lane goes to. -/
abbrev Place := Word × Option (Nat × Word)

/-- Load the lanes in order after their checks. -/
def State.loadLanes (s : State) (w : Who) (n : Nat) : List (Nat × Place) → List (Nat × List Byte) × State
  | [] => ([], s)
  | (i, va, miss) :: r =>
    let ((l, _), s) := s.l1Load w va n miss
    let (rest, s) := s.loadLanes w n r
    ((i, l) :: rest, s)

/-- Load each lane of the effective mask from its offset in a capability into v[d] (R173). -/
def Env.globalLoad (en : Env) (s : State) (size d : Nat) (c : Cap) (off : Nat → Word) : Res :=
  let n := sizeBytes size
  let (good, bad, s) := checkLanes (fun s i => s.laneCheck en.who c permR (off i) n false) s en.lanes
  match laneTrap bad with
  | some t => .trap s t
  | none =>
    let (got, s) := s.loadLanes en.who n good
    .next (s.putWarp en.key (en.w.putLoaded d size en.e fun i => loadedValue size 32 (mapGet [] got i)))

/-- LD (R173). -/
def execLd (f : Fields) (s : State) : Out :=
  native f s fun en =>
    let s := if ordered f then en.s.acquire en.key (en.scopeOf (fld f.c 0 3) (fld f.c 3 5)) else en.s
    en.globalLoad s (fld f.mod 0 3) f.d.toNat (en.w.getC f.b.toNat) fun i =>
      en.laneBase (mb f 3) f.a.toNat i + sx32 f.w2

/-- The checks of a lane's access that is made at the home slice: the address and where it lands (R170, R253). -/
def State.homeCheck (s : State) (w : Who) (c : Cap) (need : BitVec 16) (off : Word) (n align : Nat) (tneed : Need) :
    Except Failure (Word × Nat) × State :=
  match s.capCheck w.ctx c need off n align with
  | some cause => (.error (cause, c.base + off), s)
  | none =>
    match s.translate (some w.cluster) w.ctx (c.base + off) tneed (b2n tneed.w) with
    | (.fail i, s) => (.error (i.cause, c.base + off), s)
    | (.ok pa pte, s) =>
      if !tneed.r || s.readable pte pa n then (.ok (c.base + off, pa), s)
      else (.error (0x18, c.base + off), s.noteUnreadable pte pa n false)

/-- Prepare an access at the home slice whose check has passed: the own L1's copy is written back and dropped, and
copies elsewhere settle (R253). -/
def State.goHome (s : State) (w : Who) (va : Word) (pa : Nat) : State :=
  (s.evictWhere w.id fun x => decide (x.asid = w.asid ∧ x.va = va.toNat / 32)).settle (pa / 32)

/-- Store v[d] of each lane of the effective mask through the L1 (R173). -/
def Env.globalStore (en : Env) (size d : Nat) (c : Cap) (off : Nat → Word) : Res :=
  let (good, bad, s) :=
    checkLanes (fun s i => s.laneCheck en.who c permW (off i) (sizeBytes size) true) en.s en.lanes
  match laneTrap bad with
  | some t => .trap s t
  | none => .next (good.foldl (fun s x => s.l1Store en.who x.2.1 (en.w.storedBytes d size x.1) x.2.2) s)

/-- One lane's store at the home slice. A 32-bit store of 1 to the flag of an entry of an armed table fires the entry, and
is ignored while the flag reads 2 (R248). -/
def Env.homeStore (en : Env) (s : State) (va : Word) (pa : Nat) (l : List Byte) : State :=
  let s := s.goHome en.who va pa
  match (s.block en.bk).flagAt va with
  | some x =>
    if l ≠ leBytes 4 1 then s.physWrite pa l
    else if s.mem.read pa 4 = leBytes 4 2 then s
    else
      let s := s.physWrite pa l
      let (k, s) := s.silentKey
      s.fireTile k en.key 0 true x
  | none => s.physWrite pa l

/-- Store at the home slice after a release (R253). -/
def Env.releaseStore (en : Env) (size d : Nat) (c : Cap) (off : Nat → Word) : Res :=
  let n := sizeBytes size
  let (good, bad, s) :=
    checkLanes (fun s i => s.homeCheck en.who c permW (off i) n n { w := true }) en.s en.lanes
  match laneTrap bad with
  | some t => .trap s t
  | none =>
    .next (good.foldl (fun s x => en.homeStore s x.2.1 x.2.2 (en.w.storedBytes d size x.1)) (s.release en.key))

/-- ST (R173): through the L1, or at the home slice under .rel (R253). -/
def execSt (f : Fields) (s : State) : Out :=
  native f s fun en =>
    let c := en.w.getC f.b.toNat
    let off := fun i => en.laneBase (mb f 3) f.a.toNat i + sx32 f.w2
    if ordered f then en.releaseStore (fld f.mod 0 3) f.d.toNat c off
    else en.globalStore (fld f.mod 0 3) f.d.toNat c off

/-- LDK (R175). -/
def execLdk (f : Fields) (s : State) : Out :=
  native f s fun en =>
    let size := fld f.mod 0 3
    let n := sizeBytes size
    let s := if ordered f then en.s.acquire en.key (en.scopeOf (fld f.c 0 3) (fld f.c 3 5)) else en.s
    match s.laneCheck en.who (en.w.getC f.b.toNat) permR (en.sA f + sx32 f.w2) n false with
    | (.error e, s) => en.failIn s e
    | (.ok (va, miss), s) =>
      let ((l, _), s) := s.l1Load en.who va n miss
      .next (s.putWarp en.key (en.w.setS f.d.toNat (BitVec.ofNat 64 (loadedValue size 64 l))))

/-- Fill the sectors of a line that the L1 does not hold, after a check that passed (R176). -/
def State.prefetchLine (s : State) (w : Who) (va : Word) (pa : Nat) (pte : Word) : State :=
  (List.range 4).foldl
    (fun s k =>
      let v := BitVec.ofNat 64 (va.toNat / 128 * 128 + 32 * k)
      let p := pa / 128 * 128 + 32 * k
      match s.sector w.id w.asid (v.toNat / 32) with
      | some _ => s
      | none => if s.readable pte p 32 then (s.fillSector w v p pte true).2 else s)
    s

/-- PREF (R176): a lane that would fail a check is dropped without a trace. The manual gives no access size or permission
for those checks: the model takes one byte and R (DESIGN CHOICE, log 45). -/
def execPref (f : Fields) (s : State) : Out :=
  native f s fun en =>
    let c := en.w.getC f.b.toNat
    let one := fun (s : State) (i : Nat) =>
      let off := en.laneBase (mb f 3) f.a.toNat i + sx32 f.w2
      match s.capCheck en.ctx c permR off 1 0 with
      | some _ => s
      | none =>
        match s.translate (some en.who.cluster) en.ctx (c.base + off) { r := true } 0 with
        | (.fail _, _) => s
        | (.ok pa pte, s) => if mb f 0 then s else s.prefetchLine en.who (c.base + off) pa pte
    .next (en.lanes.foldl one en.s)

/-- CFLUSH (R176). -/
def execCflush (f : Fields) (s : State) : Out :=
  native f s fun en =>
    let c := en.w.getC f.b.toNat
    let off := en.sA f + sx32 f.w2
    let n := (en.sC f).toNat
    let va := c.base + off
    if n = 0 then .next en.s
    else
      match en.s.capCheck en.ctx c permR off n 0 with
      | some cause => en.fail cause va
      | none =>
        match en.s.translateRange (some en.who.cluster) en.ctx { r := true } 0 va n with
        | (.error i, s) => en.failIn s (i.cause, va)
        | (.ok spans, s) =>
          let lo := va.toNat / 128
          let hi := (va.toNat + n - 1) / 128
          let s := s.evictWhere en.who.id fun x => decide (x.asid = en.who.asid ∧ lo ≤ x.va / 4 ∧ x.va / 4 ≤ hi)
          .next (if mb f 0 then spans.foldl (fun s x => s.cleanLines x.1 x.2.2) s else s)

end Sys2Proof.Machine
end

