-- ==== Sys2Proof/Machine/Scratch.lean ====
section
/-! DEFINITION. The block's scratchpad (R177): LDS and STS. -/
namespace Sys2Proof.Machine

/-- The checks of a scratchpad access (R177). -/
def Block.scratchCheck (b : Block) (off : Word) (n : Nat) : Option Failure :=
  if off.msb || decide (b.scratchSize < off.toNat + n) then some (0x19, off)
  else if off.toNat % n ≠ 0 then some (0x16, off)
  else none

/-- The checks of the lanes of a scratchpad access, in order: the failures. -/
def Block.scratchBad (b : Block) (n : Nat) (off : Nat → Word) (lanes : List Nat) : List (Nat × Failure) :=
  lanes.filterMap fun i => (b.scratchCheck (off i) n).map fun e => (i, e)

/-- Lanes whose scratchpad bytes lie in a row with an uncorrectable error: the row's index and the lanes (R396). -/
def Env.tornLanes (en : Env) (off : Nat → Word) (n : Nat) : Option (Nat × Word) :=
  match en.lanes.findSome? fun i => en.block.tornBytes (off i).toNat n with
  | some row => some (row, maskOf fun i => en.e.getLsbD i && (en.block.tornBytes (off i).toNat n).isSome)
  | none => none

/-- Load each lane of the effective mask from its scratchpad offset into v[d] (R177, R396). -/
def Env.scratchLoad (en : Env) (s : State) (size d : Nat) (off : Nat → Word) : Res :=
  let n := sizeBytes size
  let b := en.block
  match laneTrap (b.scratchBad n off en.lanes) with
  | some t => .trap en.s t
  | none =>
    match en.tornLanes off n with
    | some (row, lanes) => .trap (en.s.sramError b.core 1 row) (sramTrap lanes)
    | none =>
      .next (s.putWarp en.key (en.w.putLoaded d size en.e fun i =>
        loadedValue size 32 (b.scratchRead (off i).toNat n)))

/-- LDS (R177). -/
def execLds (f : Fields) (s : State) : Out :=
  native f s fun en =>
    let s := if ordered f then en.s.acquire en.key (en.scopeOf (fld f.c 0 3) (fld f.c 3 5)) else en.s
    en.scratchLoad s (fld f.mod 0 3) f.d.toNat fun i => en.laneBase (mb f 3) f.a.toNat i + sx32 f.w2

/-- Store v[d] of each lane of the effective mask into the scratchpad: the highest-numbered lane's byte stands
(R173, R177). -/
def Env.scratchStore (en : Env) (s : State) (size d : Nat) (off : Nat → Word) : Res :=
  match laneTrap (en.block.scratchBad (sizeBytes size) off en.lanes) with
  | some t => .trap en.s t
  | none =>
    .next (s.modBlock en.bk fun b =>
      en.lanes.foldl (fun b i => b.scratchWrite (off i).toNat (en.w.storedBytes d size i)) b)

/-- STS (R177). -/
def execSts (f : Fields) (s : State) : Out :=
  native f s fun en =>
    let s := if ordered f then en.s.release en.key else en.s
    en.scratchStore s (fld f.mod 0 3) f.d.toNat fun i => en.laneBase (mb f 3) f.a.toNat i + sx32 f.w2

end Sys2Proof.Machine
end

