-- ==== Sys2Proof/Machine/Atomic.lean ====
section
/-! DEFINITION. Atomics and fences (05 §5.8). -/
namespace Sys2Proof.Machine

/-- The new value of an atomic (R179): `old` in memory, `x` from v[C], `cmp` from v[D]. -/
def atomicNew (op : Nat) (wide : Bool) (old x cmp : Nat) : Nat × FlagSet :=
  let w := if wide then 64 else 32
  let fm := if wide then fp64 else fp32
  let so := signed w old
  let sx := signed w x
  match op with
  | 0 => ((old + x) % 2 ^ w, 0)
  | 1 => (if so ≤ sx then old else x, 0)
  | 2 => (if so ≤ sx then x else old, 0)
  | 3 => (min old x, 0)
  | 4 => (max old x, 0)
  | 5 => (old &&& x, 0)
  | 6 => (old ||| x, 0)
  | 7 => (old ^^^ x, 0)
  | 8 => (x, 0)
  | 9 => (if old = cmp then x else old, 0)
  | _ => fm.convert 0 true (FVal.add 0 (fm.decode old) (fm.decode x))

/-- The offset of an atomic (R178): SignExtend(word 2 [15:0]). -/
def atomOffset (f : Fields) : Word := (f.w2.extractLsb' 0 16).signExtend 64

/-- The release part of an atomic's order: .rel, .ar and .sc (R181). -/
def atomReleases (f : Fields) : Bool := decide (2 ≤ fld f.w2 19 3)

/-- The acquire part of an atomic's order: .acq, .ar and .sc (R181). -/
def atomAcquires (f : Fields) : Bool := decide (fld f.w2 19 3 = 1 ∨ 3 ≤ fld f.w2 19 3)

/-- The order of an atomic about its accesses. -/
def Env.atomOrder (en : Env) (f : Fields) (s : State) : State :=
  let s := if atomReleases f then s.release en.key else s
  if atomAcquires f then s.acquire en.key (en.scopeOf (fld f.w2 16 3) (fld f.w2 22 5)) else s

/-- The result of an atomic in the warp: old values to v[D] unless .nr, and the flags of its lanes (R179). -/
def Env.atomResult (en : Env) (f : Fields) (old : List (Nat × Nat)) (fl : FlagSet) (s : State) : Res :=
  let w := en.w.raiseFlags fl
  let w := if mb f 6 then w else w.putV (mb f 4) f.d.toNat en.e fun i => BitVec.ofNat 64 (mapGet 0 old i)
  .next (s.putWarp en.key w)

/-- ATOM (R179): in increasing lane number, each lane one indivisible step at the home slice. -/
def execAtom (f : Fields) (s : State) : Out :=
  native f s fun en =>
    let wide := mb f 4
    let n := if wide then 8 else 4
    let c := en.w.getC f.b.toNat
    let off := fun i => en.laneBase (mb f 5) f.a.toNat i + atomOffset f
    let who := en.who
    let (good, bad, s) :=
      checkLanes (fun s i => s.homeCheck who c (permR ||| permW ||| permAT) (off i) n n { r := true, w := true }) en.s
        en.lanes
    match laneTrap bad with
    | some t => .trap s t
    | none =>
      let s := en.atomOrder f s
      let step := fun (a : State × List (Nat × Nat) × FlagSet) (x : Nat × Word × Nat) =>
        let s := a.1.goHome who x.2.1 x.2.2
        let old := leNat (s.mem.read x.2.2 n)
        let (new, fl) := atomicNew (fld f.mod 0 4) wide old (en.w.vVal wide f.c.toNat x.1).toNat
          (en.w.vVal wide f.d.toNat x.1).toNat
        (s.physWrite x.2.2 (leBytes n new), a.2.1 ++ [(x.1, old)], a.2.2 ||| fl)
      let (s, old, fl) := good.foldl step (s, [], 0)
      en.atomResult f old fl s

/-- ATOMS (R180). -/
def execAtoms (f : Fields) (s : State) : Out :=
  native f s fun en =>
    let wide := mb f 4
    let n := if wide then 8 else 4
    let off := fun i => en.laneBase (mb f 5) f.a.toNat i + atomOffset f
    let b := en.block
    match laneTrap (b.scratchBad n off en.lanes), en.tornLanes off n with
    | some t, _ => .trap en.s t
    | none, some (row, lanes) => .trap (en.s.sramError b.core 1 row) (sramTrap lanes)
    | none, none =>
      let step := fun (a : Block × List (Nat × Nat) × FlagSet) (i : Nat) =>
        let old := leNat (a.1.scratchRead (off i).toNat n)
        let (new, fl) := atomicNew (fld f.mod 0 4) wide old (en.w.vVal wide f.c.toNat i).toNat
          (en.w.vVal wide f.d.toNat i).toNat
        (a.1.scratchWrite (off i).toNat (leBytes n new), a.2.1 ++ [(i, old)], a.2.2 ||| fl)
      let (b, old, fl) := en.lanes.foldl step (b, [], 0)
      en.atomResult f old fl ((en.atomOrder f en.s).modBlock en.bk fun _ => b)

/-- FENCE (R181, Table 8.7): .ar, .acq, .rel and .sc as 0 to 3. -/
def Env.fenceKind (en : Env) (kind scope : Nat) : State :=
  let s := if kind = 1 then en.s else en.s.release en.key
  if kind = 2 then s else s.acquire en.key scope

/-- FENCE (R181). -/
def execFence (f : Fields) (s : State) : Out :=
  native f s fun en => .next (en.fenceKind (fld f.mod 0 2) (en.scopeOf (fld f.w2 0 3) (fld f.w2 3 5)))

end Sys2Proof.Machine
end

