-- ==== Sys2Proof/Machine/Barriers.lean ====
section
/-! DEFINITION. Named barriers (R231 to R233), which forerunner code shares, and package barriers (R235). -/
namespace Sys2Proof.Machine

/-- The fault of a barrier that has stopped: overflow first, then the copy fault (R233). -/
def Barrier.trapOf (b : Barrier) : Option Failure :=
  if b.overflow then some (0x32, 0)
  else if b.failed then some (0x33, BitVec.ofNat 64 b.failSeq)
  else none

/-- Change a named barrier of the issuer's block. -/
def Env.setBar (en : Env) (s : State) (n : Nat) (x : Barrier) : State :=
  s.modBlock en.bk fun b => b.setBar n x

/-- Arrive at a named barrier: a release of the warp's earlier accesses (R233), and one arrival. -/
def Env.arrive (en : Env) (n : Nat) : State :=
  en.setBar (en.s.release en.key) n ((en.block.bar n).arrive (warpId en.key))

/-- Wait while the phase of a named barrier is unchanged; the timer of the phase runs (R232, R342). -/
def Env.waitBarrier (en : Env) (s : State) (n : Nat) (phase : BitVec 32) (passed : State → State) : Res :=
  let b := (s.block en.bk).bar n
  match b.trapOf with
  | some e => en.failIn s e
  | none =>
    if b.phase ≠ phase then .next (passed s)
    else .wait (en.setBar s n b.start) (.barrier n phase)

/-- Some slot waits in BARW on a named barrier at its present phase (R232). -/
def State.barWaited (s : State) (bk n : Nat) : Bool :=
  let phase := ((s.block bk).bar n).phase
  s.warps.any fun e =>
    decide (warpBlock e.1 = bk) &&
    (decide (e.2.s0.wait = some (.barrier n phase)) || decide (e.2.s1.wait = some (.barrier n phase)))

/-- The barrier number of a barrier-group instruction (R231). -/
def barNo (f : Fields) : Nat := fld f.w2 0 4

/-- BARI (R232). -/
def execBari (f : Fields) (s : State) : Out :=
  native f s fun en =>
    let n := barNo f
    let b := en.block.bar n
    let warps := (en.sA f).toNat
    let secs := (en.sB f).toNat
    if !b.quiet || en.s.barWaited en.bk n || decide (warps = 0 ∨ 64 < warps ∨ 2 ^ 32 ≤ secs) then en.fail 0x31
    else .next (en.setBar en.s n { phase := b.phase, expWarps := warps, expSectors := secs })

/-- BARA (R232): an arrival too many sets the overflow bit and completes. -/
def execBara (f : Fields) (s : State) : Out :=
  native f s fun en =>
    let b := en.block.bar (barNo f)
    match b.trapOf with
    | some e => en.failIn en.s e
    | none => .next ((en.arrive (barNo f)).putWarp en.key (en.w.setS f.d.toNat (b.phase.zeroExtend 64)))

/-- BARW (R232, R233): an acquire at block scope when it returns. -/
def execBarw (f : Fields) (s : State) : Out :=
  native f s fun en =>
    en.waitBarrier en.s (barNo f) ((en.sA f).extractLsb' 0 32) fun s => s.acquire en.key 2

/-- What BART shows of a barrier (R232). -/
def Barrier.test (b : Barrier) (sec : Bool) : Nat :=
  if sec then b.sectors
  else b.phase.toNat + 2 ^ 32 * b.arrivals + 2 ^ 39 * b2n b.failed + 2 ^ 40 * b2n b.overflow

/-- BART (R232, R233). -/
def execBart (f : Fields) (s : State) : Out :=
  native f s fun en =>
    let b := en.block.bar (barNo f)
    match b.trapOf with
    | some e => en.failIn en.s e
    | none => en.done (en.w.setS f.d.toNat (BitVec.ofNat 64 (b.test (mb f 0))))

/-! ### Package barriers (R235) -/

/-- A package barrier of the issuer's context. -/
def Env.sbar (en : Env) (n : Nat) : SBar :=
  match mapFind en.s.ctxs en.ctx with
  | some c => mapGet {} c.sbars n
  | none => {}

/-- Write a package barrier. -/
def Env.setSbar (en : Env) (s : State) (n : Nat) (x : SBar) : State :=
  s.modCtx en.ctx fun c => { c with sbars := mapSet {} c.sbars n x }

/-- One arrival at a package barrier: the last expected one starts the next generation. -/
def SBar.arrive (b : SBar) : SBar :=
  if b.arrivals + 1 = b.expected then { b with gen := b.gen + 1, arrivals := 0 }
  else { b with arrivals := b.arrivals + 1 }

/-- The barrier number of an SBAR instruction. -/
def sbarNo (f : Fields) : Nat := fld f.w2 0 3

/-- The scope code of .package (Table 5.14). -/
def packageScope : Nat := 5

/-- SBAR.init. -/
def execSbarInit (f : Fields) (s : State) : Out :=
  native f s fun en =>
    let n := (en.sA f).toNat
    let b := en.sbar (sbarNo f)
    if n = 0 ∨ 46080 < n ∨ b.arrivals ≠ 0 then en.fail 0x31
    else .next (en.setSbar en.s (sbarNo f) { b with expected := n })

/-- SBAR.arrive: a release at package scope. -/
def execSbarArrive (f : Fields) (s : State) : Out :=
  native f s fun en =>
    let b := en.sbar (sbarNo f)
    if b.expected = 0 then en.fail 0x31
    else
      let s := en.setSbar (en.s.release en.key) (sbarNo f) b.arrive
      .next (s.putWarp en.key (en.w.setS f.d.toNat b.gen))

/-- SBAR.wait: an acquire at package scope when it returns. -/
def execSbarWait (f : Fields) (s : State) : Out :=
  native f s fun en =>
    if (en.sbar (sbarNo f)).gen = en.sA f then .wait en.s (.pkg (sbarNo f) (en.sA f) false)
    else .next (en.s.acquire en.key packageScope)

/-- SBAR.sync: it arrives and then waits for the generation to end. -/
def execSbarSync (f : Fields) (s : State) : Out :=
  native f s fun en =>
    let n := sbarNo f
    let b := en.sbar n
    match en.sl.wait with
    | some (.pkg m gen true) =>
      if m = n ∧ b.gen = gen then .wait en.s (.pkg n gen true) else .next (en.s.acquire en.key packageScope)
    | _ =>
      if b.expected = 0 then en.fail 0x31
      else
        let s := en.setSbar (en.s.release en.key) n b.arrive
        if b.arrive.gen = b.gen then .wait s (.pkg n b.gen true) else .next (s.acquire en.key packageScope)

end Sys2Proof.Machine
end

