-- ==== Sys2Proof/Machine/Matrix.lean ====
section
/-! DEFINITION. The matrix group (R196 to R200, R202, R204): issue checks in the order of R401, and the operations
that the engine accepts. -/
namespace Sys2Proof.Machine

/-- The fault of R217: a matrix-group instruction while mx.rows reads 0. -/
def Env.unavailable (en : Env) : Bool := decide ((en.s.core en.block.core).mxRows = 0)

/-- An operand pair (Table 6.3). -/
structure Pair where
  off : Word
  stride : Nat
  count : Nat
  tcol : Nat
  rsvd : Nat
deriving DecidableEq, Repr

/-- The pair in s[n] and s[n + 1]. -/
def Warp.pair (w : Warp) (n : Nat) : Pair :=
  let x := (w.getS (n + 1)).toNat
  { off := w.getS n, stride := bits x 0 32, count := bits x 32 16, tcol := bits x 48 6, rsvd := bits x 54 10 }

/-- A stride of R195: a multiple of 4, and at least the record length. -/
def strideOk (stride rec : Nat) : Bool := decide (stride % 4 = 0 ∧ rec ≤ stride)

/-- A pair passes its engine-operand checks, with a count of at most `top` and no tile number. -/
def Pair.ok (p : Pair) (rec top : Nat) : Bool :=
  decide (p.rsvd = 0 ∧ p.tcol = 0 ∧ 1 ≤ p.count ∧ p.count ≤ top) && strideOk p.stride rec

/-- The operand that a pair names on a capability. -/
def Pair.ref (p : Pair) (c : Cap) : MatRef := { cap := c, off := p.off, stride := p.stride, count := p.count }

/-- The check of one operand in memory (R193): R170 over its footprint, and its offset a multiple of `align`. -/
def Env.memCheck (en : Env) (m : MatRef) (rec : Nat) (need : BitVec 16) (align : Nat) : Option Failure :=
  match en.s.capCheck en.ctx m.cap (need ||| permEN) m.off (m.span rec) 0 with
  | some cause => some (cause, m.base)
  | none => if m.off.toNat % align ≠ 0 then some (0x16, m.base) else none

/-- Accept an operation that has a handle: h[d], the batch, and what the save area records of it (R336). -/
def Env.engineOp (en : Env) (s : State) (d grp fn : Nat) (desc : Option (Nat × Nat × Nat)) (kind : EngineKind)
    (sregs : List Word) (caps : List Cap) : State :=
  let (uid, s) := s.newHandle en.key d grp fn desc
  let st := mapGet {} s.ops uid
  s.accept
    { uid, warp := en.key, block := en.bk, ctx := en.ctx, slot := en.k, kind, value := st.value, batch := st.batch
      words := en.is.words, sregs, caps }

/-- An operation that fails as soon as it is accepted. -/
def Env.failedOp (en : Env) (s : State) (d grp fn cause : Nat) : State :=
  let (uid, s) := s.newHandle en.key d grp fn none
  let st := mapGet {} s.ops uid
  (s.modStat uid fun x => { x with state := 5, cause }).modWarp en.key fun w => w.noteFailure st.value st.batch

/-- fmt, K and N in word 2 of WLD. -/
def wldShape (f : Fields) : Nat × Nat × Nat := (fld f.w2 0 4, fld f.w2 4 7 + 1, fld f.w2 11 6 + 1)

/-- WLD (R197). -/
def execWld (f : Fields) (s : State) : Out :=
  native f s fun en =>
    let (fmt, k, n) := wldShape f
    let rec_ := recordLen fmt k false
    let m : MatRef := { cap := en.w.getC f.b.toNat, off := en.sA f, stride := (en.sC f).toNat, count := n }
    if en.unavailable then en.fail 0x25
    else if !(strideOk m.stride rec_) then en.fail 0x22
    else
      match en.memCheck m rec_ permR 4 with
      | some e => en.failIn en.s e
      | none =>
        let (load, s) := en.s.loadFor en.bk (en.s.nextValue en.key 0 0)
        .next (en.engineOp s f.d.toNat 0 0 (some (fmt, k, n)) (.wld m fmt k n load) [en.sA f, en.sC f] [m.cap])

/-- A WSCL operation, which has no handle. -/
def Env.wsclOp (en : Env) (m : Option MatRef) (sregs : List Word) (caps : List Cap) : State :=
  { en.s with nextOp := en.s.nextOp + 1 }.accept
    { uid := en.s.nextOp, warp := en.key, block := en.bk, ctx := en.ctx, slot := en.k, kind := .wscl m
      batch := en.w.batch + 1, words := en.is.words, sregs, caps }

/-- WSCL (R198). -/
def execWscl (f : Fields) (s : State) : Out :=
  native f s fun en =>
    let m : MatRef := { cap := en.w.getC f.b.toNat, off := en.sA f, stride := 256, count := 1 }
    if en.unavailable then en.fail 0x25
    else
      match en.memCheck m 256 permR 4 with
      | some e => en.failIn en.s e
      | none => .next (en.wsclOp (some m) [en.sA f] [m.cap])

/-- WSCL.none (R198). -/
def execWsclNone (f : Fields) (s : State) : Out :=
  native f s fun en => if en.unavailable then en.fail 0x25 else .next (en.wsclOp none [] [])

/-- The formats of activations and weights are of one path (R199). -/
def pairing (afmt wfmt : Nat) : Bool := productFmt afmt && productFmt wfmt && (intPath afmt == intPath wfmt)

/-- MMA (R199). -/
def execMma (f : Fields) (s : State) : Out :=
  native f s fun en =>
    let h := en.w.getH f.c.toNat
    let st := mapGet {} en.s.ops h.uid
    let a := en.w.pair f.a.toNat
    let afmt := fld f.w2 12 4
    let row := fld f.w2 0 12
    let topk := mb f 3
    if en.unavailable then en.fail 0x25
    else
      match (if h.value = 0 then none else st.desc) with
      | none => en.fail 0x22
      | some (wfmt, k, n) =>
        let rec_ := recordLen afmt k (mb f 1)
        let badTop := topk &&
          (intPath wfmt || decide (en.w.topk = 0 ∨ 4095 < en.w.ib + 64 * a.tcol + n - 1))
        if !(pairing afmt wfmt) || badTop ||
            !({ a with tcol := if topk then 0 else a.tcol : Pair }.ok rec_ 4096) then en.fail 0x22
        else
          let act := a.ref (en.w.getC f.b.toNat)
          match en.memCheck act rec_ permR 4 with
          | some e => en.failIn en.s e
          | none =>
            match windowFault en.w en.block row act.count with
            | some e => en.failIn en.s e
            | none =>
              let c := en.s.core en.block.core
              let load := mapFirst (fun _ (l : Load) => decide (l.op = h.uid)) c.loads
              match load with
              | none => .next (en.failedOp en.s f.d.toNat 0 2 (if st.state = 4 ∨ st.state = 5 then 2 else 1))
              | some (num, _) =>
                if st.state = 4 ∨ st.state = 5 then .next (en.failedOp en.s f.d.toNat 0 2 2)
                else if c.displaced num then .next (en.failedOp en.s f.d.toNat 0 2 1)
                else
                  let p : Product :=
                    { row := en.w.accBase.toNat + row, act, afmt, wfmt, kdim := k, ndim := n, acc := mb f 0, rs := mb f 1
                      cs := mb f 2, topk := if topk then some (en.w.topk, en.w.ib + 64 * a.tcol) else none, load := num }
                  .next (en.engineOp en.s f.d.toNat 0 2 none (.mma p h.uid)
                    [en.w.getS f.a.toNat, en.w.getS (f.a.toNat + 1)] [act.cap])

/-! ### Grouped products -/

/-- A group descriptor (Table 6.5). -/
structure GroupDesc where
  dw : List Nat
deriving DecidableEq, Repr

/-- A field of the descriptor. -/
def GroupDesc.get (g : GroupDesc) (i lo n : Nat) : Nat := bits (g.dw.getD i 0) lo n

/-- The number of groups. -/
def GroupDesc.groups (g : GroupDesc) : Nat := g.get 7 0 13

/-- K and N. -/
def GroupDesc.kdim (g : GroupDesc) : Nat := g.get 3 38 7 + 1

/-- The columns of a group's weights. -/
def GroupDesc.ndim (g : GroupDesc) : Nat := g.get 3 32 6 + 1

/-- Record lengths of the activations and of the weights. -/
def GroupDesc.recs (g : GroupDesc) : Nat × Nat :=
  (recordLen (g.get 1 44 4) g.kdim (bit (g.dw.getD 1 0) 52), recordLen (g.get 1 48 4) g.kdim false)

/-- Check 1 of R200: reserved bits, G, formats, their pairing, and the strides. -/
def GroupDesc.ok (g : GroupDesc) : Bool :=
  decide (g.get 1 55 9 = 0 ∧ g.get 3 45 19 = 0 ∧ g.get 7 16 48 = 0 ∧ 1 ≤ g.groups ∧ g.groups ≤ 4096) &&
  pairing (g.get 1 44 4) (g.get 1 48 4) && strideOk (g.get 1 0 32) g.recs.1 && strideOk (g.get 3 0 32) g.recs.2

/-- The weights of group i. -/
def GroupDesc.weights (g : GroupDesc) (c : Cap) (i : Nat) : MatRef :=
  { cap := c, off := BitVec.ofNat 64 (g.get 2 0 64 + i * g.get 4 0 64), stride := g.get 3 0 32, count := g.ndim }

/-- An incomplete operation of the warp writes bytes that its MMAG reads at issue (R190). -/
def State.readsHeld (s : State) (key va n : Nat) : Bool :=
  (s.core (s.block (warpBlock key)).core).ops.any fun o =>
    decide (o.warp = key) && spansMeet o.kind.foot.mem [(va, n, false)]

/-- MMAG stops at a page that does not translate, or at an uncorrectable error: the fault is replayable, and the
instruction waits for the verdict (R193, R262, log 13). -/
def Env.readStops (en : Env) (s : State) (d : Nat) (i : FaultInfo) : Res :=
  let w := Wait.readFault en.is d none
  let s := (s.modWarp en.key fun p => p.setSlot en.k { p.slot en.k with wait := some w }).stopAt (4, en.key, en.k) i
  .wait s (match mapFind s.warps en.key with
    | some p => (p.slot en.k).wait.getD w
    | none => w)

/-- Go on with bytes that MMAG reads at its issue, through the engine, after its own stores and its warp's earlier
operations (R190, R191, R200). -/
def Env.issueRead (en : Env) (s : State) (d : Nat) (va : Word) (n : Nat) (go : State → List Byte → Res) : Res :=
  if s.readsHeld en.key va.toNat n then .wait s (.reads va.toNat n)
  else
    match (s.flushFor en.key [(va.toNat, n, false)]).engineRead en.block.core en.ctx va n with
    | (.error i, s) => en.readStops s d i
    | (.ok l, s) => go s l

/-- Check the operands in memory of every group's weights. -/
def Env.groupChecks (en : Env) (g : GroupDesc) (c : Cap) : Nat → Nat → Option Failure
  | 0, _ => none
  | n + 1, i =>
    match en.memCheck (g.weights c i) g.recs.2 permR 4 with
    | some e => some e
    | none => en.groupChecks g c n (i + 1)

/-- The valid rows of each group that is not empty (R200). -/
def groupRows (offs : List Nat) (valid : Nat → Bool) : Nat → Nat → List (Nat × List Nat)
  | 0, _ => []
  | n + 1, g =>
    let lo := offs.getD g 0
    let hi := offs.getD (g + 1) 0
    let rest := groupRows offs valid n (g + 1)
    if lo < hi then (g, ((List.range (hi - lo)).map fun i => lo + i).filter valid) :: rest else rest

/-- Assign a weight buffer to each group, in group order (R197). -/
def State.groupLoads (s : State) (bk : Nat) (value : Word) (weights : Nat → MatRef) :
    List (Nat × List Nat) → List (MatRef × Nat × List Nat) × State
  | [] => ([], s)
  | (g, rows) :: r =>
    let (n, s) := s.loadFor bk value
    let (l, s) := s.groupLoads bk value weights r
    ((weights g, n, rows) :: l, s)

/-- MMAG once its descriptor, offset vector and bitmap are read and every check has passed. -/
def Env.acceptMmag (en : Env) (s : State) (f : Fields) (g : GroupDesc) (act : MatRef) (wcap : Cap)
    (rows : List (Nat × List Nat)) : State :=
  let (groups, s) := s.groupLoads en.bk (s.nextValue en.key 0 3) (g.weights wcap) rows
  let p : Product :=
    { row := en.w.accBase.toNat + fld f.w2 0 12, act, afmt := g.get 1 44 4, wfmt := g.get 1 48 4, kdim := g.kdim
      ndim := g.ndim, acc := bit (g.dw.getD 1 0) 54, rs := bit (g.dw.getD 1 0) 52, cs := bit (g.dw.getD 1 0) 53 }
  en.engineOp s f.d.toNat 0 3 none (.mmag p groups) [en.sA f] [en.w.getC f.b.toNat]

/-- The checks of MMAG after its offset vector is read (R200). -/
def Env.mmagChecks (en : Env) (s : State) (f : Fields) (g : GroupDesc) (offs : List Nat) : Res :=
  let total := offs.getD g.groups 0
  let first := offs.getD 0 0
  let ocap := en.w.getC (g.get 1 40 4)
  let act : MatRef := { cap := en.w.getC (g.get 1 32 4), off := BitVec.ofNat 64 (g.get 0 0 64), stride := g.get 1 0 32
                        count := total }
  let bmp := bit (g.dw.getD 7 0) 15
  let map : MatRef := { cap := ocap, off := BitVec.ofNat 64 (g.get 6 0 64), stride := 0, count := 1 }
  let bytes := ceilDiv total 8
  if (List.range g.groups).any fun i => decide (offs.getD (i + 1) 0 < offs.getD i 0) then en.failIn s (0x22, 0)
  else
    match (if total = 0 then none else en.memCheck act g.recs.1 permR 4) with
    | some e => en.failIn s e
    | none =>
      match en.groupChecks g (en.w.getC (g.get 1 36 4)) g.groups 0 with
      | some e => en.failIn s e
      | none =>
        match (if bmp ∧ total ≠ 0 then en.memCheck map bytes permR 4 else none) with
        | some e => en.failIn s e
        | none =>
          match windowFault en.w en.block (fld f.w2 0 12 + first) (total - first) with
          | some e => en.failIn s e
          | none =>
            let done := fun (s : State) (valid : Nat → Bool) =>
              Res.next (en.acceptMmag s f g act (en.w.getC (g.get 1 36 4)) (groupRows offs valid g.groups 0))
            if bmp ∧ total ≠ 0 then
              en.issueRead s f.d.toNat map.base bytes fun s l => done s fun r => bit (l.getD (r / 8) 0).toNat (r % 8)
            else done s fun _ => true

/-- The fail verdict on what an MMAG reads at its issue (R265): it completes with a handle that has failed. -/
def State.failReads (s : State) (key k : Nat) : State :=
  match mapFind s.warps key with
  | none => s
  | some w =>
    match (w.slot k).wait with
    | some (.readFault is d _) =>
      let (uid, s) := s.newHandle key d 0 3 none
      let st := mapGet {} s.ops uid
      ((s.modStat uid fun x => { x with state := 5, cause := 5 }).modWarp key fun w =>
        w.noteFailure st.value st.batch).finishWait is
    | _ => s

/-- MMAG (R200). -/
def execMmag (f : Fields) (s : State) : Out :=
  native f s fun en =>
    let desc : MatRef := { cap := en.w.getC f.b.toNat, off := en.sA f, stride := 64, count := 1 }
    if en.unavailable then en.fail 0x25
    else
      match en.memCheck desc 64 permR 4 with
      | some e => en.failIn en.s e
      | none =>
        en.issueRead en.s f.d.toNat desc.base 64 fun s l =>
          let g : GroupDesc := { dw := (bytesDw 8 l).map BitVec.toNat }
          let vec : MatRef := { cap := en.w.getC (g.get 1 40 4), off := BitVec.ofNat 64 (g.get 5 0 64), stride := 0
                                count := 1 }
          let n := 4 * (g.groups + 1)
          if !g.ok then en.failIn s (0x22, 0)
          else
            match en.memCheck vec n permR 4 with
            | some e => en.failIn s e
            | none =>
              en.issueRead s f.d.toNat vec.base n fun s l => en.mmagChecks s f g ((chunks 4 (g.groups + 1) l).map leNat)

/-! ### MMAP -/

/-- The two members of a pod meet at MMAP (R202): `r` is the waiting member's request and `q` the issuer's. -/
def State.pairMmap (s : State) (r q : MmapReq) (waiterUncond : Bool) : State :=
  let bk := warpBlock r.issue.warp
  let cond := if waiterUncond then q else r
  let uid := if waiterUncond then s.nextOp + 1 else s.nextOp
  let (n, s) := s.newLoad (s.block bk).core
    { op := uid, ctx := s.ctxOf bk, block := bk, buf := 0, value := s.nextValue cond.issue.warp 0 4 }
  ((s.acceptMmap r n cond.w true).finishWait r.issue).acceptMmap q n cond.w true

/-- The rendezvous of an MMAP whose other checks have passed (R202). -/
def Env.rendezvous (en : Env) (q : MmapReq) : Res :=
  let pk := warpKey en.bk en.w.pod.partner.toNat
  let alone := fun (_ : Unit) =>
    let s := en.s.mmapAlone q
    Res.next (match mapFind s.warps pk with
      | some p =>
        match p.waitingMmap with
        | some r => if s.mmapOver pk p r then s.mmapGiveUp pk else s
        | none => s
      | none => s)
  match mapFind en.s.warps pk with
  | none => alone ()
  | some p =>
    match p.waitingMmap with
    | some r =>
      if r.seq ≠ q.seq then alone ()
      else if r.shape = q.shape then .next (en.s.pairMmap r q p.pod.uncond)
      else
        en.failIn (en.s.takeTrap pk r.issue.slot r.issue.pc { cause := 0x24, lanes := r.mask } false false) (0x24, 0)
    | none =>
      if q.seq.toNat < p.pod.seq.toNat then alone ()
      else if en.s.kindDiffers en.ctx en.is.fr en.is.pc en.fall then en.fail 0x01
      else .wait en.s (.mmap q)

/-- MMAP (R202). -/
def execMmap (f : Fields) (s : State) : Out :=
  native f s fun en =>
    let a := en.w.pair f.a.toNat
    let c := en.w.pair f.c.toNat
    let afmt := fld f.w2 16 4
    let wfmt := fld f.w2 20 4
    let k := fld f.w2 24 7 + 1
    let arec := recordLen afmt k (mb f 1)
    let wrec := recordLen wfmt k false
    let row := fld f.w2 0 12
    match en.sl.wait with
    | some (.mmap r) => .wait en.s (.mmap r)
    | _ =>
      if en.unavailable then en.fail 0x25
      else if !en.w.pod.on then en.fail 0x23
      else if !(pairing afmt wfmt) || !(a.ok arec 4096) || !(c.ok wrec 64) then en.fail 0x22
      else
        let act := a.ref (en.w.getC f.b.toNat)
        let w := c.ref (en.w.getC (fld f.w2 12 4))
        match en.memCheck act arec permR 4 with
        | some e => en.failIn en.s e
        | none =>
          match en.memCheck w wrec permR 4 with
          | some e => en.failIn en.s e
          | none =>
            match windowFault en.w en.block row act.count with
            | some e => en.failIn en.s e
            | none =>
              let p : Product :=
                { row := en.w.accBase.toNat + row, act, afmt, wfmt, kdim := k, ndim := w.count, acc := mb f 0
                  rs := mb f 1, cs := mb f 2 }
              en.rendezvous
                { issue := en.is, mask := en.e, d := f.d.toNat, p, w
                  shape := [act.count, k, w.count, afmt, wfmt, w.base.toNat, w.stride]
                  seq := en.w.pod.seq, since := en.s.clk
                  sregs := [f.a.toNat, f.a.toNat + 1, f.c.toNat, f.c.toNat + 1].map en.w.getS
                  caps := [act.cap, w.cap] }

/-- The event 1,024 clk after an MMAP began to wait (R202): it goes unpaired. -/
def execMmapRendezvousTimeout (warp : Nat) (s : State) : Out :=
  .next (match mapFind s.warps warp with
    | none => s
    | some w =>
      match w.waitingMmap with
      | some r => if s.mmapOver warp w r then s.mmapGiveUp warp else s
      | none => s)

/-! ### Sliced products -/

/-- MSL (R204). -/
def execMsl (f : Fields) (s : State) : Out :=
  native f s fun en =>
    let a := en.w.pair f.a.toNat
    let b := en.w.pair f.c.toNat
    let k := (en.w.getS (f.c.toNat + 2)).toNat
    let fmt := fld f.w2 16 4
    let size := elemBits fmt / 8
    let rec_ := recordLen fmt k false
    let row := fld f.w2 0 12
    if en.unavailable then en.fail 0x25
    else if k = 0 ∨ 2 ^ 31 < k ∨ !(a.ok rec_ 64) ∨ !(b.ok rec_ 32) then en.fail 0x22
    else
      let ra := a.ref (en.w.getC f.b.toNat)
      let rb := b.ref (en.w.getC (fld f.w2 12 4))
      match en.memCheck ra rec_ permR size with
      | some e => en.failIn en.s e
      | none =>
        match en.memCheck rb rec_ permR size with
        | some e => en.failIn en.s e
        | none =>
          match windowFault en.w en.block row ra.count with
          | some e => en.failIn en.s e
          | none =>
            .next (en.engineOp en.s f.d.toNat 0 5 none
              (.msl (en.w.accBase.toNat + row) ra rb fmt k (fld f.w2 20 3 + 1) (mb f 0) (mb f 1) {})
              [en.w.getS f.a.toNat, en.w.getS (f.a.toNat + 1), en.w.getS f.c.toNat, en.w.getS (f.c.toNat + 1),
               en.w.getS (f.c.toNat + 2)]
              [ra.cap, rb.cap])

end Sys2Proof.Machine
end

