-- ==== Sys2Proof/Machine/Epilogue.lean ====
section
/-! DEFINITION. The epilogue group (R203, R209 to R212): AEPI, AGUI, ATOPK and ATKS at issue. -/
namespace Sys2Proof.Machine

/-- The scratchpad range of AEPI's row scales (R177, R210). -/
def Block.scaleFault (b : Block) (off : Word) (n : Nat) : Option Failure :=
  if off.msb || decide (b.scratchSize < off.toNat + 4 * n) then some (0x19, off)
  else if off.toNat % 4 ≠ 0 then some (0x16, off)
  else none

/-- AEPI (R210). -/
def execAepi (f : Fields) (s : State) : Out :=
  native f s fun en =>
    let a := en.w.pair f.a.toNat
    let fmt := fld f.w2 12 4
    let size := elemBits fmt / 8
    let n := fld f.w2 16 6 + 1
    let row := fld f.w2 0 12
    let rs := mb f 1
    let scales := en.sC f
    if a.rsvd ≠ 0 ∨ a.tcol ≠ 0 ∨ a.count = 0 ∨ 4096 < a.count ∨ a.stride % size ≠ 0 ∨ a.stride < n * size then
      en.fail 0x22
    else
      let dst := a.ref (en.w.getC f.b.toNat)
      match en.memCheck dst (n * size) permW size with
      | some e => en.failIn en.s e
      | none =>
        match (if rs then en.block.scaleFault scales a.count else none) with
        | some e => en.failIn en.s e
        | none =>
          match windowFault en.w en.block row a.count with
          | some e => en.failIn en.s e
          | none =>
            .next (en.engineOp en.s f.d.toNat 2 0 none
              (.aepi (en.w.accBase.toNat + row) dst fmt n (mb f 0) (if rs then some scales.toNat else none) (mb f 2)
                (mb f 3) (mb f 4) (fld f.mod 5 2))
              ([en.w.getS f.a.toNat, en.w.getS (f.a.toNat + 1)] ++ (if rs then [scales] else [])) [dst.cap])

/-- The partner of the issuer's pod. -/
def Env.partner (en : Env) : Option Warp :=
  if en.w.pod.on then mapFind en.s.warps (warpKey en.bk en.w.pod.partner.toNat) else none

/-- AGUI (R203): both members' rows are checked and found at issue. -/
def execAgui (f : Fields) (s : State) : Out :=
  native f s fun en =>
    let n := fld f.w2 12 13
    let row := en.rowOf f
    match en.partner with
    | none => en.fail 0x23
    | some p =>
      match windowFault en.w en.block row n with
      | some e => en.failIn en.s e
      | none =>
        match windowFault p en.block row n with
        | some e => en.failIn en.s e
        | none =>
          .next (en.engineOp en.s f.d.toNat 2 1 none
            (.agui (en.w.accBase.toNat + row) (p.accBase.toNat + row) n en.w.podG en.w.pod.uncond
              en.w.pod.partner.toNat en.w.pod.seq)
            [en.sA f] [])

/-- ATOPK (R211): it waits only for its own warp's operations on those sidebands. -/
def execAtopk (f : Fields) (s : State) : Out :=
  native f s fun en =>
    let n := fld f.w2 12 13
    if 4095 < (en.sB f).toNat then en.fail 0x22
    else
      match windowFault en.w en.block (en.rowOf f) n with
      | some e => en.failIn en.s e
      | none =>
        let row := en.w.accBase.toNat + en.rowOf f
        en.withRows [] [(row, n, true)] false fun _ =>
          let s := en.s.modBlock en.bk fun b => b.clearSides row n
          .next (s.putWarp en.key { en.w with topk := fld f.mod 0 4, ib := (en.sB f).toNat })

/-- The common part of ATKS.rd and ATKS.wr (R212). -/
def sidebandOp (wr : Bool) (f : Fields) (s : State) : Out :=
  native f s fun en =>
    let n := fld f.w2 0 13
    let row := (en.sC f).toNat
    let m : MatRef := { cap := en.w.getC f.b.toNat, off := en.sA f, stride := 64, count := n }
    match en.memCheck m 64 (if wr then permR else permW) 4 with
    | some e => en.failIn en.s e
    | none =>
      match windowFault en.w en.block row n with
      | some e => en.failIn en.s e
      | none =>
        .next (en.engineOp en.s f.d.toNat 2 3 none (.atks (en.w.accBase.toNat + row) n m wr en.w.topk en.w.ib)
          [en.sA f, en.sC f] [m.cap])

/-- ATKS.rd (R212). -/
def execAtksRd (f : Fields) (s : State) : Out := sidebandOp false f s

/-- ATKS.wr (R212). -/
def execAtksWr (f : Fields) (s : State) : Out := sidebandOp true f s

end Sys2Proof.Machine
end

