-- ==== Sys2Proof/Machine/EngineRun.lean ====
section
/-! DEFINITION. The matrix engine at work (R188, R190, R197 to R204, R210, R212): which operation may go on, one row or
slice pair of it, its start and its end. -/
namespace Sys2Proof.Machine

/-! ### Records and weights -/

/-- Read `n` records of an operand from record `i` on. -/
def State.readRecords (s : State) (core ctx : Nat) (m : MatRef) (rec : Nat) : Nat → Nat → Except FaultInfo (List (List Byte)) × State
  | 0, _ => (.ok [], s)
  | n + 1, i =>
    match s.engineRead core ctx (m.rowAt i) rec with
    | (.error e, s) => (.error e, s)
    | (.ok l, s) =>
      match s.readRecords core ctx m rec n (i + 1) with
      | (.error e, s) => (.error e, s)
      | (.ok r, s) => (.ok (l :: r), s)

/-- Pairs of a key and a nonzero number, as a map. -/
def nonzero (l : List (Nat × Nat)) : Map Nat := l.filter fun x => decide (x.2 ≠ 0)

/-- The weights that a buffer latches from column records (R197). -/
def latchWeights (fmt k : Nat) (cols : List (List Byte)) (cs : Option Lanes) : Weights :=
  { fmt, kdim := k, ndim := cols.length, colScale := cs
    elems := nonzero ((List.range cols.length).flatMap fun j =>
      (List.range k).map fun e => (128 * j + e, elemCode fmt (cols.getD j []) e))
    scales := if scaledFmt fmt then
        nonzero ((List.range cols.length).flatMap fun j =>
          (List.range (ceilDiv k 32)).map fun b => (4 * j + b, ((cols.getD j []).getD (packedLen fmt k + b) 0).toNat))
      else [] }

/-- A malformed outlier among column records (R47). -/
def colFlags (fmt k : Nat) (cols : List (List Byte)) : FlagSet :=
  cols.foldl (fun a c => a ||| outlierFlag fmt (elemCode fmt c) k) 0

/-- Load weights into a buffer assignment (R197): its buffer's previous load is displaced. The answer is the flags that
the load raises. -/
def State.loadWeights (s : State) (core ctx load : Nat) (w : MatRef) (fmt k : Nat) (cs : Option Lanes) :
    Except FaultInfo FlagSet × State :=
  match s.readRecords core ctx w (recordLen fmt k false) w.count 0 with
  | (.error e, s) => (.error e, s)
  | (.ok cols, s) =>
    let c := s.core core
    let loads := mapModify (mapErase c.loads (load - 2)) load fun l => { l with weights := some (latchWeights fmt k cols cs) }
    let torn := match mapFind loads load with
      | some l => mapErase c.torn l.buf
      | none => c.torn
    (.ok (colFlags fmt k cols), s.putCore core { c with loads, torn })

/-- The weights that a buffer assignment holds. -/
def State.weightsOf (s : State) (core load : Nat) : Option Weights :=
  match mapFind (s.core core).loads load with
  | some l => l.weights
  | none => none

/-- A column scale that applies to column j (R198): none where the register is absent. -/
def scaleAt (cs : Option Lanes) (j : Nat) : Option FVal := cs.map fun l => fp32.decode (laneOf l j).toNat

/-- Column j of latched weights. -/
def Weights.operand (w : Weights) (j : Nat) (cs : Option FVal) : Operand :=
  { fmt := w.fmt, code := fun k => mapGet 0 w.elems (128 * j + k), scale := fun b => mapGet 0 w.scales (4 * j + b)
    fscale := cs }

/-- An activation row (R195). -/
def rowOperand (p : Product) (l : List Byte) : Operand :=
  { fmt := p.afmt, code := elemCode p.afmt l
    scale := fun b => (l.getD (packedLen p.afmt p.kdim + b) 0).toNat
    fscale := if p.rs then
        some (fp32.decode (leNat ((l.drop (recordLen p.afmt p.kdim true - 4)).take 4)))
      else none }

/-! ### Rows -/

/-- Insert a candidate into a sideband of rank k (R211). -/
def topkInsert (k : Nat) (side : List SideEntry) (x : SideEntry) : List SideEntry :=
  let head := side.take k
  let goes := fun (e : SideEntry) => !e.valid || rankBefore (x.score, x.index.toNat) (e.score, e.index.toNat)
  match head.findIdx? goes with
  | none => side
  | some q => ((head.take q ++ [x] ++ head.drop q).take k) ++ side.drop k

/-- The sideband of a row after the elements of a product have been offered to it (R199). -/
def offerRow (k first n : Nat) (row : Nat → Elem) (side : List SideEntry) : List SideEntry :=
  (List.range n).foldl
    (fun s j => topkInsert k s { valid := true, index := BitVec.ofNat 12 (first + j), score := row j }) side

/-- One row of a product: row i of its activations through weights, into its accumulator row (R56, R57, R199). -/
def State.productRow (s : State) (core : Nat) (o : EngineOp) (p : Product) (i : Nat) (w : Weights) (cs : Option Lanes) :
    Except FaultInfo FlagSet × State :=
  match s.engineRead core o.ctx (p.act.rowAt i) (recordLen p.afmt p.kdim p.rs) with
  | (.error e, s) => (.error e, s)
  | (.ok l, s) =>
    let a := rowOperand p l
    let b := s.block o.block
    let r := p.row + i
    let old := b.accRow r
    let new := (List.range p.ndim).map fun j =>
      productElement a (w.operand j (if p.cs then scaleAt cs j else none)) p.kdim (if p.acc then some (laneOf old j) else none)
    let row := lanesOf fun j => match new[j]? with
      | some x => x.1
      | none => laneOf old j
    let fl := new.foldl (fun f x => f ||| x.2) (outlierFlag p.afmt a.code p.kdim)
    (.ok fl, s.modBlock o.block fun b =>
      let b := b.setAcc r row
      match p.topk with
      | some (k, first) => b.setSide r (offerRow k first p.ndim (laneOf row) (b.sideRow r))
      | none => b)

/-- One row of a product whose operation loads its weights itself, loaded first where the buffer does not hold them. A
malformed outlier in the weights that a paired MMAP shares sets flags[1] of the member whose operation loads them: R47
says 'the issuing warp', and a pair has two (DESIGN CHOICE, log 44). -/
def State.ownRow (s : State) (core : Nat) (o : EngineOp) (p : Product) (i : Nat) (w : MatRef) :
    Except FaultInfo FlagSet × State :=
  match s.weightsOf core p.load with
  | some x => s.productRow core o p i x o.colScale
  | none =>
    match s.loadWeights core o.ctx p.load w p.wfmt p.kdim o.colScale with
    | (.error e, s) => (.error e, s)
    | (.ok f, s) =>
      match s.weightsOf core p.load with
      | none => (.ok f, s)
      | some x =>
        match s.productRow core o p i x o.colScale with
        | (.error e, s) => (.error e, s)
        | (.ok g, s) => (.ok (f ||| g), s)

/-- The row at a position of an MMAG: the group's weights and assignment, and the row. -/
def groupAt : List (MatRef × Nat × List Nat) → Nat → Option (MatRef × Nat × Nat)
  | [], _ => none
  | (w, n, rows) :: r, i =>
    match rows[i]? with
    | some x => some (w, n, x)
    | none => groupAt r (i - rows.length)

/-- One row of AEPI (R210). -/
def State.epilogueRow (s : State) (core : Nat) (o : EngineOp) (row i : Nat) (dst : MatRef) (fmt n : Nat)
    (cs : Bool) (rs : Option Nat) (int relu ieee : Bool) (mode : Nat) : Except FaultInfo FlagSet × State :=
  let b := s.block o.block
  let x := b.accRow (row + i)
  let scale := rs.map fun a => fp32.decode (leNat (b.scratchRead (a + 4 * i) 4))
  let es := (List.range n).map fun j =>
    epilogueElement (laneOf x j) int (if cs then scaleAt o.colScale j else none) scale relu fmt mode ieee
  let fl := es.foldl (fun f e => f ||| e.2) 0
  match s.engineWrite core o.ctx (dst.rowAt i) (es.flatMap fun e => leBytes (elemBits fmt / 8) e.1) with
  | (.error e, s) => (.error e, s)
  | (.ok _, s) => (.ok fl, s)

/-- The rows of AGUI from row i on, with the partner's rows as they stand (R203). -/
def guideRows (b : Block) (row prow n : Nat) (g : Elem) (uncond : Bool) (from_ : Nat) : Block × FlagSet :=
  (List.range (n - from_)).foldl
    (fun (x : Block × FlagSet) k =>
      let i := from_ + k
      let own := x.1.accRow (row + i)
      let other := b.accRow (prow + i)
      let es := (List.range 64).map fun j =>
        if uncond then guide (laneOf other j) (laneOf own j) g else guide (laneOf own j) (laneOf other j) g
      (x.1.setAcc (row + i) (es.map fun e => e.1), es.foldl (fun f e => f ||| e.2) x.2))
    (b, 0)

/-- The 64 bits of a sideband entry (Table 6.10). -/
def SideEntry.word (e : SideEntry) : Nat := if e.valid then 2 ^ 63 + 2 ^ 32 * e.index.toNat + e.score.toNat else 0

/-- An entry from its 64 bits. -/
def sideOf (x : Nat) : SideEntry :=
  if bit x 63 then { valid := true, index := BitVec.ofNat 12 (bits x 32 12), score := BitVec.ofNat 32 x } else {}

/-- One row of ATKS (R212). -/
def State.sidebandRow (s : State) (core : Nat) (o : EngineOp) (row i : Nat) (m : MatRef) (wr : Bool) (k : Nat) :
    Except FaultInfo FlagSet × State :=
  if wr then
    match s.engineRead core o.ctx (m.rowAt i) 64 with
    | (.error e, s) => (.error e, s)
    | (.ok l, s) =>
      let es := ((chunks 8 8 l).map fun c => sideOf (leNat c)).filter fun e => e.valid
      (.ok 0, s.modBlock o.block fun b => b.setSide (row + i) (es.foldl (fun t e => topkInsert k t e) noSide))
  else
    let side := (s.block o.block).sideRow (row + i)
    let bytes := (List.range 8).flatMap fun q => leBytes 8 (if q < k then (side.getD q {}).word else 0)
    match s.engineWrite core o.ctx (m.rowAt i) bytes with
    | (.error e, s) => (.error e, s)
    | (.ok _, s) => (.ok 0, s)

/-! ### Sliced products -/

/-- The values of a record of a sliced operand. -/
def sliceRecord (fmt k : Nat) (l : List Byte) : List FVal := (List.range k).map fun i => sliceValue fmt (elemCode fmt l i)

/-- A record with a NaN or an infinity (R63). -/
def recordBad (l : List FVal) : Bool := l.any fun x => x.isNan || x.isInf

/-- What one slice pair adds to its level, for every element of the product (R61). -/
def addPair (st : MslState) (a b : List (List FVal)) (fmt slices p q : Nat) : MslState :=
  let m := b.length
  let idx := (List.range a.length).flatMap fun i => (List.range m).map fun j => (i, j)
  { st with
    levels := idx.foldl
      (fun t x =>
        let key := 2048 * (p + q) + 32 * x.1 + x.2
        let v := pairSum (a.getD x.1 []) (b.getD x.2 []) (sliceScale fmt slices (st.exps.getD x.1 0))
          (sliceScale fmt slices (st.fxps.getD x.2 0)) p q
        mapSet 0 t key (mapGet 0 t key + v))
      st.levels
    pair := st.pair + 1 }

/-- The result of one element (R62, R63, R66). -/
def mslElement (st : MslState) (fmt slices : Nat) (full wide : Bool) (i j : Nat) : Nat × FlagSet :=
  let level := fun l => mapGet 0 st.levels (2048 * l + 32 * i + j)
  let top := topLevel slices full
  if st.rowBad.getD i false || st.colBad.getD j false then
    ((if fmt = 15 then fp64 else fp32).nanCode, flagNan)
  else if sliceFloat fmt then combineFloat level top (st.exps.getD i 0 + st.fxps.getD j 0) (decide (fmt = 15))
  else combineInt level top (sliceCount fmt slices) wide

/-- Write the results of an MSL into its rows (R204). -/
def mslWrite (b : Block) (st : MslState) (row m n fmt slices : Nat) (full wide : Bool) : Block × FlagSet :=
  let two := decide (fmt = 15) || wide
  (List.range m).foldl
    (fun (x : Block × FlagSet) i =>
      let es := (List.range n).map fun j => mslElement st fmt slices full wide i j
      let old := x.1.accRow (row + i)
      let new := lanesOf fun l =>
        let j := if two then l / 2 else l
        match es[j]? with
        | some e => BitVec.ofNat 32 (if two && decide (l % 2 = 1) then e.1 / 2 ^ 32 else e.1)
        | none => laneOf old l
      (x.1.setAcc (row + i) new, es.foldl (fun f e => f ||| e.2) x.2))
    (b, 0)

/-- The next slice pair of an MSL (R204): the scale pass before the first, the combine after the last. The marks of R63
are those of the scale pass; the save area has no place for them (R336), and the device keeps them over a save (DESIGN
CHOICE, log 23). -/
def State.mslPair (s : State) (core : Nat) (o : EngineOp) (row : Nat) (a b : MatRef) (fmt k slices : Nat) (full wide : Bool)
    (st : MslState) : Except FaultInfo (FlagSet × MslState) × State :=
  let rec_ := recordLen fmt k false
  match s.readRecords core o.ctx a rec_ a.count 0 with
  | (.error e, s) => (.error e, s)
  | (.ok la, s) =>
    match s.readRecords core o.ctx b rec_ b.count 0 with
    | (.error e, s) => (.error e, s)
    | (.ok lb, s) =>
      let va := la.map (sliceRecord fmt k)
      let vb := lb.map (sliceRecord fmt k)
      let clean := fun (l : List FVal) => l.filter fun x => !(x.isNan || x.isInf)
      let scale := fun (l : List FVal) => if sliceFloat fmt then sliceExp (clean l) else 0
      let st := if st.scaled then st
        else
          { st with
            scaled := true, exps := va.map scale, fxps := vb.map scale, rowBad := va.map recordBad
            colBad := vb.map recordBad }
      let pairs := slicePairs slices full
      match pairs[st.pair]? with
      | none => (.ok (0, st), s)
      | some (p, q) =>
        let st := addPair st va vb fmt slices p q
        if st.pair < pairs.length then (.ok (0, st), s)
        else
          let (blk, fl) := mslWrite (s.block o.block) st row a.count b.count fmt slices full wide
          (.ok (fl, st), s.modBlock o.block fun _ => blk)

/-! ### Units of work -/

/-- The units of an operation: rows, slice pairs, or one load. -/
def EngineKind.total : EngineKind → Nat
  | .wld _ _ _ _ _ => 1
  | .wscl _ => 1
  | .mma p _ => p.act.count
  | .mmag _ gs => (gs.map fun g => g.2.2.length).sum
  | .mmap p _ _ => p.act.count
  | .msl _ _ _ _ _ s full _ _ => (slicePairs s full).length
  | .aepi _ dst _ _ _ _ _ _ _ _ => dst.count
  | .agui _ _ n _ _ _ _ => n
  | .atks _ n _ _ _ _ => n

/-- A load shows no progress: it completes no row (Table 6.12, log 14). -/
def EngineKind.countsRows : EngineKind → Bool
  | .wld _ _ _ _ _ => false
  | .wscl _ => false
  | .mma _ _ => true
  | .mmag _ _ => true
  | .mmap _ _ _ => true
  | .msl _ _ _ _ _ _ _ _ _ => true
  | .aepi _ _ _ _ _ _ _ _ _ _ => true
  | .agui _ _ _ _ _ _ _ => true
  | .atks _ _ _ _ _ _ => true

/-- A row's answer as an operation that has gone on by one unit. -/
def EngineOp.goOn (o : EngineOp) (r : Except FaultInfo FlagSet × State) : Except FaultInfo EngineOp × State :=
  match r with
  | (.error e, s) => (.error e, s)
  | (.ok f, s) => (.ok { o with progress := o.progress + 1, flags := o.flags ||| f }, s)

/-- One unit of a running operation. -/
def State.engineUnit (s : State) (core : Nat) (o : EngineOp) : Except FaultInfo EngineOp × State :=
  let i := o.progress
  match o.kind with
  | .wld w fmt k _ load => o.goOn (s.loadWeights core o.ctx load w fmt k o.colScale)
  | .wscl none => o.goOn (.ok 0, s.modWarp o.warp fun w => { w with colScale := none, tornCols := none })
  | .wscl (some m) =>
    match s.engineRead core o.ctx m.base 256 with
    | (.error e, s) => (.error e, s)
    | (.ok l, s) =>
      let v := (chunks 4 64 l).map fun c => BitVec.ofNat 32 (leNat c)
      o.goOn (.ok 0, s.modWarp o.warp fun w => { w with colScale := some v, tornCols := none })
  | .mma p _ =>
    match s.weightsOf core p.load with
    | some w => o.goOn (s.productRow core o p i w w.colScale)
    | none => o.goOn (.ok 0, s)
  | .mmag p gs =>
    match groupAt gs i with
    | some (w, load, r) => o.goOn (s.ownRow core o { p with load } r w)
    | none => o.goOn (.ok 0, s)
  | .mmap p w _ => o.goOn (s.ownRow core o p i w)
  | .msl row a b fmt k slices full wide st =>
    match s.mslPair core o row a b fmt k slices full wide st with
    | (.error e, s) => (.error e, s)
    | (.ok (f, st), s) =>
      (.ok { o with progress := i + 1, flags := o.flags ||| f, kind := .msl row a b fmt k slices full wide st }, s)
  | .aepi row dst fmt n cs rs int relu ieee mode =>
    o.goOn (s.epilogueRow core o row i dst fmt n cs rs int relu ieee mode)
  | .agui row prow n g uncond _ _ =>
    let (b, f) := guideRows (s.block o.block) row prow n g uncond i
    (.ok { o with progress := n, flags := o.flags ||| f }, s.modBlock o.block fun _ => b)
  | .atks row _ m wr k _ => o.goOn (s.sidebandRow core o row i m wr k)

/-! ### Which operation goes on -/

/-- The pod under which an AGUI was issued is gone (R203). -/
def State.aguiGone (s : State) (o : EngineOp) (partner : Nat) : Bool :=
  match mapFind s.warps o.warp with
  | some w => !w.pod.on || decide (w.pod.partner.toNat ≠ partner)
  | none => true

/-- An AGUI's wait is over (R203): its pod is gone, or the partner's number has come and no other warp's operation owns
the rows. -/
def State.aguiReady (s : State) (o : EngineOp) (row prow n partner : Nat) (seq : BitVec 32) : Bool :=
  let others := fun (x : EngineOp) => decide (x.warp ≠ o.warp)
  s.aguiGone o partner ||
  (match mapFind s.warps (warpKey o.block partner) with
   | some p => decide (seq.toNat ≤ p.pod.seq.toNat)
   | none => true) &&
  !(s.rowOwned o.block row n others) && !(s.rowOwned o.block prow n others)

/-- The buffers of an operation's own loads are free: no accepted operation still names what they held before (R197). -/
def State.buffersFree (s : State) (core : Nat) (o : EngineOp) : Bool :=
  let c := s.core core
  o.kind.ownLoads.all fun n =>
    (mapFind c.loads n).any (fun l => l.weights.isSome) ||
    c.ops.all fun x => decide (x.uid = o.uid) || !(x.kind.names.any fun m => decide (m + 2 = n))

/-- Conditions of an operation's start beside its place among the accepted operations: its buffers, and the wait of
AGUI. -/
def State.mayStart (s : State) (core : Nat) (o : EngineOp) : Bool :=
  s.buffersFree core o &&
  (match o.kind with
   | .agui row prow n _ _ partner seq => s.aguiReady o row prow n partner seq
   | _ => true)
/-- An operation is held (R188, R190) by the operations accepted before it. -/
def heldBy (before : List EngineOp) (o : EngineOp) : Bool :=
  before.any fun e => decide (e.warp = o.warp) && (!e.running || e.kind.foot.meets o.kind.foot)

/-- An operation goes on in this clk. -/
def State.engineGoes (s : State) (core : Nat) (before : List EngineOp) (o : EngineOp) : Bool :=
  o.fault.isNone && !(s.engineStopped o.ctx) && !(heldBy before o) && (o.running || s.mayStart core o)

/-- An operation that waits for its buffers keeps those accepted after it from starting (R188): only the dependence unit
lets operations of other warps start first. The wait of AGUI is for other warps' operations, and lets them start (R203,
log 44). -/
def State.keepsOrder (s : State) (core : Nat) (before : List EngineOp) (o : EngineOp) : Bool :=
  !o.running && o.fault.isNone && !(s.engineStopped o.ctx) && !(heldBy before o) && !(s.buffersFree core o)

/-- The first operation of a list, in acceptance order, that goes on; `shut` tells that none may start any more. -/
def State.nextOpOf (s : State) (core : Nat) (shut : Bool) : List EngineOp → List EngineOp → Option EngineOp
  | _, [] => none
  | before, o :: r =>
    if s.engineGoes core before o && (o.running || !shut) then some o
    else s.nextOpOf core (shut || s.keepsOrder core before o) (before ++ [o]) r

/-- The operation that a core's engine works on in this clk (R188). -/
def State.engineNext (s : State) (core : Nat) : Option EngineOp := s.nextOpOf core false [] (s.core core).ops

/-- The operation that would start next is one with a key. -/
def State.engineIs (s : State) (core uid : Nat) (running : Bool) : Option EngineOp :=
  match s.engineNext core with
  | some o => if o.uid = uid ∧ o.running = running then some o else none
  | none => none

/-- The column-scale register of an operation's warp has an uncorrectable error, and the operation reads it: the row
(R190, R396). -/
def State.tornScale (s : State) (o : EngineOp) : Option Nat :=
  if o.kind.foot.col.any fun x => !x.2.2 then (mapFind s.warps o.warp).bind fun w => w.tornCols else none

/-- The cause for which an operation fails as it starts (R199, R203, R217): no row of the array is left to a matrix
operation, its weights are gone, its weight load was cancelled or failed, or its pod is gone. -/
def State.startCause (s : State) (core : Nat) (o : EngineOp) : Option Nat :=
  if (s.core core).mxRows = 0 ∧ o.kind.epilogue = false then some 4
  else
  match o.kind with
  | .mma p wld =>
    let st := (mapGet {} s.ops wld).state
    if st = 4 ∨ st = 5 then some 2
    else if (s.weightsOf core p.load).isNone then some 1
    else none
  | .agui _ _ _ _ _ partner _ => if s.aguiGone o partner then some 3 else none
  | _ => none

/-- The event of an operation's start: it captures the column-scale register (R190, R197), or fails; with cause 0x06
where that register has an uncorrectable error (R396). -/
def execEngineOperationStart (core op : Nat) (s : State) : Out :=
  .next (match s.engineIs core op false with
    | none => s
    | some o =>
      match s.startCause core o with
      | some c => s.opEnd core o 5 c
      | none =>
      match s.tornScale o with
      | some row => (s.sramError core 0 row).opEnd core o 5 6
      | none =>
        let cs := match mapFind s.warps o.warp with
          | some w => w.colScale
          | none => none
        (s.modEngineOp core op fun o => { o with running := true, colScale := cs }).modStat op fun x => { x with state := 1 })

/-- An unpaired MMAP (R202). -/
def EngineKind.unpaired : EngineKind → Bool
  | .mmap _ _ paired => !paired
  | _ => false

/-- The event of an operation's end: its handle is satisfied (R55, Table 6.12). -/
def execEngineOperationComplete (core op : Nat) (s : State) : Out :=
  .next (match s.engineIs core op true with
    | none => s
    | some o => if o.kind.total ≤ o.progress then s.opEnd core o (if o.kind.unpaired then 3 else 2) 0 else s)

/-- A running operation stops at a page fault (R262). -/
def State.enginePageFault (s : State) (core uid : Nat) (i : FaultInfo) : State := s.stopAt (0, core, uid) i

/-- The accumulator row that a product reads for a row of its activations, where it accumulates or keeps a sideband. -/
def Product.reads (p : Product) (i : Nat) : List Nat := if p.acc || p.topk.isSome then [p.row + i] else []

/-- What the next unit of an operation reads in SRAM: accumulator rows, scratchpad bytes of a row scale, and the buffer
assignment of its weights. -/
def EngineOp.sramReads (o : EngineOp) : List Nat × Option Nat × Option Nat :=
  let i := o.progress
  match o.kind with
  | .mma p _ => (p.reads i, none, some p.load)
  | .mmap p _ _ => (p.reads i, none, some p.load)
  | .mmag p gs =>
    match groupAt gs i with
    | some (_, load, r) => (p.reads r, none, some load)
    | none => ([], none, none)
  | .aepi row _ _ _ _ rs _ _ _ _ => ([row + i], rs.map fun a => a + 4 * i, none)
  | .agui row prow n _ _ _ _ => ((List.range n).flatMap fun k => [row + k, prow + k], none, none)
  | .atks row _ _ wr _ _ => (if wr then [] else [row + i], none, none)
  | .msl .. => ([], none, none)
  | .wld .. => ([], none, none)
  | .wscl _ => ([], none, none)

/-- The row with an uncorrectable error that the next unit of an operation would read: its unit and index (R396). -/
def State.tornUnit (s : State) (core : Nat) (o : EngineOp) : Option (Nat × Nat) :=
  let b := s.block o.block
  let c := s.core core
  let (rows, scale, load) := o.sramReads
  match rows.findSome? fun r => b.tornRow 2 r r, scale.bind fun a => b.tornBytes a 4,
      load.bind fun n => (mapFind c.loads n).bind fun l =>
        if l.weights.isSome then mapFind c.torn l.buf else none with
  | some x, _, _ => some (2, x)
  | none, some x, _ => some (1, x)
  | none, none, some x => some (3, x)
  | none, none, none => none

/-- One unit of the operation that a core's engine works on; one that reads an SRAM row with an uncorrectable error fails
it with cause 0x06 (R396). -/
def State.engineStep (s : State) (core : Nat) (o : EngineOp) : State :=
  match s.tornUnit core o with
  | some (unit, row) => (s.sramError core unit row).opEnd core o 5 6
  | none =>
  match s.engineUnit core o with
  | (.error i, s) => s.enginePageFault core o.uid i
  | (.ok o', s) =>
    let s := s.modEngineOp core o.uid fun _ => o'
    if o.kind.countsRows then s.modStat o.uid fun x => { x with progress := o'.progress } else s

/-- The event of a page fault of an engine operation (R262): the unit in which it stands is tried, and the operation
stops where it faults. -/
def execEnginePageFault (core op : Nat) (s : State) : Out :=
  .next (match s.engineIs core op true with
    | none => s
    | some o =>
      match s.engineUnit core o with
      | (.error i, s) => s.enginePageFault core op i
      | (.ok _, _) => s)

/-- The engine of a core stands between operations: none is under way that goes on (R217). -/
def State.engineIdle (s : State) (core : Nat) : Bool :=
  match s.engineNext core with
  | none => true
  | some o => !o.running

/-- A self-test that the device makes by itself, before the next operation: its quarter and its outcome are free values (R217, log 27). -/
def State.ownTest (s : State) (core : Nat) : State :=
  let (x, s) := s.freeWord
  let c := s.core core
  s.putCore core { c with testDue := 0, tests := c.tests ++ [(x.extractLsb' 0 2, x.getLsbD 2)] }

/-- A core's engine in one clk: one unit of its operation, or the event of its start or end. Self-tests stand between two
operations: one that waited for the end of an operation, and one of the device's own once the engine has worked for 2^23
clk (R217, log 27). -/
def State.engineTick (s : State) (core : Nat) : State :=
  match s.engineNext core with
  | none => s
  | some o =>
    let c := s.core core
    if !o.running then
      if 2 ^ 23 ≤ c.testDue then s.ownTest core else s.post (.engineOperationStart core o.uid)
    else
      let s := s.putCore core { c with testDue := c.testDue + 1 }
      if o.kind.total ≤ o.progress then s.post (.engineOperationComplete core o.uid) else s.engineStep core o

/-- Every queued operation of a core fails with cause 0x04: the array is gone (R217). A matrix operation that had stopped
at a page fault has no row left to go on with, and fails too. -/
def State.failQueue (s : State) (core : Nat) : State :=
  ((s.core core).ops.filter fun o => !o.running || !o.kind.epilogue).foldl (fun s o => s.opEnd core o 5 4) s

end Sys2Proof.Machine
end

