-- ==== Sys2Proof/Machine/Health.lean ====
section
/-! DEFINITION. The health block, power and temperature limits (R398 to R400), and the matrix self-test (R217, R397). -/
namespace Sys2Proof.Machine

/-- The hottest die (R400). -/
def hottest (x : Sensors) : Nat :=
  ([0, 8, 16, 24].map fun i => bits x.tc.toNat i 8).foldl max (max (bits x.tx.toNat 0 8) (bits x.tx.toNat 8 8))

/-- The state field of the health block. -/
def Health.code (h : Health) : Nat := if h.tripped then 4 else b2n h.power + 2 * b2n h.thermal

/-- Ports that pass a test, as a mask. -/
def State.portMask (s : State) (p : Port → Bool) : Nat :=
  ((List.range 16).map fun i => 2 ^ i * b2n (p (mapGet {} s.fab.ports i))).sum

/-- mx.fence of every core, two cores a byte (Table 17.6). -/
def State.fenceBytes (s : State) : List Byte :=
  (List.range 360).map fun i =>
    BitVec.ofNat 8
      ((s.core (coreIds.getD (2 * i) 0)).mxFence.toNat + 16 * (s.core (coreIds.getD (2 * i + 1) 0)).mxFence.toNat)

/-- Frames that are retired. -/
def State.retiredFrames (s : State) : Nat := (s.prot.owners.filter fun o => decide (o.2.state = 3)).length

/-- Write the health block (Table 17.6); the host's request in DW7 stands. -/
def State.writeHealth (s : State) (x : Sensors) : State :=
  let h := { s.health with upd := s.health.upd + 1 }
  let s := { s with health := h }
  let dw : List Nat :=
    [h.upd.toNat + 2 ^ 32 * 0x57204845, s.clk,
     x.power.toNat + 2 ^ 16 * h.plim.toNat + 2 ^ 40 * h.duty + 2 ^ 60 * h.code,
     x.tc.toNat + 2 ^ 32 * x.tx.toNat + 2 ^ 48 * x.tin.toNat + 2 ^ 56 * x.tout.toNat,
     x.flow.toNat + 2 ^ 32 * h.corrected.toNat, h.uncorrected.toNat + 2 ^ 32 * s.retiredFrames,
     s.portMask (fun p => p.up) + 2 ^ 16 * s.portMask fun p => p.rekey]
  let at_ := s.cfg.resv.toNat
  (s.physWrite at_ (dw.flatMap (leBytes 8))).physWrite (at_ + 0x100) s.fenceBytes

/-- plim at an update (R399): the host's request, or the blob's default. -/
def State.nextLimit (s : State) : BitVec 16 :=
  let d := (s.readDw (s.cfg.resv.toNat + 56)).toNat
  if !(bit d 16) then s.cfg.pdef
  else if 1000 ≤ bits d 0 16 ∧ bits d 0 16 ≤ 3200 then BitVec.ofNat 16 d
  else s.health.plim

/-- The thermal limit (R400): from 100 °C until the hottest die reads 95 °C. -/
def Health.heat (h : Health) (x : Sensors) : Health :=
  if 100 ≤ (hottest x) then { h with thermal := true } else if (hottest x) ≤ 95 then { h with thermal := false } else h

/-- Issue duty after an update (R399, R400): it falls by 4/256 while a limit is exceeded, to 32/256, and rises while
power stays below its limit. -/
def Health.turn (h : Health) (power : Nat) : Health :=
  let above := decide (h.plim.toNat < power)
  let duty :=
    if above || h.thermal then max 31 (h.duty - 4)
    else if power < h.plim.toNat then min 255 (h.duty + 4)
    else h.duty
  { h with duty, power := above || (h.power && decide (duty < 255)) }

/-- A happening that is a cold boot. -/
def Instr.isColdBoot (i : Instr) : Bool :=
  match i with
  | .coldBoot _ _ => true
  | _ => false

/-- A package that has tripped holds until cold boot: no other happening has an effect (R400). -/
def State.holdsStill (s : State) (i : Instr) : Bool := s.health.tripped && !(Instr.isColdBoot i)

/-- The device trips (R400): it stops every issue, engine and transmission, and what was due with them, writes a final
health block, and holds until cold boot. -/
def State.trip (s : State) (x : Sensors) : State :=
  { s with picks := [], late := [], inbox := s.inbox.filter Instr.isColdBoot, health := { s.health with tripped := true } }.writeHealth x

/-- A corrected error (R396): counted, with at most one record of a frame in each 2^24 clk. -/
def State.correctedError (s : State) (pa : Nat) : State :=
  let f := frameOf pa
  let n := mapGet 0 s.health.ceSince f + 1
  let quiet := (mapFind s.health.ceLast f).any fun t => decide (s.clk < t + 2 ^ 24)
  let h := { s.health with corrected := s.health.corrected + 1 }
  if quiet then { s with health := { h with ceSince := mapPut h.ceSince f n } }
  else
    { s with health := { h with ceSince := mapErase h.ceSince f, ceLast := mapPut h.ceLast f s.clk } }.errorRecord 0x06 0x01
      0xFFF none (BitVec.ofNat 64 pa) (BitVec.ofNat 64 n)

/-- Mark a sector as uncorrectable. -/
def State.poison (s : State) (pa : Nat) : State :=
  { s with mem := { s.mem with poison := mapSet false s.mem.poison (pa / 32) true } }

/-- The register of a class number and an index. -/
def regOf (cls idx : Nat) : Reg := ⟨[.v, .s, .p, .h, .c, .n].getD cls .v, idx⟩

/-- What an error of the hardware leaves (R257, R364, R396, log 48). -/
def State.strike (s : State) (e : HwError) : State :=
  match e with
  | .corrected pa => s.correctedError pa
  | .sector pa => s.poison pa
  | .stuck pa bad =>
    let s := { s with mem := { s.mem with stuck := mapPut s.mem.stuck (pa / 32) bad } }
    if bad then s.poison pa else s
  | .register warp cls idx row => s.modWarp warp fun w => { w with torn := w.torn ++ [(regOf cls idx, row)] }
  | .scratch block off row => s.modBlock block fun b => { b with torn := b.torn ++ [(1, off / 256, row)] }
  | .columns warp row => s.modWarp warp fun w => { w with tornCols := some row }
  | .accum block r row => s.modBlock block fun b => { b with torn := b.torn ++ [(2, r, row)] }
  | .buffer core buf row => s.putCore core { s.core core with torn := mapPut (s.core core).torn buf row }

/-- The package, while it runs, has met errors of its hardware. -/
def State.strikes (s : State) (l : List HwError) : State :=
  if s.health.tripped ∨ s.arn.bstate ≠ 1 then s else l.foldl (fun s e => s.strike e) s

/-- The readings of a health update that the package makes by itself: free values (log 7). -/
def State.freeSensors (s : State) : Sensors × State :=
  let (a, s) := s.freeWord
  let (b, s) := s.freeWord
  let (c, s) := s.freeWord
  ({ power := a.extractLsb' 0 16, tin := a.extractLsb' 16 8, tout := a.extractLsb' 24 8, tx := a.extractLsb' 32 16
     tc := b.extractLsb' 0 32, flow := c.extractLsb' 0 32 }, s)

/-- The health block written again and power throttling adjusted (R398, R399). -/
def State.renewHealth (s : State) (x : Sensors) : State :=
  let s := s.strikes x.errors
  if s.health.tripped ∨ s.arn.bstate ≠ 1 then s
  else if 115 ≤ (hottest x) then s.trip x
  else
    let h := ({ s.health with plim := s.nextLimit }.heat x).turn x.power.toNat
    { s with health := h }.writeHealth x

/-- HEALTH_UPDATE (R398, R399). -/
def execHealthUpdate (x : Sensors) (s : State) : Host.Outcome State Fault Refusal := .next (s.renewHealth x)

/-- THERMAL_THROTTLE (R400): a die at 100 °C lowers the duty; the limit ends at 95 °C. -/
def execThermalThrottle (x : Sensors) (s : State) : Host.Outcome State Fault Refusal :=
  .next (
    let s := s.strikes x.errors
    if s.health.tripped ∨ s.arn.bstate ≠ 1 then s
    else
      let h := s.health.heat x
      { s with health := if h.thermal then { h with duty := max 31 (h.duty - 4) } else h })

/-- THERMAL_TRIP (R400): a die at 115 °C. -/
def execThermalTrip (x : Sensors) (s : State) : Host.Outcome State Fault Refusal :=
  .next (
    let s := s.strikes x.errors
    if s.health.tripped ∨ s.arn.bstate ≠ 1 ∨ (hottest x) < 115 then s else s.trip x)

/-! ### The matrix self-test -/

/-- The records of handles that a core retired since its last passed test (R397). -/
def State.suspectRecords (s : State) (l : Map (Nat × Nat × Nat)) : State :=
  l.foldl
    (fun s e =>
      let (ctx, first, last) := e.2
      s.errorRecord 0x05 0x02 ctx none (BitVec.ofNat 64 (ctx + 2 ^ 12 * warpId e.1)) (BitVec.ofNat 64 (first + 2 ^ 32 * last)))
    s

/-- Fence a sub-array of a core (R217). -/
def State.fence (s : State) (core q : Nat) : State :=
  let c := s.core core
  let c' := { c with mxFence := c.mxFence ||| BitVec.ofNat 4 (2 ^ q), mxRows := c.mxRows - 32 }
  let s := s.putCore core c'
  let s := s.errorRecord 0x05 0x01 0xFFF none
    (BitVec.ofNat 64 (core + 2 ^ 12 * q + 2 ^ 16 * c'.mxFence.toNat)) c.testClk
  let s := s.suspectRecords c.testSerials
  if c'.mxRows = 0 then (s.failQueue core).errorRecord 0x05 0x03 0xFFF none (BitVec.ofNat 64 core) 0 else s

/-- A self-test of a sub-array (R217, R397): a passed one notes its clk; a failed one fences the sub-array, once. -/
def State.selfTest (s : State) (core : Nat) (quarter : BitVec 2) (pass : Bool) : State :=
  let c := s.core core
  if !(coreIds.contains core) ∨ bit c.mxFence.toNat quarter.toNat then s
  else if pass then s.putCore core { c with testClk := BitVec.ofNat 64 s.clk, testSerials := [] }
  else s.fence core quarter.toNat

/-- The self-tests that waited are made once no operation is under way (R217). -/
def State.heldTests (s : State) (core : Nat) : State :=
  let c := s.core core
  if c.tests.isEmpty || !(s.engineIdle core) then s
  else c.tests.foldl (fun s t => s.selfTest core t.1 t.2) (s.putCore core { c with tests := [] })

/-- MATRIX_SELF_TEST (R217, R397): between two operations; it waits for the end of one that is under way. -/
def execMatrixSelfTest (core : Nat) (quarter : BitVec 2) (pass : Bool) (s : State) : Host.Outcome State Fault Refusal :=
  .next (
    if s.health.tripped then s
    else if s.engineIdle core then s.selfTest core quarter pass
    else s.putCore core { s.core core with tests := (s.core core).tests ++ [(quarter, pass)] })

end Sys2Proof.Machine
end

