-- ==== Sys2Proof/Machine/Invalidate.lean ====
section
/-! DEFINITION. Invalidation of translations (R261, Table 8.4) and the verdicts on engine faults (R265). -/
namespace Sys2Proof.Machine

/-- What an invalidation matches: an address range of `n` bytes of an ASID. Kind 0 matches the range, kind 1 the ASID
and kind 2 everything. -/
def invalMatches (i : Nat × BitVec 16 × Nat × Nat) (asid : BitVec 16) (va n : Nat) : Bool :=
  let (kind, a, lo, len) := i
  decide (kind = 2) || (decide (asid = a) && (decide (kind = 1) || decide (va < lo + len ∧ lo < va + n)))

/-- Perform an invalidation (R261): matching leaves leave the translation structures, and matching sectors every L1,
written back first. -/
def State.invalidate (s : State) (i : Nat × BitVec 16 × Nat × Nat) : State :=
  let s := s.evictAll fun x => invalMatches i x.asid (32 * x.va) 32
  { s with mem := { s.mem with tlb := s.mem.tlb.filterMap fun e =>
        let l := e.2.filter fun t => !(invalMatches i t.asid t.va (2 ^ t.level))
        if l.isEmpty then none else some (e.1, l) } }

/-- An event sets bits of inval.status (R5). -/
def State.setInval (s : State) (x : BitVec 3) : State :=
  { s with xlat := { s.xlat with invalStatus := s.xlat.invalStatus ||| x, invalNew := s.xlat.invalNew ||| x } }

/-- Start an invalidation of a kind (R261): one that errs sets inval.status[2] and does nothing else. -/
def State.startInval (s : State) (kind : Nat) : State :=
  let x := s.xlat
  if x.inval.isSome ∨ 3 ≤ kind ∨ (kind = 0 ∧ x.invalLen = 0) then s.setInval 4
  else
    { s with xlat := { x with
        invalStatus := x.invalStatus ||| 1
        inval := some (kind, x.invalAsid, x.invalVa.toNat * 65536, x.invalLen.toNat * 65536) } }

/-- A write of inval.start: before the first health block it is ignored, as all of BAR0 is (R391). -/
def State.writeInval (s : State) (kind : Nat) : State := if s.inService then s.startInval kind else s

/-- INVAL_RANGE (R261). -/
def execInvalRange (s : State) : Host.Outcome State Fault Refusal := .next (s.writeInval 0)

/-- INVAL_ASID (R261). -/
def execInvalAsid (s : State) : Host.Outcome State Fault Refusal := .next (s.writeInval 1)

/-- INVAL_ALL (R261). -/
def execInvalAll (s : State) : Host.Outcome State Fault Refusal := .next (s.writeInval 2)

/-- INVALIDATION_COMPLETE (R261): the invalidation in progress has been performed; done is set and busy cleared. -/
def execInvalidationComplete (s : State) : Host.Outcome State Fault Refusal :=
  .next (match s.xlat.inval with
    | none => s
    | some i =>
      let s := s.invalidate i
      { s with xlat := { s.xlat with inval := none, invalStatus := s.xlat.invalStatus &&& 6 } }.setInval 2)

end Sys2Proof.Machine
end

