-- ==== Sys2Proof/Machine/MlKem.lean ====
section
/-! DEFINITION. ML-KEM-1024 (FIPS 203), which R349 and R350 name: key generation and decapsulation. Polynomials are lists
of 256 coefficients modulo 3,329; a vector has four. -/
namespace Sys2Proof.Machine

/-- The modulus. -/
def kq : Nat := 3329

/-! ### Polynomials -/

/-- Coefficient-wise sum. -/
def polyAdd (a b : List Nat) : List Nat := a.zipWith (fun x y => (x + y) % kq) b

/-- Coefficient-wise difference. -/
def polySub (a b : List Nat) : List Nat := a.zipWith (fun x y => (x + kq - y) % kq) b

/-- The seven low bits of a number in reverse order. -/
def rev7 (i : Nat) : Nat := ((List.range 7).map fun b => bits i b 1 * 2 ^ (6 - b)).sum

/-- A power of 17, a root of unity of order 256. -/
def zeta (e : Nat) : Nat := 17 ^ (e % 256) % kq

/-- The number-theoretic transform: `i` numbers the halvings as a tree, from 1 on. -/
def ntt : Nat → Nat → List Nat → List Nat
  | 0, _, f => f
  | n + 1, i, f =>
    let h := f.length / 2
    let a := f.take h
    let b := (f.drop h).map fun x => zeta (rev7 i) * x % kq
    ntt n (2 * i) (polyAdd a b) ++ ntt n (2 * i + 1) (polySub a b)

/-- Its inverse, but for the factor 1/128. -/
def unNtt : Nat → Nat → List Nat → List Nat
  | 0, _, f => f
  | n + 1, i, f =>
    let h := f.length / 2
    let a := unNtt n (2 * i) (f.take h)
    let b := unNtt n (2 * i + 1) (f.drop h)
    polyAdd a b ++ (polySub a b).map fun x => zeta (256 - rev7 i) * x % kq

/-- The transform of a polynomial. -/
def polyNtt (f : List Nat) : List Nat := ntt 7 1 f

/-- The polynomial of a transform. -/
def polyUnNtt (f : List Nat) : List Nat := (unNtt 7 1 f).map fun x => 3303 * x % kq

/-- The product of two transforms: pairs multiply modulo X^2 - zeta^(2 rev7 i + 1). -/
def nttMul (a b : List Nat) : List Nat :=
  (((chunks 2 128 a).zip (chunks 2 128 b)).zipIdx).flatMap fun x =>
    let (p, q, r, t) := (x.1.1.getD 0 0, x.1.1.getD 1 0, x.1.2.getD 0 0, x.1.2.getD 1 0)
    [(p * r + q * t % kq * zeta (2 * rev7 x.2 + 1)) % kq, (p * t + q * r) % kq]

/-- The inner product of two vectors of transforms. -/
def nttDot (a b : List (List Nat)) : List Nat := (a.zipWith nttMul b).foldl polyAdd (List.replicate 256 0)

/-! ### Bytes -/

/-- The bits of bytes, low bit first. -/
def bitsOf (l : List Byte) : List Bool := l.flatMap fun b => (List.range 8).map b.getLsbD

/-- A number from its bits, low bit first. -/
def ofBits (l : List Bool) : Nat := l.foldr (fun b x => b2n b + 2 * x) 0

/-- Numbers of `d` bits as bytes. -/
def packBits (d : Nat) (l : List Nat) : List Byte :=
  let b := l.flatMap fun x => (List.range d).map fun i => bit x i
  (chunks 8 (b.length / 8) b).map fun c => BitVec.ofNat 8 (ofBits c)

/-- `n` numbers of `d` bits from bytes. -/
def unpackBits (d n : Nat) (l : List Byte) : List Nat := (chunks d n (bitsOf l)).map ofBits

/-- Compress to `d` bits, rounding halves up. -/
def kCompress (d x : Nat) : Nat := ((2 ^ (d + 1) * x + kq) / (2 * kq)) % 2 ^ d

/-- Decompress from `d` bits. -/
def kExpand (d y : Nat) : Nat := (2 * kq * y + 2 ^ d) / 2 ^ (d + 1)

/-! ### Sampling -/

/-- A transform from the stream of a seed: 280 groups of three bytes hold enough candidates. -/
def sampleNtt (seed : List Byte) : List Nat :=
  ((chunks 3 280 (shake128 seed 840)).flatMap fun c =>
    let (x, y, z) := ((c.getD 0 0).toNat, (c.getD 1 0).toNat, (c.getD 2 0).toNat)
    [x + 256 * (y % 16), y / 16 + 16 * z].filter fun v => decide (v < kq)).take 256

/-- A polynomial of the centred binomial distribution with eta 2 from a seed and a counter. -/
def samplePoly (seed : List Byte) (n : Nat) : List Nat :=
  (chunks 4 256 (bitsOf (shake256 (seed ++ [BitVec.ofNat 8 n]) 128))).map fun c =>
    let b := fun i => b2n (c.getD i false)
    (b 0 + b 1 + kq - b 2 - b 3) % kq

/-- Four of them. -/
def sampleVec (seed : List Byte) (n : Nat) : List (List Nat) := (List.range 4).map fun i => samplePoly seed (n + i)

/-- The matrix of a seed, row by row. -/
def kMatrix (rho : List Byte) : List (List (List Nat)) :=
  (List.range 4).map fun i => (List.range 4).map fun j => sampleNtt (rho ++ [BitVec.ofNat 8 j, BitVec.ofNat 8 i])

/-! ### The scheme -/

/-- The keys of a seed d and z: the encapsulation key, and the decapsulation key. -/
def mlKemKeys (d z : List Byte) : List Byte × List Byte :=
  let g := sha3 512 (d ++ [4])
  let rho := g.take 32
  let sigma := g.drop 32
  let s := (sampleVec sigma 0).map polyNtt
  let e := (sampleVec sigma 4).map polyNtt
  let t := ((kMatrix rho).zip e).map fun x => polyAdd (nttDot x.1 s) x.2
  let ek := t.flatMap (packBits 12) ++ rho
  (ek, s.flatMap (packBits 12) ++ ek ++ sha3 256 ek ++ z)

/-- Encrypt 32 bytes to an encapsulation key with 32 bytes of randomness. -/
def kEncrypt (ek m r : List Byte) : List Byte :=
  let t := (chunks 384 4 ek).map (unpackBits 12 256)
  let a := kMatrix (ek.drop 1536)
  let y := (sampleVec r 0).map polyNtt
  let e1 := sampleVec r 4
  let e2 := samplePoly r 8
  let u := (List.range 4).map fun i =>
    polyAdd (polyUnNtt (nttDot (a.map fun row => row.getD i []) y)) (e1.getD i [])
  let v := polyAdd (polyAdd (polyUnNtt (nttDot t y)) e2) ((unpackBits 1 256 m).map (kExpand 1))
  u.flatMap (fun p => packBits 11 (p.map (kCompress 11))) ++ packBits 5 (v.map (kCompress 5))

/-- Decrypt a ciphertext of 1,568 bytes with the secret vector. -/
def kDecrypt (s c : List Byte) : List Byte :=
  let u := (chunks 352 4 c).map fun l => (unpackBits 11 256 l).map (kExpand 11)
  let v := (unpackBits 5 256 (c.drop 1408)).map (kExpand 5)
  let w := polySub v (polyUnNtt (nttDot ((chunks 384 4 s).map (unpackBits 12 256)) (u.map polyNtt)))
  packBits 1 (w.map (kCompress 1))

/-- Decapsulate: a ciphertext that does not encrypt again to itself gives a key made from it and z (implicit
rejection). -/
def mlKemDecaps (dk c : List Byte) : List Byte :=
  let ek := (dk.drop 1536).take 1568
  let h := (dk.drop 3104).take 32
  let z := (dk.drop 3136).take 32
  let m := kDecrypt (dk.take 1536) c
  let g := sha3 512 (m ++ h)
  if kEncrypt ek m (g.drop 32) = c then g.take 32 else shake256 (z ++ c) 32

end Sys2Proof.Machine
end

