-- ==== Sys2Proof/Machine/Packets.lean ====
section
/-! DEFINITION. Command packets (R312, R313): fields, header checks, and what a queue does when its packet retires, waits
or fails (R310, R311, R326). -/
namespace Sys2Proof.Machine

/-- A packet under execution: its queue and its words as numbers, header first. -/
structure Pk where
  q : Nat
  head : BitVec 32
  words : List Nat
  /-- The queue as it stands. -/
  queue : Queue
deriving DecidableEq, Repr

/-- A field of a packet: doubleword, low bit, length. -/
def Pk.f (p : Pk) (dw lo len : Nat) : Nat := bits (p.words.getD dw 0) lo len
/-- A doubleword of a packet. -/
def Pk.dw (p : Pk) (i : Nat) : Word := BitVec.ofNat 64 (p.words.getD i 0)
/-- The header's context. -/
def Pk.ctx (p : Pk) : Nat := p.f 0 16 12
/-- The header's PA bit. -/
def Pk.pa (p : Pk) : Bool := bit (p.words.getD 0 0) 14
/-- The header's SER bit. -/
def Pk.ser (p : Pk) : Bool := bit (p.words.getD 0 0) 13
/-- The header's tag. -/
def Pk.tag (p : Pk) : BitVec 32 := BitVec.ofNat 32 (p.f 0 32 32)
/-- The packet as error records name it (Table 14.9). -/
def Pk.name (p : Pk) : Nat × BitVec 32 × BitVec 32 := (p.q, p.head, p.tag)

/-- Set bits from `hi` down to `lo`. -/
def maskBits (hi lo : Nat) : Nat := (2 ^ (hi + 1 - lo) - 1) * 2 ^ lo

/-- All 64 bits. -/
def maskAll : Nat := 2 ^ 64 - 1

/-- The bits that the body words of an opcode define (Table 13.5). -/
def bodyMasks (op : Nat) : Option (List Nat) :=
  match op with
  | 0x01 => some [maskBits 51 6, maskBits 31 16 + 1]
  | 0x02 => some [maskBits 51 12, maskBits 49 0, maskBits 51 5, maskBits 4 0, maskBits 51 7, maskBits 47 0, maskBits 51 6,
      maskBits 47 0]
  | 0x03 => some [1]
  | 0x04 => some [maskBits 24 24 + maskBits 20 16 + maskBits 13 8 + maskBits 7 0, maskBits 51 5]
  | 0x05 => some [maskBits 9 8 + maskBits 5 0, maskBits 51 0, maskBits 15 0]
  | 0x06 => some [maskBits 51 3, maskBits 31 0, maskBits 51 3, 1]
  | 0x07 => some (maskBits 51 3 :: List.replicate 12 maskAll)
  | 0x08 => some (maskBits 15 0 :: List.replicate 8 maskAll)
  | 0x09 => some [maskAll, maskAll, maskAll]
  | 0x0A => some [maskBits 9 8 + maskBits 5 0, maskAll, maskAll, maskAll,
      maskBits 63 32 + maskBits 21 16 + maskBits 15 8 + maskBits 4 0, maskAll]
  | 0x0B => some [maskBits 63 32 + maskBits 1 0, maskBits 31 0]
  | 0x0C => some [maskBits 47 0, maskAll, 1, maskBits 51 3, maskAll]
  | 0x0D => some [maskAll, maskAll, maskAll, maskBits 63 32 + maskBits 3 0]
  | 0x0E => some [maskAll, maskAll, maskBits 23 16 + maskBits 3 0]
  | 0x0F => some [maskAll, maskAll, maskAll, maskBits 63 32 + maskBits 5 0]
  | _ => none

/-- Words of a packet of an opcode (Table 13.4). -/
def opWords (op : Nat) : Nat :=
  match bodyMasks op with
  | some l => l.length + 1
  | none => 1

/-- An opcode for privileged queues only (Table 13.4). -/
def privOnly (op : Nat) : Bool := decide (op ≤ 8 ∨ op = 0x0B ∨ op = 0x0C)

/-- WAITMEM and COND on a 32-bit word have a reference or mask whose upper half is not zero (Table 13.5). -/
def wideRef (p : Pk) : Bool := !(bit (p.words.getD 4 0) 3) && decide (p.f 2 32 32 ≠ 0 ∨ p.f 3 32 32 ≠ 0)

/-- Reserved values of a body beside its reserved bits (Table 13.5). -/
def reservedValue (p : Pk) : Bool :=
  match p.f 0 0 8 with
  | 0x01 => decide (p.f 2 0 1 = 0 ∧ p.f 2 16 16 ≠ 0)
  | 0x02 => decide (p.f 2 48 1 = 0 ∧ p.f 2 40 8 ≠ 0) || decide (p.f 4 0 5 < 4 ∨ 16 < p.f 4 0 5)
  | 0x04 => decide (p.f 1 24 1 = 1 ∧ (p.f 1 16 5 ≠ 0 ∨ p.f 1 8 6 ≠ 0))
  | 0x05 => decide (2 ≤ p.f 1 8 2 ∨ (p.f 1 8 2 = 1 ∧ p.f 2 0 52 ≠ 0))
  | 0x0A =>
    decide (2 ≤ p.f 1 8 2 ∨ (p.f 1 8 2 = 0 ∧ (p.f 5 8 8 = 0 ∨ 32 < p.f 5 8 8 ∨ p.f 5 0 5 = 0 ∨ 16 < p.f 5 0 5)))
  | 0x0B => decide (p.f 1 0 2 = 3)
  | 0x0D => decide (6 ≤ p.f 4 0 3) || wideRef p
  | 0x0E => decide (p.f 3 0 2 = 3 ∨ (p.f 3 3 1 = 1 ∧ p.f 3 16 8 = 0))
  | 0x0F => decide (6 ≤ p.f 4 0 3 ∨ p.f 4 4 2 = 3) || wideRef p
  | _ => false

/-- Some body word has a bit set that its opcode does not define. -/
def bodyReserved (p : Pk) : Bool :=
  match bodyMasks (p.f 0 0 8) with
  | some l => ((p.words.drop 1).zip l).any fun x => decide (x.1 &&& x.2 ≠ x.1)
  | none => false

/-- The first header check of R312 that a packet fails: its error. -/
def headerError (p : Pk) : Option Nat :=
  let op := p.f 0 0 8
  if (bodyMasks op).isNone then some 0x01
  else if p.f 0 8 5 + 1 ≠ opWords op then some 0x02
  else if p.f 0 28 4 ≠ 0 ∨ p.f 0 15 1 ≠ 0 ∨ bodyReserved p ∨ (p.words.length = opWords op ∧ reservedValue p) then some 0x03
  else if privOnly op ∧ !p.queue.priv then some 0x04
  else if !p.queue.priv ∧ (p.ctx ≠ p.queue.ctx ∨ p.pa) then some 0x05
  else none

/-! ### Queues -/

/-- A queue. -/
def State.queue (s : State) (q : Nat) : Queue := mapGet {} s.arn.queues q

/-- Write a queue back, and the fields of its descriptor that Arnal writes (Table 13.2). -/
def State.putQueue (s : State) (q : Nat) (x : Queue) : State :=
  let s := { s with arn := { s.arn with queues := mapPut s.arn.queues q x } }
  let d := s.arn.qtab.toNat + 64 * q
  (s.physDw (d + 8) (x.tail ++ x.head)).physDw (d + 24)
    (BitVec.ofNat 64 (b2n x.blocked + 2 * b2n x.halted + 2 ^ 8 * x.err + 2 ^ 32 * x.retired.toNat))

/-- A word of a queue's ring (R311). -/
def State.ringWord (s : State) (x : Queue) (w : BitVec 32) : Nat :=
  (s.readDw (x.ring + 8 * (w.toNat % 2 ^ x.size))).toNat

/-- Ring words that are published from a place on. -/
def Queue.published (x : Queue) (w : BitVec 32) : Nat := (x.tail - w).toNat

/-- The packet at a ring word, as far as it is published: at most the length of its opcode. -/
def State.packetAt (s : State) (q : Nat) (x : Queue) (w : BitVec 32) : Pk :=
  let n := min (x.published w) (opWords (bits (s.ringWord x w) 0 8))
  { q, head := w, words := (List.range n).map fun i => s.ringWord x (w + BitVec.ofNat 32 i), queue := x }

/-- A packet is wholly published. -/
def Pk.whole (p : Pk) : Bool := decide (p.words ≠ [] ∧ p.words.length = opWords (p.f 0 0 8))

/-- A command error (R326): the queue halts at the packet, with a record of class 0x01. -/
def State.commandError (s : State) (q : Nat) (head tag : BitVec 32) (code : Nat) : State :=
  let x := s.queue q
  (s.putQueue q { x with halted := true, blocked := false, err := code, stage := 0 }).errorRecord 0x01 code 0xFFF
    (some (q, head, tag)) 0 0

/-- A packet has come to the head of a queue: one that is published in part has its header checked (R310), and the
timeout of WAITMEM starts with a whole one (R315). -/
def State.atHead (s : State) (q : Nat) : State :=
  let x := s.queue q
  if x.halted ∨ x.head = x.tail then s
  else
    let p := s.packetAt q x x.head
    if p.whole then
      if x.headSince.isNone then
        { s with arn := { s.arn with queues := mapPut s.arn.queues q { x with headSince := some s.clk } } }
      else s
    else
      match headerError p with
      | some c => s.commandError q x.head p.tag c
      | none => s

/-- How the execution of a packet ends. -/
inductive PEnd where
  /-- It retires. -/
  | retire (s : State)
  /-- It waits, and its queue is blocked. -/
  | stay (s : State) (stage : Nat)
  /-- It moves head, and packets retire. -/
  | move (s : State) (head : BitVec 32) (n : Nat)
  /-- A command error. -/
  | halt (s : State) (code : Nat)
  /-- It moves head, packets retire, and the packet at the new head is a command error. -/
  | stop (s : State) (head : BitVec 32) (n : Nat) (tag : BitVec 32) (code : Nat)
deriving DecidableEq, Repr

/-- A queue whose head has moved, with packets retired (R311). -/
def Queue.moved (x : Queue) (head : BitVec 32) (n : Nat) : Queue :=
  { x with head, retired := x.retired + BitVec.ofNat 32 n, blocked := false, headSince := none, stage := 0 }

/-- Move a queue's head, with packets retired (R311). -/
def State.moveHead (s : State) (q : Nat) (head : BitVec 32) (n : Nat) : State :=
  (s.putQueue q ((s.queue q).moved head n)).atHead q

/-- Bring the end of a packet to its queue. -/
def finishPacket (p : Pk) : PEnd → State
  | .retire s => s.moveHead p.q (p.head + BitVec.ofNat 32 p.words.length) 1
  | .stay s stage => s.putQueue p.q { s.queue p.q with blocked := true, stage }
  | .move s head n => s.moveHead p.q head n
  | .halt s code => s.commandError p.q p.head p.tag code
  | .stop s head n tag code => (s.putQueue p.q ((s.queue p.q).moved head n)).commandError p.q head tag code

/-- A packet stands whole at the head of its queue, which serves it. -/
def State.serves (s : State) (p : Packet) : Bool :=
  let x := s.queue p.queue.toNat
  s.arn.enable && !s.health.tripped && x.latched && x.enable && !x.halted && !x.blocked && decide (x.head = p.head) &&
  decide (p.words.length ≤ x.published x.head)

/-- Execute a packet of an opcode (R312): its header is checked, then its body runs. -/
def runPacket (body : Pk → State → PEnd) (p : Pk) (s : State) : State :=
  let p := { p with queue := s.queue p.q }
  match headerError p with
  | some c => s.commandError p.q p.head p.tag c
  | none => finishPacket p (body p s)

/-- The event of a packet's execution: `here` tells whether its words are those of the event's packet. -/
def packetEvent (here : Pk → Bool) (body : Pk → State → PEnd) (p : Packet) (s : State) :
    Host.Outcome State Fault Refusal :=
  let k : Pk := { q := p.queue.toNat, head := p.head, words := p.words.map BitVec.toNat, queue := s.queue p.queue.toNat }
  .next (if s.serves p && k.whole && here k then runPacket body k s else s)

/-- A packet has an opcode. -/
def Pk.is (p : Pk) (op : Nat) : Bool := decide (p.f 0 0 8 = op)

/-! ### Contexts and addresses of packets -/

/-- The packet's context is live and not ending, or error 0x05 (R312). -/
def Pk.withCtx (p : Pk) (s : State) (go : Context → PEnd) : PEnd :=
  match mapFind s.ctxs p.ctx with
  | some c => if c.ending then .halt s 0x05 else go c
  | none => .halt s 0x05

/-- An address of a packet (R312): physical under PA, else translated under the context's tree at the L2 boundary; none
where it fails translation, permission or alignment. A physical address grants no access to the reserved region, to
memory that does not exist, or to a frame that is owned or being scrubbed, which only its own husk's ways hold in the
clear (R352, log 49). The answer has the leaf too, zero for a physical address. -/
def Pk.placeLeaf (p : Pk) (s : State) (a : Word) (align : Nat) (need : Need) : Option (Nat × Word) × State :=
  if a.toNat % align ≠ 0 then (none, s)
  else if p.pa then (if s.closed a.toNat then none else some (a.toNat, 0), s)
  else
    match s.translate none p.ctx a need (b2n need.w) with
    | (.ok pa pte, s) => if need.r && !(s.readable pte pa align) then (none, s) else (some (pa, pte), s)
    | (.fail _, s) => (none, s)

/-- The physical address of an address of a packet. -/
def Pk.place (p : Pk) (s : State) (a : Word) (align : Nat) (need : Need) : Option Nat × State :=
  let r := p.placeLeaf s a align need
  (r.1.map Prod.fst, r.2)

/-- A queue waits no longer to destroy a husk (R310, R347). -/
def State.endDestroy (s : State) (q : Nat) : State :=
  { s with prot := { s.prot with
      husks := mapAll s.prot.husks fun _ h => { h with dying := h.dying.filter fun k => decide (k ≠ q) } } }

/-- A checkpoint holds packets that change contexts at their queues' heads (R393), and scrubs resumed by a warm reset
hold those that would use what they clear (R368). -/
def State.holdsPacket (s : State) (op : Nat) : Bool :=
  (s.ckpt.isSome && [0x01, 0x02, 0x03, 0x04, 0x05, 0x06].contains op) ||
  (s.prot.recovering && [0x01, 0x02, 0x04, 0x05, 0x09, 0x0A].contains op)

/-- An earlier LAUNCH or NODE of a queue has not ended on this module (R316). -/
def State.queueBusy (s : State) (q : Nat) : Bool :=
  (s.launches.any fun l => decide (l.2.queue = some q)) || s.nodes.any fun n => decide (n.2.queue = q)

/-- What every body does first: it waits under a checkpoint, after a warm reset, and for SER. -/
def held (body : Pk → State → PEnd) (p : Pk) (s : State) : PEnd :=
  if s.holdsPacket (p.f 0 0 8) || (p.ser && decide (p.queue.stage = 0) && s.queueBusy p.q) then .stay s p.queue.stage
  else body p s

end Sys2Proof.Machine
end

