-- ==== Sys2Proof/Machine/SlhDsa.lean ====
section
/-! DEFINITION. SLH-DSA-SHAKE-256s (FIPS 205): signing, which R361 names, and verification, which R388 names: n = 32, h = 64, d = 8, h' = 8, a = 14,
k = 22, w = 16. A private key is SK.seed, SK.prf, PK.seed and PK.root, 128 bytes; its last 64 bytes are the public
key. -/
namespace Sys2Proof.Machine

/-! ### Hashes and addresses -/

/-- An address: layer, tree, type and three further words. -/
structure SlhAdrs where
  layer : Nat := 0
  tree : Nat := 0
  kind : Nat := 0
  key : Nat := 0
  height : Nat := 0
  index : Nat := 0
deriving DecidableEq, Repr

/-- A number as `n` bytes, most significant first. -/
def toBe (n x : Nat) : List Byte := (leBytes n x).reverse

/-- A number from bytes, most significant first. -/
def ofBe (l : List Byte) : Nat := leNat l.reverse

/-- The 32 bytes of an address. -/
def SlhAdrs.bytes (a : SlhAdrs) : List Byte :=
  toBe 4 a.layer ++ toBe 12 a.tree ++ toBe 4 a.kind ++ toBe 4 a.key ++ toBe 4 a.height ++ toBe 4 a.index

/-- The tweakable hash of a message under PK.seed and an address: F, H, T and, with a seed as the message, PRF. -/
def slhHash (pk : List Byte) (a : SlhAdrs) (m : List Byte) : List Byte := shake256 (pk ++ a.bytes ++ m) 32

/-- The first `n` numbers of `b` bits in bytes, most significant first. -/
def base2b (b n : Nat) (l : List Byte) : List Nat :=
  (List.range n).map fun i => ofBe l / 2 ^ (8 * l.length - b * (i + 1)) % 2 ^ b

/-! ### One-time signatures -/

/-- `n` steps of a chain from step `i` on. -/
def slhChain (pk : List Byte) (a : SlhAdrs) (x : List Byte) (i : Nat) : Nat → List Byte
  | 0 => x
  | n + 1 => slhChain pk a (slhHash pk { a with index := i } x) (i + 1) n

/-- Element `i` of a one-time key after `n` steps. -/
def wotsElem (sk pk : List Byte) (a : SlhAdrs) (i n : Nat) : List Byte :=
  slhChain pk { a with kind := 0, height := i } (slhHash pk { a with kind := 5, height := i, index := 0 } sk) 0 n

/-- The public key of a one-time key. -/
def wotsKey (sk pk : List Byte) (a : SlhAdrs) : List Byte :=
  slhHash pk { a with kind := 1, height := 0, index := 0 } ((List.range 67).flatMap fun i => wotsElem sk pk a i 15)

/-- The digits of a message and of its checksum. -/
def wotsDigits (m : List Byte) : List Nat :=
  let d := base2b 4 64 m
  d ++ base2b 4 3 (toBe 2 (16 * (d.map fun x => 15 - x).sum))

/-- Sign 32 bytes with a one-time key. -/
def wotsSign (sk pk : List Byte) (a : SlhAdrs) (m : List Byte) : List Byte :=
  (wotsDigits m).zipIdx.flatMap fun x => wotsElem sk pk a x.2 x.1

/-! ### Trees -/

/-- Node `i` at height `z` of a tree of one-time keys. -/
def xmssNode (sk pk : List Byte) (a : SlhAdrs) : Nat → Nat → List Byte
  | 0, i => wotsKey sk pk { a with key := i }
  | z + 1, i =>
    slhHash pk { a with kind := 2, key := 0, height := z + 1, index := i }
      (xmssNode sk pk a z (2 * i) ++ xmssNode sk pk a z (2 * i + 1))

/-- Sign 32 bytes with a leaf of a tree. -/
def xmssSign (sk pk : List Byte) (a : SlhAdrs) (leaf : Nat) (m : List Byte) : List Byte :=
  wotsSign sk pk { a with key := leaf } m ++
    (List.range 8).flatMap fun j => xmssNode sk pk a j ((leaf / 2 ^ j) ^^^ 1)

/-- Sign 32 bytes with the trees from a layer up: each signs the root of the one below it. -/
def treesSign (sk pk : List Byte) (layer tree leaf : Nat) (m : List Byte) : Nat → List Byte
  | 0 => []
  | n + 1 =>
    let a : SlhAdrs := { layer, tree }
    xmssSign sk pk a leaf m ++ treesSign sk pk (layer + 1) (tree / 256) (tree % 256) (xmssNode sk pk a 8 0) n

/-! ### Few-time signatures -/

/-- Secret element `i` of a few-time key. -/
def forsElem (sk pk : List Byte) (a : SlhAdrs) (i : Nat) : List Byte := slhHash pk { a with kind := 6, height := 0, index := i } sk

/-- Node `i` at height `z` of the trees of a few-time key. -/
def forsNode (sk pk : List Byte) (a : SlhAdrs) : Nat → Nat → List Byte
  | 0, i => slhHash pk { a with kind := 3, height := 0, index := i } (forsElem sk pk a i)
  | z + 1, i =>
    slhHash pk { a with kind := 3, height := z + 1, index := i }
      (forsNode sk pk a z (2 * i) ++ forsNode sk pk a z (2 * i + 1))

/-- Sign with a few-time key: for each index the secret element and its path. -/
def forsSign (sk pk : List Byte) (a : SlhAdrs) (idx : List Nat) : List Byte :=
  idx.zipIdx.flatMap fun x =>
    forsElem sk pk a (2 ^ 14 * x.2 + x.1) ++
      (List.range 14).flatMap fun j => forsNode sk pk a j (2 ^ (14 - j) * x.2 + ((x.1 / 2 ^ j) ^^^ 1))

/-- The public key of a few-time key. -/
def forsKey (sk pk : List Byte) (a : SlhAdrs) : List Byte :=
  slhHash pk { a with kind := 4, height := 0, index := 0 } ((List.range 22).flatMap fun i => forsNode sk pk a 14 i)

/-! ### The scheme -/

/-- Sign a message with a private key and 32 random bytes: pure SLH-DSA with an empty context string. -/
def slhSign (key rnd m : List Byte) : List Byte :=
  let key := fixLen 128 key
  let sk := key.take 32
  let pk := (key.drop 64).take 32
  let m := [0, 0] ++ m
  let r := shake256 ((key.drop 32).take 32 ++ fixLen 32 rnd ++ m) 32
  let g := shake256 (r ++ pk ++ key.drop 96 ++ m) 47
  let tree := ofBe ((g.drop 39).take 7)
  let leaf := ofBe (g.drop 46)
  let a : SlhAdrs := { tree, key := leaf }
  r ++ forsSign sk pk a (base2b 14 22 (g.take 39)) ++ treesSign sk pk 0 tree leaf (forsKey sk pk a) 8

/-! ### Verification -/

/-- Part `i` of 32 bytes of a signature. -/
def slhPart (sig : List Byte) (i : Nat) : List Byte := (sig.drop (32 * i)).take 32

/-- The one-time public key that a signature of 32 bytes gives. -/
def wotsFrom (pk : List Byte) (a : SlhAdrs) (sig m : List Byte) : List Byte :=
  slhHash pk { a with kind := 1, height := 0, index := 0 }
    ((wotsDigits m).zipIdx.flatMap fun x =>
      slhChain pk { a with kind := 0, height := x.2 } (slhPart sig x.2) x.1 (15 - x.1))

/-- The root to which a path leads from node `i` at height `z`; the rest of a tree's address is `a`. -/
def pathRoot (pk : List Byte) (a : SlhAdrs) (node : List Byte) (z i : Nat) : List (List Byte) → List Byte
  | [] => node
  | y :: r =>
    let up := if i % 2 = 0 then node ++ y else y ++ node
    pathRoot pk a (slhHash pk { a with height := z + 1, index := i / 2 } up) (z + 1) (i / 2) r

/-- The root of the topmost tree that the signatures of the trees from a layer up give. -/
def treesRoot (pk : List Byte) (layer tree leaf : Nat) (sig m : List Byte) : Nat → List Byte
  | 0 => m
  | n + 1 =>
    let a : SlhAdrs := { layer, tree }
    let root := pathRoot pk { a with kind := 2 } (wotsFrom pk { a with key := leaf } sig m) 0 leaf
      ((List.range 8).map fun j => slhPart sig (67 + j))
    treesRoot pk (layer + 1) (tree / 256) (tree % 256) (sig.drop (32 * 75)) root n

/-- The few-time public key that a signature gives. -/
def forsFrom (pk : List Byte) (a : SlhAdrs) (sig : List Byte) (idx : List Nat) : List Byte :=
  slhHash pk { a with kind := 4, height := 0, index := 0 }
    (idx.zipIdx.flatMap fun x =>
      let i := 2 ^ 14 * x.2 + x.1
      let a := { a with kind := 3 }
      pathRoot pk a (slhHash pk { a with height := 0, index := i } (slhPart sig (15 * x.2))) 0 i
        ((List.range 14).map fun j => slhPart sig (15 * x.2 + 1 + j)))

/-- A signature of 29,792 bytes verifies under a public key of 64 bytes: pure SLH-DSA with an empty context string. -/
def slhVerify (key m sig : List Byte) : Bool :=
  let key := fixLen 64 key
  let pk := key.take 32
  let r := sig.take 32
  let g := shake256 (r ++ key ++ [0, 0] ++ m) 47
  let tree := ofBe ((g.drop 39).take 7)
  let leaf := ofBe (g.drop 46)
  let m := forsFrom pk { tree, key := leaf } (sig.drop 32) (base2b 14 22 (g.take 39))
  decide (sig.length = 29792 ∧ treesRoot pk 0 tree leaf (sig.drop (32 * 331)) m 8 = key.drop 32)

end Sys2Proof.Machine
end

