-- ==== Sys2Proof/Machine/Contexts.lean ====
section
/-! DEFINITION. Contexts and their tables: CTXNEW, CTXEND, GRIDTAB, LAYOUT (R317 to R319), and the root measurement
(R360). -/
namespace Sys2Proof.Machine

/-- Extend the root measurement of a protected context (R360). -/
def State.extend (s : State) (ctx ty : Nat) (l : List Byte) : State :=
  s.modCtx ctx fun c => if c.prot then { c with measure := shake512 (c.measure ++ BitVec.ofNat 8 ty :: l) } else c

/-! ### CTXNEW -/

/-- The root capability of a husk as 32 bytes. -/
def State.huskRoot (s : State) (husk : Nat) : BitVec 256 :=
  match mapFind s.prot.husks husk with
  | some h => h.root
  | none => 0

/-- A husk that a context may be bound to: it exists, and no destroy waits (R347). -/
def State.huskLive (s : State) (husk : Nat) : Bool :=
  match mapFind s.prot.husks husk with
  | some h => h.dying.isEmpty
  | none => false

/-- The body of CTXNEW (R317). -/
def ctxnewBody (p : Pk) (s : State) : PEnd :=
  let id := p.ctx
  let asid := BitVec.ofNat 16 (p.f 2 0 16)
  let prot := bit (p.words.getD 2 0) 48
  let husk := p.f 2 40 8
  if id = 0xFFF ∨ (mapFind s.ctxs id).isSome ∨ s.ctxs.any fun e => decide (e.2.asid = asid) then .halt s 0x07
  else if 1024 ≤ s.ctxs.length then .halt s 0x08
  else if (mapFind s.lastGen id).any (fun g => decide (p.f 2 16 24 ≤ g)) ∨ (prot ∧ !(s.huskLive husk)) then .halt s 0x09
  else
    let body := dwBytes ((p.words.drop 1).map (BitVec.ofNat 64))
    let c : Context :=
      { asid, root := BitVec.ofNat 52 (4096 * p.f 1 12 40), cgen := BitVec.ofNat 24 (p.f 2 16 24), prot, husk
        bkpt := bit (p.words.getD 2 0) 49, fq := 32 * p.f 3 5 47, fqlog := p.f 4 0 5, save := 128 * p.f 5 7 45
        savelen := p.f 6 0 48, ltab := 64 * p.f 7 6 46, lcount := p.f 8 0 16, hang := p.f 8 16 32
        measure :=
          if prot then shake512 (ascii "VRS5 CTX" ++ body ++ leBytes 32 (s.huskRoot husk).toNat) else [] }
    .retire { s with ctxs := mapPut s.ctxs id c, lastGen := mapPut s.lastGen id (p.f 2 16 24) }

/-- CTXNEW (R317). -/
def execCtxnew (p : Packet) (s : State) : Host.Outcome State Fault Refusal :=
  packetEvent (fun k => k.is 0x02) (held ctxnewBody) p s

/-! ### Grid tables -/

/-- Remove an installed table: what roots hold on it is dropped, and remote accesses that wait on it are refused. -/
def State.dropTable (s : State) (tid : Nat) : State :=
  let s := { s with
    grids := mapErase s.grids tid
    fab := { s.fab with reds := s.fab.reds.filter fun r => !(decide (r.2.head.gtid.toNat = tid)) } }
  (s.fab.remote.filter fun r => decide (r.2.frame.gtid.toNat = tid)).foldl (fun s r => s.failRemote r.1 0x13) s

/-- A launch on a table lies between acceptance and start-barrier release (R318). -/
def State.tablePending (s : State) (tid : Nat) : Bool :=
  s.launches.any fun l =>
    decide (l.2.node = none ∧ l.2.field 12 0 16 = tid) &&
    (match l.2.stage with
     | .waiting _ => true
     | .placing => false)

/-- Read a grid table and check it against R29 and R372: its ID and contents. -/
def State.readTable (s : State) (ctx pa : Nat) : Option (Nat × GridTable) :=
  let d := fun (i : Nat) => (s.readDw (pa + 8 * i)).toNat
  let axes := bits (d 0) 0 3
  let sizes := BitVec.ofNat 55 (bits (d 1) 0 55)
  let size := fun (a : Nat) => bits (d 1) (11 * a) 11
  let count := bits (d 2) 0 11
  let product := ((List.range 5).map (axisSize axes sizes)).foldl (· * ·) 1
  let headOk := decide (1 ≤ axes ∧ axes ≤ 5 ∧ bits (d 0) 3 13 = 0 ∧ bits (d 1) 55 9 = 0 ∧ bits (d 2) 11 53 = 0) &&
    (List.range 5).all (fun i => decide (d (3 + i) = 0)) &&
    (List.range 5).all (fun a => if a < axes then decide (1 ≤ size a ∧ size a ≤ 1536) else decide (size a ≤ 1)) &&
    decide (count = product ∧ count ≤ 1536)
  if !headOk then none
  else
    let ports := (List.range count).map fun r => d (8 + r)
    let mbase := bits (ports.headD 0) 0 11
    let entryOk := fun (r : Nat) =>
      decide (ports.getD r 0 = 2 ^ 63 + 2 ^ 32 * s.cfg.domain.toNat + mbase + r)
    if (List.range count).all entryOk ∧ mbase + count ≤ 1536 then
      some (bits (d 0) 16 16,
        { ctx, gen := BitVec.ofNat 32 (bits (d 0) 32 32), axes, sizes, count
          ports := ports.map fun x => BitVec.ofNat 48 x })
    else none

/-- The body of GRIDTAB install (R318). -/
def gridtabInstallBody (p : Pk) (s : State) : PEnd :=
  p.withCtx s fun _ =>
    let pa := 64 * p.f 1 6 46
    match s.readTable p.ctx pa with
    | none => .halt s 0x09
    | some (tid, t) =>
      if (mapFind s.grids tid).isNone ∧ 64 ≤ s.grids.length then .halt s 0x08
      else if s.tablePending tid then .stay s 1
      else
        let s := s.dropTable tid
        .retire ({ s with grids := mapPut s.grids tid t }.extend p.ctx 3 (s.mem.read pa (64 + 8 * t.count)))

/-- GRIDTAB_INSTALL (R318). -/
def execGridtabInstall (p : Packet) (s : State) : Host.Outcome State Fault Refusal :=
  packetEvent (fun k => k.is 0x01 && decide (k.f 2 0 1 = 0)) (held gridtabInstallBody) p s

/-- The body of GRIDTAB remove (R318). -/
def gridtabRemoveBody (p : Pk) (s : State) : PEnd :=
  p.withCtx s fun _ =>
    let tid := p.f 2 16 16
    match mapFind s.grids tid with
    | none => .halt s 0x09
    | some t =>
      if t.ctx ≠ p.ctx then .halt s 0x09
      else if s.tablePending tid then .stay s 1
      else .retire (s.dropTable tid)

/-- GRIDTAB_REMOVE (R318). -/
def execGridtabRemove (p : Packet) (s : State) : Host.Outcome State Fault Refusal :=
  packetEvent (fun k => k.is 0x01 && decide (k.f 2 0 1 = 1)) (held gridtabRemoveBody) p s

/-! ### LAYOUT -/

/-- The body of LAYOUT (R319). -/
def layoutBody (p : Pk) (s : State) : PEnd :=
  p.withCtx s fun c =>
    let h := p.f 1 0 16
    let entry := dwBytes ((p.words.drop 2).map (BitVec.ofNat 64))
    if c.lcount ≤ h ∨ p.f 2 0 12 ≠ p.ctx then .halt s 0x09
    else .retire ((s.physWrite (c.ltab + 64 * h) entry).extend p.ctx 2 (leBytes 2 h ++ entry))

/-- LAYOUT (R319). -/
def execLayout (p : Packet) (s : State) : Host.Outcome State Fault Refusal :=
  packetEvent (fun k => k.is 0x08) (held layoutBody) p s

/-! ### CTXEND -/

/-- A block of a context is resident or waiting for placement, or one of its operations is in flight (R317). Blocks of
a parked context that is saved are neither. -/
def State.ctxBusy (s : State) (ctx : Nat) (c : Context) : Bool :=
  (s.blocks.any fun b => decide (b.2.ctx = ctx)) || (s.fab.gridOps.any fun g => decide (g.2.ctx = ctx)) ||
  (s.launches.any fun l =>
    decide (l.2.ctx = ctx) &&
    (match l.2.stage with
     | .waiting _ => true
     | .placing => decide (l.2.next < l.2.last))) ||
  ((c.saved || !c.unplaced.isEmpty) && !c.parked) || c.preempt.isSome

/-- Release a context (R317): its grid tables and nodes, the invalidation of its ASID, then its ID. -/
def State.releaseCtx (s : State) (ctx : Nat) (c : Context) : State :=
  let tables := (s.grids.filter fun e => decide (e.2.ctx = ctx)).map Prod.fst
  let s := tables.foldl (fun s t => s.dropTable t) s
  let s := { s with
    nodes := s.nodes.filter fun e => !(decide (e.2.ctx = ctx))
    launches := s.launches.filter fun e => !(decide (e.2.ctx = ctx)) }
  let s := s.invalidate (1, c.asid, 0, 0)
  { s with ctxs := mapErase s.ctxs ctx }

/-- The body of CTXEND (R317): with force, level 3 first; then it waits until the context's work has drained and its
scrub has completed (R365). -/
def ctxendBody (p : Pk) (s : State) : PEnd :=
  match mapFind s.ctxs p.ctx with
  | none => .halt s 0x05
  | some c =>
    let s := if bit (p.words.getD 1 0) 0 ∧ !c.dead then s.forcedReset p.ctx 0x08 (some p.name) noBlockD0 false none else s
    let s := s.modCtx p.ctx fun c => { c with ending := true }
    match mapFind s.ctxs p.ctx with
    | none => .retire s
    | some c => if s.ctxBusy p.ctx c ∨ c.scrub.isSome then .stay s 1 else .retire (s.releaseCtx p.ctx c)

/-- CTXEND (R317). -/
def execCtxend (p : Packet) (s : State) : Host.Outcome State Fault Refusal :=
  packetEvent (fun k => k.is 0x03) (held ctxendBody) p s

end Sys2Proof.Machine
end

