-- ==== Sys2Proof/Machine/Protected.lean ====
section
/-! DEFINITION. Husks and key slots (R346, R347, R350), attestation (R349, R361), and the scrub engine (R363 to
R367). -/
namespace Sys2Proof.Machine

/-! ### Husks and key slots -/

/-- An unfinished scrub holds a key slot (R365). -/
def State.slotHeld (s : State) (slot : Nat) : Bool := s.prot.scrubs.any fun e => e.2.prot && decide (e.2.slot = slot)

/-- The body of HUSK create (R347). -/
def huskCreateBody (p : Pk) (s : State) : PEnd :=
  let n := p.f 1 0 8
  let slot := p.f 1 8 6
  let ways := p.f 1 16 5
  if s.slotHeld slot then .stay s 1
  else if (mapFind s.prot.husks n).isSome then .halt s 0x07
  else if ways = 0 ∨ 12 < ways then .halt s 0x03
  else
    let root : BitVec 256 := BitVec.ofNat 256 (leNat (s.mem.read (32 * p.f 2 5 47) 32))
    let c : Cap := { bits := root }
    if c.rsvd ≠ 0 ∨ c.otype ≠ 0 then .halt s 0x09
    else .retire { s with prot := { s.prot with husks := mapPut s.prot.husks n { slot, ways, root } } }

/-- HUSK_CREATE (R347). -/
def execHuskCreate (p : Packet) (s : State) : Host.Outcome State Fault Refusal :=
  packetEvent (fun k => k.is 0x04 && decide (k.f 1 24 1 = 0)) (held huskCreateBody) p s

/-- Zeroise a key slot. -/
def State.zeroise (s : State) (slot : Nat) : State := { s with prot := { s.prot with keys := mapErase s.prot.keys slot } }

/-- A husk names a key slot. -/
def State.slotNamed (s : State) (slot : Nat) : Bool := s.prot.husks.any fun h => decide (h.2.slot = slot)

/-- Contexts bound to a husk. -/
def State.huskCtxs (s : State) (husk : Nat) : Map Context :=
  s.ctxs.filter fun c => c.2.prot && decide (c.2.husk = husk)

/-- The body of HUSK destroy (R347). -/
def huskDestroyBody (p : Pk) (s : State) : PEnd :=
  let n := p.f 1 0 8
  match mapFind s.prot.husks n with
  | none => .halt s 0x09
  | some h =>
    if (s.huskCtxs n).any fun c => !c.2.ending then .halt (s.endDestroy p.q) 0x07
    else if !(s.huskCtxs n).isEmpty ∨ s.prot.scrubs.any fun e => e.2.prot && decide (e.2.husk = n) then
      .stay { s with prot := { s.prot with
        husks := mapPut s.prot.husks n { h with dying := p.q :: h.dying.filter fun q => decide (q ≠ p.q) } } } 1
    else
      let s := { s with prot := { s.prot with husks := mapErase s.prot.husks n } }
      .retire (if s.slotNamed h.slot then s else s.zeroise h.slot)

/-- HUSK_DESTROY (R347). -/
def execHuskDestroy (p : Packet) (s : State) : Host.Outcome State Fault Refusal :=
  packetEvent (fun k => k.is 0x04 && decide (k.f 1 24 1 = 1)) (held huskDestroyBody) p s

/-- The key pair of the n-th generation (R349): encapsulation and decapsulation key. -/
def keyPair (n : Nat) : List Byte × List Byte :=
  let seed := fixLen 64 (Config.mlKemSeed n)
  mlKemKeys (seed.take 32) (seed.drop 32)

/-- Unwrap a key blob with the decapsulation key of a generation and its th (R350, Table 15.1). -/
def unwrapBlob (dk : Nat × List Byte) (blob : List Byte) : Option (List Byte) :=
  let ss := mlKemDecaps (keyPair dk.1).2 (blob.take 1568)
  aesKwUnwrap (shake256 (ss ++ dk.2 ++ ascii "VRS5 KEK") 32) (blob.drop 1568)

/-- The body of KEYSLOT load (R350): the decapsulation key is destroyed whether the load succeeds or fails. -/
def keyslotLoadBody (p : Pk) (s : State) : PEnd :=
  p.withCtx s fun c =>
    let slot := p.f 1 0 6
    if s.slotHeld slot then .stay s 1
    else
      let t := s.modCtx p.ctx fun c => { c with dk := none }
      let named := match mapFind s.prot.husks c.husk with
        | some h => decide (h.slot = slot)
        | none => false
      if (mapFind s.prot.keys slot).isSome then .halt t 0x07
      else
        match c.dk with
        | none => .halt t 0x09
        | some dk =>
          if !c.prot ∨ !named ∨ p.f 3 0 16 ≠ 1672 then .halt t 0x09
          else
            let blob := s.mem.read (p.f 2 0 52) 1672
            match unwrapBlob dk blob with
            | none => .halt t 0x09
            | some k =>
              .retire ({ t with prot := { t.prot with keys := mapPut t.prot.keys slot k } }.extend p.ctx 4
                (BitVec.ofNat 8 slot :: shake512 blob))

/-- KEYSLOT_LOAD (R350). -/
def execKeyslotLoad (p : Packet) (s : State) : Host.Outcome State Fault Refusal :=
  packetEvent (fun k => k.is 0x05 && decide (k.f 1 8 2 = 0)) (held keyslotLoadBody) p s

/-- The body of KEYSLOT zeroise (R350). -/
def keyslotZeroiseBody (p : Pk) (s : State) : PEnd :=
  let slot := p.f 1 0 6
  if s.slotHeld slot then .stay s 1
  else if s.slotNamed slot then .halt s 0x07
  else .retire (s.zeroise slot)

/-- KEYSLOT_ZEROISE (R350). -/
def execKeyslotZeroise (p : Packet) (s : State) : Host.Outcome State Fault Refusal :=
  packetEvent (fun k => k.is 0x05 && decide (k.f 1 8 2 = 1)) (held keyslotZeroiseBody) p s

/-! ### Attestation -/

/-- The identity public key: the last half of the private key (Table 15.5, FIPS 205). -/
def State.idPublic (s : State) : List Byte := (fixLen 128 s.cfg.idkey).drop 64

/-- A signature with the device identity key. -/
def State.sign (s : State) (l : List Byte) : List Byte := slhSign s.cfg.idkey (Config.slhRandom l) l

/-- Bytes 0 to 2,591 of the device report (Table 15.5). -/
def State.report (s : State) (ctx : Nat) (c : Context) (nonce th ek : List Byte) : List Byte :=
  let slot := match mapFind s.prot.husks c.husk with
    | some h => if c.prot then h.slot else 0
    | none => 0
  let loaded := c.prot && (mapFind s.prot.keys slot).isSome
  leBytes 8 (1 + 2 ^ 32 * 0x57204154) ++
  leBytes 8 (ctx + 2 ^ 12 * (if c.prot then c.husk else 0) + 2 ^ 20 * slot + 2 ^ 26 * b2n c.prot + 2 ^ 27 * b2n c.bkpt +
    2 ^ 28 * b2n loaded + 2 ^ 32 * c.cgen.toNat) ++
  leBytes 8 s.clk ++ leBytes 8 (s.warmResets.toNat + 2 ^ 32 * Config.arnId.toNat) ++ fixLen 64 Config.romMeasure ++
  fixLen 64 s.cfg.digest ++ fixLen 64 c.measure ++ nonce ++ th ++ s.idPublic ++ shake512 ek ++ List.replicate 576 0 ++ ek

/-- The body of ATTEST (R349, R361). -/
def attestBody (p : Pk) (s : State) : PEnd :=
  p.withCtx s fun c =>
    let n := s.prot.keygens
    let ek := (keyPair n).1
    let body := dwBytes ((p.words.drop 2).map (BitVec.ofNat 64))
    let th := body.drop 32
    let s := { s with prot := { s.prot with keygens := n + 1 } }
    let s := s.modCtx p.ctx fun c => { c with dk := some (n, th) }
    let r := s.report p.ctx c (body.take 32) th ek
    .retire (s.physWrite (8 * p.f 1 3 49) (r ++ s.sign r))

/-- ATTEST (R361). -/
def execAttest (p : Packet) (s : State) : Host.Outcome State Fault Refusal :=
  packetEvent (fun k => k.is 0x07) (held attestBody) p s

/-! ### Scrubs -/

/-- Bytes of a page of a size code (R363). -/
def scrubSize (code : Nat) : Nat :=
  match code with
  | 0 => 2 ^ 16
  | 1 => 2 ^ 21
  | 2 => 2 ^ 27
  | _ => 2 ^ 30

/-- The pages of a list: physical address and bytes. -/
def State.pageList (s : State) (pa n : Nat) : List (Nat × Nat) :=
  (List.range n).map fun i =>
    let e := (s.readDw (pa + 8 * i)).toNat
    (bits e 16 36 * 65536, scrubSize (bits e 0 2))

/-- The frames of a page; those of the reserved region are never scrubbed (R390). -/
def State.pageFrames (s : State) (x : Nat × Nat) : List Nat :=
  ((List.range (x.2 / 65536)).map fun i => x.1 / 65536 + i).filter fun f => !(s.inRegion (65536 * f))

/-- A page list is refused (R363). -/
def State.listBad (s : State) (ctx rcpt n : Nat) (l : List (Nat × Nat)) : Bool :=
  decide (n = 0 ∨ 65536 < n) ||
  l.any (fun x =>
    decide (x.1 % x.2 ≠ 0) || decide (x.1 ≤ rcpt ∧ rcpt < x.1 + x.2) ||
    (s.pageFrames x).any fun f =>
      let o := s.owner f
      decide ((o.state = 1 ∨ o.state = 2) ∧ o.ctx ≠ ctx)) ||
  decide ((s.owner (frameOf rcpt)).state = 1)

/-- Mark a frame as scrubbing under a number: true where it was not yet. -/
def State.markFrame (s : State) (x : Scrub) (f : Nat) : Bool × State :=
  let o := s.owner f
  if o.state = 2 then (false, s)
  else
    let o := { o with
      state := 2, husk := x.husk, ctx := x.ctx, seq := x.seq, retired := o.retired || decide (o.state = 3) }
    (true, s.putOwner f o)

/-- Mark frames in order: those newly marked. -/
def State.markFrames (s : State) (x : Scrub) : List Nat → List Nat × State
  | [] => ([], s)
  | f :: r =>
    let (new, s) := s.markFrame x f
    let (l, s) := s.markFrames x r
    (if new then f :: l else l, s)

/-- The scrub progress register (Table 15.6). -/
def Scrub.register (x : Scrub) (clk : Nat) : List Byte :=
  dwBytes ([0x57205350 + 2 ^ 32 * x.seq.toNat, x.doneFrames + 2 ^ 32 * x.total, x.exc.length + 2 ^ 32 * x.resets,
    x.state + 2 ^ 4 * x.ctx + 2 ^ 16 * x.husk + 2 ^ 24 * x.slot, x.bootStart.toNat, clk, 0, 0].map (BitVec.ofNat 64))

/-- The scrub record of a scrub (R353): the manual names its fields and not their places (log 47). -/
def Scrub.record (x : Scrub) : List Byte :=
  dwBytes ([x.seq.toNat + 2 ^ 32 * x.state + 2 ^ 40 * b2n x.prot + 2 ^ 48 * x.resets, x.ctx + 2 ^ 16 * x.husk + 2 ^ 24 * x.slot,
    x.rcpt.getD 0, x.doneFrames + 2 ^ 32 * x.total, x.exc.length + 2 ^ 32 * x.retiredFrames].map (BitVec.ofNat 64)) ++
  fixLen 24 (Config.scrubHash x.lists)

/-- Write a scrub back, and its record in the reserved region: 64 places in turn (R353, R390). -/
def State.setScrub (s : State) (x : Scrub) : State :=
  { s with prot := { s.prot with scrubs := mapPut s.prot.scrubs x.accepted x } }.putRegion
    (65536 + 64 * (x.accepted % 64)) x.record

/-- A scrub that has completed leaves its place. -/
def State.dropScrub (s : State) (x : Scrub) : State :=
  { s with prot := { s.prot with scrubs := mapErase s.prot.scrubs x.accepted } }.putRegion
    (65536 + 64 * (x.accepted % 64)) (List.replicate 64 0)

/-- Write a scrub back, with its progress register where it has one (R366). -/
def State.putScrub (s : State) (x : Scrub) : State :=
  let s := s.setScrub x
  match x.rcpt with
  | some pa => s.physWrite pa (x.register s.clk)
  | none => s

/-- The body of SCRUB with cont = 0 (R363). -/
def scrubStartBody (p : Pk) (s : State) : PEnd :=
  p.withCtx s fun c =>
    let ctx := p.ctx
    let rcpt := 8 * p.f 3 3 49
    let list := 8 * p.f 1 3 49
    let n := p.f 2 0 32
    if s.ctxBusy ctx c ∨ 64 ≤ s.prot.scrubs.length then .stay s 1
    else
      let l := s.pageList list (min n 65537)
      if s.listBad ctx rcpt n l then .halt s 0x09
      else
        let seq := s.prot.scrubSeq + 1
        let slot := match mapFind s.prot.husks c.husk with
          | some h => if c.prot then h.slot else 0
          | none => 0
        let x : Scrub :=
          { seq, state := 1, ctx, husk := if c.prot then c.husk else 0, slot, prot := c.prot, rcpt := some rcpt, todo := []
            total := 0, lists := s.mem.read list (8 * n), start := BitVec.ofNat 64 s.clk
            bootStart := BitVec.ofNat 64 s.clk, measure := c.measure, cores := c.cores
            accepted := mapNext s.prot.scrubs }
        let (todo, s) := s.markFrames x (l.flatMap s.pageFrames)
        let owned := (s.prot.owners.filter fun o => decide (o.2.state = 1 ∧ o.2.ctx = ctx)).map Prod.fst
        let (rest, s) := s.markFrames x owned
        let s := { s with prot := { s.prot with scrubSeq := seq } }
        let s := s.putScrub { x with todo, rest, total := todo.length + rest.length }
        .retire (s.modCtx ctx fun c => { c with ending := true, scrub := some x.accepted })

/-- SCRUB_START (R363). -/
def execScrubStart (p : Packet) (s : State) : Host.Outcome State Fault Refusal :=
  packetEvent (fun k => k.is 0x06 && decide (k.f 4 0 1 = 0)) (held scrubStartBody) p s

/-- The body of SCRUB with cont = 1 (R363). -/
def scrubContinueBody (p : Pk) (s : State) : PEnd :=
  match mapFind s.ctxs p.ctx with
  | none => .halt s 0x05
  | some c =>
    match c.scrub.bind (mapFind s.prot.scrubs) with
    | none => .halt s 0x09
    | some x =>
      let n := p.f 2 0 32
      let list := 8 * p.f 1 3 49
      let l := s.pageList list (min n 65537)
      if (x.todo = [] ∧ x.rest = []) ∨ p.f 3 3 49 ≠ 0 ∨ s.listBad p.ctx (x.rcpt.getD 0) n l then .halt s 0x09
      else
        let frames := l.flatMap s.pageFrames
        let moved := x.rest.filter fun f => frames.contains f
        let (new, s) := s.markFrames x frames
        let x := { x with
          todo := x.todo ++ (frames.filter fun f => moved.contains f || new.contains f).eraseDups
          rest := x.rest.filter fun f => !(moved.contains f)
          total := x.total + new.length, lists := x.lists ++ s.mem.read list (8 * n) }
        .retire (s.setScrub x)

/-- SCRUB_CONTINUE (R363). -/
def execScrubContinue (p : Packet) (s : State) : Host.Outcome State Fault Refusal :=
  packetEvent (fun k => k.is 0x06 && decide (k.f 4 0 1 = 1)) (held scrubContinueBody) p s

/-- The scrub that the engine works on: the first in acceptance order (R364). -/
def State.scrubNow (s : State) : Option Scrub := (s.prot.scrubs.head?).map Prod.snd

/-- Mark a frame of the blob's list retired once it is free (R391), with a record of class 0x06. -/
def State.retireFrame (s : State) (f : Nat) : State :=
  if s.cfg.retired.contains f ∧ (s.owner f).state = 0 then
    let s := s.putOwner f { state := 3 }
    let n := (s.prot.owners.filter fun o => decide (o.2.state = 3)).length
    s.errorRecord 0x06 0x03 0xFFF none (BitVec.ofNat 64 (65536 * f)) (BitVec.ofNat 64 n)
  else s

/-- What a frame's read-back finds after it was written with zero (R364): the sectors that no write mends, with cause 1
for a mismatch and 2 for an uncorrectable error. -/
def State.readBack (s : State) (f : Nat) : List (Nat × Nat) :=
  (mapWithin s.mem.stuck (2048 * f) 2048).map fun e => (32 * e.1, if e.2 then 2 else 1)

/-- Scrub one frame (R364): every copy is discarded with no write-back, the frame is zeroed with clear tags, and its
entry becomes free, or retired. -/
def State.scrubOne (s : State) (f : Nat) : State :=
  let s := s.dropCopies f
  let o := s.owner f
  let s := s.zeroLines (65536 * f) 65536
  let s := s.putOwner f { state := if o.retired then 3 else 0 }
  let s := { s with prot := { s.prot with
    lineKeys := mapClear s.prot.lineKeys (512 * f) 512, waysDirty := mapClear s.prot.waysDirty (512 * f) 512 } }
  s.retireFrame f

/-- The scrub engine works: the package runs (R388), and no checkpoint pauses it (R393). -/
def State.scrubs (s : State) : Bool := decide (s.arn.bstate = 1) && s.ckpt.isNone

/-- SCRUB_FRAME (R364): one frame of the scrub in hand. -/
def execScrubFrame (s : State) : Host.Outcome State Fault Refusal :=
  .next (
    if !s.scrubs then s
    else
      match s.scrubNow with
      | none => s
      | some x =>
        match x.todo ++ x.rest with
        | [] => s
        | f :: _ =>
          let gone := (s.owner f).retired
          let s := s.scrubOne f
          let x := { x with
            did := x.did ++ [f], todo := x.todo.drop 1, rest := if x.todo = [] then x.rest.drop 1 else x.rest
            doneFrames := x.doneFrames + 1, retiredFrames := x.retiredFrames + b2n gone, exc := x.exc ++ s.readBack f }
          s.putScrub { x with state := if x.todo = [] ∧ x.rest = [] then 3 else 2 })

/-- The body of a receipt and its listed exceptions (Table 15.7). -/
def State.receiptBody (s : State) (x : Scrub) (cold : Bool) : List Byte :=
  let status := if x.exc = [] then 1 else 2
  let shown := x.exc.take 1024
  leBytes 8 (1 + 2 ^ 32 * 0x57205352) ++
  leBytes 8 (x.seq.toNat + 2 ^ 32 * status + 2 ^ 40 * b2n cold + 2 ^ 48 * x.resets) ++
  leBytes 8 (x.ctx + 2 ^ 12 * x.husk + 2 ^ 20 * x.slot + 2 ^ 26 * b2n x.prot) ++
  leBytes 8 (x.doneFrames + 2 ^ 32 * x.retiredFrames) ++ leBytes 8 (x.exc.length + 2 ^ 32 * shown.length) ++
  leBytes 8 x.start.toNat ++ leBytes 8 s.clk ++ shake512 x.lists ++ fixLen 64 x.measure ++ s.idPublic ++
  List.replicate 8 0 ++ shown.flatMap fun e => leBytes 8 (e.1 / 32 * 32 + e.2)

/-- Write a receipt (R367). -/
def State.writeReceipt (s : State) (x : Scrub) (cold : Bool) : State :=
  match x.rcpt with
  | none => s
  | some pa =>
    let l := s.receiptBody x cold
    s.physWrite (pa + 64) (l ++ s.sign l)

/-- A scrub has completed (R367): its state, what it held, and its record; one of orphaned frames has no receipt
(R368). -/
def State.endScrub (s : State) (x : Scrub) : State :=
  let status := if x.exc = [] then 1 else 2
  let s := s.writeReceipt x false
  let s := s.putScrub { x with state := if x.exc = [] then 4 else 5 }
  let s := { s.dropScrub x with
    prot := { (s.dropScrub x).prot with recovering := s.prot.recovering && decide (1 < s.prot.scrubs.length) }
    ctxs := mapAll s.ctxs fun _ c => if c.scrub = some x.accepted then { c with scrub := none } else c }
  if x.orphan then
    s.errorRecord 0x07 0x06 0xFFF none (BitVec.ofNat 64 x.doneFrames) (BitVec.ofNat 64 x.exc.length)
  else
    s.errorRecord 0x07 0x01 x.ctx none (BitVec.ofNat 64 (x.seq.toNat + 2 ^ 32 * status)) (BitVec.ofNat 64 (x.rcpt.getD 0))

/-- SCRUB_RECEIPT (R367): the scrub in hand has no frame left. -/
def execScrubReceipt (s : State) : Host.Outcome State Fault Refusal :=
  .next (match s.scrubNow with
    | some x => if s.arn.bstate = 1 ∧ x.todo = [] ∧ x.rest = [] then s.endScrub x else s
    | none => s)

end Sys2Proof.Machine
end

