-- ==== Sys2Proof/Machine/Boot.lean ====
section
/-! DEFINITION. Cold boot and warm reset (R368, R369, R388 to R391). -/
namespace Sys2Proof.Machine

/-! ### The configuration blob -/

/-- Doubleword `i` of a copy (Table 17.1). -/
def blobDw (b : Blob) (i : Nat) : Nat := leNat ((b.bytes.drop (8 * i)).take 8)

/-- A field of a copy: doubleword, low bit, length. -/
def blobField (b : Blob) (i lo n : Nat) : Nat := bits (blobDw b i) lo n

/-- Bytes of an SLH-DSA-SHAKE-256s signature (Table 17.1). -/
def sigBytes : Nat := 29792

/-- The length word of a copy is right: it counts the fields, the entries of the list and the signature, and the copy has
those bytes (R388). -/
def blobLengthOk (b : Blob) : Bool :=
  decide (b.bytes.length = 4096 + 8 * blobField b 6 0 32 + sigBytes ∧ blobDw b 1 = b.bytes.length)

/-- The entries of the retired-frame list (Table 17.1). -/
def blobRetired (b : Blob) : List Nat := (List.range (blobField b 6 0 32)).map fun i => blobDw b (512 + i)

/-- The reserved bytes of DW31 to DW511, and the bits of the list's entries that are no address, are zero (R388,
Table 17.1). The model takes no note of the bits of DW2 to DW6 that the table does not list (log 30). -/
def blobZeros (b : Blob) : Bool :=
  (((b.bytes.take 4096).drop 248).all fun x => decide (x = 0)) &&
  (blobRetired b).all fun e => decide (bits e 16 36 * 65536 = e)

/-- The signature over every byte before it verifies under the root key in ROM (R388). -/
def blobSigned (b : Blob) : Bool :=
  let n := b.bytes.length - sigBytes
  slhVerify Config.romRootKey (b.bytes.take n) (b.bytes.drop n)

/-- The secret fields, 192 bytes from the identity key on, decrypted under the ROM's key; none where they fail to decrypt
(R389). -/
def blobSecret (b : Blob) : Option (List Byte) :=
  let (nonce, ad, tag) := Config.blobGcm b.bytes
  gcmDecrypt Config.romSecretKey nonce ad ((b.bytes.drop 56).take 192) tag

/-- A valid copy (R388, R389): magic, length, reserved bytes, the signature, and secret fields that decrypt. -/
def blobOk (b : Blob) : Bool :=
  decide (blobField b 0 32 32 = 0x57204346) && blobLengthOk b && blobZeros b && blobSigned b && (blobSecret b).isSome

/-- The version of a copy. -/
def blobVersion (b : Blob) : Nat := blobField b 0 0 32

/-- The copy in use (R388): the valid one with the higher version, or A of equals. -/
def chooseBlob (a b : Option Blob) : Option Blob :=
  match a.filter blobOk, b.filter blobOk with
  | some x, some y => if blobVersion x < blobVersion y then some y else some x
  | some x, none => some x
  | none, y => y

/-- What a blob configures (Table 17.1). -/
def blobConfig (b : Blob) : BlobConfig :=
  let secret := (blobSecret b).getD []
  { domain := BitVec.ofNat 16 (blobField b 2 48 16), mnum := BitVec.ofNat 11 (blobField b 2 32 11), etype := BitVec.ofNat 16 (blobField b 2 16 16)
    kr := BitVec.ofNat 16 (blobField b 2 0 16), ueaddr := BitVec.ofNat 64 (blobDw b 3), rto := blobField b 4 0 5, pdef := BitVec.ofNat 16 (blobField b 4 16 16)
    resv := BitVec.ofNat 52 (2 ^ 28 * blobField b 5 28 24), retired := (blobRetired b).map fun x => bits x 16 36
    idkey := secret.take 128, cak := (secret.drop 128).take 32, tsskey := (secret.drop 160).take 32
    digest := shake512 b.bytes }

/-! ### What both resets do -/

/-- The ports of the package in service (R370). -/
def freshPorts : Map Port := (List.range 16).map fun i => (i, { up := true })

/-- The end of a boot: the listed frames are retired, the ports come up and the first health block is written
(R391). -/
def State.bootEnd (s : State) : State :=
  let s := s.cfg.retired.foldl (fun s f => s.retireFrame f) s
  let s := { s with
    fab := { s.fab with ports := freshPorts }
    health := { s.health with duty := 255, plim := s.cfg.pdef, power := false, thermal := false, tripped := false, upd := 0 } }
  let (x, s) := s.freeSensors
  let s := { s with health := { s.health with plim := s.nextLimit } }
  let s := s.writeHealth x
  { s with arn := { s.arn with bstate := 1 } }

/-- No valid copy: the package stays in boot (R388). -/
def State.noBlob (s : State) : State := { s with arn := { bstate := 7 } }

/-- The counters that no reset starts again, so that free values and keys stay fresh. -/
def State.fresh (s : State) : State :=
  { inbox := s.inbox, free := s.free, births := s.births, nextOp := s.nextOp }

/-! ### The owner table and the wipe -/

/-- The line at which the owner table and the scrub records fail their check under the owner-table key (R353, R368,
R369): one with an error, or the first where the blob `cfg` places the region elsewhere (log 47). -/
def State.tableFails (s : State) (cfg : BlobConfig) : Option Nat :=
  let base := cfg.resv.toNat
  let bad := mapWithin s.mem.poison ((base + 2 ^ 27) / 32) (2 ^ 27 / 32) ++ mapWithin s.mem.poison ((base + 65536) / 32) 128
  if cfg.resv = s.cfg.resv then bad.head?.map fun e => 128 * (e.1 / 4) else some (base + 2 ^ 27)

/-- Write all of LPDDR5X with zero (R369). -/
def State.wipe (s : State) : State :=
  let s := { s with mem := { stuck := s.mem.stuck }, prot := { keygens := s.prot.keygens } }
  s.mem.stuck.foldl (fun s e => s.spoil e.1 e.2) s

/-- The receipt of a scrub that the wipe completes (R369): every frame of the scrub is read back, those that it had done
before the boot too, and the exceptions are those of the read-back. -/
def State.coldReceipt (s : State) (owners : Map Owner) (x : Scrub) : State :=
  let left := x.todo ++ x.rest
  let gone := (left.filter fun f => (mapGet {} owners f).retired).length
  s.writeReceipt
    { x with
      doneFrames := x.total, retiredFrames := x.retiredFrames + gone
      exc := (x.did ++ left).flatMap s.readBack } true

/-- Memory as a cold boot makes it (R369): with the scrubs that the owner table of `old` shows, if it passes its check,
all is written with zero, and their receipts follow. -/
def State.coldMemory (s : State) (old : State) : State :=
  let scrubs := if (old.tableFails s.cfg).isNone then old.prot.scrubs else []
  scrubs.foldl (fun s e => s.coldReceipt old.prot.owners e.2) s.wipe

/-! ### Cold boot -/

/-- A cold boot with a configuration (R369, R391): everything starts again, failing sub-arrays are fenced (R217), memory
is wiped, and the receipts of the scrubs found are written. -/
def State.coldStart (s : State) (cfg : BlobConfig) (fails : List (Nat × BitVec 2)) : State :=
  let t := { s.fresh with cfg, mem := { stuck := s.mem.stuck }, prot := { keygens := s.prot.keygens } }
  let t := fails.foldl (fun t q => t.selfTest q.1 q.2 false) t
  (t.coldMemory s).bootEnd

/-- A cold boot that finds no valid copy (R388). -/
def State.coldHalt (s : State) : State :=
  { s.fresh with
    mem := { s.mem with l1 := [], tlb := [] }, prot := { s.prot with husks := [], keys := [] }, cfg := s.cfg }.noBlob

/-- COLD_BOOT (R388, R391): with the copy in use, or none. -/
def execColdBoot (blobs : Option Blob × Option Blob) (fails : List (Nat × BitVec 2)) (s : State) :
    Host.Outcome State Fault Refusal :=
  .next (
    match chooseBlob blobs.1 blobs.2 with
    | none => s.coldHalt
    | some x => s.coldStart (blobConfig x) fails)

/-! ### Warm reset -/

/-- Dirty L1 bytes at a warm reset may have been written back before it: the part chooses (log 6). -/
def State.dropL1 (s : State) : State :=
  let s := s.mem.l1.foldl
    (fun s e => e.2.foldl
      (fun s x =>
        if s.differs x then
          let (c, s) := s.choose
          if c then s.writeHome x else s
        else s)
      s)
    s
  { s with mem := { s.mem with l1 := [], tlb := [] } }

/-- A scrub crosses a warm reset (R368): its count, and its record. -/
def State.resumeScrub (s : State) (x : Scrub) : State :=
  let s := s.putScrub { x with resets := x.resets + 1, bootStart := 0, cores := [] }
  s.errorRecord 0x07 0x02 x.ctx none (x.seq.zeroExtend 64) (BitVec.ofNat 64 x.doneFrames)

/-- The scrub of frames still owned after a warm reset (R368). -/
def State.orphanScrub (s : State) : State :=
  let owned := (s.prot.owners.filter fun o => decide (o.2.state = 1)).map Prod.fst
  if owned = [] then s
  else
    let seq := s.prot.scrubSeq + 1
    let x : Scrub :=
      { seq, state := 1, ctx := 0xFFF, husk := 0, slot := 0, prot := false, rcpt := none, todo := [], total := owned.length
        orphan := true, accepted := mapNext s.prot.scrubs }
    let (todo, s) := s.markFrames x owned
    { s with prot := { s.prot with scrubSeq := seq } }.setScrub { x with todo }

/-- A warm reset with no valid copy yet (R368, R391): memory, page ownership, scrubs and fences stay; every context, husk
and key slot goes. -/
def State.warmKept (s : State) : State :=
  let s := s.dropL1
  let s := (s.prot.husks.map Prod.fst).foldl (fun s h => s.sealHusk h) s
  let cores := s.cores.map fun c => (c.1, { mxRows := c.2.mxRows, mxFence := c.2.mxFence, testClk := c.2.testClk : Core })
  { s.fresh with
    mem := s.mem, cores := cores.filter fun c => decide (c.2 ≠ {}), lastGen := s.lastGen
    prot :=
      { owners := s.prot.owners, lineKeys := s.prot.lineKeys, waysDirty := s.prot.waysDirty, scrubs := s.prot.scrubs
        scrubSeq := s.prot.scrubSeq, keygens := s.prot.keygens }
    health := { corrected := s.health.corrected, uncorrected := s.health.uncorrected }
    warmResets := s.warmResets + 1, cfg := s.cfg }

/-- The end of a warm reset with a configuration (R368): the owner table is checked, and scrubs go on. -/
def State.warmStart (s : State) (cfg : BlobConfig) : State :=
  let t := { s.warmKept with cfg }
  match s.tableFails cfg with
  | some pa => (t.errorRecord 0x07 0x04 0xFFF none (BitVec.ofNat 64 pa) 0).wipe.bootEnd
  | none =>
    let t := t.prot.scrubs.foldl (fun t e => t.resumeScrub e.2) t
    let t := t.orphanScrub
    { t with prot := { t.prot with recovering := !t.prot.scrubs.isEmpty } }.bootEnd

/-- WARM_RESET (R368, R388, R391): with the copy in use, or none; a package that has tripped makes none (R400). -/
def execWarmReset (a b : Option Blob) (s : State) : Host.Outcome State Fault Refusal :=
  .next (
    if s.health.tripped then s
    else
      match chooseBlob a b with
      | none => s.warmKept.noBlob
      | some x => s.warmStart (blobConfig x))

end Sys2Proof.Machine
end

