-- ==== Sys2Proof/Machine/Branch.lean ====
section
/-! DEFINITION. Branches, calls, divergence and exit (04 §4.5, §4.6). -/
namespace Sys2Proof.Machine

/-- BRA (R124). -/
def execBra (f : Fields) (s : State) : Out := native f s fun en => .jump en.s (branchTarget f en.is.pc)

/-- BRC (R124). -/
def execBrc (f : Fields) (s : State) : Out :=
  native f s fun en =>
    let p := en.w.getP f.a.toNat
    let taken := match f.mod.toNat with
      | 0 => decide (p &&& en.e ≠ 0)
      | 1 => decide (en.e &&& ~~~p = 0)
      | _ => decide (p &&& en.e = 0)
    if taken then .jump en.s (branchTarget f en.is.pc) else .next en.s

/-- The reconvergence point of a BRV: 23 bits of MOD, C and B, in words (R126). -/
def brvPoint (f : Fields) (pc : Word) : Word := pc + ((f.mod ++ f.c ++ f.b : BitVec 23).signExtend 64) <<< 2

/-- BRV (R12, R13, R126). -/
def execBrv (f : Fields) (s : State) : Out :=
  native f s fun en =>
    let t := en.e &&& en.w.getP f.a.toNat
    let n := en.sl.mask &&& ~~~t
    let target := en.is.pc + sx32 f.w2
    let rpc := brvPoint f en.is.pc
    if t = 0 then .next en.s
    else if n = 0 then .jump en.s target
    else if en.s.kindDiffers en.ctx en.is.fr en.is.pc target || en.s.kindDiffers en.ctx en.is.fr en.is.pc en.fall then
      en.fail 0x01
    else
      let taken : Slot := { live := true, pc := target, mask := t, rpc }
      let rest : Slot := { live := true, pc := en.fall, mask := n, rpc }
      let o := en.w.slot (1 - en.k)
      let put := fun (x y : Slot) => (en.w.setSlot en.k x).setSlot (1 - en.k) y
      if !o.live then .moved (en.put (put taken rest))
      else
        let (pushed, stays) := if rpc.toNat ≤ o.rpc.toNat then (o, rest) else (rest, o)
        match en.s.stackWrite en.who en.w en.w.dstkSp [pushed.path] with
        | (.error e, s) => en.failIn s e
        | (.ok _, s) => .moved (s.putWarp en.key { put taken stays with dstkSp := en.w.dstkSp + 32 })

/-- RCV (R16, R127). -/
def execRcv (f : Fields) (s : State) : Out :=
  native f s fun en =>
    if en.sl.rpc = en.is.pc then
      en.resolved (en.w.setSlot en.k { en.sl.issued en.is with parked := true, wait := none }) en.s
    else .next en.s

/-- CALL (R124). -/
def execCall (f : Fields) (s : State) : Out :=
  native f s fun en => .jump (en.put (en.w.setS f.d.toNat en.fall)) (branchTarget f en.is.pc)

/-- CALLX (R124). -/
def execCallx (f : Fields) (s : State) : Out :=
  native f s fun en => .jump (en.put (en.w.setS f.d.toNat en.fall)) (registerTarget (en.sA f))

/-- RET (R124). -/
def execRet (f : Fields) (s : State) : Out := native f s fun en => .jump en.s (registerTarget (en.sA f))

/-- JMPX (R124). -/
def execJmpx (f : Fields) (s : State) : Out := native f s fun en => .jump en.s (registerTarget (en.sA f))

/-- Lanes of the effective mask exit (R128): the rest of the slot goes on, and Resolve runs. -/
def Env.exitLanes (en : Env) : Res :=
  let m := en.sl.mask &&& ~~~en.e
  if m ≠ 0 && en.s.kindDiffers en.ctx en.is.fr en.is.pc en.fall then en.fail 0x01
  else
    let x : Slot := if m = 0 then {} else { en.sl.issued en.is with mask := m, pc := en.fall, wait := none }
    en.resolved ({ en.w with lanes := en.w.lanes &&& ~~~en.e }.setSlot en.k x) en.s

/-- EXIT (R128). -/
def execExit (f : Fields) (s : State) : Out := native f s fun en => en.exitLanes

end Sys2Proof.Machine
end

