-- ==== Sys2Proof/Machine/Capability.lean ====
section
/-! DEFINITION. Capability instructions (05 §5.9). -/
namespace Sys2Proof.Machine

/-- CLD (R183). -/
def execCld (f : Fields) (s : State) : Out :=
  native f s fun en =>
    match en.s.laneCheck en.who (en.w.getC f.b.toNat) (permR ||| permLC) (en.sA f + sx32 f.w2) 32 false with
    | (.error e, s) => en.failIn s e
    | (.ok (va, miss), s) =>
      let ((l, tag), s) := s.l1Load en.who va 32 miss
      let c := capOf l tag
      .next (s.putWarp en.key (en.w.setC f.d.toNat { c with tag := tag && decide (c.rsvd = 0) }))

/-- CST (R183): bits and tag become visible at one point, the home slice. -/
def execCst (f : Fields) (s : State) : Out :=
  native f s fun en =>
    let off := en.sA f + sx32 f.w2
    match en.s.homeCheck en.who (en.w.getC f.b.toNat) (permW ||| permSC) off 32 32 { w := true } with
    | (.error e, s) => en.failIn s e
    | (.ok (va, pa), s) =>
      let c := en.w.getC f.c.toNat
      let s := (s.goHome en.who va pa).physWrite pa c.bytes
      .next { s with mem := s.mem.setTag pa c.tag }

/-- CMOV (R184). -/
def execCmov (f : Fields) (s : State) : Out :=
  native f s fun en => en.done (en.w.setC f.d.toNat (en.w.getC f.a.toNat))

/-- A capability narrowed in bounds (R184). -/
def Cap.narrow (c : Cap) (by_ len : Word) : Cap :=
  mkCap c.rsvd c.gen c.ctx c.otype c.perms len (c.base + by_)
    (c.tag && decide (c.otype = 0) && decide (by_.toNat + len.toNat ≤ c.len.toNat))

/-- CBND (R184). -/
def execCbnd (f : Fields) (s : State) : Out :=
  native f s fun en =>
    let len := if mb f 0 then f.w2.zeroExtend 64 else en.sC f
    en.done (en.w.setC f.d.toNat ((en.w.getC f.a.toNat).narrow (en.sB f) len))

/-- A capability with fewer permissions (R184). -/
def Cap.restrict (c : Cap) (m : BitVec 16) : Cap :=
  mkCap c.rsvd c.gen c.ctx c.otype (c.perms &&& m &&& 0xFF) c.len c.base (c.tag && decide (c.otype = 0))

/-- CPERM (R184). -/
def execCperm (f : Fields) (s : State) : Out :=
  native f s fun en =>
    let m := if mb f 0 then f.w2.extractLsb' 0 16 else (en.sB f).extractLsb' 0 16
    en.done (en.w.setC f.d.toNat ((en.w.getC f.a.toNat).restrict m))

/-- CGET (R185). -/
def execCget (f : Fields) (s : State) : Out :=
  native f s fun en =>
    let c := en.w.getC f.a.toNat
    let x : Word := match f.mod.toNat with
      | 0 => c.base
      | 1 => c.len
      | 2 => c.perms.zeroExtend 64
      | 3 => c.otype.zeroExtend 64
      | 4 => c.ctx.zeroExtend 64
      | 5 => c.gen.zeroExtend 64
      | _ => BitVec.ofNat 64 (b2n c.tag)
    en.done (en.w.setS f.d.toNat x)

/-- Of a context and of its current generation. -/
def State.ownCap (s : State) (ctx : Nat) (c : Cap) : Bool :=
  decide (c.ctx.toNat = ctx) &&
  (match mapFind s.ctxs ctx with
   | some x => decide (c.gen = x.cgen)
   | none => false)

/-- The validity that CTEST tests (R185). -/
def State.validCap (s : State) (ctx : Nat) (c : Cap) : Bool := c.tag && decide (c.otype = 0) && s.ownCap ctx c

/-- A range lies within another. -/
def Cap.inside (a b : Cap) : Bool :=
  decide (b.base.toNat ≤ a.base.toNat ∧ a.base.toNat + a.len.toNat ≤ b.base.toNat + b.len.toNat)

/-- CTEST (R185). -/
def execCtest (f : Fields) (s : State) : Out :=
  native f s fun en =>
    let a := en.w.getC f.a.toNat
    let b := en.w.getC f.b.toNat
    let r :=
      if mb f 0 then
        en.s.validCap en.ctx a && en.s.validCap en.ctx b && a.inside b && decide (a.perms &&& ~~~b.perms = 0)
      else en.s.validCap en.ctx a
    en.done (en.w.setP f.d.toNat (allOnes r))

/-- A capability sealed or unsealed under an authority (R186). -/
def State.sealCap (s : State) (ctx : Nat) (a b : Cap) (undo : Bool) : Cap :=
  let base := b.base.toNat
  let auth := b.tag && s.ownCap ctx b && decide (b.otype = 0xFFF)
  if undo then
    let t := a.otype.toNat
    mkCap a.rsvd a.gen a.ctx 0 a.perms a.len a.base
      (a.tag && auth && decide (1 ≤ t ∧ t ≤ 0xFFE ∧ base ≤ t ∧ t < base + b.len.toNat))
  else
    mkCap a.rsvd a.gen a.ctx (BitVec.ofNat 12 base) a.perms a.len a.base
      (a.tag && auth && decide (a.otype = 0 ∧ 1 ≤ base ∧ base ≤ 0xFFE ∧ 1 ≤ b.len.toNat))

/-- CSEAL (R186). -/
def execCseal (f : Fields) (s : State) : Out :=
  native f s fun en =>
    en.done (en.w.setC f.d.toNat (en.s.sealCap en.ctx (en.w.getC f.a.toNat) (en.w.getC f.b.toNat) (mb f 0)))

end Sys2Proof.Machine
end

