-- ==== Sys2Proof/Machine/GridAccess.lean ====
section
/-! DEFINITION. The grid access group, major 0x3C (R240 to R245): GST, GLD, GATOM, GRED and GCPY. -/
namespace Sys2Proof.Machine

/-- The job of the issuer. -/
def Env.job (en : Env) : Job := en.s.jobOf en.bk

/-- The pattern of a grid access, which is valid and passes the instruction's own test, or the pattern fault (R240). -/
def Env.withPattern (en : Env) (f : Fields) (ok : Job → BitVec 128 → Bool) (go : Job → BitVec 128 → Res) : Res :=
  let n := en.w.getN f.a.toNat
  if patValid n && ok en.job n then go en.job n else en.fail 0x36

/-- Size code of GST and GLD as that of LD. -/
def gridSize (f : Fields) : Nat := 4 + fld f.mod 0 2

/-- A lane's offset (R240). -/
def Env.gridOffset (en : Env) (uni : Bool) (f : Fields) (i : Nat) : Word :=
  en.laneBase uni (fld f.w2 4 8) i + (f.w2.extractLsb' 12 16).signExtend 64

/-- Checks 1 to 7 of the lanes of a grid access (R241): the exception, if one fails. -/
def Env.gridLanes (en : Env) (c : Cap) (need : BitVec 16) (n : Nat) (off : Nat → Word) : Option Trap :=
  let bad := en.lanes.filterMap fun i => (en.s.capCheck en.ctx c need (off i) n n).map fun x => (i, (x, c.base + off i))
  laneTrap bad

/-- Bytes at addresses as runs of at most 4,096. -/
def byteRuns : List (Nat × Byte) → List (Nat × List Byte)
  | [] => []
  | (a, x) :: r =>
    match byteRuns r with
    | (b, l) :: rest => if b = a + 1 ∧ l.length < 4096 then (a, x :: l) :: rest else (a, [x]) :: (b, l) :: rest
    | [] => [(a, [x])]

/-- The bytes that the lanes of a GST store, the highest lane's where they meet (R243). -/
def Env.gridBytes (en : Env) (size d : Nat) (va : Nat → Word) : Map Byte :=
  en.lanes.foldl
    (fun m i =>
      ((List.range (sizeBytes size)).zip (en.w.storedBytes d size i)).foldl
        (fun m x => mapPut m (va i + BitVec.ofNat 64 x.1).toNat x.2) m)
    []

/-- A new grid operation of the issuer. -/
def Env.gridOp (en : Env) (fn : Nat) (head : Frame) (expected : Nat) : GridOp :=
  { warp := en.key, block := en.bk, ctx := en.ctx, core := en.block.core, fn, head, expected }

/-- Issue an operation with a handle: without targets it is complete at once (R242). -/
def Env.gridStart (en : Env) (s : State) (d : Nat) (g : GridOp) (send : Nat → State → State) : State :=
  let (k, s) := s.newHandle en.key d 4 g.fn none
  let g := { g with value := (mapGet {} s.ops k).value }
  if g.expected = 0 then s.modStat k fun x => { x with state := 2 }
  else send k ((s.modStat k fun x => { x with state := 1 }).addGrid k g)

/-- GST (R243). -/
def execGst (f : Fields) (s : State) : Out :=
  native f s fun en =>
    en.withPattern f (fun _ _ => true) fun j n =>
      let size := gridSize f
      let c := en.w.getC f.b.toNat
      let off := en.gridOffset (mb f 3) f
      match en.gridLanes c (permW ||| permRM) (sizeBytes size) off with
      | some t => .trap en.s t
      | none =>
        let s := if mb f 4 then en.s.release en.key else en.s
        let m := en.gridBytes size f.d.toNat fun i => c.base + off i
        let g := { en.gridOp 0 (s.gridHead j n c.base m.length) (patCount j n) with sent := true }
        .next (en.gridStart s (fld f.w2 0 4) g fun k s =>
          (byteRuns m).foldl
            (fun s r => s.sendFrame { g.head with ty := 1, va := BitVec.ofNat 64 r.1, payload := r.2 } k g.head.wlo.toNat)
            s)

/-- A pattern uses only exact and self modes, and matches one module (R243). -/
def oneExact (j : Job) (n : BitVec 128) : Bool :=
  (List.range 5).all (fun a => decide (patMode n a = 0 ∨ patMode n a = 3)) && decide (patCount j n = 1)

/-- The GLD that a slot waits for. -/
def Env.pendingLoad (en : Env) : Option (Nat × GridOp) :=
  match en.sl.wait with
  | some (.load k) =>
    match mapFind en.s.fab.gridOps k with
    | some g => if g.fn = 1 then some (k, g) else none
    | none => none
  | _ => none

/-- The request of a GLD goes out, and the slot waits for the reply (R241). -/
def Env.sendLoad (en : Env) (f : Fields) (c : Cap) (n : Nat) (off : Nat → Word) (j : Job) (pat : BitVec 128) : Res :=
  let (k, s) := en.s.silentKey
  let head := { s.gridHead j pat c.base (n * en.lanes.length) with aux := en.e }
  let s := s.addGrid k
    { en.gridOp 1 head 1 with silent := true, sent := true, acq := mb f 4, ret := some (en.e, f.d.toNat, gridSize f) }
  .wait (s.sendFrame { head with ty := 2, payload := en.lanes.flatMap fun i => leBytes 8 (off i).toNat } k head.wlo.toNat)
    (.load k)

/-- GLD (R243). -/
def execGld (f : Fields) (s : State) : Out :=
  native f s fun en =>
    en.withPattern f oneExact fun j pat =>
      let size := gridSize f
      let n := sizeBytes size
      let c := en.w.getC f.b.toNat
      let off := en.gridOffset (mb f 3) f
      match en.gridLanes c (permR ||| permRM) n off with
      | some t => .trap en.s t
      | none =>
        match en.pendingLoad with
        | none => en.sendLoad f c n off j pat
        | some (k, g) =>
          match g.failed, g.reply with
          | some (_, va), _ =>
            let s := en.s.dropLoad k
            let hit := maskOf fun i => inMask en.e i && decide (c.base + off i = va)
            let low := (en.lanes.headD 0)
            if hit = 0 then .trap s { cause := 0x37, addr := c.base + off low, lanes := BitVec.twoPow 64 low }
            else .trap s { cause := 0x37, addr := va, lanes := hit }
          | none, some l => .next (en.s.takeLoad en.key k g l)
          | none, none => .wait en.s (.load k)

/-- GATOM (R244). Its values come later: the scoreboard holds instructions that name its destination (R36). -/
def execGatom (f : Fields) (s : State) : Out :=
  native f s fun en =>
    en.withPattern f (fun j n => mb f 6 || decide (patCount j n = 1)) fun j pat =>
      let wide := mb f 4
      let n := if wide then 8 else 4
      let op := fld f.mod 0 4
      let c := en.w.getC f.b.toNat
      let off := en.gridOffset (mb f 5) f
      match en.gridLanes c (permR ||| permW ||| permAT ||| permRM) n off with
      | some t => .trap en.s t
      | none =>
        let val := fun (r i : Nat) => leBytes n (en.w.vVal wide r i).toNat
        let payload := en.lanes.flatMap fun i =>
          leBytes 8 (off i).toNat ++ val f.c.toNat i ++ (if op = 9 then val f.d.toNat i else [])
        let head := { en.s.gridHead j pat c.base (n * en.lanes.length) with
          aux := en.e, op := BitVec.ofNat 4 op, etype := if wide then 1 else 0 }
        let g := { en.gridOp 2 head (patCount j pat) with
          sent := true, ret := if mb f 6 then none else some (en.e, f.d.toNat, n)
          data := en.lanes.flatMap fun i => val f.c.toNat i }
        .next (en.gridStart en.s (fld f.w2 0 4) g fun k s => s.sendFrame { head with ty := 4, payload } k head.wlo.toNat)

/-- The flags of a GATOM's lanes (R55, R179), which the issuer forms from the old values and its operands. Those of a
GATOM.nr at another module are not seen: no frame has a field for them (log 17). -/
def gatomFlags (op n : Nat) (old x : List Byte) : FlagSet :=
  ((elemsOf n old).zip (elemsOf n x)).foldl (fun fl p => fl ||| (atomicNew op (decide (n = 8)) p.1 p.2 0).2) 0

/-- Old values return to the lanes of a GATOM (R244). -/
def State.gatomReturn (s : State) (k : Nat) (g : GridOp) (l : List Byte) : State :=
  match g.ret with
  | none => s
  | some (m, d, n) =>
    let got := laneData m n l
    let fl := gatomFlags g.head.op.toNat n l g.data
    let s := s.modWarp g.warp fun w => w.putV (decide (n = 8)) d m fun i => BitVec.ofNat 64 (leNat (mapGet [] got i))
    (s.modGrid k fun g => { g with reply := some l, flags := g.flags ||| fl }).checkGrid k

/-- The quad at s[C] of GRED and GCPY: source offset, destination offset, length and tag (R240). -/
def Env.quad (en : Env) (f : Fields) (i : Nat) : Word := en.w.getS (f.c.toNat + i)

/-- The local checks of GRED and GCPY (R241): of c[B] and of c[S] over the length. -/
def Env.gridRange (en : Env) (f : Fields) (align : Nat) (go : Cap → Cap → Res) : Res :=
  let dst := en.w.getC f.b.toNat
  let src := en.w.getC (fld f.w2 0 4)
  let n := (en.quad f 2).toNat
  match en.s.capCheck en.ctx dst (permW ||| permRM) (en.quad f 1) n align with
  | some c => en.fail c (dst.base + en.quad f 1)
  | none =>
    match en.s.capCheck en.ctx src permR (en.quad f 0) n align with
    | some c => en.fail c (src.base + en.quad f 0)
    | none => go dst src

/-- Issue a GRED or GCPY whose source the engine reads later; it sees the warp's earlier stores (R191). -/
def Env.gridSource (en : Env) (f : Fields) (src : Cap) (g : GridOp) : Res :=
  let va := src.base + en.quad f 0
  let n := (en.quad f 2).toNat
  let s := en.s.flushFor en.key [(va.toNat, n, false)]
  .next (en.gridStart s f.d.toNat { g with srcVa := va, len := n } fun _ s => s)

/-- GRED (R245). -/
def execGred (f : Fields) (s : State) : Out :=
  native f s fun en =>
    en.withPattern f isMember fun j n =>
      let op := fld f.mod 0 3
      let ty := fld f.mod 3 3
      let len := (en.quad f 2).toNat
      if !(redLength op ty len) then en.fail 0x22
      else
        en.gridRange f (gridElemSize ty) fun dst src =>
          let h := en.s.gridHead j n (dst.base + en.quad f 1) len
          let head := redHead j n h op ty (mb f 6) ((en.quad f 3).extractLsb' 0 16)
          en.gridSource f src (en.gridOp 3 head (if mb f 6 then patCount j n else 1))

/-- GCPY (R244). -/
def execGcpy (f : Fields) (s : State) : Out :=
  native f s fun en =>
    en.withPattern f (fun _ _ => true) fun j n =>
      en.gridRange f 0 fun dst src =>
        let head := onePeer (en.s.gridHead j n (dst.base + en.quad f 1) (en.quad f 2).toNat) (patCount j n)
        en.gridSource f src { en.gridOp 4 head (patCount j n) with spray := 16 }

end Sys2Proof.Machine
end

