-- ==== Sys2Proof/Machine/Preempt.lean ====
section
/-! DEFINITION. PREEMPT (R320) and the levels of pre-emption that deadlines start (R39, Table 1.7). -/
namespace Sys2Proof.Machine

/-- Stage of a PREEMPT that waits for its own pre-emption. -/
def preOwn : Nat := 1
/-- Stage of a PREEMPT that waits for a pre-emption that it found. -/
def preOther : Nat := 2

/-- Set the resume mode of a context that is in no pre-emption (R320); a halt is released only by resume (R329), and a
context after level 3 is not changed. -/
def State.setMode (s : State) (ctx : Nat) (park : Bool) (by_ : Nat × BitVec 32 × BitVec 32) : State :=
  s.modCtx ctx fun c =>
    if c.halted || c.dead then c
    else { c with parked := park, resumeBy := if (c.saved || !c.unplaced.isEmpty) && !park then some by_ else c.resumeBy }

/-- Turn a parked context into a requeued one (R320); a time-slice expiry held over the halt is delivered after it. -/
def State.unparkCtx (s : State) (ctx : Nat) (by_ : Nat × BitVec 32 × BitVec 32) : State :=
  s.modCtx ctx fun c =>
    if c.parked && !c.dead then { c with parked := false, halted := false, resumeBy := some by_ } else c

/-- A context has a block on a core. -/
def State.hasBlocks (s : State) (ctx : Nat) : Bool := s.blocks.any fun b => decide (b.2.ctx = ctx)

/-- A context that is not parked waits for placement (R324): a released launch of it has blocks to place, or it has saved
blocks that no core has taken since its resume. -/
def State.awaitsPlace (s : State) (ctx : Nat) (c : Context) : Bool :=
  !c.parked && (!c.unplaced.isEmpty || s.launches.any fun l => decide (l.2.ctx = ctx ∧ l.2.stage = .placing ∧ l.2.next < l.2.last))

/-- The body of PREEMPT park and requeue (R320). -/
def preemptBody (park : Bool) (p : Pk) (s : State) : PEnd :=
  let ctx := p.ctx
  match mapFind s.ctxs ctx with
  | none => if p.queue.stage = preOwn ∨ p.queue.stage = preOther then .retire s else .halt s 0x05
  | some c =>
    if c.dead then (if p.queue.stage = preOwn ∨ p.queue.stage = preOther then .retire s else .halt s 0x05)
    else if p.queue.stage = preOwn then (if c.preempt.isSome then .stay s preOwn else .retire s)
    else if c.preempt.isSome then .stay s preOther
    else if p.queue.stage = preOther ∨ !(s.hasBlocks ctx) then .retire (s.setMode ctx park p.name)
    else
      let pre : Preempt :=
        { level := 1, requeue := !park, drain := 1024 * p.f 1 32 32, save := 1024 * p.f 2 0 32, packet := some p.name }
      .stay (s.modCtx ctx fun c => { c with preempt := some pre }) preOwn

/-- PREEMPT_PARK (R320). -/
def execPreemptPark (p : Packet) (s : State) : Host.Outcome State Fault Refusal :=
  packetEvent (fun k => k.is 0x0B && decide (k.f 1 0 2 = 0)) (held (preemptBody true)) p s

/-- PREEMPT_REQUEUE (R320). -/
def execPreemptRequeue (p : Packet) (s : State) : Host.Outcome State Fault Refusal :=
  packetEvent (fun k => k.is 0x0B && decide (k.f 1 0 2 = 1)) (held (preemptBody false)) p s

/-- The body of PREEMPT resume (R320). -/
def resumeBody (p : Pk) (s : State) : PEnd :=
  match mapFind s.ctxs p.ctx with
  | none => if p.queue.stage = preOther then .retire s else .halt s 0x05
  | some c =>
    if c.dead ∧ p.queue.stage ≠ preOther then .halt s 0x05
    else if c.preempt.isSome then .stay s preOther
    else .retire (s.unparkCtx p.ctx p.name)

/-- PREEMPT_RESUME (R320). -/
def execPreemptResume (p : Packet) (s : State) : Host.Outcome State Fault Refusal :=
  packetEvent (fun k => k.is 0x0B && decide (k.f 1 0 2 = 2)) (held resumeBody) p s

/-- DRAIN_DEADLINE (R39): a draining context whose drain deadline has passed goes to level 2. -/
def execDrainDeadline (ctx : Nat) (s : State) : Host.Outcome State Fault Refusal :=
  .next (match mapFind s.ctxs ctx with
    | some c =>
      match c.preempt with
      | some p =>
        if p.level = 1 ∧ p.drain = 0 then s.modCtx ctx fun c => { c with preempt := some { p with level := 2 } } else s
      | none => s
    | none => s)

/-- SAVE_DEADLINE (R39): a save that has not ended when its deadline passes goes to level 3 with code 0x05. -/
def execSaveDeadline (ctx : Nat) (s : State) : Host.Outcome State Fault Refusal :=
  .next (match mapFind s.ctxs ctx with
    | some c =>
      match c.preempt with
      | some p =>
        if p.level = 2 ∧ p.save = 0 then s.forcedReset ctx 0x05 p.packet noBlockD0 false none else s
      | none => s
    | none => s)

/-- A queue's save deadline in clk (Table 13.2). -/
def State.queueSavedl (s : State) (q : Nat) : Nat := 1024 * (s.queue q).savedl

/-- Pre-empt a context for a time slice or a checkpoint, with a drain deadline of 0 (R325, R392). -/
def State.startPreempt (s : State) (ctx save : Nat) (packet : Option (Nat × BitVec 32 × BitVec 32)) (ckpt : Bool) : State :=
  s.modCtx ctx fun c =>
    if c.preempt.isSome then c
    else { c with preempt := some { level := 1, requeue := true, drain := 0, save, packet, ckpt } }

end Sys2Proof.Machine
end

