-- ==== Sys2Proof/Machine/Copy.lean ====
section
/-! DEFINITION. The copy ring and the copy group (R220 to R230): publication, the start of an entry, its sectors, and
its end. The engine runs the entries of a ring in sequence order; one that has stopped at a page fault lets later ones that do
not overlap it run (R224, R262, log 15). -/
namespace Sys2Proof.Machine

/-! ### Header and entries -/

/-- Offset of an entry (R220). -/
def Ring.entryAt (r : Ring) (q : BitVec 32) : Nat := r.off + 32 + 32 * (q.toNat % 2 ^ r.k)

/-- The doublewords of an entry as numbers. -/
structure Entry where
  soff : Nat
  doff : Nat
  p : Nat
  x : Nat
deriving DecidableEq, Repr

/-- An entry from its doublewords. -/
def entryOf (l : List Word) : Entry :=
  let dw := fun i => (l.getD i 0).toNat
  { soff := dw 0, doff := dw 1, p := dw 2, x := dw 3 }

/-- A field of DW3 (Table 7.3). -/
def Entry.fld (e : Entry) (lo n : Nat) : Nat := bits e.x lo n

/-- The kind: 0 CPY, 1 CPYT, 2 CPYG, 3 CPYX, 4 CPYR. -/
def Entry.kind (e : Entry) : Nat := e.fld 0 4
/-- Source slot. -/
def Entry.sslot (e : Entry) : Nat := e.fld 4 4
/-- Destination slot. -/
def Entry.dslot (e : Entry) : Nat := e.fld 8 4
/-- Barrier. -/
def Entry.bar (e : Entry) : Nat := e.fld 12 5
/-- Published by an instruction. -/
def Entry.pub (e : Entry) : Bool := bit e.x 23
/-- warp.id of the publishing instruction. -/
def Entry.warp (e : Entry) : Nat := e.fld 24 8
/-- Operator of CPYR. -/
def Entry.rop (e : Entry) : Nat := e.fld 17 3
/-- Element type of CPYR. -/
def Entry.rtype (e : Entry) : Nat := e.fld 20 3
/-- Length of CPY and CPYR. -/
def Entry.length (e : Entry) : Nat := bits e.p 0 32
/-- Index list, row count and row length of CPYG and CPYX. -/
def Entry.list (e : Entry) : Nat × Nat × Nat := (bits e.p 0 32, bits e.p 32 16, bits e.p 48 16)
/-- Row stride of CPYG and CPYX. -/
def Entry.stride (e : Entry) : Nat := e.fld 32 32
/-- Scratchpad offset and layout handle of CPYT. -/
def Entry.box (e : Entry) : Nat × Nat := (bits e.doff 0 19, bits e.doff 48 16)

/-- Bytes of an element of CPYR (Table 7.5). -/
def redSize (ty : Nat) : Nat := if ty = 2 ∨ ty = 3 ∨ ty = 5 then 8 else 4

/-- CPYR accepts an operator and a type (Table 7.5). -/
def redAccepts (op ty : Nat) : Bool :=
  match op with
  | 0 => [0, 2].contains ty
  | 1 => decide (ty ≤ 3)
  | 2 => decide (ty ≤ 3)
  | 3 => [4, 5].contains ty
  | 4 => decide (ty = 4)
  | 5 => [1, 3].contains ty
  | _ => false

/-- A field of an entry is malformed (R225, cause 0x04). -/
def Entry.malformed (e : Entry) : Bool :=
  let slots := decide (e.sslot ≤ 8 ∧ e.dslot ≤ 8) && decide (e.bar ≤ 15 ∨ e.bar = 31)
  let (_, rows, rs) := e.list
  !slots ||
  (match e.kind with
   | 0 => decide (bits e.p 32 32 ≠ 0 ∨ e.stride ≠ 0)
   | 1 => decide ((e.sslot = 8) = (e.dslot = 8) ∨ bits e.doff 19 29 ≠ 0)
   | 2 => decide (e.dslot ≠ 8 ∨ e.sslot = 8 ∨ rows = 0 ∨ rs = 0 ∨ 2047 < rs)
   | 3 => decide (e.sslot ≠ 8 ∨ e.dslot = 8 ∨ rows = 0 ∨ rs = 0 ∨ 2047 < rs)
   | 4 =>
     decide (bits e.p 32 32 ≠ 0 ∨ e.stride ≠ 0) || !(redAccepts e.rop e.rtype) ||
     decide (e.length % redSize e.rtype ≠ 0 ∨ e.soff % redSize e.rtype ≠ 0 ∨ e.doff % redSize e.rtype ≠ 0)
   | _ => true)

/-! ### Sectors -/

/-- Aligned 32-byte sectors of a destination range, as sizes from its start (R230). -/
def sectorCuts (dst : Nat) : Nat → Nat → List (Nat × Nat)
  | 0, _ => []
  | fuel + 1, n =>
    if n = 0 then []
    else
      let k := min n (32 - dst % 32)
      (0, k) :: (sectorCuts (dst + k) fuel (n - k)).map fun x => (x.1 + k, x.2)

/-- The sectors of a copy of a range. -/
def rangePieces (ds : Bool) (dst : Nat) (ss : Bool) (src n : Nat) : List Piece :=
  (sectorCuts dst (n / 32 + 2) n).map fun x =>
    { dstScratch := ds, dst := dst + x.1, len := x.2, srcScratch := ss, src := src + x.1, srcLen := x.2 }

/-- The sectors of the rows of CPYG and CPYX; index 0xFFFF_FFFF skips a row (R227). -/
def rowPieces (gather : Bool) (mem sp stride rs : Nat) (index : List Nat) : List Piece :=
  (List.range index.length).flatMap fun i =>
    let idx := index.getD i 0
    if idx = 2 ^ 32 - 1 then []
    else
      (List.range rs).map fun j =>
        let a := mem + idx * stride + 32 * j
        let b := sp + 32 * rs * i + 32 * j
        if gather then { dstScratch := true, dst := b, len := 32, srcScratch := false, src := a, srcLen := 32 }
        else { dstScratch := false, dst := a, len := 32, srcScratch := true, src := b, srcLen := 32 }

/-- A tensor layout entry (Table 7.6). -/
structure Layout where
  dw : List Nat
deriving DecidableEq, Repr

/-- The entry is in use. -/
def Layout.valid (y : Layout) : Bool := bit (y.dw.getD 0 0) 18
/-- Owning context. -/
def Layout.ctx (y : Layout) : Nat := bits (y.dw.getD 0 0) 0 12
/-- Bytes of an element. Table 7.6 gives esz 0 to 3 and a rank of 1 to 4 and says nothing of other values or of reserved
bits that are set: the model takes esz modulo 4, the rank as it stands, and no note of the reserved bits (DESIGN CHOICE,
log 50). -/
def Layout.size (y : Layout) : Nat := 2 ^ bits (y.dw.getD 0 0) 12 2
/-- Dimensions. -/
def Layout.rank (y : Layout) : Nat := bits (y.dw.getD 0 0) 15 3
/-- Size of a dimension. -/
def Layout.dim (y : Layout) (d : Nat) : Nat :=
  if d < y.rank then bits (y.dw.getD (1 + d / 2) 0) (32 * (d % 2)) 32 else 1
/-- Box size of a dimension. -/
def Layout.box (y : Layout) (d : Nat) : Nat := if d < y.rank then bits (y.dw.getD 6 0) (8 * d) 8 + 1 else 1
/-- Byte stride of a dimension: dimension 0 is contiguous, and DW5 to DW3 hold dimensions 3, 2 and 1. -/
def Layout.stride (y : Layout) (d : Nat) : Nat := if d = 0 then y.size else y.dw.getD (2 + d) 0

/-- Coordinates of the box of a CPYT (R227). -/
def Entry.coord (e : Entry) (d : Nat) : Int :=
  match d with
  | 0 => signed 32 (bits e.p 0 32)
  | 1 => signed 32 (bits e.p 32 32)
  | 2 => signed 16 (bits e.x 32 16)
  | _ => signed 16 (bits e.x 48 16)

/-- The image rows of a box: for each setting of dimensions 3, 2 and 1, whether it lies in range and its tensor offset
(R229). -/
def boxRows (y : Layout) (e : Entry) : List (Bool × Nat) :=
  (List.range (y.box 3)).flatMap fun (i3 : Nat) => (List.range (y.box 2)).flatMap fun (i2 : Nat) => (List.range (y.box 1)).map fun (i1 : Nat) =>
    let xs := [(1, e.coord 1 + (i1 : Int)), (2, e.coord 2 + (i2 : Int)), (3, e.coord 3 + (i3 : Int))]
    (xs.all fun x => decide (0 ≤ x.2 ∧ x.2 < (y.dim x.1 : Int)),
     (xs.map fun x => x.2.toNat * y.stride x.1).sum)

/-- The sectors of a CPYT (R229, R230): the part of each image sector whose elements are in range moves, and on a load
the rest is zero. A sector without such an element is written as zero on a load, and never counted. -/
def boxPieces (y : Layout) (e : Entry) (mem sp : Nat) (load : Bool) : List Piece :=
  let w := y.box 0 * y.size
  let c0 := e.coord 0
  let lo : Nat := (max 0 (-c0)).toNat
  let hi : Nat := (min (y.box 0 : Int) ((y.dim 0 : Int) - c0)).toNat
  let rows := boxRows y e
  (List.range rows.length).flatMap fun r =>
    let (inside, off) := rows.getD r (false, 0)
    (List.range (w / 32)).filterMap fun j =>
      let first := max (lo * y.size) (32 * j)
      let last := min (hi * y.size) (32 * j + 32)
      let img := sp + w * r + 32 * j
      let here := inside && decide (first < last)
      let a := mem + off + (c0 * (y.size : Int) + first).toNat
      if here then
        if load then some
          { dstScratch := true, dst := img, len := 32, srcScratch := false, src := a, srcLen := last - first
            skip := first - 32 * j }
        else some
          { dstScratch := false, dst := a, len := last - first, srcScratch := true, src := img + (first - 32 * j)
            srcLen := last - first }
      else if load then some
        { dstScratch := true, dst := img, len := 32, srcScratch := true, src := img, srcLen := 0, counted := false }
      else none

/-! ### The start of an entry -/

/-- The check of one side of an entry (R225): a capability slot with the permissions asked for, or a scratchpad
range. -/
def State.copySide (s : State) (bk slot lo n : Nat) (need : BitVec 16) (align : Nat) : Option Nat :=
  let b := s.block bk
  if slot = 8 then
    if b.scratchSize < lo + n ∨ (align ≠ 0 ∧ lo % align ≠ 0) then some 3 else none
  else if 2 ^ 64 ≤ lo then some 1
  else
    match s.capCheck b.ctx (mapGet {} b.copySlots slot) (need ||| permEN) (BitVec.ofNat 64 lo) n align with
    | some _ => some 1
    | none => none

/-- The address in memory of an offset in a slot, or the scratchpad offset. -/
def Block.slotAddr (b : Block) (slot off : Nat) : Nat :=
  if slot = 8 then off else ((mapGet {} b.copySlots slot).base + BitVec.ofNat 64 off).toNat

/-- The first failing check of a list. -/
def firstSome {α : Type} : List (Option α) → Option α
  | [] => none
  | some x :: _ => some x
  | none :: r => firstSome r

/-- The layout entry of a handle (R229), which CPYT reads when it starts. -/
def State.layoutOf (s : State) (ctx h : Nat) : Option Layout :=
  match mapFind s.ctxs ctx with
  | none => none
  | some c =>
    if c.lcount ≤ h then none
    else some { dw := (bytesDw 8 (s.mem.read (c.ltab + 64 * h) 64)).map BitVec.toNat }

/-- The layout entry of a CPYT has an uncorrectable error: its physical address (R257). -/
def State.layoutError (s : State) (bk : Nat) (e : Entry) : Option Nat :=
  (mapFind s.ctxs (s.block bk).ctx).bind fun c =>
    let pa := c.ltab + 64 * e.box.2
    if e.kind = 1 ∧ e.box.2 < c.lcount ∧ s.anyBad pa 64 then some pa else none

/-- The sectors of a CPYT, or the cause of its failure (R225, R229, R257). -/
def State.startBox (s : State) (bk : Nat) (e : Entry) : Except Nat (List Piece) :=
  let b := s.block bk
  let (sp, h) := e.box
  let load := decide (e.dslot = 8)
  let slot := if load then e.sslot else e.dslot
  match s.layoutOf b.ctx h with
  | none => .error 2
  | some y =>
    if (s.layoutError bk e).isSome then .error 6
    else if !y.valid || decide (y.ctx ≠ b.ctx) || decide (y.box 0 * y.size % 32 ≠ 0) || decide (sp % 32 ≠ 0) then .error 2
    else
      let img := y.box 0 * y.size * y.box 1 * y.box 2 * y.box 3
      let ps := boxPieces y e e.soff sp load
      let ends := (ps.filter fun p => p.counted).map fun p => if load then (p.src, p.src + p.srcLen) else (p.dst, p.dst + p.len)
      let lo := ends.foldl (fun a x => min a x.1) (2 ^ 80)
      let hi := ends.foldl (fun a x => max a x.2) 0
      let mem := if ends.isEmpty then s.copySide bk slot e.soff 0 (if load then permR else permW) 0
        else s.copySide bk slot lo (hi - lo) (if load then permR else permW) y.size
      match firstSome (if load then [mem, s.copySide bk 8 sp img 0 0] else [s.copySide bk 8 sp img 0 0, mem]) with
      | some c => .error c
      | none => .ok (boxPieces y e (b.slotAddr slot e.soff) sp load)

/-- The sectors of an entry, or the cause of its failure (R225). -/
def State.startEntry (s : State) (bk : Nat) (e : Entry) : Except Nat (List Piece) :=
  let b := s.block bk
  if e.malformed then .error 4
  else
    match e.kind with
    | 1 => s.startBox bk e
    | 2 =>
      let (list, rows, rs) := e.list
      let index := (chunks 4 rows (b.scratchRead list (4 * rows))).map leNat
      let used := index.filter fun i => decide (i ≠ 2 ^ 32 - 1)
      let span := if used.isEmpty then 0 else (used.foldl max 0) * e.stride + 32 * rs
      let checks := [s.copySide bk 8 list (4 * rows) 0 4,
        s.copySide bk e.sslot e.soff span permR 0,
        s.copySide bk 8 e.doff (32 * rs * rows) 0 0]
      match firstSome checks with
      | some c => .error c
      | none => .ok (rowPieces true (b.slotAddr e.sslot e.soff) e.doff e.stride rs index)
    | 3 =>
      let (list, rows, rs) := e.list
      let index := (chunks 4 rows (b.scratchRead list (4 * rows))).map leNat
      let used := index.filter fun i => decide (i ≠ 2 ^ 32 - 1)
      let span := if used.isEmpty then 0 else (used.foldl max 0) * e.stride + 32 * rs
      let checks := [s.copySide bk 8 list (4 * rows) 0 4, s.copySide bk 8 e.soff (32 * rs * rows) 0 0,
        s.copySide bk e.dslot e.doff span permW 0]
      match firstSome checks with
      | some c => .error c
      | none => .ok (rowPieces false (b.slotAddr e.dslot e.doff) e.soff e.stride rs index)
    | kind =>
      let red := decide (kind = 4)
      let align := if red then redSize e.rtype else 0
      let checks := [s.copySide bk e.sslot e.soff e.length permR align,
        s.copySide bk e.dslot e.doff e.length (if red then permW ||| permAT else permW) align]
      match firstSome checks with
      | some c => .error c
      | none =>
        .ok (rangePieces (decide (e.dslot = 8)) (b.slotAddr e.dslot e.doff) (decide (e.sslot = 8))
          (b.slotAddr e.sslot e.soff) e.length)

/-- The memory and scratchpad that an entry's sectors touch. -/
def pieceFoot (ps : List Piece) : Foot :=
  let one := fun (scratch : Bool) =>
    ps.flatMap fun p =>
      (if p.dstScratch == scratch then [(p.dst, p.len, true)] else []) ++
      (if p.srcScratch == scratch && decide (p.srcLen ≠ 0) then [(p.src, p.srcLen, false)] else [])
  { mem := one false, scratch := one true }

/-- The index list of a CPYG or CPYX in scratchpad: first byte and length (Table 7.3). -/
def Entry.listSpan (e : Entry) : Nat × Nat :=
  let (list, rows, _) := e.list
  if e.kind = 2 ∨ e.kind = 3 then (list, 4 * rows) else (0, 0)

/-- The scratchpad that an entry reads as it starts: its index list. -/
def Entry.listFoot (e : Entry) : Foot :=
  { scratch := if e.listSpan.2 = 0 then [] else [(e.listSpan.1, e.listSpan.2, false)] }

/-- The footprint of an entry (R190, R224): what its sectors touch, and its index list. -/
def Entry.foot (e : Entry) (ps : List Piece) : Foot :=
  let f := pieceFoot ps
  { f with scratch := e.listFoot.scratch ++ f.scratch }

/-- An entry with a footprint is held by an incomplete entry of its ring that started before it or, where an instruction
published it, by an engine operation of the publishing warp (R190, R224). -/
def State.copyHeld (s : State) (block : Nat) (e : Entry) (foot : Foot) : Bool :=
  let b := s.block block
  (b.copies.any fun c => ((entryOf c.2.words).foot c.2.pieces).meets foot) ||
  e.pub && (s.core b.core).ops.any fun o => decide (o.warp = warpKey block e.warp) && o.kind.foot.meets foot

/-- The scratchpad row with an uncorrectable error that the start of an entry reads: in the ring's header, the entry, or
an index list within the scratchpad (R396). -/
def Block.tornStart (b : Block) (r : Ring) (e : Entry) : Option Nat :=
  let (list, n) := e.listSpan
  ((b.tornBytes r.off 32).or (b.tornBytes (r.entryAt r.head) 32)).or
    (if n = 0 ∨ e.malformed ∨ b.scratchSize < list + n then none else b.tornBytes list n)

/-- A barrier that an entry names. -/
def Block.onBar (b : Block) (n : Nat) (f : Barrier → Barrier) : Block := if n ≤ 15 then b.setBar n (f (b.bar n)) else b

/-- An entry fails (R225): the ring halts, done counts it, and its barrier's failed bit is set. `head` is the next entry
to start. -/
def Block.failEntry (b : Block) (r : Ring) (q head : BitVec 32) (bar cause : Nat) : Block :=
  let new := { r.halt q cause with finished := r.finished + 1, head, progress := 0 }
  ({ b with copies := mapErase b.copies q.toNat }.onBar bar fun x => x.fail q.toNat).writeRing r new

/-- How far an entry had come before a save, if it had started: none where it had ended (R250). -/
def Ring.resumed (r : Ring) (q : Nat) : Option (Option (Nat × BitVec 4)) :=
  (r.begun.find? fun x => decide (x.1 = q)).map Prod.snd

/-- Start an entry that has passed its checks. -/
def Block.startCopy (b : Block) (r : Ring) (words : List Word) (ps : List Piece) : Block :=
  let q := r.head.toNat
  let old := ((r.resumed q).getD none).getD (0, 0)
  let progress := if b.copies.isEmpty then r.progress else old.1
  { b with copies := mapPut b.copies q { seq := q, words, pieces := ps, progress, flags := old.2 } }.writeRing r
    { r with head := r.head + 1, begun := r.begun.filter fun x => decide (x.1 ≠ q) }

/-- The next published entry of a ring starts (R224, R225): unless the ring is corrupt, it reads the entry after an
acquire, and checks it. One whose footprint overlaps that of an earlier entry waits, and so does one that an instruction
published and that overlaps the publishing warp's engine operations (R190); its index list is read only once nothing
holds it. One that reads a scratchpad row with an uncorrectable error fails with cause 0x06 (R396). -/
def execCopyEntryStart (block : Nat) (s : State) : Out :=
  .next (match (s.block block).ring with
    | none => s
    | some r =>
      let b := s.block block
      let v := b.notify r
      let q := r.head
      if r.halted && (r.resumed q.toNat).isNone || !(b.copies.all fun c => c.2.fault.isSome) || s.engineStopped b.ctx then s
      else if !r.halted && b.ringCorrupt r || decide (2 ^ r.k < (v - r.finished).toNat) then
        s.modBlock block fun b => b.putRing (r.halt q 5)
      else if v = q then s
      else if r.resumed q.toNat = some none then
        s.modBlock block fun b =>
          b.putRing { r with head := q + 1, progress := 0, begun := r.begun.filter fun x => decide (x.1 ≠ q.toNat) }
      else
        let words := bytesDw 4 (b.scratchRead (r.entryAt q) 32)
        let e := entryOf words
        if s.copyHeld block e e.listFoot then s
        else
        match b.tornStart r e with
        | some row => ((s.sramError b.core 1 row).modBlock block fun b => b.failEntry r q (q + 1) e.bar 6).endBlock block
        | none =>
        match s.startEntry block e with
        | .error c =>
          let s := match s.layoutError block e with
            | some pa => if c = 6 then s.memError pa true else s
            | none => s
          (s.modBlock block fun b => b.failEntry r q (q + 1) e.bar c).endBlock block
        | .ok ps =>
          if s.copyHeld block e (e.foot ps) then s else s.modBlock block fun b => b.startCopy r words ps)

/-! ### One sector -/

/-- One element of CPYR: dest := op(dest, src) (R228). -/
def redElement (op ty : Nat) (d x : Nat) : Nat × FlagSet :=
  let w := 8 * redSize ty
  let uns := decide (ty = 1 ∨ ty = 3)
  match op with
  | 0 => ((d + x) % 2 ^ w, 0)
  | 1 => (if toInt w uns d ≤ toInt w uns x then d else x, 0)
  | 2 => (if toInt w uns d ≤ toInt w uns x then x else d, 0)
  | 3 =>
    let f := if ty = 5 then fp64 else fp32
    f.convert 0 true (FVal.add 0 (f.decode d) (f.decode x))
  | 4 => fp32.convert 0 true ((fp32.decode d).pickMax (fp32.decode x))
  | _ => (d ||| x, 0)

/-- The elements of one sector of CPYR together. -/
def redBytes (op ty : Nat) (d x : List Byte) : List Byte × FlagSet :=
  let n := redSize ty
  let k := d.length / n
  let es := ((chunks n k d).zip (chunks n k x)).map fun y => redElement op ty (leNat y.1) (leNat y.2)
  (es.flatMap fun e => leBytes n e.1, es.foldl (fun f e => f ||| e.2) 0)

/-- Read bytes for a copy. -/
def State.copyRead (s : State) (bk : Nat) (scratch : Bool) (a n : Nat) : Except FaultInfo (List Byte) × State :=
  if n = 0 then (.ok [], s)
  else if scratch then (.ok ((s.block bk).scratchRead a n), s)
  else s.engineRead (s.block bk).core (s.ctxOf bk) (BitVec.ofNat 64 a) n

/-- Write bytes for a copy. -/
def State.copyWrite (s : State) (bk : Nat) (scratch : Bool) (a : Nat) (l : List Byte) : Except FaultInfo Unit × State :=
  if scratch then (.ok (), s.modBlock bk fun b => b.scratchWrite a l)
  else s.engineWrite (s.block bk).core (s.ctxOf bk) (BitVec.ofNat 64 a) l

/-- The bytes that a sector of CPYR replaces: read under write permission too, so that a replay never applies a sector
twice (R228). -/
def State.redRead (s : State) (bk : Nat) (p : Piece) : Except FaultInfo (List Byte) × State :=
  if p.dstScratch then (.ok ((s.block bk).scratchRead p.dst p.len), s)
  else
    match s.translateRange (some (clusterOf (s.block bk).core)) (s.ctxOf bk) { r := true, w := true } 2 (BitVec.ofNat 64 p.dst) p.len with
    | (.error i, s) => (.error i, s)
    | (.ok spans, s) =>
      match s.unreadable spans with
      | some (o, pa, pte) =>
        (.error { va := BitVec.ofNat 64 (p.dst + o), write := 2, mem := true }, s.noteUnreadable pte pa 1 true)
      | none =>
        let s := spans.foldl (fun s x => (s.discardRange (s.block bk).core x.1 x.2.2).settleRange x.1 x.2.2) s
        (.ok (spans.flatMap fun x => s.mem.read x.1 x.2.2), s)

/-- Move one sector of an entry: the flags that it raises. -/
def State.copyPiece (s : State) (bk : Nat) (e : Entry) (p : Piece) : Except FaultInfo FlagSet × State :=
  match s.copyRead bk p.srcScratch p.src p.srcLen with
  | (.error i, s) => (.error i, s)
  | (.ok l, s) =>
    let img := List.replicate p.skip 0 ++ l ++ List.replicate (p.len - p.skip - l.length) 0
    let put := fun (s : State) (l : List Byte) (f : FlagSet) =>
      match s.copyWrite bk p.dstScratch p.dst l with
      | (.error i, s) => (Except.error i, s)
      | (.ok _, s) => (.ok f, s)
    if e.kind = 4 then
      match s.redRead bk p with
      | (.error i, s) => (.error i, s)
      | (.ok old, s) =>
        let (new, f) := redBytes e.rop e.rtype old img
        put s new f
    else put s img 0

/-- The scratchpad row with an uncorrectable error that a sector of an entry would read (R396). -/
def Block.tornPiece (b : Block) (e : Entry) (p : Piece) : Option Nat :=
  (if p.srcScratch then b.tornBytes p.src p.srcLen else none).or
    (if e.kind = 4 ∧ p.dstScratch then b.tornBytes p.dst p.len else none)

/-- Fail a started entry of a ring (R219, R225, R265). -/
def State.failCopy (s : State) (block q : Nat) : State :=
  match mapFind (s.block block).copies q, (s.block block).ring with
  | some c, some r =>
    (s.modBlock block fun b => b.failEntry r (BitVec.ofNat 32 q) r.head (entryOf c.words).bar 6).endBlock block
  | _, _ => s

/-- The copy engine's next sector of the running entry of a block (R230, R233): one that reads a scratchpad row with an
uncorrectable error fails its entry with cause 0x06 (R396). -/
def State.copyStep (s : State) (bk : Nat) (c : CopyOp) : State :=
  let e := entryOf c.words
  match c.pieces[c.progress]? with
  | none => s
  | some p =>
    match (s.block bk).tornPiece e p with
    | some row => (s.sramError (s.block bk).core 1 row).failCopy bk c.seq
    | none =>
    match s.copyPiece bk e p with
    | (.error i, s) => s.stopAt (1, bk, c.seq) i
    | (.ok f, s) =>
      let s := s.modBlock bk fun b =>
        { b with copies := mapModify b.copies c.seq fun c => { c with progress := c.progress + 1, flags := c.flags ||| f } }
      let s := s.modBlock bk fun b =>
        match b.ring with
        | some r => b.writeRing r { r with progress := c.progress + 1 }
        | none => b
      if p.counted then s.modBlock bk fun b => b.onBar e.bar fun x => x.sector else s

/-- The end of a running entry (R220, R228): done counts it, and an entry of CPYR that an instruction published sets
its warp's flags. -/
def execCopyEntryComplete (block entry : Nat) (s : State) : Out :=
  .next (match mapFind (s.block block).copies entry, (s.block block).ring with
    | some c, some r =>
      if c.pieces.length ≤ c.progress ∧ c.fault = none then
        let e := entryOf c.words
        let s := s.modBlock block fun b =>
          { b with copies := mapErase b.copies entry }.writeRing r { r with finished := r.finished + 1, progress := 0 }
        let s := if e.pub then s.modWarp (warpKey block e.warp) fun w => w.raiseFlags c.flags else s
        s.endBlock block
      else s
    | _, _ => s)

/-- The copy engine's work for one block in one clk. -/
def State.copyTick (s : State) (bk : Nat) : State :=
  let b := s.block bk
  if s.engineStopped b.ctx then s
  else
    match b.copies.find? fun c => c.2.fault.isNone with
    | some (q, c) =>
      if c.pieces.length ≤ c.progress then s.post (.copyEntryComplete bk q)
      else s.copyStep bk c
    | none =>
      match b.ring with
      | some r =>
        if !r.halted && (decide (b.notify r ≠ r.head) || b.ringCorrupt r) || (r.resumed r.head.toNat).isSome then
          s.post (.copyEntryStart bk)
        else s
      | none => s

/-! ### The instructions -/

/-- Slots and barrier in word 2 (R226). -/
def copySel (f : Fields) : Nat × Nat × Nat := (fld f.w2 0 4, fld f.w2 4 4, fld f.w2 8 5)

/-- An instruction's check of a scratchpad operand (R177, R226). -/
def Block.copyBounds (b : Block) (off : Word) (n : Nat) : Option Failure :=
  if off.msb || decide (b.scratchSize < off.toNat + n) then some (0x19, off) else none

/-- The ring has no space for a further entry (R222). -/
def Block.ringFull (b : Block) (r : Ring) : Bool := decide (2 ^ r.k ≤ (b.notify r - r.finished).toNat)

/-- Publish an entry (R222): it waits for ring space, and then writes the entry and notify after a release. -/
def Env.publish (en : Env) (f : Fields) (e : Entry) : Res :=
  match en.block.ring with
  | none => en.fail 0x30
  | some r =>
    let q := en.block.notify r
    if en.block.ringFull r then .wait en.s .ringSpace
    else
      let s := (en.s.release en.key).modBlock en.bk fun b =>
        (b.scratchWrite (r.entryAt q) ([e.soff, e.doff, e.p, e.x].flatMap (leBytes 8))).scratchWrite r.off
          (leBytes 4 (q + 1).toNat)
      .next (s.putWarp en.key (en.w.setS f.d.toNat (q.zeroExtend 64)))

/-- DW3 of an entry that an instruction publishes (Table 7.3). -/
def Env.entryTail (en : Env) (f : Fields) (kind aux rop rtype : Nat) : Nat :=
  let (ss, ds, bar) := copySel f
  kind + 2 ^ 4 * ss + 2 ^ 8 * ds + 2 ^ 12 * bar + 2 ^ 17 * rop + 2 ^ 20 * rtype + 2 ^ 23 + 2 ^ 24 * warpId en.key +
    2 ^ 32 * aux

/-- The common form of the instructions that publish: an absent or halted ring, then the scratchpad operands, then
counts, alignment and pairings (R226). -/
def publisher (f : Fields) (s : State) (scratch : Env → List (Option Failure)) (bad : Env → Bool) (e : Env → Entry) : Out :=
  native f s fun en =>
    match en.block.ring with
    | none => en.fail 0x30
    | some r =>
      if r.halted then en.fail 0x30
      else
        match firstSome (scratch en) with
        | some x => en.failIn en.s x
        | none => if bad en then en.fail 0x22 else en.publish f (e en)

/-- Source and destination offsets: s[A] and s[A + 1]. -/
def Env.copyOffs (en : Env) (f : Fields) : Word × Word := (en.w.getS f.a.toNat, en.w.getS (f.a.toNat + 1))

/-- The scratchpad checks of CPY and CPYR. -/
def Env.rangeBounds (en : Env) (f : Fields) : List (Option Failure) :=
  let (ss, ds, _) := copySel f
  let (so, doff) := en.copyOffs f
  let n := fld (en.sB f) 0 32
  [if ss = 8 then en.block.copyBounds so n else none, if ds = 8 then en.block.copyBounds doff n else none]

/-- CPY (R227). -/
def execCpy (f : Fields) (s : State) : Out :=
  publisher f s (fun en => en.rangeBounds f) (fun _ => false) fun en =>
    { soff := (en.copyOffs f).1.toNat, doff := (en.copyOffs f).2.toNat, p := fld (en.sB f) 0 32
      x := en.entryTail f 0 0 0 0 }

/-- CPYR (R228). -/
def execCpyr (f : Fields) (s : State) : Out :=
  let ty := fld f.mod 3 3
  publisher f s (fun en => en.rangeBounds f)
    (fun en =>
      let (so, doff) := en.copyOffs f
      let n := redSize ty
      decide (so.toNat % n ≠ 0 ∨ doff.toNat % n ≠ 0 ∨ fld (en.sB f) 0 32 % n ≠ 0))
    fun en =>
      { soff := (en.copyOffs f).1.toNat, doff := (en.copyOffs f).2.toNat, p := fld (en.sB f) 0 32
        x := en.entryTail f 4 0 (fld f.mod 0 3) ty }

/-- CPYT (R227): exactly one slot is the scratchpad, and c2 and c3, the halves of s[C + 1], fit 16 bits (log 15). The
length of the image is known only at the start, so at issue the scratchpad operand is checked as an access of one byte
(R177; DESIGN CHOICE, log 50). -/
def execCpyt (f : Fields) (s : State) : Out :=
  let (ss, ds, _) := copySel f
  let load := decide (ds = 8)
  let sp := fun (en : Env) => if load then (en.copyOffs f).2 else (en.copyOffs f).1
  let hi := fun (en : Env) => (en.w.getS (f.c.toNat + 1)).toNat
  let c2 := fun en => signed 32 (bits (hi en) 0 32)
  let c3 := fun en => signed 32 (bits (hi en) 32 32)
  publisher f s (fun en => [if ss = 8 ∨ ds = 8 then en.block.copyBounds (sp en) 1 else none])
    (fun en =>
      decide ((ss = 8) = (ds = 8)) ||
      decide (c2 en < -32768 ∨ 32767 < c2 en ∨ c3 en < -32768 ∨ 32767 < c3 en))
    fun en =>
      { soff := if load then (en.copyOffs f).1.toNat else (en.copyOffs f).2.toNat
        doff := (sp en).toNat % 2 ^ 19 + 2 ^ 48 * fld (en.sB f) 0 16, p := (en.sC f).toNat
        x := en.entryTail f 1 (wrap 16 (c2 en) + 2 ^ 16 * wrap 16 (c3 en)) 0 0 }

/-- The scratchpad checks of CPYG and CPYX: the index list and the image (R227). -/
def Env.listBounds (en : Env) (f : Fields) (image : Word) : List (Option Failure) :=
  let x := en.sB f
  let rows := fld x 32 16
  [en.block.copyBounds (BitVec.ofNat 64 (fld x 0 32)) (4 * rows), en.block.copyBounds image (32 * rows * fld x 48 16)]

/-- The counts, pairing and alignment of CPYG and CPYX. -/
def Env.listBad (en : Env) (f : Fields) (gather : Bool) : Bool :=
  let x := en.sB f
  let (ss, ds, _) := copySel f
  decide (fld x 32 16 = 0 ∨ fld x 48 16 = 0 ∨ 2047 < fld x 48 16 ∨ fld x 0 32 % 4 ≠ 0) ||
  (if gather then decide (ds ≠ 8 ∨ ss = 8) else decide (ss ≠ 8 ∨ ds = 8))

/-- CPYG (R227). -/
def execCpyg (f : Fields) (s : State) : Out :=
  publisher f s (fun en => en.listBounds f (en.copyOffs f).2) (fun en => en.listBad f true) fun en =>
    { soff := (en.copyOffs f).1.toNat, doff := (en.copyOffs f).2.toNat, p := (en.sB f).toNat
      x := en.entryTail f 2 (fld (en.sC f) 0 32) 0 0 }

/-- CPYX (R227). -/
def execCpyx (f : Fields) (s : State) : Out :=
  publisher f s (fun en => en.listBounds f (en.copyOffs f).1) (fun en => en.listBad f false) fun en =>
    { soff := (en.copyOffs f).1.toNat, doff := (en.copyOffs f).2.toNat, p := (en.sB f).toNat
      x := en.entryTail f 3 (fld (en.sC f) 0 32) 0 0 }

/-- The published entries of a ring that have not started, or have to go on after a save. -/
def Block.pending (b : Block) (r : Ring) : List (BitVec 32) :=
  ((List.range (min (2 ^ r.k) (b.notify r - r.head).toNat)).map fun i => r.head + BitVec.ofNat 32 i).filter
    fun q => decide (r.resumed q.toNat ≠ some none)

/-- Entries abandoned by CPY.init set the failed bit of their barriers (R221). -/
def Block.abandon (b : Block) (r : Ring) : Block :=
  (b.pending r).foldl
    (fun b q => b.onBar (entryOf (bytesDw 4 (b.scratchRead (r.entryAt q) 32))).bar fun x => x.fail r.failSeq.toNat) b

/-- Every entry of a ring that had started has ended. -/
def Block.drained (b : Block) (r : Ring) : Bool := b.copies.isEmpty && r.begun.all fun x => x.2.isNone

/-- CPY.init (R221). -/
def execCpyInit (f : Fields) (s : State) : Out :=
  native f s fun en =>
    let k := fld f.w2 0 4
    let off := en.sA f
    let b := en.block
    let fresh := fun (b : Block) =>
      ({ b with ring := some { off := off.toNat, k } }.scratchWrite off.toNat (List.replicate 32 0)).putRing
        { off := off.toNat, k }
    match b.copyBounds off (32 + 32 * 2 ^ k) with
    | some x => en.failIn en.s x
    | none =>
      if off.toNat % 32 ≠ 0 ∨ k < 4 ∨ 8 < k then en.fail 0x22
      else
        match b.ring with
        | none => .next (en.s.modBlock en.bk fresh)
        | some r =>
          if !r.halted && decide (b.notify r ≠ r.finished) then en.fail 0x30
          else if r.halted && !(b.drained r) then .wait en.s .ringDrain
          else .next (en.s.modBlock en.bk fun b => fresh (if r.halted then b.abandon r else b))

/-- A published entry that has not completed names a capability slot. -/
def Block.slotInUse (b : Block) (n : Nat) : Bool :=
  let names := fun (l : List Word) => decide ((entryOf l).sslot = n ∨ (entryOf l).dslot = n)
  (b.copies.any fun c => names c.2.words) ||
  (match b.ring with
   | some r => (b.pending r).any fun q => names (bytesDw 4 (b.scratchRead (r.entryAt q) 32))
   | none => false)

/-- CPY.cap (R221). -/
def execCpyCap (f : Fields) (s : State) : Out :=
  native f s fun en =>
    let n := fld f.w2 0 3
    if en.block.slotInUse n then .wait en.s (.copySlot n)
    else .next (en.s.modBlock en.bk fun b => { b with copySlots := mapSet {} b.copySlots n (en.w.getC f.b.toNat) })

end Sys2Proof.Machine
end

