-- ==== Sys2Proof/Machine/Ready.lean ====
section
/-! DEFINITION. When a waiting slot may issue its instruction again (R33, R35), and what it keeps from the warp's other
slot meanwhile (R38). -/
namespace Sys2Proof.Machine

/-- While an instruction waits so, its checks are not over, or the rule says that the warp waits: the warp's other slot
fetches nothing (R38, R187, R201, R202, R214, R222, R241). -/
def Wait.holds : Wait → Bool
  | .handle _ warp => warp
  | .batch _ => true
  | .ringSpace => true
  | .mmap _ => true
  | .pod _ _ _ _ => true
  | .load _ => true
  | .reads _ _ => true
  | .readFault _ _ _ => true
  | .barrier _ _ => false
  | .set _ _ => false
  | .pkg _ _ _ => false
  | .tile _ _ => false
  | .rows _ _ _ => false
  | .ringDrain => false
  | .copySlot _ => false

/-- The arrivals of a tile-table entry suffice, or it cannot be read: TTWAIT looks again (R249). -/
def State.tileArrived (s : State) (core ctx : Nat) (t : Cap) (i : Nat) : Bool :=
  match (s.tileView core ctx t i).1 with
  | .ok x => decide (x.fld 7 0 32 ≤ x.fld 6 32 32)
  | .error _ => true

/-- What an instruction of a warp waits on is over. An MMAP, and a POD whose partner has not exited, go on by an event
of the other member. -/
def State.waitOver (s : State) (key : Nat) : Wait → Bool
  | .barrier b phase =>
    let x := (s.block (warpBlock key)).bar b
    decide (x.phase ≠ phase) || x.stopped
  | .set n phase => decide ((mapGet {} (s.block (warpBlock key)).sets n).phase ≠ phase)
  | .pkg b gen _ =>
    match mapFind s.ctxs (s.ctxOf (warpBlock key)) with
    | some c => decide ((mapGet {} c.sbars b).gen ≠ gen)
    | none => true
  | .handle uid _ => !(s.opOpen uid)
  | .batch b => !(s.batchOpen key b)
  | .tile t i => s.tileArrived (s.block (warpBlock key)).core (s.ctxOf (warpBlock key)) t i
  | .rows rows sides owners => !(s.accHeld key rows sides owners)
  | .ringSpace =>
    let b := s.block (warpBlock key)
    match b.ring with
    | some r => r.halted || !(b.ringFull r)
    | none => true
  | .ringDrain =>
    let b := s.block (warpBlock key)
    match b.ring with
    | some r => b.drained r
    | none => true
  | .copySlot n => !((s.block (warpBlock key)).slotInUse n)
  | .mmap _ => false
  | .pod partner _ _ _ => (mapFind s.warps (warpKey (warpBlock key) partner)).isNone
  | .load op =>
    match mapFind s.fab.gridOps op with
    | some g => g.failed.isSome || g.reply.isSome
    | none => true
  | .reads va n => !(s.readsHeld key va n)
  | .readFault _ _ w => w.isNone

end Sys2Proof.Machine
end

