-- ==== Sys2Proof/Machine/Issue.lean ====
section
/-! DEFINITION. Issue of a warp (R10, R11, R20, R37, R87, R107): both slots are fetched and decoded, conflicts are
settled, the meanings run in slot order, and the exceptions of the cycle are delivered. -/
namespace Sys2Proof.Machine

/-- What a slot is about to issue. -/
inductive Look where
  /-- An instruction whose decode checks pass, or the event of a word that is no instruction. -/
  | run (i : Instr) (is : Issue)
  /-- A failed fetch, or a decode fault of checks 3 to 5 of Table 3.10: the cause and trap.addr. -/
  | bad (cause : BitVec 16) (addr : Word) (is : Issue)
  /-- An instruction that reads a register row with an uncorrectable error: the row's index (R396). -/
  | torn (row : Nat) (is : Issue)
deriving DecidableEq, Repr

/-- The registers that an instruction names, those that it writes, and whether it is long-latency. -/
def regsOf (i : Instr) : List Reg × List Reg × Bool :=
  match nativeSig i with
  | some (f, g) => (sigNames f g, sigDests f g, g.ll)
  | none =>
    match frSig i with
    | some (f, g) => ((frVregs f g).map fun r => ⟨.v, r⟩, [], false)
    | none => ([], [], false)

/-- The v registers that an instruction reads: a destination too where the instruction reads it (R34). -/
def vReads (i : Instr) : List Nat :=
  let v := fun (l : List Reg) => l.filterMap fun r => if r.cls = .v then some r.idx else none
  match nativeSig i with
  | some (f, g) =>
    let keeps := !g.dst || decide (g.op = 0x2C ∧ g.fn = some 6) || decide (g.op = 0x30) ||
      (decide (g.op = 0x33 ∨ g.op = 0x3C ∧ g.fn = some 2) && decide (fld f.mod 0 4 = 9))
    v ((if keeps then fieldRegs g.d f.d else []) ++ fieldRegs g.a f.a ++ fieldRegs g.b f.b ++ fieldRegs g.c f.c ++ g.srcs)
  | none =>
    match frSig i with
    | some (f, g) =>
      (if g.a = .v then [f.a.toNat] else []) ++ (if g.b = .v then [f.b.toNat] else []) ++ g.more ++
        (if g.fop = 0x19 ∨ g.fop = 0x1B then [f.d.toNat] else [])
    | none => []

/-- A register row with an uncorrectable error that an instruction reads: its index (R396). -/
def Warp.tornRead (w : Warp) (i : Instr) : Option Nat :=
  let (names, dests, _) := regsOf i
  w.torn.findSome? fun x =>
    if (x.1.cls = .v ∧ (vReads i).contains x.1.idx) ∨ (names.contains x.1 ∧ !dests.contains x.1) then some x.2 else none

/-- LA of an instruction; 0 for forerunner code (R104). -/
def laOf (i : Instr) : Nat :=
  match nativeSig i with
  | some (f, _) => f.la.toNat
  | none => 0

/-- The words of fetched bytes. -/
def wordsOf (l : List Byte) : List (BitVec 32) := (List.range (l.length / 4)).map fun i => wordAt l (4 * i)

/-- Fetch and decode the next instruction of a slot, with the checks of Table 3.10 in their order. -/
def State.look (s : State) (key : Nat) (w : Warp) (k : Nat) : Look × State :=
  let x := w.slot k
  let is : Issue := { warp := key, slot := k, pc := x.pc }
  match s.fetch key w x.pc with
  | (.error (c, a), s) => (.bad c a is, s)
  | (.ok (l, fr), s) =>
    let is := { is with len := if fr then 8 else l.length, fr, words := wordsOf l }
    match decode fr l with
    | .illegal => (.run .illegalInstruction is, s)
    | .reserved => (.bad 0x02 0 is, s)
    | .instr i _ =>
      let (names, dests, ll) := regsOf i
      if names.any fun r => decide (r.cls = .v ∧ (s.block (warpBlock key)).vregs ≤ r.idx) then (.bad 0x03 0 is, s)
      else if x.windows.any fun v => names.any fun r => v.regs.contains r then (.bad 0x04 0 is, s)
      else
        match w.tornRead i with
        | some row => (.torn row is, s)
        | none => (.run i { is with opens := if ll then dests else [], la := if ll then laOf i else 0 }, s)

/-! ### Conflicts between the slots of a warp -/

/-- The shared units of Table 3.7's groups: 0 the scalar unit, 1 the memory port, 2 the transcendental unit, 3 the
matrix engine port, 4 the copy engine port (R10, R34, R105, R144). -/
def unitOfMajor (op fn : Nat) : List Nat :=
  if op ≤ 0x0F then [0]
  else if 0x22 ≤ op ∧ op ≤ 0x25 then [0]
  else if 0x28 ≤ op ∧ op ≤ 0x2A then [0]
  else if op = 0x2B then (if fn = 2 ∨ fn = 3 then [0, 1] else [0])
  else if op = 0x2F then [2]
  else if 0x31 ≤ op ∧ op ≤ 0x33 then [1]
  else if op = 0x34 then (if fn ≤ 1 then [1] else [0])
  else if 0x35 ≤ op ∧ op ≤ 0x38 then [3]
  else if op = 0x39 then [4]
  else if op = 0x3A ∨ op = 0x3B then [0]
  else if op = 0x3C ∨ op = 0x3D then [1]
  else []

/-- The units of a forerunner opcode: those of its native counterpart (Table 3.14); the opcodes that only move nesting
counters take the scalar unit, as the other control opcodes do (log 42). -/
def unitOfFr (fop : Nat) : List Nat :=
  if fop = 0x00 ∨ fop = 0x0F ∨ fop = 0x12 ∨ fop = 0x13 ∨ 0x20 ≤ fop then [0]
  else if 0x18 ≤ fop ∧ fop ≤ 0x1C then [1]
  else []

/-- The units of an instruction. -/
def unitsOfInstr (i : Instr) : List Nat :=
  match nativeSig i with
  | some (_, g) => unitOfMajor g.op (g.fn.getD 0)
  | none =>
    match frSig i with
    | some (_, g) => unitOfFr g.fop
    | none => []

/-- A predicate write of the whole register, as opposed to single lane bits (R10, R118, R120). -/
def wholePredicate (f : Fields) (g : Sig) : Bool :=
  if 0x22 ≤ g.op ∧ g.op ≤ 0x25 then decide (btype f = 0)
  else if g.op = 0x28 then !(mb f 5)
  else if g.op = 0x29 then !(mb f 0)
  else decide (g.op = 0x34)

/-- The registers whose writes count as shared (R10, R182). -/
def sharedWrites (i : Instr) : List Reg :=
  match nativeSig i with
  | some (f, g) =>
    (sigDests f g).filter fun r =>
      match r.cls with
      | .s => true
      | .h => true
      | .c => true
      | .p => wholePredicate f g
      | .v => false
      | .n => true
  | none => []

/-- An instruction that can push, pop, merge, park or move the other slot issues alone (R11): every RCV, EXIT, RTT and
DPOP, and a BRV that splits. -/
def issuesAlone (w : Warp) (k : Nat) (i : Instr) : Bool :=
  match i with
  | .rcv _ => true
  | .exit _ => true
  | .rtt _ => true
  | .dpop _ => true
  | .brv f =>
    let m := (w.slot k).mask
    let t := m &&& guardOf w f.pg.toNat (f.pn == 1#1) &&& w.getP f.a.toNat
    decide (t ≠ 0 ∧ t ≠ m)
  | _ => false

/-- A looked-up instruction issues alone (R11). -/
def Look.alone (w : Warp) (k : Nat) : Look → Bool
  | .run i _ => issuesAlone w k i
  | .bad _ _ _ => false
  | .torn _ _ => false

/-- Two looked-up instructions of a warp cannot issue in one cycle: one of them issues alone, whatever the other slot
holds (R11), or both need a shared unit or write a shared register (R10, R105). -/
def conflicts (w : Warp) (a b : Look) : Bool :=
  a.alone w 0 || b.alone w 1 ||
  (match a, b with
   | .run i _, .run j _ =>
     ((unitsOfInstr i).any fun u => (unitsOfInstr j).contains u) ||
     ((sharedWrites i).any fun r => (sharedWrites j).contains r)
   | _, _ => false)

/-! ### Readiness -/

/-- Destinations of a warp's GATOMs whose values are still to come: the scoreboard holds instructions that name them
(R36, R244). -/
def State.awaited (s : State) (key : Nat) : List Reg :=
  s.fab.gridOps.flatMap fun e =>
    match e.2.ret with
    | some (_, d, n) => if e.2.warp = key ∧ e.2.fn = 2 ∧ e.2.reply.isNone then regRange .v d (n / 4) else []
    | none => []

/-- The scoreboard holds the next instruction of a slot (R36). -/
def State.scoreHeld (s : State) (key : Nat) (w : Warp) (k : Nat) : Bool :=
  let l := s.awaited key
  !l.isEmpty &&
  (match (s.look key w k).1 with
   | .run i _ => (regsOf i).1.any fun r => l.contains r
   | .bad _ _ _ => false
   | .torn _ _ => false)

/-- A slot issues only if it is live and not parked (R10). -/
def Slot.canIssue (x : Slot) : Bool := x.live && !x.parked

/-- A slot can issue in this clk (R10): what it waits on is over; or it waits on nothing, the other slot does not keep it
from fetching (R38), and the scoreboard does not hold it. -/
def State.slotReady (s : State) (key : Nat) (w : Warp) (k : Nat) : Bool :=
  let x := w.slot k
  x.canIssue &&
  (match x.wait with
   | some v => s.waitOver key v
   | none => !((w.slot (1 - k)).wait.any Wait.holds) && !(s.scoreHeld key w k))

/-! ### Running -/

/-- Run what a slot looked up; `paired` tells that the other slot issues in the same cycle. -/
def runLook (ex : Instr → State → Out) (s : State) (l : Look) (paired : Bool) : Out :=
  match l with
  | .run i is => ex i { s with cur := some { is with paired } }
  | .bad cause addr is =>
    .next ((s.env { is with paired } fun _ => BitVec.allOnes 64).raise s { cause, addr })
  | .torn row is =>
    let en := s.env { is with paired } fun _ => BitVec.allOnes 64
    .next (en.raise (s.sramError en.block.core 0 row) (sramTrap 0))

/-- Deliver what the cycle raised: slot 0's exception, or slot 1's where it is the only one, then a debugger halt
(R20, R107, R330). -/
def State.deliver (s : State) (key : Nat) (suppressed : Bool) : State :=
  let halt := match mapFind s.warps key with
    | some w => w.haltPending
    | none => none
  let s := s.modWarp key fun w => { w with haltPending := none }
  let traps := s.traps
  let s := { s with traps := [] }
  let s := match traps with
    | [] => s
    | (k, pc, t) :: _ => s.takeTrap key k pc t suppressed halt.isSome
  match halt with
  | some pc => s.startHalt key pc
  | none => s

/-- A slot that lost a conflict counts it; a slot that issues starts again (R10). -/
def State.setLosses (s : State) (key k : Nat) (n : Nat) : State :=
  s.modWarp key fun w => w.setSlot k { w.slot k with losses := n }

/-- Issue one slot alone. -/
def issueOne (ex : Instr → State → Out) (s : State) (key k : Nat) (l : Look) : Out :=
  match runLook ex (s.setLosses key k 0) l false with
  | .next s => .next { s with cur := none }
  | .fault r => .fault r
  | .refused r => .refused r

/-- Co-issue both slots: slot 0's effects come before slot 1's (R11), and a slot 1 that would raise an exception as
well as slot 0 is not executed (R20). -/
def issueBoth (ex : Instr → State → Out) (s : State) (key : Nat) (a b : Look) : Out :=
  match runLook ex ((s.setLosses key 0 0).setLosses key 1 0) a true with
  | .fault r => .fault r
  | .refused r => .refused r
  | .next s0 =>
    match runLook ex s0 b true with
    | .fault r => .fault r
    | .refused r => .refused r
    | .next s1 =>
      let both := !s0.traps.isEmpty && decide (1 < s1.traps.length)
      .next { (if both then s0 else s1).deliver key both with cur := none }

/-- What a warp issues in one clk. -/
inductive Plan where
  /-- Neither slot can issue. -/
  | idle
  /-- One slot issues. -/
  | one (k : Nat) (l : Look)
  /-- Slot k issues, and the other slot has lost a conflict to it. -/
  | beat (k : Nat) (l : Look)
  /-- Both slots issue. -/
  | both (a b : Look)
deriving DecidableEq, Repr

/-- The slots of a warp that issue (R10): where they conflict slot 0 goes first, and slot 1 once it has lost four times
in a row. An instruction that issues alone counts as such a conflict (DESIGN CHOICE, log 42). -/
def State.plan (s : State) (key : Nat) (w : Warp) : Plan × State :=
  match s.slotReady key w 0, s.slotReady key w 1 with
  | false, false => (.idle, s)
  | true, false =>
    let (l, s) := s.look key w 0
    (.one 0 l, s)
  | false, true =>
    let (l, s) := s.look key w 1
    (.one 1 l, s)
  | true, true =>
    let (a, s) := s.look key w 0
    let (b, s) := s.look key w 1
    if conflicts w a b then
      if 4 ≤ w.s1.losses then (.one 1 b, s) else (.beat 0 a, s)
    else (.both a b, s)

/-- Issue what a warp's plan names. -/
def Plan.issue (ex : Instr → State → Out) (s : State) (key : Nat) : Plan → Out
  | .idle => .next s
  | .one k l => issueOne ex s key k l
  | .beat k l =>
    issueOne ex (s.modWarp key fun w => w.setSlot (1 - k) { w.slot (1 - k) with losses := (w.slot (1 - k)).losses + 1 }) key
      k l
  | .both a b => issueBoth ex s key a b

/-! ### The two picks of a partition -/

/-- The instruction of a look. -/
def Look.instr : Look → List Instr
  | .run i _ => [i]
  | .bad _ _ _ => []
  | .torn _ _ => []

/-- The instructions of a plan. -/
def Plan.instrs : Plan → List Instr
  | .idle => []
  | .one _ l => l.instr
  | .beat _ l => l.instr
  | .both a b => a.instr ++ b.instr

/-- Reads of a bank by one pick: a register that both slots read counts once (R34). -/
def bankReads (regs : List Nat) (bank : Nat) : Nat := (regs.eraseDups.filter fun r => decide (r % 4 = bank)).length

/-- The shared units that an instruction needs across a partition (R34, R105): a branch, an exit or a reconvergence that
moves the stack pointer has used the memory port, and so has every RTT. -/
def pickUnits (moved : Bool) (i : Instr) : List Nat :=
  unitsOfInstr i ++
  (match i with
   | .brv _ => if moved then [1] else []
   | .rcv _ => if moved then [1] else []
   | .exit _ => if moved then [1] else []
   | .rtt _ => [1]
   | _ => [])

/-- dstk.sp of a warp. -/
def State.stackAt (s : State) (key : Nat) : Option Word := (mapFind s.warps key).map fun w => w.dstkSp

/-- Two picks of a partition contend (R34): for a shared unit, or for the reads of a register bank, of which a pick that
asks for more than two takes both. -/
def contend (a b : List Nat × List Nat) : Bool :=
  (a.1.any fun u => b.1.contains u) ||
  (List.range 4).any fun k => decide (2 < min 2 (bankReads a.2 k) + min 2 (bankReads b.2 k))

/-- Two warps are of one partition of one core (R22). -/
def State.samePart (s : State) (a b : Nat) : Bool :=
  decide (a ≠ b ∧ warpId a % 4 = warpId b % 4 ∧ (s.block (warpBlock a)).core = (s.block (warpBlock b)).core)

/-- A 64-bit float operation of a base or FP major holds its port for two cycles (R144). -/
def twoCycle (i : Instr) : Bool :=
  match nativeSig i with
  | some (f, g) =>
    (decide (0x1D ≤ g.op ∧ g.op ≤ 0x21) && bit (btype f) 2) ||
    (decide (g.op = 0x2E ∧ (g.fn = some 0 ∨ g.fn = some 5 ∨ g.fn = some 6)) && mb f 2)
  | none => false

/-- Clk for which a pick holds its port beyond its issue cycle (R34, R144). -/
def Plan.holdsPort (p : Plan) (regs : List Nat) : Nat :=
  let reads := ((List.range 4).map (bankReads regs)).foldl max 0
  max ((reads - 1) / 2) (if p.instrs.any twoCycle then 1 else 0)

/-- A warp has issued: its loss counts and its age start again (R33, R34), it has left the warps that a YLD put it before
(R138), and its port is busy as long as its reads ask. -/
def State.noteIssue (s : State) (key : Nat) (u : List Nat × List Nat) (hold : Nat) : State :=
  let s := s.modWarp key fun w => { w with lost := 0, readySince := max w.readySince s.clk }
  let s := { s with
    used := (key, u) :: s.used
    warps := mapAll s.warps fun _ w => if w.behind.contains key then { w with behind := w.behind.filter fun k => k != key } else w }
  if hold = 0 then s
  else
    let core := (s.block (warpBlock key)).core
    let c := s.core core
    let part := warpId key % 4
    s.putCore core { c with busy := mapSet [] c.busy part (mapGet [] c.busy part ++ [s.clk + hold]) }

/-- An instruction that completes writes its destination registers, and an uncorrectable error of one goes (R396). -/
def State.mend (s : State) (key : Nat) (l : List Instr) : State :=
  match mapFind s.warps key with
  | some w =>
    if w.torn = [] ∨ w.trapNew then s
    else s.putWarp key { w with torn := w.torn.filter fun x => !(l.any fun i => (regsOf i).2.1.contains x.1) }
  | none => s

/-- A pick that has lost a conflict to the other pick of its partition replays (R34). -/
def State.noteLoss (s : State) (key : Nat) : State := s.modWarp key fun w => { w with lost := w.lost + 1 }

/-- Issue a picked warp (R10), unless it contends with the pick of its partition that has issued (R34). -/
def issueWarp (ex : Instr → State → Out) (s : State) (key : Nat) : Out :=
  match mapFind s.warps key with
  | none => .next s
  | some w =>
    let (p, s) := s.plan key w
    if p = .idle then .next s
    else
      match p.issue ex s key with
      | .fault r => .fault r
      | .refused r => .refused r
      | .next s' =>
        let moved := decide (s'.stackAt key ≠ some w.dstkSp) && (s'.stackAt key).isSome
        let u := (p.instrs.flatMap (pickUnits moved), p.instrs.flatMap vReads)
        if s.used.any fun x => s.samePart x.1 key && contend x.2 u then .next (s.noteLoss key)
        else .next ((s'.mend key p.instrs).noteIssue key u (p.holdsPort u.2))

end Sys2Proof.Machine
end

