-- ==== Sys2Proof/Machine/Sched.lean ====
section
/-! DEFINITION. The picks of the partitions (R33, R35). -/
namespace Sys2Proof.Machine

/-- A context whose warps are stopped: at level 2, or halted (R39, R329). -/
def Context.stopped (c : Context) : Bool :=
  c.halted || c.saved ||
  (match c.preempt with
   | some p => decide (2 ≤ p.level)
   | none => false)

/-- A warp is ready when at least one of its slots can issue (R33), no YLD holds it (R138) and its context runs. -/
def State.warpReady (s : State) (key : Nat) (w : Warp) : Bool :=
  (s.slotReady key w 0 || s.slotReady key w 1) && decide (w.yieldUntil ≤ s.clk) &&
  (match mapFind s.ctxs (s.ctxOf (warpBlock key)) with
   | some c => !c.stopped
   | none => false)

/-- A candidate for a pick: key, priority, clk since which it has been ready, creation order, the warps that a YLD has
put before it, and the conflicts that it has lost in a row. -/
structure Cand where
  key : Nat
  prio : Nat
  since : Nat
  born : Nat
  behind : List Nat := []
  lost : Nat := 0
deriving DecidableEq, Repr

/-- The candidate with the least creation order. -/
def oldest : List Cand → Option Cand
  | [] => none
  | c :: r =>
    match oldest r with
    | some d => if d.born < c.born then some d else some c
    | none => some c

/-- The highest priority of a list. -/
def topPrio (l : List Cand) : Nat := l.foldl (fun a c => max a c.prio) 0

/-- The candidates of a level that no other one of it goes before (R138). -/
def notBehind (l : List Cand) : List Cand := l.filter fun c => !(l.any fun d => c.behind.contains d.key)

/-- One pick among the candidates of a level: the age override first, then round robin (R33), and none that a YLD has put
behind another (R138). -/
def pickLevel (clk ptr : Nat) (l : List Cand) : Option Cand :=
  let l := notBehind l
  match oldest (l.filter fun c => decide (c.since + 256 ≤ clk)) with
  | some c => some c
  | none =>
    match l.find? fun c => decide (ptr ≤ c.key) with
    | some c => some c
    | none => l.head?

/-- The pick among the candidates of the highest level (R33). -/
def pickTop (clk : Nat) (ptr : Nat → Nat) (l : List Cand) : Option Cand :=
  let t := topPrio l
  pickLevel clk (ptr t) (l.filter fun c => decide (c.prio = t))

/-- The picks of one partition: one for each of its free ports. `low` asks for an issue below the highest level first
(R35). -/
def pickPorts (clk : Nat) (low : Bool) : Nat → (Nat → Nat) → List Cand → List Cand
  | 0, _, _ => []
  | n + 1, ptr, l =>
    let below := l.filter fun c => decide (c.prio < topPrio l)
    match pickTop clk ptr (if low && !below.isEmpty then below else l) with
    | none => []
    | some a =>
      a :: pickPorts clk false n (fun p => if p = a.prio then a.key + 1 else ptr p) (l.filter fun c => c.key != a.key)

/-- A pick that goes before another where they contend: four losses in a row, else the lesser creation order (R34). -/
def Cand.first (a b : Cand) : Bool :=
  if decide (4 ≤ a.lost) != decide (4 ≤ b.lost) then decide (4 ≤ a.lost) else decide (a.born ≤ b.born)

/-- The order in which a partition's picks issue. -/
def pickOrder : List Cand → List Cand
  | [a, b] => if a.first b then [a, b] else [b, a]
  | l => l

/-- Picks of a partition between two issues below its highest level. The rule gives 64 clk (R35): a pick that contends
may lose four times more (R34). -/
def lowLimit : Nat := 48

/-- The picks of one partition of a core. The manual does not give the order of a level's round robin or where its pointer
goes (R33): the model takes the warps by key and moves the pointer past the warp picked (DESIGN CHOICE, log 50). -/
def State.pickPart (s : State) (core part : Nat) (l : List Cand) : State :=
  let c := s.core core
  let busy := (mapGet [] c.busy part).filter fun t => decide (s.clk ≤ t)
  let s := if (mapGet [] c.busy part) = busy then s else s.putCore core { c with busy := mapSet [] c.busy part busy }
  if l.isEmpty then s
  else
    let c := s.core core
    let low := mapGet 0 c.low part
    let got := pickPorts s.clk (decide (lowLimit ≤ low)) (2 - busy.length) (fun p => mapGet 0 c.rr (8 * part + p)) l
    let top := topPrio l
    let lowReady := l.any fun x => decide (x.prio < top)
    let lowDone := (pickOrder got).head?.any fun x => decide (x.prio < top)
    let rr := got.foldl (fun m x => mapSet 0 m (8 * part + x.prio) (x.key + 1)) c.rr
    let s := s.putCore core { c with rr, low := mapSet 0 c.low part (if lowReady && !lowDone then low + 1 else 0) }
    { s with picks := s.picks ++ (pickOrder got).map Cand.key }

/-- The ready warps of the package: core, partition and candidate. -/
def State.candidates (s : State) : List (Nat × Nat × Cand) :=
  s.warps.filterMap fun e =>
    if s.warpReady e.1 e.2 then
      let b := s.block (warpBlock e.1)
      some (b.core, warpId e.1 % 4,
        { key := e.1, prio := b.prio, since := e.2.readySince, born := e.2.born, behind := e.2.behind, lost := e.2.lost })
    else none

/-- A warp that is not ready starts its count again when it becomes ready (R33). -/
def State.ageWarps (s : State) : State :=
  { s with warps := s.warps.map fun e => (e.1, if s.warpReady e.1 e.2 then e.2 else { e.2 with readySince := s.clk }) }

/-- A warp that has issued a YLD goes behind the other ready warps of its partition and level (R138). -/
def State.noteYields (s : State) (l : List (Nat × Nat × Cand)) : State :=
  if s.warps.any fun e => e.2.yielded then
    { s with warps := s.warps.map fun e =>
      if e.2.yielded then
        let b := s.block (warpBlock e.1)
        let others := l.filter fun x => decide (x.1 = b.core ∧ x.2.1 = warpId e.1 % 4 ∧ x.2.2.prio = b.prio ∧ x.2.2.key ≠ e.1)
        (e.1, { e.2 with yielded := false, behind := others.map fun x => x.2.2.key })
      else e }
  else s

/-- The partitions issue in this clk under the present duty (R399): in the first of each 256 clk, as many as it gives. The
manual does not say in which (DESIGN CHOICE, log 27). -/
def State.issueOn (s : State) : Bool := decide (s.clk % 256 ≤ s.health.duty)

/-- Choose the warps that issue in this clk: up to two for each partition (R33), and none while the duty holds issue
back (R399). -/
def State.makePicks (s : State) : State :=
  let s := s.ageWarps
  let s := s.noteYields s.candidates
  let l := if s.issueOn then s.candidates else []
  let cores := (l.map fun x => x.1).eraseDups
  let places := cores.flatMap fun c => (List.range 4).map fun p => (c, p)
  places.foldl
    (fun s p => s.pickPart p.1 p.2 ((l.filter fun x => decide (x.1 = p.1 ∧ x.2.1 = p.2)).map fun x => x.2.2))
    s

end Sys2Proof.Machine
end

