-- ==== Sys2Proof/Machine/Placement.lean ====
section
/-! DEFINITION. Placement of blocks (R22, R25, R27, R28, R255, R324, R351), launch deadlines and time slices (R41,
R325). -/
namespace Sys2Proof.Machine

/-! ### What a block needs, and what a core has -/

/-- What a block of a launch needs (R28, R255). -/
structure Shape where
  ctx : Nat
  wpb : Nat
  vregs : Nat
  spu : Nat
  accb : Nat
  fuse : Bool
deriving DecidableEq, Repr

/-- Vector registers per warp: 16 × vru, 256 when vru = 0 (R28). -/
def vregsOf (vru : Nat) : Nat := if vru = 0 then 256 else 16 * vru

/-- The shape of the blocks of a launch. -/
def Launch.shape (l : Launch) : Shape :=
  { ctx := l.ctx, wpb := l.field 12 16 16, vregs := vregsOf (l.field 14 0 4), spu := l.field 14 4 8
    accb := l.field 14 12 7, fuse := decide (l.field 14 19 1 = 1) }

/-- Warps of a block of `n` that are on partition `p` (R22). -/
def partWarps (n p : Nat) : Nat := (n + 3 - p) / 4

/-- A block fits an empty core (R28). -/
def Shape.fitsEmpty (x : Shape) : Bool :=
  decide (ceilDiv x.wpb 4 * x.vregs ≤ 1024 ∧ ceilDiv x.wpb 4 ≤ 16 ∧ x.spu ≤ 128 ∧ x.accb ≤ 64)

/-- The blocks on a core. -/
def State.coreBlocks (s : State) (core : Nat) : List Block := (s.blocks.filter fun b => decide (b.2.core = core)).map Prod.snd

/-- Live warps of a block on a partition: those that take warp slots and registers there (R28). Whether an ended warp keeps
them until its block ends the manual does not say, since R25 releases only scratchpad, banks and barriers then: the model
frees them at once (DESIGN CHOICE, log 50). -/
def Block.partLive (b : Block) (p : Nat) : Nat := ((maskLanes b.liveWarps).filter fun i => decide (i % 4 = p)).length

/-- The sum of a function over a list. -/
def sumOf {α : Type} (l : List α) (f : α → Nat) : Nat := (l.map f).foldl (· + ·) 0

/-- Free warp slots of a core. -/
def State.freeSlots (s : State) (core : Nat) : Nat := 64 - sumOf (s.coreBlocks core) fun b => popcount 64 b.liveWarps.toNat

/-- A cluster has a resident block. -/
def State.clusterUsed (s : State) (cl : Nat) : Bool := s.blocks.any fun b => decide (clusterOf b.2.core = cl)

/-- A scrub holds a core (R365). -/
def State.coreHeld (s : State) (core : Nat) : Bool := s.prot.scrubs.any fun e => e.2.cores.contains core

/-- Ways of a husk. -/
def State.huskWays (s : State) (husk : Nat) : Nat :=
  match mapFind s.prot.husks husk with
  | some h => h.ways
  | none => 0

/-- The ways that a block of a context needs are there: its husk holds them, or the total stays within 20 (R351). -/
def State.waysOk (s : State) (ctx : Nat) : Bool :=
  match mapFind s.ctxs ctx with
  | none => false
  | some c =>
    !c.prot || s.huskPlaced c.husk ||
    decide (sumOf (s.prot.husks.filter fun h => s.huskPlaced h.1) (fun h => h.2.ways) + s.huskWays c.husk ≤ 20)

/-- A block of a shape fits a core as it stands (R28, R255, R365). -/
def State.fits (s : State) (x : Shape) (core : Nat) : Bool :=
  let l := s.coreBlocks core
  let cl := clusterOf core
  !(s.coreHeld core) && (!(s.clusterUsed cl) || (s.fused.contains cl == x.fuse)) &&
  (List.range 4).all (fun p =>
    decide (sumOf l (fun b => b.partLive p) + partWarps x.wpb p ≤ 16 ∧
      sumOf l (fun b => b.partLive p * b.vregs) + partWarps x.wpb p * x.vregs ≤ 1024)) &&
  decide (sumOf l (fun b => b.spu) + x.spu ≤ 128 ∧ sumOf l (fun b => b.accb) + x.accb ≤ 64)

/-- The core on which a block goes (R324): of those it fits, the one with the most free warp slots, the lowest number
among equals. -/
def State.bestCore (s : State) (x : Shape) : Option Nat :=
  if !(s.waysOk x.ctx) then none
  else
    (coreIds.filter fun c => s.fits x c).foldl
      (fun best c =>
        match best with
        | none => some c
        | some b => if s.freeSlots b < s.freeSlots c then some c else some b)
      none

/-! ### Placing a block -/

/-- The L1 of a core holds no copy for a context from before: what was stored before the start-barrier release happens
before every warp of the launch, and a resumed slot never reads an older value than it has read or written (R269,
R273). -/
def State.freshL1 (s : State) (ctx core : Nat) : State :=
  match mapFind s.ctxs ctx with
  | some c => s.evictWhere (s.l1Of core) fun x => decide (x.asid = c.asid)
  | none => s

/-- Give a core to a block of a context: the cluster's L1 mode, the husk's ways, and the marks that the context keeps
(R255, R351, R365, R341). -/
def State.takeCore (s : State) (x : Shape) (core : Nat) : State :=
  let cl := clusterOf core
  let s :=
    if s.fused.contains cl == x.fuse then s
    else
      let ids := (1024 + cl) :: (List.range 4).map fun i => 4 * cl + i
      let s := ids.foldl (fun s id => s.evictWhere id fun _ => true) s
      { s with fused := if x.fuse then s.fused ++ [cl] else s.fused.filter fun c => decide (c ≠ cl) }
  let s := s.freshL1 x.ctx core
  let first := !(s.hasBlocks x.ctx)
  let s := s.modCtx x.ctx fun c =>
    { c with cores := if c.cores.contains core then c.cores else c.cores ++ [core], hangCount := if first then 0 else c.hangCount }
  match mapFind s.ctxs x.ctx with
  | some c =>
    if c.prot then { s with prot := { s.prot with husks := mapModify s.prot.husks c.husk fun h => { h with placed := true } } }
    else s
  | none => s

/-- One of the three capabilities of a launch record (Table 1.4). -/
def Launch.cap (l : Launch) (dw i : Nat) : Cap :=
  { bits := l.words.getD (dw + 3) 0 ++ l.words.getD (dw + 2) 0 ++ l.words.getD (dw + 1) 0 ++ l.words.getD dw 0
    tag := l.tags.getLsbD i }

/-- c15 of warp `w` of block `b` (R27). -/
def Launch.stackCap (l : Launch) (b w : Nat) : Cap :=
  let c := l.cap 8 2
  let n := 256 * l.field 12 32 16
  mkCap c.rsvd c.gen c.ctx c.otype c.perms (BitVec.ofNat 64 n)
    (c.base + BitVec.ofNat 64 ((b * l.field 12 16 16 + w) * n)) c.tag

/-- A warp as it starts (R25). -/
def Launch.warp (l : Launch) (b w born clk : Nat) : Warp :=
  let x : Warp := { lanes := BitVec.allOnes 64, born, readySince := clk }
  let x := ((x.setC 0 (l.cap 0 0)).setC 1 (l.cap 4 1)).setC 15 (l.stackCap b w)
  { x with
    s0 := { live := true, pc := (l.cap 0 0).base, mask := BitVec.allOnes 64, rpc := noRpc }
    dstkSp := (x.getC 15).base }

/-- Place the next block of a launch on a core. A node group's block reads its group number as block.id, and its stack
is that of block 0 (R323). -/
def State.placeBlock (s : State) (key : Nat) (l : Launch) (core : Nat) : State :=
  let x := l.shape
  let s := s.takeCore x core
  let bk := s.births
  let idx := match l.node with
    | some (_, g) => g
    | none => l.next
  let linear := if l.node.isSome then 0 else l.next
  let b : Block :=
    { ctx := l.ctx, launch := key, idx, core, wpb := x.wpb, vregs := x.vregs, spu := x.spu, accb := x.accb
      prio := l.field 14 20 2, born := bk }
  let b := b.takeUnits (s.core core) (s.freeUnits core x.spu)
  let warps := (List.range x.wpb).foldl
    (fun m w => mapPut m (warpKey bk w) (l.warp linear w (bk + 1 + w) s.clk))
    s.warps
  { s with
    births := bk + 1 + x.wpb, blocks := mapPut s.blocks bk b, warps
    launches := mapPut s.launches key
      { l with
        next := l.next + 1, waitSince := none, holds := false
        slice := if (mapFind l.slice core).isSome then l.slice else mapPut l.slice core 0 } }

/-- A context whose new blocks may be placed (Table 1.7, R320). -/
def Context.mayPlace (c : Context) : Bool := !c.dead && !c.parked && !c.saved && !c.halted && c.preempt.isNone

/-- The next saved block of a launch (R324). -/
def State.nextSaved (s : State) (key : Nat) (l : Launch) : Option Unplaced :=
  (mapFind s.ctxs l.ctx).bind fun c => c.unplaced.find? fun x => decide (x.launch = key)

/-- The shape of the next block of a launch: that of a saved block where it has one. -/
def State.nextShape (s : State) (key : Nat) (l : Launch) : Shape :=
  match s.nextSaved key l with
  | some u => { l.shape with wpb := u.wpb, vregs := u.vregs, spu := u.spu, accb := u.accb }
  | none => l.shape

/-- A launch has a block to place now: a saved one, or a new one once its context has no saved one left (R320, R324). -/
def State.hasNext (s : State) (key : Nat) (l : Launch) : Bool :=
  match mapFind s.ctxs l.ctx with
  | some c =>
    c.mayPlace && ((c.unplaced.any fun x => decide (x.launch = key)) || (c.unplaced.isEmpty && decide (l.next < l.last)))
  | none => false

/-- The launches whose next block waits for a core, in the order of R324. -/
def State.placeOrder (s : State) : List (Nat × Launch) :=
  (s.launches.filter fun e =>
    (match e.2.stage with
     | .placing => true
     | .waiting _ => false) && s.hasNext e.1 e.2).mergeSort
    fun x y => decide (y.2.qprio < x.2.qprio ∨ (x.2.qprio = y.2.qprio ∧ x.1 ≤ y.1))

/-- PLACEMENT_WAIT_EXPIRY (R324). -/
def execPlacementWaitExpiry (launch : Nat) (s : State) : Host.Outcome State Fault Refusal :=
  .next { s with launches := mapModify s.launches launch fun l =>
    match l.waitSince with
    | some t => if t + 2 ^ 20 ≤ s.clk then { l with holds := true } else l
    | none => l }

/-! ### Deadlines and time slices -/

/-- The packet of a launch (R402). -/
def Launch.name (l : Launch) : Option (Nat × BitVec 32 × BitVec 32) := l.queue.map fun q => (q, l.head, l.packetTag)

/-- LAUNCH_DEADLINE (R41): the context ends with code 0x02; a halted context's deadline stands still (R329). -/
def execLaunchDeadline (launch : Nat) (s : State) : Host.Outcome State Fault Refusal :=
  .next (match mapFind s.launches launch with
    | some l =>
      let halted := (mapFind s.ctxs l.ctx).any fun c => c.halted
      if l.deadline = some 0 ∧ !halted then s.forcedReset l.ctx 0x02 l.name noBlockD0 false none else s
    | none => s)

/-- The package without a context's blocks on one core. -/
def State.without (s : State) (ctx core : Nat) : State :=
  { s with blocks := s.blocks.filter fun b => !(decide (b.2.ctx = ctx ∧ b.2.core = core)) }

/-- A next block of another context needs what a context holds (R325). -/
def State.needs (s : State) (ctx core : Nat) (x : Shape) : Bool :=
  let fitsOn := fun (s : State) (c : Nat) => s.waysOk x.ctx && s.fits x c
  let held := ((s.blocks.filter fun b => decide (b.2.ctx = ctx)).map fun b => b.2.core).eraseDups
  !(coreIds.any fun c => fitsOn s c) && (core :: held).any fun c => fitsOn (s.without ctx c) c

/-- A time slice has expired on a core (R325): Arnal pre-empts the context in requeue mode, or the count restarts. -/
def State.expireSlice (s : State) (launch core : Nat) (l : Launch) : State :=
  if s.placeOrder.any fun w =>
      decide (w.2.ctx ≠ l.ctx ∧ l.qprio ≤ w.2.qprio) && s.needs l.ctx core (s.nextShape w.1 w.2) then
    s.startPreempt l.ctx (1024 * l.savedl) none false
  else { s with launches := mapPut s.launches launch { l with slice := mapPut l.slice core 0 } }

/-- A launch's time slice in clk; 0 for none. -/
def Launch.tslice (l : Launch) : Nat := 1024 * l.field 14 24 16

/-- TIME_SLICE_EXPIRY (R41, R325): held while the context is halted or being saved (Table 14.2). -/
def execTimeSliceExpiry (launch core : Nat) (s : State) : Host.Outcome State Fault Refusal :=
  .next (match mapFind s.launches launch with
    | some l =>
      match mapFind l.slice core with
      | some n =>
        if l.tslice = 0 ∨ n < l.tslice then s
        else
          match mapFind s.ctxs l.ctx with
          | some c => if c.stopped then s.modCtx l.ctx fun c => { c with sliceHeld := some (launch, core) }
            else s.expireSlice launch core l
          | none => s
      | none => s
    | none => s)

end Sys2Proof.Machine
end

