-- ==== Sys2Proof/Machine/Launching.lean ====
section
/-! DEFINITION. LAUNCH: the record's checks, its multicast and the start barrier (R30 to R32, R314, R348). The wire
format of LAUNCH and START frames is the model's (log 21): START carries in its tag 0 arrive, 1 release, 2 refuse or
3 cancel, and names the launch by the originator and the operation number. -/
namespace Sys2Proof.Machine

/-! ### The record -/

/-- A record as a launch that has not been accepted. -/
def recordLaunch (ctx : Nat) (words : List Word) (tags : BitVec 3) : Launch :=
  { ctx, queue := none, qprio := 0, savedl := 0, head := 0, packetTag := 0, words, tags, done := none, stage := .waiting 0 }

/-- Check 0x03 of Table 1.6, with the highest priority that may be asked for (R314). -/
def Launch.badField (l : Launch) (maxprio : Nat) : Bool :=
  decide (l.field 14 40 24 ≠ 0 ∨ l.field 14 22 2 ≠ 0 ∨ l.field 13 48 16 ≠ 0 ∨ l.field 12 48 16 ≠ 0 ∨
    l.field 13 0 16 = 0 ∨ l.field 13 16 16 = 0 ∨ l.field 13 32 16 = 0 ∨ l.field 12 32 16 = 0 ∨
    l.field 12 16 16 = 0 ∨ 64 < l.field 12 16 16 ∨ 128 < l.field 14 4 8 ∨ 64 < l.field 14 12 7 ∨
    maxprio < l.field 14 20 2)

/-- Check 0x06 of Table 1.6. -/
def Launch.badCaps (l : Launch) : Bool :=
  let p := l.cap 0 0
  let a := l.cap 4 1
  let k := l.cap 8 2
  !p.tag || !a.tag || !k.tag || decide (p.perms &&& permX = 0) ||
  decide (k.len.toNat < l.blockCount * l.field 12 16 16 * (256 * l.field 12 32 16)) ||
  [p, a, k].any fun c => decide (c.ctx.toNat ≠ l.ctx)

/-- The first failing cause of Table 1.6 on this module. A receiving module must hold its own address in the table
(0x05); the originator may hold none (R31). -/
def State.refusal (s : State) (l : Launch) (maxprio : Nat) (receives : Bool) : Option Nat :=
  let gtid := l.field 12 0 16
  match mapFind s.grids gtid with
  | none => some 0x02
  | some t =>
    let rank := s.cfg.mnum.toNat - (s.tableJob gtid).mbase
    let mine := 2 ^ 32 * s.cfg.domain.toNat + s.cfg.mnum.toNat
    let at_ := (t.ports.getD rank 0).toNat
    if t.gen.toNat ≠ l.field 15 0 32 then some 0x01
    else if l.badField maxprio then some 0x03
    else if !l.shape.fitsEmpty then some 0x04
    else if (receives ∨ t.ports.any fun p => decide (p.toNat = mine)) ∧ at_ ≠ mine then some 0x05
    else if l.badCaps then some 0x06
    else none

/-- This module is a member of the grid of a table (R31). -/
def State.isRank (s : State) (gtid : Nat) : Bool :=
  match mapFind s.grids gtid with
  | some t => t.ports.any fun p => decide (p.toNat = 2 ^ 32 * s.cfg.domain.toNat + s.cfg.mnum.toNat)
  | none => false

/-- A capability lies within a root capability in range and permissions (R348). -/
def Cap.within (c r : Cap) : Bool :=
  decide (r.base ≤ c.base ∧ c.base.toNat + c.len.toNat ≤ r.base.toNat + r.len.toNat ∧ c.perms &&& ~~~r.perms = 0)

/-- The checks of R348 against the husk of a protected context. -/
def State.rootRefuses (s : State) (l : Launch) : Bool :=
  match mapFind s.ctxs l.ctx with
  | some c =>
    c.prot &&
    (let r : Cap := { bits := s.huskRoot c.husk }
     (s.huskKey c.husk).isEmpty || [l.cap 0 0, l.cap 4 1, l.cap 8 2].any fun x => !(x.within r))
  | none => false

/-- The spans of a span, sector by sector. -/
def sectorSpans (x : Nat × Word × Nat) : List (Nat × Word × Nat) :=
  (unitsOf 32 x.1 x.2.2).map fun u =>
    let a := max x.1 (32 * u)
    (a, x.2.1, min (x.1 + x.2.2) (32 * u + 32) - a)

/-- The bytes of spans that leaves map, in order: one that an uncorrectable error or a seal that does not match has made
unreadable is recorded, and its bytes are free values (R257, R357, log 7). -/
def State.readSpans (s : State) : List (Nat × Word × Nat) → List Byte × State
  | [] => ([], s)
  | (pa, pte, n) :: r =>
    let (x, s) := if s.readable pte pa n then (s.mem.read pa n, s) else (s.noteUnreadable pte pa n false).freeBytes n
    let (y, s) := s.readSpans r
    (x ++ y, s)

/-- The code bytes of progcap's range under the context's translation, as far as they can be read (R360). -/
def State.codeBytes (s : State) (ctx : Nat) (c : Cap) : List Byte × State :=
  match s.translateRange none ctx { x := true } 0 c.base c.len.toNat with
  | (.ok l, s) => s.readSpans (l.flatMap sectorSpans)
  | (.error _, s) => ([], s)

/-- Extend a protected context's measurement by a launch (R360). -/
def State.measureLaunch (s : State) (l : Launch) : State :=
  if (mapFind s.ctxs l.ctx).any fun c => c.prot then
    let (code, s) := s.codeBytes l.ctx (l.cap 0 0)
    s.extend l.ctx 1 (dwBytes l.words ++ shake512 code)
  else s

/-! ### Refusals and ends -/

/-- The error record of a refusal (Table 14.10, class 0x02). -/
def State.refuseRecord (s : State) (l : Launch) (cause : Nat) (ctx : Nat) : State :=
  let gtid := l.field 12 0 16
  let rank := if (mapFind s.grids gtid).isSome then s.cfg.mnum.toNat - (s.tableJob gtid).mbase else 0
  s.errorRecord 0x02 cause ctx l.name (BitVec.ofNat 64 (l.field 15 0 32 + 2 ^ 32 * gtid)) (BitVec.ofNat 64 rank)

/-- START subtypes. -/
def startArrive : BitVec 16 := 0
/-- Release. -/
def startRelease : BitVec 16 := 1
/-- Refuse. -/
def startRefuse : BitVec 16 := 2
/-- Cancel. -/
def startCancel : BitVec 16 := 3

/-- A pattern that matches every coordinate. -/
def anyPattern : BitVec 128 := BitVec.ofNat 128 (((List.range 5).map fun a => 2 ^ (24 * a + 22)).foldl (· + ·) 0)

/-- A frame of a launch to every module of its table. -/
def State.launchHead (s : State) (gtid : Nat) (ty : BitVec 8) (opnum : BitVec 32) : Frame :=
  { s.gridHead (s.tableJob gtid) anyPattern 0 0 with ty, opnum }

/-- Multicast a START frame for a launch that this module originated. -/
def State.sendStart (s : State) (l : Launch) (sub : BitVec 16) : State :=
  s.sendFrame { s.launchHead (l.field 12 0 16) 0x0E l.opnum with tag := sub } 0 0

/-- Send a START frame to one module. -/
def State.startTo (s : State) (gtid : Nat) (opnum : BitVec 32) (m : BitVec 11) (sub : BitVec 16) : State :=
  let count := if sub = startArrive then 1 else 0
  s.sendFrame (frameTo { s.launchHead gtid 0x0E opnum with tag := sub, count } m.toNat) 0 m.toNat

/-- Discard a launch that has not started, with a cause (R32, R314). -/
def State.discardLaunch (s : State) (key : Nat) (l : Launch) (cause : Nat) : State :=
  (s.refuseRecord l cause l.ctx).dropLaunch key

/-- Cancel a launch of this module: every module that has arrived discards it (R32). -/
def State.cancelLaunch (s : State) (key : Nat) (l : Launch) (cause : Nat) : State :=
  (s.sendStart l startCancel).discardLaunch key l cause

/-- The start barrier has released on this module (R31): placement and the deadline begin, or the done word is written
at once where the share is empty (R314). -/
def State.releaseLaunch (s : State) (key : Nat) (l : Launch) : State :=
  let d := l.field 15 32 32
  let l := { l with stage := .placing, deadline := if d = 0 then none else some (d * 2 ^ 20) }
  { s with launches := mapPut s.launches key l }.finishLaunch key

/-- Modules have arrived at the start barrier of a launch that this module originated: it releases when all have. -/
def State.startArrived (s : State) (key : Nat) (l : Launch) (arrivals : Nat) : State :=
  let n := match mapFind s.grids (l.field 12 0 16) with
    | some t => t.count
    | none => 0
  let l := { l with arrived := l.arrived + arrivals }
  if n ≤ l.arrived then (s.sendStart l startRelease).releaseLaunch key l
  else { s with launches := mapPut s.launches key l }

/-- This module's share of the blocks of a launch: first and one past last (R30). -/
def State.share (s : State) (l : Launch) : Nat × Nat :=
  let gtid := l.field 12 0 16
  let n := match mapFind s.grids gtid with
    | some t => t.count
    | none => 1
  let q := (s.tableJob gtid).rank
  if s.isRank gtid then (q * l.blockCount / n, (q + 1) * l.blockCount / n) else (0, 0)

/-- Add a launch in acceptance order. -/
def State.addLaunch (s : State) (l : Launch) : Nat × State :=
  (s.births, { s with births := s.births + 1, launches := mapPut s.launches s.births l })

/-! ### LAUNCH on the originator -/

/-- The tags of the capability fields of a record (R314). -/
def Pk.recordTags (p : Pk) (s : State) (pa : Nat) : BitVec 3 :=
  if p.queue.priv then 7
  else BitVec.ofNat 3 (b2n (s.mem.tag pa) + 2 * b2n (s.mem.tag (pa + 32)) + 4 * b2n (s.mem.tag (pa + 64)))

/-- The record and the done word of a LAUNCH; none where an address fails (R312). -/
def Pk.launchRecord (p : Pk) (s : State) : Option Launch × State :=
  match p.place s (p.dw 1) 128 { r := true } with
  | (none, s) => (none, s)
  | (some pa, s) =>
    let s := s.settleRange pa 128
    let l := { recordLaunch p.ctx (bytesDw 16 (s.mem.read pa 128)) (p.recordTags s pa) with
      queue := some p.q, qprio := p.queue.qprio, savedl := p.queue.savedl, head := p.head, packetTag := p.tag
      doneAddr := p.dw 2, dval := p.dw 3, donePhys := p.pa }
    if p.dw 2 = 0 then (some l, s)
    else
      match p.placeLeaf s (p.dw 2) 8 { w := true } with
      | (none, s) => (none, s)
      | (some (d, leaf), s) => (some { l with done := some (d, p.dw 3), doneLeaf := leaf }, s)

/-- Accept a launch on its originator (R31): the record is multicast, and a member arrives. -/
def State.acceptOwn (s : State) (l : Launch) : State :=
  let gtid := l.field 12 0 16
  let member := s.isRank gtid
  let (lo, hi) := s.share l
  let head := s.launchHead gtid 0x0D s.fab.opnum
  let l := { l with stage := .waiting s.clk, opnum := head.opnum, member, next := lo, last := hi, fromMod := s.cfg.mnum }
  let s := s.measureLaunch l
  let (key, s) := s.addLaunch l
  let s := { s with fab := { s.fab with opnum := if s.fab.opnum + 1 = 0 then 1 else s.fab.opnum + 1 } }
  let s := s.sendFrame { head with payload := dwBytes l.words } 0 0
  if member then s.startArrived key l 1 else s

/-- The body of LAUNCH (R314). -/
def launchBody (p : Pk) (s : State) : PEnd :=
  p.withCtx s fun _ =>
    match p.launchRecord s with
    | (none, s) => .halt s 0x06
    | (some l, s) =>
      match s.refusal l p.queue.maxprio false with
      | some cause =>
        let s := s.refuseRecord l cause p.ctx
        .retire (s.writeDone l (BitVec.allOnes 64))
      | none =>
        if s.rootRefuses l then .halt s 0x09
        else if s.tablePending (l.field 12 0 16) then .stay s 1
        else .retire (s.acceptOwn l)

/-- LAUNCH (R314). -/
def execLaunch (p : Packet) (s : State) : Host.Outcome State Fault Refusal :=
  packetEvent (fun k => k.is 0x09) (held launchBody) p s

/-! ### LAUNCH on the other modules -/

/-- The save deadline of a launch of another module: its LAUNCH queue is there, and the frame has no field for it
(Table 16.4). The model takes that of this module's lowest-numbered queue of the context, 0 without one (DESIGN CHOICE,
log 21). -/
def State.localSavedl (s : State) (ctx : Nat) : Nat :=
  match mapFirst (fun _ q => q.latched && decide (q.ctx = ctx)) s.arn.queues with
  | some (_, q) => q.savedl
  | none => 0

/-- The launch that a LAUNCH frame carries, for the context bound to its table; placed at the queue priority of the
record (R314). Its capabilities have their tags, which the originator has checked (R31, Table 1.6). -/
def State.frameLaunch (s : State) (ctx : Nat) (f : Frame) : Launch :=
  let l := recordLaunch ctx (bytesDw 16 f.payload) 7
  { l with
    origin := false, fromMod := f.src, opnum := f.opnum, qprio := l.field 14 20 2, savedl := s.localSavedl ctx }

/-- Accept or refuse a launch of another module (R31, R32). A context that is ending refuses with cause 0x02, and one
whose husk's root does not allow it with 0x06 (log 21). -/
def State.takeLaunch (s : State) (f : Frame) : State :=
  let gtid := f.gtid.toNat
  let bound := match mapFind s.grids gtid with
    | some t => if (mapFind s.ctxs t.ctx).any (fun (c : Context) => !c.ending) then some t.ctx else none
    | none => none
  let l := s.frameLaunch (bound.getD 0xFFF) f
  let cause := if bound.isNone then some 0x02
    else match s.refusal l 3 true with
      | some c => some c
      | none => if s.rootRefuses l then some 0x06 else none
  match cause with
  | some c => (s.refuseRecord l c (bound.getD 0xFFF)).startTo gtid f.opnum f.src startRefuse
  | none =>
    let (lo, hi) := s.share l
    let s := s.measureLaunch l
    let (_, s) := s.addLaunch { l with stage := .waiting s.clk, next := lo, last := hi }
    s.startTo gtid f.opnum f.src startArrive

/-- A LAUNCH frame arrives: it waits for an earlier start barrier on its table (R32). This module's own is ignored. -/
def State.onLaunch (s : State) (f : Frame) : State :=
  if f.src = s.cfg.mnum then s
  else if s.tablePending f.gtid.toNat || s.fab.held.any fun g => decide (g.gtid = f.gtid) then
    { s with fab := { s.fab with held := s.fab.held ++ [f] } }
  else s.takeLaunch f

/-- Take the launch records that have waited and wait no longer. -/
def State.takeHeld (s : State) : List Frame → State
  | [] => s
  | f :: r =>
    if s.tablePending f.gtid.toNat then
      { s with fab := { s.fab with held := s.fab.held ++ [f] } }.takeHeld r
    else (s.takeLaunch f).takeHeld r

/-- The waiting launch of this module with an operation number. -/
def State.ownLaunch (s : State) (opnum : BitVec 32) : Option (Nat × Launch) :=
  mapFirst
    (fun _ l => l.origin && l.node.isNone && decide (l.opnum = opnum) &&
      (match l.stage with
       | .waiting _ => true
       | .placing => false))
    s.launches

/-- The waiting launch that another module originated. -/
def State.theirLaunch (s : State) (f : Frame) : Option (Nat × Launch) :=
  mapFirst
    (fun _ l => !l.origin && decide (l.opnum = f.opnum ∧ l.fromMod = f.src) &&
      (match l.stage with
       | .waiting _ => true
       | .placing => false))
    s.launches

/-- A START frame arrives (R31, R32). One that a switch has formed carries the sum of its arrivals (Table 16.5). -/
def State.onStart (s : State) (f : Frame) : State :=
  if f.src = s.cfg.mnum then s
  else if f.tag = startArrive then
    match s.ownLaunch f.opnum with
    | some (k, l) => s.startArrived k l f.count.toNat
    | none => s.startTo f.gtid.toNat f.opnum f.src startCancel
  else if f.tag = startRefuse then
    match s.ownLaunch f.opnum with
    | some (k, l) => s.cancelLaunch k l 0x08
    | none => s
  else if f.tag = startRelease then
    match s.theirLaunch f with
    | some (k, l) => s.releaseLaunch k l
    | none => s
  else if f.tag = startCancel then
    let s := { s with fab := { s.fab with held := s.fab.held.filter fun g => !(decide (g.src = f.src ∧ g.opnum = f.opnum)) } }
    match s.theirLaunch f with
    | some (k, l) => s.discardLaunch k l 0x08
    | none => s
  else s

/-- START_BARRIER_TIMEOUT (R32): a launch that has waited 2^27 clk after its arrival is abandoned with cause 0x07; its
originator cancels it. -/
def execStartBarrierTimeout (launch : Nat) (s : State) : Host.Outcome State Fault Refusal :=
  .next (match mapFind s.launches launch with
    | some l =>
      match l.stage with
      | .waiting t =>
        if t + 2 ^ 27 ≤ s.clk ∧ l.member then
          if l.origin then s.cancelLaunch launch l 0x07
          else (s.discardLaunch launch l 0x07).startTo (l.field 12 0 16) l.opnum l.fromMod startRefuse
        else s
      | .placing => s
    | none => s)

end Sys2Proof.Machine
end

