-- ==== Sys2Proof/Machine/Verdict.lean ====
section
/-! DEFINITION. The verdicts on engine faults (R265, R266). -/
namespace Sys2Proof.Machine

/-- What an atomic of a remote access makes of an old value (R179, R244). -/
def gridAtom : AtomFn := fun op wide old x cmp => atomicNew op wide old x cmp

/-- A record that awaits its verdict: sequence number and what it met. -/
def FaultWait.pending : FaultWait → Option (BitVec 32 × FaultInfo)
  | .queue _ => none
  | .verdict seq i => some (seq, i)

/-- The stopped operations whose records await verdicts. -/
def State.pendingFaults (s : State) : List (Stopped × BitVec 32 × FaultInfo) :=
  let named := fun (x : Stopped) (w : Option FaultWait) => (w.bind FaultWait.pending).map fun p => (x, p)
  s.cores.flatMap (fun c => c.2.ops.filterMap fun o => named (0, c.1, o.uid) o.fault) ++
  s.blocks.flatMap (fun b => b.2.copies.filterMap fun c => named (1, b.1, c.1) c.2.fault) ++
  s.fab.gridOps.filterMap (fun g => named (2, 0, g.1) g.2.fault) ++
  s.fab.remote.filterMap (fun r => named (3, 0, r.1) r.2.wait) ++
  s.warps.flatMap (fun w => [0, 1].filterMap fun k =>
    match (w.2.slot k).wait with
    | some (.readFault _ _ f) => named (4, w.1, k) f
    | _ => none)

/-- The operation that a verdict names. -/
def State.faultOf (s : State) (seq : BitVec 32) : Option (Stopped × FaultInfo) :=
  (s.pendingFaults.find? fun x => decide (x.2.1 = seq)).map fun x => (x.1, x.2.2)

/-- A verdict that names no pending record (R266). -/
def State.staleVerdict (s : State) : State :=
  { s with xlat := { s.xlat with faultStale := true, staleNew := true } }

/-- Fail a stopped operation (R265). -/
def State.failStopped (s : State) (x : Stopped) : State :=
  match x with
  | (0, core, uid) =>
    match s.engineOp core uid with
    | some o => s.opEnd core o 5 5
    | none => s
  | (1, block, q) => s.failCopy block q
  | (2, _, k) => s.failGrid k 0x10 0
  | (4, key, k) => s.failReads key k
  | (_, _, k) => s.failRemote k 0x10

/-- Restart a stopped operation at its recorded progress (R265). -/
def State.replayStopped (s : State) (x : Stopped) : State :=
  match x with
  | (3, _, k) => (s.setFault x none).runRemote gridAtom k
  | _ => s.setFault x none

/-- A verdict on the record of a sequence number (R265): a replay of a record with mem set acts as a fail. -/
def State.giveVerdict (s : State) (seq : BitVec 32) (replay : Bool) : State :=
  match s.faultOf seq with
  | none => s.staleVerdict
  | some (x, i) => if replay && !i.mem then s.replayStopped x else s.failStopped x

/-- FAULT_REPLAY (R265), ignored as all of BAR0 is before the first health block (R391). -/
def execFaultReplay (seq : BitVec 32) (s : State) : Host.Outcome State Fault Refusal :=
  .next (if s.inService then s.giveVerdict seq true else s)

/-- FAULT_FAIL (R265), likewise. -/
def execFaultFail (seq : BitVec 32) (s : State) : Host.Outcome State Fault Refusal :=
  .next (if s.inService then s.giveVerdict seq false else s)

end Sys2Proof.Machine
end

