-- ==== Sys2Proof/Machine/Frames.lean ====
section
/-! DEFINITION. The received frames of Table 16.5 (R378 to R381), Ultra Ethernet packets (R373, R374), retransmission
(R379), reduction timeouts (R245) and the end of a checkpoint that fails (R395). -/
namespace Sys2Proof.Machine

/-- The operation that checkpoint frames carry in `TxFrame.op`; keys of grid operations are smaller. -/
def ckptOp : Nat := 2 ^ 128

/-- The module number of the safe tier of a checkpoint. -/
def Ckpt.tier (c : Ckpt) : BitVec 11 := c.port.extractLsb' 0 11

/-- A checkpoint ends (R392, R395): its done word, what it has saved goes back to being requeued, and its record. -/
def State.endCkpt (s : State) (c : Ckpt) (v : Word) (code : Nat) (d0 d1 : Word) : State :=
  let s := { s with
    ckpt := none
    fab := { s.fab with
      tx := s.fab.tx.filter fun t => !(decide (t.2.op = ckptOp))
      queue := s.fab.queue.filter fun x => !(decide (x.2.1 = ckptOp)) } }
  let s := (s.settle (c.done / 32)).physDw c.done v
  let s := c.saved.foldl
    (fun s k => s.modCtx k fun x => if x.saved && !x.parked then { x with resumeBy := some c.name } else x)
    s
  s.errorRecord 0x09 code (c.one.getD 0xFFF) (some c.name) d0 d1

/-- The image address that a checkpoint has reached: up to it all has been sent. -/
def Ckpt.reached (c : Ckpt) : Word := c.roff + BitVec.ofNat 64 c.reach

/-- A checkpoint fails (R395): 1 refusal, 2 transport gave up. -/
def State.failCkpt (s : State) (d1 : Nat) : State :=
  match s.ckpt with
  | none => s
  | some c => s.endCkpt c (BitVec.allOnes 64) 0x02 c.reached (BitVec.ofNat 64 d1)

/-! ### Frames -/

/-- A packet comes from the safe tier of the checkpoint in progress. -/
def State.fromTier (s : State) (f : Frame) : Bool := (s.ckpt.any fun c => decide (c.tier = f.src))

/-- The answer of the safe tier to what the checkpoint in progress has sent: checkpoint traffic (R393, R394). -/
def State.ckptAnswer (s : State) (f : Frame) : Bool :=
  s.fromTier f && f.via.isSome && [0x0A, 0x0B, 0x0C].contains f.ty.toNat

/-- A frame of another module meets a checkpoint of this one, and is none of the checkpoint's own: it is refused (R393). -/
def State.held (s : State) (f : Frame) : Bool := s.ckpt.isSome && decide (f.src ≠ s.cfg.mnum) && !(s.ckptAnswer f)

/-- A request meets a checkpoint: it is refused with cause 0x13 (R393). -/
def State.request (s : State) (f : Frame) (act : State → State) : State :=
  if s.held f then s.nack f 0x13 f.va else act s

/-- A frame that answers this module, or tells it of an end (R378, R393): it is refused with cause 0x13 during a
checkpoint, and where its grid table and generation are bound to no context. -/
def State.answered (s : State) (f : Frame) (act : State → State) : State :=
  if s.held f ∨ ((s.boundCtx f.gtid f.gen).isNone ∧ !(s.ckptAnswer f)) then s.nackAnswer f else act s

/-- A START frame names a launch of this module, or one of its sender's. -/
def startNamesOurs (f : Frame) : Bool := decide (f.tag = startArrive ∨ f.tag = startRefuse)

/-- A START frame (R31): it is refused with cause 0x13 during a checkpoint, and where its grid table and generation are
bound to no context (R378, R393). -/
def onStartFrame (f : Frame) (s : State) : State :=
  if s.held f ∨ (s.boundCtx f.gtid f.gen).isNone then
    (if startNamesOurs f then s.nackAnswer f else s.nack f 0x13 f.va)
  else s.onStart f

/-- A STORE, LDREQ, ATOM or REDR frame is accepted: a remote access (R378). -/
def onAccess (f : Frame) (s : State) : State := s.request f fun s => s.startRemote gridAtom f

/-- The data of an LDREP (R243). -/
def onLdrep (f : Frame) (s : State) : State :=
  s.answered f fun s =>
  match s.gridByNumber f.opnum with
  | some (k, g) => if g.fn = 1 ∧ g.reply.isNone then s.modGrid k fun g => { g with reply := some f.payload } else s
  | none => s

/-- The old values of an ATREP (R244): they are written to v[D], and the operation may be complete. -/
def onAtrep (f : Frame) (s : State) : State :=
  s.answered f fun s =>
  match s.gridByNumber f.opnum with
  | some (k, g) =>
    if g.fn = 2 ∧ g.reply.isNone ∧ g.ret.isSome then
      s.gatomReturn k g f.payload
    else s
  | none => s

/-- An EXP or RED frame (R381). -/
def onContribution (f : Frame) (s : State) : State := s.request f fun s => s.contribute gridAtom f

/-- An EXPR frame (R381). -/
def onExpr (f : Frame) (s : State) : State := s.answered f fun s => s.sendBins f

/-- A TACK frame acknowledges plen sequence numbers from seq (R379), and moves the congestion window of its sender
(R384). -/
def onTack (f : Frame) (s : State) : State :=
  ((List.range f.plen.toNat).foldl (fun s i => s.acked (f.seq + BitVec.ofNat 32 i) f.src) (s.adapt f)).pump

/-- A DONE frame (R380): one of a reduction has operation number 0, and the reduction's identity. -/
def onDone (f : Frame) (s : State) : State :=
  s.answered f fun s =>
  match (if f.opnum = 0 then s.memberDone f else s.gridByNumber f.opnum) with
  | some (k, _) => s.gather k f.count.toNat
  | none => s

/-- A NACK of a reduction (R380): it has operation number 0 and the reduction's identity. The module that sent it has
failed its own operation before. -/
def State.nackRed (s : State) (f : Frame) : State :=
  if f.src = s.cfg.mnum then s
  else
    let l := s.membersNack f
    let s := { s with fab := { s.fab with reds := s.fab.reds.filter fun r => !(nackNames r.2.head f) } }
    l.foldl (fun s e => (s.dropReds e.2.head).failGrid e.1 (f.tag.toNat % 256) 0) s

/-- A NACK that refuses an answer names no operation of this module, and fails none. -/
def State.nackIdle (s : State) (f : Frame) : Bool := decide (f.opnum = 0) && (s.membersNack f).isEmpty

/-- A NACK frame fails its operation (R378, R380). During a checkpoint one of another module is refused as other frames
are (R393); the refusal of a refusal, which names no operation, is dropped (log 18). -/
def onNack (f : Frame) (s : State) : State :=
  if s.held f then (if s.nackIdle f then s else s.nackAnswer f)
  else if f.opnum = 0 then s.nackRed f
  else
    match s.gridByNumber f.opnum with
    | some (k, _) => s.failGrid k (f.tag.toNat % 256) f.va
    | none =>
      match s.ownLaunch f.opnum with
      | some (k, l) => s.cancelLaunch k l 0x08
      | none => s

/-- What a frame of an assigned type does once it is accepted. -/
def frameAct (f : Frame) : State → State :=
  match f.ty.toNat with
  | 0x01 => onAccess f
  | 0x02 => onAccess f
  | 0x03 => onLdrep f
  | 0x04 => onAccess f
  | 0x05 => onAtrep f
  | 0x06 => onContribution f
  | 0x07 => onExpr f
  | 0x08 => onContribution f
  | 0x09 => onAccess f
  | 0x0A => onTack f
  | 0x0B => onDone f
  | 0x0C => onNack f
  | 0x0D => fun s => s.request f fun s => s.onLaunch f
  | 0x0E => onStartFrame f
  | _ => id

/-- A frame of a type arrives on its port. -/
def frameEvent (f : Frame) (ty : BitVec 8) (act : Frame → State → State) (s : State) : Host.Outcome State Fault Refusal :=
  .next (s.arrive { f with ty, via := none } act)

/-- FRAME_STORE (R378). -/
def execFrameStore (f : Frame) (s : State) : Host.Outcome State Fault Refusal := frameEvent f 0x01 onAccess s
/-- FRAME_LDREQ (R378). -/
def execFrameLdreq (f : Frame) (s : State) : Host.Outcome State Fault Refusal := frameEvent f 0x02 onAccess s
/-- FRAME_LDREP (R243). -/
def execFrameLdrep (f : Frame) (s : State) : Host.Outcome State Fault Refusal := frameEvent f 0x03 onLdrep s
/-- FRAME_ATOM (R244). -/
def execFrameAtom (f : Frame) (s : State) : Host.Outcome State Fault Refusal := frameEvent f 0x04 onAccess s
/-- FRAME_ATREP (R244). -/
def execFrameAtrep (f : Frame) (s : State) : Host.Outcome State Fault Refusal := frameEvent f 0x05 onAtrep s
/-- FRAME_EXP (R381). -/
def execFrameExp (f : Frame) (s : State) : Host.Outcome State Fault Refusal := frameEvent f 0x06 onContribution s
/-- FRAME_EXPR (R381). -/
def execFrameExpr (f : Frame) (s : State) : Host.Outcome State Fault Refusal := frameEvent f 0x07 onExpr s
/-- FRAME_RED (R381). -/
def execFrameRed (f : Frame) (s : State) : Host.Outcome State Fault Refusal := frameEvent f 0x08 onContribution s
/-- FRAME_REDR (R380). -/
def execFrameRedr (f : Frame) (s : State) : Host.Outcome State Fault Refusal := frameEvent f 0x09 onAccess s
/-- FRAME_TACK (R379). -/
def execFrameTack (f : Frame) (s : State) : Host.Outcome State Fault Refusal := frameEvent f 0x0A onTack s
/-- FRAME_DONE (R380). -/
def execFrameDone (f : Frame) (s : State) : Host.Outcome State Fault Refusal := frameEvent f 0x0B onDone s
/-- FRAME_NACK (R380). -/
def execFrameNack (f : Frame) (s : State) : Host.Outcome State Fault Refusal := frameEvent f 0x0C onNack s
/-- FRAME_LAUNCH (R31). -/
def execFrameLaunch (f : Frame) (s : State) : Host.Outcome State Fault Refusal :=
  frameEvent f 0x0D (fun f s => s.request f fun s => s.onLaunch f) s
/-- FRAME_START (R31). -/
def execFrameStart (f : Frame) (s : State) : Host.Outcome State Fault Refusal :=
  frameEvent f 0x0E onStartFrame s

/-- MALFORMED_FRAME (R376): a frame of an unassigned type is dropped, with its record. -/
def execMalformedFrame (f : Frame) (s : State) : Host.Outcome State Fault Refusal :=
  .next (if (f.ty = 0 ∨ 0x0F ≤ f.ty) ∧ !s.health.tripped then s.arriveOn f fun f s => s.dropMalformed f else s)

/-- Receive one of this module's own frames. -/
def State.receiveOwn (s : State) (f : Frame) : State := s.receive f (frameAct f)

/-! ### Ultra Ethernet -/

/-- What a packet of a supported mode does once it is accepted (R373, R374): unordered delivery carries stores and their
answers, and a refusal from the safe tier fails the checkpoint (R395). Ordered delivery carries control messages, of
which only acknowledgements act here (log 18). What a checkpoint refuses gets its NACK (R393). -/
def ueAct (f : Frame) (s : State) : State :=
  match f.via with
  | some .rod => if f.ty = 0x0A then onTack f s else if s.held f then s.nackAnswer f else s
  | some .rud =>
    if f.ty = 0x0C ∧ s.fromTier f then s.failCkpt 1
    else if [0x01, 0x0A, 0x0B, 0x0C].contains f.ty.toNat then frameAct f s
    else if s.held f then s.nackAnswer f
    else s
  | _ => s

/-- UE_PACKET (R374): a packet of an unsupported mode, a trimmed one and one whose TSS check fails under the key of its
job are dropped, and the link has carried them. -/
def execUePacket (p : UePacket) (s : State) : Host.Outcome State Fault Refusal :=
  let f := { p.frame with via := some p.mode }
  let kept := decide (p.mode ≠ .other) && !p.trimmed && decide (p.tssKey = s.tssKey f)
  .next (if kept then s.arrive f ueAct else s.arriveOn f fun _ s => s)

/-! ### Time limits -/

/-- The retransmission timeout in clk (R379): 2^17 unless the blob sets another. -/
def State.rtoClk (s : State) : Nat := 2 ^ (if 14 ≤ s.cfg.rto ∧ s.cfg.rto ≤ 22 then s.cfg.rto else 17)

/-- The sender gives a frame up (R379): its operation fails with cause 0x10, and a record is written. -/
def State.giveUp (s : State) (seq : Nat) (t : TxFrame) : State :=
  let f := t.frame
  let s := { s with fab := { s.fab with tx := mapErase s.fab.tx seq } }
  let s := s.errorRecord 0x08 0x04 0xFFF none (BitVec.ofNat 64 (f.wlo.toNat + 2 ^ 16 * f.whi.toNat))
    (f.opnum.zeroExtend 64)
  let s := if t.op = ckptOp then s.failCkpt 2 else if t.op = 0 then s else s.failGrid t.op 0x10 f.va
  s.pump

/-- RETRANSMISSION_TIMEOUT (R379): the frame is sent again to its window, or given up after 16 retransmissions. -/
def execRetransmissionTimeout (seq : Nat) (s : State) : Host.Outcome State Fault Refusal :=
  .next (match mapFind s.fab.tx seq with
    | none => s
    | some t =>
      if s.clk < t.sent + s.rtoClk then s
      else if 16 ≤ t.tries then s.giveUp seq t
      else
        let port := s.pathPort t.path
        let f := { t.frame with retx := true, port := BitVec.ofNat 4 port }
        let s := if s.upPorts.isEmpty then s else s.emit port f t.path
        { s with fab := { s.fab with tx := mapPut s.fab.tx seq { t with sent := s.clk, tries := t.tries + 1 } } })

/-- REDUCTION_TIMEOUT (R245): a reduction that has not gathered every member within 2^30 clk of its first contribution
fails with cause 0x12 at every member that has contributed. Its root counts from that contribution, and tells the
others. -/
def execReductionTimeout (reduction : Nat) (s : State) : Host.Outcome State Fault Refusal :=
  .next (
    match mapFind s.fab.reds reduction with
    | some r => if r.since + 2 ^ 30 ≤ s.clk then s.failRed r.head 0x12 else s
    | none => s)

end Sys2Proof.Machine
end

