-- ==== Sys2Proof/Machine/Checkpoint.lean ====
section
/-! DEFINITION. The whole-memory checkpoint (R392 to R395): CKPT, the stream of lines to the safe tier, and its end.
Its frames are stores to the safe tier (log 18). -/
namespace Sys2Proof.Machine

/-- CKPT names a module of the safe tier in this package's domain (R392, Table 16.1). -/
def State.tierOk (s : State) (port : Nat) : Bool :=
  decide (1536 ≤ bits port 0 11 ∧ bits port 11 21 = 0 ∧ bits port 32 16 = s.cfg.domain.toNat)

/-- The body of CKPT (R392): it waits for an earlier checkpoint, and is then accepted. Contexts that are resident or wait
for placement are taken through levels 1 and 2; one that is saved already has its state in its save area (log 40). -/
def ckptBody (p : Pk) (s : State) : PEnd :=
  let one := decide (p.f 3 0 1 = 1)
  let live := match mapFind s.ctxs p.ctx with
    | some c => !c.ending
    | none => false
  if !(s.tierOk (p.f 1 0 48)) then .halt s 0x09
  else if one && !live then .halt s 0x05
  else if s.ckpt.isSome then .stay s 1
  else
    let named := fun (n : Nat) => !one || decide (n = p.ctx)
    let due := (s.ctxs.filter fun c =>
      named c.1 && !c.2.dead && !c.2.saved && (s.hasBlocks c.1 || s.awaitsPlace c.1 c.2)).map Prod.fst
    let s := due.foldl (fun s n => s.startPreempt n (s.queueSavedl p.q) (some p.name) true) s
    let c : Ckpt :=
      { port := BitVec.ofNat 48 (p.f 1 0 48), roff := p.dw 2, one := if one then some p.ctx else none
        done := 8 * p.f 4 3 49, dval := p.dw 5, queue := p.q, name := p.name }
    .retire { s with ckpt := some c }

/-- CKPT (R392). -/
def execCkpt (p : Packet) (s : State) : Host.Outcome State Fault Refusal :=
  packetEvent (fun k => k.is 0x0C) (held ckptBody) p s

/-- The quiesce has ended: no context that it concerns is being pre-empted (R392). -/
def State.quiesced (s : State) (c : Ckpt) : Bool :=
  !(s.ctxs.any fun x => x.2.preempt.isSome && (c.one.isNone || decide (c.one = some x.1)))

/-- The leaves under a table in the order of the walk: VA[56:0], physical address and bytes (R394). -/
def State.leaves (s : State) (base : Nat) : Nat → List (Nat × Nat × Nat) → List (Nat × Nat × Nat)
  | _, [] => []
  | table, (lvl, sh, n) :: rest =>
    (List.range (2 ^ n)).flatMap fun i =>
      let e := (s.readDw (table + 8 * i)).toNat
      let va := base + i * 2 ^ sh
      if !(bit e 0) || pteRsvd e then []
      else if bit e 1 then
        if lvl = 0 || tableBad e then [] else s.leaves va (4096 * bits e 12 40) rest
      else if 4 ≤ lvl || leafBad e sh then []
      else [(va, bits e 12 40 * 4096, 2 ^ sh)]

/-- What a checkpoint streams (R394): all LPDDR5X, or the leaves of one context; the reserved region is left out line by
line. -/
def State.ckptRanges (s : State) (c : Ckpt) : List (Nat × Nat × Nat) :=
  match c.one with
  | none =>
    let r := s.cfg.resv.toNat / 2 ^ 28 * 2 ^ 28
    [(0, 0, r), (r + 2 ^ 28, r + 2 ^ 28, 2 ^ 40 - (r + 2 ^ 28))].filter fun x => decide (x.2.2 ≠ 0)
  | some n =>
    match mapFind s.ctxs n with
    | some x => s.leaves 0 x.root.toNat levels
    | none => []

/-- Send bytes of a checkpoint to an offset of its image, over Ultra Ethernet RUD (R373). -/
def State.ckptSend (s : State) (c : Ckpt) (off : Nat) (l : List Byte) : State :=
  let f : Frame :=
    { ty := 0x01, domain := s.cfg.domain, src := s.cfg.mnum, wlo := c.tier, whi := c.tier
      va := c.roff + BitVec.ofNat 64 off, total := BitVec.ofNat 32 l.length, payload := l, via := some .rud }
  s.sendFrame f ckptOp off

/-- The seal of a line of a husk (R357): ciphertext and tag. -/
def sealLine (key : List Byte) (husk pa tags : Nat) (l : List Byte) : List Byte × List Byte :=
  let k := fixLen 96 key
  let line := bits pa 7 45
  let ct := xtsEncrypt (k.take 32) ((k.drop 32).take 32) (line + husk * 2 ^ 56) l
  (ct, kmac256 (k.drop 64) (ct ++ leBytes 8 line ++ leBytes 1 husk ++ leBytes 1 tags) 8 "VRS5 SEAL")

/-- The virtual address of the sideband record of an image offset VA[56:0]: bits [63:57] are those of bit 56 (R258). -/
def fullVa (off : Nat) : Nat := if bit off 56 then off + (2 ^ 64 - 2 ^ 57) else off

/-- A line as the checkpoint sends it: its bytes, and its sideband record where it has a tag or a seal (R394); `at_` is
the PA or VA of the line. -/
def State.ckptLine (s : State) (at_ pa : Nat) : List Byte × List Byte :=
  let data := s.mem.read pa 128
  let tags := ((List.range 4).map fun i => 2 ^ i * b2n (s.mem.tag (pa + 32 * i))).sum
  let o := s.owner (frameOf pa)
  let side := fun (mac : List Byte) => leBytes 8 at_ ++ mac ++ leBytes 8 tags
  if o.seals then
    let (ct, mac) := sealLine (s.lineKey (pa / 128)) o.husk pa tags data
    (ct, side mac)
  else (data, if tags = 0 then [] else side (List.replicate 8 0))

/-- First offsets of the manifest and of the sideband records (R394). -/
def Ckpt.tops (c : Ckpt) : Nat × Nat := if c.one.isSome then (2 ^ 57, 2 ^ 58) else (2 ^ 52, 2 ^ 53)

/-- The next line of a checkpoint's stream. -/
def State.ckptNext (s : State) (c : Ckpt) : State :=
  match c.todo with
  | [] => { s with ckpt := some { c with phase := 2 } }
  | (off, pa, n) :: rest =>
    let todo := if n ≤ 128 then rest else (off + 128, pa + 128, n - 128) :: rest
    if s.inRegion pa then { s with ckpt := some { c with todo } }
    else
      let s := s.settleRange pa 128
      let s := if s.anyBad pa 128 then s.memError pa true else s
      let (l, side) := s.ckptLine (if c.one.isSome then fullVa off else off) pa
      let s := s.ckptSend c off l
      let s := if side.isEmpty then s else s.ckptSend c (c.tops.2 + c.side.length) side
      let c := { c with todo, reach := off + 128, sent := c.sent ++ l, side := c.side ++ side, clkLast := BitVec.ofNat 64 s.clk }
      { s with ckpt := some c }

/-- CHECKPOINT_STREAM (R392, R394): the end of the quiesce, and then one line. -/
def execCheckpointStream (s : State) : Host.Outcome State Fault Refusal :=
  .next (match s.ckpt with
    | none => s
    | some c =>
      if c.phase = 0 then
        if s.quiesced c then
          { s with ckpt := some { c with phase := 1, todo := s.ckptRanges c, clkEnd := BitVec.ofNat 64 s.clk } }
        else s
      else if c.phase = 1 then s.ckptNext c
      else s)

/-- The manifest (Table 17.2). -/
def Ckpt.manifest (c : Ckpt) : List Byte :=
  fixLen 256
    (leBytes 8 (b2n c.one.isSome + 2 ^ 32 * 0x5720434B) ++ leBytes 8 (c.one.getD 0) ++ leBytes 8 c.sent.length ++
      leBytes 8 (c.side.length / 24 + 2 ^ 32 * c.saved.length) ++ dwBytes [c.clkEnd, c.clkLast] ++
      shake512 (c.sent ++ c.side))

/-- Frames of the checkpoint still to be sent or acknowledged. -/
def State.ckptPending (s : State) : Bool :=
  (s.fab.tx.any fun t => decide (t.2.op = ckptOp)) || s.fab.queue.any fun x => decide (x.2.1 = ckptOp)

/-- CHECKPOINT_FINISH (R392): the manifest after the last line, and after the last acknowledgement the done word, the
requeue and the record. -/
def execCheckpointFinish (s : State) : Host.Outcome State Fault Refusal :=
  .next (match s.ckpt with
    | none => s
    | some c =>
      if c.phase = 2 then
        { s.ckptSend c c.tops.1 c.manifest with ckpt := some { c with phase := 3, reach := c.tops.1 + 256 } }
      else if c.phase = 3 ∧ !s.ckptPending then
        s.endCkpt c c.dval 0x01 (BitVec.ofNat 64 c.sent.length) (BitVec.ofNat 64 s.clk - c.clkEnd)
      else s)

end Sys2Proof.Machine
end

