-- ==== Sys2Proof/Machine/Nodes.lean ====
section
/-! DEFINITION. Work-graph nodes (R322, R323). A node is known by its context and number. -/
namespace Sys2Proof.Machine

/-- The key of a node of a context. -/
def nodeKey (ctx n : Nat) : Nat := 64 * ctx + n

/-- The node that a packet opens: its counts go on from those that its control area holds, consumed and groups
launched (log 22). -/
def Pk.node (p : Pk) (consumed groups : Nat) : Node :=
  { ctx := p.ctx, queue := p.q, qprio := p.queue.qprio, maxprio := p.queue.maxprio, savedl := p.queue.savedl
    head := p.head, packetTag := p.tag, phys := p.pa, priv := p.queue.priv, tmpl := p.dw 2, ctl := p.dw 3
    ring := p.dw 4, timer := 1024 * p.f 5 32 32, grp := p.f 5 16 6 + 1, rsz := p.f 5 8 8, slog := p.f 5 0 5
    gtab := p.dw 6, consumed, next := consumed, groups }

/-- Every address of NODE open translates with its permission and alignment (R312, R322). -/
def Pk.nodePlaces (p : Pk) (s : State) : Bool × State :=
  [(p.dw 2, 128, ({ r := true } : Need)), (p.dw 3, 64, { r := true, w := true }), (p.dw 4, 8, { r := true }),
   (p.dw 6, 8, { w := true })].foldl
    (fun x a =>
      let (ok, s) := x
      if ok then
        match p.place s a.1 a.2.1 a.2.2 with
        | (some _, s) => (true, s)
        | (none, s) => (false, s)
      else (false, s))
    (true, s)

/-- A doubleword of a node's structures. -/
def State.nodeRead (s : State) (n : Node) (a : Word) : Option Nat × State :=
  match s.nodeAddr n a false 8 with
  | (some pa, s) => (some (leNat (s.mem.read pa 8)), s)
  | (none, s) => (none, s)

/-- Write a doubleword of a node's structures. -/
def State.nodeWrite (s : State) (n : Node) (a : Word) (x : Nat) : State :=
  match s.nodeAddr n a true 8 with
  | (some pa, s) => s.physDw pa (BitVec.ofNat 64 x)
  | (none, s) => s

/-- The body of NODE open (R322). -/
def nodeOpenBody (p : Pk) (s : State) : PEnd :=
  p.withCtx s fun _ =>
    let k := nodeKey p.ctx (p.f 1 0 6)
    if (mapFind s.nodes k).isSome then .halt s 0x07
    else
      match p.nodePlaces s with
      | (false, s) => .halt s 0x06
      | (true, s) =>
        match s.nodeRead (p.node 0 0) (p.dw 3 + 8) with
        | (none, s) => .halt s 0x06
        | (some consumed, s) =>
          match s.nodeRead (p.node 0 0) (p.dw 3 + 16) with
          | (none, s) => .halt s 0x06
          | (some groups, s) => .retire { s with nodes := mapPut s.nodes k (p.node consumed groups) }

/-- NODE_OPEN (R322). -/
def execNodeOpen (p : Packet) (s : State) : Host.Outcome State Fault Refusal :=
  packetEvent (fun k => k.is 0x0A && decide (k.f 1 8 2 = 0)) (held nodeOpenBody) p s

/-! ### Groups -/

/-- The word of a record's slot reads one more than its sequence number (R322). -/
def State.recordReady (s : State) (n : Node) (seq : Nat) : Bool × State :=
  match s.nodeRead n (n.ring + BitVec.ofNat 64 (seq % 2 ^ n.slog * (8 * n.rsz))) with
  | (some x, s) => (decide (x = (seq + 1) % 2 ^ 64), s)
  | (none, s) => (false, s)

/-- Note which of `fuel` records from a sequence number on have become ready, with this clk (R323). -/
def State.noteReady (s : State) (n : Node) (seq : Nat) : Nat → Node × State
  | 0 => (n, s)
  | fuel + 1 =>
    let (r, s) := s.recordReady n seq
    s.noteReady
      (if r && (mapFind n.ready seq).isNone then { n with ready := mapPut n.ready seq s.clk } else n) (seq + 1) fuel

/-- Consecutive records that are ready from a sequence number on, at most `fuel` (R322). -/
def State.readyRecords (s : State) (n : Node) (seq : Nat) : Nat → Nat × State
  | 0 => (0, s)
  | fuel + 1 =>
    match s.recordReady n seq with
    | (true, s) =>
      let (k, s) := s.readyRecords n (seq + 1) fuel
      (k + 1, s)
    | (false, s) => (0, s)

/-- The records of a node's next group that are ready. -/
def State.groupReady (s : State) (n : Node) : Nat × State := s.readyRecords n n.next n.grp

/-- The launch of a group, from the template (R323); none where the template cannot be read. -/
def State.groupLaunch (s : State) (key : Nat) (n : Node) : Option Launch × State :=
  match s.nodeAddr n n.tmpl false 128 with
  | (none, s) => (none, s)
  | (some pa, s) =>
    let s := s.settleRange pa 128
    let tags : BitVec 3 :=
      if n.priv then 7
      else BitVec.ofNat 3 (b2n (s.mem.tag pa) + 2 * b2n (s.mem.tag (pa + 32)) + 4 * b2n (s.mem.tag (pa + 64)))
    let l := recordLaunch n.ctx (bytesDw 16 (s.mem.read pa 128)) tags
    let d := l.field 15 32 32
    (some { l with
      queue := some n.queue, qprio := n.qprio, savedl := n.savedl, head := n.head, packetTag := n.packetTag
      stage := .placing, next := 0, last := 1, deadline := if d = 0 then none else some (d * 2 ^ 20)
      node := some (key, n.groups) }, s)

/-- Launch a group of `count` records (R323): its group-table entry, groups launched, and a block. A template that
Table 1.6 or R348 refuses writes the record of that refusal, and its group ends at once (log 22). -/
def State.startGroup (s : State) (key : Nat) (n : Node) (count : Nat) : State :=
  match if (mapFind s.ctxs n.ctx).all fun c => c.dead then (none, s) else s.groupLaunch key n with
  | (none, s) => s
  | (some l, s) =>
    let g := n.groups
    let entry := n.gtab + BitVec.ofNat 64 (16 * (g % 2 ^ n.slog))
    let s := (s.nodeWrite n entry n.next).nodeWrite n (entry + 8) count
    let s := s.nodeWrite n (n.ctl + 16) (g + 1)
    let n := { n with
      groups := g + 1, next := n.next + count, ready := n.ready.filter fun x => decide (n.next + count ≤ x.1)
      openGroups := n.openGroups ++ [(g, n.next, count, false)] }
    let s := { s with nodes := mapPut s.nodes key n }
    let cause := match s.refusal l n.maxprio false with
      | some c => some c
      | none => if s.rootRefuses l then some 0x06 else none
    match cause with
    | some c =>
      let s := s.refuseRecord l c l.ctx
      { s with nodes := mapModify s.nodes key fun n => n.endGroup g }.nodeConsume key
    | none => ((s.measureLaunch l).addLaunch l).2

/-- NODE_GROUP_LAUNCH (R323): a whole group is ready. -/
def execNodeGroupLaunch (node : Nat) (s : State) : Host.Outcome State Fault Refusal :=
  .next (match mapFind s.nodes node with
    | some n =>
      let (k, s) := s.groupReady n
      if n.grp ≤ k then s.startGroup node n n.grp else s
    | none => s)

/-- NODE_GROUP_TIMER (R323): the timer of a partial group has passed. -/
def execNodeGroupTimer (node : Nat) (s : State) : Host.Outcome State Fault Refusal :=
  .next (match mapFind s.nodes node with
    | some n =>
      match mapFind n.ready n.next with
      | some t =>
        if n.timer ≠ 0 ∧ t + n.timer ≤ s.clk then
          let (k, s) := s.groupReady n
          if k = 0 then s else s.startGroup node n k
        else s
      | none => s
    | none => s)

/-- Launch partial groups while records are ready (R323). -/
def State.flushNode (s : State) (key : Nat) : Nat → State
  | 0 => s
  | fuel + 1 =>
    match mapFind s.nodes key with
    | some n =>
      match s.groupReady n with
      | (0, s) => s
      | (k + 1, s) => (s.startGroup key n (k + 1)).flushNode key fuel
    | none => s

/-- The body of NODE close (R323): it retires once every claimed record has been consumed. -/
def nodeCloseBody (p : Pk) (s : State) : PEnd :=
  p.withCtx s fun _ =>
    let k := nodeKey p.ctx (p.f 1 0 6)
    match mapFind s.nodes k with
    | none => .halt s 0x09
    | some n =>
      let s := { s with nodes := mapPut s.nodes k { n with closing := true } }.flushNode k (2 ^ n.slog)
      match mapFind s.nodes k with
      | none => .retire s
      | some n =>
        match s.nodeRead n n.ctl with
        | (some x, s) =>
          if x = n.consumed % 2 ^ 64 ∧ n.openGroups = [] then .retire { s with nodes := mapErase s.nodes k } else .stay s 1
        | (none, s) => .stay s 1

/-- NODE_CLOSE (R323). -/
def execNodeClose (p : Packet) (s : State) : Host.Outcome State Fault Refusal :=
  packetEvent (fun k => k.is 0x0A && decide (k.f 1 8 2 = 1)) (held nodeCloseBody) p s

/-- A node's records at a clk: those that have become ready are noted, among the slots that producers may hold, and the
event that is due is posted. A context that a forced reset has ended launches nothing more. -/
def State.nodeTick (s : State) (key : Nat) (n : Node) : State :=
  if (mapFind s.ctxs n.ctx).all fun c => c.dead then s
  else
    let (n, s) := s.noteReady n n.next (n.consumed + 2 ^ n.slog - n.next)
    let s := { s with nodes := mapPut s.nodes key n }
    let (k, s) := s.groupReady n
    if k = 0 then s
    else if n.grp ≤ k then s.post (.nodeGroupLaunch key)
    else if n.timer ≠ 0 ∧ mapGet s.clk n.ready n.next + n.timer ≤ s.clk then s.post (.nodeGroupTimer key)
    else s

end Sys2Proof.Machine
end

