-- ==== Sys2Proof/Machine/Signals.lean ====
section
/-! DEFINITION. WAITMEM, COND and SIGNAL (R315, R316), and the events of a blocked queue (R321). -/
namespace Sys2Proof.Machine

/-- The comparisons of Table 13.5 on two words of `w` bits. -/
def memCompare (cmp w a b : Nat) : Bool :=
  match cmp with
  | 0 => decide (a = b)
  | 1 => decide (a ≠ b)
  | 2 => decide (a < b)
  | 3 => decide (b ≤ a)
  | 4 => decide (signed w a < signed w b)
  | _ => decide (signed w b ≤ signed w a)

/-- Read the word of WAITMEM or COND as an acquire at package scope and test it (R315); none where its address
fails. -/
def Pk.test (p : Pk) (s : State) : Option Bool × State :=
  let n := if bit (p.words.getD 4 0) 3 then 8 else 4
  match p.place s (p.dw 1) n { r := true } with
  | (none, s) => (none, s)
  | (some pa, s) =>
    let s := s.settle (pa / 32)
    let m := (p.dw 3).toNat
    (some (memCompare (p.f 4 0 3) (8 * n) (leNat (s.mem.read pa n) &&& m) ((p.dw 2).toNat &&& m)), s)

/-- The body of WAITMEM (R315): it retires when its test holds, and waits otherwise. -/
def waitmemBody (p : Pk) (s : State) : PEnd :=
  p.withCtx s fun _ =>
    match p.test s with
    | (none, s) => .halt s 0x06
    | (some true, s) => .retire s
    | (some false, s) => .stay s 1

/-- WAITMEM (R315). -/
def execWaitmem (p : Packet) (s : State) : Host.Outcome State Fault Refusal :=
  packetEvent (fun k => k.is 0x0D) (held waitmemBody) p s

/-- The packet at the head of a queue, if it is whole. -/
def State.headPacket (s : State) (q : Nat) : Option Pk :=
  let x := s.queue q
  if x.halted ∨ x.head = x.tail then none
  else
    let p := s.packetAt q x x.head
    if p.whole then some p else none

/-- WAITMEM_POLL (R315): a blocked WAITMEM reads its word again. -/
def execWaitmemPoll (queue : BitVec 8) (s : State) : Host.Outcome State Fault Refusal :=
  .next (match s.headPacket queue.toNat with
    | some p =>
      if p.is 0x0D ∧ p.queue.blocked ∧ p.queue.enable ∧ s.arn.enable then runPacket (held waitmemBody) p s else s
    | none => s)

/-- The clk at which the WAITMEM at the head of a queue times out (R315). -/
def State.waitmemDue (s : State) (q : Nat) : Option Nat :=
  match s.headPacket q with
  | some p =>
    match p.queue.headSince with
    | some t => if p.is 0x0D ∧ p.f 4 32 32 ≠ 0 ∧ p.queue.blocked then some (t + 1024 * p.f 4 32 32) else none
    | none => none
  | none => none

/-- WAITMEM_TIMEOUT (R315): the queue halts with error 0x0A. -/
def execWaitmemTimeout (queue : BitVec 8) (s : State) : Host.Outcome State Fault Refusal :=
  .next (match s.waitmemDue queue.toNat with
    | some t =>
      if t ≤ s.clk then
        let x := s.queue queue.toNat
        s.commandError queue.toNat x.head (s.packetAt queue.toNat x x.head).tag 0x0A
      else s
    | none => s)

/-- PACKET_UNBLOCK (R321): the condition that a queue's packet awaits may hold. -/
def execPacketUnblock (queue : BitVec 8) (s : State) : Host.Outcome State Fault Refusal :=
  .next (
    let x := s.queue queue.toNat
    if x.blocked then s.putQueue queue.toNat { x with blocked := false } else s)

/-! ### COND -/

/-- COND reads its word once (R315); stage 1 tells that its test held and that it waits for the tail. -/
def Pk.condTest (p : Pk) (s : State) : Option Bool × State :=
  if p.queue.stage = 1 then (some true, s) else p.test s

/-- The ring word after a packet. -/
def Pk.after (p : Pk) : BitVec 32 := p.head + BitVec.ofNat 32 p.words.length

/-- The common form of COND: its address is tested, then an action is taken if the test held. -/
def condBody (act : Pk → State → PEnd) (p : Pk) (s : State) : PEnd :=
  p.withCtx s fun _ =>
    match p.condTest s with
    | (none, s) => .halt s 0x06
    | (some false, s) => .retire s
    | (some true, s) => act p s

/-- Walk over packets that COND skips: their headers are checked as they are published (R315). `done` packets have
been passed, COND among them. -/
def skipWalk (p : Pk) (s : State) : Nat → BitVec 32 → Nat → Nat → PEnd
  | 0, _, _, _ => .stay s 1
  | fuel + 1, w, left, done =>
    if left = 0 then .move s w done
    else if p.queue.published p.head ≤ (w - p.head).toNat then .stay s 1
    else
      let k := { s.packetAt p.q p.queue w with queue := p.queue }
      match headerError k with
      | some c => .stop s w done k.tag c
      | none => if k.whole then skipWalk p s fuel k.after (left - 1) (done + 1) else .stay s 1

/-- COND skip (R315). -/
def condSkipBody (p : Pk) (s : State) : PEnd :=
  condBody (fun p s => skipWalk p s (p.queue.published p.head + 1) p.after (p.f 4 32 32) 1) p s

/-- COND repeat (R315). -/
def condRepeatBody (p : Pk) (s : State) : PEnd :=
  condBody
    (fun p s =>
      if 2 ^ p.queue.size < p.f 4 32 32 then .halt s 0x0C else .move s (p.head - BitVec.ofNat 32 (p.f 4 32 32)) 1)
    p s

/-- COND jump (R315): it waits until the tail reaches its target. -/
def condJumpBody (p : Pk) (s : State) : PEnd :=
  condBody
    (fun p s =>
      let n := p.f 4 32 32
      if 2 ^ p.queue.size < n then .halt s 0x0C
      else if p.queue.published p.head < p.words.length + n then .stay s 1
      else .move s (p.after + BitVec.ofNat 32 n) 1)
    p s

/-- COND_SKIP (R315). -/
def execCondSkip (p : Packet) (s : State) : Host.Outcome State Fault Refusal :=
  packetEvent (fun k => k.is 0x0F && decide (k.f 4 4 2 = 0)) (held condSkipBody) p s

/-- COND_REPEAT (R315). -/
def execCondRepeat (p : Packet) (s : State) : Host.Outcome State Fault Refusal :=
  packetEvent (fun k => k.is 0x0F && decide (k.f 4 4 2 = 1)) (held condRepeatBody) p s

/-- COND_JUMP (R315). -/
def execCondJump (p : Packet) (s : State) : Host.Outcome State Fault Refusal :=
  packetEvent (fun k => k.is 0x0F && decide (k.f 4 4 2 = 2)) (held condJumpBody) p s

/-! ### SIGNAL -/

/-- What SIGNAL makes of the old word of `n` bytes (R316): store, add or unsigned max. -/
def signalValue (sop n old v : Nat) : Nat :=
  match sop with
  | 0 => v
  | 1 => (old + v) % 2 ^ (8 * n)
  | _ => max old v

/-- The body of SIGNAL (R316): the write, as a release at package scope, then its vector. -/
def signalBody (p : Pk) (s : State) : PEnd :=
  p.withCtx s fun _ =>
    let n := if bit (p.words.getD 3 0) 2 then 8 else 4
    let sop := p.f 3 0 2
    let need : Need := if sop = 0 then { w := true } else { r := true, w := true }
    match p.place s (p.dw 1) n need with
    | (none, s) => .halt s 0x06
    | (some pa, s) =>
      let s := s.settle (pa / 32)
      let v := (p.dw 2).toNat % 2 ^ (8 * n)
      let s := s.physWrite pa (leBytes n (signalValue sop n (leNat (s.mem.read pa n)) v))
      .retire (if bit (p.words.getD 3 0) 3 then { s with arn := { s.arn with msix := s.arn.msix ++ [p.f 3 16 8] } } else s)

/-- SIGNAL_STORE (R316). -/
def execSignalStore (p : Packet) (s : State) : Host.Outcome State Fault Refusal :=
  packetEvent (fun k => k.is 0x0E && decide (k.f 3 0 2 = 0)) (held signalBody) p s

/-- SIGNAL_ADD (R316). -/
def execSignalAdd (p : Packet) (s : State) : Host.Outcome State Fault Refusal :=
  packetEvent (fun k => k.is 0x0E && decide (k.f 3 0 2 = 1)) (held signalBody) p s

/-- SIGNAL_MAX (R316). -/
def execSignalMax (p : Packet) (s : State) : Host.Outcome State Fault Refusal :=
  packetEvent (fun k => k.is 0x0E && decide (k.f 3 0 2 = 2)) (held signalBody) p s

end Sys2Proof.Machine
end

