-- ==== Sys2Proof/Machine/Rounds.lean ====
section
/-! DEFINITION. Doorbells and descriptors (R310, R311), and the rounds in which Arnal serves queues (R321). -/
namespace Sys2Proof.Machine

/-! ### Descriptors and doorbells -/

/-- A descriptor as the driver has written it has a reserved bit set or a size out of range (Table 13.2). -/
def badDescriptor (d : List Nat) : Bool :=
  let dw := fun (i : Nat) => d.getD i 0
  decide (bits (dw 0) 61 1 ≠ 0 ∨ bits (dw 0) 52 4 ≠ 0 ∨ bits (dw 0) 0 12 ≠ 0 ∨ bits (dw 0) 56 5 < 9 ∨ 20 < bits (dw 0) 56 5) ||
  decide (bits (dw 2) 16 16 ≠ 0 ∨ bits (dw 3) 16 16 ≠ 0 ∨ bits (dw 3) 2 6 ≠ 0) ||
  [4, 5, 6, 7].any fun i => decide (dw i ≠ 0)

/-- The doublewords of a queue's descriptor. -/
def State.descriptor (s : State) (q : Nat) : List Nat :=
  (List.range 8).map fun i => (s.readDw (s.arn.qtab.toNat + 64 * q + 8 * i)).toNat

/-- Latch a queue's descriptor (R311): a bad one halts the queue, one whose enable bit is clear leaves it out of
service. -/
def State.latch (s : State) (q : Nat) : State :=
  let d := s.descriptor q
  let dw := fun (i : Nat) => d.getD i 0
  let x := s.queue q
  let y := { x with
    latched := true, enable := bit (dw 0) 63, priv := bit (dw 0) 62, size := bits (dw 0) 56 5
    ring := 4096 * bits (dw 0) 12 40, ctx := bits (dw 2) 0 12, qprio := bits (dw 2) 12 2, maxprio := bits (dw 2) 14 2
    savedl := bits (dw 2) 32 32 }
  if badDescriptor d then
    ({ s with arn := { s.arn with queues := mapPut s.arn.queues q y } }).commandError q x.head 0 0x03
  else s.putQueue q y

/-- The tail field of a doorbell (R310). A queue whose size is out of range, and which has halted for that (R311), has no
ring to hold it: the tail is lost (log 25). -/
def State.ringTail (s : State) (q : Nat) (tail : BitVec 32) : State :=
  let x := s.queue q
  if x.size < 9 ∨ 20 < x.size then s
  else if 2 ^ x.size < (tail - x.head).toNat then
    s.commandError q x.head (if x.head = x.tail then 0 else (s.packetAt q x x.head).tag) 0x0B
  else (s.putQueue q { x with tail }).atHead q

/-- The reload field (R310): honoured when the queue is halted or idle. -/
def State.ringReload (s : State) (q : Nat) : State :=
  let x := s.queue q
  if x.halted ∨ x.head = x.tail then
    let s := (s.putQueue q { x with halted := false, blocked := false, stage := 0, headSince := none }).latch q
    if (s.queue q).enable then s.atHead q else s
  else s

/-- The stop field (R310): a wait is abandoned, and the descriptor's enable bit is cleared. -/
def State.ringStop (s : State) (q : Nat) : State :=
  let x := s.queue q
  let d := s.arn.qtab.toNat + 64 * q
  ((s.endDestroy q).putQueue q { x with enable := false, blocked := false, stage := 0, headSince := none }).physDw d
    (s.readDw d &&& ~~~(BitVec.twoPow 64 63))

/-- A doorbell write (R310, R311): the descriptor is latched at the first one after enable is set; then the tail, the
reload and the stop act in that order (log 25). -/
def State.doorbell (s : State) (q : Nat) (v : Word) : State :=
  if !s.inService || !s.arn.enable then s
  else
    let x := s.queue q
    let s := if x.latched && x.enable || !bit ((s.descriptor q).headD 0) 63 then s else s.latch q
    let x := s.queue q
    if !x.latched || !x.enable then s
    else
      let s := s.ringTail q (v.extractLsb' 0 32)
      let s := if v.getLsbD 62 then s.ringReload q else s
      if v.getLsbD 63 then s.ringStop q else s

/-- DOORBELL_TAIL (R310): a doorbell write. -/
def execDoorbellTail (queue : BitVec 8) (value : Word) (s : State) : Host.Outcome State Fault Refusal :=
  .next (s.doorbell queue.toNat value)

/-- DOORBELL_RELOAD (R310): a doorbell write with reload set. -/
def execDoorbellReload (queue : BitVec 8) (value : Word) (s : State) : Host.Outcome State Fault Refusal :=
  .next (s.doorbell queue.toNat (value ||| BitVec.twoPow 64 62))

/-- DOORBELL_STOP (R310): a doorbell write with stop set. -/
def execDoorbellStop (queue : BitVec 8) (value : Word) (s : State) : Host.Outcome State Fault Refusal :=
  .next (s.doorbell queue.toNat (value ||| BitVec.twoPow 64 63))

/-! ### Rounds -/

/-- The body of a packet, by its opcode and the field that selects its kind (Tables 13.4 and 13.5). -/
def packetBody (p : Pk) : Pk → State → PEnd :=
  match p.f 0 0 8 with
  | 0x01 => if p.f 2 0 1 = 0 then gridtabInstallBody else gridtabRemoveBody
  | 0x02 => ctxnewBody
  | 0x03 => ctxendBody
  | 0x04 => if p.f 1 24 1 = 0 then huskCreateBody else huskDestroyBody
  | 0x05 => if p.f 1 8 2 = 0 then keyslotLoadBody else keyslotZeroiseBody
  | 0x06 => if p.f 4 0 1 = 0 then scrubStartBody else scrubContinueBody
  | 0x07 => attestBody
  | 0x08 => layoutBody
  | 0x09 => launchBody
  | 0x0A => if p.f 1 8 2 = 0 then nodeOpenBody else nodeCloseBody
  | 0x0B => if p.f 1 0 2 = 0 then preemptBody true else if p.f 1 0 2 = 1 then preemptBody false else resumeBody
  | 0x0C => ckptBody
  | 0x0D => waitmemBody
  | 0x0E => signalBody
  | _ => if p.f 4 4 2 = 0 then condSkipBody else if p.f 4 4 2 = 1 then condRepeatBody else condJumpBody

/-- Opcodes in the order of Table 13.7. -/
def groupOrder : List Nat :=
  [0x0B, 0x03, 0x05, 0x06, 0x04] ++ [0x02, 0x01, 0x08, 0x07, 0x0C] ++ [0x0A, 0x09, 0x0D, 0x0F, 0x0E]

/-- The packet at the head of a queue that is ready for a round (R321). -/
def State.readyPacket (s : State) (q : Nat) : Option Pk :=
  let x := s.queue q
  if s.arn.enable ∧ !s.health.tripped ∧ x.latched ∧ x.enable ∧ !x.blocked then s.headPacket q else none

/-- The ready packets of a priority, from its round-robin pointer on. -/
def State.readyAt (s : State) (prio : Nat) : List Pk :=
  let l := (s.arn.queues.filter fun q => decide (q.2.qprio = prio)).filterMap fun q => s.readyPacket q.1
  let ptr := mapGet 0 s.arn.rr prio
  (l.filter fun p => decide (ptr ≤ p.q)) ++ l.filter fun p => decide (p.q < ptr)

/-- The lanes of a round (R321). -/
def State.selectLanes (s : State) : List Pk :=
  let byPrio := [3, 2, 1, 0].map s.readyAt
  let all := byPrio.flatten
  let lanes := all.take 32
  if s.arn.rounds % 8 ≠ 7 then lanes
  else
    match (byPrio.filter fun l => !l.isEmpty).drop 1 with
    | (p :: _) :: _ => if lanes.any fun x => decide (x.q = p.q) then lanes else lanes.take 31 ++ [p]
    | _ => lanes

/-- Move the pointers past the last queue served of each priority. -/
def State.movePointers (s : State) (lanes : List Pk) : State :=
  { s with arn := { s.arn with
      rounds := s.arn.rounds + 1
      rr := lanes.foldl (fun m p => mapSet 0 m p.queue.qprio ((p.q + 1) % 256)) s.arn.rr } }

/-- Run lanes one after another. -/
def runLanes (s : State) (l : List Pk) : State := l.foldl (fun s p => runPacket (held (packetBody p)) p s) s

/-- ARNAL_ROUND (R321): packets whose headers fail stop their queues first, then the groups run in order. -/
def execArnalRound (s : State) : Host.Outcome State Fault Refusal :=
  .next (
    let lanes := s.selectLanes
    if lanes.isEmpty then s
    else
      let good := lanes.filter fun p => (headerError p).isNone
      let s := runLanes s (lanes.filter fun p => (headerError p).isSome)
      let s := groupOrder.foldl (fun s op => runLanes s (good.filter fun p => p.is op)) s
      s.movePointers lanes)

end Sys2Proof.Machine
end

