-- ==== Sys2Proof/Machine/Control.lean ====
section
/-! DEFINITION. The control port (R308, R309): writes to BAR0 registers (Tables 13.1 and 8.4), and the BAR2 window
(R355). -/
namespace Sys2Proof.Machine

/-- A range of a value: bits [lo + n - 1 : lo] in place, the others zero. -/
def keepBits (v : Word) (lo n : Nat) : Word := v &&& BitVec.ofNat 64 ((2 ^ n - 1) * 2 ^ lo)

/-- arn.enable (Table 13.1): when it is set, the next doorbell of each queue latches its descriptor (R311). -/
def State.setEnable (s : State) (on : Bool) : State :=
  let queues := if on && !s.arn.enable then mapAll s.arn.queues fun _ q => { q with latched := false } else s.arn.queues
  { s with arn := { s.arn with enable := on, queues } }

/-- fault.resp (R265): a verdict on a fault record. -/
def State.verdict (s : State) (seq : BitVec 32) (code : Nat) : State :=
  match code with
  | 1 => s.giveVerdict seq true
  | 2 => s.giveVerdict seq false
  | _ => s

/-- A write to a register of Table 8.4 at its listed offset; what an event of this clk has set stays set (R5). -/
def State.writeXlat (s : State) (o : Nat) (v : Word) : State :=
  let x := s.xlat
  match o with
  | 0x00 => { s with xlat := { x with invalAsid := v.extractLsb' 0 16 } }
  | 0x08 => { s with xlat := { x with invalVa := v.extractLsb' 16 48 } }
  | 0x10 => { s with xlat := { x with invalLen := v.extractLsb' 0 32 } }
  | 0x18 => s.startInval (v.toNat % 4)
  | 0x20 => { s with xlat := { x with invalStatus := x.invalStatus &&& ~~~(v.extractLsb' 0 3 &&& 6 &&& ~~~x.invalNew) } }
  | 0x40 => s.verdict (v.extractLsb' 0 32) (bits v.toNat 32 2)
  | 0x50 => { s with xlat := { x with faultStale := x.faultStale && (x.staleNew || !v.getLsbD 0) } }
  | _ => s

/-- A write to a register of Table 13.1; the fields of the error ring hold while Arnal is enabled (R309), and
what an event of this clk has set stays set (R5). -/
def State.writeArnal (s : State) (o : Nat) (v : Word) : State :=
  let a := s.arn
  match o with
  | 0x08 => { s with arn := { a with qtab := (keepBits v 14 38).extractLsb' 0 52 } }
  | 0x10 => s.setEnable (v.getLsbD 0)
  | 0x18 => if a.enable then s else { s with arn := { a with errbase := (keepBits v 5 47).extractLsb' 0 52 } }
  | 0x20 => if a.enable then s else { s with arn := { a with errlog := v.extractLsb' 0 5 } }
  | 0x30 => { s with arn := { a with errrd := v.extractLsb' 0 32 } }
  | 0x38 => { s with arn := { a with status := a.status &&& ~~~(v.extractLsb' 0 3 &&& ~~~a.statusNew) } }
  | 0x40 => { s with arn := { a with win := v.extractLsb' 32 20 } }
  | _ => s

/-- REGISTER_WRITE (R4, R308): a write of 64 bits to BAR0; offsets that the tables do not list ignore it, and so does all
of BAR0 before the first health block (R391). -/
def execRegisterWrite (offset : Nat) (value : Word) (s : State) : Host.Outcome State Fault Refusal :=
  .next (
    if !s.inService then s
    else if 0x20000 ≤ offset then s.writeXlat (offset - 0x20000) value
    else if 0x10000 ≤ offset ∧ offset < 0x10800 ∧ offset % 8 = 0 then s.doorbell ((offset - 0x10000) / 8) value
    else s.writeArnal offset value)

/-- What a read of a BAR0 register returns (R308, Tables 13.1 and 8.4): write-only registers and offsets that the tables
do not list read as zero, and so does all but arn.id and arn.bstate while the package is in boot (R388, R391). What
fault.pend, which is [15:0], reads with more than 65,535 records pending the manual does not say: the model returns the
whole count (DESIGN CHOICE, log 50). -/
def State.readBar0 (s : State) (offset : Nat) : Word :=
  let a := s.arn
  let x := s.xlat
  if a.bstate ≠ 1 ∧ offset ≠ 0 ∧ offset ≠ 0x48 then 0
  else match offset with
  | 0x00000 => 0x57200001
  | 0x00008 => a.qtab.zeroExtend 64
  | 0x00010 => BitVec.ofNat 64 (b2n a.enable)
  | 0x00018 => a.errbase.zeroExtend 64
  | 0x00020 => a.errlog.zeroExtend 64
  | 0x00028 => a.errwr.zeroExtend 64
  | 0x00030 => a.errrd.zeroExtend 64
  | 0x00038 => a.status.zeroExtend 64
  | 0x00040 => a.win.zeroExtend 64 <<< 32
  | 0x00048 => a.bstate.zeroExtend 64
  | 0x20000 => x.invalAsid.zeroExtend 64
  | 0x20008 => x.invalVa.zeroExtend 64 <<< 16
  | 0x20010 => x.invalLen.zeroExtend 64
  | 0x20020 => x.invalStatus.zeroExtend 64
  | 0x20048 => BitVec.ofNat 64 s.pendingFaults.length
  | 0x20050 => BitVec.ofNat 64 (b2n x.faultStale)
  | _ => 0

/-! ### BAR2 -/

/-- A physical address that BAR2 refuses because it lies in the reserved region beyond the health block (R353, R390). -/
def State.regionClosed (s : State) (pa : Nat) : Bool := s.inRegion pa && decide (65536 ≤ pa % 2 ^ 28)

/-- A frame that BAR2 refuses (R355). -/
def State.frameClosed (s : State) (f : Nat) : Bool := decide ((s.owner f).state = 1 ∨ (s.owner f).state = 2)

/-- The record of a refused BAR2 access (R355): one in each interval of 2^20 clk. -/
def State.noteRefusal (s : State) (pa : Nat) (write : Bool) : State :=
  let quiet := match s.prot.lastRefuse with
    | some t => decide (s.clk < t + 2 ^ 20)
    | none => false
  if quiet then s
  else
    let s := s.errorRecord 0x07 0x03 0xFFF none (BitVec.ofNat 64 pa) (BitVec.ofNat 64 (b2n write))
    { s with prot := { s.prot with lastRefuse := some s.clk } }

/-- What BAR2 does with a request: none where it is unsupported; else its address, and whether it is refused. -/
def State.bar2 (s : State) (offset n : Nat) (write : Bool) : Option (Nat × Bool) × State :=
  let pa := s.arn.win.toNat * 2 ^ 32 + offset
  if n = 0 ∨ 2 ^ 32 < offset + n then (none, s)
  else
    match (unitsOf 65536 pa n).find? s.frameClosed with
    | some f => (some (pa, true), s.noteRefusal (max pa (65536 * f)) write)
    | none => (some (pa, decide (memBytes < pa + n) || (unitsOf 65536 pa n).any fun f => s.regionClosed (65536 * f)), s)

/-- BAR2_READ (R308, R355): at the home slices; a refused request reads all ones, and one that does not lie within the
window returns no data. -/
def execBar2Read (offset bytes : Nat) (s : State) : Host.Outcome State Fault Refusal :=
  let reply := fun (s : State) (l : Option (List Byte)) => { s with arn := { s.arn with hostReply := l } }
  .next (
    if s.health.tripped then s
    else
      match s.bar2 offset bytes false with
      | (none, s) => reply s none
      | (some (_, true), s) => reply s (some (List.replicate bytes 0xFF))
      | (some (pa, false), s) =>
        let s := s.settleRange pa bytes
        if s.anyBad pa bytes then
          let (l, s) := (s.memError pa false).freeBytes bytes
          reply s (some l)
        else reply s (some (s.mem.read pa bytes)))

/-- A byte of the health block after a host write of it (R4, Table 17.6): the fields of DW0 to DW6 and fence are RO and
keep what they hold; of DW7 preq and pv take the write, and the reserved bits ignore it. -/
def State.healthByte (s : State) (pa : Nat) (x : Byte) : Byte :=
  let o := pa - s.cfg.resv.toNat
  if !(s.inRegion pa) then x
  else if o < 56 ∨ (59 ≤ o ∧ o < 64) ∨ (0x100 ≤ o ∧ o < 0x268) then s.mem.byte pa
  else if o = 58 then (s.mem.byte pa &&& 0xFE) ||| (x &&& 1)
  else x

/-- Bytes that a host write leaves from an address on. -/
def State.hostBytes (s : State) (pa : Nat) : List Byte → List Byte
  | [] => []
  | x :: r => s.healthByte pa x :: s.hostBytes (pa + 1) r

/-- BAR2_WRITE (R308, R355, R398): at the home slices; a refused request is dropped. -/
def execBar2Write (offset : Nat) (data : List Byte) (s : State) : Host.Outcome State Fault Refusal :=
  .next (
    if s.health.tripped then s
    else
      match s.bar2 offset data.length true with
      | (some (pa, false), s) =>
        let s := s.settleRange pa data.length
        s.physWrite pa (s.hostBytes pa data)
      | (_, s) => s)

end Sys2Proof.Machine
end

