-- ==== Sys2Proof/Machine/Convert.lean ====
section
/-! DEFINITION. The conversion group (05 §5.4). -/
namespace Sys2Proof.Machine

/-- Bits per element slot of a format in a register (R161): 6-bit elements occupy 8. -/
def slotBits (fmt : Nat) : Nat :=
  match fmt with
  | 3 => 4
  | 4 => 8
  | 5 => 8
  | 6 => 8
  | 7 => 8
  | 10 => 16
  | 11 => 16
  | 15 => 64
  | _ => 32

/-- Element `i` of a format in a register value (R161). -/
def elementOf (fmt i x : Nat) : Nat := bits x (slotBits fmt * i) (fmtOf fmt).width

/-- Put element `i` of a format into a register value, leaving the rest (R161). -/
def putElement (fmt i old x : Nat) : Nat :=
  let n := slotBits fmt
  old - bits old (n * i) n * 2 ^ (n * i) + x * 2 ^ (n * i)

/-- A scale of R52 as the exponent of its power of two; none for the scale NaN. -/
def e8m0 (x : Nat) : Option Int := if x = 255 then none else some ((x : Int) - 127)

/-- The value that FCVT.e8 converts (R161). -/
def scaledSource (x : FVal) (sfmt dfmt scale : Nat) : FVal :=
  match e8m0 scale with
  | none => .nan
  | some n =>
    let x := if (fmtOf sfmt).width ≤ 8 then x.scale n else x
    if (fmtOf dfmt).width ≤ 8 then x.scale (-n) else x

/-- FCVT (R161). A conversion to the same format only canonicalises NaNs: an infinity stands whatever the policy. -/
def execFcvt (f : Fields) (s : State) : Out :=
  let dfmt := fld f.w2 0 4
  let sfmt := fld f.w2 4 4
  let dsel := fld f.w2 8 3
  let ssel := fld f.w2 12 3
  let dw := decide (dfmt = 15)
  laneResult f s dw fun en i =>
    let x := (fmtOf sfmt).decode (elementOf sfmt ssel (en.w.vVal (decide (sfmt = 15)) f.a.toNat i).toNat)
    let x := if mb f 3 then scaledSource x sfmt dfmt (low 8 (en.w.getV f.b.toNat i).toNat) else x
    let (c, fl) := (fmtOf dfmt).convert (fld f.mod 0 2) (mb f 2 || decide (sfmt = dfmt)) x
    (BitVec.ofNat 64 (putElement dfmt dsel (en.w.vVal dw f.d.toNat i).toNat c), fl)

/-- Width of the integer types of F2I and I2F, 0 to 7 (R160). -/
def intWidth (ty : Nat) : Nat := 8 * 2 ^ (ty / 2)

/-- F2I (R162). The manual is silent on hsel with a 32-bit or 64-bit format: the model accepts and ignores it (DESIGN
CHOICE, log 45). -/
def execF2i (f : Fields) (s : State) : Out :=
  let fmt := fld f.w2 0 4
  let ty := fld f.w2 4 3
  let w := intWidth ty
  let uns := bit ty 0
  laneResult f s (decide (w = 64)) fun en i =>
    let src := (en.w.vVal (decide (fmt = 15)) f.a.toNat i).toNat
    let sel := if (fmtOf fmt).width = 16 then fld f.w2 8 1 else 0
    let (r, fl) := convertInt w uns (fld f.mod 0 2) ((fmtOf fmt).decode (elementOf fmt sel src))
    (BitVec.ofNat 64 (wrap 64 r), fl)

/-- I2F (R162). hsel has no meaning with a format of 32 or 64 bits, and the model ignores it there (DESIGN CHOICE,
log 45). -/
def execI2f (f : Fields) (s : State) : Out :=
  let fmt := fld f.w2 0 4
  let ty := fld f.w2 4 3
  let w := intWidth ty
  let dw := decide (fmt = 15)
  laneResult f s dw fun en i =>
    let x := FVal.ofInt (toInt w (bit ty 0) (en.w.vVal (decide (w = 64)) f.a.toNat i).toNat)
    let sel := if (fmtOf fmt).width = 16 then fld f.w2 8 1 else 0
    let (c, fl) := (fmtOf fmt).convert (fld f.mod 0 2) true x
    (BitVec.ofNat 64 (putElement fmt sel (en.w.vVal dw f.d.toNat i).toNat c), fl)

end Sys2Proof.Machine
end

