-- ==== Sys2Proof/Machine/Forerunner.lean ====
section
/-! DEFINITION. Forerunner instructions (03 §3.8): each computes on its active lanes what its native counterpart
computes (R101, R102). -/
namespace Sys2Proof.Machine

/-- SignExtend(imm) (R101). -/
def frImm (f : FrFields) : Word := f.imm.signExtend 64

/-- The second source: v[b], or the immediate under sub[0] (R101). -/
def Env.frB (en : Env) (f : FrFields) (i : Nat) : Word :=
  if f.sub.getLsbD 0 then frImm f else (en.w.getV f.b.toNat i).zeroExtend 64

/-- A forerunner instruction whose result goes to v[d] on the active lanes. -/
def frLane (f : FrFields) (s : State) (g : Env → Nat → Word × FlagSet) : Out :=
  forerunner f s fun en =>
    en.done ((en.w.putV false f.d.toNat en.e fun i => (g en i).1).raiseFlags (flagsOf en.e fun i => (g en i).2))

/-- Opcodes 0x01 to 0x09: the .i32 form of a vector integer major (R101). -/
def frInt (op : IntOp) (f : FrFields) (s : State) : Out :=
  frLane f s fun en i =>
    let (x, fl) := op.result 32 false false ((en.w.getV f.a.toNat i).zeroExtend 64) (en.frB f i)
    (BitVec.ofNat 64 x, fl)

/-- No operation (0x00). -/
def execFrNoOperation (f : FrFields) (s : State) : Out := forerunner f s fun en => .next en.s
/-- Integer add (0x01). -/
def execFrIntegerAdd (f : FrFields) (s : State) : Out := frInt .add f s
/-- Integer subtract (0x02). -/
def execFrIntegerSubtract (f : FrFields) (s : State) : Out := frInt .sub f s
/-- Integer multiply (0x03). -/
def execFrIntegerMultiply (f : FrFields) (s : State) : Out := frInt .mul f s
/-- AND (0x04). -/
def execFrAnd (f : FrFields) (s : State) : Out := frInt .and f s
/-- OR (0x05). -/
def execFrOr (f : FrFields) (s : State) : Out := frInt .or f s
/-- XOR (0x06). -/
def execFrXor (f : FrFields) (s : State) : Out := frInt .xor f s
/-- Shift left (0x07). -/
def execFrShiftLeft (f : FrFields) (s : State) : Out := frInt .shl f s
/-- Logical shift right (0x08). -/
def execFrLogicalShiftRight (f : FrFields) (s : State) : Out := frInt .shr f s
/-- Arithmetic shift right (0x09). -/
def execFrArithmeticShiftRight (f : FrFields) (s : State) : Out := frInt .sra f s

/-- FP32 add (0x0A). -/
def execFrFp32Add (f : FrFields) (s : State) : Out :=
  frLane f s fun en i =>
    asLane (fp32.convert 0 true (FVal.add 0 (en.fpV false f.a.toNat i) (en.fpV false f.b.toNat i)))
/-- FP32 multiply (0x0B). -/
def execFrFp32Multiply (f : FrFields) (s : State) : Out :=
  frLane f s fun en i =>
    asLane (fp32.convert 0 true ((en.fpV false f.a.toNat i).mul (en.fpV false f.b.toNat i)))
/-- FP32 fused multiply-add with v[imm[7:0]] (0x0C). -/
def execFrFp32Fma (f : FrFields) (s : State) : Out :=
  frLane f s fun en i =>
    asLane (fp32.convert 0 true
      (FVal.fma 0 (en.fpV false f.a.toNat i) (en.fpV false f.b.toNat i) (en.fpV false (fld f.imm 0 8) i)))
/-- Move (0x0D). -/
def execFrMove (f : FrFields) (s : State) : Out :=
  frLane f s fun en i => ((en.w.getV f.a.toNat i).zeroExtend 64, 0)
/-- Load immediate (0x0E). -/
def execFrLoadImmediate (f : FrFields) (s : State) : Out := frLane f s fun _ _ => (frImm f, 0)
/-- Lane number (0x0F). -/
def execFrLaneNumber (f : FrFields) (s : State) : Out := frLane f s fun _ i => (BitVec.ofNat 64 i, 0)

/-- Integer compare (0x10). -/
def execFrIntegerCompare (f : FrFields) (s : State) : Out :=
  forerunner f s fun en =>
    let uns := f.sub.getLsbD 3
    let c := fun i => compareInt (fld f.sub 0 3) (toInt 32 uns (en.w.getV f.a.toNat i).toNat)
      (toInt 32 uns (en.w.getV f.b.toNat i).toNat)
    en.done (en.w.setPLanes f.d.toNat en.e (maskOf c))
/-- FP32 compare (0x11). -/
def execFrFp32Compare (f : FrFields) (s : State) : Out :=
  forerunner f s fun en =>
    let c := fun i => compareFloat (fld f.sub 0 3) (en.fpV false f.a.toNat i) (en.fpV false f.b.toNat i)
    en.done (en.w.setPLanes f.d.toNat en.e (maskOf c))
/-- Scalar add immediate (0x12). -/
def execFrScalarAddImmediate (f : FrFields) (s : State) : Out :=
  forerunner f s fun en => en.done (en.w.setS f.d.toNat (en.w.getS f.a.toNat + frImm f))
/-- Scalar load immediate (0x13). -/
def execFrScalarLoadImmediate (f : FrFields) (s : State) : Out :=
  forerunner f s fun en => en.done (en.w.setS f.d.toNat (frImm f))

/-- A lane's offset in opcodes 0x18 to 0x1B (R101). -/
def Env.frOffset (en : Env) (f : FrFields) (i : Nat) : Word :=
  en.laneBase (f.sub.getLsbD 0) f.a.toNat i + frImm f

/-- Load word (0x18). -/
def execFrLoadWord (f : FrFields) (s : State) : Out :=
  forerunner f s fun en => en.globalLoad en.s 4 f.d.toNat (en.w.getC f.b.toNat) (en.frOffset f)
/-- Store word (0x19). -/
def execFrStoreWord (f : FrFields) (s : State) : Out :=
  forerunner f s fun en => en.globalStore 4 f.d.toNat (en.w.getC f.b.toNat) (en.frOffset f)
/-- Scratchpad load word (0x1A). -/
def execFrScratchpadLoadWord (f : FrFields) (s : State) : Out :=
  forerunner f s fun en => en.scratchLoad en.s 4 f.d.toNat (en.frOffset f)
/-- Scratchpad store word (0x1B). -/
def execFrScratchpadStoreWord (f : FrFields) (s : State) : Out :=
  forerunner f s fun en => en.scratchStore en.s 4 f.d.toNat (en.frOffset f)
/-- Fence (0x1C): FENCE.ar at a scope. -/
def execFrFence (f : FrFields) (s : State) : Out :=
  forerunner f s fun en => .next (en.fenceKind 0 (fld f.sub 0 3))

/-- Change the nesting counters of the slot's lanes; a counter that would pass 255 is the divergence-nesting fault, without
effect (R98). The trap head's lanes are those whose counter would pass 255: R98 and R102 leave open whether "those lanes"
and "the lanes concerned" are these or all that the instruction would increment (DESIGN CHOICE, log 45). -/
def Env.nestStep (en : Env) (g : Nat → Nat → Nat) : Res :=
  let new := en.lanes.map fun i => (i, g i (mapGet 0 en.w.nest i))
  let bad := new.filter fun x => decide (255 < x.2)
  if bad.isEmpty then en.done { en.w with nest := new.foldl (fun m x => mapSet 0 m x.1 x.2) en.w.nest }
  else .trap en.s { cause := 0x06, lanes := maskOf fun i => bad.any fun x => decide (x.1 = i) }

/-- If (0x20). -/
def execFrIf (f : FrFields) (s : State) : Out :=
  forerunnerSlot s fun en =>
    en.nestStep fun i c => if 0 < c ∨ !(inMask (en.w.getP f.a.toNat) i) then c + 1 else c
/-- Else (0x21). -/
def execFrElse (_f : FrFields) (s : State) : Out :=
  forerunnerSlot s fun en => en.nestStep fun _ c => if c = 0 then 1 else if c = 1 then 0 else c
/-- End if (0x22). -/
def execFrEndIf (_f : FrFields) (s : State) : Out :=
  forerunnerSlot s fun en => en.nestStep fun _ c => c - 1
/-- Break (0x23). -/
def execFrBreak (f : FrFields) (s : State) : Out :=
  forerunnerSlot s fun en =>
    en.nestStep fun i c => if c = 0 ∧ inMask (en.w.getP f.a.toNat) i then c + fld f.imm 0 8 else c

/-- A branch target: the address plus 8 × SignExtend(imm) (R101). -/
def frTarget (f : FrFields) (pc : Word) : Word := pc + frImm f <<< 3

/-- Loop (0x24). -/
def execFrLoop (f : FrFields) (s : State) : Out :=
  forerunnerSlot s fun en =>
    if en.lanes.any fun i => decide (mapGet 0 en.w.nest i = 0) then .jump en.s (frTarget f en.is.pc)
    else en.nestStep fun _ c => c - 1
/-- Branch (0x25). -/
def execFrBranch (f : FrFields) (s : State) : Out := forerunnerSlot s fun en => .jump en.s (frTarget f en.is.pc)
/-- Call (0x26). -/
def execFrCall (f : FrFields) (s : State) : Out :=
  forerunnerSlot s fun en => .jump (en.put (en.w.setS f.d.toNat en.fall)) (frTarget f en.is.pc)
/-- Return (0x27). -/
def execFrReturn (f : FrFields) (s : State) : Out :=
  forerunnerSlot s fun en => .jump en.s (registerTarget (en.w.getS f.a.toNat))

/-- Block barrier (0x28): an arrival at named barrier 0, and a wait on the phase that it read (R103). -/
def execFrBlockBarrier (_f : FrFields) (s : State) : Out :=
  forerunnerSlot s fun en =>
    let passed := fun (s : State) => s.modWarp en.key fun w => { w with frBarrier := none }
    match en.w.frBarrier with
    | some phase => en.waitBarrier en.s 0 phase passed
    | none =>
      let b := en.block.bar 0
      match b.trapOf with
      | some e => en.failIn en.s e
      | none =>
        let s := (en.arrive 0).modWarp en.key fun w => { w with frBarrier := some b.phase }
        if ((s.block en.bk).bar 0).stopped then .wait s (.barrier 0 b.phase) else en.waitBarrier s 0 b.phase passed

/-- Exit of the active lanes (0x29). -/
def execFrExit (f : FrFields) (s : State) : Out := forerunner f s fun en => en.exitLanes
/-- Trap (0x2A). -/
def execFrTrap (f : FrFields) (s : State) : Out :=
  forerunner f s fun en =>
    .trap en.s { cause := 0x8000#16 ||| (f.imm.extractLsb' 0 15).zeroExtend 16, lanes := en.e, completes := true }

end Sys2Proof.Machine
end

