-- ==== Sys2Proof/Machine/GridControl.lean ====
section
/-! DEFINITION. The grid control group, major 0x3D (R238, R239, R242, R248, R249): GWAIT, GPAT, GCRD, TTFIRE and
TTWAIT. -/
namespace Sys2Proof.Machine

/-- GWAIT (R242). -/
def execGwait (f : Fields) (s : State) : Out :=
  native f s fun en =>
    let h := en.w.getH f.a.toNat
    let put := fun (n : Nat) => en.done (en.w.setS f.d.toNat (BitVec.ofNat 64 n))
    if h.value = 0 then put 0
    else if fld h.value 36 4 ≠ 4 then en.fail 0x22
    else
      match mapFind en.s.ops h.uid with
      | none => put 0
      | some x =>
        if x.open then .wait en.s (.handle h.uid false)
        else if x.state = 5 then en.fail 0x38 h.value
        else put x.progress

/-- A pattern with one axis replaced (R239). -/
def patSetAxis (n : BitVec 128) (a mode lo hi : Nat) : BitVec 128 :=
  (n &&& ~~~(BitVec.ofNat 128 ((2 ^ 24 - 1) * 2 ^ (24 * a)))) |||
    BitVec.ofNat 128 ((lo + 2 ^ 11 * hi + 2 ^ 22 * mode) * 2 ^ (24 * a))

/-- GPAT.ax (R239). -/
def execGpatAx (f : Fields) (s : State) : Out :=
  native f s fun en =>
    en.done (en.w.setN f.d.toNat
      (patSetAxis (en.w.getN f.a.toNat) (fld f.w2 0 3) (fld f.w2 4 2) (fld (en.sB f) 0 11) (fld (en.sC f) 0 11)))

/-- GPAT.l0 (R239). -/
def execGpatL0 (f : Fields) (s : State) : Out :=
  native f s fun en => en.done (en.w.setN f.d.toNat ((en.w.getN f.a.toNat).extractLsb' 64 64 ++ f.lit))

/-- GPAT.l1 (R239). -/
def execGpatL1 (f : Fields) (s : State) : Out :=
  native f s fun en => en.done (en.w.setN f.d.toNat (f.lit ++ (en.w.getN f.a.toNat).extractLsb' 0 64))

/-- GCRD.ax (R239). -/
def execGcrdAx (f : Fields) (s : State) : Out :=
  native f s fun en => en.done (en.w.setS f.d.toNat (BitVec.ofNat 64 (en.job.coord.getD (fld f.w2 0 3) 0)))

/-- GCRD.cnt (R239). -/
def execGcrdCnt (f : Fields) (s : State) : Out :=
  native f s fun en =>
    let n := en.w.getN f.a.toNat
    en.done (en.w.setS f.d.toNat (BitVec.ofNat 64 (if patValid n then patCount en.job n else 0)))

/-- GCRD.idx (R239). -/
def execGcrdIdx (f : Fields) (s : State) : Out :=
  native f s fun en =>
    let n := en.w.getN f.a.toNat
    let v := match if patValid n then patIndex en.job n else none with
      | some i => BitVec.ofNat 64 i
      | none => BitVec.allOnes 64
    en.done (en.w.setS f.d.toNat v)

/-! ### Tile tables -/

/-- The table c[B], its arm slot and entry s[A] (R248): unarmed, beyond its end, unreadable, untagged and unused entries
fault, in this order (log 16). -/
def Env.withTile (en : Env) (f : Fields) (go : State → Nat → Nat → Cap → TileView → Res) : Res :=
  let t := en.w.getC f.b.toNat
  let i := (en.sA f).toNat
  match en.block.armSlot t with
  | none => en.fail 0x39
  | some slot =>
    if !(tileFits t i) then en.fail 0x39
    else
      match en.s.capCheck en.ctx t (permR ||| permW ||| permLC ||| permEN) 0 (64 + 64 * (i + 1)) 0 with
      | some c => en.fail c t.base
      | none =>
        let s := en.s.flushFor en.key [(t.base.toNat, 64, false), ((tileEntry t i).toNat, 64, false)]
        match s.tileView en.block.core en.ctx t i with
        | (.error e, s) => en.failIn s (e.cause, e.va)
        | (.ok x, s) =>
          if !x.src.tag || !x.rem.tag || decide (x.fld 4 63 1 = 0) then .trap s { cause := 0x39, lanes := en.e }
          else go s slot i t x

/-- TTFIRE (R248). An entry in flight is not fired again, and the handle is then complete with count 0 (log 16). -/
def execTtfire (f : Fields) (s : State) : Out :=
  native f s fun en =>
    en.withTile f fun s slot i t x =>
      let (k, s) := (s.release en.key).newHandle en.key f.d.toNat 4 3 none
      if x.fld 6 0 32 = 2 then .next (s.modStat k fun y => { y with state := 2 })
      else
        match s.engineWrite en.block.core en.ctx (tileEntry t i + 48) (leBytes 4 1) with
        | (.error e, s) => en.failIn (s.putWarp en.key en.w) (e.cause, e.va)
        | (.ok _, s) =>
          .next ((s.modStat k fun y => { y with state := 1 }).fireTile k en.key (mapGet {} s.ops k).value false (slot, i, t))

/-- TTFIRE.arm (R248). -/
def execTtfireArm (f : Fields) (s : State) : Out :=
  native f s fun en =>
    .next (en.s.modBlock en.bk fun b => { b with arm := mapPut b.arm (fld f.w2 0 2) (en.w.getC f.b.toNat) })

/-- TTWAIT (R249): an acquire at domain scope once the arrivals suffice. -/
def execTtwait (f : Fields) (s : State) : Out :=
  native f s fun en =>
    en.withTile f fun s _ i t x =>
      let have_ := x.fld 6 32 32
      let want := x.fld 7 0 32
      if have_ < want then .wait s (.tile t i)
      else
        match s.engineWrite en.block.core en.ctx (tileEntry t i + 52) (leBytes 4 (have_ - want)) with
        | (.error e, s) => en.failIn s (e.cause, e.va)
        | (.ok _, s) =>
          .next ((s.acquire en.key 6).putWarp en.key (en.w.setS f.d.toNat (BitVec.ofNat 64 have_)))

end Sys2Proof.Machine
end

