-- ==== Sys2Proof/Machine/Handles.lean ====
section
/-! DEFINITION. The handle and pod group (R201, R213 to R215). -/
namespace Sys2Proof.Machine

/-- MFENCE (R214). -/
def execMfence (f : Fields) (s : State) : Out :=
  native f s fun en =>
    let n := en.w.batch + 1
    en.done ({ en.w with batch := n }.setS f.d.toNat n)

/-- The status that a handle register follows; none where it names no operation. -/
def Env.statOf (en : Env) (h : Handle) : Option OpStat := if h.value = 0 then none else mapFind en.s.ops h.uid

/-- MWAIT hA (R214). -/
def execMwait (f : Fields) (s : State) : Out :=
  native f s fun en =>
    let h := en.w.getH f.a.toNat
    match en.statOf h with
    | none => .next en.s
    | some x =>
      if x.open then .wait en.s (.handle h.uid true)
      else if x.state = 5 then en.fail 0x26 h.value
      else .next en.s

/-- The least handle value of some failures. -/
def leastValue (l : List (Word × Word)) : Word := l.foldl (fun a x => if x.1 < a then x.1 else a) (BitVec.allOnes 64)

/-- What MWAIT.b reports once the batches up to b are complete (R214): the value in trap.addr if a failure is to be
reported, and the warp after the report. -/
def Warp.report (w : Warp) (b : Word) : Option Word × Warp :=
  match w.failures.filter fun x => decide (x.2 ≤ b) with
  | x :: r => (some (leastValue (x :: r)), { w with failures := w.failures.filter fun x => !(decide (x.2 ≤ b)) })
  | [] =>
    if w.ovlo ≠ 0 ∧ w.ovlo ≤ b then
      (some (BitVec.allOnes 64), if w.ovhi ≤ b then { w with ovlo := 0, ovhi := 0 } else { w with ovlo := b + 1 })
    else (none, w)

/-- MWAIT.b (R214). The report is the one effect of a faulting MWAIT.b. -/
def execMwaitB (f : Fields) (s : State) : Out :=
  native f s fun en =>
    let b := if en.sA f < en.w.batch then en.sA f else en.w.batch
    if en.s.batchOpen en.key b then .wait en.s (.batch b)
    else
      let (bad, w) := en.w.report b
      match bad with
      | some v => .trap (en.put w) { cause := 0x26, addr := v, lanes := en.e }
      | none => .next en.s

/-- The status word of Table 6.12. -/
def OpStat.word (x : OpStat) : Nat := x.state + 2 ^ 8 * x.cause + 2 ^ 16 * b2n x.overflow + 2 ^ 32 * (x.progress % 2 ^ 32)

/-- HTEST (R215). -/
def execHtest (f : Fields) (s : State) : Out :=
  native f s fun en =>
    let v := match en.statOf (en.w.getH f.a.toNat) with
      | some x => x.word
      | none => 15
    en.done (en.w.setS f.d.toNat (BitVec.ofNat 64 v))

/-- An operation can be cancelled: it has not started, and it is no MMAP that has paired (R215). -/
def EngineOp.cancellable (o : EngineOp) : Bool :=
  !o.running && !o.begun && decide (o.progress = 0) &&
  (match o.kind with
   | .mmap _ _ paired => !paired
   | _ => true)

/-- HCANCEL (R215). -/
def execHcancel (f : Fields) (s : State) : Out :=
  native f s fun en =>
    let h := en.w.getH f.a.toNat
    let core := en.block.core
    match (en.s.core core).ops.find? fun o => decide (h.value ≠ 0 ∧ o.uid = h.uid) && o.cancellable with
    | some o => .next ((en.s.opEnd core o 4 0).modWarp en.key fun w => w.setS f.d.toNat 0)
    | none => en.done (en.w.setS f.d.toNat 1)

/-- HMOV (R215). -/
def execHmov (f : Fields) (s : State) : Out :=
  native f s fun en => en.done (en.w.setH f.d.toNat (en.w.getH f.a.toNat))

/-! ### Pods (R201) -/

/-- A POD at which a slot waits: partner, role, instruction and mask. -/
def Slot.waitingPod (x : Slot) : Option (Nat × Bool × Issue × Word) :=
  match x.wait with
  | some (.pod p u is m) => some (p, u, is, m)
  | _ => none

/-- The POD at which a warp waits. -/
def Warp.waitingPod (w : Warp) : Option (Nat × Bool × Issue × Word) :=
  match w.s0.waitingPod with
  | some x => some x
  | none => w.s1.waitingPod

/-- Two warps of a block have formed a pod: the PODs at which other warps wait for either of them take the pod-state
fault (R201). -/
def State.podTaken (s : State) (bk a b : Nat) : State :=
  s.warps.foldl
    (fun s e =>
      match e.2.waitingPod with
      | some (q, _, is, m) =>
        if warpBlock e.1 = bk ∧ (q = a ∨ q = b) then s.takeTrap e.1 is.slot is.pc { cause := 0x23, lanes := m } false false
        else s
      | none => s)
    s

/-- POD.c and POD.u: the issuer asks for a pod with the warp that s[A] names. -/
def podJoin (uncond : Bool) (f : Fields) (s : State) : Out :=
  native f s fun en =>
    let t := (en.sA f).toNat
    let me := warpId en.key
    let pk := warpKey en.bk t
    if en.block.wpb ≤ t ∨ t = me ∨ en.w.pod.on then en.fail 0x23
    else
      match mapFind en.s.warps pk with
      | none => en.fail 0x23
      | some p =>
        let wait := fun (_ : Unit) =>
          if en.s.kindDiffers en.ctx en.is.fr en.is.pc en.fall then en.fail 0x01
          else Res.wait en.s (.pod t uncond en.is en.e)
        if p.pod.on then en.fail 0x23
        else
          match p.waitingPod with
          | none => wait ()
          | some (q, role, is, m) =>
            if q ≠ me then wait ()
            else if role = uncond then
              en.failIn (en.s.takeTrap pk is.slot is.pc { cause := 0x23, lanes := m } false false) (0x23, 0)
            else
              let s := en.s.modWarp en.key fun w => { w with pod := { on := true, uncond, partner := BitVec.ofNat 6 t } }
              let s := s.modWarp pk fun w => { w with pod := { on := true, uncond := role, partner := BitVec.ofNat 6 me } }
              .next ((s.finishWait is).podTaken en.bk me t)

/-- POD.c. -/
def execPodC (f : Fields) (s : State) : Out := podJoin false f s

/-- POD.u. -/
def execPodU (f : Fields) (s : State) : Out := podJoin true f s

/-- POD.off. -/
def execPodOff (f : Fields) (s : State) : Out :=
  native f s fun en => if en.w.pod.on then .next (en.s.dissolve en.key) else en.fail 0x23

end Sys2Proof.Machine
end

