-- ==== Sys2Proof/Machine/Links.lean ====
section
/-! DEFINITION. Links (R385 to R387): integrity failures, link-level resends, and ports leaving and returning to
service. -/
namespace Sys2Proof.Machine

/-- LINK_DOWN (R387). -/
def execLinkDown (port : BitVec 4) (cause : Nat) (s : State) : Host.Outcome State Fault Refusal :=
  .next (if s.health.tripped then s else s.takeDown port.toNat cause)

/-- LINK_UP (R386, R387): both ends number link frames from 0 again (log 46), and a re-key (cause 1) starts the packet
number from 1 again. -/
def execLinkUp (port : BitVec 4) (cause : Nat) (s : State) : Host.Outcome State Fault Refusal :=
  .next (
    if s.health.tripped ∨ s.arn.bstate ≠ 1 ∨ s.portUp port.toNat then s
    else
      let back := fun (x : Port) =>
        let x := { x with up := true, rekey := false, lseq := 0, rxSeq := 0, replay := [] }
        if cause = 1 then { x with authFails := 0, pn := 1, rxPn := 0 } else x
      (s.modPort port.toNat back).errorRecord 0x08 0x02 0xFFF none (BitVec.ofNat 64 port.toNat) (BitVec.ofNat 64 cause))

/-- INTEGRITY_FAILURE (R386): the link has accepted a frame that fails its integrity check; it is dropped and counted,
and the second under one key takes the link down. -/
def execIntegrityFailure (port : BitVec 4) (s : State) : Host.Outcome State Fault Refusal :=
  .next (
    let p := port.toNat
    if s.health.tripped ∨ !(s.portUp p) then s
    else (s.modPort p fun x => { x with rxSeq := x.rxSeq + 1 }).authFail p)

/-- LLR_RESEND (R385): the oldest frame of the port's replay buffer is sent again. A resend is the identical ciphertext and
takes no packet number; a frame still not accepted after 8 resends takes the link down. -/
def execLlrResend (port : BitVec 4) (s : State) : Host.Outcome State Fault Refusal :=
  .next (
    let p := port.toNat
    if s.health.tripped ∨ !(s.portUp p) then s
    else
      match (mapGet {} s.fab.ports p).replay with
      | [] => s
      | (x, n) :: r =>
        if 8 ≤ n then s.takeDown p 3
        else
          let s := s.modPort p fun q => { q with replay := (x, n + 1) :: r }
          { s with fab := { s.fab with wire := s.fab.wire ++ [x] } })

end Sys2Proof.Machine
end

