-- ==== Sys2Proof/Machine/Predicate.lean ====
section
/-! DEFINITION. Predicate base majors and the predicate group (04 §4.4). -/
namespace Sys2Proof.Machine

/-- Write p[D], whole or on the lanes of the effective mask (R118, R120). -/
def Env.writeP (en : Env) (lane : Bool) (d : Nat) (x : Word) : Res :=
  en.done (if lane then en.w.setPLanes d en.e x else en.w.setP d x)

/-- The second mask of a predicate base major (R118). -/
def Env.maskB (en : Env) (f : Fields) : Word :=
  if baseImm f then baseImmediate f false
  else if bsel f = 1 then en.sB f
  else en.w.getP f.b.toNat

/-- A predicate base major (R118). -/
def predicateBase (g : Word → Word → Word) (f : Fields) (s : State) : Out :=
  native f s fun en => en.writeP (decide (btype f = 1)) f.d.toNat (g (en.w.getP f.a.toNat) (en.maskB f))

/-- PAND (R118). -/
def execPand (f : Fields) (s : State) : Out := predicateBase (fun a b => a &&& b) f s
/-- POR (R118). -/
def execPor (f : Fields) (s : State) : Out := predicateBase (fun a b => a ||| b) f s
/-- PXOR (R118). -/
def execPxor (f : Fields) (s : State) : Out := predicateBase (fun a b => a ^^^ b) f s
/-- PANDN (R118). -/
def execPandn (f : Fields) (s : State) : Out := predicateBase (fun a b => a &&& ~~~b) f s

/-- PNOT (R120). -/
def execPnot (f : Fields) (s : State) : Out :=
  native f s fun en => en.writeP (mb f 0) f.d.toNat (~~~(en.w.getP f.a.toNat))

/-- PMOV (R120). -/
def execPmov (f : Fields) (s : State) : Out :=
  native f s fun en =>
    let x := en.w.getP f.a.toNat
    if mb f 1 then en.done (en.w.setS f.d.toNat x) else en.writeP (mb f 0) f.d.toNat x

/-- PSET (R120). -/
def execPset (f : Fields) (s : State) : Out :=
  native f s fun en => en.writeP (mb f 0) f.d.toNat (if mb f 1 then sx32 f.w2 else en.sA f)

/-- p[A], under .m only on the effective mask (R121). -/
def Env.countMask (en : Env) (f : Fields) : Word :=
  if mb f 0 then en.w.getP f.a.toNat &&& en.e else en.w.getP f.a.toNat

/-- PCNT (R121). -/
def execPcnt (f : Fields) (s : State) : Out :=
  native f s fun en => en.done (en.w.setS f.d.toNat (BitVec.ofNat 64 (popcount 64 (en.countMask f).toNat)))

/-- PFF (R121). -/
def execPff (f : Fields) (s : State) : Out :=
  native f s fun en => en.done (en.w.setS f.d.toNat (BitVec.ofNat 64 (lowestOne 64 (en.countMask f).toNat)))

end Sys2Proof.Machine
end

