-- ==== Sys2Proof/Machine/Save.lean ====
section
/-! DEFINITION. The precise save (R40, R216, R250, R332, R333) and the records of the save area (Tables 14.4 to 14.7,
R335, R336). -/
namespace Sys2Proof.Machine

/-- Zero bytes after a list, up to a length. -/
def padTo (n : Nat) (l : List Byte) : List Byte := l ++ List.replicate (n - l.length) 0

/-- A row of 64 elements as 256 bytes. -/
def rowBytes (l : Lanes) : List Byte := (List.range 64).flatMap fun i => leBytes 4 (laneOf l i).toNat

/-- Numbers as doublewords. -/
def natDw (l : List Nat) : List Byte := l.flatMap (leBytes 8)

/-- An integer in two's complement. -/
def intBytes (n : Nat) (x : Int) : List Byte := leBytes n (wrap (8 * n) x)

/-- The first `n` capabilities of a map, 32 bytes each. -/
def capBytes (n : Nat) (m : Map Cap) : List Byte := (List.range n).flatMap fun i => (mapGet {} m i).bytes

/-- The tags of the first `n` capabilities of a map. -/
def capTags (n : Nat) (m : Map Cap) : Nat := ((List.range n).map fun i => 2 ^ i * b2n (mapGet {} m i).tag).sum

/-! ### Operation records (R336) -/

/-- The first block-relative row of an operation's own rows, and of its partner's. -/
def EngineKind.rowWord : EngineKind → Nat
  | .wld _ _ _ _ _ => 0
  | .wscl _ => 0
  | .mma p _ => p.row
  | .mmag p _ => p.row
  | .mmap p _ _ => p.row
  | .msl row _ _ _ _ _ _ _ _ => row
  | .aepi row _ _ _ _ _ _ _ _ _ => row
  | .agui row prow _ _ _ _ _ => row + 2 ^ 32 * prow
  | .atks row _ _ _ _ _ => row

/-- The words that an operation captured beside its operands: DW27. -/
def EngineOp.captured (o : EngineOp) : Nat :=
  match o.kind with
  | .mma p _ =>
    match p.topk with
    | some (k, first) => k + 2 ^ 16 * (first - 64 * bits (o.sregs.getD 1 0).toNat 48 6)
    | none => 0
  | .atks _ _ _ _ k ib => k + 2 ^ 16 * ib
  | .agui _ _ _ g _ _ _ => 2 ^ 32 * g.toNat
  | _ => 0

/-- The pod state of an MMAP or AGUI: DW28. -/
def EngineOp.podWord (o : EngineOp) : Nat :=
  match o.kind with
  | .mmap _ _ _ =>
    let (m, uncond, partner, seq) := o.podInfo
    m + 4 * b2n uncond + 2 ^ 8 * partner + 2 ^ 32 * seq.toNat
  | .agui _ _ _ _ uncond partner seq => 1 + 4 * b2n uncond + 2 ^ 8 * partner + 2 ^ 32 * seq.toNat
  | _ => 0

/-- The payload of an MSL: exponents, the next pair, and the level accumulators. -/
def EngineOp.payload (o : EngineOp) : List Byte :=
  match o.kind with
  | .msl _ a b _ _ slices full _ st =>
    let exps := (List.range a.count).flatMap fun i => intBytes 2 (st.exps.getD i 0)
    let fxps := (List.range b.count).flatMap fun j => intBytes 2 (st.fxps.getD j 0)
    let n := 2 * (a.count + b.count)
    padTo (8 * ceilDiv n 8) (exps ++ fxps) ++ leBytes 8 st.pair ++
    ((List.range (topLevel slices full - 1)).flatMap fun l =>
      (List.range a.count).flatMap fun i =>
        (List.range b.count).flatMap fun j => intBytes 8 (mapGet 0 st.levels (2048 * (l + 2) + 32 * i + j)))
  | _ => []

/-- The handle value of the WLD that an MMA names: DW26. -/
def State.namedLoad (s : State) (o : EngineOp) : Word :=
  match o.kind with
  | .mma _ wld => (mapGet {} s.ops wld).value
  | _ => 0

/-- An operation record. -/
def State.opRecord (s : State) (o : EngineOp) : List Byte :=
  let closed := match mapFind s.warps o.warp with
    | some w => decide (o.batch ≤ w.batch)
    | none => true
  let word := match mapFind s.ops o.uid with
    | some x => x.word
    | none => 0
  let cap := fun (i : Nat) => o.caps.getD i {}
  let body := o.payload
  padTo 256
    (natDw ([o.value.toNat, word, warpId o.warp, body.length, if closed then o.batch.toNat else 0] ++
        ((List.range 3).map fun i => (o.words.getD i 0).toNat) ++ ((List.range 8).map fun i => (o.sregs.getD i 0).toNat)) ++
      (cap 0).bytes ++ (cap 1).bytes ++
      natDw [b2n (cap 0).tag + 2 * b2n (cap 1).tag, o.kind.rowWord, (s.namedLoad o).toNat, o.captured, o.podWord,
        o.flags.toNat]) ++ body

/-! ### Weight images and warp records -/

/-- A weight image. -/
def weightImage (value : Word) (w : Weights) (age : Nat) : List Byte :=
  padTo 64
    (natDw [value.toNat,
      w.fmt + 2 ^ 8 * (w.kdim - 1) + 2 ^ 16 * (w.ndim - 1) + 2 ^ 24 * b2n w.colScale.isNone + 2 ^ 25 * age]) ++
  ((List.range 64).flatMap fun j => (List.range 128).flatMap fun k => leBytes 2 (mapGet 0 w.elems (128 * j + k))) ++
  ((List.range 256).flatMap fun i => leBytes 1 (mapGet 0 w.scales i)) ++
  padTo 704 (rowBytes (w.colScale.getD zeroLanes))

/-- The weights of a block that its core's engine holds, oldest first, with their buffer assignments. What a restored
image has displaced counts while an accepted operation names it (`State.restoreLoad`). -/
def State.blockImages (s : State) (key : Nat) : List (Nat × Load × Weights) :=
  let c := s.core (s.block key).core
  c.loads.filterMap fun l =>
    if l.2.block = key && (!(mapFind c.loads (l.1 + 2)).any (fun x => x.weights.isSome) || c.named l.1) then
      l.2.weights.map fun w => (l.1, l.2, w)
    else none

/-- The sets that a warp is a member of. -/
def Block.setsOf (b : Block) (wid : Nat) : Nat :=
  ((List.range 32).map fun n => if (b.members n).getLsbD wid then 2 ^ n else 0).sum

/-- What h[i] shows: the value and the status word of HTEST. -/
def State.handleWords (s : State) (h : Handle) : List Nat :=
  [h.value.toNat, if h.value = 0 then 15 else match mapFind s.ops h.uid with
    | some x => x.word
    | none => 15]

/-- The weight descriptor of a handle register. -/
def State.handleDesc (s : State) (h : Handle) : Nat :=
  match (if h.value = 0 then none else (mapFind s.ops h.uid).bind fun x => x.desc) with
  | some (fmt, k, n) => fmt + 2 ^ 4 * (k - 1) + 2 ^ 11 * (n - 1) + 2 ^ 17
  | none => 0

/-- A warp record (Table 14.7). `halt` tells that the warp halted at a BKPT. -/
def State.warpRecord (s : State) (b : Block) (wid : Nat) (w : Warp) (halt : Bool) : List Byte :=
  let caps := (List.range 16).map fun i => w.getC i
  (w.s0.trapRec false).bytes ++ (w.s1.trapRec false).bytes ++
  natDw
    [w.dstkSp.toNat, w.trapVec.toNat, w.trapAddr.toNat, w.trapPc.toNat,
     w.trapCause.toNat + 2 ^ 16 * w.flags.toNat + 2 ^ 32 * w.podG.toNat, w.pod.bits.toNat,
     w.accBase.toNat + 2 ^ 16 * w.accLimit.toNat + 2 ^ 32 * b.setsOf wid,
     wid + 2 ^ 8 * w.topk + 2 ^ 16 * w.ib + 2 ^ 32 * capTags 16 w.c + 2 ^ 48 * b2n w.colScale.isNone + 2 ^ 49 * b2n halt,
     w.batch.toNat, w.serial.toNat, w.lanes.toNat,
     match w.frBarrier with
     | some p => 1 + 2 ^ 32 * p.toNat
     | none => 0] ++
  ((List.range 16).flatMap fun i => leBytes 4 (s.handleDesc (w.getH i))) ++
  natDw [w.ovlo.toNat, w.ovhi.toNat, 0, 0] ++
  natDw ((List.range 128).map fun i => (w.getS i).toNat) ++ natDw ((List.range 16).map fun i => (w.getP i).toNat) ++
  natDw ((List.range 16).flatMap fun i => s.handleWords (w.getH i)) ++
  ((List.range 8).flatMap fun i => leBytes 16 (w.getN i).toNat) ++ (caps.flatMap Cap.bytes) ++
  rowBytes (w.colScale.getD zeroLanes) ++ ((List.range 64).flatMap fun i => leBytes 1 (mapGet 0 w.nest i)) ++
  padTo 256 (natDw (w.failures.flatMap fun x => [x.1.toNat, x.2.toNat])) ++
  ((List.range b.vregs).flatMap fun r => rowBytes (mapGet zeroLanes w.v r))

/-! ### Block records and the state -/

/-- The sideband of a row as 64 bytes. -/
def sideBytes (l : List SideEntry) : List Byte := natDw ((List.range 8).map fun i => (l.getD i {}).word)

/-- The resident warps of a block. -/
def State.blockWarps (s : State) (key : Nat) : List (Nat × Warp) :=
  (s.warps.filter fun e => decide (warpBlock e.1 = key)).map fun e => (warpId e.1, e.2)

/-- A block record (Table 14.6). -/
def State.blockRecord (s : State) (key launch : Nat) (halts : List Nat) : List Byte :=
  let b := s.block key
  let warps := s.blockWarps key
  let images := s.blockImages key
  let ops := (s.core b.core).ops.filter fun o => decide (o.block = key)
  let banks := (List.range 64).filter fun k => b.hasBank k
  let sets := (List.range 32).flatMap fun n =>
    let x := mapGet {} b.sets n
    [b2n (decide (b.members n ≠ 0)) + 2 ^ 32 * x.phase.toNat, (b.members n).toNat]
  let body :=
    ((List.range 16).flatMap fun i => (b.bar i).bytes) ++ natDw sets ++ capBytes 8 b.copySlots ++ capBytes 4 b.arm ++
    List.replicate 128 (0 : Byte) ++ b.scratchRead 0 b.scratchSize ++
    (banks.flatMap fun k =>
      ((List.range 64).flatMap fun r => rowBytes (b.accRow (64 * k + r))) ++
      ((List.range 64).flatMap fun r => sideBytes (b.sideRow (64 * k + r)))) ++
    ((List.range images.length).flatMap fun i =>
      match images[i]? with
      | some (_, l, w) => weightImage l.value w i
      | none => []) ++
    (ops.flatMap s.opRecord) ++
    (warps.flatMap fun e => s.warpRecord b e.1 e.2 (halts.contains (warpKey key e.1)))
  let head :=
    [b.idx + 2 ^ 32 * launch + 2 ^ 48 * b.core, b.banks.toNat,
     b.wpb + 2 ^ 8 * b.spu + 2 ^ 16 * b.accb + 2 ^ 32 * capTags 8 b.copySlots + 2 ^ 40 * capTags 4 b.arm,
     (maskOf fun i => warps.any fun e => decide (e.1 = i)).toNat, images.length + 2 ^ 8 * ops.length, 256 + body.length]
  padTo (256 * ceilDiv (256 + body.length) 256) (padTo 256 (natDw head) ++ body)

/-- A launch entry (R335), and the deadline word in it. -/
def Launch.entry (l : Launch) : List Byte :=
  padTo 256
    (dwBytes ((List.range 16).map fun i => l.words.getD i 0) ++
      natDw [l.tags.toNat,
        (match l.deadline with
         | some n => n
         | none => 2 ^ 64 - 1),
        l.doneAddr.toNat, l.dval.toNat])

/-- The deadline word of a launch entry. -/
def Launch.deadlineWord (l : Launch) : Word :=
  match l.deadline with
  | some n => BitVec.ofNat 64 n
  | none => BitVec.allOnes 64

/-- The record of a saved block that no core has taken since, under its launch's present index. -/
def State.unplacedRecord (s : State) (ctx : Nat) (c : Context) (u : Unplaced) : List Byte :=
  let n := (s.readDw (c.save + u.off + 40)).toNat
  let l := s.mem.read (c.save + u.off) (256 * ceilDiv n 256)
  l.take 4 ++ leBytes 2 (s.launchIndex ctx u.launch) ++ l.drop 6

/-- The block records of a context in increasing launch index and then block.id (R332). -/
def State.blockRecords (s : State) (ctx : Nat) (c : Context) (halts : List Nat) : List (List Byte) :=
  let here := (s.ctxBlocks ctx).map fun e => (e.2.launch, e.2.idx, s.blockRecord e.1 (s.launchIndex ctx e.2.launch) halts)
  let there := c.unplaced.map fun u => (u.launch, u.idx, s.unplacedRecord ctx c u)
  ((here ++ there).mergeSort fun x y =>
    decide (x.1 < y.1) || (decide (x.1 = y.1) && decide (x.2.1 ≤ y.2.1))).map fun x => x.2.2

/-- The state of a context from 0x9000 on (Table 14.4). -/
def State.savedState (s : State) (ctx : Nat) (c : Context) (halts : List Nat) : List Byte :=
  let blocks := s.blockRecords ctx c halts
  let launches := s.ctxLaunches ctx
  padTo 256
    (natDw ([launches.length, blocks.length] ++
      (List.range 8).flatMap fun i =>
        let x := mapGet {} c.sbars i
        [x.gen.toNat, x.expected + 2 ^ 32 * x.arrivals])) ++
  (launches.flatMap fun k =>
    match mapFind s.launches k with
    | some l => l.entry
    | none => []) ++
  blocks.flatten

/-! ### The save -/

/-- What the device keeps of a saved block. -/
def State.keep (s : State) (key : Nat) : Kept :=
  let b := s.block key
  { launch := b.launch, idx := b.idx, ring := b.ring
    bars := mapAll b.bars fun _ x => { x with timer := none }
    syncs := (s.blockWarps key).flatMap fun e => [0, 1].filterMap fun k =>
      match (e.2.slot k).wait with
      | some (.pkg n gen true) => some (e.1, k, (e.2.slot k).pc, n, gen)
      | _ => none
    images := (s.blockImages key).map fun x => (warpId (mapGet {} s.ops x.2.1.op).warp, x.1)
    kinds := ((s.core b.core).ops.filter fun o => decide (o.block = key)).map fun o =>
      (warpId o.warp, o.value, o.kind) }

/-- The context stops at instruction and sector boundaries: instructions whose waits have ended complete, other waits are
withdrawn but for the arrivals at package barriers (R250), windows end, and its dirty sectors are written back (R332
steps 1 to 3). -/
def State.stopContext (s : State) (ctx : Nat) (c : Context) : State :=
  let mine := fun (k : Nat) => decide ((s.block (warpBlock k)).ctx = ctx)
  let keys := (s.warps.map Prod.fst).filter mine
  let s := keys.foldl (fun s k => (s.finishSlot k 0).finishSlot k 1) s
  let s := keys.foldl (fun s k => s.withdraw k false) s
  let s := { s with
    warps := mapAll s.warps fun k w => if mine k then w.endWindows else w
    blocks := mapAll s.blocks fun _ b => if b.ctx = ctx then b.stopCopy else b }
  s.cleanAll fun x => decide (x.asid = c.asid)

/-- The context's blocks leave their cores (R332 step 5); its launches stay. -/
def State.leaveCores (s : State) (ctx : Nat) (c : Context) : State :=
  let blocks := s.ctxBlocks ctx
  let kept := (blocks.map fun e => s.keep e.1) ++
    c.kept.filter fun k => c.unplaced.any fun u => decide (u.launch = k.launch ∧ u.idx = k.idx)
  let savedLaunches := (s.ctxLaunches ctx).filterMap fun k => (mapFind s.launches k).map fun l => (k, l.deadlineWord)
  let s := s.offCores ctx
  let s := blocks.foldl (fun s e => s.leaveCore ctx e.2.launch e.2.core) s
  s.modCtx ctx fun x => { x with saved := true, preempt := none, kept, savedLaunches, unplaced := [], sbars := c.sbars }

/-- PRECISE_SAVE (R332): a context at level 2 whose grid operations have completed is saved, and the header written
last. State that does not fit leads to level 3 with code 0x07, and an uncorrectable error in the area that is written
with code 0x0B (R333, log 43). -/
def execPreciseSave (ctx : Nat) (s : State) : Host.Outcome State Fault Refusal :=
  .next (match mapFind s.ctxs ctx with
    | none => s
    | some c =>
      match c.preempt with
      | none => s
      | some p =>
        if p.level ≠ 2 || s.fab.gridOps.any fun g => decide (g.2.ctx = ctx ∧ g.2.fn ≠ 1) then s
        else
          let s := s.stopContext ctx c
          let c := (mapFind s.ctxs ctx).getD c
          let body := s.savedState ctx c p.halts
          if c.savelen < 0x9000 + body.length then s.forcedReset ctx 0x07 p.packet noBlockD0 false none
          else if s.anyBad c.save 0x1000 || s.anyBad (c.save + 0x9000) body.length then
            s.forcedReset ctx 0x0B p.packet noBlockD0 false none
          else
            let blocks := (s.ctxBlocks ctx).length + c.unplaced.length
            let s := (s.saveWrite c 0x100 (List.replicate 3840 0)).saveWrite c 0x9000 body
            let halt := !p.halts.isEmpty
            let head : SaveHeader :=
              { status := if halt then 2 else 1, slice := c.sliceHeld.isSome, bkpt := halt, ctx, blocks
                slen := body.length }
            let s := s.leaveCores ctx c
            let s := s.saveWrite c 0 (head.bytes s.clk)
            let s := s.modCtx ctx fun x =>
              { x with parked := !p.requeue, resumeBy := if p.requeue then p.packet else none }
            if p.ckpt then { s with ckpt := s.ckpt.map fun k => { k with saved := k.saved ++ [ctx] } } else s)

end Sys2Proof.Machine
end

