-- ==== Sys2Proof/Machine/Resume.lean ====
section
/-! DEFINITION. Resume of a saved context (R337): the checks of its save area, the placement of its blocks, and their
restoration in the order that R337 gives. -/
namespace Sys2Proof.Machine

/-- A reader of a save area: offset and byte count. -/
abbrev Area := Nat → Nat → List Byte

/-- A doubleword of a save area. -/
def Area.dw (a : Area) (o : Nat) : Nat := leNat (a o 8)

/-- Bytes that are all zero. -/
def Area.zero (a : Area) (o n : Nat) : Bool := (a o n).all fun x => decide (x = 0)

/-- Doublewords of a record at `o`: each listed one has no bit outside its mask. -/
def Area.within (a : Area) (o : Nat) (l : List (Nat × Nat)) : Bool :=
  l.all fun x => decide (a.dw (o + 8 * x.1) &&& x.2 = a.dw (o + 8 * x.1))

/-- A mask of bits [lo + n - 1 : lo]. -/
def ones (lo n : Nat) : Nat := (2 ^ n - 1) * 2 ^ lo

/-! ### Checks of the header and of the launches -/

/-- The header: magic, version, a status of saved or halted, and reserved bits (Table 14.5). -/
def Area.headerOk (a : Area) : Bool :=
  decide (a.dw 0 = 1 + 2 ^ 32 * 0x57205341) && decide (bits (a.dw 8) 0 4 = 1 ∨ bits (a.dw 8) 0 4 = 2) &&
  a.within 8 [(0, ones 0 4 + ones 8 11), (1, ones 0 12 + ones 32 32), (5, ones 0 56)] && a.zero 56 200 &&
  a.zero 0x100 3840

/-- The state header and the launch entries (Tables 1.4 and 14.4, R335). -/
def Area.launchesOk (a : Area) (n : Nat) : Bool :=
  decide (a.dw 0x9000 = n) && a.within 0x9000 ((List.range 8).map fun i => (3 + 2 * i, ones 0 16 + ones 32 16)) &&
  a.zero 0x9090 112 &&
  (List.range n).all fun i =>
    a.within (0x9100 + 256 * i) [(12, ones 0 48), (13, ones 0 48), (14, ones 0 22 + ones 24 16), (16, ones 0 3)] &&
    a.zero (0x9100 + 256 * i + 160) 96

/-! ### Block records -/

/-- Where the parts of a block record stand (Table 14.6). -/
structure SavedBlock where
  off : Nat
  idx : Nat
  launch : Nat
  banks : Nat
  wpb : Nat
  spu : Nat
  accb : Nat
  vregs : Nat
  mask : Nat
  images : List Nat
  ops : List Nat
  /-- warp.id and offset of each warp record. -/
  warps : List (Nat × Nat)
  last : Nat
deriving DecidableEq, Repr

/-- Offsets of `n` operation records, and the offset after them. -/
def Area.opOffsets (a : Area) : Nat → Nat → List Nat × Nat
  | 0, o => ([], o)
  | n + 1, o =>
    let (l, e) := a.opOffsets n (o + 256 + 8 * ceilDiv (a.dw (o + 24)) 8)
    (o :: l, e)

/-- Banks that a bitmap names. -/
def bankList (m : Nat) : List Nat := (List.range 64).filter fun k => bit m k

/-- Read the frame of a block record; `vregs` gives the vector registers of a launch index. -/
def Area.block (a : Area) (o : Nat) (vregs : Nat → Nat) : SavedBlock :=
  let launch := bits (a.dw o) 32 16
  let banks := a.dw (o + 8)
  let spu := bits (a.dw (o + 16)) 8 8
  let mask := a.dw (o + 24)
  let ni := bits (a.dw (o + 32)) 0 8
  let imgs := o + 0x600 + 4096 * spu + 20480 * (bankList banks).length
  let (ops, wo) := a.opOffsets (bits (a.dw (o + 32)) 8 16) (imgs + 17408 * ni)
  let ids := (List.range 64).filter fun w => bit mask w
  let size := 2880 + 256 * vregs launch
  { off := o, idx := bits (a.dw o) 0 32, launch, banks, wpb := bits (a.dw (o + 16)) 0 7, spu
    accb := bits (a.dw (o + 16)) 16 7, vregs := vregs launch, mask
    images := (List.range ni).map fun i => imgs + 17408 * i, ops
    warps := (List.range ids.length).map fun i => (ids.getD i 0, wo + size * i), last := wo + size * ids.length }

/-- Read `n` block records from an offset on; `limit` bounds the area. -/
def Area.blocks (a : Area) (vregs : Nat → Nat) (limit : Nat) : Nat → Nat → Option (List SavedBlock)
  | 0, _ => some []
  | n + 1, o =>
    let b := a.block o vregs
    if limit < b.last ∨ a.dw (o + 40) ≠ b.last - o then none
    else
      match a.blocks vregs limit n (o + 256 * ceilDiv (b.last - o) 256) with
      | some r => some (b :: r)
      | none => none

/-- The instruction of an operation record (R336). -/
def Area.opInstr (a : Area) (o : Nat) : Option Instr :=
  match decode false ((List.range 3).flatMap fun i => a (o + 40 + 8 * i) 4) with
  | .instr i _ => some i
  | .reserved => none
  | .illegal => none

/-- An instruction that an operation record may hold. -/
def engineInstr (i : Instr) : Bool :=
  match i with
  | .wld _ | .wscl _ | .wsclNone _ | .mma _ | .mmag _ | .mmap _ | .msl _ | .aepi _ | .agui _ | .atksRd _ | .atksWr _ => true
  | _ => false

/-- The bits of a status word of a matrix handle that are not reserved (Table 6.12). -/
def statusBits : Nat := ones 0 4 + ones 8 8 + ones 32 32

/-- An operation record. -/
def Area.opOk (a : Area) (o : Nat) : Bool :=
  (a.opInstr o).any engineInstr &&
  a.within o
    [(0, ones 0 40), (1, statusBits), (2, ones 0 6), (5, ones 0 32), (6, ones 0 32), (7, ones 0 32), (24, 3),
     (25, ones 0 13 + ones 32 13), (26, ones 0 40), (27, ones 0 4 + ones 16 12 + ones 32 32), (28, 7 + ones 8 6 + ones 32 32), (29, 15),
     (30, 0), (31, 0)]

/-- A record of a slot (Table 14.7). -/
def Area.rec (a : Area) (o : Nat) : Rec := recOf (BitVec.ofNat 256 (leNat (a o 32)))

/-- The rules of saved slots (R9, R337). -/
def slotsOk (x y : Rec) (lanes : Word) : Bool :=
  let ok := fun (r : Rec) =>
    decide (r.kind = 1 ∧ r.rsvd = 0 ∧ r.auxLo = 0 ∧ r.auxHi = 0) &&
    (!r.flagL || decide (r.mask ≠ 0 ∧ r.mask &&& ~~~lanes = 0))
  ok x && ok y && !(x.flagL && y.flagL && decide (x.mask &&& y.mask ≠ 0))

/-- A handle register of a warp record: its value (Table 6.1) and its status word, in which a grid handle has bit [16]
too (Table 6.12, R245). -/
def Area.handleOk (a : Area) (o : Nat) : Bool :=
  a.within o [(0, ones 0 40), (1, statusBits + if bits (a.dw o) 36 4 = 4 then ones 16 1 else 0)]

/-- A warp record. -/
def Area.warpOk (a : Area) (wid o : Nat) : Bool :=
  let win := a.dw (o + 0x70)
  slotsOk (a.rec o) (a.rec (o + 32)) (BitVec.ofNat 64 (a.dw (o + 0x90))) &&
  decide (bits win 0 13 ≤ bits win 16 13 ∧ bits win 16 13 ≤ 4096 ∧ bits (a.dw (o + 0x78)) 0 6 = wid) &&
  a.within o
    ([(12, ones 0 20 + ones 32 32), (13, ones 0 40), (14, ones 0 13 + ones 16 13 + ones 32 32),
      (15, ones 0 6 + ones 8 4 + ones 16 12 + ones 32 18), (17, ones 0 32), (19, 1 + ones 32 32)] ++
     (List.range 8).map fun i => (20 + i, ones 0 18 + ones 32 18)) && a.zero (o + 0xF0) 16 &&
  (List.range 16).all fun i => a.handleOk (o + 0x580 + 16 * i)

/-- A block record; `n` launches, and `vregs` as above. -/
def Area.blockOk (a : Area) (n : Nat) (b : SavedBlock) : Bool :=
  decide (b.launch < n ∧ (bankList b.banks).length ≤ b.accb ∧ 1 ≤ b.wpb ∧ b.wpb ≤ 64 ∧ b.mask < 2 ^ b.wpb) &&
  a.within b.off
    ([(0, ones 0 58), (2, ones 0 7 + ones 8 15 + ones 32 12), (4, ones 0 24)] ++
     (List.range 16).map fun i => (32 + 2 * i, ones 0 48)) &&
  a.within (b.off + 0x200) ((List.range 32).map fun i => (2 * i, 1 + ones 32 32)) && a.zero (b.off + 48) 208 &&
  a.zero (b.off + 0x580) 128 &&
  (b.images.all fun o =>
    a.within o [(1, ones 0 4 + ones 8 7 + ones 16 6 + ones 24 4)] && a.zero (o + 16) 48 && a.zero (o + 16960) 448) &&
  (b.ops.all a.opOk) && (b.warps.all fun w => a.warpOk w.1 w.2)

/-! ### Restoration -/

/-- The state of a resume: handle values of warps and the operations that they name, restored loads, and the new buffer
assignments of those that operations and images had at the save. -/
structure Restore where
  s : State
  links : List (Nat × Word × Nat) := []
  loads : List (Nat × Nat × Word) := []
  assigned : Map Nat := []
deriving DecidableEq, Repr

/-- The operation that a handle value of a warp names, made where there is none. -/
def Restore.link (r : Restore) (bk wid : Nat) (v : Word) (word : Nat) (desc : Option (Nat × Nat × Nat)) : Nat × Restore :=
  match r.links.find? fun x => decide (x.1 = wid ∧ x.2.1 = v) with
  | some x => (x.2.2, r)
  | none =>
    let uid := r.s.nextOp
    let st : OpStat :=
      { state := bits word 0 4, cause := bits word 8 8, overflow := bit word 16, progress := bits word 32 32
        warp := warpKey bk wid, value := v, desc, grp := bits v.toNat 36 4 }
    (uid, { r with
      s := { r.s with nextOp := uid + 1, ops := mapPut r.s.ops uid st }
      links := (wid, v, uid) :: r.links })

/-- A number of 4 bytes each, from an offset on. -/
def Area.words (a : Area) (o n : Nat) : List (BitVec 32) := (chunks 4 n (a o (4 * n))).map fun c => BitVec.ofNat 32 (leNat c)

/-- A weight descriptor word (Table 14.7). -/
def descOf (x : Nat) : Option (Nat × Nat × Nat) :=
  if bit x 17 then some (bits x 0 4, bits x 4 7 + 1, bits x 11 6 + 1) else none

/-- The handles of a warp: each register's value is linked to one operation. -/
def Restore.handles (r : Restore) (a : Area) (bk wid o : Nat) : Restore :=
  (List.range 16).foldl
    (fun r i =>
      let v := BitVec.ofNat 64 (a.dw (o + 0x580 + 16 * i))
      if v = 0 then r
      else (r.link bk wid v (a.dw (o + 0x588 + 16 * i)) (descOf (leNat (a (o + 0xA0 + 4 * i) 4)))).2)
    r

/-- The weights of an image. -/
def Area.weights (a : Area) (o : Nat) : Weights :=
  let d := a.dw (o + 8)
  let cs := a.words (o + 16704) 64
  { fmt := bits d 0 4, kdim := bits d 8 7 + 1, ndim := bits d 16 6 + 1
    elems := nonzero (((chunks 2 8192 (a (o + 64) 16384)).zip (List.range 8192)).map fun x => (x.2, leNat x.1))
    scales := nonzero (((a (o + 16448) 256).zip (List.range 256)).map fun x => (x.2, x.1.toNat))
    colScale := if bit d 24 then none else some cs }

/-- Assign a buffer to a restored load; what the buffer held is displaced (R337), but operations that the engine has
accepted still find it there: a load waits for those (R197), and the restored image with it (log 23). -/
def State.restoreLoad (s : State) (core : Nat) (l : Load) : Nat × State :=
  let (n, s) := s.newLoad core l
  let c := s.core core
  (n, if l.weights.isSome ∧ 2 ≤ n ∧ c.named (n - 2) = false then
      s.putCore core { c with
        loads := mapModify c.loads (n - 2) fun x => { x with weights := none }, torn := mapErase c.torn (n % 2) }
    else s)

/-- A weight image, loaded for a warp; `old` is its buffer assignment at the save. -/
def Restore.image (r : Restore) (a : Area) (ctx bk core wid old o : Nat) : Restore :=
  let w := a.weights o
  let v := BitVec.ofNat 64 (a.dw o)
  let (uid, r) := r.link bk wid v 2 (some (w.fmt, w.kdim, w.ndim))
  let (n, s) := r.s.restoreLoad core { op := uid, ctx, block := bk, buf := 0, value := v, weights := some w }
  { r with s, loads := r.loads ++ [(n, wid, v)], assigned := mapPut r.assigned old n }

/-- The buffer assignment of a restored operation that had the assignment `old` at the save: that of its saved weight
image, or of the other member of its pair, or a new one. -/
def Restore.load (r : Restore) (ctx bk core uid wid : Nat) (v : Word) (old : Option Nat) : Nat × Restore :=
  match old.bind fun n => mapFind r.assigned n with
  | some n => (n, r)
  | none =>
    let (n, s) := r.s.restoreLoad core { op := uid, ctx, block := bk, buf := 0, value := v }
    (n, { r with
      s, loads := r.loads ++ [(n, wid, v)]
      assigned := match old with
        | some m => mapPut r.assigned m n
        | none => r.assigned })

/-- An operand pair from its two words. -/
def pairOf (off x : Word) : Pair :=
  let y := x.toNat
  { off, stride := bits y 0 32, count := bits y 32 16, tcol := bits y 48 6, rsvd := bits y 54 10 }

/-- The loads of the groups of an MMAG of which `done` rows had been done: a group that was done needs none. -/
def Restore.groups (r : Restore) (ctx bk core uid wid : Nat) (v : Word) :
    Nat → List (MatRef × Nat × List Nat) → List (MatRef × Nat × List Nat) × Restore
  | _, [] => ([], r)
  | done, (m, old, rows) :: l =>
    let (n, r) := if rows.length ≤ done then (0, r) else r.load ctx bk core uid wid v (some old)
    let (l, r) := r.groups ctx bk core uid wid v (done - rows.length) l
    ((m, n, rows) :: l, r)

/-- The kind of a saved operation as the device has kept it (log 23). -/
def Kept.kindOf (k : Kept) (wid : Nat) (v : Word) : Option EngineKind :=
  (k.kinds.find? fun y => decide (y.1 = wid ∧ y.2.1 = v)).map fun y => y.2.2

/-- The hidden state of an MSL from its payload (R336). -/
def Area.msl (a : Area) (o m n top : Nat) : MslState :=
  let exps := (chunks 2 (m + n) (a o (2 * (m + n)))).map fun c => signed 16 (leNat c)
  let base := o + 8 * ceilDiv (2 * (m + n)) 8
  let pair := a.dw base
  let cells := (List.range (top - 1)).flatMap fun l =>
    (List.range m).flatMap fun i => (List.range n).map fun j => (l, i, j)
  { scaled := decide (pair ≠ 0), exps := exps.take m, fxps := exps.drop m, pair
    levels := cells.foldl
      (fun t x =>
        let (l, i, j) := x
        mapSet 0 t (2048 * (l + 2) + 32 * i + j) (signed 64 (a.dw (base + 8 + 8 * ((l * m + i) * n + j)))))
      [] }

/-- What an operation record says (R336). -/
structure SavedOp where
  wid : Nat
  value : Word
  sv : Nat → Word
  cap : Nat → Cap
  row : Nat
  prow : Nat
  named : Word
  captured : Nat
  pod : Nat
  payload : Nat

/-- Read an operation record. -/
def Area.op (a : Area) (o : Nat) : SavedOp :=
  let d := fun (i : Nat) => a.dw (o + 8 * i)
  { wid := bits (d 2) 0 6, value := BitVec.ofNat 64 (d 0), sv := fun i => BitVec.ofNat 64 (d (8 + i))
    cap := fun i => capOf (a (o + 128 + 32 * i) 32) (bit (d 24) i)
    row := bits (d 25) 0 13, prow := bits (d 25) 32 13, named := BitVec.ofNat 64 (d 26), captured := d 27, pod := d 28
    payload := o + 256 }

/-- The kind of a restored operation with key `uid`. -/
def Restore.kind (r : Restore) (a : Area) (ctx bk core uid done : Nat) (k : Kept) (x : SavedOp) (i : Instr) :
    Option EngineKind × Restore :=
  let p := pairOf (x.sv 0) (x.sv 1)
  let q := pairOf (x.sv 2) (x.sv 3)
  let old := k.kindOf x.wid x.value
  let load := fun (_ : Unit) => r.load ctx bk core uid x.wid x.value (old.bind fun y => y.ownLoads.head?)
  match i with
  | .wld f =>
    let (fmt, kd, n) := wldShape f
    let (load, r) := load ()
    let r := { r with s := r.s.modStat uid fun y => { y with desc := some (fmt, kd, n) } }
    (some (.wld { cap := x.cap 0, off := x.sv 0, stride := (x.sv 1).toNat, count := n } fmt kd n load), r)
  | .wscl _ => (some (.wscl (some { cap := x.cap 0, off := x.sv 0, stride := 256, count := 1 })), r)
  | .wsclNone _ => (some (.wscl none), r)
  | .mma f =>
    let (wld, r) := r.link bk x.wid x.named 2 none
    let (wfmt, kd, n) := ((mapGet {} r.s.ops wld).desc).getD (0, 1, 1)
    let load := ((r.loads.find? fun y => decide (y.2 = (x.wid, x.named))).map Prod.fst).getD 0
    (some (.mma
      { row := x.row, act := p.ref (x.cap 0), afmt := fld f.w2 12 4, wfmt, kdim := kd, ndim := n, acc := mb f 0
        rs := mb f 1, cs := mb f 2
        topk := if mb f 3 then some (bits x.captured 0 4, bits x.captured 16 12 + 64 * p.tcol) else none, load } wld), r)
  | .mmag _ =>
    match old with
    | some (.mmag p gs) =>
      let (gs, r) := r.groups ctx bk core uid x.wid x.value done gs
      (some (.mmag { p with row := x.row } gs), r)
    | _ => (none, r)
  | .mmap f =>
    let paired := decide (bits x.pod 0 2 = 1)
    let (load, r) := load ()
    let w := q.ref (x.cap 1)
    (some (.mmap
      { row := x.row, act := p.ref (x.cap 0), afmt := fld f.w2 16 4, wfmt := fld f.w2 20 4, kdim := fld f.w2 24 7 + 1
        ndim := w.count, acc := mb f 0, rs := mb f 1, cs := mb f 2, load } w paired), r)
  | .msl f =>
    let slices := fld f.w2 20 3 + 1
    let st := a.msl x.payload p.count q.count (topLevel slices (mb f 0))
    let st := match old with
      | some (.msl _ _ _ _ _ _ _ _ old) => { st with rowBad := old.rowBad, colBad := old.colBad }
      | _ => st
    (some (.msl x.row (p.ref (x.cap 0)) (q.ref (x.cap 1)) (fld f.w2 16 4) (x.sv 4).toNat slices (mb f 0) (mb f 1) st), r)
  | .aepi f =>
    (some (.aepi x.row (p.ref (x.cap 0)) (fld f.w2 12 4) (fld f.w2 16 6 + 1) (mb f 0)
      (if mb f 1 then some (x.sv 2).toNat else none) (mb f 2) (mb f 3) (mb f 4) (fld f.mod 5 2)), r)
  | .agui f =>
    (some (.agui x.row x.prow (fld f.w2 12 13) (BitVec.ofNat 32 (bits x.captured 32 32)) (bit x.pod 2) (bits x.pod 8 6)
      (BitVec.ofNat 32 (bits x.pod 32 32))), r)
  | .atksRd f | .atksWr f =>
    let n := fld f.w2 0 13
    (some (.atks x.row n { cap := x.cap 0, off := x.sv 0, stride := 64, count := n } (decide (f.mod.toNat % 2 = 1))
      (bits x.captured 0 4) (bits x.captured 16 12)), r)
  | _ => (none, r)

/-- Restore one operation. -/
def Restore.op (r : Restore) (a : Area) (ctx bk core : Nat) (k : Kept) (batch : Nat → Word) (cols : Nat → Option Lanes)
    (o : Nat) : Restore :=
  let x := a.op o
  let word := a.dw (o + 8)
  let (uid, r) :=
    if x.value = 0 then (r.s.nextOp, { r with s := { r.s with nextOp := r.s.nextOp + 1 } })
    else r.link bk x.wid x.value word none
  match a.opInstr o with
  | none => r
  | some i =>
    match r.kind a ctx bk core uid (bits word 32 32) k x i with
    | (none, r) => r
    | (some kind, r) =>
      let saved := BitVec.ofNat 64 (a.dw (o + 32))
      let b := if saved = 0 then batch x.wid + 1 else saved
      let running := decide (bits word 0 4 = 1) && !(match i with
        | .mma _ => true
        | _ => false) && (kind.epilogue || decide (0 < (r.s.core core).mxRows))
      let e : EngineOp :=
        { uid, warp := warpKey bk x.wid, block := bk, ctx, slot := 0, kind, value := x.value, batch := b, running
          begun := decide (bits word 0 4 = 1)
          progress := bits word 32 32, flags := BitVec.ofNat 4 (a.dw (o + 232))
          colScale := if running then cols x.wid else none
          words := (List.range 3).map fun i => BitVec.ofNat 32 (a.dw (o + 40 + 8 * i))
          sregs := (List.range 8).map x.sv, caps := [x.cap 0, x.cap 1]
          podInfo := (bits x.pod 0 2, bit x.pod 2, bits x.pod 8 6, BitVec.ofNat 32 (bits x.pod 32 32)) }
      let s := r.s.modStat uid fun y => { y with batch := b }
      let c := s.core core
      { r with s := s.putCore core { c with ops := c.ops ++ [e] } }

/-- Restore one warp (Table 14.7). The low bits of dstk.sp and trap.vec read as zero (Table 1.9). -/
def Restore.warp (r : Restore) (a : Area) (bk vregs wid o : Nat) : Restore :=
  let d := fun (x : Nat) => a.dw (o + x)
  let w64 := fun (x : Nat) => BitVec.ofNat 64 (d x)
  let slot := fun (x : Rec) => if x.flagL then x.slot else ({} : Slot)
  let pod := d 0x68
  let w : Warp :=
    { s0 := slot (a.rec o), s1 := slot (a.rec (o + 32)), lanes := w64 0x90
      dstkSp := w64 0x40 &&& ~~~31#64, trapVec := w64 0x48 &&& ~~~3#64
      trapAddr := w64 0x50, trapPc := w64 0x58, trapCause := BitVec.ofNat 16 (d 0x60)
      flags := BitVec.ofNat 4 (bits (d 0x60) 16 4), podG := BitVec.ofNat 32 (bits (d 0x60) 32 32)
      pod := { on := bit pod 0, uncond := bit pod 1, partner := BitVec.ofNat 6 (bits pod 2 6)
               seq := BitVec.ofNat 32 (bits pod 8 32) }
      accBase := BitVec.ofNat 13 (bits (d 0x70) 0 13), accLimit := BitVec.ofNat 13 (bits (d 0x70) 16 13)
      topk := bits (d 0x78) 8 4, ib := bits (d 0x78) 16 12, batch := w64 0x80, serial := BitVec.ofNat 32 (d 0x88)
      colScale := if bit (d 0x78) 48 then none else some (a.words (o + 0x900) 64)
      frBarrier := if bit (d 0x98) 0 then some (BitVec.ofNat 32 (bits (d 0x98) 32 32)) else none
      ovlo := w64 0xE0, ovhi := w64 0xE8
      failures := ((List.range 16).map fun i => (w64 (0xA40 + 16 * i), w64 (0xA48 + 16 * i))).filter fun x => decide (x.1 ≠ 0)
      born := r.s.births, readySince := r.s.clk }
  let w := (List.range 128).foldl (fun w i => w.setS i (w64 (0x100 + 8 * i))) w
  let w := (List.range 16).foldl (fun w i => w.setP i (w64 (0x500 + 8 * i))) w
  let w := (List.range 8).foldl (fun w i => w.setN i (BitVec.ofNat 128 (leNat (a (o + 0x680 + 16 * i) 16)))) w
  let w := (List.range 16).foldl
    (fun w i => w.setC i (capOf (a (o + 0x700 + 32 * i) 32) (bit (d 0x78) (32 + i)))) w
  let w := (List.range 16).foldl
    (fun w i =>
      let v := w64 (0x580 + 16 * i)
      if v = 0 then w
      else w.setH i { value := v, uid := (r.link bk wid v 2 none).1 })
    w
  let w := { w with
    nest := (List.range 64).foldl (fun m i => mapSet 0 m i (leNat (a (o + 0xA00 + i) 1))) []
    v := (List.range vregs).foldl (fun m i => mapSet zeroLanes m i (a.words (o + 0xB40 + 256 * i) 64)) [] }
  { r with s := { r.s with births := r.s.births + 1 }.putWarp (warpKey bk wid) w }

/-- The storage of a block: scratchpad, banks, barriers, sets, slots, arm slots and copy ring. -/
def Area.content (a : Area) (x : SavedBlock) (k : Kept) (b : Block) : Block :=
  let o := x.off
  let tags := a.dw (o + 16)
  let capAt := fun (base t i : Nat) => capOf (a (o + base + 32 * i) 32) (bit tags (t + i))
  let bar := fun (i : Nat) =>
    let d := a.dw (o + 0x100 + 16 * i)
    let e := a.dw (o + 0x108 + 16 * i)
    let old := mapGet {} k.bars i
    { old with
      phase := BitVec.ofNat 32 d, arrivals := bits d 32 7, failed := bit d 39, overflow := bit d 40
      expWarps := bits d 41 7, sectors := bits e 0 32, expSectors := bits e 32 32 : Barrier }
  let banks := bankList x.banks
  let rows := (List.range banks.length).flatMap fun i => (List.range 64).map fun r => (i, 64 * banks.getD i 0 + r, r)
  let base := o + 0x600 + 4096 * x.spu
  let b := { b with
    banks := BitVec.ofNat 64 x.banks
    scratch := (List.range (4096 * x.spu)).map fun i => (i, BitVec.ofNat 8 (leNat (a (o + 0x600 + i) 1)))
    acc := rows.foldl (fun m y => mapSet zeroLanes m y.2.1 (a.words (base + 20480 * y.1 + 256 * y.2.2) 64)) []
    side := rows.foldl
      (fun m y =>
        mapSet noSide m y.2.1
          ((List.range 8).map fun j => sideOf (a.dw (base + 20480 * y.1 + 16384 + 64 * y.2.2 + 8 * j))))
      []
    copySlots := (List.range 8).foldl (fun m i => mapSet {} m i (capAt 0x400 32 i)) []
    arm := (List.range 4).foldl (fun m i => mapSet {} m i (capAt 0x500 40 i)) [] }
  let b := (List.range 16).foldl (fun b i => b.setBar i (bar i)) b
  let b := (List.range 32).foldl
    (fun b n =>
      let d := a.dw (o + 0x200 + 16 * n)
      let m := BitVec.ofNat 64 (a.dw (o + 0x208 + 16 * n))
      if n ≠ 0 ∧ !(bit d 0) then b
      else b.putSet n
        { members := if n = 0 then 0 else m, phase := BitVec.ofNat 32 (bits d 32 32) })
    b
  match k.ring with
  | none => b
  | some r =>
    let h := bytesDw 4 (b.scratchRead r.off 32)
    let f := fun (i lo n : Nat) => bits (h.getD i 0).toNat lo n
    let r := { r with
      head := BitVec.ofNat 32 (f 1 0 32), finished := BitVec.ofNat 32 (f 1 32 32), halted := decide (f 0 32 1 = 1)
      cause := f 2 24 8, progress := f 2 32 32 }
    { b with ring := some r }

/-- Restore a block that has its core. -/
def State.restoreBlock (s : State) (a : Area) (ctx : Nat) (kept : List Kept) (key : Nat) (x : SavedBlock) : State :=
  let b := s.block key
  let k := (kept.find? fun k => decide (k.launch = b.launch ∧ k.idx = b.idx)).getD { launch := b.launch, idx := b.idx }
  let s := s.modBlock key fun b => a.content x k b
  let at_ := fun (wid : Nat) => ((x.warps.find? fun w => decide (w.1 = wid)).map Prod.snd).getD 0
  let batch := fun (wid : Nat) => BitVec.ofNat 64 (a.dw (at_ wid + 0x80))
  let cols := fun (wid : Nat) =>
    if bit (a.dw (at_ wid + 0x78)) 48 then none else some (a.words (at_ wid + 0x900) 64)
  let r : Restore := x.warps.foldl (fun r w => r.handles a key w.1 w.2) { s }
  let r := (List.range x.images.length).foldl
    (fun r i =>
      let old := k.images.getD i (0, 0)
      r.image a ctx key b.core old.1 old.2 (x.images.getD i 0)) r
  let r := x.ops.foldl (fun r o => r.op a ctx key b.core k batch cols o) r
  let s := (x.warps.foldl (fun r w => r.warp a key b.vregs w.1 w.2) r).s
  k.syncs.foldl
    (fun s y =>
      let (wid, i, pc, n, gen) := y
      s.modWarp (warpKey key wid) fun w =>
        let x := w.slot i
        if x.live ∧ x.pc = pc then w.setSlot i { x with wait := some (.pkg n gen true) } else w)
    s

/-- A launch takes its entry back (R335): its deadline where a debugger has changed it, and its done word. -/
def State.restoreLaunch (s : State) (a : Area) (ctx i key : Nat) (word : Word) : State :=
  let o := 0x9100 + 256 * i
  match mapFind s.launches key with
  | none => s
  | some l =>
    let dw := BitVec.ofNat 64 (a.dw (o + 136))
    let done := BitVec.ofNat 64 (a.dw (o + 144))
    let dval := BitVec.ofNat 64 (a.dw (o + 152))
    let (at_, s) : Option (Nat × Word) × State :=
      if done = l.doneAddr then (l.done.map fun x => (x.1, l.doneLeaf), s)
      else if done = 0 then (none, s)
      else if l.donePhys then (some (done.toNat, 0), s)
      else
        match s.translate none ctx done { w := true } 1 with
        | (.ok pa pte, s) => (some (pa, pte), s)
        | (.fail _, s) => (none, s)
    let l := { l with
      words := (List.range 16).map fun j => BitVec.ofNat 64 (a.dw (o + 8 * j)), tags := BitVec.ofNat 3 (a.dw (o + 128))
      deadline := if dw = word then l.deadline else if dw = BitVec.allOnes 64 then none else some dw.toNat
      doneAddr := done, dval, done := at_.map fun p => (p.1, dval), doneLeaf := (at_.map Prod.snd).getD 0 }
    { s with launches := mapPut s.launches key l }

/-- A time-slice expiry that was held is delivered (Table 14.2). -/
def State.deliverSlice (s : State) (ctx : Nat) (held : Option (Nat × Nat)) : State :=
  match held with
  | none => s
  | some (k, core) =>
    let s := s.modCtx ctx fun c => { c with sliceHeld := none }
    match mapFind s.launches k with
    | some l => s.expireSlice k core l
    | none => s

/-- The last saved block of a resumed context has been restored: the save area reads empty, and a time-slice expiry that
was held is delivered (R337). -/
def State.endResume (s : State) (ctx : Nat) (c : Context) : State :=
  let s := s.physWrite (c.save + 8) [((s.mem.read (c.save + 8) 1).getD 0 0) &&& 0xF0]
  let s := s.modCtx ctx fun x => { x with kept := [], savedLaunches := [], unplaced := [], resumeBy := none }
  s.deliverSlice ctx c.sliceHeld

/-- The vector registers per warp of the launches of a save area, by launch index. -/
def Area.vregs (a : Area) (i : Nat) : Nat := vregsOf (bits (a.dw (0x9100 + 256 * i + 112)) 0 4)

/-- A saved warp of forerunner code has one live slot (R103). -/
def Area.forerunnerOk (a : Area) (s : State) (ctx o : Nat) : Bool :=
  let x := a.rec o
  let y := a.rec (o + 32)
  let fr := fun (r : Rec) => decide (s.codeKind ctx r.pc = some true)
  !(x.flagL && y.flagL && (fr x || fr y))

/-- The package barriers of a save area. -/
def Area.sbars (a : Area) : Map SBar :=
  (List.range 8).foldl
    (fun m i =>
      let d := a.dw (0x9018 + 16 * i)
      mapSet {} m i { gen := BitVec.ofNat 64 (a.dw (0x9010 + 16 * i)), expected := bits d 0 16, arrivals := bits d 32 16 })
    []

/-- CONTEXT_RESUME (R337): the save area of a saved context that is not parked is checked, and the context terminated with
code 0x09 or 0x0B where a check fails. Its package barriers and launches are restored, and its blocks wait for cores. -/
def execContextResume (ctx : Nat) (s : State) : Host.Outcome State Fault Refusal :=
  .next (match mapFind s.ctxs ctx with
    | none => s
    | some c =>
      if !c.saved || c.parked || c.dead || c.preempt.isSome || s.ckpt.isSome then s
      else
        let size := 0x9000 + (s.readDw (c.save + 24)).toNat
        let limit := min c.savelen size
        let a : Area := fun o n => s.mem.read (c.save + o) n
        let n := c.savedLaunches.length
        let key := fun (i : Nat) => (c.savedLaunches.getD i (0, 0)).1
        let fail := fun (code : Nat) => s.forcedReset ctx code c.resumeBy noBlockD0 false none
        if s.anyBad c.save 0x1000 || s.anyBad (c.save + 0x9000) (limit - 0x9000) then fail 0x0B
        else if !a.headerOk || !(a.launchesOk n) then fail 0x09
        else
          match a.blocks a.vregs limit (a.dw 0x9008) (0x9100 + 256 * n) with
          | none => fail 0x09
          | some bs =>
            if !(bs.all fun b => a.blockOk n b && b.warps.all fun w => a.forerunnerOk s ctx w.2) then fail 0x09
            else
              let unplaced := bs.map fun b =>
                { launch := key b.launch, idx := b.idx, off := b.off, wpb := b.wpb, vregs := b.vregs, spu := b.spu
                  accb := b.accb : Unplaced }
              let s := s.modCtx ctx fun x => { x with saved := false, sbars := a.sbars, unplaced }
              let s := (c.savedLaunches.zip (List.range n)).foldl
                (fun s x => s.restoreLaunch a ctx x.2 x.1.1 x.1.2) s
              if bs.isEmpty then s.endResume ctx c else s)

/-! ### Placement -/

/-- Place a saved block on a core and restore it (R324, R337); an uncorrectable error in its record ends the context with
code 0x0B. -/
def State.placeSaved (s : State) (key : Nat) (l : Launch) (u : Unplaced) (core : Nat) : State :=
  match mapFind s.ctxs l.ctx with
  | none => s
  | some c =>
    let a : Area := fun o n => s.mem.read (c.save + o) n
    let i := ((c.savedLaunches.map Prod.fst).idxOf key)
    let x := a.block u.off fun _ => a.vregs i
    if s.anyBad (c.save + u.off) (x.last - u.off) then s.forcedReset l.ctx 0x0B c.resumeBy noBlockD0 false none
    else
      let shape := s.nextShape key l
      let s := s.takeCore shape core
      let bk := s.births
      let b : Block :=
        { ctx := l.ctx, launch := key, idx := u.idx, core, wpb := u.wpb, vregs := u.vregs, spu := u.spu, accb := u.accb
          prio := l.field 14 20 2, born := bk, ended := maskOf fun i => decide (i < u.wpb) && !(bit x.mask i) }
      let b := b.takeUnits (s.core core) (s.freeUnits core u.spu)
      let l := { l with
        waitSince := none, holds := false
        slice := if (mapFind l.slice core).isSome then l.slice else mapPut l.slice core 0 }
      let s := { s with births := bk + 1, blocks := mapPut s.blocks bk b, launches := mapPut s.launches key l }
      let rest := c.unplaced.filter fun y => decide (y ≠ u)
      let s := (s.restoreBlock a l.ctx c.kept bk x).modCtx l.ctx fun y => { y with unplaced := rest }
      if rest.isEmpty then s.endResume l.ctx c else s

/-- Try launches in order: the first whose next block fits places it, and those before it begin to wait (R324). -/
def State.placeFirst (s : State) : List (Nat × Launch) → State
  | [] => s
  | (k, l) :: r =>
    match s.bestCore (s.nextShape k l), s.nextSaved k l with
    | some core, some u => s.placeSaved k l u core
    | some core, none => s.placeBlock k l core
    | none, _ =>
      let l := if l.waitSince.isNone then { l with waitSince := some s.clk } else l
      { s with launches := mapPut s.launches k l }.placeFirst r

/-- BLOCK_PLACEMENT (R324): a launch that has waited 2^20 clk keeps those of equal or lower priority from placing. No
block is placed during a checkpoint (R393). -/
def execBlockPlacement (s : State) : Host.Outcome State Fault Refusal :=
  .next (
    if s.ckpt.isSome then s
    else
      let l := s.placeOrder
      match l.find? fun e => e.2.holds with
      | none => s.placeFirst l
      | some h => s.placeFirst (l.filter fun e => decide (h.2.qprio < e.2.qprio ∨ e.1 = h.1)))

end Sys2Proof.Machine
end

