-- ==== Sys2Proof/Machine/Sets.lean ====
section
/-! DEFINITION. The set group (R234): SETJ, SETL and SETW. -/
namespace Sys2Proof.Machine

/-- The issuer belongs to a set. Whether two resident blocks of one launch share its sets 1 to 31 on a core the manual does
not say (R23, R234): the model keeps them for each block (DESIGN CHOICE, log 50). -/
def Env.inSet (en : Env) (n : Nat) : Bool := (en.block.members n).getLsbD (warpId en.key)

/-- SETJ: joining a set to which the warp belongs changes nothing but the count that is written. -/
def execSetj (f : Fields) (s : State) : Out :=
  native f s fun en =>
    let n := (en.sA f).toNat
    let m := en.block.members n
    let me := BitVec.twoPow 64 (warpId en.key)
    let count := fun (x : Word) => en.w.setS f.d.toNat (BitVec.ofNat 64 (popcount 64 x.toNat))
    if 32 ≤ n then en.fail 0x34
    else if n = 0 ∨ en.inSet n then en.done (count m)
    else if m = 0 ∧ 64 ≤ en.s.liveSets en.block.core then en.fail 0x35
    else
      let s := en.s.modBlock en.bk fun b => b.putSet n { mapGet {} b.sets n with members := m ||| me }
      .next (s.putWarp en.key (count (m ||| me)))

/-- SETL: the set dissolves with its last member, and the removal may complete a phase. -/
def execSetl (f : Fields) (s : State) : Out :=
  native f s fun en =>
    let n := (en.sA f).toNat
    if n = 0 ∨ 32 ≤ n ∨ !(en.inSet n) then en.fail 0x34
    else .next (en.s.modBlock en.bk fun b => b.leaveSet n (warpId en.key))

/-- SETW: the warp arrives and waits until every member has arrived in the phase; a release when it arrives and an
acquire when it returns, at set scope. -/
def execSetw (f : Fields) (s : State) : Out :=
  native f s fun en =>
    let n := (en.sA f).toNat
    if 32 ≤ n ∨ !(en.inSet n) then en.fail 0x34
    else
      let phase := (mapGet {} en.block.sets n).phase
      let arrive := fun (_ : Unit) =>
        let s := (en.s.release en.key).modBlock en.bk fun b => b.arriveSet n (warpId en.key)
        if (mapGet {} (s.block en.bk).sets n).phase = phase then .wait s (.set n phase)
        else .next (s.acquire en.key 1)
      match en.sl.wait with
      | some (.set m p) =>
        if m ≠ n then arrive ()
        else if p = phase then .wait en.s (.set n phase)
        else .next (en.s.acquire en.key 1)
      | _ => arrive ()

end Sys2Proof.Machine
end

