-- ==== Sys2Proof/Machine/System.lean ====
section
/-! DEFINITION. The system group: divergence-stack records, traps and their return, control registers, yield and time
(04 §4.7, §4.8), and the events that stand for undecodable or unfetchable words (R87, R88). -/
namespace Sys2Proof.Machine

/-- NOP (R139). -/
def execNop (f : Fields) (s : State) : Out := native f s fun en => .next en.s

/-- YLD (R138): the warp goes behind the other ready warps of its level, its age-override count starts again, and it is
not ready for the n clk that follow. -/
def execYld (f : Fields) (s : State) : Out :=
  native f s fun en =>
    let n := fld f.w2 0 16
    en.done { en.w with
      yieldUntil := if n = 0 then 0 else en.s.clk + n + 1
      yielded := true, readySince := en.s.clk + n }

/-- The event at the end of a yield (R138): a warp whose n clk have passed is ready again. -/
def execYldExpiry (warp : Nat) (s : State) : Out :=
  .next (s.modWarp warp fun w => if w.yieldUntil ≤ s.clk then { w with yieldUntil := 0 } else w)

/-- DPSH (R130). -/
def execDpsh (f : Fields) (s : State) : Out :=
  native f s fun en =>
    let r : Rec := { pc := en.sA f, mask := en.sB f, rpc := en.sC f, kind := 3 }
    match en.s.stackWrite en.who en.w en.w.dstkSp [r] with
    | (.error e, s) => en.failIn s e
    | (.ok _, s) => .next (s.putWarp en.key { en.w with dstkSp := en.w.dstkSp + 32 })

/-- DPOP (R131). -/
def execDpop (f : Fields) (s : State) : Out :=
  native f s fun en =>
    match en.s.topRecord en.who en.w with
    | (.error e, s) => en.failIn s e
    | (.ok none, s) => en.failIn s (0x05, en.w.dstkSp)
    | (.ok (some r), s) =>
      if r.kind ≠ 3 ∨ r.flagP ∨ r.flagL ∨ r.flagT ∨ r.rsvd ≠ 0 ∨ r.auxLo ≠ 0 ∨ r.auxHi ≠ 0 then
        en.failIn s (0x05, en.w.dstkSp - 32)
      else if s.kindDiffers en.ctx en.is.fr en.is.pc en.fall then en.fail 0x01
      else
        let w := (({ en.w with dstkSp := en.w.dstkSp - 32 }.setS f.d.toNat r.pc).setS f.a.toNat r.mask).setS
          f.b.toNat r.rpc
        en.resolved (w.setSlot en.k { en.sl.issued en.is with pc := en.fall, wait := none }) s

/-- BKPT (R134): a breakpoint trap, or a halt in a context created for debugging. -/
def execBkpt (f : Fields) (s : State) : Out :=
  native f s fun en =>
    let armed := match mapFind en.s.ctxs en.ctx with
      | some c => c.bkpt
      | none => false
    if armed then .halt en.s
    else .trap en.s { cause := 0x40, addr := BitVec.ofNat 64 (fld f.w2 0 16), lanes := en.e, completes := true }

/-- TRAP (R133): cause 0x8000 or n. -/
def execTrap (f : Fields) (s : State) : Out :=
  native f s fun en =>
    .trap en.s { cause := 0x8000#16 ||| f.w2.extractLsb' 0 16, lanes := en.e, completes := true }

/-- RTT (R19, R135). -/
def execRtt (f : Fields) (s : State) : Out :=
  native f s fun en =>
    if en.w.s0.live && en.w.s1.live then en.fail 0x05 en.w.dstkSp
    else
      match en.s.trapReturn en.who en.w with
      | (.error e, s) => en.failIn s e
      | (.ok w, s) => en.resolved w s

/-- The coordinates of a job as grid.coord shows them (Table 1.9). -/
def coordBits (c : List Nat) : Nat := (List.range 5).foldl (fun x a => x + c.getD a 0 % 2048 * 2 ^ (11 * a)) 0

/-- slot.state of Table 1.9 as slot k reads it. -/
def Warp.slotState (w : Warp) (k : Nat) : Nat :=
  b2n w.s0.live + 2 * b2n w.s1.live + 4 * b2n (w.s0.live && w.s0.parked) + 8 * b2n (w.s1.live && w.s1.parked) + 16 * k

/-- A control register as one lane of the issuing slot reads it (Table 1.9). -/
def Env.csr (en : Env) (i lane : Nat) : Word :=
  let b := en.block
  let j := en.s.jobOf en.bk
  let n := fun (x : Nat) => BitVec.ofNat 64 x
  match i with
  | 0x000 => n lane
  | 0x001 => n (warpId en.key)
  | 0x002 => n b.idx
  | 0x003 => n (en.s.recordField en.bk 13 0 48)
  | 0x004 => n b.wpb
  | 0x005 => n b.core
  | 0x006 => n (warpId en.key % 4)
  | 0x007 => n b.ctx
  | 0x008 => en.w.lanes
  | 0x010 => n (coordBits j.coord)
  | 0x011 => n (j.sizes.toNat + j.axes * 2 ^ 55)
  | 0x012 => n j.rank
  | 0x013 => n j.gen.toNat
  | 0x020 => en.w.dstkSp &&& ~~~31#64
  | 0x021 => n (en.w.slotState en.k)
  | 0x022 => en.sl.rpc
  | 0x030 => n en.w.accBase.toNat
  | 0x031 => n en.w.accLimit.toNat
  | 0x040 => en.w.trapVec
  | 0x041 => n en.w.trapCause.toNat
  | 0x042 => en.w.trapAddr
  | 0x043 => en.w.trapPc
  | 0x050 => n en.w.podG.toNat
  | 0x051 => en.w.pod.bits
  | 0x060 => n b.prio
  | 0x070 => n en.w.flags.toNat
  | 0x080 => n (en.s.core b.core).mxRows
  | 0x081 => n (en.s.core b.core).mxFence.toNat
  | _ => 0

/-- CSRR (R136). -/
def execCsrr (f : Fields) (s : State) : Out :=
  native f s fun en =>
    let i := fld f.w2 0 12
    match f.mod.toNat with
    | 0 => en.done (en.w.setS f.d.toNat (en.csr i 0))
    | 1 => en.done (en.w.setV f.d.toNat en.e fun l => (en.csr i l).extractLsb' 0 32)
    | _ => en.done (en.w.setV2 f.d.toNat en.e fun l => en.csr i l)

/-- A write of a control register by its access code (Table 1.9, R137). -/
def Warp.setCsr (w : Warp) (i : Nat) (x : Word) : Warp :=
  match i with
  | 0x020 => { w with dstkSp := x &&& ~~~31#64 }
  | 0x040 => { w with trapVec := x &&& ~~~3#64 }
  | 0x050 => { w with podG := x.extractLsb' 0 32 }
  | 0x070 => w.clearFlags (x.extractLsb' 0 4)
  | _ => w

/-- CSRW (R137). -/
def execCsrw (f : Fields) (s : State) : Out :=
  native f s fun en => en.done (en.w.setCsr (fld f.w2 0 12) (en.sA f))

/-- CLOCK (R140). -/
def execClock (f : Fields) (s : State) : Out :=
  native f s fun en => en.done (en.w.setS f.d.toNat (BitVec.ofNat 64 en.s.clk))

/-- A word that is no instruction: the illegal-instruction fault (R87, check 2 of Table 3.10). -/
def execIllegalInstruction (s : State) : Out := forerunnerSlot s fun en => en.fail 0x01

/-- A fetch that fails check 1 of Table 3.10: its cause, with trap.addr at the first failing word (R87, R88). -/
def execInstructionFetchFault (cause : BitVec 16) (addr : Word) (s : State) : Out :=
  forerunnerSlot s fun en => en.fail cause addr

end Sys2Proof.Machine
end

