-- ==== Sys2Proof/Machine/Watchdogs.lean ====
section
/-! DEFINITION. The hang and barrier-timeout watchdogs (R341 to R344), and the write-back of L1 sectors that have been
dirty for long (R253). -/
namespace Sys2Proof.Machine

/-- The limit of both watchdogs of a context in clk; none where they are disabled (R341). -/
def Context.hangLimit (c : Context) : Option Nat := if c.hang = 0 then none else some (1024 * c.hang)

/-- A context has a resident warp. -/
def State.hasWarps (s : State) (ctx : Nat) : Bool := s.warps.any fun e => decide (s.ctxOf (warpBlock e.1) = ctx)

/-- The hang count of a context has reached its limit (R341). -/
def State.hangDue (s : State) (ctx : Nat) (c : Context) : Bool :=
  !c.dead && !c.halted && s.hasWarps ctx && c.hangLimit.any fun n => decide (n ≤ c.hangCount)

/-- A timer has reached a limit. -/
def timerDue (limit : Nat) (t : Option Nat) : Bool := t.any fun n => decide (limit ≤ n)

/-- The object of a block with the lowest wobj whose timer has reached a limit (R342). -/
def Block.dueObject (b : Block) (limit : Nat) : Option Nat :=
  match (List.range 16).find? fun i => timerDue limit (b.bar i).timer with
  | some i => some i
  | none => ((List.range 32).find? fun n => timerDue limit (mapGet {} b.sets n).timer).map fun n => 0x20 + n

/-- The block that the barrier-timeout watchdog of a context names: key and object (R342). -/
def State.barrierDue (s : State) (ctx : Nat) (c : Context) : Option (Nat × Nat) :=
  match c.hangLimit with
  | none => none
  | some n =>
    if c.dead || c.stopped then none
    else (s.ctxBlocks ctx).findSome? fun e => (e.2.dueObject n).map fun o => (e.1, o)

/-- A slot waits on an object of its block. -/
def Slot.waitsOn (x : Slot) (obj : Nat) : Bool :=
  match x.wait with
  | some (.barrier b _) => decide (b = obj)
  | some (.set n _) => decide (0x20 + n = obj)
  | _ => false

/-- The warp that the record of a barrier timeout names (Table 14.16). -/
def State.timeoutWarp (s : State) (key obj : Nat) : Nat :=
  let b := s.block key
  let waiting := (s.warps.filter fun e =>
    decide (warpBlock e.1 = key) && (e.2.s0.waitsOn obj || e.2.s1.waitsOn obj)).map fun e => warpId e.1
  let who := if obj < 0x20 then (b.bar obj).who else (mapGet {} b.sets (obj - 0x20)).arrived
  match waiting with
  | w :: _ => w
  | [] => (maskLanes who).headD 0

/-- BARRIER_TIMEOUT_WATCHDOG (R342): the context goes to level 3 with code 0x04. -/
def execBarrierTimeoutWatchdog (ctx : Nat) (s : State) : Host.Outcome State Fault Refusal :=
  .next (match mapFind s.ctxs ctx with
    | none => s
    | some c =>
      match s.barrierDue ctx c with
      | none => s
      | some (key, obj) =>
        s.forcedReset ctx 0x04 (s.launchPacket (s.block key).launch) (s.blockD0 key (s.timeoutWarp key obj)) true
          (some (key, obj)))

/-- HANG_WATCHDOG (R341, R343): the context goes to level 3 with code 0x03, or 0x06 during a save; a barrier timeout of
the same cycle is recorded instead. -/
def execHangWatchdog (ctx : Nat) (s : State) : Host.Outcome State Fault Refusal :=
  match mapFind s.ctxs ctx with
  | none => .next s
  | some c =>
    if !(s.hangDue ctx c) then .next s
    else if (s.barrierDue ctx c).isSome then execBarrierTimeoutWatchdog ctx s
    else
      match c.preempt with
      | some p =>
        if p.level = 2 then .next (s.forcedReset ctx 0x06 p.packet noBlockD0 true none)
        else .next (s.forcedReset ctx 0x03 none noBlockD0 true none)
      | none => .next (s.forcedReset ctx 0x03 none noBlockD0 true none)

/-- A sector has been dirty for 2^16 clk. -/
def Sector.old (x : Sector) (clk : Nat) : Bool := decide (x.dirty ≠ 0 ∧ x.since + 2 ^ 16 ≤ clk)

/-- L1_WRITEBACK_TIMEOUT (R253); `sector` is the sector's VA divided by 32. -/
def execL1WritebackTimeout (l1 sector : Nat) (s : State) : Host.Outcome State Fault Refusal :=
  .next (s.cleanWhere l1 fun x => decide (x.va = sector) && x.old s.clk)

end Sys2Proof.Machine
end

