-- ==== Sys2Proof/Machine/Dispatch.lean ====
section
/-! DEFINITION. The meaning of each instruction and event. -/
namespace Sys2Proof.Machine

def exec (i : Instr) (s : State) : Host.Outcome State Fault Refusal :=
  match i with
  | .sadd f => Sys2Proof.Machine.execSadd f s
  | .ssub f => Sys2Proof.Machine.execSsub f s
  | .smul f => Sys2Proof.Machine.execSmul f s
  | .smulh f => Sys2Proof.Machine.execSmulh f s
  | .sand f => Sys2Proof.Machine.execSand f s
  | .sor f => Sys2Proof.Machine.execSor f s
  | .sxor f => Sys2Proof.Machine.execSxor f s
  | .sshl f => Sys2Proof.Machine.execSshl f s
  | .sshr f => Sys2Proof.Machine.execSshr f s
  | .ssra f => Sys2Proof.Machine.execSsra f s
  | .smin f => Sys2Proof.Machine.execSmin f s
  | .smax f => Sys2Proof.Machine.execSmax f s
  | .smov f => Sys2Proof.Machine.execSmov f s
  | .srot f => Sys2Proof.Machine.execSrot f s
  | .sdiv f => Sys2Proof.Machine.execSdiv f s
  | .srem f => Sys2Proof.Machine.execSrem f s
  | .vadd f => Sys2Proof.Machine.execVadd f s
  | .vsub f => Sys2Proof.Machine.execVsub f s
  | .vmul f => Sys2Proof.Machine.execVmul f s
  | .vmulh f => Sys2Proof.Machine.execVmulh f s
  | .vand f => Sys2Proof.Machine.execVand f s
  | .vor f => Sys2Proof.Machine.execVor f s
  | .vxor f => Sys2Proof.Machine.execVxor f s
  | .vshl f => Sys2Proof.Machine.execVshl f s
  | .vshr f => Sys2Proof.Machine.execVshr f s
  | .vsra f => Sys2Proof.Machine.execVsra f s
  | .vmin f => Sys2Proof.Machine.execVmin f s
  | .vmax f => Sys2Proof.Machine.execVmax f s
  | .vmov f => Sys2Proof.Machine.execVmov f s
  | .fadd f => Sys2Proof.Machine.execFadd f s
  | .fsub f => Sys2Proof.Machine.execFsub f s
  | .fmul f => Sys2Proof.Machine.execFmul f s
  | .fmin f => Sys2Proof.Machine.execFmin f s
  | .fmax f => Sys2Proof.Machine.execFmax f s
  | .pand f => Sys2Proof.Machine.execPand f s
  | .por f => Sys2Proof.Machine.execPor f s
  | .pxor f => Sys2Proof.Machine.execPxor f s
  | .pandn f => Sys2Proof.Machine.execPandn f s
  | .hadd2 f => Sys2Proof.Machine.execHadd2 f s
  | .hmul2 f => Sys2Proof.Machine.execHmul2 f s
  | .sclz f => Sys2Proof.Machine.execSclz f s
  | .spopc f => Sys2Proof.Machine.execSpopc f s
  | .sbfe f => Sys2Proof.Machine.execSbfe f s
  | .sbfi f => Sys2Proof.Machine.execSbfi f s
  | .ssel f => Sys2Proof.Machine.execSsel f s
  | .sli f => Sys2Proof.Machine.execSli f s
  | .slea f => Sys2Proof.Machine.execSlea f s
  | .scmp f => Sys2Proof.Machine.execScmp f s
  | .pnot f => Sys2Proof.Machine.execPnot f s
  | .pmov f => Sys2Proof.Machine.execPmov f s
  | .pset f => Sys2Proof.Machine.execPset f s
  | .pcnt f => Sys2Proof.Machine.execPcnt f s
  | .pff f => Sys2Proof.Machine.execPff f s
  | .bra f => Sys2Proof.Machine.execBra f s
  | .brc f => Sys2Proof.Machine.execBrc f s
  | .brv f => Sys2Proof.Machine.execBrv f s
  | .rcv f => Sys2Proof.Machine.execRcv f s
  | .call f => Sys2Proof.Machine.execCall f s
  | .callx f => Sys2Proof.Machine.execCallx f s
  | .ret f => Sys2Proof.Machine.execRet f s
  | .jmpx f => Sys2Proof.Machine.execJmpx f s
  | .exit f => Sys2Proof.Machine.execExit f s
  | .nop f => Sys2Proof.Machine.execNop f s
  | .yld f => Sys2Proof.Machine.execYld f s
  | .dpsh f => Sys2Proof.Machine.execDpsh f s
  | .dpop f => Sys2Proof.Machine.execDpop f s
  | .bkpt f => Sys2Proof.Machine.execBkpt f s
  | .trap f => Sys2Proof.Machine.execTrap f s
  | .rtt f => Sys2Proof.Machine.execRtt f s
  | .csrr f => Sys2Proof.Machine.execCsrr f s
  | .csrw f => Sys2Proof.Machine.execCsrw f s
  | .clock f => Sys2Proof.Machine.execClock f s
  | .vmad f => Sys2Proof.Machine.execVmad f s
  | .vabs f => Sys2Proof.Machine.execVabs f s
  | .vneg f => Sys2Proof.Machine.execVneg f s
  | .vclz f => Sys2Proof.Machine.execVclz f s
  | .vpopc f => Sys2Proof.Machine.execVpopc f s
  | .vbfe f => Sys2Proof.Machine.execVbfe f s
  | .vbfi f => Sys2Proof.Machine.execVbfi f s
  | .vsel f => Sys2Proof.Machine.execVsel f s
  | .vcmp f => Sys2Proof.Machine.execVcmp f s
  | .vbcst f => Sys2Proof.Machine.execVbcst f s
  | .vshf f => Sys2Proof.Machine.execVshf f s
  | .vred f => Sys2Proof.Machine.execVred f s
  | .vscan f => Sys2Proof.Machine.execVscan f s
  | .vdot4 f => Sys2Proof.Machine.execVdot4 f s
  | .ffma f => Sys2Proof.Machine.execFfma f s
  | .fabs f => Sys2Proof.Machine.execFabs f s
  | .fneg f => Sys2Proof.Machine.execFneg f s
  | .fcmp f => Sys2Proof.Machine.execFcmp f s
  | .fclass f => Sys2Proof.Machine.execFclass f s
  | .fscale f => Sys2Proof.Machine.execFscale f s
  | .frnd f => Sys2Proof.Machine.execFrnd f s
  | .hfma2 f => Sys2Proof.Machine.execHfma2 f s
  | .frcp f => Sys2Proof.Machine.execFrcp f s
  | .frsq f => Sys2Proof.Machine.execFrsq f s
  | .fsqrt f => Sys2Proof.Machine.execFsqrt f s
  | .fexp2 f => Sys2Proof.Machine.execFexp2 f s
  | .flog2 f => Sys2Proof.Machine.execFlog2 f s
  | .fsin f => Sys2Proof.Machine.execFsin f s
  | .fcos f => Sys2Proof.Machine.execFcos f s
  | .ftanh f => Sys2Proof.Machine.execFtanh f s
  | .fcvt f => Sys2Proof.Machine.execFcvt f s
  | .f2i f => Sys2Proof.Machine.execF2i f s
  | .i2f f => Sys2Proof.Machine.execI2f f s
  | .ld f => Sys2Proof.Machine.execLd f s
  | .st f => Sys2Proof.Machine.execSt f s
  | .ldk f => Sys2Proof.Machine.execLdk f s
  | .pref f => Sys2Proof.Machine.execPref f s
  | .cflush f => Sys2Proof.Machine.execCflush f s
  | .lds f => Sys2Proof.Machine.execLds f s
  | .sts f => Sys2Proof.Machine.execSts f s
  | .atom f => Sys2Proof.Machine.execAtom f s
  | .atoms f => Sys2Proof.Machine.execAtoms f s
  | .fence f => Sys2Proof.Machine.execFence f s
  | .cld f => Sys2Proof.Machine.execCld f s
  | .cst f => Sys2Proof.Machine.execCst f s
  | .cmov f => Sys2Proof.Machine.execCmov f s
  | .cbnd f => Sys2Proof.Machine.execCbnd f s
  | .cperm f => Sys2Proof.Machine.execCperm f s
  | .cget f => Sys2Proof.Machine.execCget f s
  | .ctest f => Sys2Proof.Machine.execCtest f s
  | .cseal f => Sys2Proof.Machine.execCseal f s
  | .wld f => Sys2Proof.Machine.execWld f s
  | .wscl f => Sys2Proof.Machine.execWscl f s
  | .wsclNone f => Sys2Proof.Machine.execWsclNone f s
  | .mma f => Sys2Proof.Machine.execMma f s
  | .mmag f => Sys2Proof.Machine.execMmag f s
  | .mmap f => Sys2Proof.Machine.execMmap f s
  | .msl f => Sys2Proof.Machine.execMsl f s
  | .aalloc f => Sys2Proof.Machine.execAalloc f s
  | .afree f => Sys2Proof.Machine.execAfree f s
  | .awin f => Sys2Proof.Machine.execAwin f s
  | .azero f => Sys2Proof.Machine.execAzero f s
  | .lda f => Sys2Proof.Machine.execLda f s
  | .sta f => Sys2Proof.Machine.execSta f s
  | .aepi f => Sys2Proof.Machine.execAepi f s
  | .agui f => Sys2Proof.Machine.execAgui f s
  | .atopk f => Sys2Proof.Machine.execAtopk f s
  | .atksRd f => Sys2Proof.Machine.execAtksRd f s
  | .atksWr f => Sys2Proof.Machine.execAtksWr f s
  | .mfence f => Sys2Proof.Machine.execMfence f s
  | .mwait f => Sys2Proof.Machine.execMwait f s
  | .mwaitB f => Sys2Proof.Machine.execMwaitB f s
  | .htest f => Sys2Proof.Machine.execHtest f s
  | .hcancel f => Sys2Proof.Machine.execHcancel f s
  | .hmov f => Sys2Proof.Machine.execHmov f s
  | .podC f => Sys2Proof.Machine.execPodC f s
  | .podU f => Sys2Proof.Machine.execPodU f s
  | .podOff f => Sys2Proof.Machine.execPodOff f s
  | .cpy f => Sys2Proof.Machine.execCpy f s
  | .cpyInit f => Sys2Proof.Machine.execCpyInit f s
  | .cpyCap f => Sys2Proof.Machine.execCpyCap f s
  | .cpyt f => Sys2Proof.Machine.execCpyt f s
  | .cpyg f => Sys2Proof.Machine.execCpyg f s
  | .cpyx f => Sys2Proof.Machine.execCpyx f s
  | .cpyr f => Sys2Proof.Machine.execCpyr f s
  | .bari f => Sys2Proof.Machine.execBari f s
  | .bara f => Sys2Proof.Machine.execBara f s
  | .barw f => Sys2Proof.Machine.execBarw f s
  | .bart f => Sys2Proof.Machine.execBart f s
  | .sbarInit f => Sys2Proof.Machine.execSbarInit f s
  | .sbarArrive f => Sys2Proof.Machine.execSbarArrive f s
  | .sbarWait f => Sys2Proof.Machine.execSbarWait f s
  | .sbarSync f => Sys2Proof.Machine.execSbarSync f s
  | .setj f => Sys2Proof.Machine.execSetj f s
  | .setl f => Sys2Proof.Machine.execSetl f s
  | .setw f => Sys2Proof.Machine.execSetw f s
  | .gst f => Sys2Proof.Machine.execGst f s
  | .gld f => Sys2Proof.Machine.execGld f s
  | .gatom f => Sys2Proof.Machine.execGatom f s
  | .gred f => Sys2Proof.Machine.execGred f s
  | .gcpy f => Sys2Proof.Machine.execGcpy f s
  | .gwait f => Sys2Proof.Machine.execGwait f s
  | .gpatAx f => Sys2Proof.Machine.execGpatAx f s
  | .gpatL0 f => Sys2Proof.Machine.execGpatL0 f s
  | .gpatL1 f => Sys2Proof.Machine.execGpatL1 f s
  | .gcrdAx f => Sys2Proof.Machine.execGcrdAx f s
  | .gcrdCnt f => Sys2Proof.Machine.execGcrdCnt f s
  | .gcrdIdx f => Sys2Proof.Machine.execGcrdIdx f s
  | .ttfire f => Sys2Proof.Machine.execTtfire f s
  | .ttfireArm f => Sys2Proof.Machine.execTtfireArm f s
  | .ttwait f => Sys2Proof.Machine.execTtwait f s
  | .frNoOperation f => Sys2Proof.Machine.execFrNoOperation f s
  | .frIntegerAdd f => Sys2Proof.Machine.execFrIntegerAdd f s
  | .frIntegerSubtract f => Sys2Proof.Machine.execFrIntegerSubtract f s
  | .frIntegerMultiply f => Sys2Proof.Machine.execFrIntegerMultiply f s
  | .frAnd f => Sys2Proof.Machine.execFrAnd f s
  | .frOr f => Sys2Proof.Machine.execFrOr f s
  | .frXor f => Sys2Proof.Machine.execFrXor f s
  | .frShiftLeft f => Sys2Proof.Machine.execFrShiftLeft f s
  | .frLogicalShiftRight f => Sys2Proof.Machine.execFrLogicalShiftRight f s
  | .frArithmeticShiftRight f => Sys2Proof.Machine.execFrArithmeticShiftRight f s
  | .frFp32Add f => Sys2Proof.Machine.execFrFp32Add f s
  | .frFp32Multiply f => Sys2Proof.Machine.execFrFp32Multiply f s
  | .frFp32Fma f => Sys2Proof.Machine.execFrFp32Fma f s
  | .frMove f => Sys2Proof.Machine.execFrMove f s
  | .frLoadImmediate f => Sys2Proof.Machine.execFrLoadImmediate f s
  | .frLaneNumber f => Sys2Proof.Machine.execFrLaneNumber f s
  | .frIntegerCompare f => Sys2Proof.Machine.execFrIntegerCompare f s
  | .frFp32Compare f => Sys2Proof.Machine.execFrFp32Compare f s
  | .frScalarAddImmediate f => Sys2Proof.Machine.execFrScalarAddImmediate f s
  | .frScalarLoadImmediate f => Sys2Proof.Machine.execFrScalarLoadImmediate f s
  | .frLoadWord f => Sys2Proof.Machine.execFrLoadWord f s
  | .frStoreWord f => Sys2Proof.Machine.execFrStoreWord f s
  | .frScratchpadLoadWord f => Sys2Proof.Machine.execFrScratchpadLoadWord f s
  | .frScratchpadStoreWord f => Sys2Proof.Machine.execFrScratchpadStoreWord f s
  | .frFence f => Sys2Proof.Machine.execFrFence f s
  | .frIf f => Sys2Proof.Machine.execFrIf f s
  | .frElse f => Sys2Proof.Machine.execFrElse f s
  | .frEndIf f => Sys2Proof.Machine.execFrEndIf f s
  | .frBreak f => Sys2Proof.Machine.execFrBreak f s
  | .frLoop f => Sys2Proof.Machine.execFrLoop f s
  | .frBranch f => Sys2Proof.Machine.execFrBranch f s
  | .frCall f => Sys2Proof.Machine.execFrCall f s
  | .frReturn f => Sys2Proof.Machine.execFrReturn f s
  | .frBlockBarrier f => Sys2Proof.Machine.execFrBlockBarrier f s
  | .frExit f => Sys2Proof.Machine.execFrExit f s
  | .frTrap f => Sys2Proof.Machine.execFrTrap f s
  | .gridtabInstall p => Sys2Proof.Machine.execGridtabInstall p s
  | .gridtabRemove p => Sys2Proof.Machine.execGridtabRemove p s
  | .ctxnew p => Sys2Proof.Machine.execCtxnew p s
  | .ctxend p => Sys2Proof.Machine.execCtxend p s
  | .huskCreate p => Sys2Proof.Machine.execHuskCreate p s
  | .huskDestroy p => Sys2Proof.Machine.execHuskDestroy p s
  | .keyslotLoad p => Sys2Proof.Machine.execKeyslotLoad p s
  | .keyslotZeroise p => Sys2Proof.Machine.execKeyslotZeroise p s
  | .scrubStart p => Sys2Proof.Machine.execScrubStart p s
  | .scrubContinue p => Sys2Proof.Machine.execScrubContinue p s
  | .attest p => Sys2Proof.Machine.execAttest p s
  | .layout p => Sys2Proof.Machine.execLayout p s
  | .launch p => Sys2Proof.Machine.execLaunch p s
  | .nodeOpen p => Sys2Proof.Machine.execNodeOpen p s
  | .nodeClose p => Sys2Proof.Machine.execNodeClose p s
  | .preemptPark p => Sys2Proof.Machine.execPreemptPark p s
  | .preemptRequeue p => Sys2Proof.Machine.execPreemptRequeue p s
  | .preemptResume p => Sys2Proof.Machine.execPreemptResume p s
  | .ckpt p => Sys2Proof.Machine.execCkpt p s
  | .waitmem p => Sys2Proof.Machine.execWaitmem p s
  | .signalStore p => Sys2Proof.Machine.execSignalStore p s
  | .signalAdd p => Sys2Proof.Machine.execSignalAdd p s
  | .signalMax p => Sys2Proof.Machine.execSignalMax p s
  | .condSkip p => Sys2Proof.Machine.execCondSkip p s
  | .condRepeat p => Sys2Proof.Machine.execCondRepeat p s
  | .condJump p => Sys2Proof.Machine.execCondJump p s
  | .doorbellTail queue value => Sys2Proof.Machine.execDoorbellTail queue value s
  | .doorbellReload queue value => Sys2Proof.Machine.execDoorbellReload queue value s
  | .doorbellStop queue value => Sys2Proof.Machine.execDoorbellStop queue value s
  | .arnalRound => Sys2Proof.Machine.execArnalRound s
  | .packetUnblock queue => Sys2Proof.Machine.execPacketUnblock queue s
  | .waitmemPoll queue => Sys2Proof.Machine.execWaitmemPoll queue s
  | .waitmemTimeout queue => Sys2Proof.Machine.execWaitmemTimeout queue s
  | .invalRange => Sys2Proof.Machine.execInvalRange s
  | .invalAsid => Sys2Proof.Machine.execInvalAsid s
  | .invalAll => Sys2Proof.Machine.execInvalAll s
  | .invalidationComplete => Sys2Proof.Machine.execInvalidationComplete s
  | .faultReplay seq => Sys2Proof.Machine.execFaultReplay seq s
  | .faultFail seq => Sys2Proof.Machine.execFaultFail seq s
  | .registerWrite offset value => Sys2Proof.Machine.execRegisterWrite offset value s
  | .bar2Read offset bytes => Sys2Proof.Machine.execBar2Read offset bytes s
  | .bar2Write offset data => Sys2Proof.Machine.execBar2Write offset data s
  | .blockPlacement => Sys2Proof.Machine.execBlockPlacement s
  | .placementWaitExpiry launch => Sys2Proof.Machine.execPlacementWaitExpiry launch s
  | .startBarrierTimeout launch => Sys2Proof.Machine.execStartBarrierTimeout launch s
  | .launchDeadline launch => Sys2Proof.Machine.execLaunchDeadline launch s
  | .timeSliceExpiry launch core => Sys2Proof.Machine.execTimeSliceExpiry launch core s
  | .drainDeadline ctx => Sys2Proof.Machine.execDrainDeadline ctx s
  | .preciseSave ctx => Sys2Proof.Machine.execPreciseSave ctx s
  | .saveDeadline ctx => Sys2Proof.Machine.execSaveDeadline ctx s
  | .contextResume ctx => Sys2Proof.Machine.execContextResume ctx s
  | .hangWatchdog ctx => Sys2Proof.Machine.execHangWatchdog ctx s
  | .barrierTimeoutWatchdog ctx => Sys2Proof.Machine.execBarrierTimeoutWatchdog ctx s
  | .yldExpiry warp => Sys2Proof.Machine.execYldExpiry warp s
  | .mmapRendezvousTimeout warp => Sys2Proof.Machine.execMmapRendezvousTimeout warp s
  | .engineOperationStart core op => Sys2Proof.Machine.execEngineOperationStart core op s
  | .engineOperationComplete core op => Sys2Proof.Machine.execEngineOperationComplete core op s
  | .enginePageFault core op => Sys2Proof.Machine.execEnginePageFault core op s
  | .faultQueueRetry ctx => Sys2Proof.Machine.execFaultQueueRetry ctx s
  | .matrixSelfTest core quarter pass => Sys2Proof.Machine.execMatrixSelfTest core quarter pass s
  | .copyEntryStart block => Sys2Proof.Machine.execCopyEntryStart block s
  | .copyEntryComplete block entry => Sys2Proof.Machine.execCopyEntryComplete block entry s
  | .l1WritebackTimeout l1 sector => Sys2Proof.Machine.execL1WritebackTimeout l1 sector s
  | .gridOperationComplete op => Sys2Proof.Machine.execGridOperationComplete op s
  | .reductionTimeout reduction => Sys2Proof.Machine.execReductionTimeout reduction s
  | .nodeGroupLaunch node => Sys2Proof.Machine.execNodeGroupLaunch node s
  | .nodeGroupTimer node => Sys2Proof.Machine.execNodeGroupTimer node s
  | .frameStore f => Sys2Proof.Machine.execFrameStore f s
  | .frameLdreq f => Sys2Proof.Machine.execFrameLdreq f s
  | .frameLdrep f => Sys2Proof.Machine.execFrameLdrep f s
  | .frameAtom f => Sys2Proof.Machine.execFrameAtom f s
  | .frameAtrep f => Sys2Proof.Machine.execFrameAtrep f s
  | .frameExp f => Sys2Proof.Machine.execFrameExp f s
  | .frameExpr f => Sys2Proof.Machine.execFrameExpr f s
  | .frameRed f => Sys2Proof.Machine.execFrameRed f s
  | .frameRedr f => Sys2Proof.Machine.execFrameRedr f s
  | .frameTack f => Sys2Proof.Machine.execFrameTack f s
  | .frameDone f => Sys2Proof.Machine.execFrameDone f s
  | .frameNack f => Sys2Proof.Machine.execFrameNack f s
  | .frameLaunch f => Sys2Proof.Machine.execFrameLaunch f s
  | .frameStart f => Sys2Proof.Machine.execFrameStart f s
  | .uePacket p => Sys2Proof.Machine.execUePacket p s
  | .retransmissionTimeout seq => Sys2Proof.Machine.execRetransmissionTimeout seq s
  | .linkDown port cause => Sys2Proof.Machine.execLinkDown port cause s
  | .linkUp port cause => Sys2Proof.Machine.execLinkUp port cause s
  | .integrityFailure port => Sys2Proof.Machine.execIntegrityFailure port s
  | .llrResend port => Sys2Proof.Machine.execLlrResend port s
  | .scrubFrame => Sys2Proof.Machine.execScrubFrame s
  | .scrubReceipt => Sys2Proof.Machine.execScrubReceipt s
  | .coldBoot blobs fails => Sys2Proof.Machine.execColdBoot blobs fails s
  | .warmReset a b => Sys2Proof.Machine.execWarmReset a b s
  | .checkpointStream => Sys2Proof.Machine.execCheckpointStream s
  | .checkpointFinish => Sys2Proof.Machine.execCheckpointFinish s
  | .healthUpdate x => Sys2Proof.Machine.execHealthUpdate x s
  | .thermalThrottle x => Sys2Proof.Machine.execThermalThrottle x s
  | .thermalTrip x => Sys2Proof.Machine.execThermalTrip x s
  | .illegalInstruction => Sys2Proof.Machine.execIllegalInstruction s
  | .instructionFetchFault cause addr => Sys2Proof.Machine.execInstructionFetchFault cause addr s
  | .malformedFrame f => Sys2Proof.Machine.execMalformedFrame f s

end Sys2Proof.Machine
end

