-- ==== Sys2Proof/Machine/Prepare.lean ====
section
/-! DEFINITION. A small placed program: what a program needs before its first instruction can run (log 1): a live
context, its page table, a block of one warp on core 0, and the warp in its start state (R25). -/
namespace Sys2Proof.Machine

/-- Virtual and physical address of the placed code. -/
def codeAddr : Nat := 65536

/-- Capability of the placed code: the first GiB with every permission of Table 5.11. -/
def codeCap : Cap := mkCap 0 1 0 0 0xFF (BitVec.ofNat 64 (2 ^ 30 - codeAddr)) (BitVec.ofNat 64 codeAddr) true

/-- The context of the placed program. -/
def placedCtx : Context :=
  { asid := 1, root := 0x1000, cgen := 1, prot := false, husk := 0, bkpt := false, fq := 0x8000, fqlog := 4
    save := 0x100000, savelen := 0x100000, ltab := 0, lcount := 0, hang := 0 }

/-- The block of the placed program. -/
def placedBlock : Block :=
  { ctx := 0, launch := 1, idx := 0, core := 0, wpb := 1, vregs := 256, spu := 128, accb := 64, prio := 0 }

/-- The warp of the placed program. -/
def placedWarp : Warp :=
  { s0 := { live := true, pc := BitVec.ofNat 64 codeAddr, mask := BitVec.allOnes 64, rpc := noRpc }
    c := [(0, codeCap), (1, codeCap), (15, codeCap)]
    lanes := BitVec.allOnes 64, dstkSp := BitVec.ofNat 64 codeAddr }

/-- A page-table entry: valid, with flags and an address (Table 8.3). -/
def placedEntry (flags pa : Nat) : List Byte := leBytes 8 (1 + flags + pa)

/-- Lay down the tables of an identity map of the first GiB, readable, writable, executable and open to remote
accesses, and instruction bytes at the code's address. -/
def MemSys.placed (m : MemSys) (code : List Byte) : MemSys :=
  let m := m.store 0x1000 (placedEntry 2 0x2000)
  let m := m.store 0x2000 (placedEntry 2 0x3000)
  let m := m.store 0x3000 (placedEntry 0x9C 0)
  let m := m.store codeAddr code
  { m with poison := [], l1 := [], tlb := [] }

/-- Load a program of one instruction: its bytes at the code's address, and one warp about to issue it. -/
def State.place (s : State) (code : List Byte) : State :=
  { s with
    inbox := [], picks := [0], late := [], used := [], cur := none, traps := []
    warps := mapPut s.warps 0 placedWarp
    blocks := mapPut s.blocks 0 placedBlock
    ctxs := mapPut s.ctxs 0 placedCtx
    mem := s.mem.placed code
    fused := []
    prot := { s.prot with owners := [] } }

end Sys2Proof.Machine
end

