-- ==== Sys2Proof/Machine/Tick.lean ====
section
/-! DEFINITION. One clk of the package outside the warps' own instructions (log 3): what counts, what the engines do, the
events that come due in the order of Table 14.2, and the warps that issue next. -/
namespace Sys2Proof.Machine

/-- Post events. -/
def State.postAll (s : State) (l : List Instr) : State := { s with inbox := s.inbox ++ l }

/-! ### Counters -/

/-- One clk of a timer. -/
def bump (t : Option Nat) : Option Nat := t.map fun n => n + 1

/-- The timers of a block's barriers and sets (R342). -/
def Block.count (b : Block) : Block :=
  { b with
    bars := mapAll b.bars fun _ x => { x with timer := bump x.timer }
    sets := mapAll b.sets fun _ x => { x with timer := bump x.timer } }

/-- The context of a block or launch runs: it is neither halted nor being saved. -/
def State.runs (s : State) (ctx : Nat) : Bool := (mapFind s.ctxs ctx).any fun c => !c.stopped

/-- One clk of a context: its hang count and the deadline of its pre-emption (R39, R341). -/
def Context.count (c : Context) (warps : Bool) : Context :=
  { c with
    hangCount := if warps && !c.halted then c.hangCount + 1 else c.hangCount
    preempt := c.preempt.map fun p => if p.level = 1 then { p with drain := p.drain - 1 } else { p with save := p.save - 1 } }

/-- One clk of a launch: its deadline unless its context is halted, and its time slices (R41, R329). -/
def State.countLaunch (s : State) (key : Nat) (l : Launch) : Launch :=
  let halted := (mapFind s.ctxs l.ctx).any fun c => c.halted
  let here := fun (core : Nat) => s.blocks.any fun b => decide (b.2.launch = key ∧ b.2.core = core)
  { l with
    deadline := if halted then l.deadline else l.deadline.map fun n => n - 1
    slice := if s.runs l.ctx then mapAll l.slice fun core n => if here core then n + 1 else n else l.slice }

/-- Every counter of the package advances by one clk. -/
def State.count (s : State) : State :=
  { s with
    clk := s.clk + 1
    used := []
    arn := { s.arn with statusNew := 0 }
    xlat := { s.xlat with invalNew := 0, staleNew := false }
    warps := mapAll s.warps fun _ w =>
      if w.flagsNew = 0 ∧ !w.trapNew then w else { w with flagsNew := 0, trapNew := false }
    blocks := mapAll s.blocks fun _ b => if s.runs b.ctx then b.count else b
    ctxs := mapAll s.ctxs fun n c => c.count (s.hasWarps n)
    launches := mapAll s.launches fun k l => s.countLaunch k l }

/-! ### Engines and fabric -/

/-- The matrix engines, copy engines and grid sources work for one clk. -/
def State.workEngines (s : State) : State :=
  let s := (s.cores.filter fun c => !c.2.tests.isEmpty).foldl (fun s c => s.heldTests c.1) s
  let s := (s.cores.filter fun c => !c.2.ops.isEmpty).foldl (fun s c => s.engineTick c.1) s
  let s := s.blocks.foldl (fun s b => s.copyTick b.1) s
  s.fab.gridOps.foldl
    (fun s g =>
      match mapFind s.fab.gridOps g.1 with
      | some op => s.gridStep g.1 op
      | none => s)
    s

/-- A remote access waits for the resume of its context (R266). -/
def State.remoteParked (s : State) (r : Remote) : Bool :=
  r.parked &&
  (match s.boundCtx r.frame.gtid r.frame.gen with
   | some c => s.engineStopped c
   | none => false)

/-- This module receives its own frames, takes launch records that waited, and goes on with remote accesses. -/
def State.workFabric (s : State) : State :=
  let own := s.fab.loop
  let s := own.foldl (fun s f => s.receiveOwn f) { s with fab := { s.fab with loop := [] } }
  let held := s.fab.held
  let s := { s with fab := { s.fab with held := [] } }.takeHeld held
  (s.fab.remote.filter fun r => r.2.wait.isNone && !(s.remoteParked r.2)).foldl (fun s r => s.runRemote gridAtom r.1) s

/-- Nodes look at their rings, and waiting fault records at their queues (R264, R323). -/
def State.workRings (s : State) : State :=
  let s := s.nodes.foldl
    (fun s n =>
      match mapFind s.nodes n.1 with
      | some x => s.nodeTick n.1 x
      | none => s)
    s
  if s.clk % 2 ^ 16 = 0 then (s.ctxs.map Prod.fst).foldl (fun s c => s.retryFaults c) s else s

/-! ### Events that come due -/

/-- What ends or moves contexts: the watchdogs, then pre-emption (Table 14.2 rows 1 to 4). -/
def State.ctxEvents (s : State) (n : Nat) (c : Context) : List Instr :=
  (if (s.barrierDue n c).isSome then [.barrierTimeoutWatchdog n] else []) ++
  (if s.hangDue n c then [.hangWatchdog n] else []) ++
  (match c.preempt with
   | some p =>
     if p.level = 1 then (if p.drain = 0 then [.drainDeadline n] else [])
     else .preciseSave n :: (if p.save = 0 then [.saveDeadline n] else [])
   | none => if c.saved && !c.parked && !c.dead && s.ckpt.isNone then [.contextResume n] else [])

/-- The deadline and time slices of a launch, which come after what the warps do in the same clk (Table 14.2 rows 5
and 6). -/
def State.lateEvents (s : State) : List Instr :=
  s.launches.flatMap fun e =>
    (if e.2.deadline = some 0 then [.launchDeadline e.1] else []) ++
    e.2.slice.filterMap fun x => if e.2.tslice ≠ 0 ∧ x.2 = e.2.tslice then some (.timeSliceExpiry e.1 x.1) else none

/-- The start barrier of a launch (R32) and its wait for a core (R324). -/
def State.launchEvents (s : State) (k : Nat) (l : Launch) : List Instr :=
  (match l.stage with
   | .waiting t => if t + 2 ^ 27 ≤ s.clk then [.startBarrierTimeout k] else []
   | .placing => []) ++
  (match l.waitSince with
   | some t => if t + 2 ^ 20 ≤ s.clk && !l.holds then [.placementWaitExpiry k] else []
   | none => [])

/-- The events of a warp: the end of a yield, and of a wait at rendezvous (R138, R202). -/
def State.warpEvents (s : State) (k : Nat) (w : Warp) : List Instr :=
  (if w.yieldUntil ≠ 0 ∧ w.yieldUntil ≤ s.clk then [.yldExpiry k] else []) ++
  (match w.waitingMmap with
   | some r => if s.mmapOver k w r then [.mmapRendezvousTimeout k] else []
   | none => [])

/-- Sectors that have been dirty for 2^16 clk (R253). -/
def State.l1Events (s : State) : List Instr :=
  s.mem.l1.flatMap fun e =>
    e.2.filterMap fun x => if x.old s.clk then some (.l1WritebackTimeout e.1 x.va) else none

/-- Frames to send again, and reductions that have waited for too long (R245, R379). -/
def State.fabricEvents (s : State) : List Instr :=
  (s.fab.tx.filterMap fun t => if t.2.sent + s.rtoClk ≤ s.clk then some (.retransmissionTimeout t.1) else none) ++
  s.fab.reds.filterMap fun r => if r.2.since + 2 ^ 30 ≤ s.clk then some (.reductionTimeout r.1) else none

/-- A blocked queue: its WAITMEM is read again every 1,024 clk, and other packets are tried again every 64 (R315,
R321). -/
def State.queueEvents (s : State) (q : Nat) (x : Queue) : List Instr :=
  if !x.blocked || !s.arn.enable then []
  else if (s.headPacket q).any fun p => p.is 0x0D then
    match s.waitmemDue q with
    | some t => if t ≤ s.clk then [.waitmemTimeout (BitVec.ofNat 8 q)] else
      if s.clk % 1024 = 0 then [.waitmemPoll (BitVec.ofNat 8 q)] else []
    | none => if s.clk % 1024 = 0 then [.waitmemPoll (BitVec.ofNat 8 q)] else []
  else if s.clk % 64 = 0 then [.packetUnblock (BitVec.ofNat 8 q)]
  else []

/-- The events of what the package has one of: invalidation, scrub, checkpoint, placement and Arnal's round. -/
def State.deviceEvents (s : State) : List Instr :=
  (if s.xlat.inval.isSome then [.invalidationComplete] else []) ++
  (match s.scrubNow with
   | some x =>
     if s.arn.bstate ≠ 1 then []
     else if x.todo = [] ∧ x.rest = [] then [.scrubReceipt]
     else if s.scrubs then [.scrubFrame]
     else []
   | none => []) ++
  (match s.ckpt with
   | some c => if c.phase ≤ 1 then [.checkpointStream] else [.checkpointFinish]
   | none => []) ++
  (if s.ckpt.isNone && !s.placeOrder.isEmpty then [.blockPlacement] else []) ++
  (if s.arn.queues.any fun q => (s.readyPacket q.1).isSome then [.arnalRound] else [])

/-- Every event that has come due. -/
def State.dueEvents (s : State) : List Instr :=
  (s.ctxs.flatMap fun c => s.ctxEvents c.1 c.2) ++ (s.launches.flatMap fun l => s.launchEvents l.1 l.2) ++
  (s.warps.flatMap fun w => s.warpEvents w.1 w.2) ++ s.l1Events ++ s.fabricEvents ++
  (s.arn.queues.flatMap fun q => s.queueEvents q.1 q.2) ++ s.deviceEvents

/-- Every 2^24 clk the health block is written again (R398). -/
def State.healthTick (s : State) : State :=
  if s.arn.bstate = 1 ∧ s.clk % 2 ^ 24 = 0 then
    let (x, s) := s.freeSensors
    s.renewHealth x
  else s

/-- What the package does in a clk: engines, fabric, rings, the events that come due, and the picks. -/
def State.work (s : State) : State :=
  let s := s.workEngines.workFabric.workRings
  { s.postAll s.dueEvents with late := s.lateEvents }.makePicks

/-- Advance the package by one clk and choose the warps that issue in it. A tripped package stands still, and the clk in
which it trips does nothing more (R400). -/
def State.tick (s : State) : State :=
  if s.health.tripped then { s with clk := s.clk + 1 }
  else
    let s := s.count.healthTick
    if s.health.tripped then s else s.work

end Sys2Proof.Machine
end

