-- ==== Sys2Proof/Machine/Step.lean ====
section
/-! DEFINITION. One step of the machine: the oldest event that has come due, else the next picked warp, else a deadline
or time slice of the clk (R330), else one clk (log 3). -/
namespace Sys2Proof.Machine

/-- One step. A package that has tripped drops every happening but a cold boot (R400). -/
def step (s : State) : Host.Outcome State Fault Refusal :=
  match s.inbox with
  | e :: r => if s.holdsStill e then .next { s with inbox := r } else exec e { s with inbox := r, cur := none }
  | [] =>
    match s.picks with
    | k :: r => issueWarp exec { s with picks := r } k
    | [] =>
      match s.late with
      | e :: r => exec e { s with late := r, cur := none }
      | [] => .next s.tick

/-- The state with one instruction loaded where the next step fetches it (log 1). -/
def State.withFetchWord (s : State) (nbits w : Nat) : State := s.place (leBytes 20 (w % 2 ^ nbits))

end Sys2Proof.Machine
end

