-- ==== Sys2Proof/Safety.lean ====
section
/-! DEFINITION. What counts as a safe run, and the terms that claims about an instruction are stated in: the issuer and
its effective mask, the conditions under which an instruction runs, and the state in which its slot goes on. -/
namespace Sys2Proof.Machine

/-- Physical memory is in its canonical form. -/
def State.memOk (s : State) : Prop := s.mem.wf = true

/-- A step that neither faults nor refuses. -/
def State.completes (s : State) : Prop := ∃ t, step s = .next t

/-! ### The issue of an instruction -/

/-- What a native instruction with these fields is given when `is` issues (R78). -/
def State.nat (s : State) (is : Issue) (f : Fields) : Env :=
  s.env is fun w => guardOf w f.pg.toNat (f.pn == 1#1)

/-- What a forerunner instruction is given: its active lanes (R102). -/
def State.fr (s : State) (is : Issue) (f : FrFields) : Env :=
  s.env is fun w => guardOf w f.pg.toNat (f.pn == 1#1) &&& w.zeroNest

/-- What a forerunner control instruction or the event of a bad word is given: the whole slot. -/
def State.whole (s : State) (is : Issue) : Env := s.env is fun _ => BitVec.allOnes 64

/-- A resident warp issues the instruction. -/
def Env.Issues (en : Env) : Prop := en.s.cur = some en.is ∧ mapFind en.s.warps en.key = some en.w

/-- A resident warp issues the instruction with a lane in its effective mask. -/
def Env.Acts (en : Env) : Prop := en.Issues ∧ en.e ≠ 0

/-- Going on at an address stays within pages of one code kind (R99). -/
def Env.Stays (en : Env) (pc : Word) : Prop := en.s.kindDiffers en.ctx en.is.fr en.is.pc pc = false

/-- An instruction acts, and the instruction after it lies in a page of the same code kind. -/
def Env.Runs (en : Env) : Prop := en.Acts ∧ en.Stays en.fall

/-- The state in which the issuing slot goes on at an address. -/
def Env.goesTo (en : Env) (t : State) (pc : Word) : State :=
  (t.modWarp en.key fun w => w.setSlot en.k { (w.slot en.k).issued en.is with pc, wait := none }).retired en.ctx

/-- The state in which the issuing slot goes on after its instruction. -/
def Env.goesOn (en : Env) (t : State) : State := en.goesTo t en.fall

/-- The instruction's whole effect is that the warp becomes `w`, and the slot goes on. -/
def Env.gives (en : Env) (w : Warp) : State := en.goesOn (en.put w)

/-- The instruction's whole effect is a result on each lane of its effective mask, in v[D] or the pair at D, with the
flags that those lanes raise. -/
def Env.lanesGive (en : Env) (wide : Bool) (d : Nat) (r : Nat → Word × FlagSet) : State :=
  en.gives ((en.w.putV wide d en.e fun i => (r i).1).raiseFlags (flagsOf en.e fun i => (r i).2))

/-- Resolve finds nothing to do: both slots are live and not both are parked, or slot 0 runs alone and the stack is
empty (R16). -/
def Warp.Rests (w : Warp) : Prop :=
  w.s0.live = true ∧
    ((w.s1.live = true ∧ ¬(w.s0.parked = true ∧ w.s1.parked = true)) ∨
     (w.s1.live = false ∧ w.s0.parked = false ∧ w.dstkSp = (w.getC 15).base))

/-- The matrix engine of the issuer's core has accepted an operation with a new handle in h[d] (R188, R189). -/
def Env.Accepted (en : Env) (t : State) (d grp fn : Nat) (desc : Option (Nat × Nat × Nat)) (kind : EngineKind) : Prop :=
  let v := handleValue grp fn en.w.nextSerial
  (∃ o : EngineOp, (t.core en.block.core).ops = (en.s.core en.block.core).ops ++ [o] ∧ o.kind = kind ∧
    o.uid = en.s.nextOp ∧ o.warp = en.key ∧ o.block = en.bk ∧ o.ctx = en.ctx ∧ o.slot = en.k ∧ o.value = v ∧
    o.batch = en.w.batch + 1 ∧ o.running = false ∧ o.progress = 0) ∧
  mapFind t.warps en.key =
    some ({ en.w with serial := en.w.nextSerial }.setH d { value := v, uid := en.s.nextOp }) ∧
  mapFind t.ops en.s.nextOp =
    some { state := 0, warp := en.key, value := v, batch := en.w.batch + 1, desc, grp }

/-- The slot that issued the instruction waits, and nothing else has changed. -/
def Env.waitsOn (en : Env) (t : State) (x : Wait) : State :=
  t.modWarp en.key fun w => w.setSlot en.k { w.slot en.k with wait := some x }

/-- What a step makes of what a picked warp issued (R34): a pick that contends with the pick of its partition that has
issued in the clk has no effect but its loss; else the registers that it wrote lose their errors (R396), and its issue
counts. `t` is the state after its instructions were fetched. -/
def Warp.settled (w : Warp) (key : Nat) (p : Plan) (t : State) (o : Out) : Out :=
  match o with
  | .next v =>
    let moved := decide (v.stackAt key ≠ some w.dstkSp) && (v.stackAt key).isSome
    let u := (p.instrs.flatMap (pickUnits moved), p.instrs.flatMap vReads)
    if t.used.any fun x => t.samePart x.1 key && contend x.2 u then .next (t.noteLoss key)
    else .next ((v.mend key p.instrs).noteIssue key u (p.holdsPort u.2))
  | .fault x => .fault x
  | .refused x => .refused x

/-! ### Packets -/

/-- A packet as the lane that takes it up reads it. -/
def State.pk (s : State) (p : Packet) : Pk :=
  { q := p.queue.toNat, head := p.head, words := p.words.map BitVec.toNat, queue := s.queue p.queue.toNat }

/-- A packet of an opcode stands whole at the head of a queue in service, passes the checks of R312 on its header, and
nothing holds it there (R316, R368, R393). -/
def State.takes (s : State) (p : Packet) (op : Nat) : Prop :=
  s.serves p = true ∧ (s.pk p).whole = true ∧ (s.pk p).f 0 0 8 = op ∧ headerError (s.pk p) = none ∧
  s.holdsPacket op = false ∧
  ((s.pk p).ser = false ∨ (s.queue p.queue.toNat).stage ≠ 0 ∨ s.queueBusy p.queue.toNat = false)

end Sys2Proof.Machine

namespace Sys2Proof
open Sys2Proof.Machine

/-- The packet's execution ends in a state, and it retires: head moves past it (R311). -/
def Packet.retires (p : Packet) (t : State) : Out :=
  .next (t.moveHead p.queue.toNat (p.head + BitVec.ofNat 32 p.words.length) 1)

/-- The packet waits at the head of its queue, at a stage of its execution. -/
def Packet.waits (p : Packet) (t : State) (stage : Nat) : Out :=
  .next (t.putQueue p.queue.toNat { t.queue p.queue.toNat with blocked := true, stage })

/-- The packet is a command error, and its queue halts (R326). -/
def Packet.errs (p : Packet) (s t : State) (code : Nat) : Out :=
  .next (t.commandError p.queue.toNat p.head (s.pk p).tag code)

end Sys2Proof

namespace Sys2Proof.Machine

/-! ### Numbers -/

/-- The magnitude that a code of a format stands for, with the exponent field taken as unbounded (R48 to R51). -/
def magOf (f : FFmt) (c : Nat) : ℚ :=
  if c / 2 ^ f.mb = 0 then (c % 2 ^ f.mb : ℕ) * (2 : ℚ) ^ (1 - (f.bias : ℤ) - f.mb)
  else ((2 ^ f.mb + c % 2 ^ f.mb : ℕ) : ℚ) * (2 : ℚ) ^ ((c / 2 ^ f.mb : ℕ) - (f.bias : ℤ) - f.mb)

end Sys2Proof.Machine
end

