-- ==== Sys2Proof/Certificates/Slice0/Obligations.lean ====
section
/-! DEFINITION. The statements for the provers: what the rules of the manual say of the instructions, events and
encodings, as propositions about `exec`, `step` and the decoder. -/

open Sys2Proof Sys2Proof.Machine

/-- R109, R110: the result of each scalar base major, for every form that its encoding admits. -/
def Obligations.ScalarBaseMajorsCompleteWithTheirResults : Prop :=
  ∀ (f : Fields) (s : State) (is : Issue), (s.nat is f).Runs →
    let en := s.nat is f
    let w := if (btype f).testBit 1 then 32 else 64
    let uns := (btype f).testBit 0
    let a := en.sA f
    let b := en.scalarB f
    let x := toInt w uns a.toNat
    let y := toInt w uns b.toNat
    let n := b.toNat
    let lo : Nat := a.toNat % 2 ^ w
    let min : Int := if uns then 0 else -2 ^ (w - 1)
    let max : Int := if uns then 2 ^ w - 1 else 2 ^ (w - 1) - 1
    let ends := fun (r : Int) =>
      let sat := (btype f).testBit 2
      let c := if sat ∧ r < min then min else if sat ∧ max < r then max else r
      let res := (c % 2 ^ w).toNat
      let word : Word := if w = 64 ∨ uns then BitVec.ofNat 64 res else (BitVec.ofNat 32 res).signExtend 64
      (Host.Outcome.next (en.gives ((en.w.setS f.d.toNat word).raiseFlags
        (if sat ∧ (r < min ∨ max < r) then 8 else 0))) : Out)
    let quotient : Int := if y = 0 then (if uns then max else -1)
      else if uns = false ∧ x = min ∧ y = -1 then min else x.tdiv y
    exec (.sadd f) s = ends (x + y) ∧ exec (.ssub f) s = ends (x - y) ∧ exec (.smul f) s = ends (x * y) ∧
    exec (.smulh f) s = ends (x * y / 2 ^ w) ∧ exec (.sand f) s = ends ((a &&& b).toNat : Int) ∧
    exec (.sor f) s = ends ((a ||| b).toNat : Int) ∧ exec (.sxor f) s = ends ((a ^^^ b).toNat : Int) ∧
    exec (.smov f) s = ends (a.toNat : Int) ∧
    exec (.smin f) s = ends (if x ≤ y then x else y) ∧ exec (.smax f) s = ends (if x ≤ y then y else x) ∧
    exec (.sdiv f) s = ends quotient ∧
    exec (.srem f) s = ends (if y = 0 then x else if uns = false ∧ x = min ∧ y = -1 then 0 else x - y * quotient) ∧
    exec (.sshl f) s = ends (if w ≤ n then 0 else x * 2 ^ n) ∧
    exec (.sshr f) s = ends (if w ≤ n then 0 else ((lo / 2 ^ n : Nat) : Int)) ∧
    exec (.ssra f) s = ends (signed w a.toNat / 2 ^ (if n ≤ w - 1 then n else w - 1)) ∧
    exec (.srot f) s =
      ends ((lo * 2 ^ (n % w) % 2 ^ w + lo / 2 ^ (w - n % w) : Nat) : Int)

/-- R112 to R117: the scalar miscellaneous group. A result bit of SBFE or SBFI is stated bit by bit. R117, R118, R120,
R121: comparisons and predicates. `.lane` writes only the bits of the effective mask. -/
def Obligations.ScalarMiscellaneousAndPredicatesComplete : Prop :=
  (∀ (f : Fields) (s : State) (is : Issue), (s.nat is f).Runs →
    let en := s.nat is f
    let writes := fun (i : Instr) (x : Word) => exec i s = .next (en.gives (en.w.setS f.d.toNat x))
    let a := en.sA f
    let n := if mb f 1 then 32 else 64
    let pos := if mb f 1 then min (en.sB f).toNat 64 else f.w2.toNat % 64
    let len := if mb f 1 then min (en.sC f).toNat 64 else f.w2.toNat / 256 % 128
    (∃ x : Word, writes (.sclz f) x ∧
      x.toNat ≤ n ∧ (∀ i, n - x.toNat ≤ i → i < n → a.getLsbD i = false) ∧
      (x.toNat < n → a.getLsbD (n - 1 - x.toNat) = true)) ∧
    writes (.spopc f) (BitVec.ofNat 64 (((List.range n).filter fun i => a.getLsbD i).length)) ∧
    (len ≤ 64 → ∃ x : Word, writes (.sbfe f) x ∧
      (∀ i < 64, x.getLsbD i = (if i < len then a.getLsbD (pos + i)
        else mb f 0 && decide (0 < len) && a.getLsbD (pos + len - 1)))) ∧
    (∃ x : Word, writes (.sbfi f) x ∧
      (∀ i < 64, x.getLsbD i = (if pos ≤ i ∧ i < pos + len then a.getLsbD (i - pos)
        else (en.w.getS f.d.toNat).getLsbD i))) ∧
    writes (.ssel f) (if en.w.getP f.c.toNat &&& en.e = 0 then en.sB f else a) ∧
    writes (.sli f) (if f.form = .extLit then f.lit
      else if mb f 0 then f.w2 ++ (en.w.getS f.d.toNat).extractLsb' 0 32 else f.w2.signExtend 64) ∧
    writes (.slea f) ((if mb f 3 then is.pc else a) +
      (if mb f 4 then (if f.form = .extLit then f.lit else f.w2.signExtend 64) else en.sB f) *
        BitVec.ofNat 64 (2 ^ (f.mod.toNat % 8)))) ∧
  (∀ (f : Fields) (s : State) (is : Issue), (s.nat is f).Runs →
    let en := s.nat is f
    let d := f.d.toNat
    let p := en.w.getP f.a.toNat
    let writes := fun (i : Instr) (lane : Bool) (x : Word) =>
      exec i s = .next (en.gives (en.w.setP d (if lane then (en.w.getP d &&& ~~~en.e) ||| (x &&& en.e) else x)))
    let b : Word :=
      if baseImm f then (if f.form = .ext then f.w2.signExtend 64 else f.lit)
      else if bsel f = 1 then en.sB f else en.w.getP f.b.toNat
    let lane := decide (btype f = 1)
    let y := if mb f 4 then (if f.form = .extLit then f.lit else f.w2.signExtend 64) else en.sB f
    let x := en.sA f
    let holds : Bool := match f.mod.toNat % 8 with
      | 0 => decide (x = y)
      | 1 => decide (x ≠ y)
      | 2 => if mb f 3 then x.ult y else x.slt y
      | 3 => if mb f 3 then x.ule y else x.sle y
      | 4 => if mb f 3 then y.ult x else y.slt x
      | _ => if mb f 3 then y.ule x else y.sle x
    let m := if mb f 0 then p &&& en.e else p
    (baseImm f = true → f.form ≠ .base) →
    writes (.pand f) lane (p &&& b) ∧ writes (.por f) lane (p ||| b) ∧ writes (.pxor f) lane (p ^^^ b) ∧
    writes (.pandn f) lane (p &&& ~~~b) ∧ writes (.pnot f) (mb f 0) (~~~p) ∧
    (mb f 1 = false → writes (.pmov f) (mb f 0) p) ∧
    (mb f 1 = true → exec (.pmov f) s = .next (en.gives (en.w.setS d p))) ∧
    writes (.pset f) (mb f 0) (if mb f 1 then f.w2.signExtend 64 else x) ∧
    writes (.scmp f) (mb f 5) (cond holds (BitVec.allOnes 64) 0) ∧
    exec (.pcnt f) s =
      .next (en.gives (en.w.setS d (BitVec.ofNat 64 ((List.range 64).filter fun i => m.getLsbD i).length))) ∧
    exec (.pff f) s =
      .next (en.gives (en.w.setS d (BitVec.ofNat 64 (((List.range 64).find? fun i => m.getLsbD i).getD 64)))))

/-- R123, R124: the uniform branches and calls move the slot's PC, and nothing else but the return address. -/
def Obligations.UniformBranchesMoveThePc : Prop :=
  ∀ (f : Fields) (s : State) (is : Issue), (s.nat is f).Acts →
    let en := s.nat is f
    let goes := fun (i : Instr) (t : State) (pc : Word) => en.Stays pc → exec i s = .next (en.goesTo t pc)
    let target := if f.form = .extLit then f.lit else is.pc + f.w2.signExtend 64
    let reg := en.sA f &&& ~~~3#64
    let after := is.pc + BitVec.ofNat 64 is.len
    let linked := en.put (en.w.setS f.d.toNat after)
    let p := en.w.getP f.a.toNat
    goes (.bra f) s target ∧
    (f.mod = 0 → goes (.brc f) s (if p &&& en.e ≠ 0 then target else after)) ∧
    (f.mod = 1 → goes (.brc f) s (if en.e &&& ~~~p = 0 then target else after)) ∧
    (f.mod = 2 → goes (.brc f) s (if p &&& en.e = 0 then target else after)) ∧
    goes (.call f) linked target ∧ goes (.callx f) linked reg ∧ goes (.ret f) s reg ∧ goes (.jmpx f) s reg

/-- R12, R13, R126: BRV falls through, jumps, splits into an empty slot, or pushes the path of the greatest rpc. R16,
R127: an RCV that is not the slot's reconvergence point is passed; else the slot parks. It waits for a slot that runs,
and merges with one that is parked there. Alone, it goes past its RCV, or takes the path on top of the stack into the
other slot, merging with it where that is parked at the same RCV; a record that is no usable path is the fault,
without effect. Beside a slot that is parked elsewhere, it exchanges with a top record that is parked at either point,
or the slot of the smaller rpc goes on. That the fault names the slot's effective lanes is the model's reading (log
32). R16, R128: EXIT takes its lanes from the slot and from warp.lanes. A slot with no lane left ends: the other slot
goes on, past its RCV if it is parked, or beside the path on top of the stack; with no other slot the path on top
runs; and a warp with neither ends. -/
def Obligations.DivergentPathsSplitMergeAndEnd : Prop :=
  (∀ (f : Fields) (s : State) (is : Issue), (s.nat is f).Acts → is.slot < 2 →
    let en := s.nat is f
    let k := is.slot
    let t := en.e &&& en.w.getP f.a.toNat
    let n := en.sl.mask &&& ~~~t
    let target := is.pc + f.w2.signExtend 64
    let rpc := is.pc + ((f.mod ++ f.c ++ f.b : BitVec 23).signExtend 64) * 4
    let taken : Slot := { live := true, pc := target, mask := t, rpc }
    let rest : Slot := { live := true, pc := en.fall, mask := n, rpc }
    let o := en.w.slot (1 - k)
    let both := fun (x y : Slot) (sp : Word) =>
      { en.w with s0 := (if k = 0 then x else y), s1 := (if k = 0 then y else x), dstkSp := sp }
    (t = 0 → en.Stays en.fall → exec (.brv f) s = .next (en.goesOn s)) ∧
    (t ≠ 0 → n = 0 → en.Stays target → exec (.brv f) s = .next (en.goesTo s target)) ∧
    (t ≠ 0 → n ≠ 0 → en.Stays target → en.Stays en.fall →
      t ||| n = en.sl.mask ∧ t &&& n = 0 ∧
      (o.live = false →
        exec (.brv f) s = .next ((en.put (both taken rest en.w.dstkSp)).retired en.ctx)) ∧
      (o.live = true → ∀ u,
        let other := decide (rpc.toNat ≤ o.rpc.toNat)
        en.s.stackWrite en.who en.w en.w.dstkSp [if other then o.path else rest.path] = (.ok (), u) →
        exec (.brv f) s = .next
          ((u.putWarp is.warp (both taken (if other then rest else o) (en.w.dstkSp + 32))).retired en.ctx)))) ∧
  (∀ (f : Fields) (s : State) (is : Issue), (s.nat is f).Acts → is.slot < 2 →
    let en := s.nat is f
    let parked : Slot := { en.sl.issued is with parked := true, wait := none }
    let o := en.w.slot (1 - is.slot)
    let w := en.w.setSlot is.slot parked
    (en.sl.rpc ≠ is.pc → en.Stays en.fall → exec (.rcv f) s = .next (en.goesOn s)) ∧
    (en.sl.rpc = is.pc → en.sl.live = true → o.live = true → o.parked = false →
      exec (.rcv f) s = .next ((en.put w).retired en.ctx)) ∧
    (en.sl.rpc = is.pc → en.sl.live = true → en.sl.pc = is.pc → o.live = true → o.parked = true → o.pc = is.pc →
      en.w.dstkSp = (en.w.getC 15).base → ∀ outer nxt t,
        s.rcvAt is.warp w is.pc = (.ok (outer, nxt), t) →
        t.kindDiffers (t.ctxOf (warpBlock is.warp)) false is.pc nxt = false →
        exec (.rcv f) s = .next ((t.putWarp is.warp
          { w with
            s0 := { w.s0 with mask := en.sl.mask ||| o.mask, pc := nxt, rpc := outer, parked := false, windows := [] }
            s1 := {} }).retired en.ctx)) ∧
    (en.sl.rpc = is.pc → en.sl.live = true → en.sl.pc = is.pc →
      let sp := en.w.dstkSp
      let empty := sp = (en.w.getC 15).base
      let usable := fun (r : Rec) (x : Slot) => r.kind = 0 ∧ r.mask ≠ 0 ∧ r.mask &&& ~~~en.w.lanes = 0 ∧ r.rsvd = 0 ∧
        r.auxLo = 0 ∧ r.auxHi = 0 ∧ r.mask &&& x.mask = 0
      let loaded := fun (r : Rec) =>
        ({ live := true, parked := r.flagP, pc := r.pc, mask := r.mask, rpc := r.rpc } : Slot)
      let same := fun (t : State) (a nxt : Word) => t.kindDiffers (t.ctxOf (warpBlock is.warp)) false a nxt = false
      (o.live = false →
        let u := if is.slot = 0 then w else { w with s0 := parked, s1 := {} }
        (empty → ∀ outer nxt t, s.rcvAt is.warp u is.pc = (.ok (outer, nxt), t) → same t is.pc nxt →
          exec (.rcv f) s = .next
            ((t.putWarp is.warp { u with s0 := { parked with rpc := outer, pc := nxt, parked := false } }).retired en.ctx)) ∧
        (¬empty → ∀ r t, s.stackRead en.who u (sp - 32) = (.ok r, t) →
          (usable r parked → r.flagP = false →
            exec (.rcv f) s = .next
              ((t.putWarp is.warp { u with dstkSp := sp - 32, s1 := loaded r }).retired en.ctx)) ∧
          (usable r parked → r.flagP = true → r.pc = is.pc → sp - 32 = (en.w.getC 15).base → ∀ outer nxt t1,
            t.rcvAt is.warp { u with dstkSp := sp - 32, s1 := loaded r } is.pc = (.ok (outer, nxt), t1) →
            same t1 is.pc nxt →
            exec (.rcv f) s = .next ((t1.putWarp is.warp
              { u with
                dstkSp := sp - 32, s1 := {}
                s0 := { parked with
                  mask := parked.mask ||| r.mask, rpc := outer, pc := nxt, parked := false, windows := [] } }).retired
              en.ctx)) ∧
          (r.kind = 0 → ¬usable r parked →
            exec (.rcv f) s = .next (en.raise (t.putWarp is.warp en.w) { cause := 0x05, addr := sp - 32, lanes := en.e })))) ∧
      (o.live = true → o.parked = true → o.pc ≠ is.pc →
        let k := if w.s1.rpc.toNat < w.s0.rpc.toNat then 1 else 0
        let x := w.slot k
        let goes := fun (t : State) => ∀ outer nxt t1, t.rcvAt is.warp w x.pc = (.ok (outer, nxt), t1) → same t1 x.pc nxt →
          exec (.rcv f) s = .next
            ((t1.putWarp is.warp (w.setSlot k { x with rpc := outer, pc := nxt, parked := false })).retired en.ctx)
        (empty → goes s) ∧
        (¬empty → ∀ r t, s.stackRead en.who w (sp - 32) = (.ok r, t) →
          (r.kind ≠ 0 ∨ r.flagP = false ∨ (r.pc ≠ w.s0.pc ∧ r.pc ≠ w.s1.pc) → goes t) ∧
          (r.flagP = true → r.pc = w.s0.pc ∨ r.pc = w.s1.pc →
            let j := if r.pc = w.s0.pc then 1 else 0
            let out := w.slot j
            let v := w.setSlot j (loaded r)
            let m := v.s0.mask ||| v.s1.mask
            usable r (w.slot (1 - j)) → out.mask ≠ 0 → out.mask &&& ~~~en.w.lanes = 0 → out.mask &&& m = 0 →
            ∀ l t1 outer nxt t2,
              t.stackChecks en.who w (sp - 32)
                [{ pc := out.pc, mask := out.mask, rpc := out.rpc, flagP := true }] = (.ok l, t1) →
              t1.rcvAt is.warp v r.pc = (.ok (outer, nxt), t2) → same t2 r.pc nxt →
              exec (.rcv f) s = .next (((t2.stackStore en.who l).putWarp is.warp
                { v with
                  dstkSp := sp - 32
                  s0 := { v.s0 with mask := m, rpc := outer, pc := nxt, parked := false, windows := [] }
                  s1 := { live := true, parked := true, pc := out.pc, mask := out.mask, rpc := out.rpc } }).retired
                en.ctx)))))) ∧
  (∀ (f : Fields) (s : State) (is : Issue), (s.nat is f).Acts → is.slot < 2 → (s.nat is f).sl.live = true →
    let en := s.nat is f
    let m := en.sl.mask &&& ~~~en.e
    let left : Slot := { en.sl.issued is with mask := m, pc := en.fall, wait := none }
    let w := { en.w with lanes := en.w.lanes &&& ~~~en.e }
    (m ≠ 0 → en.Stays en.fall → (w.setSlot is.slot left).Rests →
      exec (.exit f) s = .next ((en.put (w.setSlot is.slot left)).retired en.ctx)) ∧
    (m = 0 → en.w.dstkSp = (en.w.getC 15).base → (en.w.slot (1 - is.slot)).live = false →
      exec (.exit f) s = .next (((en.put (w.setSlot is.slot {})).endWarp is.warp).retired en.ctx)) ∧
    (m = 0 →
      let o := en.w.slot (1 - is.slot)
      let sp := en.w.dstkSp
      let empty := sp = (en.w.getC 15).base
      let usable := fun (r : Rec) => r.kind = 0 ∧ r.mask ≠ 0 ∧ r.mask &&& ~~~w.lanes = 0 ∧ r.rsvd = 0 ∧
        r.auxLo = 0 ∧ r.auxHi = 0
      let loaded := fun (r : Rec) =>
        ({ live := true, parked := r.flagP, pc := r.pc, mask := r.mask, rpc := r.rpc } : Slot)
      let ends := fun (t : State) (u : Warp) => exec (.exit f) s = .next ((t.putWarp is.warp u).retired en.ctx)
      (o.live = true →
        let u := { w with s0 := o, s1 := {} }
        (empty → o.parked = false → ends s u) ∧
        (empty → o.parked = true → ∀ outer nxt t, s.rcvAt is.warp u o.pc = (.ok (outer, nxt), t) →
          t.kindDiffers (t.ctxOf (warpBlock is.warp)) false o.pc nxt = false →
          ends t { u with s0 := { o with rpc := outer, pc := nxt, parked := false } }) ∧
        (¬empty → ∀ r t, s.stackRead en.who u (sp - 32) = (.ok r, t) →
          (usable r → r.mask &&& o.mask = 0 → ¬(o.parked = true ∧ r.flagP = true) →
            ends t { u with dstkSp := sp - 32, s1 := loaded r }) ∧
          (r.kind ≠ 0 → o.parked = false → ends t u))) ∧
      (o.live = false → ¬empty →
        let u := w.setSlot is.slot {}
        ∀ r t, s.stackRead en.who u (sp - 32) = (.ok r, t) →
          (usable r → r.flagP = false → sp - 32 = (en.w.getC 15).base →
            ends t { u with dstkSp := sp - 32, s0 := loaded r }) ∧
          (r.kind ≠ 0 → exec (.exit f) s = .next (((t.putWarp is.warp u).endWarp is.warp).retired en.ctx)))))

/-- R4, R136 to R140 and Table 1.9: NOP, CLOCK, CSRR and CSRW, and what each control register reads as. R138: YLD
keeps the warp from being ready for the n clk after its issue, and the event at their end makes it ready again;
nothing else changes. The clk at which a yield ends is the model's own register (log 3). So is where in the order a
yielded warp stands, and that its end comes as an event, which changes nothing before its clk (log 38). -/
def Obligations.ControlRegistersClockAndYieldComplete : Prop :=
  (∀ (f : Fields) (s : State) (is : Issue), (s.nat is f).Runs →
    let en := s.nat is f
    let w := en.w
    let b := s.block (warpBlock is.warp)
    let j := s.jobOf (warpBlock is.warp)
    let i := f.w2.toNat % 4096
    let nat := fun (n : Nat) => BitVec.ofNat 64 n
    let a := en.sA f
    exec (.nop f) s = .next (en.goesOn s) ∧
    exec (.clock f) s = .next (en.gives (w.setS f.d.toNat (nat s.clk))) ∧
    (f.mod = 0 → exec (.csrr f) s = .next (en.gives (w.setS f.d.toNat (en.csr i 0)))) ∧
    (f.mod = 1 → exec (.csrr f) s =
      .next (en.gives (w.setV f.d.toNat en.e fun l => (en.csr i l).extractLsb' 0 32))) ∧
    (f.mod = 2 → exec (.csrr f) s = .next (en.gives (w.setV2 f.d.toNat en.e fun l => en.csr i l))) ∧
    (∀ l, en.csr 0x000 l = nat l ∧ en.csr 0x001 l = nat (is.warp % 64) ∧ en.csr 0x002 l = nat b.idx ∧
      en.csr 0x003 l = nat (s.recordField (warpBlock is.warp) 13 0 48) ∧ en.csr 0x004 l = nat b.wpb ∧
      en.csr 0x005 l = nat b.core ∧ en.csr 0x006 l = nat (is.warp % 64 % 4) ∧ en.csr 0x007 l = nat b.ctx ∧
      en.csr 0x008 l = w.lanes ∧ en.csr 0x010 l = nat (coordBits j.coord) ∧
      en.csr 0x011 l = nat (j.sizes.toNat + j.axes * 2 ^ 55) ∧
      en.csr 0x012 l = nat j.rank ∧ en.csr 0x013 l = nat j.gen.toNat ∧ en.csr 0x020 l = w.dstkSp &&& ~~~31#64 ∧
      en.csr 0x021 l = nat (b2n w.s0.live + 2 * b2n w.s1.live + 4 * b2n (w.s0.live && w.s0.parked) +
        8 * b2n (w.s1.live && w.s1.parked) + 16 * is.slot) ∧
      en.csr 0x022 l = en.sl.rpc ∧ en.csr 0x030 l = nat w.accBase.toNat ∧ en.csr 0x031 l = nat w.accLimit.toNat ∧
      en.csr 0x040 l = w.trapVec ∧ en.csr 0x041 l = nat w.trapCause.toNat ∧ en.csr 0x042 l = w.trapAddr ∧
      en.csr 0x043 l = w.trapPc ∧ en.csr 0x050 l = nat w.podG.toNat ∧
      en.csr 0x051 l = nat (b2n w.pod.on + 2 * b2n w.pod.uncond + 4 * w.pod.partner.toNat + 256 * w.pod.seq.toNat) ∧
      en.csr 0x060 l = nat b.prio ∧
      en.csr 0x070 l = nat w.flags.toNat ∧ en.csr 0x080 l = nat (s.core b.core).mxRows ∧
      en.csr 0x081 l = nat (s.core b.core).mxFence.toNat) ∧
    (i = 0x020 → exec (.csrw f) s = .next (en.gives { w with dstkSp := a &&& ~~~31#64 })) ∧
    (i = 0x040 → exec (.csrw f) s = .next (en.gives { w with trapVec := a &&& ~~~3#64 })) ∧
    (i = 0x050 → exec (.csrw f) s = .next (en.gives { w with podG := a.extractLsb' 0 32 })) ∧
    (i = 0x070 → exec (.csrw f) s = .next (en.gives { w with flags := w.flags &&& ~~~(a.extractLsb' 0 4 &&& ~~~w.flagsNew) })) ∧
    (i ∉ [0x020, 0x040, 0x050, 0x070] → exec (.csrw f) s = .next (en.gives w))) ∧
  ((∀ (f : Fields) (s : State) (is : Issue), (s.nat is f).Runs →
    let en := s.nat is f
    let n := f.w2.toNat % 65536
    exec (.yld f) s = .next (en.gives
      { en.w with yieldUntil := (if n = 0 then 0 else s.clk + n + 1), yielded := true, readySince := s.clk + n })) ∧
  ∀ (k : Nat) (s : State) (w : Warp), mapFind s.warps k = some w →
    (w.yieldUntil ≤ s.clk → exec (.yldExpiry k) s = .next (s.putWarp k { w with yieldUntil := 0 })) ∧
    (s.clk < w.yieldUntil → exec (.yldExpiry k) s = .next (s.putWarp k w)))

/-- R130, R131: DPSH pushes a software record and DPOP pops one into three s registers, the later write standing. R19,
R135: RTT restores both slots from the entry on top, with the lanes that have not exited, and ends the windows; with
both slots live, or on an empty stack, it is the divergence-stack-format fault. That the mask is the slot's effective
lanes there and in DPOP is the model's reading (log 32). -/
def Obligations.RecordsArePushedPoppedAndRestored : Prop :=
  (∀ (f : Fields) (s t : State) (is : Issue) (r : Rec), (s.nat is f).Runs →
    let en := s.nat is f
    let w := en.w
    let w' := ((({ w with dstkSp := w.dstkSp - 32 }.setS f.d.toNat r.pc).setS f.a.toNat r.mask).setS f.b.toNat
      r.rpc).setSlot is.slot { en.sl.issued is with pc := en.fall, wait := none }
    (s.stackWrite en.who w w.dstkSp [{ pc := en.sA f, mask := en.sB f, rpc := en.sC f, kind := 3 }] = (.ok (), t) →
      exec (.dpsh f) s = .next (en.goesOn (t.putWarp is.warp { w with dstkSp := w.dstkSp + 32 }))) ∧
    (w.dstkSp ≠ (w.getC 15).base → s.stackRead en.who w (w.dstkSp - 32) = (.ok r, t) →
      r = { pc := r.pc, mask := r.mask, rpc := r.rpc, kind := 3 } →
      t.kindDiffers en.ctx is.fr is.pc en.fall = false → w'.Rests →
      exec (.dpop f) s = .next ((t.putWarp is.warp w').retired en.ctx)) ∧
    (w.dstkSp = (w.getC 15).base → exec (.dpop f) s = .next (en.raise s { cause := 0x05, addr := w.dstkSp, lanes := en.e })) ∧
    (w.dstkSp ≠ (w.getC 15).base → s.stackRead en.who w (w.dstkSp - 32) = (.ok r, t) → r.kind ≠ 3 →
      exec (.dpop f) s = .next (en.raise t { cause := 0x05, addr := w.dstkSp - 32, lanes := en.e }))) ∧
  (∀ (f : Fields) (s s1 s2 t : State) (is : Issue) (head r0 r1 : Rec), (s.nat is f).Acts →
    let en := s.nat is f
    let w := en.w
    let sp := w.dstkSp
    let restored := fun (r : Rec) =>
      (if r.flagL ∧ r.mask &&& w.lanes ≠ 0 then
        { live := true, parked := r.flagP, pc := r.pc, mask := r.mask &&& w.lanes, rpc := r.rpc } else {} : Slot)
    let u := { w with s0 := restored r0, s1 := restored r1, dstkSp := sp - 96 }
    let slotOk := fun (r : Rec) => r.kind = 1 ∧ r.rsvd = 0 ∧ r.auxLo = 0 ∧ r.auxHi = 0
    ((w.s0.live = true ∧ w.s1.live = true) ∨ sp = (w.getC 15).base →
      exec (.rtt f) s = .next (en.raise s { cause := 0x05, addr := sp, lanes := en.e })) ∧
    (¬(w.s0.live = true ∧ w.s1.live = true) → sp ≠ (w.getC 15).base →
    s.stackRead en.who w (sp - 32) = (.ok head, s1) →
    (head.kind ≠ 2 → exec (.rtt f) s = .next (en.raise s1 { cause := 0x05, addr := sp - 32, lanes := en.e })) ∧
    (s1.stackRead en.who w (sp - 64) = (.ok r0, s2) → s2.stackRead en.who w (sp - 96) = (.ok r1, t) →
      head.kind = 2 → head.rsvd = 0 → head.auxHi = 0 → slotOk r0 → slotOk r1 → u.Rests →
      (u.s1.live = true → t.codeKind en.ctx u.s0.pc ≠ some true ∧ t.codeKind en.ctx u.s1.pc ≠ some true) →
      exec (.rtt f) s = .next ((t.putWarp is.warp u).retired en.ctx))))

/-- R18, R107, R133, R134 and the decode events of R87: the trap entry that is pushed, and where the handler starts.
TRAP and BKPT complete first, so that the trapping slot's record holds the following address. That a fetch or decode
fault names the whole mask of the slot, and any other exception the effective mask, is the model's reading (log 32).
R134, R329: BKPT in a context that is armed for debugging completes and halts its warp. -/
def Obligations.TrapsEnterTheHandlerAndBreakpointsHalt : Prop :=
  (∀ (s t : State) (is : Issue) (cause : BitVec 16) (addr : Word), is.paired = false → is.slot < 2 →
    let slotRec := fun (x : Slot) (raised : Bool) =>
      (if x.live then { pc := x.pc, mask := x.mask, rpc := x.rpc, kind := 1, flagP := x.parked, flagL := true, flagT := raised }
       else { kind := 1, flagT := raised } : Rec)
    let enters := fun (i : Instr) (en : Env) (s0 : State) (w : Warp) (c : BitVec 16) (a : Word) =>
      w.trapVec ≠ 0 → (w.slot (1 - is.slot)).wait = none →
      s0.stackWrite (s0.who is.warp is.slot) w w.dstkSp
        [slotRec w.s1 (decide (is.slot = 1)), slotRec w.s0 (decide (is.slot = 0)),
         { pc := is.pc, mask := en.e, rpc := a, kind := 2, flagP := decide (is.slot = 1), auxLo := c
           flagL := (mapFind s0.ctxs en.ctx).any fun c => c.halted }] = (.ok (), t) →
      exec i s = .next ((t.withdraw is.warp true).putWarp is.warp
        { w with
          s0 := { live := true, pc := w.trapVec, rpc := BitVec.allOnes 64
                  mask := (if w.s0.live then w.s0.mask else 0) ||| (if w.s1.live then w.s1.mask else 0) }
          s1 := {}, dstkSp := w.dstkSp + 96, trapCause := c, trapAddr := a, trapPc := is.pc, trapNew := true })
    (∀ f : Fields, (s.nat is f).Acts →
      let en := s.nat is f
      let w := en.w.setSlot is.slot { en.sl.issued is with pc := en.fall, wait := none }
      enters (.trap f) en (en.goesOn s) w (0x8000#16 ||| f.w2.extractLsb' 0 16) 0 ∧
      ((∀ c, mapFind s.ctxs en.ctx = some c → c.bkpt = false) →
        enters (.bkpt f) en (en.goesOn s) w 0x40 ((f.w2.extractLsb' 0 16).zeroExtend 64))) ∧
    ((s.whole is).Acts →
      enters .illegalInstruction (s.whole is) s (s.whole is).w 0x01 0 ∧
      enters (.instructionFetchFault cause addr) (s.whole is) s (s.whole is).w cause addr)) ∧
  (∀ (f : Fields) (s : State) (is : Issue) (c : Context), (s.nat is f).Runs → is.paired = false →
    (mapFind s.blocks (warpBlock is.warp)).isSome = true → mapFind s.ctxs (s.nat is f).ctx = some c → c.bkpt = true →
    let en := s.nat is f
    exec (.bkpt f) s = .next ((en.goesOn s).startHalt is.warp is.pc) ∧
    ((mapFind ((en.goesOn s).startHalt is.warp is.pc).ctxs en.ctx).any fun c =>
      c.halted && (c.preempt.any fun p => decide (p.level = 2) && p.halts.contains is.warp)) = true)

/-- R145, R146: each vector integer base major computes the body of R109 on every lane of its effective mask, from a v
register or pair, a broadcast s register or an immediate. -/
def Obligations.VectorIntegerMajorsCompleteWithTheirResults : Prop :=
  ∀ (f : Fields) (s : State) (is : Issue), (s.nat is f).Runs →
    (baseImm f = true → f.form ≠ .base) →
    let en := s.nat is f
    let ty := btype f
    let wide := ty.testBit 1
    let w := if wide then 64 else 32
    let uns := ty.testBit 0
    let read := fun (r i : Nat) => (if wide then en.w.getV2 r i else (en.w.getV r i).zeroExtend 64 : Word)
    let a := fun i => read f.a.toNat i
    let b := fun i => (if baseImm f then
        (if f.form = .ext then (if ty % 4 = 1 then f.w2.zeroExtend 64 else f.w2.signExtend 64) else f.lit)
      else if bsel f = 1 then (if wide then en.sB f else (en.sB f) &&& 0xFFFFFFFF#64)
      else read f.b.toNat i : Word)
    let x := fun i => toInt w uns (a i).toNat
    let y := fun i => toInt w uns (b i).toNat
    let n := fun i => (b i).toNat
    let lo := fun i => (a i).toNat % 2 ^ w
    let ends := fun (r : Nat → Int) =>
      (Host.Outcome.next (en.lanesGive wide f.d.toNat fun i =>
        narrow w uns (ty.testBit 2) flagOvf (r i)) : Out)
    exec (.vadd f) s = ends (fun i => x i + y i) ∧ exec (.vsub f) s = ends (fun i => x i - y i) ∧
    exec (.vmul f) s = ends (fun i => x i * y i) ∧ exec (.vmulh f) s = ends (fun i => x i * y i / 2 ^ w) ∧
    exec (.vand f) s = ends (fun i => ((a i &&& b i).toNat : Int)) ∧
    exec (.vor f) s = ends (fun i => ((a i ||| b i).toNat : Int)) ∧
    exec (.vxor f) s = ends (fun i => ((a i ^^^ b i).toNat : Int)) ∧
    exec (.vmov f) s = ends (fun i => ((a i).toNat : Int)) ∧
    exec (.vmin f) s = ends (fun i => if x i ≤ y i then x i else y i) ∧
    exec (.vmax f) s = ends (fun i => if x i ≤ y i then y i else x i) ∧
    exec (.vshl f) s = ends (fun i => if w ≤ n i then 0 else x i * 2 ^ n i) ∧
    exec (.vshr f) s = ends (fun i => if w ≤ n i then 0 else ((lo i / 2 ^ n i : Nat) : Int)) ∧
    exec (.vsra f) s = ends (fun i => signed w (a i).toNat / 2 ^ (if n i ≤ w - 1 then n i else w - 1))

/-- R148 to R152: the vector integer group, lane by lane. -/
def Obligations.VectorIntegerGroupCompletes : Prop :=
  ∀ (f : Fields) (s : State) (is : Issue), (s.nat is f).Runs →
    let en := s.nat is f
    let d := f.d.toNat
    let v := fun (r : BitVec 8) i => en.w.getV r.toNat i
    let a := fun i => v f.a i
    let wide := mb f 3
    let w := if wide then 64 else 32
    let uns := mb f 0
    let z := fun i => (if wide then en.w.getV2 f.c.toNat i else (v f.c i).zeroExtend 64 : Word)
    let pos := fun i => if mb f 1 then min (v f.b i).toNat 32 else f.w2.toNat % 32
    let len := fun i => if mb f 1 then min (v f.c i).toNat 32 else f.w2.toNat / 256 % 64
    let lanes := fun (g : Instr) (x : Nat → Elem) =>
      exec g s = .next (en.gives (en.w.setV d en.e x))
    let w64 := mb f 0
    let pair := fun (r : BitVec 8) i => (if w64 then en.w.getV2 r.toNat i else (v r i).zeroExtend 64 : Word)
    let literal : Word := if f.form = .extLit then f.lit else f.w2.signExtend 64
    let cw := if mb f 5 then 64 else 32
    let ca := fun i => (if mb f 5 then en.w.getV2 f.a.toNat i else (a i).zeroExtend 64 : Word)
    let cb := fun i => (if mb f 4 then literal else if mb f 6 then en.sB f
      else if mb f 5 then en.w.getV2 f.b.toNat i else (v f.b i).zeroExtend 64 : Word)
    let p := fun i => toInt cw (mb f 3) (ca i).toNat
    let q := fun i => toInt cw (mb f 3) (cb i).toNat
    let holds := fun i => (match f.mod.toNat % 8 with
      | 0 => decide (p i = q i)
      | 1 => decide (p i ≠ q i)
      | 2 => decide (p i < q i)
      | 3 => decide (p i ≤ q i)
      | 4 => decide (q i < p i)
      | _ => decide (q i ≤ p i) : Bool)
    exec (.vmad f) s = .next (en.lanesGive wide d fun i => narrow w uns (mb f 2) flagOvf
      (toInt 32 uns (a i).toNat * toInt 32 uns (v f.b i).toNat + toInt w uns (z i).toNat)) ∧
    exec (.vabs f) s = .next (en.lanesGive false d fun i => narrow 32 false (mb f 2) flagOvf |(a i).toInt|) ∧
    exec (.vneg f) s = .next (en.lanesGive false d fun i => narrow 32 false (mb f 2) flagOvf (-(a i).toInt)) ∧
    lanes (.vclz f) (fun i => BitVec.ofNat 32 (leadingZeros 32 (a i).toNat)) ∧
    lanes (.vpopc f) (fun i => BitVec.ofNat 32 ((List.range 32).filter fun j => (a i).getLsbD j).length) ∧
    ((∀ i, len i ≤ 32) → ∃ x : Nat → Elem, lanes (.vbfe f) x ∧
      ∀ i, ∀ j < 32, (x i).getLsbD j = (if j < len i then (a i).getLsbD (pos i + j)
        else mb f 0 && decide (0 < len i) && (a i).getLsbD (pos i + len i - 1))) ∧
    (∃ x : Nat → Elem, lanes (.vbfi f) x ∧
      ∀ i, ∀ j < 32, (x i).getLsbD j = (if pos i ≤ j ∧ j < pos i + len i then (a i).getLsbD (j - pos i)
        else (v f.d i).getLsbD j)) ∧
    exec (.vsel f) s = .next (en.gives (en.w.putV w64 d en.e fun i =>
      if (en.w.getP f.c.toNat).getLsbD i then pair f.a i else pair f.b i)) ∧
    exec (.vbcst f) s = .next (en.gives (en.w.putV w64 d en.e fun _ => if mb f 1 then literal else en.sA f)) ∧
    (∃ x : Word, exec (.vcmp f) s =
        .next (en.gives (en.w.setP d ((en.w.getP d &&& ~~~en.e) ||| (x &&& en.e)))) ∧
      ∀ i < 64, x.getLsbD i = holds i)

/-- R163 to R167: the cross-lane group. VSHF reads lanes whether or not they are in the mask; VRED and VSCAN combine the
effective lanes of a segment, in rising order. -/
def Obligations.CrossLaneGroupCompletes : Prop :=
  ∀ (f : Fields) (s : State) (is : Issue), (s.nat is f).Runs →
    let en := s.nat is f
    let d := f.d.toNat
    let v := fun (r : BitVec 8) i => en.w.getV r.toNat i
    let g := 64 / 2 ^ (f.mod.toNat / 16 % 8)
    let mode := f.mod.toNat % 4
    let op := f.mod.toNat % 16
    let n := fun i => if mode = 0 then (v f.b i).toNat else f.w2.toNat % 64
    let base := fun (i : Nat) => i - i % g
    let j := fun (i : Nat) => (if mode = 0 then ((base i + n i % g : Nat) : Int) else if mode = 1 then (i : Int) - n i
      else if mode = 2 then (i : Int) + n i else ((i ^^^ n i : Nat) : Int))
    let seg := fun (i : Nat) (p : Nat → Bool) =>
      ((List.range 64).filter fun k => en.e.getLsbD k && decide (k / g = i / g) && p k).map fun k => (v f.a k).toNat
    let dot := fun i => ((List.range 4).map fun k =>
      toInt 8 (mb f 0) ((v f.a i).toNat / 2 ^ (8 * k)) * toInt 8 (mb f 1) ((v f.b i).toNat / 2 ^ (8 * k))).sum
    exec (.vshf f) s = .next (en.gives (en.w.setV d en.e fun i =>
      if (base i : Int) ≤ j i ∧ j i < (base i + g : Nat) then v f.a (j i).toNat else v f.a i)) ∧
    exec (.vred f) s = .next (en.lanesGive false d fun i =>
      asLane (if op = 8 then binnedSum fp32 ((seg i fun _ => true).map fp32.decode)
        else crossFold op (seg i fun _ => true))) ∧
    exec (.vscan f) s = .next (en.lanesGive false d fun i =>
      asLane (crossFold op (if f.w2.toNat % 2 = 1 then seg i (fun k => decide (k < i)) else seg i (fun k => decide (k ≤ i))))) ∧
    exec (.vdot4 f) s = .next (en.lanesGive false d fun i =>
      narrow 32 (mb f 0 && mb f 1) (mb f 2) flagInt (toInt 32 (mb f 0 && mb f 1) (v f.c i).toNat + dot i))

/-- R154, R156 to R159: the float instructions write, on each lane of the effective mask, their exact value converted
once (R54), with the flags that the conversion raises. R154, R156: the packed BF16 instructions act on each half of a
register by itself. -/
def Obligations.FloatInstructionsCompleteWithConvertedValues : Prop :=
  (∀ (f : Fields) (s : State) (is : Issue), (s.nat is f).Runs →
    let en := s.nat is f
    let d := f.d.toNat
    let ty := btype f
    let base := fun (i : Instr) (sat : Bool) (r : FVal → FVal → FVal) =>
      let dbl := ty.testBit 2
      exec i s = .next (en.lanesGive dbl d fun l =>
        asLane ((fpOf dbl).convert (if sat then ty % 4 else 0) (!(sat && ty.testBit 3))
          (r (en.fpV dbl f.a.toNat l) (en.floatB f dbl l))))
    let dbl := mb f 2
    let m := f.mod.toNat % 4
    let x := fun l => en.fpV dbl f.a.toNat l
    let one := fun (i : Instr) (mode : RMode) (ieee : Bool) (r : Nat → FVal) =>
      exec i s = .next (en.lanesGive dbl d fun l => asLane ((fpOf dbl).convert mode ieee (r l)))
    let table := fun (i : Instr) (g : FVal → Nat × FlagSet) =>
      exec i s = .next (en.lanesGive false d fun l => asLane (g (en.fpV false f.a.toNat l)))
    base (.fadd f) true (FVal.add (ty % 4)) ∧ base (.fsub f) true (fun a b => FVal.add (ty % 4) a b.flip) ∧
    base (.fmul f) true FVal.mul ∧ base (.fmin f) false FVal.pickMin ∧ base (.fmax f) false FVal.pickMax ∧
    one (.ffma f) m (!(mb f 3)) (fun l => FVal.fma m (x l) (en.fpV dbl f.b.toNat l) (en.fpV dbl f.c.toNat l)) ∧
    one (.fscale f) m (!(mb f 3)) (fun l => (x l).scale (en.w.getV f.b.toNat l).toInt) ∧
    one (.frnd f) 0 true (fun l => (x l).integral m) ∧
    one (.frcp f) m true (fun l => (x l).recip) ∧ one (.frsq f) m true (fun l => (x l).rsqrt) ∧
    one (.fsqrt f) m true (fun l => (x l).sqrt) ∧
    table (.fexp2 f) exp2Float ∧ table (.flog2 f) log2Float ∧ table (.fsin f) sinFloat ∧
    table (.fcos f) cosFloat ∧ table (.ftanh f) tanhFloat) ∧
  (∀ (f : Fields) (s : State) (is : Issue), (s.nat is f).Runs →
    let en := s.nat is f
    let half := fun (x : Nat) (h : Nat) => bf16.decode (x / 2 ^ (16 * h) % 2 ^ 16)
    let v := fun (r : BitVec 8) i => (en.w.getV r.toNat i).toNat
    let b := fun i => (if baseImm f then (baseImmediate f true).toNat % 2 ^ 32
      else if bsel f = 1 then (en.sB f).toNat % 2 ^ 32 else v f.b i)
    let packs := fun (i : Instr) (mode : RMode) (ieee : Bool) (r : Nat → Nat → FVal) =>
      exec i s = .next (en.lanesGive false f.d.toNat fun l =>
        let c := fun h => bf16.convert mode ieee (r l h)
        (BitVec.ofNat 64 ((c 0).1 + 2 ^ 16 * (c 1).1), (c 0).2 ||| (c 1).2))
    let ty := btype f
    let m := f.mod.toNat % 4
    packs (.hadd2 f) (ty % 4) (!(ty.testBit 3)) (fun l h => FVal.add (ty % 4) (half (v f.a l) h) (half (b l) h)) ∧
    packs (.hmul2 f) (ty % 4) (!(ty.testBit 3)) (fun l h => (half (v f.a l) h).mul (half (b l) h)) ∧
    packs (.hfma2 f) m (!(mb f 3)) (fun l h => FVal.fma m (half (v f.a l) h) (half (v f.b l) h) (half (v f.c l) h)))

/-- R157, R158: FABS and FNEG act on the sign bit and make any NaN canonical; FCLASS names the class of a code; FCMP
compares, and writes one bit of p[D] for each lane. -/
def Obligations.FloatBitInstructionsComplete : Prop :=
  ∀ (f : Fields) (s : State) (is : Issue), (s.nat is f).Runs →
    let en := s.nat is f
    let dbl := mb f 2
    let fmt := fpOf dbl
    let top := fmt.width - 1
    let x := fun i => (if dbl then en.w.getV2 f.a.toNat i else (en.w.getV f.a.toNat i).zeroExtend 64 : Word).toNat
    let signed := fun (g : Nat → Nat) i => (if fmt.decode (x i) = .nan then (BitVec.ofNat 64 fmt.nanCode, flagNan)
      else (BitVec.ofNat 64 (g (x i)), 0) : Word × FlagSet)
    let cls := fun i => (match fmt.decode (x i) with
      | .nan => 8
      | .inf neg => if neg then 0 else 7
      | .fin neg m _ => if m = 0 then (if neg then 3 else 4)
        else if m < 2 ^ fmt.mb then (if neg then 2 else 5) else if neg then 1 else 6 : Nat)
    let cd := mb f 3
    let a := fun i => en.fpV cd f.a.toNat i
    let b := fun i => if mb f 4 then (if f.form = .extLit then (fpOf cd).decode f.lit.toNat else fp32.decode f.w2.toNat)
      else en.fpV cd f.b.toNat i
    exec (.fabs f) s = .next (en.lanesGive dbl f.d.toNat (signed fun c => c % 2 ^ top)) ∧
    exec (.fneg f) s = .next (en.lanesGive dbl f.d.toNat (signed fun c => c ^^^ 2 ^ top)) ∧
    exec (.fclass f) s = .next (en.gives (en.w.setV f.d.toNat en.e fun i => BitVec.ofNat 32 (2 ^ cls i))) ∧
    ∃ m : Word, exec (.fcmp f) s =
        .next (en.gives (en.w.setP f.d.toNat ((en.w.getP f.d.toNat &&& ~~~en.e) ||| (m &&& en.e)))) ∧
      ∀ i < 64, m.getLsbD i = (match f.mod.toNat % 8 with
        | 0 => (a i).eqv (b i)
        | 1 => !((a i).eqv (b i))
        | 2 => (a i).lt (b i)
        | 3 => (a i).lt (b i) || (a i).eqv (b i)
        | 4 => (b i).lt (a i)
        | 5 => (b i).lt (a i) || (a i).eqv (b i)
        | 6 => decide (a i = .nan ∨ b i = .nan)
        | _ => decide (a i ≠ .nan ∧ b i ≠ .nan))

/-- R160 to R162: FCVT, F2I and I2F convert one element of a register to one element of another, leaving the rest of a
shorter destination unchanged. A conversion of a format to itself keeps an infinity. That F2I and I2F ignore hsel for
a format of 32 or 64 bits is the model's choice (log 45), for R162 gives it no meaning there. -/
def Obligations.ConversionsCompleteWithTheirElements : Prop :=
  ∀ (f : Fields) (s : State) (is : Issue), (s.nat is f).Runs →
    let en := s.nat is f
    let w := f.w2.toNat
    let d := f.d.toNat
    let mode := f.mod.toNat % 4
    let reg := fun (pair : Bool) (r : BitVec 8) i =>
      (if pair then en.w.getV2 r.toNat i else (en.w.getV r.toNat i).zeroExtend 64 : Word).toNat
    let lo := w % 16
    let hi := w / 16 % 16
    let dsel := w / 256 % 8
    let ssel := w / 4096 % 8
    let src := fun i => (fmtOf hi).decode (reg (decide (hi = 15)) f.a i / 2 ^ (slotBits hi * ssel) % 2 ^ (fmtOf hi).width)
    let x := fun i => if mb f 3 then scaledSource (src i) hi lo (reg false f.b i % 256) else src i
    let into := fun (fmt sel : Nat) (pair : Bool) (r : Nat → Nat × FlagSet) =>
      (Host.Outcome.next (en.lanesGive pair d fun i =>
        (BitVec.ofNat 64 (putElement fmt sel (reg pair f.d i) (r i).1), (r i).2)) : Out)
    let ty := w / 16 % 8
    let iw := 8 * 2 ^ (ty / 2)
    let hsel := if lo = 10 ∨ lo = 11 then w / 256 % 2 else 0
    exec (.fcvt f) s = into lo dsel (decide (lo = 15)) (fun i =>
      (fmtOf lo).convert mode (mb f 2 || decide (hi = lo)) (x i)) ∧
    exec (.f2i f) s = .next (en.lanesGive (decide (iw = 64)) d fun i =>
      let r := convertInt iw (ty.testBit 0) mode
        ((fmtOf lo).decode (reg (decide (lo = 15)) f.a i / 2 ^ (slotBits lo * hsel) % 2 ^ (fmtOf lo).width))
      (BitVec.ofInt 64 r.1, r.2)) ∧
    exec (.i2f f) s = into lo hsel (decide (lo = 15)) (fun i =>
      (fmtOf lo).convert mode true (FVal.ofInt (toInt iw (ty.testBit 0) (reg (decide (iw = 64)) f.a i))))

/-- Table 5.6: the special inputs of the transcendental group, as exact values before the conversion. R50, R54:
converting the value of a code back to its own format gives the code, whatever the rounding mode. -/
def Obligations.SpecialInputsAndCodesConvertExactly : Prop :=
  (let code := fun (x : FVal) => fp32.convert 0 true x
  let nan := code .nan
  let zero := fun (neg : Bool) => FVal.fin neg 0 0
  ∀ (neg : Bool) (e : Int),
    (FVal.inf neg).recip = zero neg ∧ (FVal.fin neg 0 e).recip = .inf neg ∧ FVal.nan.recip = .nan ∧
    (FVal.inf true).rsqrt = .nan ∧ (FVal.fin neg 0 e).rsqrt = .inf neg ∧ (FVal.inf false).rsqrt = zero false ∧
    (FVal.inf true).sqrt = .nan ∧ (FVal.fin neg 0 e).sqrt = .fin neg 0 e ∧ (FVal.inf false).sqrt = .inf false ∧
    (∀ m ≠ 0, (FVal.fin true m e).rsqrt = .nan ∧ (FVal.fin true m e).sqrt = .nan ∧ log2Float (.fin true m e) = nan) ∧
    exp2Float (.inf true) = (0, 0) ∧ exp2Float (.fin neg 0 e) = (0x3F800000, 0) ∧ exp2Float (.inf false) = (0x7F800000, 0) ∧
    log2Float (.inf true) = nan ∧ log2Float (.fin neg 0 e) = (0xFF800000, 0) ∧ log2Float (.inf false) = (0x7F800000, 0) ∧
    sinFloat (.inf neg) = nan ∧ sinFloat (.fin neg 0 e) = (if neg then 0x80000000 else 0, 0) ∧
    cosFloat (.inf neg) = nan ∧ cosFloat (.fin neg 0 e) = (0x3F800000, 0) ∧
    tanhFloat (.inf neg) = (if neg then 0xBF800000 else 0x3F800000, 0) ∧
    tanhFloat (.fin neg 0 e) = (if neg then 0x80000000 else 0, 0) ∧
    exp2Float .nan = nan ∧ log2Float .nan = nan ∧ sinFloat .nan = nan ∧ cosFloat .nan = nan ∧ tanhFloat .nan = nan ∧
    nan = (0x7FC00000, flagNan) ∧ log2Float (fp32.decode 0x3F800000) = (0, 0)) ∧
  (∀ (fmt : Nat) (mode : RMode) (ieee : Bool) (c : Nat), fmt ∈ [3, 4, 5, 6, 7, 10, 11, 14, 15] →
    let f := fmtOf fmt
    c < 2 ^ f.width → (∀ neg, f.decode c = .inf neg → ieee = true) →
    f.convert mode ieee (f.decode c) = (if f.decode c = .nan then (f.nanCode, flagNan) else (c, 0)))

/-- R54, R55: Convert rounds a finite value to one of the two codes of its format that enclose it: the lower one under
.rz, the nearer one under .rn with ties to the even code, and towards the named side under .rm and .rp; past the
greatest finite code it is an overflow, which raises arith.flags[3]. -/
def Obligations.ConvertRoundsToAnEnclosingCode : Prop :=
  ∀ (fmt : Nat) (mode : RMode) (ieee neg : Bool) (m : Nat) (e : Int),
    fmt ∈ [3, 4, 5, 6, 7, 10, 11, 14, 15] → m ≠ 0 → mode < 4 →
    let f := fmtOf fmt
    let x : ℚ := m * (2 : ℚ) ^ e
    ∃ c : Nat, magOf f c ≤ x ∧ x < magOf f (c + 1) ∧
      let up : Prop := match mode with
        | 0 => magOf f c + magOf f (c + 1) < 2 * x ∨ (magOf f c + magOf f (c + 1) = 2 * x ∧ c % 2 = 1)
        | 1 => False
        | 2 => neg = true ∧ magOf f c ≠ x
        | _ => neg = false ∧ magOf f c ≠ x
      ∃ r : Nat, ((up ∧ r = c + 1) ∨ (¬up ∧ r = c)) ∧
        (r ≤ f.maxCode → f.convert mode ieee (.fin neg m e) = (f.signBit neg + r, 0)) ∧
        (f.maxCode < r → f.convert mode ieee (.fin neg m e) = (f.overflow mode ieee neg, flagOvf))

/-- R172, R173, R175, R177: the loads complete when the checks of every lane pass, each lane with the bytes at its
offset, extended as its size says. An acquire comes first (R172, R253). -/
def Obligations.LoadsCompleteWithTheBytesRead : Prop :=
  ∀ (f : Fields) (s : State) (is : Issue), (s.nat is f).Runs →
    let en := s.nat is f
    let size := f.mod.toNat % 8
    let n := sizeBytes size
    let c := en.w.getC f.b.toNat
    let off := fun i => (if mb f 3 then en.sA f else (en.w.getV f.a.toNat i).zeroExtend 64) + f.w2.signExtend 64
    let s0 := if f.mod.toNat / 16 % 4 = 1 then s.acquire is.warp (en.scopeOf (f.c.toNat % 8) (f.c.toNat / 8)) else s
    let b := s.block (warpBlock is.warp)
    let value := fun (w : Nat) (l : List Byte) =>
      if size = 1 then wrap w (signed 8 (leNat l)) else if size = 3 then wrap w (signed 16 (leNat l)) else leNat l
    (∀ good got s1 t,
      checkLanes (fun s i => s.laneCheck en.who c permR (off i) n false) s0 (maskLanes en.e) = (good, [], s1) →
      s1.loadLanes en.who n good = (got, t) →
      exec (.ld f) s = .next (en.goesOn (t.putWarp is.warp
        (en.w.putLoaded f.d.toNat size en.e fun i => value 32 (mapGet [] got i))))) ∧
    (∀ miss l tag s1 t,
      s0.laneCheck en.who c permR (en.sA f + f.w2.signExtend 64) n false =
        (.ok (c.base + (en.sA f + f.w2.signExtend 64), miss), s1) →
      s1.l1Load en.who (c.base + (en.sA f + f.w2.signExtend 64)) n miss = ((l, tag), t) →
      exec (.ldk f) s = .next (en.goesOn (t.putWarp is.warp
        (en.w.setS f.d.toNat (BitVec.ofNat 64 (value 64 l)))))) ∧
    ((∀ i < 64, en.e.getLsbD i = true →
        (off i).toNat < 2 ^ 63 ∧ (off i).toNat + n ≤ 4096 * b.spu ∧ (off i).toNat % n = 0) → b.torn = [] →
      exec (.lds f) s = .next (en.goesOn (s0.putWarp is.warp
        (en.w.putLoaded f.d.toNat size en.e fun i => value 32 (b.scratchRead (off i).toNat n)))))

/-- R173, R177, R253: the stores complete when the checks of every lane pass; lanes store in rising order, so that the
highest-numbered lane's byte stands. Nothing in the warp changes but the PC. -/
def Obligations.StoresCompleteInLaneOrder : Prop :=
  ∀ (f : Fields) (s : State) (is : Issue), (s.nat is f).Runs →
    let en := s.nat is f
    let size := f.mod.toNat % 8
    let n := sizeBytes size
    let c := en.w.getC f.b.toNat
    let off := fun i => (if mb f 3 then en.sA f else (en.w.getV f.a.toNat i).zeroExtend 64) + f.w2.signExtend 64
    let rel := f.mod.toNat / 16 % 4 = 1
    let data := fun i => en.w.storedBytes f.d.toNat size i
    let bk := warpBlock is.warp
    (¬rel → ∀ good t,
      checkLanes (fun s i => s.laneCheck en.who c permW (off i) n true) s (maskLanes en.e) = (good, [], t) →
      exec (.st f) s = .next (en.goesOn (good.foldl (fun s x => s.l1Store en.who x.2.1 (data x.1) x.2.2) t))) ∧
    (rel → ∀ good t,
      checkLanes (fun s i => s.homeCheck en.who c permW (off i) n n { w := true }) s (maskLanes en.e) = (good, [], t) →
      exec (.st f) s = .next (en.goesOn
        (good.foldl (fun s x => en.homeStore s x.2.1 x.2.2 (data x.1)) (t.release is.warp)))) ∧
    ((∀ i < 64, en.e.getLsbD i = true →
        (off i).toNat < 2 ^ 63 ∧ (off i).toNat + n ≤ 4096 * (s.block bk).spu ∧ (off i).toNat % n = 0) →
      exec (.sts f) s = .next (en.goesOn ((if rel then s.release is.warp else s).modBlock bk fun b =>
        (maskLanes en.e).foldl (fun b i => b.scratchWrite (off i).toNat (data i)) b)))

/-- R177: a scratchpad access that any lane makes outside the allocation, or unaligned, takes the fault of its lowest
failing lane, names every failing lane, and has no effect on any lane. R174, R253: a slot's load sees the slot's own
store: the bytes that it has stored through the L1 are what it loads back, whatever the home slice holds and however
the part chooses. R253, R256, R257: an L1 that does not hold a sector fills it from the home slice: a load of it
returns the bytes of the home, or of dirty bytes that another L1 has just written there. Where no L1 holds dirty bytes
of the sector, and the L1 has room for its line, they are exactly the home's; where one copy holds dirty bytes, they
are the home's or the home's under those dirty bytes, as the part chooses (log 6). R396: a scratchpad or accumulator
row with an uncorrectable error traps the warp that reads it, with the memory-error fault and an address of zero, and
a record names the row. Which of several rows is named is the model's choice (log 48). R38, R170 and Table 5.12: the
checks of an access through a capability come in their order, each with its cause, and then the translation; one that
fails has no effect on any lane. An instruction of many lanes takes the fault of its lowest failing lane and names
every failing one; LDK, CLD and CST name the lanes of their mask. -/
def Obligations.ScratchpadAndSectorAccessesAreExact : Prop :=
  (∀ (f : Fields) (s : State) (is : Issue) (i : Nat), (s.nat is f).Acts →
    let en := s.nat is f
    let n := sizeBytes (f.mod.toNat % 8)
    let off := fun i => (if mb f 3 then en.sA f else (en.w.getV f.a.toNat i).zeroExtend 64) + f.w2.signExtend 64
    let outside := fun i => 2 ^ 63 ≤ (off i).toNat ∨ 4096 * (s.block (warpBlock is.warp)).spu < (off i).toNat + n
    let fails := fun i => en.e.getLsbD i = true ∧ (outside i ∨ (off i).toNat % n ≠ 0)
    fails i → (∀ j < i, ¬fails j) →
    ∃ m : Word, (∀ j < 64, m.getLsbD j = true ↔ fails j) ∧
      let t : Trap := { cause := if 2 ^ 63 ≤ (off i).toNat ∨ 4096 * (s.block (warpBlock is.warp)).spu < (off i).toNat + n
        then 0x19 else 0x16, addr := off i, lanes := m }
      exec (.lds f) s = .next (en.raise s t) ∧ exec (.sts f) s = .next (en.raise s t)) ∧
  (∀ (s : State) (w : Who) (va : Word) (l : List Byte) (x : Sector),
    va.toNat % 32 + l.length ≤ 32 → x.data.length = 32 →
    s.sector w.id w.asid (va.toNat / 32) = some x → x.write = true → x.read = true →
    (((s.l1Store w va l none).l1Load w va l.length none).1).1 = l) ∧
  (∀ (s : State) (w : Who) (va pte : Word) (pa n : Nat),
    va.toNat % 32 + n ≤ 32 → pa % 32 = va.toNat % 32 → s.sector w.id w.asid (va.toNat / 32) = none →
    (s.linesOf w.id (l1Array w.id (va.toNat / 128))).length < l1Lines →
    let r := s.l1Load w va n (some (pa, pte))
    ((∀ id ∈ s.l1Ids, ∀ x ∈ s.sectors id, x.pa = pa / 32 → x.dirty = 0) →
      r.1.1 = s.mem.read pa n ∧ r.1.2 = s.mem.tag pa ∧ r.2.mem.bytes = s.mem.bytes) ∧
    ∀ id x, id ∈ s.l1Ids → x ∈ s.sectors id → x.pa = pa / 32 → x.dirty ≠ 0 →
      (∀ i ∈ s.l1Ids, ∀ y ∈ s.sectors i, y.pa = pa / 32 → y.dirty ≠ 0 → i = id ∧ y = x) →
      r.1.1 = s.mem.read pa n ∨
      r.1.1 = ((overlay x.dirty x.data (s.mem.read (32 * x.pa) 32)).drop (va.toNat % 32)).take n) ∧
  (∀ (f : Fields) (s : State) (is : Issue) (row : Nat), (s.nat is f).Acts →
    let en := s.nat is f
    let b := en.block
    let traps := fun (i : Instr) (s' : State) (m : Word) =>
      exec i s = .next (en.raise s' { cause := 0x18, addr := 0, lanes := m })
    (let n := sizeBytes (f.mod.toNat % 8)
     let off := fun i => (if mb f 3 then en.sA f else (en.w.getV f.a.toNat i).zeroExtend 64) + f.w2.signExtend 64
     ∀ m, (∀ i < 64, en.e.getLsbD i = true →
        (off i).toNat < 2 ^ 63 ∧ (off i).toNat + n ≤ 4096 * b.spu ∧ (off i).toNat % n = 0) →
      f.mod.toNat / 16 % 4 ≠ 1 → en.tornLanes off n = some (row, m) →
      m ≠ 0 ∧ (∀ i < 64, m.getLsbD i = true ↔ en.e.getLsbD i = true ∧ (b.tornBytes (off i).toNat n).isSome = true) ∧
      traps (.lds f) (s.sramError b.core 1 row) m) ∧
    (let r := (en.sA f + f.w2.signExtend 64).toNat
     let at_ := en.w.accBase.toNat + r
     windowFault en.w b r 1 = none → s.accHeld is.warp [(at_, 1, false)] [] true = false →
     b.tornRow 2 at_ at_ = some row → traps (.lda f) (s.sramError b.core 2 row) en.e)) ∧
  ((∀ (s : State) (w : Who) (c : Cap) (need : BitVec 16) (off : Word) (n : Nat) (k : Context),
    mapFind s.ctxs w.ctx = some k → 1 ≤ n →
    let va := c.base + off
    let fails := fun (x : BitVec 16) =>
      (∀ wr, s.laneCheck w c need off n wr = (.error (x, va), s)) ∧
      ∀ tn, s.homeCheck w c need off n n tn = (.error (x, va), s)
    (c.tag = false → fails 0x10) ∧ (c.tag = true →
      (c.otype ≠ 0 → fails 0x11) ∧ (c.otype = 0 →
        (c.ctx.toNat ≠ w.ctx → fails 0x12) ∧ (c.ctx.toNat = w.ctx →
          (c.gen ≠ k.cgen → fails 0x13) ∧ (c.gen = k.cgen →
            (c.perms &&& need ≠ need → fails 0x14) ∧ (c.perms &&& need = need →
              (c.len.toNat < off.toNat + n → fails 0x15) ∧ (off.toNat + n ≤ c.len.toNat →
                (va.toNat % n ≠ 0 → fails 0x16) ∧ (va.toNat % n = 0 → ∀ i t,
                  (∀ wr, s.sector w.id w.asid (va.toNat / 32) = none →
                    s.translate (some w.cluster) w.ctx va { r := !wr, w := wr } (b2n wr) = (.fail i, t) →
                    s.laneCheck w c need off n wr = (.error (if i.mem then 0x18 else 0x17, va), t)) ∧
                  ∀ tn, s.translate (some w.cluster) w.ctx va tn (b2n tn.w) = (.fail i, t) →
                    s.homeCheck w c need off n n tn = (.error (if i.mem then 0x18 else 0x17, va), t))))))))) ∧
  ∀ (f : Fields) (s : State) (is : Issue), (s.nat is f).Acts →
    let en := s.nat is f
    let size := f.mod.toNat % 8
    let n := sizeBytes size
    let c := en.w.getC f.b.toNat
    let lane := fun (uni : Bool) i => if uni then en.sA f else (en.w.getV f.a.toNat i).zeroExtend 64
    let off := fun i => lane (mb f 3) i + f.w2.signExtend 64
    let aoff := fun i => lane (mb f 5) i + (f.w2.extractLsb' 0 16).signExtend 64
    let ordered := f.mod.toNat / 16 % 4 = 1
    let an := if mb f 4 then 8 else 4
    let s0 := if ordered then s.acquire is.warp (en.scopeOf (f.c.toNat % 8) (f.c.toNat / 8)) else s
    let raises := fun (i : Instr) (bad : List (Nat × Failure)) (t : State) => ∀ j x r, bad = (j, x) :: r →
      (∀ y ∈ bad, j ≤ y.1) ∧ ∃ m : Word, (∀ l < 64, m.getLsbD l = true ↔ ∃ y ∈ bad, y.1 = l) ∧
        exec i s = .next (en.raise t { cause := x.1, addr := x.2, lanes := m })
    let stops := fun (i : Instr) (x : Failure) (t : State) =>
      exec i s = .next (en.raise t { cause := x.1, addr := x.2, lanes := en.e })
    let one := en.sA f + f.w2.signExtend 64
    (∀ good bad t, checkLanes (fun s i => s.laneCheck en.who c permR (off i) n false) s0 (maskLanes en.e) = (good, bad, t) →
      raises (.ld f) bad t) ∧
    (¬ordered → ∀ good bad t,
      checkLanes (fun s i => s.laneCheck en.who c permW (off i) n true) s (maskLanes en.e) = (good, bad, t) →
      raises (.st f) bad t) ∧
    (ordered → ∀ good bad t,
      checkLanes (fun s i => s.homeCheck en.who c permW (off i) n n { w := true }) s (maskLanes en.e) = (good, bad, t) →
      raises (.st f) bad t) ∧
    (∀ good bad t, checkLanes (fun s i => s.homeCheck en.who c (permR ||| permW ||| permAT) (aoff i) an an
        { r := true, w := true }) s (maskLanes en.e) = (good, bad, t) →
      raises (.atom f) bad t) ∧
    (∀ x t, s0.laneCheck en.who c permR one n false = (.error x, t) → stops (.ldk f) x t) ∧
    (∀ x t, s.laneCheck en.who c (permR ||| permLC) one 32 false = (.error x, t) → stops (.cld f) x t) ∧
    ∀ x t, s.homeCheck en.who c (permW ||| permSC) one 32 32 { w := true } = (.error x, t) → stops (.cst f) x t)

/-- R176, R181: PREF fills lines or is dropped lane by lane, and a line that it fills has its home's bytes. The access size
and the permission of a PREF's check are the model's own (log 45). CFLUSH writes back and drops the sectors of its range, and
FENCE releases and acquires at its scope; none of them writes a register. -/
def Obligations.CacheControlCompletes : Prop :=
  ∀ (f : Fields) (s : State) (is : Issue), (s.nat is f).Runs →
    let en := s.nat is f
    let c := en.w.getC f.b.toNat
    let off := en.sA f + f.w2.signExtend 64
    let va := c.base + off
    let n := (en.sC f).toNat
    let fence := en.scopeOf (f.w2.toNat % 8) (f.w2.toNat / 8 % 32)
    let inRange := fun (x : Sector) =>
      decide (x.asid = en.who.asid ∧ va.toNat / 128 ≤ x.va / 4 ∧ x.va / 4 ≤ (va.toNat + n - 1) / 128)
    (let loff := fun i => (if mb f 3 then en.sA f else (en.w.getV f.a.toNat i).zeroExtend 64) + f.w2.signExtend 64
     let lane := fun (s : State) (i : Nat) =>
       if s.capCheck en.ctx c permR (loff i) 1 0 = none then
         match s.translate (some en.who.cluster) en.ctx (c.base + loff i) { r := true } 0 with
         | (.fail _, _) => s
         | (.ok pa pte, t) => if mb f 0 then t else t.prefetchLine en.who (c.base + loff i) pa pte
       else s
     exec (.pref f) s = .next (en.goesOn ((maskLanes en.e).foldl lane s)) ∧
     ((∀ i < 64, en.e.getLsbD i = true → s.capCheck en.ctx c permR (loff i) 1 0 ≠ none) →
       exec (.pref f) s = .next (en.goesOn s)) ∧
     ∃ t, exec (.pref f) s = .next (en.goesOn t) ∧ t.warps = s.warps ∧ t.blocks = s.blocks) ∧
    (∀ (t : State) (w : Who) (a : Word) (pa : Nat) (pte : Word),
      (∀ id ∈ t.l1Ids, ∀ x ∈ t.sectors id, x.dirty = 0) →
      (t.linesOf w.id (l1Array w.id (a.toNat / 128))).length < l1Lines →
      let u := t.prefetchLine w a pa pte
      u.mem.bytes = t.mem.bytes ∧ u.mem.tags = t.mem.tags ∧ u.warps = t.warps ∧ u.blocks = t.blocks ∧ ∀ k < 4,
        let v := a.toNat / 128 * 4 + k
        let p := pa / 128 * 128 + 32 * k
        (∀ x, t.sector w.id w.asid v = some x → u.sector w.id w.asid v = some x) ∧
        (t.sector w.id w.asid v = none →
          (t.readable pte p 32 = true → ∃ x, u.sector w.id w.asid v = some x ∧ x.pa = p / 32 ∧ x.dirty = 0 ∧
            x.data = t.mem.read p 32) ∧
          (t.readable pte p 32 = false → u.sector w.id w.asid v = none))) ∧
    (n = 0 → exec (.cflush f) s = .next (en.goesOn s)) ∧
    (n ≠ 0 → s.capCheck en.ctx c permR off n 0 = none → ∀ spans t,
      s.translateRange (some en.who.cluster) en.ctx { r := true } 0 va n = (.ok spans, t) →
      let u := t.evictWhere en.who.id inRange
      exec (.cflush f) s =
        .next (en.goesOn (if mb f 0 then spans.foldl (fun s x => s.cleanLines x.1 x.2.2) u else u))) ∧
    (f.mod = 0 → exec (.fence f) s = .next (en.goesOn ((s.release is.warp).acquire is.warp fence))) ∧
    (f.mod = 1 → exec (.fence f) s = .next (en.goesOn (s.acquire is.warp fence))) ∧
    (f.mod = 2 → exec (.fence f) s = .next (en.goesOn (s.release is.warp))) ∧
    (f.mod = 3 → exec (.fence f) s = .next (en.goesOn ((s.release is.warp).acquire is.warp fence)))

/-- R179 to R181: ATOM and ATOMS act lane by lane in rising order, each lane reading the value that its predecessor
left, and write the old values unless .nr. -/
def Obligations.AtomicsActInLaneOrder : Prop :=
  ∀ (f : Fields) (s : State) (is : Issue), (s.nat is f).Runs →
    let en := s.nat is f
    let wide := mb f 4
    let n := if wide then 8 else 4
    let c := en.w.getC f.b.toNat
    let off := fun i => (if mb f 5 then en.sA f else (en.w.getV f.a.toNat i).zeroExtend 64) +
      (f.w2.extractLsb' 0 16).signExtend 64
    let reg := fun (r : BitVec 8) i =>
      (if wide then en.w.getV2 r.toNat i else (en.w.getV r.toNat i).zeroExtend 64 : Word).toNat
    let op := fun (old i : Nat) => atomicNew (f.mod.toNat % 16) wide old (reg f.c i) (reg f.d i)
    let done := fun (s : State) (old : List (Nat × Nat)) (fl : FlagSet) =>
      let w := en.w.raiseFlags fl
      (Host.Outcome.next (en.goesOn (s.putWarp is.warp
        (if mb f 6 then w else w.putV wide f.d.toNat en.e fun i => BitVec.ofNat 64 (mapGet 0 old i)))) : Out)
    let b := s.block (warpBlock is.warp)
    (∀ good t,
      checkLanes (fun s i => s.homeCheck en.who c (permR ||| permW ||| permAT) (off i) n n { r := true, w := true }) s
        (maskLanes en.e) = (good, [], t) →
      let r := good.foldl (fun (a : State × List (Nat × Nat) × FlagSet) x =>
        let s := a.1.goHome en.who x.2.1 x.2.2
        let old := leNat (s.mem.read x.2.2 n)
        (s.physWrite x.2.2 (leBytes n (op old x.1).1), a.2.1 ++ [(x.1, old)], a.2.2 ||| (op old x.1).2))
        (en.atomOrder f t, [], 0)
      exec (.atom f) s = done r.1 r.2.1 r.2.2) ∧
    ((∀ i < 64, en.e.getLsbD i = true →
        (off i).toNat < 2 ^ 63 ∧ (off i).toNat + n ≤ 4096 * b.spu ∧ (off i).toNat % n = 0) → b.torn = [] →
      let r := (maskLanes en.e).foldl (fun (a : Block × List (Nat × Nat) × FlagSet) i =>
        let old := leNat (a.1.scratchRead (off i).toNat n)
        (a.1.scratchWrite (off i).toNat (leBytes n (op old i).1), a.2.1 ++ [(i, old)], a.2.2 ||| (op old i).2)) (b, [], 0)
      exec (.atoms f) s = done ((en.atomOrder f s).modBlock (warpBlock is.warp) fun _ => r.1) r.2.1 r.2.2) ∧
    ∀ old x cmp : Nat,
      let w := if wide then 64 else 32
      let fm := if wide then fp64 else fp32
      atomicNew 0 wide old x cmp = ((old + x) % 2 ^ w, 0) ∧
      atomicNew 1 wide old x cmp = (if signed w old ≤ signed w x then old else x, 0) ∧
      atomicNew 2 wide old x cmp = (if signed w old ≤ signed w x then x else old, 0) ∧
      atomicNew 3 wide old x cmp = (min old x, 0) ∧ atomicNew 4 wide old x cmp = (max old x, 0) ∧
      atomicNew 5 wide old x cmp = (old &&& x, 0) ∧ atomicNew 6 wide old x cmp = (old ||| x, 0) ∧
      atomicNew 7 wide old x cmp = (old ^^^ x, 0) ∧ atomicNew 8 wide old x cmp = (x, 0) ∧
      atomicNew 9 wide old x cmp = (if old = cmp then x else old, 0) ∧
      atomicNew 10 wide old x cmp = fm.convert 0 true (FVal.add 0 (fm.decode old) (fm.decode x))

/-- R169, R183 to R186: the capability instructions. Every write of a c register clears perms [15:8]; tags are kept only
under the rules of each instruction. -/
def Obligations.CapabilityInstructionsComplete : Prop :=
  ∀ (f : Fields) (s : State) (is : Issue), (s.nat is f).Runs →
    let en := s.nat is f
    let a := en.w.getC f.a.toNat
    let b := en.w.getC f.b.toNat
    let off := en.sA f + f.w2.signExtend 64
    let own := fun (x : Cap) => x.ctx.toNat = en.ctx ∧ ∃ k, mapFind s.ctxs en.ctx = some k ∧ x.gen = k.cgen
    let valid := fun (x : Cap) => x.tag = true ∧ x.otype = 0 ∧ own x
    let gives := fun (i : Instr) (c : Cap) => exec i s = .next (en.gives (en.w.setC f.d.toNat c))
    let len := if mb f 0 then f.w2.zeroExtend 64 else en.sC f
    let m := if mb f 0 then f.w2.extractLsb' 0 16 else (en.sB f).extractLsb' 0 16
    gives (.cmov f) a ∧
    (∃ c : Cap, gives (.cbnd f) c ∧ c.base = a.base + en.sB f ∧ c.len = len ∧ c.perms = a.perms ∧ c.otype = a.otype ∧
      c.ctx = a.ctx ∧ c.gen = a.gen ∧ c.rsvd = a.rsvd ∧
      (c.tag = true ↔ a.tag = true ∧ a.otype = 0 ∧ (en.sB f).toNat + len.toNat ≤ a.len.toNat)) ∧
    (∃ c : Cap, gives (.cperm f) c ∧ c.base = a.base ∧ c.len = a.len ∧ c.perms = a.perms &&& m &&& 0xFF ∧
      c.otype = a.otype ∧ c.ctx = a.ctx ∧ c.gen = a.gen ∧ c.rsvd = a.rsvd ∧ (c.tag = true ↔ a.tag = true ∧ a.otype = 0)) ∧
    (∃ c : Cap, gives (.cseal f) c ∧ c.base = a.base ∧ c.len = a.len ∧ c.perms = a.perms ∧ c.ctx = a.ctx ∧
      c.gen = a.gen ∧ c.rsvd = a.rsvd ∧ c.otype = (if mb f 0 then 0 else b.base.truncate 12) ∧
      (c.tag = true ↔ a.tag = true ∧ b.tag = true ∧ own b ∧ b.otype = 0xFFF ∧
        (if mb f 0 then 1 ≤ a.otype.toNat ∧ a.otype.toNat ≤ 0xFFE ∧ b.base.toNat ≤ a.otype.toNat ∧
            a.otype.toNat < b.base.toNat + b.len.toNat
         else a.otype = 0 ∧ 1 ≤ b.base.toNat ∧ b.base.toNat ≤ 0xFFE ∧ 1 ≤ b.len.toNat))) ∧
    exec (.cget f) s = .next (en.gives (en.w.setS f.d.toNat (match f.mod.toNat with
      | 0 => a.base
      | 1 => a.len
      | 2 => a.perms.zeroExtend 64
      | 3 => a.otype.zeroExtend 64
      | 4 => a.ctx.zeroExtend 64
      | 5 => a.gen.zeroExtend 64
      | _ => if a.tag then 1 else 0))) ∧
    (∃ r : Bool, exec (.ctest f) s = .next (en.gives (en.w.setP f.d.toNat (if r then BitVec.allOnes 64 else 0))) ∧
      (r = true ↔ if mb f 0 then valid a ∧ valid b ∧ b.base.toNat ≤ a.base.toNat ∧
          a.base.toNat + a.len.toNat ≤ b.base.toNat + b.len.toNat ∧ a.perms &&& ~~~b.perms = 0
        else valid a)) ∧
    (∀ miss s1 l tag t, s.laneCheck en.who b (permR ||| permLC) off 32 false = (.ok (b.base + off, miss), s1) →
      s1.l1Load en.who (b.base + off) 32 miss = ((l, tag), t) →
      let c : Cap := { bits := BitVec.ofNat 256 (leNat l), tag := false }
      exec (.cld f) s = .next (en.goesOn (t.putWarp is.warp
        (en.w.setC f.d.toNat { c with tag := tag && decide (c.rsvd = 0) })))) ∧
    (∀ pa t, s.homeCheck en.who b (permW ||| permSC) off 32 32 { w := true } = (.ok (b.base + off, pa), t) →
      let c := en.w.getC f.c.toNat
      let u := (t.goHome en.who (b.base + off) pa).physWrite pa c.bytes
      exec (.cst f) s = .next (en.goesOn { u with mem := u.mem.setTag pa c.tag }))

/-- R188, R189, R191, R195, R197 to R199, R204: the matrix group's single-warp operations are accepted once every check
has passed: the handle in h[D], and the operation last in the engine's order. WSCL has no handle. -/
def Obligations.MatrixOperationsAreAccepted : Prop :=
  ∀ (f : Fields) (s : State) (is : Issue), (s.nat is f).Runs →
    (s.core (s.nat is f).block.core).mxRows ≠ 0 →
    let en := s.nat is f
    let d := f.d.toNat
    let core := s.core en.block.core
    let accepts := fun (i : Instr) (fn : Nat) (desc : Option (Nat × Nat × Nat)) (kind : EngineKind) =>
      ∃ t, exec i s = .next (en.goesOn t) ∧ en.Accepted t d 0 fn desc kind
    let b := en.w.getC f.b.toNat
    let word := f.w2.toNat
    (let fmt := word % 16
     let k := word / 16 % 128 + 1
     let n := word / 2048 % 64 + 1
     let m : MatRef := { cap := b, off := en.sA f, stride := (en.sC f).toNat, count := n }
     m.stride % 4 = 0 → recordLen fmt k false ≤ m.stride → en.memCheck m (recordLen fmt k false) permR 4 = none →
     accepts (.wld f) 0 (some (fmt, k, n)) (.wld m fmt k n core.nextLoad)) ∧
    (let scales := fun (i : Instr) (m : Option MatRef) => ∃ t o, exec i s = .next (en.goesOn t) ∧
        (t.core en.block.core).ops = core.ops ++ [o] ∧ o.kind = .wscl m ∧ o.warp = is.warp ∧ o.value = 0 ∧
        t.warps = s.warps
     let m : MatRef := { cap := b, off := en.sA f, stride := 256, count := 1 }
     (en.memCheck m 256 permR 4 = none → scales (.wscl f) (some m)) ∧ scales (.wsclNone f) none) ∧
    (∀ st wfmt k n num ld,
      let h := en.w.getH f.c.toNat
      let a := en.w.pair f.a.toNat
      let afmt := word / 4096 % 16
      let act := a.ref b
      let topk := mb f 3
      h.value ≠ 0 → mapFind s.ops h.uid = some st → st.desc = some (wfmt, k, n) → pairing afmt wfmt = true →
      (topk = true → intPath wfmt = false ∧ en.w.topk ≠ 0 ∧ en.w.ib + 64 * a.tcol + n - 1 ≤ 4095) →
      ({ a with tcol := if topk then 0 else a.tcol : Pair }.ok (recordLen afmt k (mb f 1)) 4096) = true →
      en.memCheck act (recordLen afmt k (mb f 1)) permR 4 = none →
      windowFault en.w en.block (word % 4096) act.count = none →
      mapFirst (fun _ (l : Load) => decide (l.op = h.uid)) core.loads = some (num, ld) → core.displaced num = false →
      st.state ≠ 4 → st.state ≠ 5 →
      accepts (.mma f) 2 none (.mma
        { row := en.w.accBase.toNat + word % 4096, act, afmt, wfmt, kdim := k, ndim := n, acc := mb f 0, rs := mb f 1
          cs := mb f 2, topk := if topk then some (en.w.topk, en.w.ib + 64 * a.tcol) else none, load := num } h.uid)) ∧
    (let a := en.w.pair f.a.toNat
     let c := en.w.pair f.c.toNat
     let k := (en.w.getS (f.c.toNat + 2)).toNat
     let fmt := word / 65536 % 16
     let len := recordLen fmt k false
     let ra := a.ref b
     let rb := c.ref (en.w.getC (word / 4096 % 16))
     1 ≤ k → k ≤ 2 ^ 31 → a.ok len 64 = true → c.ok len 32 = true →
     en.memCheck ra len permR (elemBits fmt / 8) = none → en.memCheck rb len permR (elemBits fmt / 8) = none →
     windowFault en.w en.block (word % 4096) ra.count = none →
     accepts (.msl f) 5 none (.msl (en.w.accBase.toNat + word % 4096) ra rb fmt k (word / 2 ^ 20 % 8 + 1) (mb f 0)
       (mb f 1) {}))

/-- R203, R209 to R212: the epilogue operations are accepted once every check has passed, and ATOPK empties the
sidebands of its rows and sets what the next top-k products use. -/
def Obligations.EpilogueOperationsAreAccepted : Prop :=
  ∀ (f : Fields) (s : State) (is : Issue), (s.nat is f).Runs →
    let en := s.nat is f
    let accepts := fun (i : Instr) (fn : Nat) (kind : EngineKind) =>
      ∃ t, exec i s = .next (en.goesOn t) ∧ en.Accepted t f.d.toNat 2 fn none kind
    let word := f.w2.toNat
    let base := en.w.accBase.toNat
    (let a := en.w.pair f.a.toNat
     let fmt := word / 4096 % 16
     let size := elemBits fmt / 8
     let n := word / 65536 % 64 + 1
     let dst := a.ref (en.w.getC f.b.toNat)
     let off := (en.sC f).toNat
     a.rsvd = 0 → a.tcol = 0 → 1 ≤ a.count → a.count ≤ 4096 → a.stride % size = 0 → n * size ≤ a.stride →
     en.memCheck dst (n * size) permW size = none →
     (mb f 1 = true → off < 2 ^ 63 ∧ off + 4 * a.count ≤ 4096 * en.block.spu ∧ off % 4 = 0) →
     windowFault en.w en.block (word % 4096) a.count = none →
     accepts (.aepi f) 0 (.aepi (base + word % 4096) dst fmt n (mb f 0) (if mb f 1 then some off else none) (mb f 2)
       (mb f 3) (mb f 4) (f.mod.toNat / 32 % 4))) ∧
    (∀ p : Warp,
      let n := word / 4096 % 8192
      let row := (en.sA f + BitVec.ofNat 64 (word % 4096)).toNat
      en.w.pod.on = true → mapFind s.warps (warpKey en.bk en.w.pod.partner.toNat) = some p →
      windowFault en.w en.block row n = none → windowFault p en.block row n = none →
      accepts (.agui f) 1 (.agui (base + row) (p.accBase.toNat + row) n en.w.podG en.w.pod.uncond
        en.w.pod.partner.toNat en.w.pod.seq)) ∧
    (let n := word % 8192
     let row := (en.sC f).toNat
     let m : MatRef := { cap := en.w.getC f.b.toNat, off := en.sA f, stride := 64, count := n }
     windowFault en.w en.block row n = none →
     (en.memCheck m 64 permW 4 = none → accepts (.atksRd f) 3 (.atks (base + row) n m false en.w.topk en.w.ib)) ∧
     (en.memCheck m 64 permR 4 = none → accepts (.atksWr f) 3 (.atks (base + row) n m true en.w.topk en.w.ib))) ∧
    (let n := word / 4096 % 8192
     let row := (en.sA f + BitVec.ofNat 64 (word % 4096)).toNat
     (en.sB f).toNat ≤ 4095 → windowFault en.w en.block row n = none →
     s.accHeld is.warp [] [(base + row, n, true)] false = false →
     exec (.atopk f) s = .next (en.goesOn ((s.modBlock en.bk fun b => b.clearSides (base + row) n).putWarp is.warp
       { en.w with topk := f.mod.toNat % 16, ib := (en.sB f).toNat })))

/-- R200: MMAG is accepted once its descriptor, offset vector and bitmap have been read and every check has passed.
That it waits for the earlier engine operations of its warp that write those bytes, and that a page fault there is a
replayable one, is the model's reading (log 13), beside R200's reads at issue. -/
def Obligations.GroupedProductIsAccepted : Prop :=
  ∀ (f : Fields) (s s1 s2 s3 : State) (is : Issue) (l l2 l3 : List Byte), (s.nat is f).Runs →
    (s.core (s.nat is f).block.core).mxRows ≠ 0 →
    let en := s.nat is f
    let desc : MatRef := { cap := en.w.getC f.b.toNat, off := en.sA f, stride := 64, count := 1 }
    let g : GroupDesc := { dw := (bytesDw 8 l).map BitVec.toNat }
    let ocap := en.w.getC (g.get 1 40 4)
    let wcap := en.w.getC (g.get 1 36 4)
    let vec : MatRef := { cap := ocap, off := BitVec.ofNat 64 (g.get 5 0 64), stride := 0, count := 1 }
    let map : MatRef := { cap := ocap, off := BitVec.ofNat 64 (g.get 6 0 64), stride := 0, count := 1 }
    let offs := (chunks 4 (g.groups + 1) l2).map leNat
    let first := offs.getD 0 0
    let total := offs.getD g.groups 0
    let act : MatRef := { cap := en.w.getC (g.get 1 32 4), off := BitVec.ofNat 64 (g.get 0 0 64)
                          stride := g.get 1 0 32, count := total }
    let bitmap := bit (g.dw.getD 7 0) 15 = true ∧ total ≠ 0
    let held := fun (s : State) (va : Word) (n : Nat) => s.readsHeld is.warp va.toNat n = true
    let reads := fun (s : State) (va : Word) (n : Nat) (l : List Byte) (t : State) =>
      ¬held s va n ∧
      (s.flushFor is.warp [(va.toNat, n, false)]).engineRead en.block.core en.ctx va n = (.ok l, t)
    en.memCheck desc 64 permR 4 = none →
    (held s desc.base 64 → exec (.mmag f) s = .next (en.waitsOn s (.reads desc.base.toNat 64))) ∧
    (reads s desc.base 64 l s1 → g.ok = true →
    en.memCheck vec (4 * (g.groups + 1)) permR 4 = none →
    reads s1 vec.base (4 * (g.groups + 1)) l2 s2 →
    (∀ i < g.groups, offs.getD i 0 ≤ offs.getD (i + 1) 0) → (total ≠ 0 → en.memCheck act g.recs.1 permR 4 = none) →
    en.groupChecks g wcap g.groups 0 = none → windowFault en.w en.block (f.w2.toNat % 4096 + first) (total - first) = none →
    (¬bitmap → exec (.mmag f) s =
      .next (en.goesOn (en.acceptMmag s2 f g act wcap (groupRows offs (fun _ => true) g.groups 0)))) ∧
    (bitmap → en.memCheck map (ceilDiv total 8) permR 4 = none →
      reads s2 map.base (ceilDiv total 8) l3 s3 →
      exec (.mmag f) s = .next (en.goesOn (en.acceptMmag s3 f g act wcap
        (groupRows offs (fun r => (l3.getD (r / 8) 0).getLsbD (r % 8)) g.groups 0)))))

/-- R202, R289: an MMAP pairs with its waiting partner, waits for it, goes unpaired, or traps together with it where
their shapes differ; the event after 1,024 clk sends a waiting one on unpaired. That the event changes nothing where
no MMAP waits is the model's choice (log 38). -/
def Obligations.PairedProductMeetsItsPartner : Prop :=
  (∀ (f : Fields) (s : State) (is : Issue) (p : Warp), (s.nat is f).Runs →
    (s.core (s.nat is f).block.core).mxRows ≠ 0 → (s.nat is f).w.pod.on = true →
    (∀ r, (s.nat is f).sl.wait ≠ some (.mmap r)) →
    let en := s.nat is f
    let a := en.w.pair f.a.toNat
    let c := en.w.pair f.c.toNat
    let word := f.w2.toNat
    let afmt := word / 2 ^ 16 % 16
    let wfmt := word / 2 ^ 20 % 16
    let k := word / 2 ^ 24 % 128 + 1
    let act := a.ref (en.w.getC f.b.toNat)
    let w := c.ref (en.w.getC (word / 4096 % 16))
    let q : MmapReq :=
      { issue := is, mask := en.e, d := f.d.toNat
        p := { row := en.w.accBase.toNat + word % 4096, act, afmt, wfmt, kdim := k, ndim := w.count, acc := mb f 0
               rs := mb f 1, cs := mb f 2 }
        w, shape := [act.count, k, w.count, afmt, wfmt, w.base.toNat, w.stride], seq := en.w.pod.seq, since := s.clk
        sregs := [en.w.getS f.a.toNat, en.w.getS (f.a.toNat + 1), en.w.getS f.c.toNat, en.w.getS (f.c.toNat + 1)]
        caps := [act.cap, w.cap] }
    pairing afmt wfmt = true → a.ok (recordLen afmt k (mb f 1)) 4096 = true → c.ok (recordLen wfmt k false) 64 = true →
    en.memCheck act (recordLen afmt k (mb f 1)) permR 4 = none → en.memCheck w (recordLen wfmt k false) permR 4 = none →
    windowFault en.w en.block (word % 4096) act.count = none →
    mapFind s.warps (warpKey en.bk en.w.pod.partner.toNat) = some p →
    let pk := warpKey en.bk en.w.pod.partner.toNat
    (∀ r, p.waitingMmap = some r → r.seq = en.w.pod.seq →
      (r.shape = q.shape → exec (.mmap f) s = .next (en.goesOn (s.pairMmap r q p.pod.uncond))) ∧
      (r.shape ≠ q.shape → exec (.mmap f) s = .next (en.raise
        (s.takeTrap pk r.issue.slot r.issue.pc { cause := 0x24, lanes := r.mask } false false)
        { cause := 0x24, lanes := en.e }))) ∧
    (((∃ r, p.waitingMmap = some r ∧ r.seq ≠ en.w.pod.seq) ∨
        (p.waitingMmap = none ∧ en.w.pod.seq.toNat < p.pod.seq.toNat)) →
      exec (.mmap f) s = .next (en.goesOn (match mapFind (s.mmapAlone q).warps pk with
        | some u => match u.waitingMmap with
          | some r => if (s.mmapAlone q).mmapOver pk u r then (s.mmapAlone q).mmapGiveUp pk else s.mmapAlone q
          | none => s.mmapAlone q
        | none => s.mmapAlone q))) ∧
    (p.waitingMmap = none → p.pod.seq.toNat ≤ en.w.pod.seq.toNat →
      exec (.mmap f) s = .next (en.waitsOn s (.mmap q)))) ∧
  ∀ (key : Nat) (s : State) (w : Warp) (r : MmapReq), mapFind s.warps key = some w → w.waitingMmap = some r →
    (s.mmapOver key w r = true → exec (.mmapRendezvousTimeout key) s = .next ((s.mmapAlone r).finishWait r.issue)) ∧
    (r.since + 1024 ≤ s.clk → s.mmapOver key w r = true) ∧
    (s.mmapOver key w r = false → exec (.mmapRendezvousTimeout key) s = .next s)

/-- R206 to R208: accumulator banks, windows and rows. AALLOC and AFREE zero the rows of their banks, AZERO those of its
range; LDA reads a row lane by lane and STA writes the lanes of its mask. -/
def Obligations.AccumulatorInstructionsComplete : Prop :=
  ∀ (f : Fields) (s : State) (is : Issue), (s.nat is f).Runs →
    let en := s.nat is f
    let b := en.block
    let base := en.w.accBase.toNat
    let word := f.w2.toNat
    (let a := (en.sA f).toNat
     let n := word % 128
     let m : BitVec 64 := BitVec.ofNat 64 ((2 ^ n - 1) * 2 ^ a)
     a + n ≤ 64 →
     ((∀ i < n, b.banks.getLsbD (a + i) = false) →
       ((List.range 64).filter fun i => b.banks.getLsbD i).length + n ≤ b.accb →
       exec (.aalloc f) s = .next (en.goesOn
         (s.modBlock en.bk fun b => { b with banks := b.banks ||| m }.clearRows (64 * a) (64 * n)))) ∧
     ((∀ i < n, b.banks.getLsbD (a + i) = true) →
       s.accHeld is.warp [(64 * a, 64 * n, true)] [(64 * a, 64 * n, true)] true = false →
       exec (.afree f) s = .next (en.goesOn
         (s.modBlock en.bk fun b => { b with banks := b.banks &&& ~~~m }.clearRows (64 * a) (64 * n))))) ∧
    (∀ t : Warp, let k := (en.sA f).toNat
     warpId is.warp = 0 → k < b.wpb → mapFind s.warps (warpKey en.bk k) = some t → (en.sC f).toNat ≤ 4096 →
     (en.sB f).toNat ≤ (en.sC f).toNat →
     exec (.awin f) s = .next (en.goesOn (s.putWarp (warpKey en.bk k)
       { t with accBase := (en.sB f).truncate 13, accLimit := (en.sC f).truncate 13 }))) ∧
    (let n := word / 4096 % 8192
     let row := (en.sA f + BitVec.ofNat 64 (word % 4096)).toNat
     windowFault en.w b row n = none →
     s.accHeld is.warp [(base + row, n, true)] [(base + row, n, true)] true = false →
     exec (.azero f) s = .next (en.goesOn (s.modBlock en.bk fun b => b.clearRows (base + row) n))) ∧
    (let row := (en.sA f + f.w2.signExtend 64).toNat
     windowFault en.w b row 1 = none →
     (s.accHeld is.warp [(base + row, 1, false)] [] true = false → b.torn = [] →
       exec (.lda f) s = .next (en.gives (en.w.setV f.d.toNat en.e fun i => laneOf (b.accRow (base + row)) i))) ∧
     (s.accHeld is.warp [(base + row, 1, true)] [] true = false →
       exec (.sta f) s = .next (en.goesOn (s.modBlock en.bk fun b =>
         b.setAcc (base + row) (lanesOf fun i => if en.e.getLsbD i then en.w.getV f.d.toNat i
           else laneOf (b.accRow (base + row)) i))))) ∧
    ∀ (b : Block) (row n r : Nat),
      ((b.clearRows row n).accRow r = if row ≤ r ∧ r < row + n then zeroLanes else b.accRow r) ∧
      ((b.clearRows row n).sideRow r = if row ≤ r ∧ r < row + n then noSide else b.sideRow r)

/-- R213 to R215: MFENCE closes a batch; MWAIT goes on, waits or traps with its operation; HTEST reads the status;
HCANCEL ends an operation that has not started; HMOV copies. R201: POD waits for its partner, joins with one that
waits for it in the other role, and traps where it cannot; POD.off dissolves the pod. -/
def Obligations.HandleAndPodInstructionsComplete : Prop :=
  (∀ (f : Fields) (s : State) (is : Issue), (s.nat is f).Runs →
    let en := s.nat is f
    let d := f.d.toNat
    let h := en.w.getH f.a.toNat
    let core := en.block.core
    let b := if (en.sA f).toNat < en.w.batch.toNat then en.sA f else en.w.batch
    let open_ := fun (o : EngineOp) => o.warp = is.warp ∧ o.batch.toNat ≤ b.toNat
    let due := en.w.failures.filter fun x => decide (x.2.toNat ≤ b.toNat)
    let can := fun (o : EngineOp) => h.value ≠ 0 ∧ o.uid = h.uid ∧ o.cancellable = true
    exec (.mfence f) s =
      .next (en.gives ({ en.w with batch := en.w.batch + 1 }.setS d (en.w.batch + 1))) ∧
    exec (.hmov f) s = .next (en.gives (en.w.setH d h)) ∧
    (h.value = 0 → exec (.mwait f) s = .next (en.goesOn s) ∧ exec (.htest f) s = .next (en.gives (en.w.setS d 15))) ∧
    (∀ x, h.value ≠ 0 → mapFind s.ops h.uid = some x →
      (x.state ≤ 1 → exec (.mwait f) s = .next (en.waitsOn s (.handle h.uid true))) ∧
      (x.state = 5 → exec (.mwait f) s = .next (en.raise s { cause := 0x26, addr := h.value, lanes := en.e })) ∧
      (1 < x.state → x.state ≠ 5 → exec (.mwait f) s = .next (en.goesOn s)) ∧
      exec (.htest f) s = .next (en.gives (en.w.setS d (BitVec.ofNat 64
        (x.state + 2 ^ 8 * x.cause + (if x.overflow then 2 ^ 16 else 0) + 2 ^ 32 * (x.progress % 2 ^ 32)))))) ∧
    ((∃ o ∈ (s.core core).ops, open_ o) → exec (.mwaitB f) s = .next (en.waitsOn s (.batch b))) ∧
    ((∀ o ∈ (s.core core).ops, ¬open_ o) →
      (due = [] → (en.w.ovlo = 0 ∨ b.toNat < en.w.ovlo.toNat) → exec (.mwaitB f) s = .next (en.goesOn s)) ∧
      (due = [] → en.w.ovlo ≠ 0 → en.w.ovlo.toNat ≤ b.toNat →
        exec (.mwaitB f) s = .next (en.raise
          (en.put (if en.w.ovhi.toNat ≤ b.toNat then { en.w with ovlo := 0, ovhi := 0 } else { en.w with ovlo := b + 1 }))
          { cause := 0x26, addr := BitVec.allOnes 64, lanes := en.e })) ∧
      (due ≠ [] → ∃ v ∈ due, (∀ x ∈ due, v.1.toNat ≤ x.1.toNat) ∧
        exec (.mwaitB f) s = .next (en.raise
          (en.put { en.w with failures := en.w.failures.filter fun x => decide (b.toNat < x.2.toNat) })
          { cause := 0x26, addr := v.1, lanes := en.e }))) ∧
    ((∀ o ∈ (s.core core).ops, ¬can o) → exec (.hcancel f) s = .next (en.gives (en.w.setS d 1))) ∧
    (∀ o, (s.core core).ops.find? (fun o => decide (h.value ≠ 0 ∧ o.uid = h.uid) && o.cancellable) = some o →
      exec (.hcancel f) s = .next (en.goesOn ((s.opEnd core o 4 0).modWarp is.warp fun w => w.setS d 0)))) ∧
  (∀ (f : Fields) (s : State) (is : Issue), (s.nat is f).Runs →
    let en := s.nat is f
    let t := (en.sA f).toNat
    let me := warpId is.warp
    let pk := warpKey en.bk t
    let bad := (Host.Outcome.next (en.raise s { cause := 0x23, lanes := en.e }) : Out)
    let joins := fun (i : Instr) (uncond : Bool) =>
      ((en.block.wpb ≤ t ∨ t = me ∨ en.w.pod.on = true) → exec i s = bad) ∧
      (t < en.block.wpb → t ≠ me → en.w.pod.on = false → mapFind s.warps pk = none → exec i s = bad) ∧
      (t < en.block.wpb → t ≠ me → en.w.pod.on = false → ∀ p, mapFind s.warps pk = some p →
        (p.pod.on = true → exec i s = bad)) ∧
      (t < en.block.wpb → t ≠ me → en.w.pod.on = false → ∀ p, mapFind s.warps pk = some p → p.pod.on = false →
        (p.waitingPod = none → exec i s = .next (en.waitsOn s (.pod t uncond is en.e))) ∧
        (∀ q u js m, p.waitingPod = some (q, u, js, m) → q ≠ me →
          exec i s = .next (en.waitsOn s (.pod t uncond is en.e))) ∧
        (∀ js m, p.waitingPod = some (me, uncond, js, m) → exec i s = .next (en.raise
          (s.takeTrap pk js.slot js.pc { cause := 0x23, lanes := m } false false) { cause := 0x23, lanes := en.e })) ∧
        (∀ js m, p.waitingPod = some (me, !uncond, js, m) →
          exec i s = .next (en.goesOn ((((s.modWarp is.warp fun w =>
              { w with pod := { on := true, uncond, partner := BitVec.ofNat 6 t } }).modWarp pk fun w =>
              { w with pod := { on := true, uncond := !uncond, partner := BitVec.ofNat 6 me } }).finishWait js).podTaken
            en.bk me t))))
    joins (.podC f) false ∧ joins (.podU f) true ∧
    (en.w.pod.on = true → exec (.podOff f) s = .next (en.goesOn (s.dissolve is.warp))) ∧
    (en.w.pod.on = false → exec (.podOff f) s = bad))

/-- R222, R226 to R228: the copy instructions publish their entry in the ring, after a release, and read its sequence
number; while the ring is full they wait. -/
def Obligations.CopyInstructionsPublishTheirEntries : Prop :=
  ∀ (f : Fields) (s : State) (is : Issue) (r : Ring), (s.nat is f).Runs →
    let en := s.nat is f
    let b := en.block
    let word := f.w2.toNat
    let ss := word % 16
    let ds := word / 16 % 16
    let bar := word / 256 % 32
    let a := en.w.getS f.a.toNat
    let a1 := en.w.getS (f.a.toNat + 1)
    let x := (en.sB f).toNat
    let n := x % 2 ^ 32
    let list := x % 2 ^ 32
    let rows := x / 2 ^ 32 % 2 ^ 16
    let rs := x / 2 ^ 48
    let stride := (en.sC f).toNat % 2 ^ 32
    let q := b.scratchWord r.off
    let inScratch := fun (off : Word) (n : Nat) => off.toNat < 2 ^ 63 ∧ off.toNat + n ≤ b.scratchSize
    let publishes := fun (i : Instr) (kind soff doff p aux rop rtype : Nat) =>
      let dw3 := kind + 2 ^ 4 * ss + 2 ^ 8 * ds + 2 ^ 12 * bar + 2 ^ 17 * rop + 2 ^ 20 * rtype + 2 ^ 23 +
        2 ^ 24 * warpId is.warp + 2 ^ 32 * aux
      ((q - r.finished).toNat < 2 ^ r.k →
        exec i s = .next (en.goesOn (((s.release is.warp).modBlock en.bk fun b =>
          (b.scratchWrite (r.off + 32 + 32 * (q.toNat % 2 ^ r.k)) ([soff, doff, p, dw3].flatMap (leBytes 8))).scratchWrite
            r.off (leBytes 4 (q + 1).toNat)).putWarp is.warp (en.w.setS f.d.toNat (q.zeroExtend 64))))) ∧
      (2 ^ r.k ≤ (q - r.finished).toNat → exec i s = .next (en.waitsOn s .ringSpace))
    b.ring = some r → r.halted = false →
      ((ss = 8 → inScratch a n) → (ds = 8 → inScratch a1 n) → publishes (.cpy f) 0 a.toNat a1.toNat n 0 0 0) ∧
      (let ty := f.mod.toNat / 8 % 8
       let size := if ty = 2 ∨ ty = 3 ∨ ty = 5 then 8 else 4
       (ss = 8 → inScratch a n) → (ds = 8 → inScratch a1 n) → a.toNat % size = 0 → a1.toNat % size = 0 → n % size = 0 →
       publishes (.cpyr f) 4 a.toNat a1.toNat n 0 (f.mod.toNat % 8) ty) ∧
      (let load := ds = 8
       let mem := if load then a else a1
       let sp := if load then a1 else a
       let c2 := signed 32 ((en.w.getS (f.c.toNat + 1)).toNat % 2 ^ 32)
       let c3 := signed 32 ((en.w.getS (f.c.toNat + 1)).toNat / 2 ^ 32 % 2 ^ 32)
       (ss = 8 ↔ ds ≠ 8) → inScratch sp 1 → -32768 ≤ c2 → c2 ≤ 32767 → -32768 ≤ c3 → c3 ≤ 32767 →
       publishes (.cpyt f) 1 mem.toNat (sp.toNat % 2 ^ 19 + 2 ^ 48 * (x % 2 ^ 16)) (en.sC f).toNat
         (wrap 16 c2 + 2 ^ 16 * wrap 16 c3) 0 0) ∧
      (rows ≠ 0 → rs ≠ 0 → rs ≤ 2047 → list % 4 = 0 → list + 4 * rows ≤ b.scratchSize →
       (ds = 8 → ss ≠ 8 → inScratch a1 (32 * rows * rs) → publishes (.cpyg f) 2 a.toNat a1.toNat x stride 0 0) ∧
       (ss = 8 → ds ≠ 8 → inScratch a (32 * rows * rs) → publishes (.cpyx f) 3 a.toNat a1.toNat x stride 0 0))

/-- R221, R226: CPY.init gives the block a ring with a zero header, CPY.cap sets a copy slot once no entry names it; and
a copy instruction of a block without a ring, or with a halted one, traps with cause 0x30. -/
def Obligations.RingsAndSlotsAreSet : Prop :=
  ∀ (f : Fields) (s : State) (is : Issue), (s.nat is f).Runs →
    let en := s.nat is f
    let b := en.block
    let off := en.sA f
    let k := f.w2.toNat % 16
    let n := f.w2.toNat % 8
    let fails := fun (i : Instr) (cause : BitVec 16) => exec i s = .next (en.raise s { cause, lanes := en.e })
    let zeroed := fun (b : Block) =>
      ({ b with ring := some { off := off.toNat, k } }.scratchWrite off.toNat (List.replicate 32 0)).putRing
        { off := off.toNat, k }
    (off.toNat < 2 ^ 63 → off.toNat + (32 + 32 * 2 ^ k) ≤ b.scratchSize →
      ((off.toNat % 32 ≠ 0 ∨ k < 4 ∨ 8 < k) → fails (.cpyInit f) 0x22) ∧
      (off.toNat % 32 = 0 → 4 ≤ k → k ≤ 8 →
        (b.ring = none → exec (.cpyInit f) s = .next (en.goesOn (s.modBlock en.bk zeroed))) ∧
        ∀ r, b.ring = some r →
          (r.halted = false → b.scratchWord r.off ≠ r.finished → fails (.cpyInit f) 0x30) ∧
          (r.halted = false → b.scratchWord r.off = r.finished →
            exec (.cpyInit f) s = .next (en.goesOn (s.modBlock en.bk zeroed))) ∧
          (r.halted = true → b.drained r = false → exec (.cpyInit f) s = .next (en.waitsOn s .ringDrain)) ∧
          (r.halted = true → b.drained r = true →
            exec (.cpyInit f) s = .next (en.goesOn (s.modBlock en.bk fun b => zeroed (b.abandon r)))))) ∧
    (b.slotInUse n = false → exec (.cpyCap f) s = .next (en.goesOn (s.modBlock en.bk fun b =>
      { b with copySlots := mapSet {} b.copySlots n (en.w.getC f.b.toNat) }))) ∧
    (b.slotInUse n = true → exec (.cpyCap f) s = .next (en.waitsOn s (.copySlot n))) ∧
    ((b.ring = none ∨ ∃ r, b.ring = some r ∧ r.halted = true) →
      fails (.cpy f) 0x30 ∧ fails (.cpyt f) 0x30 ∧ fails (.cpyg f) 0x30 ∧ fails (.cpyx f) 0x30 ∧ fails (.cpyr f) 0x30)

/-- R220, R222, R224, R225, R233, R262: the next published entry of a ring starts, or fails and halts the ring with
the first cause that its checks find; while an earlier entry waits for a verdict it starts only if their sectors and
index lists do not overlap; an entry whose sectors have all moved completes, and done counts it. An entry whose start
reads a scratchpad row with an uncorrectable error fails with cause 0x06 (R396, log 48). R230, R233: the copy engine
moves one sector at a time; a sector that a copy of kind CPY moves between scratchpad places carries its bytes there,
and counts at the entry's barrier. -/
def Obligations.CopyEntriesStartFailAndComplete : Prop :=
  (∀ (s : State) (bk : Nat) (r : Ring), (s.block bk).ring = some r →
    let b := s.block bk
    let v := b.notify r
    let q := r.head
    let words := bytesDw 4 (b.scratchRead (r.entryAt q) 32)
    let e := entryOf words
    let held := fun (foot : Foot) => s.copyHeld bk e foot
    let fails := fun (s : State) (c : Nat) =>
      (s.modBlock bk fun b => ({ b with copies := mapErase b.copies q.toNat }.onBar e.bar fun x => x.fail q.toNat).writeRing r
        { r with halted := true, failSeq := q, cause := c, finished := r.finished + 1, head := q + 1, progress := 0 }).endBlock
          bk
    let waits := r.halted = false ∧ r.begun = [] ∧ (∀ c ∈ b.copies, c.2.fault ≠ none) ∧ s.engineStopped b.ctx = false
    let sound := b.ringCorrupt r = false ∧ (v - r.finished).toNat ≤ 2 ^ r.k ∧ v ≠ q
    (waits → (b.ringCorrupt r = true ∨ 2 ^ r.k < (v - r.finished).toNat) →
      exec (.copyEntryStart bk) s = .next (s.modBlock bk fun b => b.putRing { r with halted := true, failSeq := q, cause := 5 })) ∧
    (waits → sound → ∀ row, held e.listFoot = false → b.tornStart r e = some row →
      exec (.copyEntryStart bk) s = .next (fails (s.sramError b.core 1 row) 6)) ∧
    (waits → sound → ∀ c, held e.listFoot = false → b.tornStart r e = none → s.startEntry bk e = .error c → c ≠ 6 →
      exec (.copyEntryStart bk) s = .next (fails s c)) ∧
    (waits → sound → held e.listFoot = false → b.tornStart r e = none → ∀ ps, s.startEntry bk e = .ok ps →
      held (e.foot ps) = false →
      exec (.copyEntryStart bk) s = .next (s.modBlock bk fun b =>
        { b with copies := mapPut b.copies q.toNat
                   { seq := q.toNat, words, pieces := ps, progress := if b.copies.isEmpty then r.progress else 0 } }.writeRing
          r { r with head := q + 1 })) ∧
    (waits → sound → held e.listFoot = true → exec (.copyEntryStart bk) s = .next s) ∧
    (waits → sound → b.tornStart r e = none → ∀ ps, s.startEntry bk e = .ok ps → held (e.foot ps) = true →
      exec (.copyEntryStart bk) s = .next s) ∧
    (∀ foot : Foot, held foot = true ↔
      (∃ c ∈ b.copies, ((entryOf c.2.words).foot c.2.pieces).meets foot = true) ∨
      (e.pub = true ∧ ∃ o ∈ (s.core b.core).ops, o.warp = warpKey bk e.warp ∧ o.kind.foot.meets foot = true)) ∧
    (e.malformed = true → s.startEntry bk e = .error 4) ∧
    (r.halted = true → r.begun = [] → exec (.copyEntryStart bk) s = .next s) ∧
    (∀ x c, mapFind b.copies x = some c → c.pieces.length ≤ c.progress → c.fault = none →
      let e := entryOf c.words
      let t := s.modBlock bk fun b =>
        { b with copies := mapErase b.copies x }.writeRing r { r with finished := r.finished + 1, progress := 0 }
      exec (.copyEntryComplete bk x) s = .next ((if e.pub then
        t.modWarp (warpKey bk e.warp) fun w => w.raiseFlags c.flags else t).endBlock bk)) ∧
    (∀ (x : Barrier) (n : Nat), x.failed = false → (x.fail n).failed = true ∧ (x.fail n).failSeq = n ∧
      ((x.fail n).sector = x.fail n)) ∧
    ∀ old new : Ring, (old.halted = false → b.ringCorrupt old = true → new.halted = false →
        b.writeRing old new = b.putRing { new with halted := true, failSeq := new.head, cause := 5 }) ∧
      (b.ringCorrupt old = false → b.writeRing old new = b.putRing new)) ∧
  (∀ (s : State) (bk : Nat) (r : Ring) (c : CopyOp) (p : Piece), (s.block bk).ring = some r → (s.block bk).torn = [] →
    mapFind (s.block bk).copies c.seq = some c → (entryOf c.words).kind = 0 → c.pieces[c.progress]? = some p →
    p.srcScratch = true → p.dstScratch = true → p.skip = 0 → p.srcLen = p.len → p.len ≠ 0 → p.counted = true →
    let e := entryOf c.words
    s.copyStep bk c = (s.modBlock bk fun b =>
      let b := b.scratchWrite p.dst ((s.block bk).scratchRead p.src p.len)
      let b := { b with copies := mapModify b.copies c.seq fun c => { c with progress := c.progress + 1 } }
      (b.writeRing r { r with progress := c.progress + 1 }).onBar e.bar fun x => x.sector))

/-- R232, R233: the named-barrier group. BARI sets the expected counts of a quiet barrier; BARA reads the phase and
arrives; BARW waits for its phase to end; BART reads the counts; a stopped barrier traps each of the last three. R232,
R233: what an arrival and a counted sector do to a barrier: the last one that is expected ends the phase, and one too
many sets the overflow bit. -/
def Obligations.NamedBarriersCompleteAndTheirPhasesEnd : Prop :=
  (∀ (f : Fields) (s : State) (is : Issue), (s.nat is f).Runs →
    let en := s.nat is f
    let n := f.w2.toNat % 16
    let b := en.block.bar n
    let me := warpId is.warp
    let warps := (en.sA f).toNat
    let secs := (en.sB f).toNat
    let put := fun (s : State) (x : Barrier) => s.modBlock en.bk fun k => k.setBar n x
    let traps := fun (i : Instr) (cause : BitVec 16) (addr : Word) =>
      exec i s = .next (en.raise s { cause, addr, lanes := en.e })
    let runs := b.failed = false ∧ b.overflow = false
    (b.arrivals = 0 → b.sectors = 0 → s.barWaited en.bk n = false → 1 ≤ warps → warps ≤ 64 → secs < 2 ^ 32 →
      exec (.bari f) s = .next (en.goesOn (put s { phase := b.phase, expWarps := warps, expSectors := secs }))) ∧
    ((b.arrivals ≠ 0 ∨ b.sectors ≠ 0 ∨ s.barWaited en.bk n = true ∨ warps = 0 ∨ 64 < warps ∨ 2 ^ 32 ≤ secs) →
      traps (.bari f) 0x31 0) ∧
    (runs → exec (.bara f) s = .next (en.goesOn ((put (s.release is.warp) (b.arrive me)).putWarp is.warp
      (en.w.setS f.d.toNat (b.phase.zeroExtend 64))))) ∧
    (runs → b.phase ≠ (en.sA f).extractLsb' 0 32 → exec (.barw f) s = .next (en.goesOn (s.acquire is.warp 2))) ∧
    (runs → b.phase = (en.sA f).extractLsb' 0 32 →
      exec (.barw f) s = .next (en.waitsOn (put s b.start) (.barrier n b.phase))) ∧
    (runs → exec (.bart f) s = .next (en.gives (en.w.setS f.d.toNat (BitVec.ofNat 64
      (if mb f 0 then b.sectors else b.phase.toNat + 2 ^ 32 * b.arrivals))))) ∧
    (b.overflow = true → traps (.bara f) 0x32 0 ∧ traps (.barw f) 0x32 0 ∧ traps (.bart f) 0x32 0) ∧
    (b.overflow = false → b.failed = true → let a := BitVec.ofNat 64 b.failSeq
      traps (.bara f) 0x33 a ∧ traps (.barw f) 0x33 a ∧ traps (.bart f) 0x33 a)) ∧
  (∀ (b : Barrier) (me : Nat), b.failed = false → b.overflow = false →
    let ended := fun (x : Barrier) =>
      x.phase = b.phase + 1 ∧ x.arrivals = 0 ∧ x.sectors = 0 ∧ x.timer = none ∧ x.expWarps = b.expWarps ∧
      x.expSectors = b.expSectors ∧ x.overflow = false ∧ x.failed = false
    (b.arrivals + 1 = b.expWarps → b.sectors = b.expSectors → ended (b.arrive me)) ∧
    (b.sectors + 1 = b.expSectors → b.arrivals = b.expWarps → ended b.sector) ∧
    (b.arrivals ≠ b.expWarps → ¬(b.arrivals + 1 = b.expWarps ∧ b.sectors = b.expSectors) →
      (b.arrive me).phase = b.phase ∧ (b.arrive me).arrivals = b.arrivals + 1 ∧ (b.arrive me).sectors = b.sectors) ∧
    (b.sectors ≠ b.expSectors → ¬(b.sectors + 1 = b.expSectors ∧ b.arrivals = b.expWarps) →
      b.sector.phase = b.phase ∧ b.sector.sectors = b.sectors + 1 ∧ b.sector.arrivals = b.arrivals) ∧
    (b.arrivals = b.expWarps → b.arrive me = { b with overflow := true }) ∧
    (b.sectors = b.expSectors → b.sector = { b with overflow := true }))

/-- R235: package barriers. The arrival that makes up the expected number starts the next generation. -/
def Obligations.PackageBarriersComplete : Prop :=
  ∀ (f : Fields) (s : State) (is : Issue), (s.nat is f).Runs →
    let en := s.nat is f
    let k := f.w2.toNat % 8
    let b := en.sbar k
    let n := (en.sA f).toNat
    let put := fun (s : State) (x : SBar) => s.modCtx en.ctx fun c => { c with sbars := mapSet {} c.sbars k x }
    let traps := fun (i : Instr) => exec i s = .next (en.raise s { cause := 0x31, lanes := en.e })
    let last := b.arrivals + 1 = b.expected
    let arrived : SBar := if last then { b with gen := b.gen + 1, arrivals := 0 } else { b with arrivals := b.arrivals + 1 }
    let first := ∀ m g, en.sl.wait ≠ some (.pkg m g true)
    (1 ≤ n → n ≤ 46080 → b.arrivals = 0 →
      exec (.sbarInit f) s = .next (en.goesOn (put s { b with expected := n }))) ∧
    ((n = 0 ∨ 46080 < n ∨ b.arrivals ≠ 0) → traps (.sbarInit f)) ∧
    (b.expected ≠ 0 → exec (.sbarArrive f) s =
      .next (en.goesOn ((put (s.release is.warp) arrived).putWarp is.warp (en.w.setS f.d.toNat b.gen)))) ∧
    (b.expected = 0 → traps (.sbarArrive f) ∧ (first → traps (.sbarSync f))) ∧
    (b.gen = en.sA f → exec (.sbarWait f) s = .next (en.waitsOn s (.pkg k (en.sA f) false))) ∧
    (b.gen ≠ en.sA f → exec (.sbarWait f) s = .next (en.goesOn (s.acquire is.warp 5))) ∧
    (first → b.expected ≠ 0 → last →
      exec (.sbarSync f) s = .next (en.goesOn ((put (s.release is.warp) arrived).acquire is.warp 5))) ∧
    (first → b.expected ≠ 0 → ¬last →
      exec (.sbarSync f) s = .next (en.waitsOn (put (s.release is.warp) arrived) (.pkg k b.gen true))) ∧
    (∀ g, en.sl.wait = some (.pkg k g true) →
      (b.gen = g → exec (.sbarSync f) s = .next (en.waitsOn s (.pkg k g true))) ∧
      (b.gen ≠ g → exec (.sbarSync f) s = .next (en.goesOn (s.acquire is.warp 5))))

/-- R23, R234: SETJ joins a set and counts its members, SETL leaves one, and SETW arrives and waits for every member. -/
def Obligations.MembershipSetsComplete : Prop :=
  ∀ (f : Fields) (s : State) (is : Issue), (s.nat is f).Runs →
    let en := s.nat is f
    let n := (en.sA f).toNat
    let m := en.block.members n
    let id := warpId is.warp
    let me := BitVec.twoPow 64 id
    let x := mapGet {} en.block.sets n
    let count := fun (x : Word) => en.w.setS f.d.toNat (BitVec.ofNat 64 (popcount 64 x.toNat))
    let traps := fun (i : Instr) (cause : BitVec 16) => exec i s = .next (en.raise s { cause, lanes := en.e })
    let arrived := (s.release is.warp).modBlock en.bk fun b => b.arriveSet n id
    let first := ∀ p, en.sl.wait ≠ some (.set n p)
    (32 ≤ n → traps (.setj f) 0x34 ∧ traps (.setl f) 0x34 ∧ traps (.setw f) 0x34) ∧
    (n < 32 → (n = 0 ∨ m.getLsbD id = true) → exec (.setj f) s = .next (en.gives (count m))) ∧
    (n < 32 → n ≠ 0 → m.getLsbD id = false → m = 0 → 64 ≤ s.liveSets en.block.core → traps (.setj f) 0x35) ∧
    (n < 32 → n ≠ 0 → m.getLsbD id = false → (m ≠ 0 ∨ s.liveSets en.block.core < 64) →
      exec (.setj f) s = .next (en.goesOn ((s.modBlock en.bk fun b =>
        b.putSet n { x with members := m ||| me }).putWarp is.warp (count (m ||| me))))) ∧
    (n = 0 → traps (.setl f) 0x34) ∧
    (n < 32 → m.getLsbD id = false → (n ≠ 0 → traps (.setl f) 0x34) ∧ traps (.setw f) 0x34) ∧
    (n < 32 → n ≠ 0 → m.getLsbD id = true →
      exec (.setl f) s = .next (en.goesOn (s.modBlock en.bk fun b => b.leaveSet n id))) ∧
    (n < 32 → m.getLsbD id = true →
      (first → (mapGet {} (arrived.block en.bk).sets n).phase = x.phase →
        exec (.setw f) s = .next (en.waitsOn arrived (.set n x.phase))) ∧
      (first → (mapGet {} (arrived.block en.bk).sets n).phase ≠ x.phase →
        exec (.setw f) s = .next (en.goesOn (arrived.acquire is.warp 1))) ∧
      (∀ p, en.sl.wait = some (.set n p) →
        (p = x.phase → exec (.setw f) s = .next (en.waitsOn s (.set n p))) ∧
        (p ≠ x.phase → exec (.setw f) s = .next (en.goesOn (s.acquire is.warp 1))))) ∧
    ∀ (b : Block) (i : Nat),
      let y := mapGet {} b.sets n
      let all := b.members n ≠ 0 ∧ b.members n &&& ~~~(y.arrived ||| BitVec.twoPow 64 i) = 0
      n ≠ 0 → (mapGet {} (b.arriveSet n i).sets n).phase = (if all then y.phase + 1 else y.phase) ∧
        (mapGet {} (b.arriveSet n i).sets n).arrived = (if all then 0 else y.arrived ||| BitVec.twoPow 64 i) ∧
        (b.arriveSet n i).members n = b.members n

/-- R240, R241, R243 to R245: the grid accesses issue their operation, with a handle, once the pattern is valid and every
local check passes. GST and GATOM send their frames at once; the engine reads the sources of GRED and GCPY later. -/
def Obligations.GridAccessesAreIssued : Prop :=
  ∀ (f : Fields) (s : State) (is : Issue), (s.nat is f).Runs →
    let en := s.nat is f
    let j := s.jobOf (warpBlock is.warp)
    let pat := en.w.getN f.a.toNat
    let c := en.w.getC f.b.toNat
    let src := en.w.getC (f.w2.toNat % 16)
    let h := f.w2.toNat % 16
    let off := fun (uni : Bool) i =>
      (if uni then en.w.getS (f.w2.toNat / 16 % 256) else (en.w.getV (f.w2.toNat / 16 % 256) i).zeroExtend 64) +
        (f.w2.extractLsb' 12 16).signExtend 64
    let passes := fun (uni : Bool) (need : BitVec 16) (n : Nat) =>
      ∀ i < 64, en.e.getLsbD i = true → s.capCheck en.ctx c need (off uni i) n n = none
    let n := patCount j pat
    let q := fun i => en.w.getS (f.c.toNat + i)
    let len := (q 2).toNat
    let sees := s.flushFor is.warp [((src.base + q 0).toNat, len, false)]
    patValid pat = true →
    (let size := 4 + f.mod.toNat % 4
     let bytes := en.gridBytes size f.d.toNat fun i => c.base + off (mb f 3) i
     let t := if mb f 4 then s.release is.warp else s
     let head := t.gridHead j pat c.base bytes.length
     passes (mb f 3) (permW ||| permRM) (sizeBytes size) →
     exec (.gst f) s = .next (en.goesOn (en.gridStart t h { en.gridOp 0 head n with sent := true } fun k s =>
       (byteRuns bytes).foldl
         (fun s r => s.sendFrame { head with ty := 1, va := BitVec.ofNat 64 r.1, payload := r.2 } k head.wlo.toNat) s))) ∧
    (let wide := mb f 4
     let w := if wide then 8 else 4
     let op := f.mod.toNat % 16
     let head := { s.gridHead j pat c.base (w * (maskLanes en.e).length) with
       aux := en.e, op := BitVec.ofNat 4 op, etype := if wide then 1 else 0 }
     let val := fun (r i : Nat) =>
       leBytes w (if wide then en.w.getV2 r i else (en.w.getV r i).zeroExtend 64 : Word).toNat
     let payload := (maskLanes en.e).flatMap fun i =>
       leBytes 8 (off (mb f 5) i).toNat ++ val f.c.toNat i ++ (if op = 9 then val f.d.toNat i else [])
     let started := fun (ret : Option (Word × Nat × Nat)) =>
       en.gridStart s h { en.gridOp 2 head n with
         sent := true, ret, data := (maskLanes en.e).flatMap fun i => val f.c.toNat i } fun k s =>
           s.sendFrame { head with ty := 4, payload } k head.wlo.toNat
     passes (mb f 5) (permR ||| permW ||| permAT ||| permRM) w →
     (mb f 6 = true → exec (.gatom f) s = .next (en.goesOn (started none))) ∧
     (mb f 6 = false → n = 1 →
       exec (.gatom f) s = .next (en.goesOn (started (some (en.e, f.d.toNat, w)))))) ∧
    (let op := f.mod.toNat % 8
     let ty := f.mod.toNat / 8 % 8
     let head := redHead j pat (s.gridHead j pat (c.base + q 1) len) op ty (mb f 6) ((q 3).extractLsb' 0 16)
     (patIndex j pat).isSome = true → redLength op ty len = true →
     s.capCheck en.ctx c (permW ||| permRM) (q 1) len (gridElemSize ty) = none →
     s.capCheck en.ctx src permR (q 0) len (gridElemSize ty) = none →
     exec (.gred f) s = .next (en.goesOn (en.gridStart sees f.d.toNat
       { en.gridOp 3 head (if mb f 6 then n else 1) with srcVa := src.base + q 0, len } fun _ s => s))) ∧
    (s.capCheck en.ctx c (permW ||| permRM) (q 1) len 0 = none → s.capCheck en.ctx src permR (q 0) len 0 = none →
     exec (.gcpy f) s = .next (en.goesOn (en.gridStart sees f.d.toNat
       { en.gridOp 4 (onePeer (s.gridHead j pat (c.base + q 1) len) n) n with spray := 16, srcVa := src.base + q 0, len }
       fun _ s => s)))

/-- R240 to R245: an invalid pattern traps every grid access with cause 0x36, and so does a valid one that does not
name one module exactly in a GLD, that matches other than one module in a GATOM without .nr, or that leaves the issuer
out in a GRED, whose length must fit its operator (cause 0x22); a new operation gets a handle, and one whose pattern
matches nothing is complete at once and leaves the fabric alone. R29, R237: the number of coordinates that a pattern
matches is the derived count, for a grid with this module in it. R241, R243: GLD sends its request and waits; it
completes with the reply's bytes, lane by lane, in the registers that the request named, or takes the remote fault of
its target. R36, R244: the old values of a GATOM come later, into the registers that it named, with the flags that its
additions raise; until then the scoreboard keeps a slot from issuing an instruction that names one of them, and no
other. -/
def Obligations.GridOperationsStartMatchAndReturn : Prop :=
  ((∀ (f : Fields) (s : State) (is : Issue), (s.nat is f).Acts →
    let en := s.nat is f
    let traps := fun (i : Instr) => exec i s = .next (en.raise s { cause := 0x36, lanes := en.e })
    patValid (en.w.getN f.a.toNat) = false →
      traps (.gst f) ∧ traps (.gld f) ∧ traps (.gatom f) ∧ traps (.gred f) ∧ traps (.gcpy f)) ∧
  (∀ (f : Fields) (s : State) (is : Issue), (s.nat is f).Acts →
    let en := s.nat is f
    let j := s.jobOf (warpBlock is.warp)
    let pat := en.w.getN f.a.toNat
    let traps := fun (i : Instr) (c : BitVec 16) => exec i s = .next (en.raise s { cause := c, lanes := en.e })
    patValid pat = true →
    (¬((∀ a < 5, patMode pat a = 0 ∨ patMode pat a = 3) ∧ patCount j pat = 1) → traps (.gld f) 0x36) ∧
    (mb f 6 = false → patCount j pat ≠ 1 → traps (.gatom f) 0x36) ∧
    (patIndex j pat = none → traps (.gred f) 0x36) ∧
    ((patIndex j pat).isSome = true →
      redLength (f.mod.toNat % 8) (f.mod.toNat / 8 % 8) (en.w.getS (f.c.toNat + 2)).toNat = false →
      traps (.gred f) 0x22)) ∧
  ∀ (en : Env) (t : State) (w : Warp) (d : Nat) (g : GridOp) (send : Nat → State → State),
    mapFind t.warps en.key = some w →
    let k := t.nextOp
    let v := handleValue 4 g.fn w.nextSerial
    let st : OpStat := { warp := en.key, value := v, batch := w.batch + 1, desc := none, grp := 4 }
    let held := { w with serial := w.nextSerial }.setH d { value := v, uid := k }
    (g.expected = 0 → let u := en.gridStart t d g send
      u.fab = t.fab ∧ mapFind u.ops k = some { st with state := 2 } ∧ mapFind u.warps en.key = some held) ∧
    (g.expected ≠ 0 → ∃ u, en.gridStart t d g send = send k u ∧ mapFind u.ops k = some { st with state := 1 } ∧
      mapFind u.warps en.key = some held ∧
      mapFind u.fab.gridOps k = some { g with value := v, since := t.clk } ∧ u.fab.tx = t.fab.tx)) ∧
  (∀ (j : Job) (n : BitVec 128), (patCoords j n j.coord).length = patCount j n ∧
    (∀ c ∈ patCoords j n j.coord, c.length = 5 ∧ patHas j n j.coord c = true) ∧
    ∀ c : List Nat, c.length = 5 → patHas j n j.coord c = true → c ∈ patCoords j n j.coord) ∧
  (∀ (f : Fields) (s : State) (is : Issue), (s.nat is f).Runs →
    let en := s.nat is f
    let j := s.jobOf (warpBlock is.warp)
    let pat := en.w.getN f.a.toNat
    let size := 4 + f.mod.toNat % 4
    let n := sizeBytes size
    let c := en.w.getC f.b.toNat
    let off := fun i => (if mb f 3 then en.w.getS (f.w2.toNat / 16 % 256)
      else (en.w.getV (f.w2.toNat / 16 % 256) i).zeroExtend 64) + (f.w2.extractLsb' 12 16).signExtend 64
    patValid pat = true → (∀ a < 5, patMode pat a = 0 ∨ patMode pat a = 3) → patCount j pat = 1 →
    (∀ i < 64, en.e.getLsbD i = true → s.capCheck en.ctx c (permR ||| permRM) (off i) n n = none) →
    ((∀ k, en.sl.wait ≠ some (.load k)) →
      let k := s.nextOp
      let head := { s.gridHead j pat c.base (n * (maskLanes en.e).length) with aux := en.e }
      let t := { s with nextOp := k + 1 }.addGrid k
        { en.gridOp 1 head 1 with silent := true, sent := true, acq := mb f 4, ret := some (en.e, f.d.toNat, size) }
      exec (.gld f) s = .next (en.waitsOn
        (t.sendFrame { head with ty := 2, payload := (maskLanes en.e).flatMap fun i => leBytes 8 (off i).toNat } k
          head.wlo.toNat) (.load k))) ∧
    ∀ k g, en.sl.wait = some (.load k) → mapFind s.fab.gridOps k = some g → g.fn = 1 →
      let s' := s.dropLoad k
      (g.failed = none → g.reply = none → exec (.gld f) s = .next (en.waitsOn s (.load k))) ∧
      (∀ l m d sz, g.failed = none → g.reply = some l → g.ret = some (m, d, sz) → 4 ≤ sz →
        exec (.gld f) s = .next (en.goesOn ((if g.acq then s'.acquire is.warp 6 else s').modWarp is.warp fun w =>
          w.putLoaded d sz m fun i => leNat (mapGet [] ((maskLanes m).zip (chunks (sizeBytes sz) 64 l)) i)))) ∧
      (∀ x va, g.failed = some (x, va) → (∃ i < 64, en.e.getLsbD i = true ∧ c.base + off i = va) →
        ∃ m : Word, (∀ i < 64, m.getLsbD i = true ↔ en.e.getLsbD i = true ∧ c.base + off i = va) ∧
          exec (.gld f) s = .next (en.raise s' { cause := 0x37, addr := va, lanes := m }))) ∧
  (∀ (s : State) (k : Nat) (g : GridOp) (w : Warp), mapFind s.fab.gridOps k = some g → mapFind s.warps g.warp = some w →
    g.fn = 2 →
    (∀ l m d n, g.ret = some (m, d, n) → ∃ u,
      s.gatomReturn k g l =
        ((s.modWarp g.warp fun w => w.putV (decide (n = 8)) d m fun i =>
          BitVec.ofNat 64 (leNat (mapGet [] ((maskLanes m).zip (chunks n 64 l)) i))).modGrid k fun _ => u).checkGrid k ∧
      u = { g with reply := some l, flags := g.flags ||| gatomFlags g.head.op.toNat n l g.data }) ∧
    (∀ m d, g.ret = some (m, d, 4) → g.reply = none → ⟨.v, d⟩ ∈ s.awaited g.warp) ∧
    (∀ m d, g.ret = some (m, d, 8) → g.reply = none → ⟨.v, d⟩ ∈ s.awaited g.warp ∧ ⟨.v, d + 1⟩ ∈ s.awaited g.warp) ∧
    (∀ i is slot u, (s.look g.warp w slot) = (.run i is, u) → (∃ r ∈ s.awaited g.warp, r ∈ (regsOf i).1) →
      (w.slot slot).wait = none → s.slotReady g.warp w slot = false))

/-- R238, R239, R242: GWAIT waits for its operation, traps with it or reads its count; GPAT writes an n register; GCRD
reads a coordinate, a count of matches, or this module's position among them. -/
def Obligations.GridControlCompletes : Prop :=
  ∀ (f : Fields) (s : State) (is : Issue), (s.nat is f).Runs →
    let en := s.nat is f
    let j := s.jobOf (warpBlock is.warp)
    let d := f.d.toNat
    let h := en.w.getH f.a.toNat
    let n := en.w.getN f.a.toNat
    let word := f.w2.toNat
    let reads := fun (i : Instr) (x : Word) => exec i s = .next (en.gives (en.w.setS d x))
    (h.value = 0 → reads (.gwait f) 0) ∧
    (h.value ≠ 0 → h.value.toNat / 2 ^ 36 % 16 ≠ 4 →
      exec (.gwait f) s = .next (en.raise s { cause := 0x22, lanes := en.e })) ∧
    (h.value ≠ 0 → h.value.toNat / 2 ^ 36 % 16 = 4 → ∀ x, mapFind s.ops h.uid = some x →
      (x.state ≤ 1 → exec (.gwait f) s = .next (en.waitsOn s (.handle h.uid false))) ∧
      (x.state = 5 → exec (.gwait f) s = .next (en.raise s { cause := 0x38, addr := h.value, lanes := en.e })) ∧
      (1 < x.state → x.state ≠ 5 → reads (.gwait f) (BitVec.ofNat 64 x.progress))) ∧
    (∃ m : BitVec 128, exec (.gpatAx f) s = .next (en.gives (en.w.setN d m)) ∧
      let a := word % 8
      a < 5 → patLo m a = (en.sB f).toNat % 2 ^ 11 ∧ patHi m a = (en.sC f).toNat % 2 ^ 11 ∧ patMode m a = word / 16 % 4 ∧
        ∀ b < 5, b ≠ a → patLo m b = patLo n b ∧ patHi m b = patHi n b ∧ patMode m b = patMode n b) ∧
    exec (.gpatL0 f) s = .next (en.gives (en.w.setN d (n.extractLsb' 64 64 ++ f.lit))) ∧
    exec (.gpatL1 f) s = .next (en.gives (en.w.setN d (f.lit ++ n.extractLsb' 0 64))) ∧
    reads (.gcrdAx f) (BitVec.ofNat 64 (if word % 8 < 5 then j.coord.getD (word % 8) 0 else 0)) ∧
    reads (.gcrdCnt f) (BitVec.ofNat 64 (if patValid n then patCount j n else 0)) ∧
    (patValid n = true → ∀ i, patIndex j n = some i → reads (.gcrdIdx f) (BitVec.ofNat 64 i)) ∧
    ((patValid n = false ∨ patIndex j n = none) → reads (.gcrdIdx f) (BitVec.allOnes 64))

/-- R247 to R249: TTFIRE.arm places a table in an arm slot; TTFIRE marks an entry as fired and starts its operation,
or is complete where the entry is in flight; TTWAIT takes arrivals off once they suffice, after an acquire. The order
of the checks, and that a TTFIRE of an entry in flight has a complete handle, are the model's reading (log 16). -/
def Obligations.TileTablesArmFireAndWait : Prop :=
  ∀ (f : Fields) (s : State) (is : Issue), (s.nat is f).Runs →
    let en := s.nat is f
    let t := en.w.getC f.b.toNat
    let i := (en.sA f).toNat
    let at_ := t.base + BitVec.ofNat 64 (64 + 64 * i)
    let s0 := s.flushFor is.warp [(t.base.toNat, 64, false), (at_.toNat, 64, false)]
    let traps := fun (i : Instr) => exec i s = .next (en.raise s { cause := 0x39, lanes := en.e })
    exec (.ttfireArm f) s = .next (en.goesOn (s.modBlock (warpBlock is.warp) fun b =>
      { b with arm := mapPut b.arm (f.w2.toNat % 4) t })) ∧
    ((en.block.armSlot t = none ∨ t.len.toNat < 64 + 64 * (i + 1)) → traps (.ttfire f) ∧ traps (.ttwait f)) ∧
    ∀ slot x s1, en.block.armSlot t = some slot → 64 + 64 * (i + 1) ≤ t.len.toNat →
      s.capCheck en.ctx t (permR ||| permW ||| permLC ||| permEN) 0 (64 + 64 * (i + 1)) 0 = none →
      s0.tileView en.block.core en.ctx t i = (.ok x, s1) → x.src.tag = true → x.rem.tag = true → x.fld 4 63 1 = 1 →
      (let k := ((s1.release is.warp).newHandle is.warp f.d.toNat 4 3 none).1
       let u := ((s1.release is.warp).newHandle is.warp f.d.toNat 4 3 none).2
       (x.fld 6 0 32 = 2 → exec (.ttfire f) s = .next (en.goesOn (u.modStat k fun y => { y with state := 2 }))) ∧
       (x.fld 6 0 32 ≠ 2 → ∀ v, u.engineWrite en.block.core en.ctx (at_ + 48) (leBytes 4 1) = (.ok (), v) →
         exec (.ttfire f) s = .next (en.goesOn ((v.modStat k fun y => { y with state := 1 }).fireTile k is.warp
           (mapGet {} v.ops k).value false (slot, i, t))))) ∧
      (x.fld 6 32 32 < x.fld 7 0 32 → exec (.ttwait f) s = .next (en.waitsOn s1 (.tile t i))) ∧
      (x.fld 7 0 32 ≤ x.fld 6 32 32 → ∀ v,
        s1.engineWrite en.block.core en.ctx (at_ + 52) (leBytes 4 (x.fld 6 32 32 - x.fld 7 0 32)) = (.ok (), v) →
        exec (.ttwait f) s = .next (en.goesOn ((v.acquire is.warp 6).putWarp is.warp
          (en.w.setS f.d.toNat (BitVec.ofNat 64 (x.fld 6 32 32))))))

/-- R100 to R102: each forerunner arithmetic opcode writes v[d] on the active lanes, those of the slot whose guard bit is
set and whose nesting counter reads zero, and compares write the lane bits of p[d] there. -/
def Obligations.ForerunnerArithmeticCompletes : Prop :=
  ∀ (f : FrFields) (s : State) (is : Issue), (s.fr is f).Runs →
    let en := s.fr is f
    let d := f.d.toNat
    let imm : BitVec 32 := f.imm.signExtend 32
    let a := fun i => en.w.getV f.a.toNat i
    let b := fun i => if f.sub.getLsbD 0 then imm else en.w.getV f.b.toNat i
    let v := fun (i : Instr) (r : Nat → BitVec 32) => exec i s = .next (en.gives (en.w.setV d en.e r))
    let fp := fun (i : Instr) (r : Nat → FVal) =>
      exec i s = .next (en.lanesGive false d fun l => asLane (fp32.convert 0 true (r l)))
    let x := fun l => fp32.decode (a l).toNat
    let y := fun l => fp32.decode (en.w.getV f.b.toNat l).toNat
    let z := fun l => fp32.decode (en.w.getV (f.imm.toNat % 256) l).toNat
    let cond := f.sub.toNat % 8
    let compares := fun (i : Instr) (c : Nat → Bool) => ∃ p : Word,
      exec i s = .next (en.gives (en.w.setP d p)) ∧
        ∀ l < 64, p.getLsbD l = if en.e.getLsbD l then c l else (en.w.getP d).getLsbD l
    exec (.frNoOperation f) s = .next (en.goesOn s) ∧
    v (.frIntegerAdd f) (fun l => a l + b l) ∧ v (.frIntegerSubtract f) (fun l => a l - b l) ∧
    v (.frIntegerMultiply f) (fun l => a l * b l) ∧ v (.frAnd f) (fun l => a l &&& b l) ∧
    v (.frOr f) (fun l => a l ||| b l) ∧ v (.frXor f) (fun l => a l ^^^ b l) ∧
    v (.frShiftLeft f) (fun l => a l <<< (b l).toNat) ∧ v (.frLogicalShiftRight f) (fun l => a l >>> (b l).toNat) ∧
    v (.frArithmeticShiftRight f) (fun l => (a l).sshiftRight (b l).toNat) ∧
    v (.frMove f) a ∧ v (.frLoadImmediate f) (fun _ => imm) ∧ v (.frLaneNumber f) (fun l => BitVec.ofNat 32 l) ∧
    fp (.frFp32Add f) (fun l => FVal.add 0 (x l) (y l)) ∧ fp (.frFp32Multiply f) (fun l => (x l).mul (y l)) ∧
    fp (.frFp32Fma f) (fun l => FVal.fma 0 (x l) (y l) (z l)) ∧
    compares (.frIntegerCompare f) (fun l =>
      let c := (a l, en.w.getV f.b.toNat l)
      let lt := if f.sub.getLsbD 3 then decide (c.1.toNat < c.2.toNat) else decide (c.1.toInt < c.2.toInt)
      match cond with
      | 0 => decide (c.1 = c.2)
      | 1 => decide (c.1 ≠ c.2)
      | 2 => lt
      | 3 => lt || decide (c.1 = c.2)
      | 4 => !(lt || decide (c.1 = c.2))
      | _ => !lt) ∧
    compares (.frFp32Compare f) (fun l => compareFloat cond (x l) (y l)) ∧
    exec (.frScalarAddImmediate f) s = .next (en.gives (en.w.setS d (en.w.getS f.a.toNat + f.imm.signExtend 64))) ∧
    exec (.frScalarLoadImmediate f) s = .next (en.gives (en.w.setS d (f.imm.signExtend 64)))

/-- R101, R102, R104: the forerunner memory opcodes and fence do on the active lanes what LD.b32, ST.b32, LDS.b32,
STS.b32 and FENCE.ar do. R98, R102: the forerunner control opcodes change the counters of the slot's lanes, or fault
on those that would pass 255 and change none; loop branches while a lane is at zero; branch, call and return move the
PC of the whole slot. -/
def Obligations.ForerunnerMemoryAndControlComplete : Prop :=
  (∀ (f : FrFields) (s : State) (is : Issue), (s.fr is f).Runs →
    let en := s.fr is f
    let d := f.d.toNat
    let c := en.w.getC f.b.toNat
    let b := s.block (warpBlock is.warp)
    let off := fun i => (if f.sub.getLsbD 0 then en.w.getS f.a.toNat else (en.w.getV f.a.toNat i).zeroExtend 64) +
      f.imm.signExtend 64
    let data := fun i => leBytes 4 (en.w.getV d i).toNat
    let fits := ∀ i < 64, en.e.getLsbD i = true →
      (off i).toNat < 2 ^ 63 ∧ (off i).toNat + 4 ≤ 4096 * b.spu ∧ (off i).toNat % 4 = 0
    (∀ good got s1 t,
      checkLanes (fun s i => s.laneCheck en.who c permR (off i) 4 false) s (maskLanes en.e) = (good, [], s1) →
      s1.loadLanes en.who 4 good = (got, t) →
      exec (.frLoadWord f) s = .next (en.goesOn (t.putWarp is.warp
        (en.w.setV d en.e fun i => BitVec.ofNat 32 (leNat (mapGet [] got i)))))) ∧
    (∀ good t,
      checkLanes (fun s i => s.laneCheck en.who c permW (off i) 4 true) s (maskLanes en.e) = (good, [], t) →
      exec (.frStoreWord f) s = .next (en.goesOn (good.foldl (fun s x => s.l1Store en.who x.2.1 (data x.1) x.2.2) t))) ∧
    (fits → b.torn = [] → exec (.frScratchpadLoadWord f) s = .next (en.gives
      (en.w.setV d en.e fun i => BitVec.ofNat 32 (leNat (b.scratchRead (off i).toNat 4))))) ∧
    (fits → exec (.frScratchpadStoreWord f) s = .next (en.goesOn (s.modBlock (warpBlock is.warp) fun b =>
      (maskLanes en.e).foldl (fun b i => b.scratchWrite (off i).toNat (data i)) b))) ∧
    exec (.frFence f) s = .next (en.goesOn ((s.release is.warp).acquire is.warp (f.sub.toNat % 8)))) ∧
  (∀ (f : FrFields) (s : State) (is : Issue), (s.whole is).Acts →
    let en := s.whole is
    let ctr := fun i => mapGet 0 en.w.nest i
    let mine := fun i => i < 64 ∧ en.e.getLsbD i = true
    let p := fun i => (en.w.getP f.a.toNat).getLsbD i
    let counts := fun (i : Instr) (new : Nat → Nat) =>
      ((∀ l, mine l → new l ≤ 255) → en.Stays en.fall → ∃ m : Map Nat,
        exec i s = .next (en.gives { en.w with nest := m }) ∧
          ∀ l, (mine l → mapGet 0 m l = new l) ∧ (¬mine l → mapGet 0 m l = ctr l)) ∧
      ((∃ l, mine l ∧ 255 < new l) → ∃ m : Word,
        exec i s = .next (en.raise s { cause := 0x06, lanes := m }) ∧
          ∀ l < 64, m.getLsbD l = true ↔ mine l ∧ 255 < new l)
    let target := is.pc + (f.imm.signExtend 64 : Word) <<< 3
    en.e = en.sl.mask ∧
    counts (.frIf f) (fun l => if 0 < ctr l ∨ p l = false then ctr l + 1 else ctr l) ∧
    counts (.frElse f) (fun l => if ctr l = 0 then 1 else if ctr l = 1 then 0 else ctr l) ∧
    counts (.frEndIf f) (fun l => ctr l - 1) ∧
    counts (.frBreak f) (fun l => if ctr l = 0 ∧ p l = true then ctr l + f.imm.toNat % 256 else ctr l) ∧
    ((∃ l, mine l ∧ ctr l = 0) → en.Stays target → exec (.frLoop f) s = .next (en.goesTo s target)) ∧
    ((∀ l, mine l → ctr l ≠ 0) → counts (.frLoop f) (fun l => ctr l - 1)) ∧
    (en.Stays target → exec (.frBranch f) s = .next (en.goesTo s target) ∧
      exec (.frCall f) s = .next (en.goesTo (en.put (en.w.setS f.d.toNat (is.pc + BitVec.ofNat 64 is.len))) target)) ∧
    (let back := en.w.getS f.a.toNat &&& ~~~3#64
     en.Stays back → exec (.frReturn f) s = .next (en.goesTo s back)))

/-- R102, R103: the block barrier arrives at named barrier 0 once and waits for the phase that it read; exit removes the
active lanes; trap pushes its entry as TRAP does. -/
def Obligations.ForerunnerBarrierExitAndTrapComplete : Prop :=
  ∀ (f : FrFields) (s t : State) (is : Issue),
    ((s.whole is).Runs →
      let en := s.whole is
      let b := en.block.bar 0
      let put := fun (s : State) (x : Barrier) => s.modBlock en.bk fun k => k.setBar 0 x
      let a := b.arrive (warpId is.warp)
      let holds := fun (s : State) (x : Option (BitVec 32)) => s.modWarp is.warp fun w => { w with frBarrier := x }
      b.failed = false → b.overflow = false →
      (en.w.frBarrier = none → a.phase ≠ b.phase →
        exec (.frBlockBarrier f) s = .next (en.goesOn
          (holds (holds (put (s.release is.warp) a) (some b.phase)) none))) ∧
      (en.w.frBarrier = none → a.phase = b.phase → a.overflow = false →
        exec (.frBlockBarrier f) s = .next (en.waitsOn
          (put (holds (put (s.release is.warp) a) (some b.phase)) a.start) (.barrier 0 b.phase))) ∧
      ∀ n, en.w.frBarrier = some n →
        (b.phase ≠ n → exec (.frBlockBarrier f) s = .next (en.goesOn (holds s none))) ∧
        (b.phase = n → exec (.frBlockBarrier f) s = .next (en.waitsOn (put s b.start) (.barrier 0 n)))) ∧
    ((s.fr is f).Acts → is.slot < 2 → (s.fr is f).sl.live = true →
      let en := s.fr is f
      let m := en.sl.mask &&& ~~~en.e
      let left : Slot := { en.sl.issued is with mask := m, pc := en.fall, wait := none }
      let w := { en.w with lanes := en.w.lanes &&& ~~~en.e }
      (m ≠ 0 → en.Stays en.fall → (w.setSlot is.slot left).Rests →
        exec (.frExit f) s = .next ((en.put (w.setSlot is.slot left)).retired en.ctx)) ∧
      (m = 0 → en.w.dstkSp = (en.w.getC 15).base → (en.w.slot (1 - is.slot)).live = false →
        exec (.frExit f) s = .next (((en.put (w.setSlot is.slot {})).endWarp is.warp).retired en.ctx)) ∧
      (let u := en.w.setSlot is.slot { en.sl.issued is with pc := en.fall, wait := none }
       let cause := 0x8000#16 ||| (f.imm.extractLsb' 0 15).zeroExtend 16
       let slotRec := fun (x : Slot) (raised : Bool) =>
         (if x.live then
           { pc := x.pc, mask := x.mask, rpc := x.rpc, kind := 1, flagP := x.parked, flagL := true, flagT := raised }
          else { kind := 1, flagT := raised } : Rec)
       is.paired = false → u.trapVec ≠ 0 → (u.slot (1 - is.slot)).wait = none →
       (en.goesOn s).stackWrite ((en.goesOn s).who is.warp is.slot) u u.dstkSp
         [slotRec u.s1 (decide (is.slot = 1)), slotRec u.s0 (decide (is.slot = 0)),
          { pc := is.pc, mask := en.e, rpc := 0, kind := 2, flagP := decide (is.slot = 1), auxLo := cause
            flagL := (mapFind (en.goesOn s).ctxs en.ctx).any fun c => c.halted }] = (.ok (), t) →
       exec (.frTrap f) s = .next ((t.withdraw is.warp true).putWarp is.warp
         { u with
           s0 := { live := true, pc := u.trapVec, rpc := BitVec.allOnes 64
                   mask := (if u.s0.live then u.s0.mask else 0) ||| (if u.s1.live then u.s1.mask else 0) }
           s1 := {}, dstkSp := u.dstkSp + 96, trapCause := cause, trapAddr := 0, trapPc := is.pc, trapNew := true })))

/-- R312, R326: a packet that fails a check of its header has no effect: its queue halts at it, with the error of the
first check in the order of R312. -/
def Obligations.HeaderChecksHaltTheQueue : Prop :=
  ∀ (p : Packet) (s : State) (c : Nat), s.serves p = true → (s.pk p).whole = true → headerError (s.pk p) = some c →
    let k := s.pk p
    let op := k.f 0 0 8
    let q := p.queue.toNat
    let t := s.commandError q p.head k.tag c
    let halts := fun (i : Instr) => exec i s = .next t
    (op = 1 → k.f 2 0 1 = 0 → halts (.gridtabInstall p)) ∧ (op = 1 → k.f 2 0 1 = 1 → halts (.gridtabRemove p)) ∧
    (op = 2 → halts (.ctxnew p)) ∧ (op = 3 → halts (.ctxend p)) ∧ (op = 4 → k.f 1 24 1 = 0 → halts (.huskCreate p)) ∧
    (op = 4 → k.f 1 24 1 = 1 → halts (.huskDestroy p)) ∧ (op = 5 → k.f 1 8 2 = 0 → halts (.keyslotLoad p)) ∧
    (op = 5 → k.f 1 8 2 = 1 → halts (.keyslotZeroise p)) ∧ (op = 6 → k.f 4 0 1 = 0 → halts (.scrubStart p)) ∧
    (op = 6 → k.f 4 0 1 = 1 → halts (.scrubContinue p)) ∧ (op = 7 → halts (.attest p)) ∧ (op = 8 → halts (.layout p)) ∧
    (op = 9 → halts (.launch p)) ∧ (op = 10 → k.f 1 8 2 = 0 → halts (.nodeOpen p)) ∧
    (op = 10 → k.f 1 8 2 = 1 → halts (.nodeClose p)) ∧ (op = 11 → k.f 1 0 2 = 0 → halts (.preemptPark p)) ∧
    (op = 11 → k.f 1 0 2 = 1 → halts (.preemptRequeue p)) ∧ (op = 11 → k.f 1 0 2 = 2 → halts (.preemptResume p)) ∧
    (op = 12 → halts (.ckpt p)) ∧ (op = 13 → halts (.waitmem p)) ∧ (op = 14 → k.f 3 0 2 = 0 → halts (.signalStore p)) ∧
    (op = 14 → k.f 3 0 2 = 1 → halts (.signalAdd p)) ∧ (op = 14 → k.f 3 0 2 = 2 → halts (.signalMax p)) ∧
    (op = 15 → k.f 4 4 2 = 0 → halts (.condSkip p)) ∧ (op = 15 → k.f 4 4 2 = 1 → halts (.condRepeat p)) ∧
    (op = 15 → k.f 4 4 2 = 2 → halts (.condJump p)) ∧
    (t.queue q).halted = true ∧ (t.queue q).err = c ∧ (t.queue q).head = p.head ∧ (t.queue q).blocked = false ∧
    ((op = 0 ∨ 16 ≤ op) → c = 1) ∧
    (1 ≤ op → op ≤ 15 →
      (c = 2 ↔ k.f 0 8 5 + 1 ≠ opWords op) ∧
      (c = 4 → k.queue.priv = false ∧ (op ≤ 8 ∨ op = 11 ∨ op = 12)) ∧
      (c = 5 → k.queue.priv = false ∧ (k.ctx ≠ k.queue.ctx ∨ k.pa = true)))

/-- R317 to R319: the packets of contexts and their tables: CTXNEW creates a context whose ID and ASID are free, CTXEND
releases it once its work has drained, GRIDTAB installs and removes a table, and LAYOUT writes an entry. -/
def Obligations.ContextPacketsComplete : Prop :=
  ∀ (p : Packet) (s : State),
    let k := s.pk p
    let id := k.ctx
    (s.takes p 2 →
      let asid := BitVec.ofNat 16 (k.f 2 0 16)
      let gen := k.f 2 16 24
      let prot := k.f 2 48 1 = 1
      let husk := k.f 2 40 8
      let taken := id = 0xFFF ∨ (mapFind s.ctxs id).isSome = true ∨ ∃ e ∈ s.ctxs, e.2.asid = asid
      let old := ∃ g, mapFind s.lastGen id = some g ∧ gen ≤ g
      (taken → exec (.ctxnew p) s = p.errs s s 7) ∧
      (¬taken → 1024 ≤ s.ctxs.length → exec (.ctxnew p) s = p.errs s s 8) ∧
      (¬taken → s.ctxs.length < 1024 → (old ∨ (prot ∧ s.huskLive husk = false)) → exec (.ctxnew p) s = p.errs s s 9) ∧
      (¬taken → s.ctxs.length < 1024 → ¬old → (prot → s.huskLive husk = true) → ∃ c : Context,
        exec (.ctxnew p) s = p.retires { s with ctxs := mapPut s.ctxs id c, lastGen := mapPut s.lastGen id gen } ∧
        c.asid = asid ∧ c.root.toNat = 4096 * k.f 1 12 40 ∧ c.cgen.toNat = gen ∧ (c.prot = true ↔ prot) ∧ c.husk = husk ∧
        (c.bkpt = true ↔ k.f 2 49 1 = 1) ∧ c.fq = 32 * k.f 3 5 47 ∧ c.fqlog = k.f 4 0 5 ∧ c.save = 128 * k.f 5 7 45 ∧
        c.savelen = k.f 6 0 48 ∧ c.ltab = 64 * k.f 7 6 46 ∧ c.lcount = k.f 8 0 16 ∧ c.hang = k.f 8 16 32 ∧
        c.dead = false ∧ c.ending = false ∧ c.saved = false ∧ c.parked = false ∧ c.preempt = none)) ∧
    (s.takes p 3 → (mapFind s.ctxs id = none → exec (.ctxend p) s = p.errs s s 5) ∧
      ∀ c, mapFind s.ctxs id = some c → k.f 1 0 1 = 0 →
        let t := s.modCtx id fun c => { c with ending := true }
        let c := { c with ending := true }
        ((t.ctxBusy id c = true ∨ c.scrub.isSome = true) → exec (.ctxend p) s = p.waits t 1) ∧
        (t.ctxBusy id c = false → c.scrub = none → exec (.ctxend p) s = p.retires (t.releaseCtx id c) ∧
          mapFind (t.releaseCtx id c).ctxs id = none)) ∧
    (∀ c, mapFind s.ctxs id = some c → c.ending = false →
      (s.takes p 1 → k.f 2 0 1 = 0 → let pa := 64 * k.f 1 6 46
        (s.readTable id pa = none → exec (.gridtabInstall p) s = p.errs s s 9) ∧
        ∀ tid t, s.readTable id pa = some (tid, t) → ((mapFind s.grids tid).isSome = true ∨ s.grids.length < 64) →
          (s.tablePending tid = true → exec (.gridtabInstall p) s = p.waits s 1) ∧
          (s.tablePending tid = false →
            let u := s.dropTable tid
            exec (.gridtabInstall p) s =
              p.retires ({ u with grids := mapPut u.grids tid t }.extend id 3 (u.mem.read pa (64 + 8 * t.count))))) ∧
      (s.takes p 1 → k.f 2 0 1 = 1 → let tid := k.f 2 16 16
        (mapFind s.grids tid = none → exec (.gridtabRemove p) s = p.errs s s 9) ∧
        ∀ t, mapFind s.grids tid = some t →
          (t.ctx ≠ id → exec (.gridtabRemove p) s = p.errs s s 9) ∧
          (t.ctx = id → s.tablePending tid = true → exec (.gridtabRemove p) s = p.waits s 1) ∧
          (t.ctx = id → s.tablePending tid = false → exec (.gridtabRemove p) s = p.retires (s.dropTable tid))) ∧
      (s.takes p 8 → let h := k.f 1 0 16
        let entry := (p.words.drop 2).flatMap fun w => leBytes 8 w.toNat
        ((c.lcount ≤ h ∨ k.f 2 0 12 ≠ id) → exec (.layout p) s = p.errs s s 9) ∧
        (h < c.lcount → k.f 2 0 12 = id → exec (.layout p) s =
          p.retires ((s.physWrite (c.ltab + 64 * h) entry).extend id 2 (leBytes 2 h ++ entry)))))

/-- R347, R349, R350, R361, R363: the packets of the protected domain: husks, key slots, attestation and scrubs. That
a key slot's key is destroyed also where the load halts with error 0x07, and the order of the checks of a husk's
creation, are the model's reading (log 35). -/
def Obligations.ProtectionPacketsComplete : Prop :=
  ∀ (p : Packet) (s : State),
    let k := s.pk p
    let n := k.f 1 0 8
    let husk := mapFind s.prot.husks n
    (s.takes p 4 → k.f 1 24 1 = 0 → s.slotHeld (k.f 1 8 6) = false →
      let root : BitVec 256 := BitVec.ofNat 256 (leNat (s.mem.read (32 * k.f 2 5 47) 32))
      (husk.isSome = true → exec (.huskCreate p) s = p.errs s s 7) ∧
      (husk = none → (k.f 1 16 5 = 0 ∨ 12 < k.f 1 16 5) → exec (.huskCreate p) s = p.errs s s 3) ∧
      (husk = none → 1 ≤ k.f 1 16 5 → k.f 1 16 5 ≤ 12 → ({ bits := root } : Cap).rsvd = 0 →
        ({ bits := root } : Cap).otype = 0 → exec (.huskCreate p) s = p.retires { s with
          prot := { s.prot with husks := mapPut s.prot.husks n { slot := k.f 1 8 6, ways := k.f 1 16 5, root } } })) ∧
    (s.takes p 4 → k.f 1 24 1 = 1 →
      (husk = none → exec (.huskDestroy p) s = p.errs s s 9) ∧
      ∀ h, husk = some h →
        ((∃ c ∈ s.huskCtxs n, c.2.ending = false) → exec (.huskDestroy p) s =
          p.errs s (s.endDestroy p.queue.toNat) 7) ∧
        ((∀ c ∈ s.huskCtxs n, c.2.ending = true) → s.huskCtxs n ≠ [] → exec (.huskDestroy p) s =
          (let h' := { h with dying := p.queue.toNat :: h.dying.filter fun q => decide (q ≠ p.queue.toNat) }
           p.waits { s with prot := { s.prot with husks := mapPut s.prot.husks n h' } } 1)) ∧
        (s.huskCtxs n = [] → (∀ x ∈ s.prot.scrubs, x.2.prot = true → x.2.husk ≠ n) →
          let t := { s with prot := { s.prot with husks := mapErase s.prot.husks n } }
          exec (.huskDestroy p) s = p.retires (if t.slotNamed h.slot then t else t.zeroise h.slot))) ∧
    (s.takes p 5 → k.f 1 8 2 = 1 → let slot := k.f 1 0 6
      (s.slotHeld slot = true → exec (.keyslotZeroise p) s = p.waits s 1) ∧
      (s.slotHeld slot = false → s.slotNamed slot = true → exec (.keyslotZeroise p) s = p.errs s s 7) ∧
      (s.slotHeld slot = false → s.slotNamed slot = false → exec (.keyslotZeroise p) s = p.retires (s.zeroise slot))) ∧
    (∀ c, mapFind s.ctxs k.ctx = some c → c.ending = false →
      (s.takes p 5 → k.f 1 8 2 = 0 → let slot := k.f 1 0 6
        s.slotHeld slot = false →
        let t := s.modCtx k.ctx fun c => { c with dk := none }
        let blob := s.mem.read (k.f 2 0 52) 1672
        ((mapFind s.prot.keys slot).isSome = true → exec (.keyslotLoad p) s = p.errs s t 7) ∧
        (mapFind s.prot.keys slot = none → c.dk = none → exec (.keyslotLoad p) s = p.errs s t 9) ∧
        ∀ dk h, mapFind s.prot.keys slot = none → c.dk = some dk → c.prot = true →
          mapFind s.prot.husks c.husk = some h → h.slot = slot → k.f 3 0 16 = 1672 →
          (unwrapBlob dk blob = none → exec (.keyslotLoad p) s = p.errs s t 9) ∧
          ∀ key, unwrapBlob dk blob = some key → exec (.keyslotLoad p) s =
            p.retires ({ t with prot := { t.prot with keys := mapPut t.prot.keys slot key } }.extend k.ctx 4
              (BitVec.ofNat 8 slot :: shake512 blob))) ∧
      (s.takes p 7 →
        let ek := (keyPair s.prot.keygens).1
        let body := (p.words.drop 2).flatMap fun w => leBytes 8 w.toNat
        let t := { s with prot := { s.prot with keygens := s.prot.keygens + 1 } }.modCtx k.ctx fun c =>
          { c with dk := some (s.prot.keygens, body.drop 32) }
        let r := t.report k.ctx c (body.take 32) (body.drop 32) ek
        exec (.attest p) s = p.retires (t.physWrite (8 * k.f 1 3 49) (r ++ t.sign r))) ∧
      (s.takes p 6 → k.f 4 0 1 = 0 →
        ((s.ctxBusy k.ctx c = true ∨ 64 ≤ s.prot.scrubs.length) → exec (.scrubStart p) s = p.waits s 1) ∧
        (s.ctxBusy k.ctx c = false → s.prot.scrubs.length < 64 →
          let l := s.pageList (8 * k.f 1 3 49) (min (k.f 2 0 32) 65537)
          (s.listBad k.ctx (8 * k.f 3 3 49) (k.f 2 0 32) l = true → exec (.scrubStart p) s = p.errs s s 9) ∧
          (s.listBad k.ctx (8 * k.f 3 3 49) (k.f 2 0 32) l = false → ∃ (t : State) (x : Scrub),
            exec (.scrubStart p) s = p.retires t ∧ mapFind t.prot.scrubs x.accepted = some x ∧ x.state = 1 ∧
            x.seq = s.prot.scrubSeq + 1 ∧ x.ctx = k.ctx ∧ x.rcpt = some (8 * k.f 3 3 49) ∧
            x.total = x.todo.length + x.rest.length ∧ (∀ f ∈ x.todo, f ∈ l.flatMap s.pageFrames) ∧
            (mapFind t.ctxs k.ctx).any (fun c => c.ending && decide (c.scrub = some x.accepted)) = true)))) ∧
    (s.takes p 6 → k.f 4 0 1 = 1 →
      (mapFind s.ctxs k.ctx = none → exec (.scrubContinue p) s = p.errs s s 5) ∧
      ∀ c, mapFind s.ctxs k.ctx = some c →
        (c.scrub.bind (mapFind s.prot.scrubs) = none → exec (.scrubContinue p) s = p.errs s s 9) ∧
        ∀ x, c.scrub.bind (mapFind s.prot.scrubs) = some x → (x.todo ≠ [] ∨ x.rest ≠ []) → k.f 3 3 49 = 0 →
          let l := s.pageList (8 * k.f 1 3 49) (min (k.f 2 0 32) 65537)
          s.listBad k.ctx (x.rcpt.getD 0) (k.f 2 0 32) l = false → ∃ (t : State) (y : Scrub),
            exec (.scrubContinue p) s = p.retires t ∧ mapFind t.prot.scrubs x.accepted = some y ∧
            y.todo.take x.todo.length = x.todo ∧ x.total ≤ y.total ∧ (∀ f ∈ y.rest, f ∈ x.rest))

/-- R314, R320, R322, R323, R392: LAUNCH accepts or refuses a record, NODE opens a work-graph node, whose counts go on
from those in its control area, and closes it, PREEMPT starts a pre-emption or sets how a context resumes, and CKPT is
accepted for the safe tier. That a PREEMPT of a context with no block on a core sets the mode at once, and that one
which finds a pre-emption waits for its end, is the model's reading (log 28); so is that an open of a node goes on
from the counts in its area (log 22). -/
def Obligations.WorkPacketsComplete : Prop :=
  ∀ (p : Packet) (s : State),
    let k := s.pk p
    (∀ c, mapFind s.ctxs k.ctx = some c → c.ending = false →
      (s.takes p 9 →
        (∀ t, k.launchRecord s = (none, t) → exec (.launch p) s = p.errs s t 6) ∧
        ∀ l t, k.launchRecord s = (some l, t) →
          (∀ cause, t.refusal l k.queue.maxprio false = some cause → exec (.launch p) s =
            p.retires ((t.refuseRecord l cause k.ctx).writeDone l (BitVec.allOnes 64))) ∧
          (t.refusal l k.queue.maxprio false = none → t.rootRefuses l = true → exec (.launch p) s = p.errs s t 9) ∧
          (t.refusal l k.queue.maxprio false = none → t.rootRefuses l = false → t.tablePending (l.field 12 0 16) = true →
            exec (.launch p) s = p.waits t 1) ∧
          (t.refusal l k.queue.maxprio false = none → t.rootRefuses l = false → t.tablePending (l.field 12 0 16) = false →
            exec (.launch p) s = p.retires (t.acceptOwn l))) ∧
      (s.takes p 10 → k.f 1 8 2 = 0 → let n := 64 * k.ctx + k.f 1 0 6
        ((mapFind s.nodes n).isSome = true → exec (.nodeOpen p) s = p.errs s s 7) ∧
        (mapFind s.nodes n = none →
          (∀ t, k.nodePlaces s = (false, t) → exec (.nodeOpen p) s = p.errs s t 6) ∧
          ∀ t, k.nodePlaces s = (true, t) → ∀ consumed u groups v,
            t.nodeRead (k.node 0 0) (k.dw 3 + 8) = (some consumed, u) →
            u.nodeRead (k.node 0 0) (k.dw 3 + 16) = (some groups, v) →
            exec (.nodeOpen p) s = p.retires { v with nodes := mapPut v.nodes n (k.node consumed groups) } ∧
              (k.node consumed groups).next = consumed)) ∧
      (s.takes p 10 → k.f 1 8 2 = 1 → let n := 64 * k.ctx + k.f 1 0 6
        (mapFind s.nodes n = none → exec (.nodeClose p) s = p.errs s s 9) ∧
        ∀ x u, mapFind s.nodes n = some x →
          u = ({ s with nodes := mapPut s.nodes n { x with closing := true } } : State).flushNode n (2 ^ x.slog) →
          ∀ y claims t, mapFind u.nodes n = some y → u.nodeRead y y.ctl = (some claims, t) →
            (claims = y.consumed % 2 ^ 64 → y.openGroups = [] →
              exec (.nodeClose p) s = p.retires { t with nodes := mapErase t.nodes n }) ∧
            ((claims ≠ y.consumed % 2 ^ 64 ∨ y.openGroups ≠ []) → exec (.nodeClose p) s = p.waits t 1))) ∧
    (s.takes p 11 →
      let pre := fun (i : Instr) (park : Bool) =>
        (mapFind s.ctxs k.ctx = none → k.queue.stage = 0 → exec i s = p.errs s s 5) ∧
        ∀ c, mapFind s.ctxs k.ctx = some c → c.dead = false →
          (c.preempt = none → k.queue.stage = 0 → s.hasBlocks k.ctx = true → exec i s =
            let pre : Preempt :=
              { level := 1, requeue := !park, drain := 1024 * k.f 1 32 32, save := 1024 * k.f 2 0 32
                packet := some (p.queue.toNat, p.head, k.tag) }
            p.waits (s.modCtx k.ctx fun c => { c with preempt := some pre }) 1) ∧
          (c.preempt = none → k.queue.stage = 0 → s.hasBlocks k.ctx = false →
            exec i s = p.retires (s.setMode k.ctx park (p.queue.toNat, p.head, k.tag))) ∧
          (c.preempt = none → k.queue.stage = 1 → exec i s = p.retires s) ∧
          (c.preempt.isSome = true → k.queue.stage = 1 → exec i s = p.waits s 1) ∧
          (c.preempt.isSome = true → k.queue.stage = 0 → exec i s = p.waits s 2)
      (k.f 1 0 2 = 0 → pre (.preemptPark p) true) ∧ (k.f 1 0 2 = 1 → pre (.preemptRequeue p) false) ∧
      (k.f 1 0 2 = 2 →
        (mapFind s.ctxs k.ctx = none → k.queue.stage = 0 → exec (.preemptResume p) s = p.errs s s 5) ∧
        ∀ c, mapFind s.ctxs k.ctx = some c → c.dead = false →
          (c.preempt.isSome = true → exec (.preemptResume p) s = p.waits s 2) ∧
          (c.preempt = none →
            exec (.preemptResume p) s = p.retires (s.unparkCtx k.ctx (p.queue.toNat, p.head, k.tag))))) ∧
    (s.takes p 12 →
      let ok := 1536 ≤ k.f 1 0 11 ∧ k.f 1 11 21 = 0 ∧ k.f 1 32 16 = s.cfg.domain.toNat
      (¬ok → exec (.ckpt p) s = p.errs s s 9) ∧
      (ok → k.f 3 0 1 = 0 →
        (s.ckpt.isSome = true → exec (.ckpt p) s = p.waits s 1) ∧
        (s.ckpt = none → (∀ c ∈ s.ctxs, s.hasBlocks c.1 = false ∧ s.awaitsPlace c.1 c.2 = false) →
          let c : Ckpt :=
            { port := BitVec.ofNat 48 (k.f 1 0 48), roff := k.dw 2, one := none, done := 8 * k.f 4 3 49, dval := k.dw 5
              queue := p.queue.toNat, name := (p.queue.toNat, p.head, k.tag) }
          exec (.ckpt p) s = p.retires { s with ckpt := some c })))

/-- R315, R316: WAITMEM waits until its word compares, COND acts on its word when it is true and retires otherwise, and
SIGNAL writes its word and raises its vector. -/
def Obligations.WaitAndSignalPacketsComplete : Prop :=
  ∀ (p : Packet) (s : State) (c : Context), mapFind s.ctxs (s.pk p).ctx = some c → c.ending = false →
    let k := s.pk p
    let n := if k.f 4 3 1 = 1 then 8 else 4
    let after := p.head + BitVec.ofNat 32 p.words.length
    let count := k.f 4 32 32
    let meets := fun (a b : Nat) => match k.f 4 0 3 with
      | 0 => decide (a = b)
      | 1 => decide (a ≠ b)
      | 2 => decide (a < b)
      | 3 => decide (b ≤ a)
      | 4 => decide (signed (8 * n) a < signed (8 * n) b)
      | _ => decide (signed (8 * n) b ≤ signed (8 * n) a)
    (∀ t, k.place s (k.dw 1) n { r := true } = (none, t) →
      (s.takes p 13 → exec (.waitmem p) s = p.errs s t 6) ∧
      (s.takes p 15 → k.queue.stage = 0 → k.f 4 4 2 = 2 → exec (.condJump p) s = p.errs s t 6)) ∧
    (∀ pa t, k.place s (k.dw 1) n { r := true } = (some pa, t) →
      let u := t.settle (pa / 32)
      let holds := meets (leNat (u.mem.read pa n) &&& k.f 3 0 64) (k.f 2 0 64 &&& k.f 3 0 64) = true
      (s.takes p 13 → holds → exec (.waitmem p) s = p.retires u) ∧
      (s.takes p 13 → ¬holds → exec (.waitmem p) s = p.waits u 1) ∧
      (s.takes p 15 → k.queue.stage = 0 →
        (¬holds → (k.f 4 4 2 = 0 → exec (.condSkip p) s = p.retires u) ∧
          (k.f 4 4 2 = 1 → exec (.condRepeat p) s = p.retires u) ∧
          (k.f 4 4 2 = 2 → exec (.condJump p) s = p.retires u)) ∧
        (holds → k.f 4 4 2 = 1 →
          (2 ^ k.queue.size < count → exec (.condRepeat p) s = p.errs s u 12) ∧
          (count ≤ 2 ^ k.queue.size → exec (.condRepeat p) s =
            .next (u.moveHead p.queue.toNat (p.head - BitVec.ofNat 32 count) 1))) ∧
        (holds → k.f 4 4 2 = 2 →
          (2 ^ k.queue.size < count → exec (.condJump p) s = p.errs s u 12) ∧
          (count ≤ 2 ^ k.queue.size → k.queue.published p.head < p.words.length + count →
            exec (.condJump p) s = p.waits u 1) ∧
          (count ≤ 2 ^ k.queue.size → p.words.length + count ≤ k.queue.published p.head →
            exec (.condJump p) s = .next (u.moveHead p.queue.toNat (after + BitVec.ofNat 32 count) 1))))) ∧
    (s.takes p 15 → k.f 4 4 2 = 0 → ∀ u : State,
      ((k.queue.stage = 1 ∧ u = s) ∨ (k.queue.stage = 0 ∧ ∃ pa t, k.place s (k.dw 1) n { r := true } = (some pa, t) ∧
        u = t.settle (pa / 32) ∧
        meets (leNat (u.mem.read pa n) &&& k.f 3 0 64) (k.f 2 0 64 &&& k.f 3 0 64) = true)) →
      ∀ l : List Pk, l.length ≤ count →
        let q := p.queue.toNat
        let place := fun i => if i = 0 then after else (l.getD (i - 1) k).after
        let w := place l.length
        let out := fun (w : BitVec 32) => k.queue.published p.head ≤ (w - p.head).toNat
        let j := u.packetAt q k.queue w
        (∀ i x, l[i]? = some x →
          ¬out (place i) ∧ x = u.packetAt q k.queue (place i) ∧ headerError x = none ∧ x.whole = true) →
        (l.length = count → exec (.condSkip p) s = .next (u.moveHead q w (1 + count))) ∧
        (l.length < count →
          ((out w ∨ (headerError j = none ∧ j.whole = false)) → exec (.condSkip p) s = p.waits u 1) ∧
          ∀ c, ¬out w → headerError j = some c → exec (.condSkip p) s =
            .next ((u.putQueue q ((u.queue q).moved w (1 + l.length))).commandError q w j.tag c))) ∧
    (s.takes p 14 →
      let n := if k.f 3 2 1 = 1 then 8 else 4
      let v := k.f 2 0 64 % 2 ^ (8 * n)
      let writes := fun (i : Instr) (need : Need) (r : Nat → Nat) =>
        (∀ t, k.place s (k.dw 1) n need = (none, t) → exec i s = p.errs s t 6) ∧
        ∀ pa t, k.place s (k.dw 1) n need = (some pa, t) →
          let u := t.settle (pa / 32)
          let x := u.physWrite pa (leBytes n (r (leNat (u.mem.read pa n))))
          exec i s = p.retires
            (if k.f 3 3 1 = 1 then { x with arn := { x.arn with msix := x.arn.msix ++ [k.f 3 16 8] } } else x)
      (k.f 3 0 2 = 0 → writes (.signalStore p) { w := true } fun _ => v) ∧
      (k.f 3 0 2 = 1 → writes (.signalAdd p) { r := true, w := true } fun old => (old + v) % 2 ^ (8 * n)) ∧
      (k.f 3 0 2 = 2 → writes (.signalMax p) { r := true, w := true } fun old => max old v))

/-- R308 to R311, R315, R321, R355, R391: doorbells move a queue's tail, reload it or stop it; a round takes up the
ready packet of a queue; a blocked queue is tried again or times out; and the host writes registers and reads and
writes memory through BAR0 and BAR2. The order in which one doorbell write acts, and that a queue without a ring loses
its tail, are the model's reading (log 25); so is what a register write or read does outside service (log 34). That an
event whose condition does not hold, such as a retry of a packet that is not blocked, changes nothing is the model's
choice (log 38). -/
def Obligations.QueueAndHostEventsComplete : Prop :=
  (∀ (s : State) (q : BitVec 8) (v : Word) (x : Queue), s.inService = true → s.arn.enable = true →
    s.queue q.toNat = x → x.latched = true → x.enable = true →
    9 ≤ x.size → x.size ≤ 20 →
    let tail := v.extractLsb' 0 32
    let late := 2 ^ x.size < (tail - x.head).toNat
    let moved := (s.putQueue q.toNat { x with tail }).atHead q.toNat
    v.getLsbD 62 = false → v.getLsbD 63 = false →
    (¬late → exec (.doorbellTail q v) s = .next moved) ∧
    (late → ∃ tag, exec (.doorbellTail q v) s = .next (s.commandError q.toNat x.head tag 11)) ∧
    (¬late → (moved.queue q.toNat).halted = true →
      let t := (moved.putQueue q.toNat
        { moved.queue q.toNat with halted := false, blocked := false, stage := 0, headSince := none }).latch q.toNat
      exec (.doorbellReload q v) s = .next (if (t.queue q.toNat).enable then t.atHead q.toNat else t)) ∧
    (¬late → let y := moved.queue q.toNat
      let d := moved.arn.qtab.toNat + 64 * q.toNat
      let t := (moved.endDestroy q.toNat).putQueue q.toNat
        { y with enable := false, blocked := false, stage := 0, headSince := none }
      exec (.doorbellStop q v) s = .next (t.physDw d (moved.readDw d &&& ~~~(BitVec.twoPow 64 63))))) ∧
  (∀ (s : State) (q : BitVec 8) (v : Word) (x : Queue), s.inService = true → s.arn.enable = true →
    s.queue q.toNat = x → (x.latched = false ∨ x.enable = false) →
    let d := s.descriptor q.toNat
    (bits (d.getD 0 0) 63 1 = 0 → exec (.doorbellTail q v) s = .next s) ∧
    (bits (d.getD 0 0) 63 1 = 1 → v.getLsbD 62 = false → ∃ t, exec (.doorbellTail q v) s = .next t ∧
      (t.queue q.toNat).latched = true ∧
      (t.queue q.toNat).ctx = bits (d.getD 2 0) 0 12 ∧ (t.queue q.toNat).ring = 4096 * bits (d.getD 0 0) 12 40 ∧
      (badDescriptor d = true → (t.queue q.toNat).halted = true ∧
        (t.arn.errwr ≠ s.arn.errwr ∨ t.arn.status.getLsbD 0 = true)))) ∧
  (∀ (s : State), (s.selectLanes = [] → exec .arnalRound s = .next s) ∧ s.selectLanes.length ≤ 32 ∧
    (∀ k, s.selectLanes = [k] → ((headerError k).isSome = true ∨ (groupOrder.filter fun op => k.is op).length = 1) →
      exec .arnalRound s = .next ((runPacket (held (packetBody k)) k s).movePointers [k])) ∧
    (s.selectLanes ≠ [] →
      let runs := fun (s : State) (l : List Pk) => l.foldl (fun s k => runPacket (held (packetBody k)) k s) s
      let good := s.selectLanes.filter fun k => (headerError k).isNone
      let bad := s.selectLanes.filter fun k => (headerError k).isSome
      exec .arnalRound s = .next (([0x0B, 0x03, 0x05, 0x06, 0x04, 0x02, 0x01, 0x08, 0x07, 0x0C, 0x0A, 0x09, 0x0D, 0x0F,
        0x0E].foldl (fun s op => runs s (good.filter fun k => decide (k.f 0 0 8 = op))) (runs s bad)).movePointers
          s.selectLanes)) ∧
    ∀ j k, s.selectLanes = [j, k] → headerError j = none → headerError k = none →
      let run := fun (k : Pk) (s : State) => runPacket (held (packetBody k)) k s
      (j.f 0 0 8 = 9 → k.f 0 0 8 = 3 → exec .arnalRound s = .next ((run j (run k s)).movePointers [j, k])) ∧
      (j.f 0 0 8 = k.f 0 0 8 → k.f 0 0 8 ∈ groupOrder →
        exec .arnalRound s = .next ((run k (run j s)).movePointers [j, k]))) ∧
  (∀ (s : State) (q : BitVec 8) (x : Queue), s.queue q.toNat = x →
    (x.blocked = true → exec (.packetUnblock q) s = .next (s.putQueue q.toNat { x with blocked := false })) ∧
    (x.blocked = false → exec (.packetUnblock q) s = .next s) ∧
    (∀ t, s.waitmemDue q.toNat = some t → t ≤ s.clk → ∃ tag,
      exec (.waitmemTimeout q) s = .next (s.commandError q.toNat x.head tag 10)) ∧
    ∀ k, s.headPacket q.toNat = some k → k.f 0 0 8 = 13 → k.queue.blocked = true → k.queue.enable = true →
      s.arn.enable = true → exec (.waitmemPoll q) s = .next (runPacket (held waitmemBody) k s)) ∧
  (∀ (s : State) (o : Nat) (v : Word),
    (s.inService = false → exec (.registerWrite o v) s = .next s) ∧
    (s.inService = true →
      exec (.registerWrite 0x08 v) s =
        .next { s with arn := { s.arn with qtab := (v &&& 0xFFFFFFFFFC000).extractLsb' 0 52 } } ∧
      (s.arn.enable = true → exec (.registerWrite 0x18 v) s = .next s ∧ exec (.registerWrite 0x20 v) s = .next s) ∧
      exec (.registerWrite 0x30 v) s = .next { s with arn := { s.arn with errrd := v.extractLsb' 0 32 } } ∧
      exec (.registerWrite 0x38 v) s =
        .next { s with arn := { s.arn with status :=
          s.arn.status &&& (~~~(v.extractLsb' 0 3) ||| s.arn.statusNew) } } ∧
      exec (.registerWrite 0x40 v) s = .next { s with arn := { s.arn with win := v.extractLsb' 32 20 } } ∧
      (∀ q : Nat, q < 256 → exec (.registerWrite (0x10000 + 8 * q) v) s = exec (.doorbellTail (BitVec.ofNat 8 q) v) s) ∧
      exec (.registerWrite 0x20018 v) s = (match v.toNat % 4 with
        | 0 => exec .invalRange s
        | 1 => exec .invalAsid s
        | 2 => exec .invalAll s
        | _ => .next { s with xlat := { s.xlat with
            invalStatus := s.xlat.invalStatus ||| 4, invalNew := s.xlat.invalNew ||| 4 } }) ∧
      exec (.registerWrite 0x20020 v) s = .next { s with xlat := { s.xlat with
        invalStatus := s.xlat.invalStatus &&& (~~~(v.extractLsb' 0 3 &&& 6) ||| s.xlat.invalNew) } } ∧
      exec (.registerWrite 0x20040 v) s = (match v.toNat / 2 ^ 32 % 4 with
        | 1 => exec (.faultReplay (v.extractLsb' 0 32)) s
        | 2 => exec (.faultFail (v.extractLsb' 0 32)) s
        | _ => .next s))) ∧
  ∀ (s : State) (o n : Nat) (l : List Byte), s.health.tripped = false →
    let pa := fun (o : Nat) => s.arn.win.toNat * 2 ^ 32 + o
    let open_ := fun (n : Nat) => 1 ≤ n ∧ o + n ≤ 2 ^ 32 ∧ pa o + n ≤ memBytes ∧ ∀ f ∈ unitsOf 65536 (pa o) n,
      s.frameClosed f = false ∧ s.regionClosed (65536 * f) = false
    let reply := fun (s : State) (l : Option (List Byte)) => { s with arn := { s.arn with hostReply := l } }
    ((n = 0 ∨ 2 ^ 32 < o + n) → exec (.bar2Read o n) s = .next (reply s none)) ∧
    (open_ n → let t := s.settleRange (pa o) n
      t.anyBad (pa o) n = false → exec (.bar2Read o n) s = .next (reply t (some (t.mem.read (pa o) n)))) ∧
    (∀ f, 1 ≤ n → o + n ≤ 2 ^ 32 → (unitsOf 65536 (pa o) n).find? s.frameClosed = some f →
      exec (.bar2Read o n) s =
        .next (reply (s.noteRefusal (max (pa o) (65536 * f)) false) (some (List.replicate n 0xFF)))) ∧
    (∀ f, 1 ≤ l.length → o + l.length ≤ 2 ^ 32 → (unitsOf 65536 (pa o) l.length).find? s.frameClosed = some f →
      exec (.bar2Write o l) s = .next (s.noteRefusal (max (pa o) (65536 * f)) true)) ∧
    (open_ l.length → let t := s.settleRange (pa o) l.length
      exec (.bar2Write o l) s = .next (t.physWrite (pa o) (t.hostBytes (pa o) l)) ∧
      ((∀ i < l.length, t.inRegion (pa o + i) = false) → t.hostBytes (pa o) l = l))

/-- R253, R261, R262, R264 to R266: invalidations start, err and complete; faults of engines stop their operation,
await queue space, and are replayed or failed by a verdict; and the L1 writes old dirty sectors back. That an event
whose condition does not hold changes nothing is the model's choice (log 38). -/
def Obligations.TranslationEventsComplete : Prop :=
  (∀ (s : State), s.inService = true → let x := s.xlat
    let starts := fun (i : Instr) (kind : Nat) =>
      exec i s = .next { s with xlat := { x with
        invalStatus := x.invalStatus ||| 1
        inval := some (kind, x.invalAsid, x.invalVa.toNat * 65536, x.invalLen.toNat * 65536) } }
    let errs := fun (i : Instr) => exec i s = .next { s with xlat := { x with
      invalStatus := x.invalStatus ||| 4, invalNew := x.invalNew ||| 4 } }
    (x.inval = none → (x.invalLen ≠ 0 → starts .invalRange 0) ∧ (x.invalLen = 0 → errs .invalRange) ∧
      starts .invalAsid 1 ∧ starts .invalAll 2) ∧
    (x.inval.isSome = true → errs .invalRange ∧ errs .invalAsid ∧ errs .invalAll) ∧
    (x.inval = none → exec .invalidationComplete s = .next s) ∧
    ∀ i, x.inval = some i →
      let t := s.invalidate i
      exec .invalidationComplete s = .next { t with xlat := { t.xlat with
        inval := none, invalStatus := (t.xlat.invalStatus &&& 6) ||| 2, invalNew := t.xlat.invalNew ||| 2 } } ∧
      (∀ l ∈ t.mem.tlb, ∀ e ∈ l.2, invalMatches i e.asid e.va (2 ^ e.level) = false) ∧
      ∀ l1, ∀ y ∈ t.sectors l1, invalMatches i y.asid (32 * y.va) 32 = false) ∧
  (∀ (s : State) (seq : BitVec 32), s.inService = true →
    (s.faultOf seq = none →
      exec (.faultReplay seq) s = .next { s with xlat := { s.xlat with faultStale := true, staleNew := true } } ∧
      exec (.faultFail seq) s = .next { s with xlat := { s.xlat with faultStale := true, staleNew := true } }) ∧
    ∀ x i, s.faultOf seq = some (x, i) →
      exec (.faultFail seq) s = .next (s.failStopped x) ∧
      (i.mem = true → exec (.faultReplay seq) s = .next (s.failStopped x)) ∧
      (i.mem = false → x.1 < 3 → exec (.faultReplay seq) s = .next (s.setFault x none)) ∧
      (∀ core uid o, x = (0, core, uid) → s.engineOp core uid = some o →
        exec (.faultFail seq) s = .next (s.opEnd core o 5 5))) ∧
  (∀ (s : State) (ctx : Nat) (x : Stopped) (f : FaultSubject) (i : FaultInfo) (c : Context), s.xlat.waiting = [x] →
    s.faultSubject x = some f → f.ctx = ctx → f.fault = some (.queue i) → mapFind s.ctxs ctx = some c →
    let wr := (s.readDw c.fq).toNat % 2 ^ 32
    let rd := (s.readDw (c.fq + 8)).toNat % 2 ^ 32
    (2 ^ c.fqlog ≤ (wr + 2 ^ 32 - rd) % 2 ^ 32 → exec (.faultQueueRetry ctx) s = .next s) ∧
    ((wr + 2 ^ 32 - rd) % 2 ^ 32 < 2 ^ c.fqlog → ∃ t, exec (.faultQueueRetry ctx) s = .next t ∧ t.xlat.waiting = [] ∧
      t.xlat.faultSeq ≠ 0 ∧ t.arn.status.getLsbD 2 = true ∧ t.arn.msix.getLast? = some 0)) ∧
  (∀ (s : State) (core op : Nat) (o : EngineOp) (i : FaultInfo) (t : State), s.engineIs core op true = some o →
    s.engineUnit core o = (.error i, t) → exec (.enginePageFault core op) s = .next (t.stopAt (0, core, op) i)) ∧
  ∀ (s : State) (l1 va : Nat), ∃ t, exec (.l1WritebackTimeout l1 va) s = .next t ∧
    (∀ x ∈ t.sectors l1, x.va = va → ¬(x.dirty ≠ 0 ∧ x.since + 2 ^ 16 ≤ s.clk)) ∧
    ∀ x ∈ s.sectors l1, x.va = va → x.dirty ≠ 0 → x.since + 2 ^ 16 ≤ s.clk → s.sectorAllowed x = true →
      32 * x.pa + 32 ≤ memBytes → s.inTables (32 * x.pa) = false →
      (∀ y ∈ s.sectors l1, y.va = va → y.dirty ≠ 0 → y.since + 2 ^ 16 ≤ s.clk → y = x) →
      t.mem.read (32 * x.pa) 32 = overlay x.dirty x.data (s.mem.read (32 * x.pa) 32) ∧
      ({ x with dirty := 0, tag := false } : Sector) ∈ t.sectors l1

/-- R25, R32, R39, R41, R320, R323 to R325, R332, R337 to R342: blocks are placed and launches wait for cores;
deadlines, time slices and watchdogs end or pre-empt contexts; a context is saved and resumed; and node groups launch.
One block for each placement event, the sequence of a resume and the waits of a pre-emption are the model's reading
(logs 24, 28); so is the end of a save at a line in error (log 43). That an event whose condition does not hold
changes nothing is the model's choice (log 38). -/
def Obligations.SchedulingEventsComplete : Prop :=
  (∀ (s : State), s.ckpt.isSome = true → exec .blockPlacement s = .next s) ∧
  (∀ (s : State) (k core : Nat) (l : Launch) (r : List (Nat × Launch)), s.ckpt = none → s.placeOrder = (k, l) :: r →
    (∀ e ∈ s.placeOrder, e.2.holds = false) → s.bestCore (s.nextShape k l) = some core →
    (∀ u, s.nextSaved k l = some u → exec .blockPlacement s = .next (s.placeSaved k l u core)) ∧
    (s.nextSaved k l = none → exec .blockPlacement s = .next (s.placeBlock k l core) ∧
    (l.shape.wpb ≤ 64 → ∀ w < l.shape.wpb, ∃ x : Warp,
      mapFind (s.placeBlock k l core).warps (warpKey s.births w) = some x ∧ x.lanes = BitVec.allOnes 64 ∧
      x.s0.live = true ∧ x.s0.pc = (l.cap 0 0).base ∧ x.s0.mask = BitVec.allOnes 64 ∧ x.s0.rpc = BitVec.allOnes 64 ∧
      x.s1.live = false ∧ x.getC 0 = regCap (l.cap 0 0) ∧ x.getC 1 = regCap (l.cap 4 1) ∧
      x.dstkSp = (x.getC 15).base))) ∧
  (∀ (s : State) (k : Nat) (l : Launch), mapFind s.launches k = some l →
    (∀ t, l.waitSince = some t → t + 2 ^ 20 ≤ s.clk → exec (.placementWaitExpiry k) s =
      .next { s with launches := mapPut s.launches k { l with holds := true } }) ∧
    (∀ t, l.stage = .waiting t → t + 2 ^ 27 ≤ s.clk → l.member = true →
      exec (.startBarrierTimeout k) s = .next (if l.origin then s.cancelLaunch k l 7
        else (s.discardLaunch k l 7).startTo (l.field 12 0 16) l.opnum l.fromMod startRefuse)) ∧
    (∀ c, mapFind s.ctxs l.ctx = some c →
      (l.deadline = some 0 → c.halted = false →
        exec (.launchDeadline k) s = .next (s.forcedReset l.ctx 2 l.name noBlockD0 false none)) ∧
      (c.halted = true → exec (.launchDeadline k) s = .next s) ∧
      (∀ core n, mapFind l.slice core = some n → l.tslice ≠ 0 → l.tslice ≤ n →
        (c.stopped = true → exec (.timeSliceExpiry k core) s =
          .next (s.modCtx l.ctx fun c => { c with sliceHeld := some (k, core) })) ∧
        (c.stopped = false → (∀ w ∈ s.placeOrder, w.2.ctx = l.ctx ∨ w.2.qprio < l.qprio) →
          exec (.timeSliceExpiry k core) s =
            .next { s with launches := mapPut s.launches k { l with slice := mapPut l.slice core 0 } }) ∧
        (c.stopped = false → (∃ w ∈ s.placeOrder, w.2.ctx ≠ l.ctx ∧ l.qprio ≤ w.2.qprio ∧
            s.needs l.ctx core (s.nextShape w.1 w.2) = true) →
          exec (.timeSliceExpiry k core) s = .next (s.startPreempt l.ctx (1024 * l.savedl) none false))))) ∧
  (∀ (s : State) (n : Nat) (c : Context), mapFind s.ctxs n = some c →
    let ends := fun (i : Instr) (code : Nat) (by_ : Option (Nat × BitVec 32 × BitVec 32)) (dog : Bool) =>
      exec i s = .next (s.forcedReset n code by_ noBlockD0 dog none)
    (∀ p, c.preempt = some p →
      (p.level = 1 → p.drain = 0 → exec (.drainDeadline n) s =
        .next (s.modCtx n fun c => { c with preempt := some { p with level := 2 } })) ∧
      (p.level = 2 → p.save = 0 → ends (.saveDeadline n) 5 p.packet false) ∧
      (p.level = 2 → (∃ g ∈ s.fab.gridOps, g.2.ctx = n ∧ g.2.fn ≠ 1) → exec (.preciseSave n) s = .next s) ∧
      (p.level = 2 → (∀ g ∈ s.fab.gridOps, g.2.ctx = n → g.2.fn = 1) →
        let t := s.stopContext n c
        let d := (mapFind t.ctxs n).getD c
        let body := t.savedState n d p.halts
        let bad := (t.anyBad d.save 0x1000 || t.anyBad (d.save + 0x9000) body.length) = true
        (0x9000 + body.length ≤ d.savelen → bad →
          exec (.preciseSave n) s = .next (t.forcedReset n 11 p.packet noBlockD0 false none)) ∧
        (d.savelen < 0x9000 + body.length →
          exec (.preciseSave n) s = .next (t.forcedReset n 7 p.packet noBlockD0 false none)) ∧
        (0x9000 + body.length ≤ d.savelen → ¬bad → p.ckpt = false → ∃ u : State,
          exec (.preciseSave n) s = .next (u.modCtx n fun x =>
            { x with parked := !p.requeue, resumeBy := if p.requeue then p.packet else none }) ∧
          ∃ v h, u = State.saveWrite (v.leaveCores n d) d 0 h ∧ h.length = 256 ∧
            v = (t.saveWrite d 0x100 (List.replicate 3840 0)).saveWrite d 0x9000 body))) ∧
    (c.saved = false ∨ c.parked = true → exec (.contextResume n) s = .next s) ∧
    (c.saved = true → c.parked = false → c.dead = false → c.preempt = none → s.ckpt = none →
      let a : Area := fun o n => s.mem.read (c.save + o) n
      let limit := min c.savelen (0x9000 + (s.readDw (c.save + 24)).toNat)
      let m := c.savedLaunches.length
      let bad := (s.anyBad c.save 0x1000 || s.anyBad (c.save + 0x9000) (limit - 0x9000)) = true
      (bad → ends (.contextResume n) 11 c.resumeBy false) ∧
      (¬bad → (a.headerOk = false ∨ a.launchesOk m = false) → ends (.contextResume n) 9 c.resumeBy false) ∧
      ∀ bs, ¬bad → a.headerOk = true → a.launchesOk m = true →
        a.blocks a.vregs limit (a.dw 0x9008) (0x9100 + 256 * m) = some bs →
        ((∃ b ∈ bs, a.blockOk m b = false ∨ ∃ w ∈ b.warps, a.forerunnerOk s n w.2 = false) →
          ends (.contextResume n) 9 c.resumeBy false) ∧
        (bs ≠ [] → (∀ b ∈ bs, a.blockOk m b = true ∧ ∀ w ∈ b.warps, a.forerunnerOk s n w.2 = true) → ∃ t,
          exec (.contextResume n) s = .next t ∧ t.blocks = s.blocks ∧ ∃ d, mapFind t.ctxs n = some d ∧
            d.saved = false ∧ d.sbars = a.sbars ∧
            d.unplaced.map (fun u => (u.idx, u.wpb, u.spu, u.accb)) = bs.map fun b => (b.idx, b.wpb, b.spu, b.accb)) ∧
        (bs = [] → c.sliceHeld = none → ∃ t d, exec (.contextResume n) s = .next t ∧ mapFind t.ctxs n = some d ∧
          d.saved = false ∧ d.unplaced = [] ∧ d.kept = [] ∧ d.savedLaunches = [])) ∧
    (s.hangDue n c = true → s.barrierDue n c = none →
      (c.preempt = none → ends (.hangWatchdog n) 3 none true) ∧
      (∀ p, c.preempt = some p → p.level = 2 → ends (.hangWatchdog n) 6 p.packet true)) ∧
    (∀ key obj, s.barrierDue n c = some (key, obj) →
      exec (.barrierTimeoutWatchdog n) s = .next (s.forcedReset n 4 (s.launchPacket (s.block key).launch)
        (s.blockD0 key (s.timeoutWarp key obj)) true (some (key, obj)))) ∧
    (s.barrierDue n c = none → exec (.barrierTimeoutWatchdog n) s = .next s)) ∧
  ∀ (s t : State) (k m : Nat) (n : Node), mapFind s.nodes k = some n → s.groupReady n = (m, t) →
    (n.grp ≤ m → exec (.nodeGroupLaunch k) s = .next (t.startGroup k n n.grp)) ∧
    (m < n.grp → exec (.nodeGroupLaunch k) s = .next t) ∧
    (∀ since, mapFind n.ready n.next = some since → n.timer ≠ 0 → since + n.timer ≤ s.clk → 1 ≤ m →
      exec (.nodeGroupTimer k) s = .next (t.startGroup k n m))

/-- R242, R245, R374, R376, R378 to R380, R385 to R387: frames act once, when they are well formed, for this module,
and new; unacknowledged frames are sent again; grid operations end; and links go down and come up. What an Ultra
Ethernet packet does (log 18), when a link goes down and what a frame of no operation leaves (log 29), and the resends
and numbers of links (log 46) are the model's reading. That an event whose condition does not hold changes nothing is
the model's choice (log 38). -/
def Obligations.FabricEventsComplete : Prop :=
  (∀ (f : Frame) (s : State), s.health.tripped = false → s.portUp f.port.toNat = true →
    f.payload.length = f.plen.toNat →
    let p := f.port.toNat
    let o := match f.link with
      | some l => s.modPort p fun x => x.accepted l.acks
      | none => s
    let step := (mapGet ({} : Port) o.fab.ports p).step f.link
    let t := o.modPort p fun x => x.take f.link
    let arrives := fun (i : Instr) (ty : BitVec 8) (act : Frame → State → State) =>
      let g := { f with ty, via := none, link := none }
      (step = .skip → exec i s = .next o) ∧
      (step = .stale → exec i s = .next ((o.modPort p fun x => { x with rxSeq := x.rxSeq + 1 }).authFail p)) ∧
      (step = .take →
        (frameMalformed g = true → exec i s = .next (t.dropMalformed g)) ∧
        (frameMalformed g = false → t.admits g = false → exec i s = .next t) ∧
        (frameMalformed g = false → t.admits g = true → ty ≠ 10 →
          (∀ w, mapFind s.fab.rx f.src.toNat = some w → w.dup f.seq = true → exec i s = .next (t.sendTack g)) ∧
          (∀ w, mapFind s.fab.rx f.src.toNat = some w → w.dup f.seq = false → exec i s = .next (act g
            ({ t with fab := { t.fab with rx := mapPut t.fab.rx f.src.toNat (w.add f.seq) } }.sendTack g))) ∧
          (mapFind s.fab.rx f.src.toNat = none → exec i s = .next (act g
            ({ t with fab := { t.fab with rx := mapPut t.fab.rx f.src.toNat { high := f.seq } } }.sendTack g)))) ∧
        (frameMalformed g = false → t.admits g = true → ty = 10 → exec i s = .next (act g t)))
    arrives (.frameStore f) 1 onAccess ∧ arrives (.frameLdreq f) 2 onAccess ∧ arrives (.frameLdrep f) 3 onLdrep ∧
    arrives (.frameAtom f) 4 onAccess ∧ arrives (.frameAtrep f) 5 onAtrep ∧ arrives (.frameExp f) 6 onContribution ∧
    arrives (.frameExpr f) 7 onExpr ∧ arrives (.frameRed f) 8 onContribution ∧ arrives (.frameRedr f) 9 onAccess ∧
    arrives (.frameTack f) 10 onTack ∧ arrives (.frameDone f) 11 onDone ∧ arrives (.frameNack f) 12 onNack ∧
    arrives (.frameLaunch f) 13 (fun f s => s.request f fun s => s.onLaunch f) ∧
    arrives (.frameStart f) 14 (fun f s =>
      if s.held f = true ∨ s.boundCtx f.gtid f.gen = none then
        (if f.tag = startArrive ∨ f.tag = startRefuse then s.nackAnswer f else s.nack f 0x13 f.va)
      else s.onStart f) ∧
    ((f.ty = 0 ∨ 15 ≤ f.ty.toNat) → step = .take →
      exec (.malformedFrame f) s = .next (t.dropMalformed { f with link := none }))) ∧
  (∀ (w : RxWindow) (q : BitVec 32), (w.dup w.high = true) ∧ ((w.add q).dup q = true) ∧
    (w.dup q = true → (w.high - q).toNat < 2 ^ 31 → q = w.high ∨ 4095 < (w.high - q).toNat ∨ q ∈ w.seen)) ∧
  (∀ (p : UePacket) (s : State), s.health.tripped = false → s.portUp p.frame.port.toNat = true → p.frame.link = none →
    let f := { p.frame with via := some p.mode }
    let carried := s.modPort f.port.toNat fun x => x.take none
    ((p.trimmed = true ∨ p.tssKey ≠ s.tssKey f ∨ p.mode = .other) → exec (.uePacket p) s = .next carried) ∧
    (p.trimmed = false → p.tssKey = s.tssKey f → p.mode ≠ .other →
      exec (.uePacket p) s = .next (s.arrive f ueAct) ∧
      (p.mode = .rud → s.ckpt = none → (f.ty = 1 ∨ f.ty = 10 ∨ f.ty = 11 ∨ f.ty = 12) →
        exec (.uePacket p) s = .next (s.arrive f frameAct)))) ∧
  (∀ (s : State) (n : Nat) (t : TxFrame), mapFind s.fab.tx n = some t →
    (s.clk < t.sent + s.rtoClk → exec (.retransmissionTimeout n) s = .next s) ∧
    (t.sent + s.rtoClk ≤ s.clk → 16 ≤ t.tries → exec (.retransmissionTimeout n) s = .next (s.giveUp n t)) ∧
    (t.sent + s.rtoClk ≤ s.clk → t.tries < 16 → ∃ u, exec (.retransmissionTimeout n) s = .next u ∧
      mapFind u.fab.tx n = some { t with sent := s.clk, tries := t.tries + 1 } ∧
      (s.upPorts ≠ [] → ∃ g : Sent, u.fab.wire = s.fab.wire ++ [g] ∧ g.frame.retx = true ∧ g.frame.seq = t.frame.seq ∧
        g.frame.payload = t.frame.payload ∧ g.frame.wlo = t.frame.wlo ∧ g.frame.whi = t.frame.whi ∧
        g.entropy = t.path))) ∧
  (∀ (s : State) (k : Nat) (g : GridOp), mapFind s.fab.gridOps k = some g →
    (g.complete = true → exec (.gridOperationComplete k) s = .next (s.endGrid k g 2 0)) ∧
    (g.complete = false → exec (.gridOperationComplete k) s = .next s)) ∧
  (∀ (s : State) (k : Nat),
    (∀ r, mapFind s.fab.reds k = some r →
      (r.since + 2 ^ 30 ≤ s.clk → exec (.reductionTimeout k) s = .next (s.failRed r.head 0x12)) ∧
      (s.clk < r.since + 2 ^ 30 → exec (.reductionTimeout k) s = .next s)) ∧
    (mapFind s.fab.reds k = none → exec (.reductionTimeout k) s = .next s)) ∧
  ∀ (s : State) (port : BitVec 4) (cause : Nat), s.health.tripped = false →
    let x : Port := mapGet {} s.fab.ports port.toNat
    let put := fun (y : Port) => { s with fab := { s.fab with ports := mapPut s.fab.ports port.toNat y } }
    let note := fun (s : State) (code cause : Nat) =>
      s.errorRecord 8 code 0xFFF none (BitVec.ofNat 64 port.toNat) (BitVec.ofNat 64 cause)
    (x.up = false → exec (.linkDown port cause) s = .next s ∧ exec (.integrityFailure port) s = .next s) ∧
    (x.up = true →
      exec (.linkDown port cause) s =
        .next (note (put { x with up := false, rekey := decide (cause = 1), replay := [] }) 1 cause) ∧
      (x.authFails = 0 → exec (.integrityFailure port) s = .next (put { x with rxSeq := x.rxSeq + 1, authFails := 1 })) ∧
      (x.authFails = 1 → exec (.integrityFailure port) s = .next (note
        (put { x with rxSeq := x.rxSeq + 1, authFails := 2, up := false, rekey := true, replay := [] }) 1 1)) ∧
      (x.replay = [] → exec (.llrResend port) s = .next s) ∧
      ∀ f n r, x.replay = (f, n) :: r →
        (n < 8 → exec (.llrResend port) s = .next (let t := put { x with replay := (f, n + 1) :: r }
          { t with fab := { t.fab with wire := s.fab.wire ++ [f] } })) ∧
        (8 ≤ n → exec (.llrResend port) s = .next (note (put { x with up := false, rekey := false, replay := [] }) 1 3))) ∧
    (x.up = false → s.arn.bstate = 1 →
      let y := { x with up := true, rekey := false, lseq := 0, rxSeq := 0, replay := [] }
      exec (.linkUp port 1) s = .next (note (put { y with authFails := 0, pn := 1, rxPn := 0 }) 2 1) ∧
      (cause ≠ 1 → exec (.linkUp port cause) s = .next (note (put y) 2 cause)))

/-- R190, R217, R364, R367, R368, R388, R391, R392, R398 to R400: matrix operations start and end; the self-test
fences sub-arrays; scrubs, checkpoints and the health block go on; and the two resets. That a failed self-test of a
fenced quarter changes nothing (log 27), that one checkpoint event sends one line and leaves saved contexts out (log
40), and what strikes and mends a row (log 48) are the model's choices or readings; so is that an event whose
condition does not hold changes nothing (log 38). -/
def Obligations.PackageEventsComplete : Prop :=
  (∀ (s : State) (core op : Nat) (o : EngineOp),
    (s.engineIs core op false = some o →
      (∀ c, s.startCause core o = some c → exec (.engineOperationStart core op) s = .next (s.opEnd core o 5 c)) ∧
      (s.startCause core o = none → ∀ row, s.tornScale o = some row → exec (.engineOperationStart core op) s =
        .next ((s.sramError core 0 row).opEnd core o 5 6)) ∧
      (s.startCause core o = none → s.tornScale o = none → ∀ w, mapFind s.warps o.warp = some w →
        exec (.engineOperationStart core op) s =
        .next ((s.modEngineOp core op fun o => { o with running := true, colScale := w.colScale }).modStat op fun x =>
          { x with state := 1 }))) ∧
    (s.engineIs core op true = some o → o.kind.total ≤ o.progress → exec (.engineOperationComplete core op) s =
      .next (s.opEnd core o (if o.kind.unpaired then 3 else 2) 0))) ∧
  (∀ (s : State) (core : Nat) (q : BitVec 2), s.health.tripped = false → core ∈ coreIds →
    let c := s.core core
    (s.engineIdle core = false → ∀ pass, exec (.matrixSelfTest core q pass) s =
      .next (s.putCore core { c with tests := c.tests ++ [(q, pass)] })) ∧
    (s.engineIdle core = true → c.mxFence.getLsbD q.toNat = false →
      exec (.matrixSelfTest core q true) s =
        .next (s.putCore core { c with testClk := BitVec.ofNat 64 s.clk, testSerials := [] }) ∧
      ∃ t, exec (.matrixSelfTest core q false) s = .next t ∧
        (64 ≤ c.mxRows → (t.core core).mxFence = c.mxFence ||| BitVec.ofNat 4 (2 ^ q.toNat) ∧
          (t.core core).mxRows = c.mxRows - 32)) ∧
    (s.engineIdle core = true → c.mxFence.getLsbD q.toNat = true →
      ∀ pass, exec (.matrixSelfTest core q pass) s = .next s)) ∧
  (∀ (s : State) (x : Scrub), s.scrubNow = some x →
    (∀ f r, s.scrubs = true → x.todo = f :: r → ∃ t, exec .scrubFrame s = .next t ∧
      (∃ y, mapFind t.prot.scrubs x.accepted = some y ∧ y.todo = r ∧ y.rest = x.rest ∧ y.doneFrames = x.doneFrames + 1 ∧
        y.did = x.did ++ [f] ∧ y.state = if r = [] ∧ x.rest = [] then 3 else 2) ∧
      (∀ l ∈ t.mem.l1, ∀ y ∈ l.2, y.pa / 2048 ≠ f) ∧
      (x.rcpt = none → s.cfg.retired.contains f = false → s.mem.stuck = [] → f < 2 ^ 24 →
        s.cfg.resv.toNat % 2 ^ 28 = 0 → s.inRegion (65536 * f) = false →
        ∀ a, 65536 * f ≤ a → a < 65536 * f + 65536 → t.mem.byte a = 0)) ∧
    (s.ckpt.isSome = true → exec .scrubFrame s = .next s) ∧
    (s.arn.bstate = 1 → x.todo = [] → x.rest = [] → ∃ t, exec .scrubReceipt s = .next t ∧ mapFind t.prot.scrubs x.accepted = none)) ∧
  (∀ (s : State) (c : Ckpt), s.ckpt = some c →
    (c.phase = 0 → s.quiesced c = true → exec .checkpointStream s = .next { s with
      ckpt := some { c with phase := 1, todo := s.ckptRanges c, clkEnd := BitVec.ofNat 64 s.clk } }) ∧
    (c.phase = 0 → s.quiesced c = false → exec .checkpointStream s = .next s) ∧
    (c.phase = 1 → c.todo = [] → exec .checkpointStream s = .next { s with ckpt := some { c with phase := 2 } }) ∧
    (c.phase = 1 → ∀ off pa n rest, c.todo = (off, pa, n) :: rest →
      let todo := if n ≤ 128 then rest else (off + 128, pa + 128, n - 128) :: rest
      let t := s.settleRange pa 128
      let u := if t.anyBad pa 128 then t.memError pa true else t
      let l := u.ckptLine (if c.one = none then off else fullVa off) pa
      let v := u.ckptSend c off l.1
      (s.inRegion pa = true → exec .checkpointStream s = .next { s with ckpt := some { c with todo } }) ∧
      (s.inRegion pa = false → exec .checkpointStream s = .next
        (let w := if l.2 = [] then v else v.ckptSend c (c.tops.2 + c.side.length) l.2
         { w with ckpt := some { c with
             todo, reach := off + 128, sent := c.sent ++ l.1, side := c.side ++ l.2, clkLast := BitVec.ofNat 64 w.clk } })) ∧
      ((u.owner (frameOf pa)).seals = false →
        l.1 = u.mem.read pa 128 ∧ ((∀ i < 4, u.mem.tag (pa + 32 * i) = false) → l.2 = []))) ∧
    (c.phase = 2 → exec .checkpointFinish s =
      .next { s.ckptSend c c.tops.1 c.manifest with ckpt := some { c with phase := 3, reach := c.tops.1 + 256 } }) ∧
    (c.phase = 3 → s.ckptPending = false → exec .checkpointFinish s =
      .next (s.endCkpt c c.dval 1 (BitVec.ofNat 64 c.sent.length) (BitVec.ofNat 64 s.clk - c.clkEnd)))) ∧
  (∀ (s : State) (x : Sensors), let mended := { x with errors := [] }
    exec (.healthUpdate x) s = exec (.healthUpdate mended) (s.strikes x.errors) ∧
    exec (.thermalThrottle x) s = exec (.thermalThrottle mended) (s.strikes x.errors) ∧
    exec (.thermalTrip x) s = exec (.thermalTrip mended) (s.strikes x.errors)) ∧
  (∀ (s : State) (x : Sensors), s.health.tripped = false → s.arn.bstate = 1 → x.errors = [] →
    let h := s.health
    let hot := hottest x
    (115 ≤ hot → exec (.thermalTrip x) s = .next (s.trip x) ∧ exec (.healthUpdate x) s = .next (s.trip x) ∧
      (s.trip x).health.tripped = true) ∧
    (hot < 115 → exec (.thermalTrip x) s = .next s ∧ ∃ g : Health,
      exec (.healthUpdate x) s = .next ({ s with health := g }.writeHealth x) ∧ g.plim = s.nextLimit ∧
      g.thermal = (if 100 ≤ hot then true else if hot ≤ 95 then false else h.thermal) ∧
      g.duty = (if g.plim.toNat < x.power.toNat ∨ g.thermal = true then max 31 (h.duty - 4)
        else if x.power.toNat < g.plim.toNat then min 255 (h.duty + 4) else h.duty)) ∧
    (100 ≤ hot → exec (.thermalThrottle x) s =
      .next { s with health := { h with thermal := true, duty := max 31 (h.duty - 4) } }) ∧
    (hot ≤ 95 → exec (.thermalThrottle x) s = .next { s with health := { h with thermal := false } })) ∧
  ∀ (s : State) (a b : Option Blob) (fails : List (Nat × BitVec 2)),
    exec (.coldBoot (a, b) fails) s = .next (match chooseBlob a b with
      | none => s.coldHalt
      | some x => s.coldStart (blobConfig x) fails) ∧
    (s.coldHalt.arn.bstate = 7 ∧ s.coldHalt.ctxs = [] ∧ s.coldHalt.warps = [] ∧ s.coldHalt.clk = 0) ∧
    (∀ cfg, let t := s.coldStart cfg fails
      t.arn.bstate = 1 ∧ t.ctxs = [] ∧ t.warps = [] ∧ t.blocks = [] ∧ t.lastGen = [] ∧ t.warmResets = 0 ∧
      t.health.tripped = false ∧ t.cfg = cfg ∧ t.prot.husks = [] ∧ t.prot.keys = [] ∧
      ∀ core q, core ∈ coreIds → fails = [(core, q)] → (t.core core).mxFence = BitVec.ofNat 4 (2 ^ q.toNat)) ∧
    (s.health.tripped = true → exec (.warmReset a b) s = .next s) ∧
    (s.health.tripped = false → exec (.warmReset a b) s = .next (match chooseBlob a b with
      | none => s.warmKept.noBlob
      | some x => s.warmStart (blobConfig x))) ∧
    (s.warmKept.noBlob.arn.bstate = 7 ∧ s.warmKept.noBlob.ctxs = []) ∧
    (∀ cfg, let t := s.warmStart cfg
      t.arn.bstate = 1 ∧ t.ctxs = [] ∧ t.warps = [] ∧ t.blocks = [] ∧ t.lastGen = s.lastGen ∧
      t.warmResets = s.warmResets + 1 ∧ t.prot.husks = [] ∧ t.prot.keys = []) ∧
    (∀ x, (blobField x 0 32 32 ≠ 0x57204346 ∨ blobDw x 1 ≠ x.bytes.length ∨ blobZeros x = false ∨ blobSigned x = false ∨
      blobSecret x = none) → blobOk x = false) ∧
    chooseBlob none none = none ∧
    (∀ x, (chooseBlob (some x) none = if blobOk x = true then some x else none) ∧
      chooseBlob none (some x) = if blobOk x = true then some x else none) ∧
    ∀ x y, chooseBlob (some x) (some y) =
      if blobOk x = true then
        (if blobOk y = true then (if blobVersion x < blobVersion y then some y else some x) else some x)
      else if blobOk y = true then some y else none

/-- R37, R78, R82, R341: what an instruction of registers alone leaves unchanged. Only its own destinations change, on
the lanes of its effective mask where they are v registers; arith.flags bits are only set; and neither another warp,
the other slot, memory, a block nor a core changes. R109, R141, R146: the instructions that raise no flag leave
arith.flags as it is: the base majors and VMAD, VABS and VNEG without `.sat`, and the bit, move, select, compare,
predicate, handle and capability instructions. -/
def Obligations.RegisterInstructionsChangeOnlyTheirDestinations : Prop :=
  (∀ (f : Fields) (s t : State) (is : Issue) (mk : Fields → Instr) (g : Sig),
    mk ∈ [Instr.sadd, .ssub, .smul, .smulh, .sand, .sor, .sxor, .sshl, .sshr, .ssra, .smin, .smax, .smov, .srot, .sdiv,
      .srem, .sclz, .spopc, .sbfe, .sbfi, .ssel, .sli, .slea, .scmp, .pnot, .pmov, .pset, .pcnt, .pff, .pand, .por,
      .pxor, .pandn, .vadd, .vsub, .vmul, .vmulh, .vand, .vor, .vxor, .vshl, .vshr, .vsra, .vmin, .vmax, .vmov, .vmad,
      .vabs, .vneg, .vclz, .vpopc, .vbfe, .vbfi, .vsel, .vcmp, .vbcst, .vshf, .vred, .vscan, .vdot4, .fadd, .fsub,
      .fmul, .fmin, .fmax, .hadd2, .hmul2, .ffma, .fabs, .fneg, .fcmp, .fclass, .fscale, .frnd, .hfma2, .frcp, .frsq,
      .fsqrt, .fexp2, .flog2, .fsin, .fcos, .ftanh, .fcvt, .f2i, .i2f, .cmov, .cbnd, .cperm, .cseal, .cget, .ctest,
      .clock, .htest, .hmov] →
    (s.nat is f).Runs → is.slot < 2 → wellFormed (mk f) = true → nativeSig (mk f) = some (f, g) →
    exec (mk f) s = .next t →
    let w := (s.nat is f).w
    let k := is.slot
    let dests := sigDests f g
    (∀ a, t.mem.byte a = s.mem.byte a) ∧ t = { s with warps := t.warps, ctxs := t.ctxs } ∧
    (∀ c, mapFind t.ctxs c = (mapFind s.ctxs c).map fun x =>
      if c = (s.nat is f).ctx then { x with hangCount := 0 } else x) ∧
    (∀ key, key ≠ is.warp → mapFind t.warps key = mapFind s.warps key) ∧
    ∃ u, mapFind t.warps is.warp = some u ∧
      u = { w with s0 := u.s0, s1 := u.s1, s := u.s, p := u.p, v := u.v, c := u.c, h := u.h, flags := u.flags,
                   flagsNew := u.flagsNew } ∧
      u.slot (1 - k) = w.slot (1 - k) ∧
      u.slot k = { w.slot k with pc := (s.nat is f).fall, wait := none, windows := (u.slot k).windows } ∧
      u.flags &&& w.flags = w.flags ∧
      (∀ r, ⟨.s, r⟩ ∉ dests → u.getS r = w.getS r) ∧ (∀ r, ⟨.p, r⟩ ∉ dests → u.getP r = w.getP r) ∧
      (∀ r, ⟨.c, r⟩ ∉ dests → u.getC r = w.getC r) ∧ (∀ r, ⟨.h, r⟩ ∉ dests → u.getH r = w.getH r) ∧
      (∀ r l, l < 64 → ⟨.v, r⟩ ∉ dests ∨ (s.nat is f).e.getLsbD l = false → u.getV r l = w.getV r l)) ∧
  (∀ (f : Fields) (s t : State) (is : Issue) (mk : Fields → Instr),
    (mk ∈ [Instr.sclz, .spopc, .sbfi, .ssel, .sli, .slea, .scmp, .pnot, .pmov, .pset, .pcnt, .pff, .pand, .por, .pxor,
        .pandn, .vclz, .vpopc, .vbfi, .vsel, .vcmp, .vbcst, .vshf, .fclass, .fcmp, .cmov, .cbnd, .cperm, .cseal, .cget,
        .ctest, .clock, .htest, .hmov] ∨
      (mk ∈ [Instr.sadd, .ssub, .smul, .smulh, .sand, .sor, .sxor, .sshl, .sshr, .ssra, .smin, .smax, .smov, .srot,
        .sdiv, .srem, .vadd, .vsub, .vmul, .vmulh, .vand, .vor, .vxor, .vshl, .vshr, .vsra, .vmin, .vmax, .vmov] ∧
        (btype f).testBit 2 = false) ∨
      (mk ∈ [Instr.vmad, .vabs, .vneg] ∧ mb f 2 = false)) →
    (s.nat is f).Runs → is.slot < 2 → exec (mk f) s = .next t →
    ∃ u, mapFind t.warps is.warp = some u ∧ u.flags = (s.nat is f).w.flags)

/-- R169, R173, R177, R256: what a store leaves unchanged. STS writes no byte of its block's scratchpad but those at
the lanes' offsets, no memory and no register. A store that hits sectors that its own slot holds writes no byte of
memory and no byte of its L1 but those at the lanes' addresses. A write at the home slices, whose lines no husk holds
under a seal that fails, writes no byte but its own, which read back as written, and clears the tags of the granules
it touches, leaving the others. That a write beyond the memory of Table 0.1, or to the tables of the reserved region,
is lost is the model's own (logs 47, 49). R256, R257: memory keeps its canonical form under every operation that
writes it: one byte, many bytes, the zeroing of lines, and the write-backs of L1 sectors; and the reset state has it.
-/
def Obligations.StoresWriteOnlyTheirBytesInCanonicalForm : Prop :=
  ((∀ (f : Fields) (s : State) (is : Issue), (s.nat is f).Runs → f.mod.toNat / 16 % 4 = 0 →
    let en := s.nat is f
    let n := sizeBytes (f.mod.toNat % 8)
    let bk := warpBlock is.warp
    let off := fun i => (if mb f 3 then en.sA f else (en.w.getV f.a.toNat i).zeroExtend 64) + f.w2.signExtend 64
    (∃ b, mapFind s.blocks bk = some b) →
    (∀ i < 64, en.e.getLsbD i = true →
      (off i).toNat < 2 ^ 63 ∧ (off i).toNat + n ≤ 4096 * (s.block bk).spu ∧ (off i).toNat % n = 0) →
    ∃ t, exec (.sts f) s = .next t ∧ t.mem = s.mem ∧ t.cores = s.cores ∧
      (∃ u, mapFind t.warps is.warp = some u ∧ u = { en.w with s0 := u.s0, s1 := u.s1 }) ∧
      (∀ key, key ≠ is.warp → mapFind t.warps key = mapFind s.warps key) ∧
      (∀ key, key ≠ bk → mapFind t.blocks key = mapFind s.blocks key) ∧
      (∀ a, (∀ i < 64, en.e.getLsbD i = true → ¬((off i).toNat ≤ a ∧ a < (off i).toNat + n)) →
        (t.block bk).scratchByte a = (s.block bk).scratchByte a)) ∧
  (∀ (s : State) (w : Who) (va : Word) (l : List Byte) (x : Sector), va.toNat % 32 + l.length ≤ 32 →
    x.data.length = 32 → s.sector w.id w.asid (va.toNat / 32) = some x → x.write = true → foreign x w = false →
    let t := s.l1Store w va l none
    t.mem.bytes = s.mem.bytes ∧ t.mem.tags = s.mem.tags ∧ t.warps = s.warps ∧ t.blocks = s.blocks ∧
    (∀ id, id ≠ w.id → t.sectors id = s.sectors id) ∧
    (∀ asid u, ¬(asid = w.asid ∧ u = va.toNat / 32) → t.sector w.id asid u = s.sector w.id asid u) ∧
    ∃ y, t.sector w.id w.asid (va.toNat / 32) = some y ∧ y.pa = x.pa ∧ y.data.length = 32 ∧
      ∀ i < 32, y.data.getD i 0 = (if va.toNat % 32 ≤ i ∧ i < va.toNat % 32 + l.length then l.getD (i - va.toNat % 32) 0
        else x.data.getD i 0)) ∧
  (∀ (s : State) (pa : Nat) (l : List Byte), (memBytes < pa + l.length ∨ s.inTables pa = true) → s.physWrite pa l = s) ∧
  ∀ (s : State) (pa : Nat) (l : List Byte), pa + l.length ≤ memBytes → s.inTables pa = false →
    (∀ u ∈ partLines pa l.length, (s.owner (u / 512)).state = 1 → s.sealOk (s.owner (u / 512)).husk u = true) →
    let t := s.physWrite pa l
    (∀ a, t.mem.byte a = (if pa ≤ a ∧ a < pa + l.length then l.getD (a - pa) 0 else s.mem.byte a)) ∧
    (∀ a, (a / 32 * 32 < pa + l.length ∧ pa < a / 32 * 32 + 32 ∧ l ≠ [] → t.mem.tag a = false) ∧
      (¬(a / 32 * 32 < pa + l.length ∧ pa < a / 32 * 32 + 32 ∧ l ≠ []) → t.mem.tag a = s.mem.tag a)) ∧
    t.mem.l1 = s.mem.l1 ∧ t.warps = s.warps ∧ t.blocks = s.blocks) ∧
  (State.reset.memOk ∧
  ∀ (s : State), s.memOk →
    (∀ pa x, (s.mem.setByte pa x).wf = true) ∧ (∀ pa l, (s.mem.store pa l).wf = true) ∧
    (∀ pa l, (s.physWrite pa l).memOk) ∧ (∀ pa x, (s.physDw pa x).memOk) ∧ (∀ pa n, (s.zeroLines pa n).memOk) ∧
    (∀ x, (s.writeHome x).memOk) ∧ (∀ id x, (s.writeBack id x).memOk) ∧ (∀ id p, (s.evictWhere id p).memOk) ∧
    (∀ id p, (s.cleanWhere id p).memOk) ∧ (∀ u, (s.settle u).memOk) ∧ (∀ pa n, (s.settleRange pa n).memOk) ∧
    (∀ w va l m, (s.l1Store w va l m).memOk) ∧ (∀ w va n m, (s.l1Load w va n m).2.memOk) ∧
    (∀ k, (s.release k).memOk) ∧ (∀ k sc, (s.acquire k sc).memOk) ∧
    (∀ cls code ctx p d0 d1, (s.errorRecord cls code ctx p d0 d1).memOk) ∧
    ∀ t : State, t.memOk → t.mem.bytes.length = s.mem.bytes.length → (∀ a, t.mem.byte a = s.mem.byte a) →
      t.mem.bytes = s.mem.bytes)

/-- R78, R99: an instruction whose guard leaves no lane only advances the PC, whatever it is; and one after which control
would pass to a page of the other code kind takes the illegal-instruction fault, with no effect of its own. Forerunner
instructions that act on lanes do the same (R102). -/
def Obligations.EmptyMasksOnlyAdvanceThePc : Prop :=
  (∀ (f : Fields) (g : Sig) (i : Instr) (s : State) (is : Issue), nativeSig i = some (f, g) →
    (s.nat is f).Issues → (s.nat is f).e = 0 →
    let en := s.nat is f
    (en.Stays en.fall → exec i s = .next (en.goesOn s)) ∧
    (¬en.Stays en.fall → exec i s = .next (en.raise s { cause := 0x01 }))) ∧
  (∀ (f : FrFields) (s : State) (is : Issue) (mk : FrFields → Instr),
    mk ∈ [Instr.frIntegerAdd, .frIntegerSubtract, .frIntegerMultiply, .frAnd, .frOr, .frXor, .frShiftLeft,
      .frLogicalShiftRight, .frArithmeticShiftRight, .frFp32Add, .frFp32Multiply, .frFp32Fma, .frMove, .frLoadImmediate,
      .frLaneNumber, .frIntegerCompare, .frFp32Compare, .frScalarAddImmediate, .frScalarLoadImmediate, .frLoadWord,
      .frStoreWord, .frScratchpadLoadWord, .frScratchpadStoreWord] →
    (s.fr is f).Issues → (s.fr is f).e = 0 →
    let en := s.fr is f
    (en.Stays en.fall → exec (mk f) s = .next (en.goesOn s)) ∧
    (¬en.Stays en.fall → exec (mk f) s = .next (en.raise s { cause := 0x01 }))) ∧
  ∀ (f : Fields) (s : State) (is : Issue), (s.nat is f).Acts →
    let en := s.nat is f
    ¬en.Stays en.fall →
    ∀ i ∈ [Instr.sadd f, .sli f, .vadd f, .nop f, .cmov f, .pand f], exec i s = .next (en.raise s { cause := 0x01 })

/-- R10, R11, R20, R34, R37, R73, R87, R107, R396, R400: what a step runs. It executes the oldest event that is due; else
the slots of the next picked warp, each with the instruction that the bytes at its PC decode to, or with the event or
fault of a word that is none; else a deadline of the clk; else a clk passes. The order among them is the model's own
(log 3); so is that what issues alone counts as a lost conflict (log 42), and so are the settling of a pick that contends
and the mending of a register in error (log 48). A package that has tripped drops every event but a cold boot. -/
def Obligations.StepRunsTheDecodedInstruction : Prop :=
  (∀ (s : State) (e : Instr) (r : List Instr), s.inbox = e :: r →
    (s.health.tripped = false ∨ (∃ a b, e = .coldBoot a b) →
      step s = exec e { s with inbox := r, cur := none }) ∧
    (s.health.tripped = true → (∀ a b, e ≠ .coldBoot a b) → step s = .next { s with inbox := r })) ∧
  (∀ (s : State) (e : Instr) (r : List Instr), s.inbox = [] → s.picks = [] → s.late = e :: r →
    step s = exec e { s with late := r, cur := none }) ∧
  (∀ (s : State), s.inbox = [] → s.picks = [] → s.late = [] → step s = .next s.tick) ∧
  ∀ (s : State) (key : Nat) (r : List Nat) (w : Warp), s.inbox = [] → s.picks = key :: r →
    mapFind s.warps key = some w →
    let s0 := { s with picks := r }
    let ready := fun (k : Nat) => s0.slotReady key w k = true
    let ends := fun (o : Out) => (match o with
      | .next t => .next { t with cur := none }
      | .fault x => .fault x
      | .refused x => .refused x : Out)
    let place := fun (k : Nat) (l : List Byte) (fr : Bool) =>
      ({ warp := key, slot := k, pc := (w.slot k).pc, len := if fr then 8 else l.length, fr
         words := (List.range (l.length / 4)).map fun j => wordAt l (4 * j) } : Issue)
    let issued := fun (k : Nat) (i : Instr) (l : List Byte) (fr : Bool) =>
      let (_, dests, ll) := regsOf i
      ({ place k l fr with opens := if ll then dests else [], la := if ll then laOf i else 0 } : Issue)
    let inBlock := fun (t : State) (i : Instr) =>
      ∀ x ∈ (regsOf i).1, x.cls = .v → x.idx < (t.block (warpBlock key)).vregs
    let noWindow := fun (k : Nat) (i : Instr) => ∀ x ∈ (regsOf i).1, ∀ v ∈ (w.slot k).windows, x ∉ v.regs
    let traps := fun (t : State) (is : Issue) (cause : BitVec 16) (addr : Word) =>
      ends (.next ((t.whole is).raise t { cause, addr }))
    let steps := fun (p : Plan) (t : State) (o : Out) => step s = w.settled key p t o
    (¬ready 0 → ¬ready 1 → step s = .next s0) ∧
    (∀ k < 2, ready k → ¬ready (1 - k) →
      (∀ cause addr t, s0.fetch key w (w.slot k).pc = (.error (cause, addr), t) →
        let is : Issue := { warp := key, slot := k, pc := (w.slot k).pc }
        steps (.one k (.bad cause addr is)) t (traps (t.setLosses key k 0) is cause addr)) ∧
      ∀ l fr t, s0.fetch key w (w.slot k).pc = (.ok (l, fr), t) →
        let u := t.setLosses key k 0
        let is := place k l fr
        (decode fr l = .illegal →
          steps (.one k (.run .illegalInstruction is)) t (ends (exec .illegalInstruction { u with cur := some is }))) ∧
        (decode fr l = .reserved → steps (.one k (.bad 0x02 0 is)) t (traps u is 0x02 0)) ∧
        ∀ i n, decode fr l = .instr i n →
          (¬inBlock t i → steps (.one k (.bad 0x03 0 is)) t (traps u is 0x03 0)) ∧
          (inBlock t i → ¬noWindow k i → steps (.one k (.bad 0x04 0 is)) t (traps u is 0x04 0)) ∧
          (inBlock t i → noWindow k i → ∀ row, w.tornRead i = some row → steps (.one k (.torn row is)) t
            (ends (.next ((u.whole is).raise (u.sramError (u.block (warpBlock key)).core 0 row) { cause := 0x18 })))) ∧
          (inBlock t i → noWindow k i → w.tornRead i = none → steps (.one k (.run i (issued k i l fr))) t
            (ends (exec i { u with cur := some (issued k i l fr) })))) ∧
    (ready 0 → ready 1 → ∀ a b t0 t1, s0.look key w 0 = (a, t0) → t0.look key w 1 = (b, t1) → conflicts w a b = true →
      (w.s1.losses < 4 → steps (.beat 0 a) t1 (issueOne exec (t1.modWarp key fun w =>
        w.setSlot 1 { w.slot 1 with losses := (w.slot 1).losses + 1 }) key 0 a)) ∧
      (4 ≤ w.s1.losses → steps (.one 1 b) t1 (issueOne exec t1 key 1 b))) ∧
    (ready 0 → ready 1 → ∀ l0 l1 t0 t1 i j n m,
      s0.fetch key w w.s0.pc = (.ok (l0, false), t0) → t0.fetch key w w.s1.pc = (.ok (l1, false), t1) →
      decode false l0 = .instr i n → decode false l1 = .instr j m →
      inBlock t0 i → inBlock t1 j → noWindow 0 i → noWindow 1 j → w.torn = [] →
      issuesAlone w 0 i = false → issuesAlone w 1 j = false →
      (∀ x ∈ unitsOfInstr i, x ∉ unitsOfInstr j) → (∀ x ∈ sharedWrites i, x ∉ sharedWrites j) →
      ∀ u v,
        let pair := fun (k : Nat) (i : Instr) (l : List Byte) => ({ issued k i l false with paired := true } : Issue)
        exec i { (t1.setLosses key 0 0).setLosses key 1 0 with cur := some (pair 0 i l0) } = .next u →
        exec j { u with cur := some (pair 1 j l1) } = .next v → u.traps = [] →
        steps (.both (.run i (issued 0 i l0 false)) (.run j (issued 1 j l1 false))) t1
          (.next { v.deliver key false with cur := none }))

/-- §3.4, R73 to R76, R82 to R87, R96: the worked encodings of the manual, a literal and a forerunner word, and what
they are. The forerunner word is written from Table 3.13. -/
def Obligations.WordsDecodeToTheirInstructions : Prop :=
  decodeWords false [0x06050440#32] = .instr (.vadd { form := .base, d := 4, a := 5, b := 6 }) 4 ∧
  decodeWords false [0x00050441#32, 0x80013000#32, 0xFFFFFFFF#32] =
    .instr (.vadd { form := .ext, d := 4, a := 5, mod := 0x40, pn := 1, pg := 3, w2 := 0xFFFFFFFF#32 }) 12 ∧
  decodeWords false [0x00030302#32, 0x00000000#32, 0x00000001#32] =
    .instr (.sadd { form := .lit, d := 3, a := 3, lit := 0x100000000#64 }) 12 ∧
  decodeWords false [0x000B0ABD#32, 0x00002203#32, 0x00000000#32] =
    .instr (.fexp2 { form := .ext, d := 10, a := 11, pg := 2, la := 2 }) 12 ∧
  decodeWords false [0x000000A9#32, 0x00000008#32, 0x00000000#32] = .instr (.exit { form := .ext }) 12 ∧
  decodeWords false [0x000000FC#32] = .illegal ∧ decodeWords false [0x000000A8#32] = .illegal ∧
  decodeWords false [0x06050441#32, 0x00000001#32, 0x00000000#32] = .reserved ∧
  decodeWords false [0x00000000#32] = .instr (.sadd { form := .base }) 4 ∧
  decodeWords true [0x04000501#32, 0x00000000#32] = .instr (.frIntegerAdd { d := 5, a := 0, b := 4 }) 8 ∧
  decodeWords true [0x00000014#32, 0x00000000#32] = .illegal

/-- Table 1.9 and Table 13.1: what the spec gives the machine at reset: boot in progress, the command processor's
registers zero, 128 usable rows in every core and no fence, a first operation and fault of number 1, no context,
queue, block or warp, and memory in its canonical form. That nothing is placed is the model's own reading (log 1). So
are zero counters where the manual gives none (log 2) and memory that reads zero before the first boot (log 4): of
these three the statement says what the model chose, and not what the spec says. R25: the state in which a warp of a
launched block starts. The counters of the scheduler start at zero by the model's choice (log 2). -/
def Obligations.ResetAndNewWarpsStartAsTheSpecSays : Prop :=
  (let s := State.reset
  s.arn.bstate = 0 ∧ s.arn.qtab = 0 ∧ s.arn.enable = false ∧ s.arn.errbase = 0 ∧ s.arn.errlog = 0 ∧ s.arn.errwr = 0 ∧
  s.arn.errrd = 0 ∧ s.arn.status = 0 ∧ s.arn.win = 0 ∧ (∀ n, (s.core n).mxRows = 128 ∧ (s.core n).mxFence = 0) ∧
  s.xlat.invalStatus = 0 ∧ s.xlat.inval = none ∧ s.xlat.faultSeq = 1 ∧ s.clk = 0 ∧
  s.ctxs = [] ∧ s.warps = [] ∧ s.blocks = [] ∧ s.arn.queues = [] ∧ s.memOk ∧ ∀ a, s.mem.byte a = 0) ∧
  (∀ (l : Launch) (b w born clk : Nat),
    let x := l.warp b w born clk
    x.s0 = { live := true, pc := (l.cap 0 0).base, mask := BitVec.allOnes 64, rpc := BitVec.allOnes 64 } ∧
    x.s1.live = false ∧ x.s0.windows = [] ∧ x.s1.windows = [] ∧ x.lanes = BitVec.allOnes 64 ∧
    x.dstkSp = (x.getC 15).base ∧ x.getC 0 = regCap (l.cap 0 0) ∧ x.getC 1 = regCap (l.cap 4 1) ∧
    (∀ i, 2 ≤ i → i ≤ 14 → x.getC i = {} ∧ (x.getC i).tag = false) ∧
    (∀ i, x.getS i = 0 ∧ x.getN i = 0 ∧ (x.getH i).value = 0) ∧ (∀ i lane, x.getV i lane = 0) ∧
    (∀ i ≠ 0, x.getP i = 0) ∧ x.colScale = none ∧ x.topk = 0 ∧ x.ib = 0 ∧ x.batch = 0 ∧ x.failures = [] ∧
    x.nextSerial = 1 ∧ x.trapVec = 0 ∧ x.trapCause = 0 ∧ x.trapAddr = 0 ∧ x.trapPc = 0 ∧ x.accBase = 0 ∧
    x.accLimit = 0 ∧ x.flags = 0 ∧ x.podG = 0 ∧ x.pod.on = false)

/-- R42 and Table 1.8: s0 reads zero and p0 reads as all ones, writes to either are discarded, and every other
register holds what is written to it and no other register. R169, R184: neither CBND nor CPERM widens a tagged
capability: the result lies at an offset within the operand's bounds and has no permission that the operand lacks; and
what a c register holds has no reserved permission. -/
def Obligations.RegistersHoldWhatIsWrittenAndCapabilitiesNeverWiden : Prop :=
  (∀ (w : Warp),
    w.getS 0 = 0 ∧ w.getP 0 = BitVec.allOnes 64 ∧ (∀ x, w.setS 0 x = w) ∧ (∀ x, w.setP 0 x = w) ∧
    (∀ i j x, i ≠ 0 → (w.setS i x).getS j = if i = j then x else w.getS j) ∧
    (∀ i j x, i ≠ 0 → (w.setP i x).getP j = if i = j then x else w.getP j) ∧
    (∀ i j x, (w.setH i x).getH j = if i = j then x else w.getH j) ∧
    (∀ i j x, (w.setC i x).getC j = if i = j then regCap x else w.getC j) ∧
    (∀ i j x, (w.setN i x).getN j = if i = j then x else w.getN j) ∧
    (∀ i j l (m : Word) f, l < 64 →
      (w.setV i m f).getV j l = if i = j ∧ m.getLsbD l = true then f l else w.getV j l) ∧
    (∀ i l (m : Word) f, l < 64 → m.getLsbD l = true → (w.setV2 i m f).getV2 i l = f l) ∧
    (∀ i j l (m : Word) f, l < 64 → (j ≠ i ∧ j ≠ i + 1) ∨ m.getLsbD l = false → (w.setV2 i m f).getV j l = w.getV j l)) ∧
  (∀ (a c : Cap) (by_ len : Word) (m : BitVec 16), (c = a.narrow by_ len ∨ c = a.restrict m) → c.tag = true →
    a.tag = true ∧ a.otype = 0 ∧
      (∃ d : Word, c.base = a.base + d ∧ d.toNat + c.len.toNat ≤ a.len.toNat) ∧ c.perms &&& ~~~a.perms = 0 ∧
      (∀ (w : Warp) (i : Nat), (w.setC i c).getC i = regCap c) ∧ (regCap c).perms = c.perms &&& 0xFF ∧
      (regCap c).base = c.base ∧ (regCap c).len = c.len ∧ (regCap c).tag = c.tag)

/-- R73 to R86, R96: decoding the words of a well-formed instruction gives the instruction, with every operand at
every value that its encoding admits, and its length. R79, R80, R85 to R87: whatever decodes is a well-formed
instruction, and the words are its encoding: no bit of an instruction is dropped, and no two instructions share a
word. -/
def Obligations.EncodingAndDecodingAgree : Prop :=
  (∀ (i : Instr) (ws : List (BitVec 32)), wellFormed i = true → encode i = some ws →
    decodeWords (frSig i).isSome ws = .instr i (4 * ws.length)) ∧
  (∀ (fr : Bool) (l : List (BitVec 32)) (i : Instr) (n : Nat), decodeWords fr l = .instr i n →
    wellFormed i = true ∧ (frSig i).isSome = fr ∧
    ∃ ws, encode i = some ws ∧ n = 4 * ws.length ∧ ∀ k < ws.length, l.getD k 0 = ws.getD k 0)

/-- R10, R87, R327: no instruction, event, packet or frame ends the run: every instruction that a warp issues, and
every other happening, leaves a next state. The one stop of the model is a warp's instruction that no warp issues,
which no step executes. That it is a fault, noIssuer, is the model's choice (log 39). -/
def Obligations.NoHappeningStopsTheMachine : Prop :=
  let issued := fun (i : Instr) => (nativeSig i).isSome = true ∨ (frSig i).isSome = true ∨ i = .illegalInstruction ∨
    ∃ c a, i = .instructionFetchFault c a
  (∀ i s, (∃ t, exec i s = .next t) ∨ (issued i ∧ s.cur = none ∧ exec i s = .fault .noIssuer)) ∧
  (∀ i s, issued i → s.cur = none → exec i s = .fault .noIssuer) ∧
  ∀ s : State, (∀ e ∈ s.inbox ++ s.late, ¬issued e) → s.completes

/-- R10, R256, R257, R261: in every state with canonical memory, whatever step comes next (an event, a warp's
instruction, a frame, a passing clk) leaves memory canonical: addresses strictly rising, and no byte listed at the
value that an unlisted address reads as. -/
def Obligations.EveryStepKeepsMemoryCanonical : Prop :=
  ∀ (s t : State), s.memOk → step s = .next t → t.memOk
end

