-- ==== Sys2Proof/Laws/Issue.lean ====
section
/-! SUPPORT. What the common entry and exit of a meaning do: an instruction that runs completes with its body's state,
and one whose effective mask is empty only goes on. -/
namespace Sys2Proof.Machine

@[simp] theorem State.nat_is (s : State) (is : Issue) (f : Fields) : (s.nat is f).is = is := rfl
@[simp] theorem State.nat_s (s : State) (is : Issue) (f : Fields) : (s.nat is f).s = s := rfl
@[simp] theorem State.nat_key (s : State) (is : Issue) (f : Fields) : (s.nat is f).key = is.warp := rfl
@[simp] theorem State.nat_k (s : State) (is : Issue) (f : Fields) : (s.nat is f).k = is.slot := rfl
@[simp] theorem State.fr_is (s : State) (is : Issue) (f : FrFields) : (s.fr is f).is = is := rfl
@[simp] theorem State.fr_s (s : State) (is : Issue) (f : FrFields) : (s.fr is f).s = s := rfl
@[simp] theorem State.whole_is (s : State) (is : Issue) : (s.whole is).is = is := rfl
@[simp] theorem State.whole_s (s : State) (is : Issue) : (s.whole is).s = s := rfl

/-- The end of an instruction that stays within pages of one code kind. -/
theorem Env.leave_of_stays (en : Env) (t : State) (pc : Word) (h : en.Stays pc) : en.leave t pc = en.goesTo t pc := by
  simp only [Env.Stays] at h
  simp [Env.leave, Env.goesTo, h]

/-- An instruction that ends by going on. -/
theorem Env.finish_next (en : Env) (t : State) (h : en.Stays en.fall) : en.finish (.next t) = en.goesOn t := by
  simp only [Env.finish, Env.goesOn]
  exact en.leave_of_stays t _ h

/-- An instruction that ends by going to an address. -/
theorem Env.finish_jump (en : Env) (t : State) (pc : Word) (h : en.Stays pc) :
    en.finish (.jump t pc) = en.goesTo t pc := by
  simp only [Env.finish]
  exact en.leave_of_stays t _ h

/-- A native instruction that acts ends as its body ends. -/
theorem native_eq {f : Fields} {s : State} {is : Issue} {body : Env → Res} (h : (s.nat is f).Acts) :
    native f s body = .next ((s.nat is f).finish (body (s.nat is f))) := by
  obtain ⟨⟨hc, -⟩, he⟩ := h
  have hc : s.cur = some is := hc
  simp only [State.nat] at he
  simp only [native, hc, State.run, State.nat, he, if_false]

/-- A native instruction that runs, and whose body completes, goes on. -/
theorem native_next {f : Fields} {s t : State} {is : Issue} {body : Env → Res} (h : (s.nat is f).Runs)
    (hb : body (s.nat is f) = .next t) : native f s body = .next ((s.nat is f).goesOn t) := by
  rw [native_eq h.1, hb, Env.finish_next _ _ h.2]

/-- A native instruction that runs, and whose effect is a changed warp. -/
theorem native_done {f : Fields} {s : State} {is : Issue} {w : Warp} {body : Env → Res} (h : (s.nat is f).Runs)
    (hb : body (s.nat is f) = (s.nat is f).done w) : native f s body = .next ((s.nat is f).gives w) :=
  native_next h hb

/-- A native instruction with an empty effective mask goes on without effect (R78). -/
theorem native_idle {f : Fields} {s : State} {is : Issue} {body : Env → Res} (h : (s.nat is f).Issues)
    (he : (s.nat is f).e = 0) (hs : (s.nat is f).Stays (s.nat is f).fall) :
    native f s body = .next ((s.nat is f).goesOn s) := by
  have hc : s.cur = some is := h.1
  simp only [State.nat] at he
  simp only [native, hc, State.run, he, if_true]
  exact congrArg _ (Env.finish_next _ _ hs)

/-- A forerunner instruction that acts ends as its body ends. -/
theorem forerunner_eq {f : FrFields} {s : State} {is : Issue} {body : Env → Res} (h : (s.fr is f).Acts) :
    forerunner f s body = .next ((s.fr is f).finish (body (s.fr is f))) := by
  obtain ⟨⟨hc, -⟩, he⟩ := h
  have hc : s.cur = some is := hc
  simp only [State.fr] at he
  simp only [forerunner, hc, State.run, State.fr, he, if_false]

/-- A forerunner instruction that runs, and whose effect is a changed warp. -/
theorem forerunner_done {f : FrFields} {s : State} {is : Issue} {w : Warp} {body : Env → Res} (h : (s.fr is f).Runs)
    (hb : body (s.fr is f) = (s.fr is f).done w) : forerunner f s body = .next ((s.fr is f).gives w) := by
  rw [forerunner_eq h.1, hb]
  exact congrArg _ (Env.finish_next _ _ h.2)

/-- A forerunner control instruction on a slot with a lane ends as its body ends. -/
theorem forerunnerSlot_eq {s : State} {is : Issue} {body : Env → Res} (h : (s.whole is).Acts) :
    forerunnerSlot s body = .next ((s.whole is).finish (body (s.whole is))) := by
  obtain ⟨⟨hc, -⟩, he⟩ := h
  have hc : s.cur = some is := hc
  simp only [State.whole] at he
  simp only [forerunnerSlot, hc, State.run, State.whole, he, if_false]

end Sys2Proof.Machine
end

