-- ==== Sys2Proof/Laws/Map.lean ====
section
/-! SUPPORT. What the operations of a finite map do to what its keys read as, and that they keep its canonical form, in
which equal contents are equal lists. -/
namespace Sys2Proof.Machine

variable {α : Type}

/-- What a key reads as after a value is listed at a key. -/
@[simp] theorem mapFind_put (m : Map α) (a b : Nat) (v : α) :
    mapFind (mapPut m a v) b = if a = b then some v else mapFind m b := by
  induction m with
  | nil => simp [mapPut, mapFind]
  | cons e r ih =>
    obtain ⟨k, w⟩ := e
    simp only [mapPut]
    split
    · simp [mapFind]
    · split
      · subst_vars
        simp only [mapFind]
        split <;> rfl
      · simp only [mapFind, ih]
        split <;> split <;> simp_all

/-- What a key reads as after the entries of a key are removed. -/
@[simp] theorem mapFind_erase (m : Map α) (a b : Nat) :
    mapFind (mapErase m a) b = if a = b then none else mapFind m b := by
  induction m with
  | nil => simp [mapErase, mapFind]
  | cons e r ih =>
    obtain ⟨k, w⟩ := e
    simp only [mapErase]
    split
    · rw [ih]
      split
      · rfl
      · simp only [mapFind]
        split <;> simp_all
    · simp only [mapFind, ih]
      split <;> split <;> simp_all

@[simp] theorem mapGet_put (d : α) (m : Map α) (a b : Nat) (v : α) :
    mapGet d (mapPut m a v) b = if a = b then v else mapGet d m b := by
  simp only [mapGet, mapFind_put]
  split <;> split <;> simp_all

@[simp] theorem mapGet_erase (d : α) (m : Map α) (a b : Nat) :
    mapGet d (mapErase m a) b = if a = b then d else mapGet d m b := by
  simp only [mapGet, mapFind_erase]
  split <;> split <;> simp_all

/-- Reading after writing: the written key reads as the value, and every other key as before. -/
@[simp] theorem mapGet_set [DecidableEq α] (d : α) (m : Map α) (a b : Nat) (v : α) :
    mapGet d (mapSet d m a v) b = if a = b then v else mapGet d m b := by
  simp only [mapSet]
  split
  · subst_vars
    exact mapGet_erase ..
  · exact mapGet_put ..

/-- A change of the value at a key is seen at that key alone. -/
@[simp] theorem mapFind_modify (m : Map α) (a b : Nat) (f : α → α) :
    mapFind (mapModify m a f) b = if a = b then (mapFind m a).map f else mapFind m b := by
  simp only [mapModify]
  cases h : mapFind m a with
  | none => by_cases e : a = b <;> simp_all
  | some v => simp

/-- A change of every value. -/
@[simp] theorem mapFind_all {β : Type} (m : Map α) (f : Nat → α → β) (b : Nat) :
    mapFind (mapAll m f) b = (mapFind m b).map (f b) := by
  induction m with
  | nil => rfl
  | cons e r ih =>
    obtain ⟨k, w⟩ := e
    simp only [mapAll, List.map_cons, mapFind] at ih ⊢
    split
    · subst_vars
      rfl
    · exact ih

/-- Keeping the entries whose keys pass a test. -/
theorem mapFind_keep (m : Map α) (p : Nat → Bool) (b : Nat) :
    mapFind (mapKeep m fun k _ => p k) b = if p b then mapFind m b else none := by
  induction m with
  | nil => simp [mapKeep, mapFind]
  | cons e r ih =>
    obtain ⟨k, w⟩ := e
    simp only [mapKeep, List.filter_cons, mapFind] at ih ⊢
    by_cases h : k = b
    · subst h
      cases hp : p k <;> simp_all [mapFind]
    · cases hp : p k <;> simp_all [mapFind]

/-! ### The canonical form -/

@[simp] theorem mapAbove_nil (b : Nat) : mapAbove b ([] : Map α) = true := rfl

@[simp] theorem mapAbove_cons (b : Nat) (e : Nat × α) (r : Map α) :
    mapAbove b (e :: r) = true ↔ b < e.1 ∧ mapAbove b r = true := by
  simp [mapAbove]

/-- A bound of a list, said of its entries. -/
theorem mapAbove_iff (b : Nat) (m : Map α) : mapAbove b m = true ↔ ∀ e ∈ m, b < e.1 := by
  induction m <;> simp_all

theorem mem_put {m : Map α} {a : Nat} {v : α} {e : Nat × α} (h : e ∈ mapPut m a v) : e = (a, v) ∨ e ∈ m := by
  induction m with
  | nil => simpa [mapPut] using h
  | cons x r ih =>
    simp only [mapPut] at h
    split at h
    · simpa using h
    · split at h
      · exact (List.mem_cons.mp h).imp_right (List.mem_cons_of_mem _)
      · rcases List.mem_cons.mp h with h | h
        · simp [h]
        · exact (ih h).imp_right (List.mem_cons_of_mem _)

theorem erase_sublist (m : Map α) (a : Nat) : (mapErase m a).Sublist m := by
  induction m with
  | nil => exact .slnil
  | cons x r ih =>
    simp only [mapErase]
    split
    · exact ih.cons _
    · exact ih.cons_cons _

theorem mapAbove_sublist {b : Nat} {l m : Map α} (h : l.Sublist m) (hm : mapAbove b m = true) : mapAbove b l = true :=
  (mapAbove_iff b l).mpr fun e he => (mapAbove_iff b m).mp hm e (h.subset he)

theorem mapAbove_trans {a b : Nat} {m : Map α} (h : a < b) (hm : mapAbove b m = true) : mapAbove a m = true :=
  (mapAbove_iff a m).mpr fun e he => h.trans ((mapAbove_iff b m).mp hm e he)

theorem mapAbove_put {a b : Nat} {m : Map α} (v : α) (h : b < a) (hm : mapAbove b m = true) :
    mapAbove b (mapPut m a v) = true := by
  refine (mapAbove_iff ..).mpr fun e he => ?_
  rcases mem_put he with rfl | he
  · exact h
  · exact (mapAbove_iff ..).mp hm e he

/-- A key below every listed one is not listed. -/
theorem mapFind_above {b : Nat} {m : Map α} (hm : mapAbove b m = true) (a : Nat) (ha : a ≤ b) : mapFind m a = none := by
  induction m with
  | nil => rfl
  | cons e r ih =>
    obtain ⟨h1, h2⟩ := (mapAbove_cons ..).mp hm
    simp only [mapFind, ih h2]
    rw [if_neg (by omega)]

section
variable [DecidableEq α] {d : α}

@[simp] theorem mapWf_nil : mapWf d ([] : Map α) = true := rfl

@[simp] theorem mapWf_cons (e : Nat × α) (r : Map α) :
    mapWf d (e :: r) = true ↔ mapAbove e.1 r = true ∧ e.2 ≠ d ∧ mapWf d r = true := by
  simp [mapWf, and_assoc]

theorem mapWf_put {a : Nat} {v : α} {m : Map α} (hv : v ≠ d) (hm : mapWf d m = true) :
    mapWf d (mapPut m a v) = true := by
  induction m with
  | nil => simpa [mapPut] using hv
  | cons e r ih =>
    obtain ⟨h1, h2, h3⟩ := (mapWf_cons ..).mp hm
    simp only [mapPut]
    split
    · rename_i h
      exact (mapWf_cons ..).mpr ⟨(mapAbove_cons ..).mpr ⟨h, mapAbove_trans h h1⟩, hv, hm⟩
    · split
      · subst_vars
        exact (mapWf_cons ..).mpr ⟨h1, hv, h3⟩
      · exact (mapWf_cons ..).mpr ⟨mapAbove_put v (by omega) h1, h2, ih h3⟩

/-- A part of a list in canonical form is in canonical form. -/
theorem mapWf_sublist {l m : Map α} (h : l.Sublist m) (hm : mapWf d m = true) : mapWf d l = true := by
  induction h with
  | slnil => rfl
  | cons e _ ih => exact ih ((mapWf_cons ..).mp hm).2.2
  | cons_cons e hs ih =>
    obtain ⟨h1, h2, h3⟩ := (mapWf_cons ..).mp hm
    exact (mapWf_cons ..).mpr ⟨mapAbove_sublist hs h1, h2, ih h3⟩

/-- Writing a value keeps the canonical form, whatever the value. -/
theorem mapWf_set {m : Map α} (a : Nat) (v : α) (h : mapWf d m = true) : mapWf d (mapSet d m a v) = true := by
  simp only [mapSet]
  split
  · exact mapWf_sublist (erase_sublist m a) h
  · rename_i hv
    exact mapWf_put hv h

theorem mapWf_filter {m : Map α} (p : Nat × α → Bool) (h : mapWf d m = true) : mapWf d (m.filter p) = true :=
  mapWf_sublist List.filter_sublist h

/-- In the canonical form, the first listed key reads as no unlisted one does. -/
theorem mapGet_head {k : Nat} {v : α} {r : Map α} (h : mapWf d ((k, v) :: r) = true) :
    mapGet d ((k, v) :: r) k = v ∧ v ≠ d ∧ ∀ a < k, mapGet d ((k, v) :: r) a = d := by
  obtain ⟨h1, h2, -⟩ := (mapWf_cons ..).mp h
  refine ⟨by simp [mapGet, mapFind], h2, fun a ha => ?_⟩
  simp only [mapGet, mapFind]
  rw [if_neg (by omega), mapFind_above h1 a (by omega)]

/-- Maps in canonical form that read the same have the same first key: neither can come before the other. -/
theorem head_le {k l : Nat} {v w : α} {r q : Map α} (hm : mapWf d ((k, v) :: r) = true) (hn : mapWf d ((l, w) :: q) = true)
    (h : ∀ a, mapGet d ((k, v) :: r) a = mapGet d ((l, w) :: q) a) : l ≤ k := by
  by_contra hlt
  obtain ⟨hk, hv, -⟩ := mapGet_head hm
  exact hv (by rw [← hk, h k]; exact (mapGet_head hn).2.2 k (by omega))

/-- Two maps in canonical form that read the same are the same list. -/
theorem map_ext {m n : Map α} (hm : mapWf d m = true) (hn : mapWf d n = true) (h : ∀ a, mapGet d m a = mapGet d n a) :
    m = n := by
  induction m generalizing n with
  | nil =>
    cases n with
    | nil => rfl
    | cons e q => exact absurd ((mapGet_head hn).1.symm.trans (h e.1).symm) (mapGet_head hn).2.1
  | cons e r ih =>
    cases n with
    | nil => exact absurd ((mapGet_head hm).1.symm.trans (h e.1)) (mapGet_head hm).2.1
    | cons e' q =>
      obtain ⟨k, v⟩ := e
      obtain ⟨l, w⟩ := e'
      obtain rfl : k = l := Nat.le_antisymm (head_le hn hm fun a => (h a).symm) (head_le hm hn h)
      obtain rfl : v = w := (mapGet_head hm).1.symm.trans ((h k).trans (mapGet_head hn).1)
      obtain ⟨h1, -, h3⟩ := (mapWf_cons ..).mp hm
      obtain ⟨h1', -, h3'⟩ := (mapWf_cons ..).mp hn
      refine congrArg _ (ih h3 h3' fun a => ?_)
      by_cases ha : a ≤ k
      · simp [mapGet, mapFind_above h1 a ha, mapFind_above h1' a ha]
      · have := h a
        simp only [mapGet, mapFind] at this
        rwa [if_neg (by omega), if_neg (by omega)] at this

end

end Sys2Proof.Machine
end

