-- ==== Sys2Proof/Laws/State.lean ====
section
/-! SUPPORT. Each field of the state and of a warp under each update: the fields that an update leaves are as they were,
and the one it changes is what the update says. -/
namespace Sys2Proof.Machine

/-! ### Updates of the state -/

@[simp] theorem State.putWarp_clk (s : State) (k : Nat) (w : Warp) : (s.putWarp k w).clk = s.clk := rfl
@[simp] theorem State.putWarp_inbox (s : State) (k : Nat) (w : Warp) : (s.putWarp k w).inbox = s.inbox := rfl
@[simp] theorem State.putWarp_picks (s : State) (k : Nat) (w : Warp) : (s.putWarp k w).picks = s.picks := rfl
@[simp] theorem State.putWarp_late (s : State) (k : Nat) (w : Warp) : (s.putWarp k w).late = s.late := rfl
@[simp] theorem State.putWarp_used (s : State) (k : Nat) (w : Warp) : (s.putWarp k w).used = s.used := rfl
@[simp] theorem State.putWarp_cur (s : State) (k : Nat) (w : Warp) : (s.putWarp k w).cur = s.cur := rfl
@[simp] theorem State.putWarp_traps (s : State) (k : Nat) (w : Warp) : (s.putWarp k w).traps = s.traps := rfl
@[simp] theorem State.putWarp_free (s : State) (k : Nat) (w : Warp) : (s.putWarp k w).free = s.free := rfl
@[simp] theorem State.putWarp_births (s : State) (k : Nat) (w : Warp) : (s.putWarp k w).births = s.births := rfl
@[simp] theorem State.putWarp_warps (s : State) (k : Nat) (w : Warp) : (s.putWarp k w).warps = mapPut s.warps k w := rfl
@[simp] theorem State.putWarp_blocks (s : State) (k : Nat) (w : Warp) : (s.putWarp k w).blocks = s.blocks := rfl
@[simp] theorem State.putWarp_cores (s : State) (k : Nat) (w : Warp) : (s.putWarp k w).cores = s.cores := rfl
@[simp] theorem State.putWarp_fused (s : State) (k : Nat) (w : Warp) : (s.putWarp k w).fused = s.fused := rfl
@[simp] theorem State.putWarp_ops (s : State) (k : Nat) (w : Warp) : (s.putWarp k w).ops = s.ops := rfl
@[simp] theorem State.putWarp_nextOp (s : State) (k : Nat) (w : Warp) : (s.putWarp k w).nextOp = s.nextOp := rfl
@[simp] theorem State.putWarp_mem (s : State) (k : Nat) (w : Warp) : (s.putWarp k w).mem = s.mem := rfl
@[simp] theorem State.putWarp_xlat (s : State) (k : Nat) (w : Warp) : (s.putWarp k w).xlat = s.xlat := rfl
@[simp] theorem State.putWarp_ctxs (s : State) (k : Nat) (w : Warp) : (s.putWarp k w).ctxs = s.ctxs := rfl
@[simp] theorem State.putWarp_lastGen (s : State) (k : Nat) (w : Warp) : (s.putWarp k w).lastGen = s.lastGen := rfl
@[simp] theorem State.putWarp_launches (s : State) (k : Nat) (w : Warp) : (s.putWarp k w).launches = s.launches := rfl
@[simp] theorem State.putWarp_grids (s : State) (k : Nat) (w : Warp) : (s.putWarp k w).grids = s.grids := rfl
@[simp] theorem State.putWarp_nodes (s : State) (k : Nat) (w : Warp) : (s.putWarp k w).nodes = s.nodes := rfl
@[simp] theorem State.putWarp_arn (s : State) (k : Nat) (w : Warp) : (s.putWarp k w).arn = s.arn := rfl
@[simp] theorem State.putWarp_prot (s : State) (k : Nat) (w : Warp) : (s.putWarp k w).prot = s.prot := rfl
@[simp] theorem State.putWarp_cfg (s : State) (k : Nat) (w : Warp) : (s.putWarp k w).cfg = s.cfg := rfl
@[simp] theorem State.putWarp_warmResets (s : State) (k : Nat) (w : Warp) : (s.putWarp k w).warmResets = s.warmResets :=
  rfl
@[simp] theorem State.putWarp_fab (s : State) (k : Nat) (w : Warp) : (s.putWarp k w).fab = s.fab := rfl
@[simp] theorem State.putWarp_ckpt (s : State) (k : Nat) (w : Warp) : (s.putWarp k w).ckpt = s.ckpt := rfl
@[simp] theorem State.putWarp_health (s : State) (k : Nat) (w : Warp) : (s.putWarp k w).health = s.health := rfl

@[simp] theorem State.modWarp_clk (s : State) (k : Nat) (f : Warp → Warp) : (s.modWarp k f).clk = s.clk := rfl
@[simp] theorem State.modWarp_inbox (s : State) (k : Nat) (f : Warp → Warp) : (s.modWarp k f).inbox = s.inbox := rfl
@[simp] theorem State.modWarp_picks (s : State) (k : Nat) (f : Warp → Warp) : (s.modWarp k f).picks = s.picks := rfl
@[simp] theorem State.modWarp_late (s : State) (k : Nat) (f : Warp → Warp) : (s.modWarp k f).late = s.late := rfl
@[simp] theorem State.modWarp_used (s : State) (k : Nat) (f : Warp → Warp) : (s.modWarp k f).used = s.used := rfl
@[simp] theorem State.modWarp_cur (s : State) (k : Nat) (f : Warp → Warp) : (s.modWarp k f).cur = s.cur := rfl
@[simp] theorem State.modWarp_traps (s : State) (k : Nat) (f : Warp → Warp) : (s.modWarp k f).traps = s.traps := rfl
@[simp] theorem State.modWarp_free (s : State) (k : Nat) (f : Warp → Warp) : (s.modWarp k f).free = s.free := rfl
@[simp] theorem State.modWarp_births (s : State) (k : Nat) (f : Warp → Warp) : (s.modWarp k f).births = s.births := rfl
@[simp] theorem State.modWarp_warps (s : State) (k : Nat) (f : Warp → Warp) : (s.modWarp k f).warps = mapModify s.warps k f :=
  rfl
@[simp] theorem State.modWarp_blocks (s : State) (k : Nat) (f : Warp → Warp) : (s.modWarp k f).blocks = s.blocks := rfl
@[simp] theorem State.modWarp_cores (s : State) (k : Nat) (f : Warp → Warp) : (s.modWarp k f).cores = s.cores := rfl
@[simp] theorem State.modWarp_fused (s : State) (k : Nat) (f : Warp → Warp) : (s.modWarp k f).fused = s.fused := rfl
@[simp] theorem State.modWarp_ops (s : State) (k : Nat) (f : Warp → Warp) : (s.modWarp k f).ops = s.ops := rfl
@[simp] theorem State.modWarp_nextOp (s : State) (k : Nat) (f : Warp → Warp) : (s.modWarp k f).nextOp = s.nextOp := rfl
@[simp] theorem State.modWarp_mem (s : State) (k : Nat) (f : Warp → Warp) : (s.modWarp k f).mem = s.mem := rfl
@[simp] theorem State.modWarp_xlat (s : State) (k : Nat) (f : Warp → Warp) : (s.modWarp k f).xlat = s.xlat := rfl
@[simp] theorem State.modWarp_ctxs (s : State) (k : Nat) (f : Warp → Warp) : (s.modWarp k f).ctxs = s.ctxs := rfl
@[simp] theorem State.modWarp_lastGen (s : State) (k : Nat) (f : Warp → Warp) : (s.modWarp k f).lastGen = s.lastGen :=
  rfl
@[simp] theorem State.modWarp_launches (s : State) (k : Nat) (f : Warp → Warp) : (s.modWarp k f).launches = s.launches :=
  rfl
@[simp] theorem State.modWarp_grids (s : State) (k : Nat) (f : Warp → Warp) : (s.modWarp k f).grids = s.grids := rfl
@[simp] theorem State.modWarp_nodes (s : State) (k : Nat) (f : Warp → Warp) : (s.modWarp k f).nodes = s.nodes := rfl
@[simp] theorem State.modWarp_arn (s : State) (k : Nat) (f : Warp → Warp) : (s.modWarp k f).arn = s.arn := rfl
@[simp] theorem State.modWarp_prot (s : State) (k : Nat) (f : Warp → Warp) : (s.modWarp k f).prot = s.prot := rfl
@[simp] theorem State.modWarp_cfg (s : State) (k : Nat) (f : Warp → Warp) : (s.modWarp k f).cfg = s.cfg := rfl
@[simp] theorem State.modWarp_warmResets (s : State) (k : Nat) (f : Warp → Warp) : (s.modWarp k f).warmResets = s.warmResets :=
  rfl
@[simp] theorem State.modWarp_fab (s : State) (k : Nat) (f : Warp → Warp) : (s.modWarp k f).fab = s.fab := rfl
@[simp] theorem State.modWarp_ckpt (s : State) (k : Nat) (f : Warp → Warp) : (s.modWarp k f).ckpt = s.ckpt := rfl
@[simp] theorem State.modWarp_health (s : State) (k : Nat) (f : Warp → Warp) : (s.modWarp k f).health = s.health := rfl

@[simp] theorem State.modBlock_clk (s : State) (k : Nat) (f : Block → Block) : (s.modBlock k f).clk = s.clk := rfl
@[simp] theorem State.modBlock_inbox (s : State) (k : Nat) (f : Block → Block) : (s.modBlock k f).inbox = s.inbox := rfl
@[simp] theorem State.modBlock_picks (s : State) (k : Nat) (f : Block → Block) : (s.modBlock k f).picks = s.picks := rfl
@[simp] theorem State.modBlock_late (s : State) (k : Nat) (f : Block → Block) : (s.modBlock k f).late = s.late := rfl
@[simp] theorem State.modBlock_used (s : State) (k : Nat) (f : Block → Block) : (s.modBlock k f).used = s.used := rfl
@[simp] theorem State.modBlock_cur (s : State) (k : Nat) (f : Block → Block) : (s.modBlock k f).cur = s.cur := rfl
@[simp] theorem State.modBlock_traps (s : State) (k : Nat) (f : Block → Block) : (s.modBlock k f).traps = s.traps := rfl
@[simp] theorem State.modBlock_free (s : State) (k : Nat) (f : Block → Block) : (s.modBlock k f).free = s.free := rfl
@[simp] theorem State.modBlock_births (s : State) (k : Nat) (f : Block → Block) : (s.modBlock k f).births = s.births :=
  rfl
@[simp] theorem State.modBlock_warps (s : State) (k : Nat) (f : Block → Block) : (s.modBlock k f).warps = s.warps := rfl
@[simp] theorem State.modBlock_blocks (s : State) (k : Nat) (f : Block → Block) : (s.modBlock k f).blocks = mapModify s.blocks k f :=
  rfl
@[simp] theorem State.modBlock_cores (s : State) (k : Nat) (f : Block → Block) : (s.modBlock k f).cores = s.cores := rfl
@[simp] theorem State.modBlock_fused (s : State) (k : Nat) (f : Block → Block) : (s.modBlock k f).fused = s.fused := rfl
@[simp] theorem State.modBlock_ops (s : State) (k : Nat) (f : Block → Block) : (s.modBlock k f).ops = s.ops := rfl
@[simp] theorem State.modBlock_nextOp (s : State) (k : Nat) (f : Block → Block) : (s.modBlock k f).nextOp = s.nextOp :=
  rfl
@[simp] theorem State.modBlock_mem (s : State) (k : Nat) (f : Block → Block) : (s.modBlock k f).mem = s.mem := rfl
@[simp] theorem State.modBlock_xlat (s : State) (k : Nat) (f : Block → Block) : (s.modBlock k f).xlat = s.xlat := rfl
@[simp] theorem State.modBlock_ctxs (s : State) (k : Nat) (f : Block → Block) : (s.modBlock k f).ctxs = s.ctxs := rfl
@[simp] theorem State.modBlock_lastGen (s : State) (k : Nat) (f : Block → Block) : (s.modBlock k f).lastGen = s.lastGen :=
  rfl
@[simp] theorem State.modBlock_launches (s : State) (k : Nat) (f : Block → Block) : (s.modBlock k f).launches = s.launches :=
  rfl
@[simp] theorem State.modBlock_grids (s : State) (k : Nat) (f : Block → Block) : (s.modBlock k f).grids = s.grids := rfl
@[simp] theorem State.modBlock_nodes (s : State) (k : Nat) (f : Block → Block) : (s.modBlock k f).nodes = s.nodes := rfl
@[simp] theorem State.modBlock_arn (s : State) (k : Nat) (f : Block → Block) : (s.modBlock k f).arn = s.arn := rfl
@[simp] theorem State.modBlock_prot (s : State) (k : Nat) (f : Block → Block) : (s.modBlock k f).prot = s.prot := rfl
@[simp] theorem State.modBlock_cfg (s : State) (k : Nat) (f : Block → Block) : (s.modBlock k f).cfg = s.cfg := rfl
@[simp] theorem State.modBlock_warmResets (s : State) (k : Nat) (f : Block → Block) : (s.modBlock k f).warmResets = s.warmResets :=
  rfl
@[simp] theorem State.modBlock_fab (s : State) (k : Nat) (f : Block → Block) : (s.modBlock k f).fab = s.fab := rfl
@[simp] theorem State.modBlock_ckpt (s : State) (k : Nat) (f : Block → Block) : (s.modBlock k f).ckpt = s.ckpt := rfl
@[simp] theorem State.modBlock_health (s : State) (k : Nat) (f : Block → Block) : (s.modBlock k f).health = s.health :=
  rfl

@[simp] theorem State.putCore_clk (s : State) (n : Nat) (c : Core) : (s.putCore n c).clk = s.clk := rfl
@[simp] theorem State.putCore_inbox (s : State) (n : Nat) (c : Core) : (s.putCore n c).inbox = s.inbox := rfl
@[simp] theorem State.putCore_picks (s : State) (n : Nat) (c : Core) : (s.putCore n c).picks = s.picks := rfl
@[simp] theorem State.putCore_late (s : State) (n : Nat) (c : Core) : (s.putCore n c).late = s.late := rfl
@[simp] theorem State.putCore_used (s : State) (n : Nat) (c : Core) : (s.putCore n c).used = s.used := rfl
@[simp] theorem State.putCore_cur (s : State) (n : Nat) (c : Core) : (s.putCore n c).cur = s.cur := rfl
@[simp] theorem State.putCore_traps (s : State) (n : Nat) (c : Core) : (s.putCore n c).traps = s.traps := rfl
@[simp] theorem State.putCore_free (s : State) (n : Nat) (c : Core) : (s.putCore n c).free = s.free := rfl
@[simp] theorem State.putCore_births (s : State) (n : Nat) (c : Core) : (s.putCore n c).births = s.births := rfl
@[simp] theorem State.putCore_warps (s : State) (n : Nat) (c : Core) : (s.putCore n c).warps = s.warps := rfl
@[simp] theorem State.putCore_blocks (s : State) (n : Nat) (c : Core) : (s.putCore n c).blocks = s.blocks := rfl
@[simp] theorem State.putCore_cores (s : State) (n : Nat) (c : Core) : (s.putCore n c).cores = mapSet {} s.cores n c :=
  rfl
@[simp] theorem State.putCore_fused (s : State) (n : Nat) (c : Core) : (s.putCore n c).fused = s.fused := rfl
@[simp] theorem State.putCore_ops (s : State) (n : Nat) (c : Core) : (s.putCore n c).ops = s.ops := rfl
@[simp] theorem State.putCore_nextOp (s : State) (n : Nat) (c : Core) : (s.putCore n c).nextOp = s.nextOp := rfl
@[simp] theorem State.putCore_mem (s : State) (n : Nat) (c : Core) : (s.putCore n c).mem = s.mem := rfl
@[simp] theorem State.putCore_xlat (s : State) (n : Nat) (c : Core) : (s.putCore n c).xlat = s.xlat := rfl
@[simp] theorem State.putCore_ctxs (s : State) (n : Nat) (c : Core) : (s.putCore n c).ctxs = s.ctxs := rfl
@[simp] theorem State.putCore_lastGen (s : State) (n : Nat) (c : Core) : (s.putCore n c).lastGen = s.lastGen := rfl
@[simp] theorem State.putCore_launches (s : State) (n : Nat) (c : Core) : (s.putCore n c).launches = s.launches := rfl
@[simp] theorem State.putCore_grids (s : State) (n : Nat) (c : Core) : (s.putCore n c).grids = s.grids := rfl
@[simp] theorem State.putCore_nodes (s : State) (n : Nat) (c : Core) : (s.putCore n c).nodes = s.nodes := rfl
@[simp] theorem State.putCore_arn (s : State) (n : Nat) (c : Core) : (s.putCore n c).arn = s.arn := rfl
@[simp] theorem State.putCore_prot (s : State) (n : Nat) (c : Core) : (s.putCore n c).prot = s.prot := rfl
@[simp] theorem State.putCore_cfg (s : State) (n : Nat) (c : Core) : (s.putCore n c).cfg = s.cfg := rfl
@[simp] theorem State.putCore_warmResets (s : State) (n : Nat) (c : Core) : (s.putCore n c).warmResets = s.warmResets :=
  rfl
@[simp] theorem State.putCore_fab (s : State) (n : Nat) (c : Core) : (s.putCore n c).fab = s.fab := rfl
@[simp] theorem State.putCore_ckpt (s : State) (n : Nat) (c : Core) : (s.putCore n c).ckpt = s.ckpt := rfl
@[simp] theorem State.putCore_health (s : State) (n : Nat) (c : Core) : (s.putCore n c).health = s.health := rfl

@[simp] theorem State.modCtx_clk (s : State) (n : Nat) (f : Context → Context) : (s.modCtx n f).clk = s.clk := rfl
@[simp] theorem State.modCtx_inbox (s : State) (n : Nat) (f : Context → Context) : (s.modCtx n f).inbox = s.inbox := rfl
@[simp] theorem State.modCtx_picks (s : State) (n : Nat) (f : Context → Context) : (s.modCtx n f).picks = s.picks := rfl
@[simp] theorem State.modCtx_late (s : State) (n : Nat) (f : Context → Context) : (s.modCtx n f).late = s.late := rfl
@[simp] theorem State.modCtx_used (s : State) (n : Nat) (f : Context → Context) : (s.modCtx n f).used = s.used := rfl
@[simp] theorem State.modCtx_cur (s : State) (n : Nat) (f : Context → Context) : (s.modCtx n f).cur = s.cur := rfl
@[simp] theorem State.modCtx_traps (s : State) (n : Nat) (f : Context → Context) : (s.modCtx n f).traps = s.traps := rfl
@[simp] theorem State.modCtx_free (s : State) (n : Nat) (f : Context → Context) : (s.modCtx n f).free = s.free := rfl
@[simp] theorem State.modCtx_births (s : State) (n : Nat) (f : Context → Context) : (s.modCtx n f).births = s.births :=
  rfl
@[simp] theorem State.modCtx_warps (s : State) (n : Nat) (f : Context → Context) : (s.modCtx n f).warps = s.warps := rfl
@[simp] theorem State.modCtx_blocks (s : State) (n : Nat) (f : Context → Context) : (s.modCtx n f).blocks = s.blocks :=
  rfl
@[simp] theorem State.modCtx_cores (s : State) (n : Nat) (f : Context → Context) : (s.modCtx n f).cores = s.cores := rfl
@[simp] theorem State.modCtx_fused (s : State) (n : Nat) (f : Context → Context) : (s.modCtx n f).fused = s.fused := rfl
@[simp] theorem State.modCtx_ops (s : State) (n : Nat) (f : Context → Context) : (s.modCtx n f).ops = s.ops := rfl
@[simp] theorem State.modCtx_nextOp (s : State) (n : Nat) (f : Context → Context) : (s.modCtx n f).nextOp = s.nextOp :=
  rfl
@[simp] theorem State.modCtx_mem (s : State) (n : Nat) (f : Context → Context) : (s.modCtx n f).mem = s.mem := rfl
@[simp] theorem State.modCtx_xlat (s : State) (n : Nat) (f : Context → Context) : (s.modCtx n f).xlat = s.xlat := rfl
@[simp] theorem State.modCtx_ctxs (s : State) (n : Nat) (f : Context → Context) : (s.modCtx n f).ctxs = mapModify s.ctxs n f :=
  rfl
@[simp] theorem State.modCtx_lastGen (s : State) (n : Nat) (f : Context → Context) : (s.modCtx n f).lastGen = s.lastGen :=
  rfl
@[simp] theorem State.modCtx_launches (s : State) (n : Nat) (f : Context → Context) : (s.modCtx n f).launches = s.launches :=
  rfl
@[simp] theorem State.modCtx_grids (s : State) (n : Nat) (f : Context → Context) : (s.modCtx n f).grids = s.grids := rfl
@[simp] theorem State.modCtx_nodes (s : State) (n : Nat) (f : Context → Context) : (s.modCtx n f).nodes = s.nodes := rfl
@[simp] theorem State.modCtx_arn (s : State) (n : Nat) (f : Context → Context) : (s.modCtx n f).arn = s.arn := rfl
@[simp] theorem State.modCtx_prot (s : State) (n : Nat) (f : Context → Context) : (s.modCtx n f).prot = s.prot := rfl
@[simp] theorem State.modCtx_cfg (s : State) (n : Nat) (f : Context → Context) : (s.modCtx n f).cfg = s.cfg := rfl
@[simp] theorem State.modCtx_warmResets (s : State) (n : Nat) (f : Context → Context) : (s.modCtx n f).warmResets = s.warmResets :=
  rfl
@[simp] theorem State.modCtx_fab (s : State) (n : Nat) (f : Context → Context) : (s.modCtx n f).fab = s.fab := rfl
@[simp] theorem State.modCtx_ckpt (s : State) (n : Nat) (f : Context → Context) : (s.modCtx n f).ckpt = s.ckpt := rfl
@[simp] theorem State.modCtx_health (s : State) (n : Nat) (f : Context → Context) : (s.modCtx n f).health = s.health :=
  rfl

@[simp] theorem State.retired_clk (s : State) (n : Nat) : (s.retired n).clk = s.clk := rfl
@[simp] theorem State.retired_inbox (s : State) (n : Nat) : (s.retired n).inbox = s.inbox := rfl
@[simp] theorem State.retired_picks (s : State) (n : Nat) : (s.retired n).picks = s.picks := rfl
@[simp] theorem State.retired_late (s : State) (n : Nat) : (s.retired n).late = s.late := rfl
@[simp] theorem State.retired_used (s : State) (n : Nat) : (s.retired n).used = s.used := rfl
@[simp] theorem State.retired_cur (s : State) (n : Nat) : (s.retired n).cur = s.cur := rfl
@[simp] theorem State.retired_traps (s : State) (n : Nat) : (s.retired n).traps = s.traps := rfl
@[simp] theorem State.retired_free (s : State) (n : Nat) : (s.retired n).free = s.free := rfl
@[simp] theorem State.retired_births (s : State) (n : Nat) : (s.retired n).births = s.births := rfl
@[simp] theorem State.retired_warps (s : State) (n : Nat) : (s.retired n).warps = s.warps := rfl
@[simp] theorem State.retired_blocks (s : State) (n : Nat) : (s.retired n).blocks = s.blocks := rfl
@[simp] theorem State.retired_cores (s : State) (n : Nat) : (s.retired n).cores = s.cores := rfl
@[simp] theorem State.retired_fused (s : State) (n : Nat) : (s.retired n).fused = s.fused := rfl
@[simp] theorem State.retired_ops (s : State) (n : Nat) : (s.retired n).ops = s.ops := rfl
@[simp] theorem State.retired_nextOp (s : State) (n : Nat) : (s.retired n).nextOp = s.nextOp := rfl
@[simp] theorem State.retired_mem (s : State) (n : Nat) : (s.retired n).mem = s.mem := rfl
@[simp] theorem State.retired_xlat (s : State) (n : Nat) : (s.retired n).xlat = s.xlat := rfl
@[simp] theorem State.retired_ctxs (s : State) (n : Nat) : (s.retired n).ctxs = mapModify s.ctxs n fun c => { c with hangCount := 0 } :=
  rfl
@[simp] theorem State.retired_lastGen (s : State) (n : Nat) : (s.retired n).lastGen = s.lastGen := rfl
@[simp] theorem State.retired_launches (s : State) (n : Nat) : (s.retired n).launches = s.launches := rfl
@[simp] theorem State.retired_grids (s : State) (n : Nat) : (s.retired n).grids = s.grids := rfl
@[simp] theorem State.retired_nodes (s : State) (n : Nat) : (s.retired n).nodes = s.nodes := rfl
@[simp] theorem State.retired_arn (s : State) (n : Nat) : (s.retired n).arn = s.arn := rfl
@[simp] theorem State.retired_prot (s : State) (n : Nat) : (s.retired n).prot = s.prot := rfl
@[simp] theorem State.retired_cfg (s : State) (n : Nat) : (s.retired n).cfg = s.cfg := rfl
@[simp] theorem State.retired_warmResets (s : State) (n : Nat) : (s.retired n).warmResets = s.warmResets := rfl
@[simp] theorem State.retired_fab (s : State) (n : Nat) : (s.retired n).fab = s.fab := rfl
@[simp] theorem State.retired_ckpt (s : State) (n : Nat) : (s.retired n).ckpt = s.ckpt := rfl
@[simp] theorem State.retired_health (s : State) (n : Nat) : (s.retired n).health = s.health := rfl

@[simp] theorem State.post_clk (s : State) (e : Instr) : (s.post e).clk = s.clk := rfl
@[simp] theorem State.post_inbox (s : State) (e : Instr) : (s.post e).inbox = s.inbox ++ [e] := rfl
@[simp] theorem State.post_picks (s : State) (e : Instr) : (s.post e).picks = s.picks := rfl
@[simp] theorem State.post_late (s : State) (e : Instr) : (s.post e).late = s.late := rfl
@[simp] theorem State.post_used (s : State) (e : Instr) : (s.post e).used = s.used := rfl
@[simp] theorem State.post_cur (s : State) (e : Instr) : (s.post e).cur = s.cur := rfl
@[simp] theorem State.post_traps (s : State) (e : Instr) : (s.post e).traps = s.traps := rfl
@[simp] theorem State.post_free (s : State) (e : Instr) : (s.post e).free = s.free := rfl
@[simp] theorem State.post_births (s : State) (e : Instr) : (s.post e).births = s.births := rfl
@[simp] theorem State.post_warps (s : State) (e : Instr) : (s.post e).warps = s.warps := rfl
@[simp] theorem State.post_blocks (s : State) (e : Instr) : (s.post e).blocks = s.blocks := rfl
@[simp] theorem State.post_cores (s : State) (e : Instr) : (s.post e).cores = s.cores := rfl
@[simp] theorem State.post_fused (s : State) (e : Instr) : (s.post e).fused = s.fused := rfl
@[simp] theorem State.post_ops (s : State) (e : Instr) : (s.post e).ops = s.ops := rfl
@[simp] theorem State.post_nextOp (s : State) (e : Instr) : (s.post e).nextOp = s.nextOp := rfl
@[simp] theorem State.post_mem (s : State) (e : Instr) : (s.post e).mem = s.mem := rfl
@[simp] theorem State.post_xlat (s : State) (e : Instr) : (s.post e).xlat = s.xlat := rfl
@[simp] theorem State.post_ctxs (s : State) (e : Instr) : (s.post e).ctxs = s.ctxs := rfl
@[simp] theorem State.post_lastGen (s : State) (e : Instr) : (s.post e).lastGen = s.lastGen := rfl
@[simp] theorem State.post_launches (s : State) (e : Instr) : (s.post e).launches = s.launches := rfl
@[simp] theorem State.post_grids (s : State) (e : Instr) : (s.post e).grids = s.grids := rfl
@[simp] theorem State.post_nodes (s : State) (e : Instr) : (s.post e).nodes = s.nodes := rfl
@[simp] theorem State.post_arn (s : State) (e : Instr) : (s.post e).arn = s.arn := rfl
@[simp] theorem State.post_prot (s : State) (e : Instr) : (s.post e).prot = s.prot := rfl
@[simp] theorem State.post_cfg (s : State) (e : Instr) : (s.post e).cfg = s.cfg := rfl
@[simp] theorem State.post_warmResets (s : State) (e : Instr) : (s.post e).warmResets = s.warmResets := rfl
@[simp] theorem State.post_fab (s : State) (e : Instr) : (s.post e).fab = s.fab := rfl
@[simp] theorem State.post_ckpt (s : State) (e : Instr) : (s.post e).ckpt = s.ckpt := rfl
@[simp] theorem State.post_health (s : State) (e : Instr) : (s.post e).health = s.health := rfl

@[simp] theorem State.putSectors_clk (s : State) (i : Nat) (l : List Sector) : (s.putSectors i l).clk = s.clk := rfl
@[simp] theorem State.putSectors_inbox (s : State) (i : Nat) (l : List Sector) : (s.putSectors i l).inbox = s.inbox :=
  rfl
@[simp] theorem State.putSectors_picks (s : State) (i : Nat) (l : List Sector) : (s.putSectors i l).picks = s.picks :=
  rfl
@[simp] theorem State.putSectors_late (s : State) (i : Nat) (l : List Sector) : (s.putSectors i l).late = s.late := rfl
@[simp] theorem State.putSectors_used (s : State) (i : Nat) (l : List Sector) : (s.putSectors i l).used = s.used := rfl
@[simp] theorem State.putSectors_cur (s : State) (i : Nat) (l : List Sector) : (s.putSectors i l).cur = s.cur := rfl
@[simp] theorem State.putSectors_traps (s : State) (i : Nat) (l : List Sector) : (s.putSectors i l).traps = s.traps :=
  rfl
@[simp] theorem State.putSectors_free (s : State) (i : Nat) (l : List Sector) : (s.putSectors i l).free = s.free := rfl
@[simp] theorem State.putSectors_births (s : State) (i : Nat) (l : List Sector) : (s.putSectors i l).births = s.births :=
  rfl
@[simp] theorem State.putSectors_warps (s : State) (i : Nat) (l : List Sector) : (s.putSectors i l).warps = s.warps :=
  rfl
@[simp] theorem State.putSectors_blocks (s : State) (i : Nat) (l : List Sector) : (s.putSectors i l).blocks = s.blocks :=
  rfl
@[simp] theorem State.putSectors_cores (s : State) (i : Nat) (l : List Sector) : (s.putSectors i l).cores = s.cores :=
  rfl
@[simp] theorem State.putSectors_fused (s : State) (i : Nat) (l : List Sector) : (s.putSectors i l).fused = s.fused :=
  rfl
@[simp] theorem State.putSectors_ops (s : State) (i : Nat) (l : List Sector) : (s.putSectors i l).ops = s.ops := rfl
@[simp] theorem State.putSectors_nextOp (s : State) (i : Nat) (l : List Sector) : (s.putSectors i l).nextOp = s.nextOp :=
  rfl
@[simp] theorem State.putSectors_mem (s : State) (i : Nat) (l : List Sector) : (s.putSectors i l).mem = { s.mem with l1 := mapSet [] s.mem.l1 i l } :=
  rfl
@[simp] theorem State.putSectors_xlat (s : State) (i : Nat) (l : List Sector) : (s.putSectors i l).xlat = s.xlat := rfl
@[simp] theorem State.putSectors_ctxs (s : State) (i : Nat) (l : List Sector) : (s.putSectors i l).ctxs = s.ctxs := rfl
@[simp] theorem State.putSectors_lastGen (s : State) (i : Nat) (l : List Sector) : (s.putSectors i l).lastGen = s.lastGen :=
  rfl
@[simp] theorem State.putSectors_launches (s : State) (i : Nat) (l : List Sector) : (s.putSectors i l).launches = s.launches :=
  rfl
@[simp] theorem State.putSectors_grids (s : State) (i : Nat) (l : List Sector) : (s.putSectors i l).grids = s.grids :=
  rfl
@[simp] theorem State.putSectors_nodes (s : State) (i : Nat) (l : List Sector) : (s.putSectors i l).nodes = s.nodes :=
  rfl
@[simp] theorem State.putSectors_arn (s : State) (i : Nat) (l : List Sector) : (s.putSectors i l).arn = s.arn := rfl
@[simp] theorem State.putSectors_prot (s : State) (i : Nat) (l : List Sector) : (s.putSectors i l).prot = s.prot := rfl
@[simp] theorem State.putSectors_cfg (s : State) (i : Nat) (l : List Sector) : (s.putSectors i l).cfg = s.cfg := rfl
@[simp] theorem State.putSectors_warmResets (s : State) (i : Nat) (l : List Sector) : (s.putSectors i l).warmResets = s.warmResets :=
  rfl
@[simp] theorem State.putSectors_fab (s : State) (i : Nat) (l : List Sector) : (s.putSectors i l).fab = s.fab := rfl
@[simp] theorem State.putSectors_ckpt (s : State) (i : Nat) (l : List Sector) : (s.putSectors i l).ckpt = s.ckpt := rfl
@[simp] theorem State.putSectors_health (s : State) (i : Nat) (l : List Sector) : (s.putSectors i l).health = s.health :=
  rfl

@[simp] theorem State.choose_clk (s : State) : s.choose.2.clk = s.clk := rfl
@[simp] theorem State.choose_inbox (s : State) : s.choose.2.inbox = s.inbox := rfl
@[simp] theorem State.choose_picks (s : State) : s.choose.2.picks = s.picks := rfl
@[simp] theorem State.choose_late (s : State) : s.choose.2.late = s.late := rfl
@[simp] theorem State.choose_used (s : State) : s.choose.2.used = s.used := rfl
@[simp] theorem State.choose_cur (s : State) : s.choose.2.cur = s.cur := rfl
@[simp] theorem State.choose_traps (s : State) : s.choose.2.traps = s.traps := rfl
@[simp] theorem State.choose_free (s : State) : s.choose.2.free = s.free + 1 := rfl
@[simp] theorem State.choose_births (s : State) : s.choose.2.births = s.births := rfl
@[simp] theorem State.choose_warps (s : State) : s.choose.2.warps = s.warps := rfl
@[simp] theorem State.choose_blocks (s : State) : s.choose.2.blocks = s.blocks := rfl
@[simp] theorem State.choose_cores (s : State) : s.choose.2.cores = s.cores := rfl
@[simp] theorem State.choose_fused (s : State) : s.choose.2.fused = s.fused := rfl
@[simp] theorem State.choose_ops (s : State) : s.choose.2.ops = s.ops := rfl
@[simp] theorem State.choose_nextOp (s : State) : s.choose.2.nextOp = s.nextOp := rfl
@[simp] theorem State.choose_mem (s : State) : s.choose.2.mem = s.mem := rfl
@[simp] theorem State.choose_xlat (s : State) : s.choose.2.xlat = s.xlat := rfl
@[simp] theorem State.choose_ctxs (s : State) : s.choose.2.ctxs = s.ctxs := rfl
@[simp] theorem State.choose_lastGen (s : State) : s.choose.2.lastGen = s.lastGen := rfl
@[simp] theorem State.choose_launches (s : State) : s.choose.2.launches = s.launches := rfl
@[simp] theorem State.choose_grids (s : State) : s.choose.2.grids = s.grids := rfl
@[simp] theorem State.choose_nodes (s : State) : s.choose.2.nodes = s.nodes := rfl
@[simp] theorem State.choose_arn (s : State) : s.choose.2.arn = s.arn := rfl
@[simp] theorem State.choose_prot (s : State) : s.choose.2.prot = s.prot := rfl
@[simp] theorem State.choose_cfg (s : State) : s.choose.2.cfg = s.cfg := rfl
@[simp] theorem State.choose_warmResets (s : State) : s.choose.2.warmResets = s.warmResets := rfl
@[simp] theorem State.choose_fab (s : State) : s.choose.2.fab = s.fab := rfl
@[simp] theorem State.choose_ckpt (s : State) : s.choose.2.ckpt = s.ckpt := rfl
@[simp] theorem State.choose_health (s : State) : s.choose.2.health = s.health := rfl

@[simp] theorem State.freeWord_clk (s : State) : s.freeWord.2.clk = s.clk := rfl
@[simp] theorem State.freeWord_inbox (s : State) : s.freeWord.2.inbox = s.inbox := rfl
@[simp] theorem State.freeWord_picks (s : State) : s.freeWord.2.picks = s.picks := rfl
@[simp] theorem State.freeWord_late (s : State) : s.freeWord.2.late = s.late := rfl
@[simp] theorem State.freeWord_used (s : State) : s.freeWord.2.used = s.used := rfl
@[simp] theorem State.freeWord_cur (s : State) : s.freeWord.2.cur = s.cur := rfl
@[simp] theorem State.freeWord_traps (s : State) : s.freeWord.2.traps = s.traps := rfl
@[simp] theorem State.freeWord_free (s : State) : s.freeWord.2.free = s.free + 1 := rfl
@[simp] theorem State.freeWord_births (s : State) : s.freeWord.2.births = s.births := rfl
@[simp] theorem State.freeWord_warps (s : State) : s.freeWord.2.warps = s.warps := rfl
@[simp] theorem State.freeWord_blocks (s : State) : s.freeWord.2.blocks = s.blocks := rfl
@[simp] theorem State.freeWord_cores (s : State) : s.freeWord.2.cores = s.cores := rfl
@[simp] theorem State.freeWord_fused (s : State) : s.freeWord.2.fused = s.fused := rfl
@[simp] theorem State.freeWord_ops (s : State) : s.freeWord.2.ops = s.ops := rfl
@[simp] theorem State.freeWord_nextOp (s : State) : s.freeWord.2.nextOp = s.nextOp := rfl
@[simp] theorem State.freeWord_mem (s : State) : s.freeWord.2.mem = s.mem := rfl
@[simp] theorem State.freeWord_xlat (s : State) : s.freeWord.2.xlat = s.xlat := rfl
@[simp] theorem State.freeWord_ctxs (s : State) : s.freeWord.2.ctxs = s.ctxs := rfl
@[simp] theorem State.freeWord_lastGen (s : State) : s.freeWord.2.lastGen = s.lastGen := rfl
@[simp] theorem State.freeWord_launches (s : State) : s.freeWord.2.launches = s.launches := rfl
@[simp] theorem State.freeWord_grids (s : State) : s.freeWord.2.grids = s.grids := rfl
@[simp] theorem State.freeWord_nodes (s : State) : s.freeWord.2.nodes = s.nodes := rfl
@[simp] theorem State.freeWord_arn (s : State) : s.freeWord.2.arn = s.arn := rfl
@[simp] theorem State.freeWord_prot (s : State) : s.freeWord.2.prot = s.prot := rfl
@[simp] theorem State.freeWord_cfg (s : State) : s.freeWord.2.cfg = s.cfg := rfl
@[simp] theorem State.freeWord_warmResets (s : State) : s.freeWord.2.warmResets = s.warmResets := rfl
@[simp] theorem State.freeWord_fab (s : State) : s.freeWord.2.fab = s.fab := rfl
@[simp] theorem State.freeWord_ckpt (s : State) : s.freeWord.2.ckpt = s.ckpt := rfl
@[simp] theorem State.freeWord_health (s : State) : s.freeWord.2.health = s.health := rfl

/-! ### Updates of a warp -/

theorem Warp.setS_eq (w : Warp) (i : Nat) (x : Word) :
    w.setS i x = { w with s := if i = 0 then w.s else mapSet 0 w.s i x } := by
  unfold Warp.setS
  split <;> rfl

theorem Warp.setP_eq (w : Warp) (i : Nat) (x : Word) :
    w.setP i x = { w with p := if i = 0 then w.p else mapSet 0 w.p i x } := by
  unfold Warp.setP
  split <;> rfl

theorem Warp.setSlot_eq (w : Warp) (k : Nat) (x : Slot) :
    w.setSlot k x = { w with s0 := if k = 0 then x else w.s0, s1 := if k = 0 then w.s1 else x } := by
  unfold Warp.setSlot
  split <;> rfl

@[simp] theorem Warp.setS_s0 (w : Warp) (i : Nat) (x : Word) : (w.setS i x).s0 = w.s0 := by rw [w.setS_eq]
@[simp] theorem Warp.setS_s1 (w : Warp) (i : Nat) (x : Word) : (w.setS i x).s1 = w.s1 := by rw [w.setS_eq]
@[simp] theorem Warp.setS_v (w : Warp) (i : Nat) (x : Word) : (w.setS i x).v = w.v := by rw [w.setS_eq]
@[simp] theorem Warp.setS_p (w : Warp) (i : Nat) (x : Word) : (w.setS i x).p = w.p := by rw [w.setS_eq]
@[simp] theorem Warp.setS_h (w : Warp) (i : Nat) (x : Word) : (w.setS i x).h = w.h := by rw [w.setS_eq]
@[simp] theorem Warp.setS_c (w : Warp) (i : Nat) (x : Word) : (w.setS i x).c = w.c := by rw [w.setS_eq]
@[simp] theorem Warp.setS_n (w : Warp) (i : Nat) (x : Word) : (w.setS i x).n = w.n := by rw [w.setS_eq]
@[simp] theorem Warp.setS_lanes (w : Warp) (i : Nat) (x : Word) : (w.setS i x).lanes = w.lanes := by rw [w.setS_eq]
@[simp] theorem Warp.setS_dstkSp (w : Warp) (i : Nat) (x : Word) : (w.setS i x).dstkSp = w.dstkSp := by rw [w.setS_eq]
@[simp] theorem Warp.setS_accBase (w : Warp) (i : Nat) (x : Word) : (w.setS i x).accBase = w.accBase := by
  rw [w.setS_eq]
@[simp] theorem Warp.setS_accLimit (w : Warp) (i : Nat) (x : Word) : (w.setS i x).accLimit = w.accLimit := by
  rw [w.setS_eq]
@[simp] theorem Warp.setS_trapVec (w : Warp) (i : Nat) (x : Word) : (w.setS i x).trapVec = w.trapVec := by
  rw [w.setS_eq]
@[simp] theorem Warp.setS_trapCause (w : Warp) (i : Nat) (x : Word) : (w.setS i x).trapCause = w.trapCause := by
  rw [w.setS_eq]
@[simp] theorem Warp.setS_trapAddr (w : Warp) (i : Nat) (x : Word) : (w.setS i x).trapAddr = w.trapAddr := by
  rw [w.setS_eq]
@[simp] theorem Warp.setS_trapPc (w : Warp) (i : Nat) (x : Word) : (w.setS i x).trapPc = w.trapPc := by rw [w.setS_eq]
@[simp] theorem Warp.setS_podG (w : Warp) (i : Nat) (x : Word) : (w.setS i x).podG = w.podG := by rw [w.setS_eq]
@[simp] theorem Warp.setS_pod (w : Warp) (i : Nat) (x : Word) : (w.setS i x).pod = w.pod := by rw [w.setS_eq]
@[simp] theorem Warp.setS_flags (w : Warp) (i : Nat) (x : Word) : (w.setS i x).flags = w.flags := by rw [w.setS_eq]
@[simp] theorem Warp.setS_flagsNew (w : Warp) (i : Nat) (x : Word) : (w.setS i x).flagsNew = w.flagsNew := by
  rw [w.setS_eq]
@[simp] theorem Warp.setS_colScale (w : Warp) (i : Nat) (x : Word) : (w.setS i x).colScale = w.colScale := by
  rw [w.setS_eq]
@[simp] theorem Warp.setS_topk (w : Warp) (i : Nat) (x : Word) : (w.setS i x).topk = w.topk := by rw [w.setS_eq]
@[simp] theorem Warp.setS_ib (w : Warp) (i : Nat) (x : Word) : (w.setS i x).ib = w.ib := by rw [w.setS_eq]
@[simp] theorem Warp.setS_batch (w : Warp) (i : Nat) (x : Word) : (w.setS i x).batch = w.batch := by rw [w.setS_eq]
@[simp] theorem Warp.setS_serial (w : Warp) (i : Nat) (x : Word) : (w.setS i x).serial = w.serial := by rw [w.setS_eq]
@[simp] theorem Warp.setS_failures (w : Warp) (i : Nat) (x : Word) : (w.setS i x).failures = w.failures := by
  rw [w.setS_eq]
@[simp] theorem Warp.setS_ovlo (w : Warp) (i : Nat) (x : Word) : (w.setS i x).ovlo = w.ovlo := by rw [w.setS_eq]
@[simp] theorem Warp.setS_ovhi (w : Warp) (i : Nat) (x : Word) : (w.setS i x).ovhi = w.ovhi := by rw [w.setS_eq]
@[simp] theorem Warp.setS_nest (w : Warp) (i : Nat) (x : Word) : (w.setS i x).nest = w.nest := by rw [w.setS_eq]
@[simp] theorem Warp.setS_frBarrier (w : Warp) (i : Nat) (x : Word) : (w.setS i x).frBarrier = w.frBarrier := by
  rw [w.setS_eq]
@[simp] theorem Warp.setS_yieldUntil (w : Warp) (i : Nat) (x : Word) : (w.setS i x).yieldUntil = w.yieldUntil := by
  rw [w.setS_eq]
@[simp] theorem Warp.setS_yielded (w : Warp) (i : Nat) (x : Word) : (w.setS i x).yielded = w.yielded := by
  rw [w.setS_eq]
@[simp] theorem Warp.setS_behind (w : Warp) (i : Nat) (x : Word) : (w.setS i x).behind = w.behind := by rw [w.setS_eq]
@[simp] theorem Warp.setS_lost (w : Warp) (i : Nat) (x : Word) : (w.setS i x).lost = w.lost := by rw [w.setS_eq]
@[simp] theorem Warp.setS_readySince (w : Warp) (i : Nat) (x : Word) : (w.setS i x).readySince = w.readySince := by
  rw [w.setS_eq]
@[simp] theorem Warp.setS_born (w : Warp) (i : Nat) (x : Word) : (w.setS i x).born = w.born := by rw [w.setS_eq]
@[simp] theorem Warp.setS_haltPending (w : Warp) (i : Nat) (x : Word) : (w.setS i x).haltPending = w.haltPending := by
  rw [w.setS_eq]
@[simp] theorem Warp.setS_torn (w : Warp) (i : Nat) (x : Word) : (w.setS i x).torn = w.torn := by rw [w.setS_eq]
@[simp] theorem Warp.setS_tornCols (w : Warp) (i : Nat) (x : Word) : (w.setS i x).tornCols = w.tornCols := by
  rw [w.setS_eq]
@[simp] theorem Warp.setS_trapNew (w : Warp) (i : Nat) (x : Word) : (w.setS i x).trapNew = w.trapNew := by
  rw [w.setS_eq]

@[simp] theorem Warp.setP_s0 (w : Warp) (i : Nat) (x : Word) : (w.setP i x).s0 = w.s0 := by rw [w.setP_eq]
@[simp] theorem Warp.setP_s1 (w : Warp) (i : Nat) (x : Word) : (w.setP i x).s1 = w.s1 := by rw [w.setP_eq]
@[simp] theorem Warp.setP_v (w : Warp) (i : Nat) (x : Word) : (w.setP i x).v = w.v := by rw [w.setP_eq]
@[simp] theorem Warp.setP_s (w : Warp) (i : Nat) (x : Word) : (w.setP i x).s = w.s := by rw [w.setP_eq]
@[simp] theorem Warp.setP_h (w : Warp) (i : Nat) (x : Word) : (w.setP i x).h = w.h := by rw [w.setP_eq]
@[simp] theorem Warp.setP_c (w : Warp) (i : Nat) (x : Word) : (w.setP i x).c = w.c := by rw [w.setP_eq]
@[simp] theorem Warp.setP_n (w : Warp) (i : Nat) (x : Word) : (w.setP i x).n = w.n := by rw [w.setP_eq]
@[simp] theorem Warp.setP_lanes (w : Warp) (i : Nat) (x : Word) : (w.setP i x).lanes = w.lanes := by rw [w.setP_eq]
@[simp] theorem Warp.setP_dstkSp (w : Warp) (i : Nat) (x : Word) : (w.setP i x).dstkSp = w.dstkSp := by rw [w.setP_eq]
@[simp] theorem Warp.setP_accBase (w : Warp) (i : Nat) (x : Word) : (w.setP i x).accBase = w.accBase := by
  rw [w.setP_eq]
@[simp] theorem Warp.setP_accLimit (w : Warp) (i : Nat) (x : Word) : (w.setP i x).accLimit = w.accLimit := by
  rw [w.setP_eq]
@[simp] theorem Warp.setP_trapVec (w : Warp) (i : Nat) (x : Word) : (w.setP i x).trapVec = w.trapVec := by
  rw [w.setP_eq]
@[simp] theorem Warp.setP_trapCause (w : Warp) (i : Nat) (x : Word) : (w.setP i x).trapCause = w.trapCause := by
  rw [w.setP_eq]
@[simp] theorem Warp.setP_trapAddr (w : Warp) (i : Nat) (x : Word) : (w.setP i x).trapAddr = w.trapAddr := by
  rw [w.setP_eq]
@[simp] theorem Warp.setP_trapPc (w : Warp) (i : Nat) (x : Word) : (w.setP i x).trapPc = w.trapPc := by rw [w.setP_eq]
@[simp] theorem Warp.setP_podG (w : Warp) (i : Nat) (x : Word) : (w.setP i x).podG = w.podG := by rw [w.setP_eq]
@[simp] theorem Warp.setP_pod (w : Warp) (i : Nat) (x : Word) : (w.setP i x).pod = w.pod := by rw [w.setP_eq]
@[simp] theorem Warp.setP_flags (w : Warp) (i : Nat) (x : Word) : (w.setP i x).flags = w.flags := by rw [w.setP_eq]
@[simp] theorem Warp.setP_flagsNew (w : Warp) (i : Nat) (x : Word) : (w.setP i x).flagsNew = w.flagsNew := by
  rw [w.setP_eq]
@[simp] theorem Warp.setP_colScale (w : Warp) (i : Nat) (x : Word) : (w.setP i x).colScale = w.colScale := by
  rw [w.setP_eq]
@[simp] theorem Warp.setP_topk (w : Warp) (i : Nat) (x : Word) : (w.setP i x).topk = w.topk := by rw [w.setP_eq]
@[simp] theorem Warp.setP_ib (w : Warp) (i : Nat) (x : Word) : (w.setP i x).ib = w.ib := by rw [w.setP_eq]
@[simp] theorem Warp.setP_batch (w : Warp) (i : Nat) (x : Word) : (w.setP i x).batch = w.batch := by rw [w.setP_eq]
@[simp] theorem Warp.setP_serial (w : Warp) (i : Nat) (x : Word) : (w.setP i x).serial = w.serial := by rw [w.setP_eq]
@[simp] theorem Warp.setP_failures (w : Warp) (i : Nat) (x : Word) : (w.setP i x).failures = w.failures := by
  rw [w.setP_eq]
@[simp] theorem Warp.setP_ovlo (w : Warp) (i : Nat) (x : Word) : (w.setP i x).ovlo = w.ovlo := by rw [w.setP_eq]
@[simp] theorem Warp.setP_ovhi (w : Warp) (i : Nat) (x : Word) : (w.setP i x).ovhi = w.ovhi := by rw [w.setP_eq]
@[simp] theorem Warp.setP_nest (w : Warp) (i : Nat) (x : Word) : (w.setP i x).nest = w.nest := by rw [w.setP_eq]
@[simp] theorem Warp.setP_frBarrier (w : Warp) (i : Nat) (x : Word) : (w.setP i x).frBarrier = w.frBarrier := by
  rw [w.setP_eq]
@[simp] theorem Warp.setP_yieldUntil (w : Warp) (i : Nat) (x : Word) : (w.setP i x).yieldUntil = w.yieldUntil := by
  rw [w.setP_eq]
@[simp] theorem Warp.setP_yielded (w : Warp) (i : Nat) (x : Word) : (w.setP i x).yielded = w.yielded := by
  rw [w.setP_eq]
@[simp] theorem Warp.setP_behind (w : Warp) (i : Nat) (x : Word) : (w.setP i x).behind = w.behind := by rw [w.setP_eq]
@[simp] theorem Warp.setP_lost (w : Warp) (i : Nat) (x : Word) : (w.setP i x).lost = w.lost := by rw [w.setP_eq]
@[simp] theorem Warp.setP_readySince (w : Warp) (i : Nat) (x : Word) : (w.setP i x).readySince = w.readySince := by
  rw [w.setP_eq]
@[simp] theorem Warp.setP_born (w : Warp) (i : Nat) (x : Word) : (w.setP i x).born = w.born := by rw [w.setP_eq]
@[simp] theorem Warp.setP_haltPending (w : Warp) (i : Nat) (x : Word) : (w.setP i x).haltPending = w.haltPending := by
  rw [w.setP_eq]
@[simp] theorem Warp.setP_torn (w : Warp) (i : Nat) (x : Word) : (w.setP i x).torn = w.torn := by rw [w.setP_eq]
@[simp] theorem Warp.setP_tornCols (w : Warp) (i : Nat) (x : Word) : (w.setP i x).tornCols = w.tornCols := by
  rw [w.setP_eq]
@[simp] theorem Warp.setP_trapNew (w : Warp) (i : Nat) (x : Word) : (w.setP i x).trapNew = w.trapNew := by
  rw [w.setP_eq]

@[simp] theorem Warp.setV_s0 (w : Warp) (r : Nat) (m : Word) (f : Nat → Elem) : (w.setV r m f).s0 = w.s0 := rfl
@[simp] theorem Warp.setV_s1 (w : Warp) (r : Nat) (m : Word) (f : Nat → Elem) : (w.setV r m f).s1 = w.s1 := rfl
@[simp] theorem Warp.setV_s (w : Warp) (r : Nat) (m : Word) (f : Nat → Elem) : (w.setV r m f).s = w.s := rfl
@[simp] theorem Warp.setV_p (w : Warp) (r : Nat) (m : Word) (f : Nat → Elem) : (w.setV r m f).p = w.p := rfl
@[simp] theorem Warp.setV_h (w : Warp) (r : Nat) (m : Word) (f : Nat → Elem) : (w.setV r m f).h = w.h := rfl
@[simp] theorem Warp.setV_c (w : Warp) (r : Nat) (m : Word) (f : Nat → Elem) : (w.setV r m f).c = w.c := rfl
@[simp] theorem Warp.setV_n (w : Warp) (r : Nat) (m : Word) (f : Nat → Elem) : (w.setV r m f).n = w.n := rfl
@[simp] theorem Warp.setV_lanes (w : Warp) (r : Nat) (m : Word) (f : Nat → Elem) : (w.setV r m f).lanes = w.lanes := rfl
@[simp] theorem Warp.setV_dstkSp (w : Warp) (r : Nat) (m : Word) (f : Nat → Elem) : (w.setV r m f).dstkSp = w.dstkSp :=
  rfl
@[simp] theorem Warp.setV_accBase (w : Warp) (r : Nat) (m : Word) (f : Nat → Elem) : (w.setV r m f).accBase = w.accBase :=
  rfl
@[simp] theorem Warp.setV_accLimit (w : Warp) (r : Nat) (m : Word) (f : Nat → Elem) : (w.setV r m f).accLimit = w.accLimit :=
  rfl
@[simp] theorem Warp.setV_trapVec (w : Warp) (r : Nat) (m : Word) (f : Nat → Elem) : (w.setV r m f).trapVec = w.trapVec :=
  rfl
@[simp] theorem Warp.setV_trapCause (w : Warp) (r : Nat) (m : Word) (f : Nat → Elem) : (w.setV r m f).trapCause = w.trapCause :=
  rfl
@[simp] theorem Warp.setV_trapAddr (w : Warp) (r : Nat) (m : Word) (f : Nat → Elem) : (w.setV r m f).trapAddr = w.trapAddr :=
  rfl
@[simp] theorem Warp.setV_trapPc (w : Warp) (r : Nat) (m : Word) (f : Nat → Elem) : (w.setV r m f).trapPc = w.trapPc :=
  rfl
@[simp] theorem Warp.setV_podG (w : Warp) (r : Nat) (m : Word) (f : Nat → Elem) : (w.setV r m f).podG = w.podG := rfl
@[simp] theorem Warp.setV_pod (w : Warp) (r : Nat) (m : Word) (f : Nat → Elem) : (w.setV r m f).pod = w.pod := rfl
@[simp] theorem Warp.setV_flags (w : Warp) (r : Nat) (m : Word) (f : Nat → Elem) : (w.setV r m f).flags = w.flags := rfl
@[simp] theorem Warp.setV_flagsNew (w : Warp) (r : Nat) (m : Word) (f : Nat → Elem) : (w.setV r m f).flagsNew = w.flagsNew :=
  rfl
@[simp] theorem Warp.setV_colScale (w : Warp) (r : Nat) (m : Word) (f : Nat → Elem) : (w.setV r m f).colScale = w.colScale :=
  rfl
@[simp] theorem Warp.setV_topk (w : Warp) (r : Nat) (m : Word) (f : Nat → Elem) : (w.setV r m f).topk = w.topk := rfl
@[simp] theorem Warp.setV_ib (w : Warp) (r : Nat) (m : Word) (f : Nat → Elem) : (w.setV r m f).ib = w.ib := rfl
@[simp] theorem Warp.setV_batch (w : Warp) (r : Nat) (m : Word) (f : Nat → Elem) : (w.setV r m f).batch = w.batch := rfl
@[simp] theorem Warp.setV_serial (w : Warp) (r : Nat) (m : Word) (f : Nat → Elem) : (w.setV r m f).serial = w.serial :=
  rfl
@[simp] theorem Warp.setV_failures (w : Warp) (r : Nat) (m : Word) (f : Nat → Elem) : (w.setV r m f).failures = w.failures :=
  rfl
@[simp] theorem Warp.setV_ovlo (w : Warp) (r : Nat) (m : Word) (f : Nat → Elem) : (w.setV r m f).ovlo = w.ovlo := rfl
@[simp] theorem Warp.setV_ovhi (w : Warp) (r : Nat) (m : Word) (f : Nat → Elem) : (w.setV r m f).ovhi = w.ovhi := rfl
@[simp] theorem Warp.setV_nest (w : Warp) (r : Nat) (m : Word) (f : Nat → Elem) : (w.setV r m f).nest = w.nest := rfl
@[simp] theorem Warp.setV_frBarrier (w : Warp) (r : Nat) (m : Word) (f : Nat → Elem) : (w.setV r m f).frBarrier = w.frBarrier :=
  rfl
@[simp] theorem Warp.setV_yieldUntil (w : Warp) (r : Nat) (m : Word) (f : Nat → Elem) : (w.setV r m f).yieldUntil = w.yieldUntil :=
  rfl
@[simp] theorem Warp.setV_yielded (w : Warp) (r : Nat) (m : Word) (f : Nat → Elem) : (w.setV r m f).yielded = w.yielded :=
  rfl
@[simp] theorem Warp.setV_behind (w : Warp) (r : Nat) (m : Word) (f : Nat → Elem) : (w.setV r m f).behind = w.behind :=
  rfl
@[simp] theorem Warp.setV_lost (w : Warp) (r : Nat) (m : Word) (f : Nat → Elem) : (w.setV r m f).lost = w.lost := rfl
@[simp] theorem Warp.setV_readySince (w : Warp) (r : Nat) (m : Word) (f : Nat → Elem) : (w.setV r m f).readySince = w.readySince :=
  rfl
@[simp] theorem Warp.setV_born (w : Warp) (r : Nat) (m : Word) (f : Nat → Elem) : (w.setV r m f).born = w.born := rfl
@[simp] theorem Warp.setV_haltPending (w : Warp) (r : Nat) (m : Word) (f : Nat → Elem) : (w.setV r m f).haltPending = w.haltPending :=
  rfl
@[simp] theorem Warp.setV_torn (w : Warp) (r : Nat) (m : Word) (f : Nat → Elem) : (w.setV r m f).torn = w.torn := rfl
@[simp] theorem Warp.setV_tornCols (w : Warp) (r : Nat) (m : Word) (f : Nat → Elem) : (w.setV r m f).tornCols = w.tornCols :=
  rfl
@[simp] theorem Warp.setV_trapNew (w : Warp) (r : Nat) (m : Word) (f : Nat → Elem) : (w.setV r m f).trapNew = w.trapNew :=
  rfl

@[simp] theorem Warp.setV2_s0 (w : Warp) (r : Nat) (m : Word) (f : Nat → Word) : (w.setV2 r m f).s0 = w.s0 := rfl
@[simp] theorem Warp.setV2_s1 (w : Warp) (r : Nat) (m : Word) (f : Nat → Word) : (w.setV2 r m f).s1 = w.s1 := rfl
@[simp] theorem Warp.setV2_s (w : Warp) (r : Nat) (m : Word) (f : Nat → Word) : (w.setV2 r m f).s = w.s := rfl
@[simp] theorem Warp.setV2_p (w : Warp) (r : Nat) (m : Word) (f : Nat → Word) : (w.setV2 r m f).p = w.p := rfl
@[simp] theorem Warp.setV2_h (w : Warp) (r : Nat) (m : Word) (f : Nat → Word) : (w.setV2 r m f).h = w.h := rfl
@[simp] theorem Warp.setV2_c (w : Warp) (r : Nat) (m : Word) (f : Nat → Word) : (w.setV2 r m f).c = w.c := rfl
@[simp] theorem Warp.setV2_n (w : Warp) (r : Nat) (m : Word) (f : Nat → Word) : (w.setV2 r m f).n = w.n := rfl
@[simp] theorem Warp.setV2_lanes (w : Warp) (r : Nat) (m : Word) (f : Nat → Word) : (w.setV2 r m f).lanes = w.lanes :=
  rfl
@[simp] theorem Warp.setV2_dstkSp (w : Warp) (r : Nat) (m : Word) (f : Nat → Word) : (w.setV2 r m f).dstkSp = w.dstkSp :=
  rfl
@[simp] theorem Warp.setV2_accBase (w : Warp) (r : Nat) (m : Word) (f : Nat → Word) : (w.setV2 r m f).accBase = w.accBase :=
  rfl
@[simp] theorem Warp.setV2_accLimit (w : Warp) (r : Nat) (m : Word) (f : Nat → Word) : (w.setV2 r m f).accLimit = w.accLimit :=
  rfl
@[simp] theorem Warp.setV2_trapVec (w : Warp) (r : Nat) (m : Word) (f : Nat → Word) : (w.setV2 r m f).trapVec = w.trapVec :=
  rfl
@[simp] theorem Warp.setV2_trapCause (w : Warp) (r : Nat) (m : Word) (f : Nat → Word) : (w.setV2 r m f).trapCause = w.trapCause :=
  rfl
@[simp] theorem Warp.setV2_trapAddr (w : Warp) (r : Nat) (m : Word) (f : Nat → Word) : (w.setV2 r m f).trapAddr = w.trapAddr :=
  rfl
@[simp] theorem Warp.setV2_trapPc (w : Warp) (r : Nat) (m : Word) (f : Nat → Word) : (w.setV2 r m f).trapPc = w.trapPc :=
  rfl
@[simp] theorem Warp.setV2_podG (w : Warp) (r : Nat) (m : Word) (f : Nat → Word) : (w.setV2 r m f).podG = w.podG := rfl
@[simp] theorem Warp.setV2_pod (w : Warp) (r : Nat) (m : Word) (f : Nat → Word) : (w.setV2 r m f).pod = w.pod := rfl
@[simp] theorem Warp.setV2_flags (w : Warp) (r : Nat) (m : Word) (f : Nat → Word) : (w.setV2 r m f).flags = w.flags :=
  rfl
@[simp] theorem Warp.setV2_flagsNew (w : Warp) (r : Nat) (m : Word) (f : Nat → Word) : (w.setV2 r m f).flagsNew = w.flagsNew :=
  rfl
@[simp] theorem Warp.setV2_colScale (w : Warp) (r : Nat) (m : Word) (f : Nat → Word) : (w.setV2 r m f).colScale = w.colScale :=
  rfl
@[simp] theorem Warp.setV2_topk (w : Warp) (r : Nat) (m : Word) (f : Nat → Word) : (w.setV2 r m f).topk = w.topk := rfl
@[simp] theorem Warp.setV2_ib (w : Warp) (r : Nat) (m : Word) (f : Nat → Word) : (w.setV2 r m f).ib = w.ib := rfl
@[simp] theorem Warp.setV2_batch (w : Warp) (r : Nat) (m : Word) (f : Nat → Word) : (w.setV2 r m f).batch = w.batch :=
  rfl
@[simp] theorem Warp.setV2_serial (w : Warp) (r : Nat) (m : Word) (f : Nat → Word) : (w.setV2 r m f).serial = w.serial :=
  rfl
@[simp] theorem Warp.setV2_failures (w : Warp) (r : Nat) (m : Word) (f : Nat → Word) : (w.setV2 r m f).failures = w.failures :=
  rfl
@[simp] theorem Warp.setV2_ovlo (w : Warp) (r : Nat) (m : Word) (f : Nat → Word) : (w.setV2 r m f).ovlo = w.ovlo := rfl
@[simp] theorem Warp.setV2_ovhi (w : Warp) (r : Nat) (m : Word) (f : Nat → Word) : (w.setV2 r m f).ovhi = w.ovhi := rfl
@[simp] theorem Warp.setV2_nest (w : Warp) (r : Nat) (m : Word) (f : Nat → Word) : (w.setV2 r m f).nest = w.nest := rfl
@[simp] theorem Warp.setV2_frBarrier (w : Warp) (r : Nat) (m : Word) (f : Nat → Word) : (w.setV2 r m f).frBarrier = w.frBarrier :=
  rfl
@[simp] theorem Warp.setV2_yieldUntil (w : Warp) (r : Nat) (m : Word) (f : Nat → Word) : (w.setV2 r m f).yieldUntil = w.yieldUntil :=
  rfl
@[simp] theorem Warp.setV2_yielded (w : Warp) (r : Nat) (m : Word) (f : Nat → Word) : (w.setV2 r m f).yielded = w.yielded :=
  rfl
@[simp] theorem Warp.setV2_behind (w : Warp) (r : Nat) (m : Word) (f : Nat → Word) : (w.setV2 r m f).behind = w.behind :=
  rfl
@[simp] theorem Warp.setV2_lost (w : Warp) (r : Nat) (m : Word) (f : Nat → Word) : (w.setV2 r m f).lost = w.lost := rfl
@[simp] theorem Warp.setV2_readySince (w : Warp) (r : Nat) (m : Word) (f : Nat → Word) : (w.setV2 r m f).readySince = w.readySince :=
  rfl
@[simp] theorem Warp.setV2_born (w : Warp) (r : Nat) (m : Word) (f : Nat → Word) : (w.setV2 r m f).born = w.born := rfl
@[simp] theorem Warp.setV2_haltPending (w : Warp) (r : Nat) (m : Word) (f : Nat → Word) : (w.setV2 r m f).haltPending = w.haltPending :=
  rfl
@[simp] theorem Warp.setV2_torn (w : Warp) (r : Nat) (m : Word) (f : Nat → Word) : (w.setV2 r m f).torn = w.torn := rfl
@[simp] theorem Warp.setV2_tornCols (w : Warp) (r : Nat) (m : Word) (f : Nat → Word) : (w.setV2 r m f).tornCols = w.tornCols :=
  rfl
@[simp] theorem Warp.setV2_trapNew (w : Warp) (r : Nat) (m : Word) (f : Nat → Word) : (w.setV2 r m f).trapNew = w.trapNew :=
  rfl

@[simp] theorem Warp.setH_s0 (w : Warp) (i : Nat) (x : Handle) : (w.setH i x).s0 = w.s0 := rfl
@[simp] theorem Warp.setH_s1 (w : Warp) (i : Nat) (x : Handle) : (w.setH i x).s1 = w.s1 := rfl
@[simp] theorem Warp.setH_v (w : Warp) (i : Nat) (x : Handle) : (w.setH i x).v = w.v := rfl
@[simp] theorem Warp.setH_s (w : Warp) (i : Nat) (x : Handle) : (w.setH i x).s = w.s := rfl
@[simp] theorem Warp.setH_p (w : Warp) (i : Nat) (x : Handle) : (w.setH i x).p = w.p := rfl
@[simp] theorem Warp.setH_c (w : Warp) (i : Nat) (x : Handle) : (w.setH i x).c = w.c := rfl
@[simp] theorem Warp.setH_n (w : Warp) (i : Nat) (x : Handle) : (w.setH i x).n = w.n := rfl
@[simp] theorem Warp.setH_lanes (w : Warp) (i : Nat) (x : Handle) : (w.setH i x).lanes = w.lanes := rfl
@[simp] theorem Warp.setH_dstkSp (w : Warp) (i : Nat) (x : Handle) : (w.setH i x).dstkSp = w.dstkSp := rfl
@[simp] theorem Warp.setH_accBase (w : Warp) (i : Nat) (x : Handle) : (w.setH i x).accBase = w.accBase := rfl
@[simp] theorem Warp.setH_accLimit (w : Warp) (i : Nat) (x : Handle) : (w.setH i x).accLimit = w.accLimit := rfl
@[simp] theorem Warp.setH_trapVec (w : Warp) (i : Nat) (x : Handle) : (w.setH i x).trapVec = w.trapVec := rfl
@[simp] theorem Warp.setH_trapCause (w : Warp) (i : Nat) (x : Handle) : (w.setH i x).trapCause = w.trapCause := rfl
@[simp] theorem Warp.setH_trapAddr (w : Warp) (i : Nat) (x : Handle) : (w.setH i x).trapAddr = w.trapAddr := rfl
@[simp] theorem Warp.setH_trapPc (w : Warp) (i : Nat) (x : Handle) : (w.setH i x).trapPc = w.trapPc := rfl
@[simp] theorem Warp.setH_podG (w : Warp) (i : Nat) (x : Handle) : (w.setH i x).podG = w.podG := rfl
@[simp] theorem Warp.setH_pod (w : Warp) (i : Nat) (x : Handle) : (w.setH i x).pod = w.pod := rfl
@[simp] theorem Warp.setH_flags (w : Warp) (i : Nat) (x : Handle) : (w.setH i x).flags = w.flags := rfl
@[simp] theorem Warp.setH_flagsNew (w : Warp) (i : Nat) (x : Handle) : (w.setH i x).flagsNew = w.flagsNew := rfl
@[simp] theorem Warp.setH_colScale (w : Warp) (i : Nat) (x : Handle) : (w.setH i x).colScale = w.colScale := rfl
@[simp] theorem Warp.setH_topk (w : Warp) (i : Nat) (x : Handle) : (w.setH i x).topk = w.topk := rfl
@[simp] theorem Warp.setH_ib (w : Warp) (i : Nat) (x : Handle) : (w.setH i x).ib = w.ib := rfl
@[simp] theorem Warp.setH_batch (w : Warp) (i : Nat) (x : Handle) : (w.setH i x).batch = w.batch := rfl
@[simp] theorem Warp.setH_serial (w : Warp) (i : Nat) (x : Handle) : (w.setH i x).serial = w.serial := rfl
@[simp] theorem Warp.setH_failures (w : Warp) (i : Nat) (x : Handle) : (w.setH i x).failures = w.failures := rfl
@[simp] theorem Warp.setH_ovlo (w : Warp) (i : Nat) (x : Handle) : (w.setH i x).ovlo = w.ovlo := rfl
@[simp] theorem Warp.setH_ovhi (w : Warp) (i : Nat) (x : Handle) : (w.setH i x).ovhi = w.ovhi := rfl
@[simp] theorem Warp.setH_nest (w : Warp) (i : Nat) (x : Handle) : (w.setH i x).nest = w.nest := rfl
@[simp] theorem Warp.setH_frBarrier (w : Warp) (i : Nat) (x : Handle) : (w.setH i x).frBarrier = w.frBarrier := rfl
@[simp] theorem Warp.setH_yieldUntil (w : Warp) (i : Nat) (x : Handle) : (w.setH i x).yieldUntil = w.yieldUntil := rfl
@[simp] theorem Warp.setH_yielded (w : Warp) (i : Nat) (x : Handle) : (w.setH i x).yielded = w.yielded := rfl
@[simp] theorem Warp.setH_behind (w : Warp) (i : Nat) (x : Handle) : (w.setH i x).behind = w.behind := rfl
@[simp] theorem Warp.setH_lost (w : Warp) (i : Nat) (x : Handle) : (w.setH i x).lost = w.lost := rfl
@[simp] theorem Warp.setH_readySince (w : Warp) (i : Nat) (x : Handle) : (w.setH i x).readySince = w.readySince := rfl
@[simp] theorem Warp.setH_born (w : Warp) (i : Nat) (x : Handle) : (w.setH i x).born = w.born := rfl
@[simp] theorem Warp.setH_haltPending (w : Warp) (i : Nat) (x : Handle) : (w.setH i x).haltPending = w.haltPending :=
  rfl
@[simp] theorem Warp.setH_torn (w : Warp) (i : Nat) (x : Handle) : (w.setH i x).torn = w.torn := rfl
@[simp] theorem Warp.setH_tornCols (w : Warp) (i : Nat) (x : Handle) : (w.setH i x).tornCols = w.tornCols := rfl
@[simp] theorem Warp.setH_trapNew (w : Warp) (i : Nat) (x : Handle) : (w.setH i x).trapNew = w.trapNew := rfl

@[simp] theorem Warp.setC_s0 (w : Warp) (i : Nat) (x : Cap) : (w.setC i x).s0 = w.s0 := rfl
@[simp] theorem Warp.setC_s1 (w : Warp) (i : Nat) (x : Cap) : (w.setC i x).s1 = w.s1 := rfl
@[simp] theorem Warp.setC_v (w : Warp) (i : Nat) (x : Cap) : (w.setC i x).v = w.v := rfl
@[simp] theorem Warp.setC_s (w : Warp) (i : Nat) (x : Cap) : (w.setC i x).s = w.s := rfl
@[simp] theorem Warp.setC_p (w : Warp) (i : Nat) (x : Cap) : (w.setC i x).p = w.p := rfl
@[simp] theorem Warp.setC_h (w : Warp) (i : Nat) (x : Cap) : (w.setC i x).h = w.h := rfl
@[simp] theorem Warp.setC_n (w : Warp) (i : Nat) (x : Cap) : (w.setC i x).n = w.n := rfl
@[simp] theorem Warp.setC_lanes (w : Warp) (i : Nat) (x : Cap) : (w.setC i x).lanes = w.lanes := rfl
@[simp] theorem Warp.setC_dstkSp (w : Warp) (i : Nat) (x : Cap) : (w.setC i x).dstkSp = w.dstkSp := rfl
@[simp] theorem Warp.setC_accBase (w : Warp) (i : Nat) (x : Cap) : (w.setC i x).accBase = w.accBase := rfl
@[simp] theorem Warp.setC_accLimit (w : Warp) (i : Nat) (x : Cap) : (w.setC i x).accLimit = w.accLimit := rfl
@[simp] theorem Warp.setC_trapVec (w : Warp) (i : Nat) (x : Cap) : (w.setC i x).trapVec = w.trapVec := rfl
@[simp] theorem Warp.setC_trapCause (w : Warp) (i : Nat) (x : Cap) : (w.setC i x).trapCause = w.trapCause := rfl
@[simp] theorem Warp.setC_trapAddr (w : Warp) (i : Nat) (x : Cap) : (w.setC i x).trapAddr = w.trapAddr := rfl
@[simp] theorem Warp.setC_trapPc (w : Warp) (i : Nat) (x : Cap) : (w.setC i x).trapPc = w.trapPc := rfl
@[simp] theorem Warp.setC_podG (w : Warp) (i : Nat) (x : Cap) : (w.setC i x).podG = w.podG := rfl
@[simp] theorem Warp.setC_pod (w : Warp) (i : Nat) (x : Cap) : (w.setC i x).pod = w.pod := rfl
@[simp] theorem Warp.setC_flags (w : Warp) (i : Nat) (x : Cap) : (w.setC i x).flags = w.flags := rfl
@[simp] theorem Warp.setC_flagsNew (w : Warp) (i : Nat) (x : Cap) : (w.setC i x).flagsNew = w.flagsNew := rfl
@[simp] theorem Warp.setC_colScale (w : Warp) (i : Nat) (x : Cap) : (w.setC i x).colScale = w.colScale := rfl
@[simp] theorem Warp.setC_topk (w : Warp) (i : Nat) (x : Cap) : (w.setC i x).topk = w.topk := rfl
@[simp] theorem Warp.setC_ib (w : Warp) (i : Nat) (x : Cap) : (w.setC i x).ib = w.ib := rfl
@[simp] theorem Warp.setC_batch (w : Warp) (i : Nat) (x : Cap) : (w.setC i x).batch = w.batch := rfl
@[simp] theorem Warp.setC_serial (w : Warp) (i : Nat) (x : Cap) : (w.setC i x).serial = w.serial := rfl
@[simp] theorem Warp.setC_failures (w : Warp) (i : Nat) (x : Cap) : (w.setC i x).failures = w.failures := rfl
@[simp] theorem Warp.setC_ovlo (w : Warp) (i : Nat) (x : Cap) : (w.setC i x).ovlo = w.ovlo := rfl
@[simp] theorem Warp.setC_ovhi (w : Warp) (i : Nat) (x : Cap) : (w.setC i x).ovhi = w.ovhi := rfl
@[simp] theorem Warp.setC_nest (w : Warp) (i : Nat) (x : Cap) : (w.setC i x).nest = w.nest := rfl
@[simp] theorem Warp.setC_frBarrier (w : Warp) (i : Nat) (x : Cap) : (w.setC i x).frBarrier = w.frBarrier := rfl
@[simp] theorem Warp.setC_yieldUntil (w : Warp) (i : Nat) (x : Cap) : (w.setC i x).yieldUntil = w.yieldUntil := rfl
@[simp] theorem Warp.setC_yielded (w : Warp) (i : Nat) (x : Cap) : (w.setC i x).yielded = w.yielded := rfl
@[simp] theorem Warp.setC_behind (w : Warp) (i : Nat) (x : Cap) : (w.setC i x).behind = w.behind := rfl
@[simp] theorem Warp.setC_lost (w : Warp) (i : Nat) (x : Cap) : (w.setC i x).lost = w.lost := rfl
@[simp] theorem Warp.setC_readySince (w : Warp) (i : Nat) (x : Cap) : (w.setC i x).readySince = w.readySince := rfl
@[simp] theorem Warp.setC_born (w : Warp) (i : Nat) (x : Cap) : (w.setC i x).born = w.born := rfl
@[simp] theorem Warp.setC_haltPending (w : Warp) (i : Nat) (x : Cap) : (w.setC i x).haltPending = w.haltPending := rfl
@[simp] theorem Warp.setC_torn (w : Warp) (i : Nat) (x : Cap) : (w.setC i x).torn = w.torn := rfl
@[simp] theorem Warp.setC_tornCols (w : Warp) (i : Nat) (x : Cap) : (w.setC i x).tornCols = w.tornCols := rfl
@[simp] theorem Warp.setC_trapNew (w : Warp) (i : Nat) (x : Cap) : (w.setC i x).trapNew = w.trapNew := rfl

@[simp] theorem Warp.setN_s0 (w : Warp) (i : Nat) (x : BitVec 128) : (w.setN i x).s0 = w.s0 := rfl
@[simp] theorem Warp.setN_s1 (w : Warp) (i : Nat) (x : BitVec 128) : (w.setN i x).s1 = w.s1 := rfl
@[simp] theorem Warp.setN_v (w : Warp) (i : Nat) (x : BitVec 128) : (w.setN i x).v = w.v := rfl
@[simp] theorem Warp.setN_s (w : Warp) (i : Nat) (x : BitVec 128) : (w.setN i x).s = w.s := rfl
@[simp] theorem Warp.setN_p (w : Warp) (i : Nat) (x : BitVec 128) : (w.setN i x).p = w.p := rfl
@[simp] theorem Warp.setN_h (w : Warp) (i : Nat) (x : BitVec 128) : (w.setN i x).h = w.h := rfl
@[simp] theorem Warp.setN_c (w : Warp) (i : Nat) (x : BitVec 128) : (w.setN i x).c = w.c := rfl
@[simp] theorem Warp.setN_lanes (w : Warp) (i : Nat) (x : BitVec 128) : (w.setN i x).lanes = w.lanes := rfl
@[simp] theorem Warp.setN_dstkSp (w : Warp) (i : Nat) (x : BitVec 128) : (w.setN i x).dstkSp = w.dstkSp := rfl
@[simp] theorem Warp.setN_accBase (w : Warp) (i : Nat) (x : BitVec 128) : (w.setN i x).accBase = w.accBase := rfl
@[simp] theorem Warp.setN_accLimit (w : Warp) (i : Nat) (x : BitVec 128) : (w.setN i x).accLimit = w.accLimit := rfl
@[simp] theorem Warp.setN_trapVec (w : Warp) (i : Nat) (x : BitVec 128) : (w.setN i x).trapVec = w.trapVec := rfl
@[simp] theorem Warp.setN_trapCause (w : Warp) (i : Nat) (x : BitVec 128) : (w.setN i x).trapCause = w.trapCause := rfl
@[simp] theorem Warp.setN_trapAddr (w : Warp) (i : Nat) (x : BitVec 128) : (w.setN i x).trapAddr = w.trapAddr := rfl
@[simp] theorem Warp.setN_trapPc (w : Warp) (i : Nat) (x : BitVec 128) : (w.setN i x).trapPc = w.trapPc := rfl
@[simp] theorem Warp.setN_podG (w : Warp) (i : Nat) (x : BitVec 128) : (w.setN i x).podG = w.podG := rfl
@[simp] theorem Warp.setN_pod (w : Warp) (i : Nat) (x : BitVec 128) : (w.setN i x).pod = w.pod := rfl
@[simp] theorem Warp.setN_flags (w : Warp) (i : Nat) (x : BitVec 128) : (w.setN i x).flags = w.flags := rfl
@[simp] theorem Warp.setN_flagsNew (w : Warp) (i : Nat) (x : BitVec 128) : (w.setN i x).flagsNew = w.flagsNew := rfl
@[simp] theorem Warp.setN_colScale (w : Warp) (i : Nat) (x : BitVec 128) : (w.setN i x).colScale = w.colScale := rfl
@[simp] theorem Warp.setN_topk (w : Warp) (i : Nat) (x : BitVec 128) : (w.setN i x).topk = w.topk := rfl
@[simp] theorem Warp.setN_ib (w : Warp) (i : Nat) (x : BitVec 128) : (w.setN i x).ib = w.ib := rfl
@[simp] theorem Warp.setN_batch (w : Warp) (i : Nat) (x : BitVec 128) : (w.setN i x).batch = w.batch := rfl
@[simp] theorem Warp.setN_serial (w : Warp) (i : Nat) (x : BitVec 128) : (w.setN i x).serial = w.serial := rfl
@[simp] theorem Warp.setN_failures (w : Warp) (i : Nat) (x : BitVec 128) : (w.setN i x).failures = w.failures := rfl
@[simp] theorem Warp.setN_ovlo (w : Warp) (i : Nat) (x : BitVec 128) : (w.setN i x).ovlo = w.ovlo := rfl
@[simp] theorem Warp.setN_ovhi (w : Warp) (i : Nat) (x : BitVec 128) : (w.setN i x).ovhi = w.ovhi := rfl
@[simp] theorem Warp.setN_nest (w : Warp) (i : Nat) (x : BitVec 128) : (w.setN i x).nest = w.nest := rfl
@[simp] theorem Warp.setN_frBarrier (w : Warp) (i : Nat) (x : BitVec 128) : (w.setN i x).frBarrier = w.frBarrier := rfl
@[simp] theorem Warp.setN_yieldUntil (w : Warp) (i : Nat) (x : BitVec 128) : (w.setN i x).yieldUntil = w.yieldUntil :=
  rfl
@[simp] theorem Warp.setN_yielded (w : Warp) (i : Nat) (x : BitVec 128) : (w.setN i x).yielded = w.yielded := rfl
@[simp] theorem Warp.setN_behind (w : Warp) (i : Nat) (x : BitVec 128) : (w.setN i x).behind = w.behind := rfl
@[simp] theorem Warp.setN_lost (w : Warp) (i : Nat) (x : BitVec 128) : (w.setN i x).lost = w.lost := rfl
@[simp] theorem Warp.setN_readySince (w : Warp) (i : Nat) (x : BitVec 128) : (w.setN i x).readySince = w.readySince :=
  rfl
@[simp] theorem Warp.setN_born (w : Warp) (i : Nat) (x : BitVec 128) : (w.setN i x).born = w.born := rfl
@[simp] theorem Warp.setN_haltPending (w : Warp) (i : Nat) (x : BitVec 128) : (w.setN i x).haltPending = w.haltPending :=
  rfl
@[simp] theorem Warp.setN_torn (w : Warp) (i : Nat) (x : BitVec 128) : (w.setN i x).torn = w.torn := rfl
@[simp] theorem Warp.setN_tornCols (w : Warp) (i : Nat) (x : BitVec 128) : (w.setN i x).tornCols = w.tornCols := rfl
@[simp] theorem Warp.setN_trapNew (w : Warp) (i : Nat) (x : BitVec 128) : (w.setN i x).trapNew = w.trapNew := rfl

@[simp] theorem Warp.raiseFlags_s0 (w : Warp) (x : BitVec 4) : (w.raiseFlags x).s0 = w.s0 := rfl
@[simp] theorem Warp.raiseFlags_s1 (w : Warp) (x : BitVec 4) : (w.raiseFlags x).s1 = w.s1 := rfl
@[simp] theorem Warp.raiseFlags_v (w : Warp) (x : BitVec 4) : (w.raiseFlags x).v = w.v := rfl
@[simp] theorem Warp.raiseFlags_s (w : Warp) (x : BitVec 4) : (w.raiseFlags x).s = w.s := rfl
@[simp] theorem Warp.raiseFlags_p (w : Warp) (x : BitVec 4) : (w.raiseFlags x).p = w.p := rfl
@[simp] theorem Warp.raiseFlags_h (w : Warp) (x : BitVec 4) : (w.raiseFlags x).h = w.h := rfl
@[simp] theorem Warp.raiseFlags_c (w : Warp) (x : BitVec 4) : (w.raiseFlags x).c = w.c := rfl
@[simp] theorem Warp.raiseFlags_n (w : Warp) (x : BitVec 4) : (w.raiseFlags x).n = w.n := rfl
@[simp] theorem Warp.raiseFlags_lanes (w : Warp) (x : BitVec 4) : (w.raiseFlags x).lanes = w.lanes := rfl
@[simp] theorem Warp.raiseFlags_dstkSp (w : Warp) (x : BitVec 4) : (w.raiseFlags x).dstkSp = w.dstkSp := rfl
@[simp] theorem Warp.raiseFlags_accBase (w : Warp) (x : BitVec 4) : (w.raiseFlags x).accBase = w.accBase := rfl
@[simp] theorem Warp.raiseFlags_accLimit (w : Warp) (x : BitVec 4) : (w.raiseFlags x).accLimit = w.accLimit := rfl
@[simp] theorem Warp.raiseFlags_trapVec (w : Warp) (x : BitVec 4) : (w.raiseFlags x).trapVec = w.trapVec := rfl
@[simp] theorem Warp.raiseFlags_trapCause (w : Warp) (x : BitVec 4) : (w.raiseFlags x).trapCause = w.trapCause := rfl
@[simp] theorem Warp.raiseFlags_trapAddr (w : Warp) (x : BitVec 4) : (w.raiseFlags x).trapAddr = w.trapAddr := rfl
@[simp] theorem Warp.raiseFlags_trapPc (w : Warp) (x : BitVec 4) : (w.raiseFlags x).trapPc = w.trapPc := rfl
@[simp] theorem Warp.raiseFlags_podG (w : Warp) (x : BitVec 4) : (w.raiseFlags x).podG = w.podG := rfl
@[simp] theorem Warp.raiseFlags_pod (w : Warp) (x : BitVec 4) : (w.raiseFlags x).pod = w.pod := rfl
@[simp] theorem Warp.raiseFlags_colScale (w : Warp) (x : BitVec 4) : (w.raiseFlags x).colScale = w.colScale := rfl
@[simp] theorem Warp.raiseFlags_topk (w : Warp) (x : BitVec 4) : (w.raiseFlags x).topk = w.topk := rfl
@[simp] theorem Warp.raiseFlags_ib (w : Warp) (x : BitVec 4) : (w.raiseFlags x).ib = w.ib := rfl
@[simp] theorem Warp.raiseFlags_batch (w : Warp) (x : BitVec 4) : (w.raiseFlags x).batch = w.batch := rfl
@[simp] theorem Warp.raiseFlags_serial (w : Warp) (x : BitVec 4) : (w.raiseFlags x).serial = w.serial := rfl
@[simp] theorem Warp.raiseFlags_failures (w : Warp) (x : BitVec 4) : (w.raiseFlags x).failures = w.failures := rfl
@[simp] theorem Warp.raiseFlags_ovlo (w : Warp) (x : BitVec 4) : (w.raiseFlags x).ovlo = w.ovlo := rfl
@[simp] theorem Warp.raiseFlags_ovhi (w : Warp) (x : BitVec 4) : (w.raiseFlags x).ovhi = w.ovhi := rfl
@[simp] theorem Warp.raiseFlags_nest (w : Warp) (x : BitVec 4) : (w.raiseFlags x).nest = w.nest := rfl
@[simp] theorem Warp.raiseFlags_frBarrier (w : Warp) (x : BitVec 4) : (w.raiseFlags x).frBarrier = w.frBarrier := rfl
@[simp] theorem Warp.raiseFlags_yieldUntil (w : Warp) (x : BitVec 4) : (w.raiseFlags x).yieldUntil = w.yieldUntil := rfl
@[simp] theorem Warp.raiseFlags_yielded (w : Warp) (x : BitVec 4) : (w.raiseFlags x).yielded = w.yielded := rfl
@[simp] theorem Warp.raiseFlags_behind (w : Warp) (x : BitVec 4) : (w.raiseFlags x).behind = w.behind := rfl
@[simp] theorem Warp.raiseFlags_lost (w : Warp) (x : BitVec 4) : (w.raiseFlags x).lost = w.lost := rfl
@[simp] theorem Warp.raiseFlags_readySince (w : Warp) (x : BitVec 4) : (w.raiseFlags x).readySince = w.readySince := rfl
@[simp] theorem Warp.raiseFlags_born (w : Warp) (x : BitVec 4) : (w.raiseFlags x).born = w.born := rfl
@[simp] theorem Warp.raiseFlags_haltPending (w : Warp) (x : BitVec 4) : (w.raiseFlags x).haltPending = w.haltPending :=
  rfl
@[simp] theorem Warp.raiseFlags_torn (w : Warp) (x : BitVec 4) : (w.raiseFlags x).torn = w.torn := rfl
@[simp] theorem Warp.raiseFlags_tornCols (w : Warp) (x : BitVec 4) : (w.raiseFlags x).tornCols = w.tornCols := rfl
@[simp] theorem Warp.raiseFlags_trapNew (w : Warp) (x : BitVec 4) : (w.raiseFlags x).trapNew = w.trapNew := rfl

@[simp] theorem Warp.setSlot_v (w : Warp) (k : Nat) (x : Slot) : (w.setSlot k x).v = w.v := by rw [w.setSlot_eq]
@[simp] theorem Warp.setSlot_s (w : Warp) (k : Nat) (x : Slot) : (w.setSlot k x).s = w.s := by rw [w.setSlot_eq]
@[simp] theorem Warp.setSlot_p (w : Warp) (k : Nat) (x : Slot) : (w.setSlot k x).p = w.p := by rw [w.setSlot_eq]
@[simp] theorem Warp.setSlot_h (w : Warp) (k : Nat) (x : Slot) : (w.setSlot k x).h = w.h := by rw [w.setSlot_eq]
@[simp] theorem Warp.setSlot_c (w : Warp) (k : Nat) (x : Slot) : (w.setSlot k x).c = w.c := by rw [w.setSlot_eq]
@[simp] theorem Warp.setSlot_n (w : Warp) (k : Nat) (x : Slot) : (w.setSlot k x).n = w.n := by rw [w.setSlot_eq]
@[simp] theorem Warp.setSlot_lanes (w : Warp) (k : Nat) (x : Slot) : (w.setSlot k x).lanes = w.lanes := by
  rw [w.setSlot_eq]
@[simp] theorem Warp.setSlot_dstkSp (w : Warp) (k : Nat) (x : Slot) : (w.setSlot k x).dstkSp = w.dstkSp := by
  rw [w.setSlot_eq]
@[simp] theorem Warp.setSlot_accBase (w : Warp) (k : Nat) (x : Slot) : (w.setSlot k x).accBase = w.accBase := by
  rw [w.setSlot_eq]
@[simp] theorem Warp.setSlot_accLimit (w : Warp) (k : Nat) (x : Slot) : (w.setSlot k x).accLimit = w.accLimit := by
  rw [w.setSlot_eq]
@[simp] theorem Warp.setSlot_trapVec (w : Warp) (k : Nat) (x : Slot) : (w.setSlot k x).trapVec = w.trapVec := by
  rw [w.setSlot_eq]
@[simp] theorem Warp.setSlot_trapCause (w : Warp) (k : Nat) (x : Slot) : (w.setSlot k x).trapCause = w.trapCause := by
  rw [w.setSlot_eq]
@[simp] theorem Warp.setSlot_trapAddr (w : Warp) (k : Nat) (x : Slot) : (w.setSlot k x).trapAddr = w.trapAddr := by
  rw [w.setSlot_eq]
@[simp] theorem Warp.setSlot_trapPc (w : Warp) (k : Nat) (x : Slot) : (w.setSlot k x).trapPc = w.trapPc := by
  rw [w.setSlot_eq]
@[simp] theorem Warp.setSlot_podG (w : Warp) (k : Nat) (x : Slot) : (w.setSlot k x).podG = w.podG := by
  rw [w.setSlot_eq]
@[simp] theorem Warp.setSlot_pod (w : Warp) (k : Nat) (x : Slot) : (w.setSlot k x).pod = w.pod := by rw [w.setSlot_eq]
@[simp] theorem Warp.setSlot_flags (w : Warp) (k : Nat) (x : Slot) : (w.setSlot k x).flags = w.flags := by
  rw [w.setSlot_eq]
@[simp] theorem Warp.setSlot_flagsNew (w : Warp) (k : Nat) (x : Slot) : (w.setSlot k x).flagsNew = w.flagsNew := by
  rw [w.setSlot_eq]
@[simp] theorem Warp.setSlot_colScale (w : Warp) (k : Nat) (x : Slot) : (w.setSlot k x).colScale = w.colScale := by
  rw [w.setSlot_eq]
@[simp] theorem Warp.setSlot_topk (w : Warp) (k : Nat) (x : Slot) : (w.setSlot k x).topk = w.topk := by
  rw [w.setSlot_eq]
@[simp] theorem Warp.setSlot_ib (w : Warp) (k : Nat) (x : Slot) : (w.setSlot k x).ib = w.ib := by rw [w.setSlot_eq]
@[simp] theorem Warp.setSlot_batch (w : Warp) (k : Nat) (x : Slot) : (w.setSlot k x).batch = w.batch := by
  rw [w.setSlot_eq]
@[simp] theorem Warp.setSlot_serial (w : Warp) (k : Nat) (x : Slot) : (w.setSlot k x).serial = w.serial := by
  rw [w.setSlot_eq]
@[simp] theorem Warp.setSlot_failures (w : Warp) (k : Nat) (x : Slot) : (w.setSlot k x).failures = w.failures := by
  rw [w.setSlot_eq]
@[simp] theorem Warp.setSlot_ovlo (w : Warp) (k : Nat) (x : Slot) : (w.setSlot k x).ovlo = w.ovlo := by
  rw [w.setSlot_eq]
@[simp] theorem Warp.setSlot_ovhi (w : Warp) (k : Nat) (x : Slot) : (w.setSlot k x).ovhi = w.ovhi := by
  rw [w.setSlot_eq]
@[simp] theorem Warp.setSlot_nest (w : Warp) (k : Nat) (x : Slot) : (w.setSlot k x).nest = w.nest := by
  rw [w.setSlot_eq]
@[simp] theorem Warp.setSlot_frBarrier (w : Warp) (k : Nat) (x : Slot) : (w.setSlot k x).frBarrier = w.frBarrier := by
  rw [w.setSlot_eq]
@[simp] theorem Warp.setSlot_yieldUntil (w : Warp) (k : Nat) (x : Slot) : (w.setSlot k x).yieldUntil = w.yieldUntil := by
  rw [w.setSlot_eq]
@[simp] theorem Warp.setSlot_yielded (w : Warp) (k : Nat) (x : Slot) : (w.setSlot k x).yielded = w.yielded := by
  rw [w.setSlot_eq]
@[simp] theorem Warp.setSlot_behind (w : Warp) (k : Nat) (x : Slot) : (w.setSlot k x).behind = w.behind := by
  rw [w.setSlot_eq]
@[simp] theorem Warp.setSlot_lost (w : Warp) (k : Nat) (x : Slot) : (w.setSlot k x).lost = w.lost := by
  rw [w.setSlot_eq]
@[simp] theorem Warp.setSlot_readySince (w : Warp) (k : Nat) (x : Slot) : (w.setSlot k x).readySince = w.readySince := by
  rw [w.setSlot_eq]
@[simp] theorem Warp.setSlot_born (w : Warp) (k : Nat) (x : Slot) : (w.setSlot k x).born = w.born := by
  rw [w.setSlot_eq]
@[simp] theorem Warp.setSlot_haltPending (w : Warp) (k : Nat) (x : Slot) : (w.setSlot k x).haltPending = w.haltPending := by
  rw [w.setSlot_eq]
@[simp] theorem Warp.setSlot_torn (w : Warp) (k : Nat) (x : Slot) : (w.setSlot k x).torn = w.torn := by
  rw [w.setSlot_eq]
@[simp] theorem Warp.setSlot_tornCols (w : Warp) (k : Nat) (x : Slot) : (w.setSlot k x).tornCols = w.tornCols := by
  rw [w.setSlot_eq]
@[simp] theorem Warp.setSlot_trapNew (w : Warp) (k : Nat) (x : Slot) : (w.setSlot k x).trapNew = w.trapNew := by
  rw [w.setSlot_eq]

@[simp] theorem Warp.raiseFlags_flags (w : Warp) (x : BitVec 4) : (w.raiseFlags x).flags = w.flags ||| x := rfl
@[simp] theorem Warp.raiseFlags_flagsNew (w : Warp) (x : BitVec 4) :
    (w.raiseFlags x).flagsNew = w.flagsNew ||| x := rfl

end Sys2Proof.Machine
end

