-- ==== Sys2Proof/Laws/Regs.lean ====
section
/-! SUPPORT. Reading a register after a write of one (R42), and the lanes of a v register under a mask. -/
namespace Sys2Proof.Machine

@[simp] theorem Warp.getS_zero (w : Warp) : w.getS 0 = 0 := rfl
@[simp] theorem Warp.getP_zero (w : Warp) : w.getP 0 = BitVec.allOnes 64 := rfl
@[simp] theorem Warp.setS_zero (w : Warp) (x : Word) : w.setS 0 x = w := rfl
@[simp] theorem Warp.setP_zero (w : Warp) (x : Word) : w.setP 0 x = w := rfl

/-- s registers: the written one reads as the value, unless it is s0. -/
theorem Warp.getS_setS (w : Warp) (i j : Nat) (x : Word) :
    (w.setS i x).getS j = if i = j ∧ i ≠ 0 then x else w.getS j := by
  by_cases hi : i = 0
  · subst hi
    simp
  · by_cases hj : j = 0
    · subst hj
      simp [hi]
    · simp [Warp.setS, Warp.getS, hi, hj]

/-- p registers: the written one reads as the value, unless it is p0. -/
theorem Warp.getP_setP (w : Warp) (i j : Nat) (x : Word) :
    (w.setP i x).getP j = if i = j ∧ i ≠ 0 then x else w.getP j := by
  by_cases hi : i = 0
  · subst hi
    simp
  · by_cases hj : j = 0
    · subst hj
      simp [hi]
    · simp [Warp.setP, Warp.getP, hi, hj]

theorem Warp.getH_setH (w : Warp) (i j : Nat) (x : Handle) : (w.setH i x).getH j = if i = j then x else w.getH j := by
  simp [Warp.setH, Warp.getH]

theorem Warp.getC_setC (w : Warp) (i j : Nat) (x : Cap) :
    (w.setC i x).getC j = if i = j then regCap x else w.getC j := by
  simp [Warp.setC, Warp.getC]

theorem Warp.getN_setN (w : Warp) (i j : Nat) (x : BitVec 128) :
    (w.setN i x).getN j = if i = j then x else w.getN j := by
  simp [Warp.setN, Warp.getN]

/-- A lane of listed lanes. -/
theorem laneOf_lanesOf (f : Nat → Elem) (l : Nat) (h : l < 64) : laneOf (lanesOf f) l = f l := by
  simp [laneOf, lanesOf, List.getD, h]

/-- v registers: the lanes of the mask read as written, and every other lane and register as before (R141). -/
theorem Warp.getV_setV (w : Warp) (i j l : Nat) (m : Word) (f : Nat → Elem) (hl : l < 64) :
    (w.setV i m f).getV j l = if i = j ∧ m.getLsbD l = true then f l else w.getV j l := by
  by_cases hij : i = j
  · subst hij
    simp only [Warp.setV, Warp.getV, mapGet_set, if_true, true_and, blend]
    rw [laneOf_lanesOf _ _ hl]
    rfl
  · simp [Warp.setV, Warp.getV, hij]

/-- Pairs: both halves of a lane of the mask are written. -/
theorem Warp.getV2_setV2 (w : Warp) (i l : Nat) (m : Word) (f : Nat → Word) (hl : l < 64) (hm : m.getLsbD l = true) :
    (w.setV2 i m f).getV2 i l = f l := by
  simp only [Warp.getV2, Warp.setV2, Warp.getV_setV _ _ _ _ _ _ hl, hm, if_true, and_true]
  rw [if_neg (by omega : ¬i + 1 = i)]
  apply BitVec.eq_of_getLsbD_eq
  intro k hk
  simp only [BitVec.getLsbD_append, BitVec.getLsbD_extractLsb']
  by_cases h : k < 32
  · simp [h]
  · simp [h, show k - 32 < 32 by omega, show 32 + (k - 32) = k by omega]

theorem Warp.getV_setV2 (w : Warp) (i j l : Nat) (m : Word) (f : Nat → Word) (hl : l < 64)
    (h : (j ≠ i ∧ j ≠ i + 1) ∨ m.getLsbD l = false) : (w.setV2 i m f).getV j l = w.getV j l := by
  simp only [Warp.setV2, Warp.getV_setV _ _ _ _ _ _ hl]
  rcases h with ⟨h1, h2⟩ | h
  · rw [if_neg (by omega), if_neg (by omega)]
  · simp [h]

/-- Replacing one slot leaves the other. -/
@[simp] theorem Warp.slot_setSlot (w : Warp) (k j : Nat) (x : Slot) :
    (w.setSlot k x).slot j = if (k = 0 ↔ j = 0) then x else w.slot j := by
  unfold Warp.slot Warp.setSlot
  split <;> split <;> simp_all

@[simp] theorem Warp.getS_setSlot (w : Warp) (k i : Nat) (x : Slot) : (w.setSlot k x).getS i = w.getS i := by
  simp [Warp.getS]
@[simp] theorem Warp.getP_setSlot (w : Warp) (k i : Nat) (x : Slot) : (w.setSlot k x).getP i = w.getP i := by
  simp [Warp.getP]
@[simp] theorem Warp.getC_setSlot (w : Warp) (k i : Nat) (x : Slot) : (w.setSlot k x).getC i = w.getC i := by
  simp [Warp.getC]
@[simp] theorem Warp.getH_setSlot (w : Warp) (k i : Nat) (x : Slot) : (w.setSlot k x).getH i = w.getH i := by
  simp [Warp.getH]
@[simp] theorem Warp.getN_setSlot (w : Warp) (k i : Nat) (x : Slot) : (w.setSlot k x).getN i = w.getN i := by
  simp [Warp.getN]
@[simp] theorem Warp.getV_setSlot (w : Warp) (k i l : Nat) (x : Slot) : (w.setSlot k x).getV i l = w.getV i l := by
  simp [Warp.getV]

/-- Writing a warp back is seen at its key alone. -/
theorem State.find_putWarp (s : State) (a b : Nat) (w : Warp) :
    mapFind (s.putWarp a w).warps b = if a = b then some w else mapFind s.warps b := by
  simp

theorem State.block_modBlock (s : State) (a b : Nat) (f : Block → Block) (h : mapFind s.blocks a ≠ none) :
    (s.modBlock a f).block b = if a = b then f (s.block a) else s.block b := by
  simp only [State.block, State.modBlock, mapFind_modify]
  split
  · cases hx : mapFind s.blocks a with
    | none => exact absurd hx h
    | some x => simp
  · rfl

theorem State.core_putCore (s : State) (a b : Nat) (c : Core) :
    (s.putCore a c).core b = if a = b then c else s.core b := by
  simp [State.core]

theorem State.sectors_putSectors (s : State) (a b : Nat) (l : List Sector) :
    (s.putSectors a l).sectors b = if a = b then l else s.sectors b := by
  simp [State.sectors]

end Sys2Proof.Machine
end

