-- ==== Sys2Proof/Laws/Memory.lean ====
section
/-! SUPPORT. Physical memory and the scratchpad under writes of bytes: what each byte reads as, and the canonical form. -/
namespace Sys2Proof.Machine

@[simp] theorem MemSys.byte_setByte (m : MemSys) (a b : Nat) (x : Byte) :
    (m.setByte a x).byte b = if a = b then x else m.byte b := by
  simp [MemSys.byte, MemSys.setByte]

theorem MemSys.wf_setByte (m : MemSys) (a : Nat) (x : Byte) (h : m.wf = true) : (m.setByte a x).wf = true :=
  mapWf_set a x h

/-- Every byte after bytes are stored from an address up. -/
theorem MemSys.byte_store : ∀ (l : List Byte) (m : MemSys) (a b : Nat),
    (m.store a l).byte b = if a ≤ b ∧ b < a + l.length then l.getD (b - a) 0 else m.byte b
  | [], m, a, b => by
    rw [if_neg (by simp only [List.length_nil]; omega)]
    rfl
  | x :: r, m, a, b => by
    simp only [MemSys.store, MemSys.byte_store r, MemSys.byte_setByte, List.length_cons]
    by_cases h1 : a = b
    · subst h1
      rw [if_neg (by omega), if_pos rfl, if_pos (by omega)]
      simp
    · by_cases h2 : a + 1 ≤ b ∧ b < a + 1 + r.length
      · rw [if_pos h2, if_pos (by omega), show b - a = (b - (a + 1)) + 1 by omega]
        simp
      · rw [if_neg h2, if_neg h1, if_neg (by omega)]

theorem MemSys.wf_store : ∀ (l : List Byte) (m : MemSys) (a : Nat), m.wf = true → (m.store a l).wf = true
  | [], _, _, h => h
  | x :: r, m, a, h => MemSys.wf_store r _ _ (m.wf_setByte a x h)

/-- The bytes read from an address up are the bytes there. -/
theorem MemSys.read_getD (m : MemSys) : ∀ (n a i : Nat), i < n → (m.read a n).getD i 0 = m.byte (a + i)
  | 0, _, _, h => by omega
  | n + 1, a, 0, _ => by simp [MemSys.read]
  | n + 1, a, i + 1, h => by
    simp only [MemSys.read, List.getD_cons_succ]
    rw [m.read_getD n (a + 1) i (by omega), show a + 1 + i = a + (i + 1) by omega]

@[simp] theorem MemSys.length_read (m : MemSys) : ∀ (n a : Nat), (m.read a n).length = n
  | 0, _ => rfl
  | n + 1, a => by simp [MemSys.read, m.length_read n]

theorem MemSys.store_l1 : ∀ (l : List Byte) (m : MemSys) (a : Nat), (m.store a l).l1 = m.l1
  | [], _, _ => rfl
  | _ :: r, _, _ => MemSys.store_l1 r _ _

/-- What a write to open lines leaves alone. -/
theorem State.put_keeps (s : State) (a : Nat) (l : List Byte) :
    (s.put a l).mem.bytes = (s.mem.store a l).bytes ∧ (s.put a l).mem.l1 = s.mem.l1 ∧
    (s.put a l).warps = s.warps ∧ (s.put a l).blocks = s.blocks := by
  cases l with
  | nil => exact ⟨rfl, rfl, rfl, rfl⟩
  | cons x r => exact ⟨rfl, MemSys.store_l1 (x :: r) s.mem a, rfl, rfl⟩

/-- Every byte after a write to open lines. -/
theorem State.byte_put (s : State) (a b : Nat) (l : List Byte) :
    (s.put a l).mem.byte b = if a ≤ b ∧ b < a + l.length then l.getD (b - a) 0 else s.mem.byte b := by
  rw [← MemSys.byte_store]
  simp only [MemSys.byte, (s.put_keeps a l).1]

theorem State.memOk_put (s : State) (a : Nat) (l : List Byte) (h : s.memOk) : (s.put a l).memOk := by
  simp only [State.memOk, MemSys.wf, (s.put_keeps a l).1]
  exact MemSys.wf_store l s.mem a h

/-- Two states differ neither in warps and blocks nor in the L1s. -/
def Beside (s t : State) : Prop := t.mem.l1 = s.mem.l1 ∧ t.warps = s.warps ∧ t.blocks = s.blocks

theorem Beside.trans {s t u : State} (h : Beside s t) (g : Beside t u) : Beside s u :=
  ⟨g.1.trans h.1, g.2.1.trans h.2.1, g.2.2.trans h.2.2⟩

/-- A step beside warps, blocks and the L1s that keeps the canonical form of memory. -/
def Keeps (s t : State) : Prop := Beside s t ∧ (s.memOk → t.memOk)

theorem Keeps.refl (s : State) : Keeps s s := ⟨⟨rfl, rfl, rfl⟩, id⟩

theorem Keeps.trans {s t u : State} (h : Keeps s t) (g : Keeps t u) : Keeps s u :=
  ⟨h.1.trans g.1, fun x => g.2 (h.2 x)⟩

theorem Keeps.foldl {α : Type} (f : State → α → State) (hf : ∀ t x, Keeps t (f t x)) (s : State) (l : List α) :
    Keeps s (l.foldl f s) :=
  List.foldlRecOn (motive := fun t => Keeps s t) l f (Keeps.refl s) fun t h x _ => h.trans (hf t x)

theorem State.put_keep (s : State) (a : Nat) (l : List Byte) : Keeps s (s.put a l) :=
  ⟨(s.put_keeps a l).2, s.memOk_put a l⟩

/-- A line that breaks changes no stored byte. -/
theorem State.breakLine_keeps (s : State) (u : Nat) : Keeps s (s.breakLine u) := ⟨⟨rfl, rfl, rfl⟩, id⟩

/-- Writing lines back from the L2 changes no byte. -/
theorem State.trimL2_keeps (s : State) : Beside s s.trimL2 ∧ s.trimL2.mem.bytes = s.mem.bytes := by
  let P : State → Prop := fun t => Beside s t ∧ t.mem.bytes = s.mem.bytes
  have drop : ∀ (t : State) (l : List Nat), P t → P (l.foldl (fun t u => t.cleanLines (128 * u) 128) t) :=
    fun t l h => List.foldlRecOn (motive := P) l _ h fun _ h _ _ => h
  have hs : P s := ⟨⟨rfl, rfl, rfl⟩, rfl⟩
  unfold State.trimL2
  generalize l2Lines = n
  exact List.foldlRecOn (motive := P) _ _ (drop s _ hs) fun t h _ _ => drop t _ h

/-- What a write to open lines leaves alone, and the canonical form that it keeps. -/
theorem State.putHome_keeps (s : State) (a : Nat) (l : List Byte) : Keeps s (s.putHome a l) := by
  unfold State.putHome
  split
  · exact Keeps.refl s
  · obtain ⟨hb, hm⟩ := (s.put a l).trimL2_keeps
    exact (s.put_keep a l).trans ⟨hb, fun h => by simpa only [State.memOk, MemSys.wf, hm] using h⟩

theorem State.ringWrite_keeps (s : State) (a : Nat) (l : List Byte) : Keeps s (s.ringWrite a l) :=
  (Keeps.foldl _ State.breakLine_keeps s _).trans (State.putHome_keeps _ _ _)

/-- An error record goes to the error ring alone. -/
theorem State.errorRecord_keeps (s : State) (cls code ctx : Nat) (p : Option (Nat × BitVec 32 × BitVec 32))
    (d0 d1 : Word) : Keeps s (s.errorRecord cls code ctx p d0 d1) := by
  unfold State.errorRecord
  dsimp only
  split
  · exact Keeps.refl s
  · generalize hr : s.ringWrite _ _ = r
    have h : Keeps s r := hr ▸ s.ringWrite_keeps _ _
    exact h.trans ⟨⟨rfl, rfl, rfl⟩, id⟩

theorem State.sealError_keeps (s : State) (pa husk : Nat) (e : Bool) : Keeps s (s.sealError pa husk e) := by
  unfold State.sealError State.memError
  generalize ht : s.errorRecord 0x07 0x05 0xFFF none _ _ = t
  have h : Keeps s t := ht ▸ s.errorRecord_keeps ..
  have hu : Keeps t { t with health := { t.health with uncorrected := t.health.uncorrected + 1 } } :=
    ⟨⟨rfl, rfl, rfl⟩, id⟩
  exact (h.trans hu).trans (State.errorRecord_keeps ..)

/-- Opening a husk's line records a seal that does not match, and changes no stored byte but the error ring's. -/
theorem State.openLine_keeps (s : State) (line : Nat) : Keeps s (s.openLine line) := by
  unfold State.openLine
  split
  · exact Keeps.refl s
  · exact (s.sealError_keeps ..).trans (State.breakLine_keeps _ _)

/-- A line that no husk holds needs no opening. -/
theorem State.openLine_free (s : State) (line : Nat) (h : (s.owner (line / 512)).state ≠ 1) : s.openLine line = s := by
  simp [State.openLine, State.lineOpen, h]

/-- What a write at the home slices leaves alone, and the canonical form that it keeps. -/
theorem State.physWrite_keeps (s : State) (a : Nat) (l : List Byte) :
    Beside s (s.physWrite a l) ∧ (s.memOk → (s.physWrite a l).memOk) := by
  unfold State.physWrite
  split
  · exact Keeps.refl s
  · exact (Keeps.foldl _ State.openLine_keeps s _).trans (State.putHome_keeps _ _ _)

theorem State.memOk_physWrite (s : State) (a : Nat) (l : List Byte) (h : s.memOk) : (s.physWrite a l).memOk :=
  (s.physWrite_keeps a l).2 h

/-- Every byte after a write at the home slices, where memory is, the device keeps no table of its own there and no husk
holds a line of it. -/
theorem State.byte_physWrite (s : State) (a b : Nat) (l : List Byte) (hn : a + l.length ≤ memBytes)
    (ht : s.inTables a = false)
    (ho : ∀ u ∈ partLines a l.length, (s.owner (u / 512)).state ≠ 1) :
    (s.physWrite a l).mem.byte b = if a ≤ b ∧ b < a + l.length then l.getD (b - a) 0 else s.mem.byte b := by
  have hf : (partLines a l.length).foldl (fun s u => s.openLine u) s = s :=
    List.foldlRecOn (motive := (· = s)) _ _ rfl fun t ht u hu => by rw [ht, s.openLine_free u (ho u hu)]
  have hg : ¬(memBytes < a + l.length ∨ s.inTables a = true) := not_or.mpr ⟨by omega, by simp [ht]⟩
  rw [State.physWrite, if_neg hg, hf, State.putHome, if_neg hg, ← State.byte_put]
  simp only [MemSys.byte, ((s.put a l).trimL2_keeps).2]

/-- A byte of the scratchpad after one is written. -/
theorem Block.scratchByte_one (b : Block) (o i : Nat) (x : Byte) :
    ({ b with scratch := mapPut b.scratch o x } : Block).scratchByte i = if o = i then x else b.scratchByte i := by
  simp only [Block.scratchByte, Block.scratchRest, mapFind_put]
  by_cases h : o = i
  · simp only [h, if_true]
  · simp only [h, if_false]

/-- Every byte of the scratchpad after bytes are written from an offset up. -/
theorem Block.scratchByte_write : ∀ (l : List Byte) (b : Block) (o i : Nat),
    (b.scratchWrite o l).scratchByte i = if o ≤ i ∧ i < o + l.length then l.getD (i - o) 0 else b.scratchByte i
  | [], b, o, i => by
    rw [if_neg (by simp only [List.length_nil]; omega)]
    rfl
  | x :: r, b, o, i => by
    simp only [Block.scratchWrite, Block.scratchByte_write r, List.length_cons]
    by_cases h1 : o = i
    · subst h1
      rw [if_neg (by omega), if_pos (by omega)]
      simp [Block.scratchByte_one]
    · by_cases h2 : o + 1 ≤ i ∧ i < o + 1 + r.length
      · rw [if_pos h2, if_pos (by omega), show i - o = (i - (o + 1)) + 1 by omega]
        simp
      · rw [if_neg h2, if_neg (by omega)]
        rw [Block.scratchByte_one, if_neg h1]

/-- The bytes of a number, lowest first, and back (R3). -/
@[simp] theorem length_leBytes : ∀ (n x : Nat), (leBytes n x).length = n
  | 0, _ => rfl
  | n + 1, x => by simp [leBytes, length_leBytes n]

theorem leNat_leBytes : ∀ (n x : Nat), leNat (leBytes n x) = x % 256 ^ n
  | 0, x => by simp [leBytes, leNat, Nat.mod_one]
  | n + 1, x => by
    simp only [leBytes, leNat, leNat_leBytes n, BitVec.toNat_ofNat]
    rw [pow_succ' 256 n, Nat.mod_mul]

theorem leNat_lt : ∀ l : List Byte, leNat l < 256 ^ l.length
  | [] => by simp [leNat]
  | b :: r => by
    have := leNat_lt r
    have := b.isLt
    simp only [leNat, List.length_cons, Nat.pow_succ]
    omega

end Sys2Proof.Machine
end

