-- ==== Sys2Proof/Laws/PerInstr.lean ====
section
/-! SUPPORT. For each instruction: the codes that its encoding gives select its constructor again, and the forms that its
encoding admits are those that can carry them. -/
namespace Sys2Proof.Laws.Selects

open Sys2Proof.Machine

/-- The codes of an instruction's encoding select it. -/
def Statement (i : Instr) : Prop :=
  (∀ f g, nativeSig i = some (f, g) → frSig i = none ∧ g.op < 64 ∧ g.fn.getD 0 < 256 ∧
    (g.legal = true → nativeCtor g.op (g.fn.getD 0) f = some i ∧ (g.fn.isSome = true → f.form ≠ .base ∧ f.form ≠ .lit) ∧
      (0x28 ≤ g.op → g.fn.isSome = true))) ∧
  ∀ f g, frSig i = some (f, g) → nativeSig i = none ∧ g.fop < 256 ∧ frCtor g.fop f = some i

theorem ext_forms {f : Fields} (h : xf f = true) : f.form ≠ .base ∧ f.form ≠ .lit := by
  simp only [xf, decide_eq_true_eq] at h
  simp [h]

theorem either_forms {f : Fields} (h : (xf f || decide (f.form = .extLit)) = true) : f.form ≠ .base ∧ f.form ≠ .lit := by
  rcases (by simpa [xf] using h : f.form = .ext ∨ f.form = .extLit) with h | h <;> simp [h]

theorem lit_forms {f : Fields} (h : decide (f.form = .extLit) = true) : f.form ≠ .base ∧ f.form ≠ .lit := by
  simp only [decide_eq_true_eq] at h
  simp [h]

theorem mod_of {f : Fields} {k : Nat} (h : modIn f [k] = true) : f.mod.toNat = k := by
  simpa [modIn] using h

/-- An instruction of a group with an own FN. -/
theorem group {i : Instr} {f : Fields} {g : Sig} (hn : nativeSig i = some (f, g)) (hr : frSig i = none)
    (ho : g.op < 64) (hf : g.fn.getD 0 < 256) (hs : g.fn.isSome = true)
    (hc : g.legal = true → nativeCtor g.op (g.fn.getD 0) f = some i)
    (hl : g.legal = true → f.form ≠ .base ∧ f.form ≠ .lit) : Statement i := by
  refine ⟨fun f' g' h => ?_, fun f' g' h => ?_⟩
  · rw [hn] at h
    cases h
    exact ⟨hr, ho, hf, fun h => ⟨hc h, fun _ => hl h, fun _ => hs⟩⟩
  · rw [hr] at h
    cases h

/-- An instruction under a base major. -/
theorem base {i : Instr} {f : Fields} {g : Sig} (hn : nativeSig i = some (f, g)) (hr : frSig i = none)
    (ho : g.op < 0x28) (hf : g.fn = none) (hc : nativeCtor g.op 0 f = some i) : Statement i := by
  refine ⟨fun f' g' h => ?_, fun f' g' h => ?_⟩
  · rw [hn] at h
    cases h
    simp only [hf, Option.getD_none, Option.isSome_none]
    exact ⟨hr, by omega, by omega, fun _ => ⟨hc, by simp, by omega⟩⟩
  · rw [hr] at h
    cases h

/-- A forerunner instruction. -/
theorem forerunner {i : Instr} {f : FrFields} {g : FrSig} (hn : nativeSig i = none) (hr : frSig i = some (f, g))
    (ho : g.fop < 256) (hc : frCtor g.fop f = some i) : Statement i := by
  refine ⟨fun f' g' h => ?_, fun f' g' h => ?_⟩
  · rw [hn] at h
    cases h
  · rw [hr] at h
    cases h
    exact ⟨hn, ho, hc⟩

/-- A packet, an event or a frame has no encoding. -/
theorem event {i : Instr} (hn : nativeSig i = none) (hr : frSig i = none) : Statement i :=
  ⟨fun _ _ h => (nomatch hn.symm.trans h), fun _ _ h => (nomatch hr.symm.trans h)⟩

theorem sadd (f : Fields) : Statement (.sadd f) := base rfl rfl (Nat.le_of_ble_eq_true rfl) rfl rfl
theorem ssub (f : Fields) : Statement (.ssub f) := base rfl rfl (Nat.le_of_ble_eq_true rfl) rfl rfl
theorem smul (f : Fields) : Statement (.smul f) := base rfl rfl (Nat.le_of_ble_eq_true rfl) rfl rfl
theorem smulh (f : Fields) : Statement (.smulh f) := base rfl rfl (Nat.le_of_ble_eq_true rfl) rfl rfl
theorem sand (f : Fields) : Statement (.sand f) := base rfl rfl (Nat.le_of_ble_eq_true rfl) rfl rfl
theorem sor (f : Fields) : Statement (.sor f) := base rfl rfl (Nat.le_of_ble_eq_true rfl) rfl rfl
theorem sxor (f : Fields) : Statement (.sxor f) := base rfl rfl (Nat.le_of_ble_eq_true rfl) rfl rfl
theorem sshl (f : Fields) : Statement (.sshl f) := base rfl rfl (Nat.le_of_ble_eq_true rfl) rfl rfl
theorem sshr (f : Fields) : Statement (.sshr f) := base rfl rfl (Nat.le_of_ble_eq_true rfl) rfl rfl
theorem ssra (f : Fields) : Statement (.ssra f) := base rfl rfl (Nat.le_of_ble_eq_true rfl) rfl rfl
theorem smin (f : Fields) : Statement (.smin f) := base rfl rfl (Nat.le_of_ble_eq_true rfl) rfl rfl
theorem smax (f : Fields) : Statement (.smax f) := base rfl rfl (Nat.le_of_ble_eq_true rfl) rfl rfl
theorem smov (f : Fields) : Statement (.smov f) := base rfl rfl (Nat.le_of_ble_eq_true rfl) rfl rfl
theorem srot (f : Fields) : Statement (.srot f) := base rfl rfl (Nat.le_of_ble_eq_true rfl) rfl rfl
theorem sdiv (f : Fields) : Statement (.sdiv f) := base rfl rfl (Nat.le_of_ble_eq_true rfl) rfl rfl
theorem srem (f : Fields) : Statement (.srem f) := base rfl rfl (Nat.le_of_ble_eq_true rfl) rfl rfl
theorem vadd (f : Fields) : Statement (.vadd f) := base rfl rfl (Nat.le_of_ble_eq_true rfl) rfl rfl
theorem vsub (f : Fields) : Statement (.vsub f) := base rfl rfl (Nat.le_of_ble_eq_true rfl) rfl rfl
theorem vmul (f : Fields) : Statement (.vmul f) := base rfl rfl (Nat.le_of_ble_eq_true rfl) rfl rfl
theorem vmulh (f : Fields) : Statement (.vmulh f) := base rfl rfl (Nat.le_of_ble_eq_true rfl) rfl rfl
theorem vand (f : Fields) : Statement (.vand f) := base rfl rfl (Nat.le_of_ble_eq_true rfl) rfl rfl
theorem vor (f : Fields) : Statement (.vor f) := base rfl rfl (Nat.le_of_ble_eq_true rfl) rfl rfl
theorem vxor (f : Fields) : Statement (.vxor f) := base rfl rfl (Nat.le_of_ble_eq_true rfl) rfl rfl
theorem vshl (f : Fields) : Statement (.vshl f) := base rfl rfl (Nat.le_of_ble_eq_true rfl) rfl rfl
theorem vshr (f : Fields) : Statement (.vshr f) := base rfl rfl (Nat.le_of_ble_eq_true rfl) rfl rfl
theorem vsra (f : Fields) : Statement (.vsra f) := base rfl rfl (Nat.le_of_ble_eq_true rfl) rfl rfl
theorem vmin (f : Fields) : Statement (.vmin f) := base rfl rfl (Nat.le_of_ble_eq_true rfl) rfl rfl
theorem vmax (f : Fields) : Statement (.vmax f) := base rfl rfl (Nat.le_of_ble_eq_true rfl) rfl rfl
theorem vmov (f : Fields) : Statement (.vmov f) := base rfl rfl (Nat.le_of_ble_eq_true rfl) rfl rfl
theorem fadd (f : Fields) : Statement (.fadd f) := base rfl rfl (Nat.le_of_ble_eq_true rfl) rfl rfl
theorem fsub (f : Fields) : Statement (.fsub f) := base rfl rfl (Nat.le_of_ble_eq_true rfl) rfl rfl
theorem fmul (f : Fields) : Statement (.fmul f) := base rfl rfl (Nat.le_of_ble_eq_true rfl) rfl rfl
theorem fmin (f : Fields) : Statement (.fmin f) := base rfl rfl (Nat.le_of_ble_eq_true rfl) rfl rfl
theorem fmax (f : Fields) : Statement (.fmax f) := base rfl rfl (Nat.le_of_ble_eq_true rfl) rfl rfl
theorem pand (f : Fields) : Statement (.pand f) := base rfl rfl (Nat.le_of_ble_eq_true rfl) rfl rfl
theorem por (f : Fields) : Statement (.por f) := base rfl rfl (Nat.le_of_ble_eq_true rfl) rfl rfl
theorem pxor (f : Fields) : Statement (.pxor f) := base rfl rfl (Nat.le_of_ble_eq_true rfl) rfl rfl
theorem pandn (f : Fields) : Statement (.pandn f) := base rfl rfl (Nat.le_of_ble_eq_true rfl) rfl rfl
theorem hadd2 (f : Fields) : Statement (.hadd2 f) := base rfl rfl (Nat.le_of_ble_eq_true rfl) rfl rfl
theorem hmul2 (f : Fields) : Statement (.hmul2 f) := base rfl rfl (Nat.le_of_ble_eq_true rfl) rfl rfl
theorem sclz (f : Fields) : Statement (.sclz f) := group rfl rfl (Nat.le_of_ble_eq_true rfl) (Nat.le_of_ble_eq_true rfl) rfl
  (fun _ => rfl)
  (fun h => ext_forms (Bool.and_elim_left h))
theorem spopc (f : Fields) : Statement (.spopc f) := group rfl rfl (Nat.le_of_ble_eq_true rfl) (Nat.le_of_ble_eq_true rfl) rfl
  (fun _ => rfl)
  (fun h => ext_forms (Bool.and_elim_left h))
theorem sbfe (f : Fields) : Statement (.sbfe f) := group rfl rfl (Nat.le_of_ble_eq_true rfl) (Nat.le_of_ble_eq_true rfl) rfl
  (fun _ => rfl)
  (fun h => ext_forms (Bool.and_elim_left h))
theorem sbfi (f : Fields) : Statement (.sbfi f) := group rfl rfl (Nat.le_of_ble_eq_true rfl) (Nat.le_of_ble_eq_true rfl) rfl
  (fun _ => rfl)
  (fun h => ext_forms (Bool.and_elim_left h))
theorem ssel (f : Fields) : Statement (.ssel f) := group rfl rfl (Nat.le_of_ble_eq_true rfl) (Nat.le_of_ble_eq_true rfl) rfl
  (fun _ => rfl)
  (fun h => ext_forms (Bool.and_elim_left h))
theorem sli (f : Fields) : Statement (.sli f) := group rfl rfl (Nat.le_of_ble_eq_true rfl) (Nat.le_of_ble_eq_true rfl) rfl
  (fun _ => rfl)
  (fun h => either_forms (Bool.and_elim_left (Bool.and_elim_left h)))
theorem slea (f : Fields) : Statement (.slea f) := group rfl rfl (Nat.le_of_ble_eq_true rfl) (Nat.le_of_ble_eq_true rfl) rfl
  (fun _ => rfl)
  (fun h => either_forms (Bool.and_elim_left (Bool.and_elim_left h)))
theorem scmp (f : Fields) : Statement (.scmp f) := group rfl rfl (Nat.le_of_ble_eq_true rfl) (Nat.le_of_ble_eq_true rfl) rfl
  (fun _ => rfl)
  (fun h => either_forms (Bool.and_elim_left (Bool.and_elim_left (Bool.and_elim_left h))))
theorem pnot (f : Fields) : Statement (.pnot f) := group rfl rfl (Nat.le_of_ble_eq_true rfl) (Nat.le_of_ble_eq_true rfl) rfl
  (fun _ => rfl)
  (fun h => ext_forms (Bool.and_elim_left h))
theorem pmov (f : Fields) : Statement (.pmov f) := group rfl rfl (Nat.le_of_ble_eq_true rfl) (Nat.le_of_ble_eq_true rfl) rfl
  (fun _ => rfl)
  (fun h => ext_forms (Bool.and_elim_left h))
theorem pset (f : Fields) : Statement (.pset f) := group rfl rfl (Nat.le_of_ble_eq_true rfl) (Nat.le_of_ble_eq_true rfl) rfl
  (fun _ => rfl)
  (fun h => ext_forms (Bool.and_elim_left h))
theorem pcnt (f : Fields) : Statement (.pcnt f) := group rfl rfl (Nat.le_of_ble_eq_true rfl) (Nat.le_of_ble_eq_true rfl) rfl
  (fun _ => rfl)
  (fun h => ext_forms (Bool.and_elim_left h))
theorem pff (f : Fields) : Statement (.pff f) := group rfl rfl (Nat.le_of_ble_eq_true rfl) (Nat.le_of_ble_eq_true rfl) rfl
  (fun _ => rfl)
  (fun h => ext_forms (Bool.and_elim_left h))
theorem bra (f : Fields) : Statement (.bra f) := group rfl rfl (Nat.le_of_ble_eq_true rfl) (Nat.le_of_ble_eq_true rfl) rfl
  (fun _ => rfl)
  (fun h => either_forms (Bool.and_elim_left h))
theorem brc (f : Fields) : Statement (.brc f) := group rfl rfl (Nat.le_of_ble_eq_true rfl) (Nat.le_of_ble_eq_true rfl) rfl
  (fun _ => rfl)
  (fun h => either_forms (Bool.and_elim_left h))
theorem brv (f : Fields) : Statement (.brv f) := group rfl rfl (Nat.le_of_ble_eq_true rfl) (Nat.le_of_ble_eq_true rfl) rfl
  (fun _ => rfl)
  (fun h => ext_forms h)
theorem rcv (f : Fields) : Statement (.rcv f) := group rfl rfl (Nat.le_of_ble_eq_true rfl) (Nat.le_of_ble_eq_true rfl) rfl
  (fun _ => rfl)
  (fun h => ext_forms (Bool.and_elim_left h))
theorem call (f : Fields) : Statement (.call f) := group rfl rfl (Nat.le_of_ble_eq_true rfl) (Nat.le_of_ble_eq_true rfl) rfl
  (fun _ => rfl)
  (fun h => either_forms (Bool.and_elim_left h))
theorem callx (f : Fields) : Statement (.callx f) := group rfl rfl (Nat.le_of_ble_eq_true rfl) (Nat.le_of_ble_eq_true rfl) rfl
  (fun _ => rfl)
  (fun h => ext_forms (Bool.and_elim_left h))
theorem ret (f : Fields) : Statement (.ret f) := group rfl rfl (Nat.le_of_ble_eq_true rfl) (Nat.le_of_ble_eq_true rfl) rfl
  (fun _ => rfl)
  (fun h => ext_forms (Bool.and_elim_left h))
theorem jmpx (f : Fields) : Statement (.jmpx f) := group rfl rfl (Nat.le_of_ble_eq_true rfl) (Nat.le_of_ble_eq_true rfl) rfl
  (fun _ => rfl)
  (fun h => ext_forms (Bool.and_elim_left h))
theorem exit (f : Fields) : Statement (.exit f) := group rfl rfl (Nat.le_of_ble_eq_true rfl) (Nat.le_of_ble_eq_true rfl) rfl
  (fun _ => rfl)
  (fun h => ext_forms (Bool.and_elim_left h))
theorem nop (f : Fields) : Statement (.nop f) := group rfl rfl (Nat.le_of_ble_eq_true rfl) (Nat.le_of_ble_eq_true rfl) rfl
  (fun _ => rfl)
  (fun h => ext_forms (Bool.and_elim_left h))
theorem yld (f : Fields) : Statement (.yld f) := group rfl rfl (Nat.le_of_ble_eq_true rfl) (Nat.le_of_ble_eq_true rfl) rfl
  (fun _ => rfl)
  (fun h => ext_forms (Bool.and_elim_left h))
theorem dpsh (f : Fields) : Statement (.dpsh f) := group rfl rfl (Nat.le_of_ble_eq_true rfl) (Nat.le_of_ble_eq_true rfl) rfl
  (fun _ => rfl)
  (fun h => ext_forms (Bool.and_elim_left h))
theorem dpop (f : Fields) : Statement (.dpop f) := group rfl rfl (Nat.le_of_ble_eq_true rfl) (Nat.le_of_ble_eq_true rfl) rfl
  (fun _ => rfl)
  (fun h => ext_forms (Bool.and_elim_left h))
theorem bkpt (f : Fields) : Statement (.bkpt f) := group rfl rfl (Nat.le_of_ble_eq_true rfl) (Nat.le_of_ble_eq_true rfl) rfl
  (fun _ => rfl)
  (fun h => ext_forms (Bool.and_elim_left h))
theorem trap (f : Fields) : Statement (.trap f) := group rfl rfl (Nat.le_of_ble_eq_true rfl) (Nat.le_of_ble_eq_true rfl) rfl
  (fun _ => rfl)
  (fun h => ext_forms (Bool.and_elim_left h))
theorem rtt (f : Fields) : Statement (.rtt f) := group rfl rfl (Nat.le_of_ble_eq_true rfl) (Nat.le_of_ble_eq_true rfl) rfl
  (fun _ => rfl)
  (fun h => ext_forms (Bool.and_elim_left h))
theorem csrr (f : Fields) : Statement (.csrr f) := group rfl rfl (Nat.le_of_ble_eq_true rfl) (Nat.le_of_ble_eq_true rfl) rfl
  (fun _ => rfl)
  (fun h => ext_forms (Bool.and_elim_left (Bool.and_elim_left (Bool.and_elim_left h))))
theorem csrw (f : Fields) : Statement (.csrw f) := group rfl rfl (Nat.le_of_ble_eq_true rfl) (Nat.le_of_ble_eq_true rfl) rfl
  (fun _ => rfl)
  (fun h => ext_forms (Bool.and_elim_left (Bool.and_elim_left h)))
theorem clock (f : Fields) : Statement (.clock f) := group rfl rfl (Nat.le_of_ble_eq_true rfl) (Nat.le_of_ble_eq_true rfl) rfl
  (fun _ => rfl)
  (fun h => ext_forms (Bool.and_elim_left h))
theorem vmad (f : Fields) : Statement (.vmad f) := group rfl rfl (Nat.le_of_ble_eq_true rfl) (Nat.le_of_ble_eq_true rfl) rfl
  (fun _ => rfl)
  (fun h => ext_forms (Bool.and_elim_left h))
theorem vabs (f : Fields) : Statement (.vabs f) := group rfl rfl (Nat.le_of_ble_eq_true rfl) (Nat.le_of_ble_eq_true rfl) rfl
  (fun _ => rfl)
  (fun h => ext_forms (Bool.and_elim_left h))
theorem vneg (f : Fields) : Statement (.vneg f) := group rfl rfl (Nat.le_of_ble_eq_true rfl) (Nat.le_of_ble_eq_true rfl) rfl
  (fun _ => rfl)
  (fun h => ext_forms (Bool.and_elim_left h))
theorem vclz (f : Fields) : Statement (.vclz f) := group rfl rfl (Nat.le_of_ble_eq_true rfl) (Nat.le_of_ble_eq_true rfl) rfl
  (fun _ => rfl)
  (fun h => ext_forms (Bool.and_elim_left h))
theorem vpopc (f : Fields) : Statement (.vpopc f) := group rfl rfl (Nat.le_of_ble_eq_true rfl) (Nat.le_of_ble_eq_true rfl) rfl
  (fun _ => rfl)
  (fun h => ext_forms (Bool.and_elim_left h))
theorem vbfe (f : Fields) : Statement (.vbfe f) := group rfl rfl (Nat.le_of_ble_eq_true rfl) (Nat.le_of_ble_eq_true rfl) rfl
  (fun _ => rfl)
  (fun h => ext_forms (Bool.and_elim_left h))
theorem vbfi (f : Fields) : Statement (.vbfi f) := group rfl rfl (Nat.le_of_ble_eq_true rfl) (Nat.le_of_ble_eq_true rfl) rfl
  (fun _ => rfl)
  (fun h => ext_forms (Bool.and_elim_left h))
theorem vsel (f : Fields) : Statement (.vsel f) := group rfl rfl (Nat.le_of_ble_eq_true rfl) (Nat.le_of_ble_eq_true rfl) rfl
  (fun _ => rfl)
  (fun h => ext_forms (Bool.and_elim_left h))
theorem vcmp (f : Fields) : Statement (.vcmp f) := group rfl rfl (Nat.le_of_ble_eq_true rfl) (Nat.le_of_ble_eq_true rfl) rfl
  (fun _ => rfl)
  (fun h => either_forms (Bool.and_elim_left (Bool.and_elim_left (Bool.and_elim_left h))))
theorem vbcst (f : Fields) : Statement (.vbcst f) := group rfl rfl (Nat.le_of_ble_eq_true rfl) (Nat.le_of_ble_eq_true rfl) rfl
  (fun _ => rfl)
  (fun h => either_forms (Bool.and_elim_left (Bool.and_elim_left h)))
theorem vshf (f : Fields) : Statement (.vshf f) := group rfl rfl (Nat.le_of_ble_eq_true rfl) (Nat.le_of_ble_eq_true rfl) rfl
  (fun _ => rfl)
  (fun h => ext_forms (Bool.and_elim_left (Bool.and_elim_left h)))
theorem vred (f : Fields) : Statement (.vred f) := group rfl rfl (Nat.le_of_ble_eq_true rfl) (Nat.le_of_ble_eq_true rfl) rfl
  (fun _ => rfl)
  (fun h => ext_forms (Bool.and_elim_left (Bool.and_elim_left h)))
theorem vscan (f : Fields) : Statement (.vscan f) := group rfl rfl (Nat.le_of_ble_eq_true rfl) (Nat.le_of_ble_eq_true rfl) rfl
  (fun _ => rfl)
  (fun h => ext_forms (Bool.and_elim_left (Bool.and_elim_left h)))
theorem vdot4 (f : Fields) : Statement (.vdot4 f) := group rfl rfl (Nat.le_of_ble_eq_true rfl) (Nat.le_of_ble_eq_true rfl) rfl
  (fun _ => rfl)
  (fun h => ext_forms (Bool.and_elim_left h))
theorem ffma (f : Fields) : Statement (.ffma f) := group rfl rfl (Nat.le_of_ble_eq_true rfl) (Nat.le_of_ble_eq_true rfl) rfl
  (fun _ => rfl)
  (fun h => ext_forms (Bool.and_elim_left h))
theorem fabs (f : Fields) : Statement (.fabs f) := group rfl rfl (Nat.le_of_ble_eq_true rfl) (Nat.le_of_ble_eq_true rfl) rfl
  (fun _ => rfl)
  (fun h => ext_forms (Bool.and_elim_left h))
theorem fneg (f : Fields) : Statement (.fneg f) := group rfl rfl (Nat.le_of_ble_eq_true rfl) (Nat.le_of_ble_eq_true rfl) rfl
  (fun _ => rfl)
  (fun h => ext_forms (Bool.and_elim_left h))
theorem fcmp (f : Fields) : Statement (.fcmp f) := group rfl rfl (Nat.le_of_ble_eq_true rfl) (Nat.le_of_ble_eq_true rfl) rfl
  (fun _ => rfl)
  (fun h => either_forms (Bool.and_elim_left (Bool.and_elim_left h)))
theorem fclass (f : Fields) : Statement (.fclass f) := group rfl rfl (Nat.le_of_ble_eq_true rfl) (Nat.le_of_ble_eq_true rfl) rfl
  (fun _ => rfl)
  (fun h => ext_forms (Bool.and_elim_left h))
theorem fscale (f : Fields) : Statement (.fscale f) := group rfl rfl (Nat.le_of_ble_eq_true rfl) (Nat.le_of_ble_eq_true rfl) rfl
  (fun _ => rfl)
  (fun h => ext_forms (Bool.and_elim_left h))
theorem frnd (f : Fields) : Statement (.frnd f) := group rfl rfl (Nat.le_of_ble_eq_true rfl) (Nat.le_of_ble_eq_true rfl) rfl
  (fun _ => rfl)
  (fun h => ext_forms (Bool.and_elim_left h))
theorem hfma2 (f : Fields) : Statement (.hfma2 f) := group rfl rfl (Nat.le_of_ble_eq_true rfl) (Nat.le_of_ble_eq_true rfl) rfl
  (fun _ => rfl)
  (fun h => ext_forms (Bool.and_elim_left h))
theorem frcp (f : Fields) : Statement (.frcp f) := group rfl rfl (Nat.le_of_ble_eq_true rfl) (Nat.le_of_ble_eq_true rfl) rfl
  (fun _ => rfl)
  (fun h => ext_forms (Bool.and_elim_left h))
theorem frsq (f : Fields) : Statement (.frsq f) := group rfl rfl (Nat.le_of_ble_eq_true rfl) (Nat.le_of_ble_eq_true rfl) rfl
  (fun _ => rfl)
  (fun h => ext_forms (Bool.and_elim_left h))
theorem fsqrt (f : Fields) : Statement (.fsqrt f) := group rfl rfl (Nat.le_of_ble_eq_true rfl) (Nat.le_of_ble_eq_true rfl) rfl
  (fun _ => rfl)
  (fun h => ext_forms (Bool.and_elim_left h))
theorem fexp2 (f : Fields) : Statement (.fexp2 f) := group rfl rfl (Nat.le_of_ble_eq_true rfl) (Nat.le_of_ble_eq_true rfl) rfl
  (fun _ => rfl)
  (fun h => ext_forms (Bool.and_elim_left h))
theorem flog2 (f : Fields) : Statement (.flog2 f) := group rfl rfl (Nat.le_of_ble_eq_true rfl) (Nat.le_of_ble_eq_true rfl) rfl
  (fun _ => rfl)
  (fun h => ext_forms (Bool.and_elim_left h))
theorem fsin (f : Fields) : Statement (.fsin f) := group rfl rfl (Nat.le_of_ble_eq_true rfl) (Nat.le_of_ble_eq_true rfl) rfl
  (fun _ => rfl)
  (fun h => ext_forms (Bool.and_elim_left h))
theorem fcos (f : Fields) : Statement (.fcos f) := group rfl rfl (Nat.le_of_ble_eq_true rfl) (Nat.le_of_ble_eq_true rfl) rfl
  (fun _ => rfl)
  (fun h => ext_forms (Bool.and_elim_left h))
theorem ftanh (f : Fields) : Statement (.ftanh f) := group rfl rfl (Nat.le_of_ble_eq_true rfl) (Nat.le_of_ble_eq_true rfl) rfl
  (fun _ => rfl)
  (fun h => ext_forms (Bool.and_elim_left h))
theorem fcvt (f : Fields) : Statement (.fcvt f) := group rfl rfl (Nat.le_of_ble_eq_true rfl) (Nat.le_of_ble_eq_true rfl) rfl
  (fun _ => rfl)
  (fun h => ext_forms (Bool.and_elim_left (Bool.and_elim_left (Bool.and_elim_left h))))
theorem f2i (f : Fields) : Statement (.f2i f) := group rfl rfl (Nat.le_of_ble_eq_true rfl) (Nat.le_of_ble_eq_true rfl) rfl
  (fun _ => rfl)
  (fun h => ext_forms (Bool.and_elim_left (Bool.and_elim_left h)))
theorem i2f (f : Fields) : Statement (.i2f f) := group rfl rfl (Nat.le_of_ble_eq_true rfl) (Nat.le_of_ble_eq_true rfl) rfl
  (fun _ => rfl)
  (fun h => ext_forms (Bool.and_elim_left (Bool.and_elim_left h)))
theorem ld (f : Fields) : Statement (.ld f) := group rfl rfl (Nat.le_of_ble_eq_true rfl) (Nat.le_of_ble_eq_true rfl) rfl
  (fun _ => rfl)
  (fun h => ext_forms (Bool.and_elim_left (Bool.and_elim_left (Bool.and_elim_left h))))
theorem st (f : Fields) : Statement (.st f) := group rfl rfl (Nat.le_of_ble_eq_true rfl) (Nat.le_of_ble_eq_true rfl) rfl
  (fun _ => rfl)
  (fun h => ext_forms (Bool.and_elim_left (Bool.and_elim_left (Bool.and_elim_left h))))
theorem ldk (f : Fields) : Statement (.ldk f) := group rfl rfl (Nat.le_of_ble_eq_true rfl) (Nat.le_of_ble_eq_true rfl) rfl
  (fun _ => rfl)
  (fun h => ext_forms (Bool.and_elim_left (Bool.and_elim_left (Bool.and_elim_left (Bool.and_elim_left h)))))
theorem pref (f : Fields) : Statement (.pref f) := group rfl rfl (Nat.le_of_ble_eq_true rfl) (Nat.le_of_ble_eq_true rfl) rfl
  (fun _ => rfl)
  (fun h => ext_forms (Bool.and_elim_left h))
theorem cflush (f : Fields) : Statement (.cflush f) := group rfl rfl (Nat.le_of_ble_eq_true rfl) (Nat.le_of_ble_eq_true rfl) rfl
  (fun _ => rfl)
  (fun h => ext_forms (Bool.and_elim_left h))
theorem lds (f : Fields) : Statement (.lds f) := group rfl rfl (Nat.le_of_ble_eq_true rfl) (Nat.le_of_ble_eq_true rfl) rfl
  (fun _ => rfl)
  (fun h => ext_forms (Bool.and_elim_left (Bool.and_elim_left (Bool.and_elim_left h))))
theorem sts (f : Fields) : Statement (.sts f) := group rfl rfl (Nat.le_of_ble_eq_true rfl) (Nat.le_of_ble_eq_true rfl) rfl
  (fun _ => rfl)
  (fun h => ext_forms (Bool.and_elim_left (Bool.and_elim_left (Bool.and_elim_left h))))
theorem atom (f : Fields) : Statement (.atom f) := group rfl rfl (Nat.le_of_ble_eq_true rfl) (Nat.le_of_ble_eq_true rfl) rfl
  (fun _ => rfl)
  (fun h => ext_forms (Bool.and_elim_left (Bool.and_elim_left (Bool.and_elim_left h))))
theorem atoms (f : Fields) : Statement (.atoms f) := group rfl rfl (Nat.le_of_ble_eq_true rfl) (Nat.le_of_ble_eq_true rfl) rfl
  (fun _ => rfl)
  (fun h => ext_forms (Bool.and_elim_left (Bool.and_elim_left (Bool.and_elim_left h))))
theorem fence (f : Fields) : Statement (.fence f) := group rfl rfl (Nat.le_of_ble_eq_true rfl) (Nat.le_of_ble_eq_true rfl) rfl
  (fun _ => rfl)
  (fun h => ext_forms (Bool.and_elim_left (Bool.and_elim_left h)))
theorem cld (f : Fields) : Statement (.cld f) := group rfl rfl (Nat.le_of_ble_eq_true rfl) (Nat.le_of_ble_eq_true rfl) rfl
  (fun _ => rfl)
  (fun h => ext_forms (Bool.and_elim_left h))
theorem cst (f : Fields) : Statement (.cst f) := group rfl rfl (Nat.le_of_ble_eq_true rfl) (Nat.le_of_ble_eq_true rfl) rfl
  (fun _ => rfl)
  (fun h => ext_forms (Bool.and_elim_left h))
theorem cmov (f : Fields) : Statement (.cmov f) := group rfl rfl (Nat.le_of_ble_eq_true rfl) (Nat.le_of_ble_eq_true rfl) rfl
  (fun _ => rfl)
  (fun h => ext_forms (Bool.and_elim_left h))
theorem cbnd (f : Fields) : Statement (.cbnd f) := group rfl rfl (Nat.le_of_ble_eq_true rfl) (Nat.le_of_ble_eq_true rfl) rfl
  (fun _ => rfl)
  (fun h => ext_forms (Bool.and_elim_left h))
theorem cperm (f : Fields) : Statement (.cperm f) := group rfl rfl (Nat.le_of_ble_eq_true rfl) (Nat.le_of_ble_eq_true rfl) rfl
  (fun _ => rfl)
  (fun h => ext_forms (Bool.and_elim_left h))
theorem cget (f : Fields) : Statement (.cget f) := group rfl rfl (Nat.le_of_ble_eq_true rfl) (Nat.le_of_ble_eq_true rfl) rfl
  (fun _ => rfl)
  (fun h => ext_forms (Bool.and_elim_left h))
theorem ctest (f : Fields) : Statement (.ctest f) := group rfl rfl (Nat.le_of_ble_eq_true rfl) (Nat.le_of_ble_eq_true rfl) rfl
  (fun _ => rfl)
  (fun h => ext_forms (Bool.and_elim_left h))
theorem cseal (f : Fields) : Statement (.cseal f) := group rfl rfl (Nat.le_of_ble_eq_true rfl) (Nat.le_of_ble_eq_true rfl) rfl
  (fun _ => rfl)
  (fun h => ext_forms (Bool.and_elim_left h))
theorem wld (f : Fields) : Statement (.wld f) := group rfl rfl (Nat.le_of_ble_eq_true rfl) (Nat.le_of_ble_eq_true rfl) rfl
  (fun _ => rfl)
  (fun h => ext_forms (Bool.and_elim_left (Bool.and_elim_left h)))
theorem wscl (f : Fields) : Statement (.wscl f) := group rfl rfl (Nat.le_of_ble_eq_true rfl) (Nat.le_of_ble_eq_true rfl) rfl
  (fun h => by
    have : f.mod = 0#7 := BitVec.eq_of_toNat_eq (mod_of (Bool.and_elim_right h))
    simp [nativeCtor, group35, this])
  (fun h => ext_forms (Bool.and_elim_left h))
theorem wsclNone (f : Fields) : Statement (.wsclNone f) := group rfl rfl (Nat.le_of_ble_eq_true rfl) (Nat.le_of_ble_eq_true rfl) rfl
  (fun h => by
    have : f.mod = 1#7 := BitVec.eq_of_toNat_eq (mod_of (Bool.and_elim_right h))
    simp [nativeCtor, group35, this])
  (fun h => ext_forms (Bool.and_elim_left h))
theorem mma (f : Fields) : Statement (.mma f) := group rfl rfl (Nat.le_of_ble_eq_true rfl) (Nat.le_of_ble_eq_true rfl) rfl
  (fun _ => rfl)
  (fun h => ext_forms (Bool.and_elim_left h))
theorem mmag (f : Fields) : Statement (.mmag f) := group rfl rfl (Nat.le_of_ble_eq_true rfl) (Nat.le_of_ble_eq_true rfl) rfl
  (fun _ => rfl)
  (fun h => ext_forms (Bool.and_elim_left h))
theorem mmap (f : Fields) : Statement (.mmap f) := group rfl rfl (Nat.le_of_ble_eq_true rfl) (Nat.le_of_ble_eq_true rfl) rfl
  (fun _ => rfl)
  (fun h => ext_forms (Bool.and_elim_left h))
theorem msl (f : Fields) : Statement (.msl f) := group rfl rfl (Nat.le_of_ble_eq_true rfl) (Nat.le_of_ble_eq_true rfl) rfl
  (fun _ => rfl)
  (fun h => ext_forms (Bool.and_elim_left (Bool.and_elim_left (Bool.and_elim_left h))))
theorem aalloc (f : Fields) : Statement (.aalloc f) := group rfl rfl (Nat.le_of_ble_eq_true rfl) (Nat.le_of_ble_eq_true rfl) rfl
  (fun _ => rfl)
  (fun h => ext_forms (Bool.and_elim_left h))
theorem afree (f : Fields) : Statement (.afree f) := group rfl rfl (Nat.le_of_ble_eq_true rfl) (Nat.le_of_ble_eq_true rfl) rfl
  (fun _ => rfl)
  (fun h => ext_forms (Bool.and_elim_left h))
theorem awin (f : Fields) : Statement (.awin f) := group rfl rfl (Nat.le_of_ble_eq_true rfl) (Nat.le_of_ble_eq_true rfl) rfl
  (fun _ => rfl)
  (fun h => ext_forms (Bool.and_elim_left h))
theorem azero (f : Fields) : Statement (.azero f) := group rfl rfl (Nat.le_of_ble_eq_true rfl) (Nat.le_of_ble_eq_true rfl) rfl
  (fun _ => rfl)
  (fun h => ext_forms (Bool.and_elim_left h))
theorem lda (f : Fields) : Statement (.lda f) := group rfl rfl (Nat.le_of_ble_eq_true rfl) (Nat.le_of_ble_eq_true rfl) rfl
  (fun _ => rfl)
  (fun h => ext_forms (Bool.and_elim_left h))
theorem sta (f : Fields) : Statement (.sta f) := group rfl rfl (Nat.le_of_ble_eq_true rfl) (Nat.le_of_ble_eq_true rfl) rfl
  (fun _ => rfl)
  (fun h => ext_forms (Bool.and_elim_left h))
theorem aepi (f : Fields) : Statement (.aepi f) := group rfl rfl (Nat.le_of_ble_eq_true rfl) (Nat.le_of_ble_eq_true rfl) rfl
  (fun _ => rfl)
  (fun h => ext_forms (Bool.and_elim_left h))
theorem agui (f : Fields) : Statement (.agui f) := group rfl rfl (Nat.le_of_ble_eq_true rfl) (Nat.le_of_ble_eq_true rfl) rfl
  (fun _ => rfl)
  (fun h => ext_forms (Bool.and_elim_left h))
theorem atopk (f : Fields) : Statement (.atopk f) := group rfl rfl (Nat.le_of_ble_eq_true rfl) (Nat.le_of_ble_eq_true rfl) rfl
  (fun _ => rfl)
  (fun h => ext_forms (Bool.and_elim_left h))
theorem atksRd (f : Fields) : Statement (.atksRd f) := group rfl rfl (Nat.le_of_ble_eq_true rfl) (Nat.le_of_ble_eq_true rfl) rfl
  (fun h => by
    have : f.mod = 0#7 := BitVec.eq_of_toNat_eq (mod_of (Bool.and_elim_right h))
    simp [nativeCtor, group37, this])
  (fun h => ext_forms (Bool.and_elim_left h))
theorem atksWr (f : Fields) : Statement (.atksWr f) := group rfl rfl (Nat.le_of_ble_eq_true rfl) (Nat.le_of_ble_eq_true rfl) rfl
  (fun h => by
    have : f.mod = 1#7 := BitVec.eq_of_toNat_eq (mod_of (Bool.and_elim_right h))
    simp [nativeCtor, group37, this])
  (fun h => ext_forms (Bool.and_elim_left h))
theorem mfence (f : Fields) : Statement (.mfence f) := group rfl rfl (Nat.le_of_ble_eq_true rfl) (Nat.le_of_ble_eq_true rfl) rfl
  (fun _ => rfl)
  (fun h => ext_forms (Bool.and_elim_left h))
theorem mwait (f : Fields) : Statement (.mwait f) := group rfl rfl (Nat.le_of_ble_eq_true rfl) (Nat.le_of_ble_eq_true rfl) rfl
  (fun h => by
    have : f.mod = 0#7 := BitVec.eq_of_toNat_eq (mod_of (Bool.and_elim_right h))
    simp [nativeCtor, group38, this])
  (fun h => ext_forms (Bool.and_elim_left h))
theorem mwaitB (f : Fields) : Statement (.mwaitB f) := group rfl rfl (Nat.le_of_ble_eq_true rfl) (Nat.le_of_ble_eq_true rfl) rfl
  (fun h => by
    have : f.mod = 1#7 := BitVec.eq_of_toNat_eq (mod_of (Bool.and_elim_right h))
    simp [nativeCtor, group38, this])
  (fun h => ext_forms (Bool.and_elim_left h))
theorem htest (f : Fields) : Statement (.htest f) := group rfl rfl (Nat.le_of_ble_eq_true rfl) (Nat.le_of_ble_eq_true rfl) rfl
  (fun _ => rfl)
  (fun h => ext_forms (Bool.and_elim_left h))
theorem hcancel (f : Fields) : Statement (.hcancel f) := group rfl rfl (Nat.le_of_ble_eq_true rfl) (Nat.le_of_ble_eq_true rfl) rfl
  (fun _ => rfl)
  (fun h => ext_forms (Bool.and_elim_left h))
theorem hmov (f : Fields) : Statement (.hmov f) := group rfl rfl (Nat.le_of_ble_eq_true rfl) (Nat.le_of_ble_eq_true rfl) rfl
  (fun _ => rfl)
  (fun h => ext_forms (Bool.and_elim_left h))
theorem podC (f : Fields) : Statement (.podC f) := group rfl rfl (Nat.le_of_ble_eq_true rfl) (Nat.le_of_ble_eq_true rfl) rfl
  (fun h => by
    have : f.mod = 0#7 := BitVec.eq_of_toNat_eq (mod_of (Bool.and_elim_right h))
    simp [nativeCtor, group38, this])
  (fun h => ext_forms (Bool.and_elim_left h))
theorem podU (f : Fields) : Statement (.podU f) := group rfl rfl (Nat.le_of_ble_eq_true rfl) (Nat.le_of_ble_eq_true rfl) rfl
  (fun h => by
    have : f.mod = 1#7 := BitVec.eq_of_toNat_eq (mod_of (Bool.and_elim_right h))
    simp [nativeCtor, group38, this])
  (fun h => ext_forms (Bool.and_elim_left h))
theorem podOff (f : Fields) : Statement (.podOff f) := group rfl rfl (Nat.le_of_ble_eq_true rfl) (Nat.le_of_ble_eq_true rfl) rfl
  (fun h => by
    have : f.mod = 2#7 := BitVec.eq_of_toNat_eq (mod_of (Bool.and_elim_right h))
    simp [nativeCtor, group38, this])
  (fun h => ext_forms (Bool.and_elim_left h))
theorem cpy (f : Fields) : Statement (.cpy f) := group rfl rfl (Nat.le_of_ble_eq_true rfl) (Nat.le_of_ble_eq_true rfl) rfl
  (fun h => by
    have : f.mod = 0#7 := BitVec.eq_of_toNat_eq (mod_of (Bool.and_elim_right h))
    simp [nativeCtor, group39, this])
  (fun h => ext_forms (Bool.and_elim_left h))
theorem cpyInit (f : Fields) : Statement (.cpyInit f) := group rfl rfl (Nat.le_of_ble_eq_true rfl) (Nat.le_of_ble_eq_true rfl) rfl
  (fun h => by
    have : f.mod = 1#7 := BitVec.eq_of_toNat_eq (mod_of (Bool.and_elim_right h))
    simp [nativeCtor, group39, this])
  (fun h => ext_forms (Bool.and_elim_left h))
theorem cpyCap (f : Fields) : Statement (.cpyCap f) := group rfl rfl (Nat.le_of_ble_eq_true rfl) (Nat.le_of_ble_eq_true rfl) rfl
  (fun h => by
    have : f.mod = 2#7 := BitVec.eq_of_toNat_eq (mod_of (Bool.and_elim_right h))
    simp [nativeCtor, group39, this])
  (fun h => ext_forms (Bool.and_elim_left h))
theorem cpyt (f : Fields) : Statement (.cpyt f) := group rfl rfl (Nat.le_of_ble_eq_true rfl) (Nat.le_of_ble_eq_true rfl) rfl
  (fun _ => rfl)
  (fun h => ext_forms (Bool.and_elim_left h))
theorem cpyg (f : Fields) : Statement (.cpyg f) := group rfl rfl (Nat.le_of_ble_eq_true rfl) (Nat.le_of_ble_eq_true rfl) rfl
  (fun _ => rfl)
  (fun h => ext_forms (Bool.and_elim_left h))
theorem cpyx (f : Fields) : Statement (.cpyx f) := group rfl rfl (Nat.le_of_ble_eq_true rfl) (Nat.le_of_ble_eq_true rfl) rfl
  (fun _ => rfl)
  (fun h => ext_forms (Bool.and_elim_left h))
theorem cpyr (f : Fields) : Statement (.cpyr f) := group rfl rfl (Nat.le_of_ble_eq_true rfl) (Nat.le_of_ble_eq_true rfl) rfl
  (fun _ => rfl)
  (fun h => ext_forms (Bool.and_elim_left (Bool.and_elim_left h)))
theorem bari (f : Fields) : Statement (.bari f) := group rfl rfl (Nat.le_of_ble_eq_true rfl) (Nat.le_of_ble_eq_true rfl) rfl
  (fun _ => rfl)
  (fun h => ext_forms (Bool.and_elim_left h))
theorem bara (f : Fields) : Statement (.bara f) := group rfl rfl (Nat.le_of_ble_eq_true rfl) (Nat.le_of_ble_eq_true rfl) rfl
  (fun _ => rfl)
  (fun h => ext_forms (Bool.and_elim_left h))
theorem barw (f : Fields) : Statement (.barw f) := group rfl rfl (Nat.le_of_ble_eq_true rfl) (Nat.le_of_ble_eq_true rfl) rfl
  (fun _ => rfl)
  (fun h => ext_forms (Bool.and_elim_left h))
theorem bart (f : Fields) : Statement (.bart f) := group rfl rfl (Nat.le_of_ble_eq_true rfl) (Nat.le_of_ble_eq_true rfl) rfl
  (fun _ => rfl)
  (fun h => ext_forms (Bool.and_elim_left h))
theorem sbarInit (f : Fields) : Statement (.sbarInit f) := group rfl rfl (Nat.le_of_ble_eq_true rfl) (Nat.le_of_ble_eq_true rfl) rfl
  (fun h => by
    have : f.mod = 0#7 := BitVec.eq_of_toNat_eq (mod_of (Bool.and_elim_right h))
    simp [nativeCtor, group3a, this])
  (fun h => ext_forms (Bool.and_elim_left h))
theorem sbarArrive (f : Fields) : Statement (.sbarArrive f) := group rfl rfl (Nat.le_of_ble_eq_true rfl) (Nat.le_of_ble_eq_true rfl) rfl
  (fun h => by
    have : f.mod = 1#7 := BitVec.eq_of_toNat_eq (mod_of (Bool.and_elim_right h))
    simp [nativeCtor, group3a, this])
  (fun h => ext_forms (Bool.and_elim_left h))
theorem sbarWait (f : Fields) : Statement (.sbarWait f) := group rfl rfl (Nat.le_of_ble_eq_true rfl) (Nat.le_of_ble_eq_true rfl) rfl
  (fun h => by
    have : f.mod = 2#7 := BitVec.eq_of_toNat_eq (mod_of (Bool.and_elim_right h))
    simp [nativeCtor, group3a, this])
  (fun h => ext_forms (Bool.and_elim_left h))
theorem sbarSync (f : Fields) : Statement (.sbarSync f) := group rfl rfl (Nat.le_of_ble_eq_true rfl) (Nat.le_of_ble_eq_true rfl) rfl
  (fun h => by
    have : f.mod = 3#7 := BitVec.eq_of_toNat_eq (mod_of (Bool.and_elim_right h))
    simp [nativeCtor, group3a, this])
  (fun h => ext_forms (Bool.and_elim_left h))
theorem setj (f : Fields) : Statement (.setj f) := group rfl rfl (Nat.le_of_ble_eq_true rfl) (Nat.le_of_ble_eq_true rfl) rfl
  (fun _ => rfl)
  (fun h => ext_forms (Bool.and_elim_left h))
theorem setl (f : Fields) : Statement (.setl f) := group rfl rfl (Nat.le_of_ble_eq_true rfl) (Nat.le_of_ble_eq_true rfl) rfl
  (fun _ => rfl)
  (fun h => ext_forms (Bool.and_elim_left h))
theorem setw (f : Fields) : Statement (.setw f) := group rfl rfl (Nat.le_of_ble_eq_true rfl) (Nat.le_of_ble_eq_true rfl) rfl
  (fun _ => rfl)
  (fun h => ext_forms (Bool.and_elim_left h))
theorem gst (f : Fields) : Statement (.gst f) := group rfl rfl (Nat.le_of_ble_eq_true rfl) (Nat.le_of_ble_eq_true rfl) rfl
  (fun _ => rfl)
  (fun h => ext_forms (Bool.and_elim_left (Bool.and_elim_left h)))
theorem gld (f : Fields) : Statement (.gld f) := group rfl rfl (Nat.le_of_ble_eq_true rfl) (Nat.le_of_ble_eq_true rfl) rfl
  (fun _ => rfl)
  (fun h => ext_forms (Bool.and_elim_left (Bool.and_elim_left h)))
theorem gatom (f : Fields) : Statement (.gatom f) := group rfl rfl (Nat.le_of_ble_eq_true rfl) (Nat.le_of_ble_eq_true rfl) rfl
  (fun _ => rfl)
  (fun h => ext_forms (Bool.and_elim_left h))
theorem gred (f : Fields) : Statement (.gred f) := group rfl rfl (Nat.le_of_ble_eq_true rfl) (Nat.le_of_ble_eq_true rfl) rfl
  (fun _ => rfl)
  (fun h => ext_forms (Bool.and_elim_left h))
theorem gcpy (f : Fields) : Statement (.gcpy f) := group rfl rfl (Nat.le_of_ble_eq_true rfl) (Nat.le_of_ble_eq_true rfl) rfl
  (fun _ => rfl)
  (fun h => ext_forms (Bool.and_elim_left h))
theorem gwait (f : Fields) : Statement (.gwait f) := group rfl rfl (Nat.le_of_ble_eq_true rfl) (Nat.le_of_ble_eq_true rfl) rfl
  (fun _ => rfl)
  (fun h => ext_forms (Bool.and_elim_left h))
theorem gpatAx (f : Fields) : Statement (.gpatAx f) := group rfl rfl (Nat.le_of_ble_eq_true rfl) (Nat.le_of_ble_eq_true rfl) rfl
  (fun h => by
    have : f.mod = 0#7 := BitVec.eq_of_toNat_eq (mod_of (Bool.and_elim_right h))
    simp [nativeCtor, group3d, this])
  (fun h => ext_forms (Bool.and_elim_left h))
theorem gpatL0 (f : Fields) : Statement (.gpatL0 f) := group rfl rfl (Nat.le_of_ble_eq_true rfl) (Nat.le_of_ble_eq_true rfl) rfl
  (fun h => by
    have : f.mod = 1#7 := BitVec.eq_of_toNat_eq (mod_of (Bool.and_elim_right h))
    simp [nativeCtor, group3d, this])
  (fun h => lit_forms (Bool.and_elim_left h))
theorem gpatL1 (f : Fields) : Statement (.gpatL1 f) := group rfl rfl (Nat.le_of_ble_eq_true rfl) (Nat.le_of_ble_eq_true rfl) rfl
  (fun h => by
    have : f.mod = 2#7 := BitVec.eq_of_toNat_eq (mod_of (Bool.and_elim_right h))
    simp [nativeCtor, group3d, this])
  (fun h => lit_forms (Bool.and_elim_left h))
theorem gcrdAx (f : Fields) : Statement (.gcrdAx f) := group rfl rfl (Nat.le_of_ble_eq_true rfl) (Nat.le_of_ble_eq_true rfl) rfl
  (fun h => by
    have : f.mod = 0#7 := BitVec.eq_of_toNat_eq (mod_of (Bool.and_elim_right h))
    simp [nativeCtor, group3d, this])
  (fun h => ext_forms (Bool.and_elim_left h))
theorem gcrdCnt (f : Fields) : Statement (.gcrdCnt f) := group rfl rfl (Nat.le_of_ble_eq_true rfl) (Nat.le_of_ble_eq_true rfl) rfl
  (fun h => by
    have : f.mod = 1#7 := BitVec.eq_of_toNat_eq (mod_of (Bool.and_elim_right h))
    simp [nativeCtor, group3d, this])
  (fun h => ext_forms (Bool.and_elim_left h))
theorem gcrdIdx (f : Fields) : Statement (.gcrdIdx f) := group rfl rfl (Nat.le_of_ble_eq_true rfl) (Nat.le_of_ble_eq_true rfl) rfl
  (fun h => by
    have : f.mod = 2#7 := BitVec.eq_of_toNat_eq (mod_of (Bool.and_elim_right h))
    simp [nativeCtor, group3d, this])
  (fun h => ext_forms (Bool.and_elim_left h))
theorem ttfire (f : Fields) : Statement (.ttfire f) := group rfl rfl (Nat.le_of_ble_eq_true rfl) (Nat.le_of_ble_eq_true rfl) rfl
  (fun h => by
    have : f.mod = 0#7 := BitVec.eq_of_toNat_eq (mod_of (Bool.and_elim_right h))
    simp [nativeCtor, group3d, this])
  (fun h => ext_forms (Bool.and_elim_left h))
theorem ttfireArm (f : Fields) : Statement (.ttfireArm f) := group rfl rfl (Nat.le_of_ble_eq_true rfl) (Nat.le_of_ble_eq_true rfl) rfl
  (fun h => by
    have : f.mod = 1#7 := BitVec.eq_of_toNat_eq (mod_of (Bool.and_elim_right h))
    simp [nativeCtor, group3d, this])
  (fun h => ext_forms (Bool.and_elim_left h))
theorem ttwait (f : Fields) : Statement (.ttwait f) := group rfl rfl (Nat.le_of_ble_eq_true rfl) (Nat.le_of_ble_eq_true rfl) rfl
  (fun _ => rfl)
  (fun h => ext_forms (Bool.and_elim_left h))
theorem frNoOperation (f : FrFields) : Statement (.frNoOperation f) := forerunner rfl rfl (Nat.le_of_ble_eq_true rfl) rfl
theorem frIntegerAdd (f : FrFields) : Statement (.frIntegerAdd f) := forerunner rfl rfl (Nat.le_of_ble_eq_true rfl) rfl
theorem frIntegerSubtract (f : FrFields) : Statement (.frIntegerSubtract f) := forerunner rfl rfl (Nat.le_of_ble_eq_true rfl) rfl
theorem frIntegerMultiply (f : FrFields) : Statement (.frIntegerMultiply f) := forerunner rfl rfl (Nat.le_of_ble_eq_true rfl) rfl
theorem frAnd (f : FrFields) : Statement (.frAnd f) := forerunner rfl rfl (Nat.le_of_ble_eq_true rfl) rfl
theorem frOr (f : FrFields) : Statement (.frOr f) := forerunner rfl rfl (Nat.le_of_ble_eq_true rfl) rfl
theorem frXor (f : FrFields) : Statement (.frXor f) := forerunner rfl rfl (Nat.le_of_ble_eq_true rfl) rfl
theorem frShiftLeft (f : FrFields) : Statement (.frShiftLeft f) := forerunner rfl rfl (Nat.le_of_ble_eq_true rfl) rfl
theorem frLogicalShiftRight (f : FrFields) : Statement (.frLogicalShiftRight f) := forerunner rfl rfl (Nat.le_of_ble_eq_true rfl) rfl
theorem frArithmeticShiftRight (f : FrFields) : Statement (.frArithmeticShiftRight f) := forerunner rfl rfl (Nat.le_of_ble_eq_true rfl) rfl
theorem frFp32Add (f : FrFields) : Statement (.frFp32Add f) := forerunner rfl rfl (Nat.le_of_ble_eq_true rfl) rfl
theorem frFp32Multiply (f : FrFields) : Statement (.frFp32Multiply f) := forerunner rfl rfl (Nat.le_of_ble_eq_true rfl) rfl
theorem frFp32Fma (f : FrFields) : Statement (.frFp32Fma f) := forerunner rfl rfl (Nat.le_of_ble_eq_true rfl) rfl
theorem frMove (f : FrFields) : Statement (.frMove f) := forerunner rfl rfl (Nat.le_of_ble_eq_true rfl) rfl
theorem frLoadImmediate (f : FrFields) : Statement (.frLoadImmediate f) := forerunner rfl rfl (Nat.le_of_ble_eq_true rfl) rfl
theorem frLaneNumber (f : FrFields) : Statement (.frLaneNumber f) := forerunner rfl rfl (Nat.le_of_ble_eq_true rfl) rfl
theorem frIntegerCompare (f : FrFields) : Statement (.frIntegerCompare f) := forerunner rfl rfl (Nat.le_of_ble_eq_true rfl) rfl
theorem frFp32Compare (f : FrFields) : Statement (.frFp32Compare f) := forerunner rfl rfl (Nat.le_of_ble_eq_true rfl) rfl
theorem frScalarAddImmediate (f : FrFields) : Statement (.frScalarAddImmediate f) := forerunner rfl rfl (Nat.le_of_ble_eq_true rfl) rfl
theorem frScalarLoadImmediate (f : FrFields) : Statement (.frScalarLoadImmediate f) := forerunner rfl rfl (Nat.le_of_ble_eq_true rfl) rfl
theorem frLoadWord (f : FrFields) : Statement (.frLoadWord f) := forerunner rfl rfl (Nat.le_of_ble_eq_true rfl) rfl
theorem frStoreWord (f : FrFields) : Statement (.frStoreWord f) := forerunner rfl rfl (Nat.le_of_ble_eq_true rfl) rfl
theorem frScratchpadLoadWord (f : FrFields) : Statement (.frScratchpadLoadWord f) := forerunner rfl rfl (Nat.le_of_ble_eq_true rfl) rfl
theorem frScratchpadStoreWord (f : FrFields) : Statement (.frScratchpadStoreWord f) := forerunner rfl rfl (Nat.le_of_ble_eq_true rfl) rfl
theorem frFence (f : FrFields) : Statement (.frFence f) := forerunner rfl rfl (Nat.le_of_ble_eq_true rfl) rfl
theorem frIf (f : FrFields) : Statement (.frIf f) := forerunner rfl rfl (Nat.le_of_ble_eq_true rfl) rfl
theorem frElse (f : FrFields) : Statement (.frElse f) := forerunner rfl rfl (Nat.le_of_ble_eq_true rfl) rfl
theorem frEndIf (f : FrFields) : Statement (.frEndIf f) := forerunner rfl rfl (Nat.le_of_ble_eq_true rfl) rfl
theorem frBreak (f : FrFields) : Statement (.frBreak f) := forerunner rfl rfl (Nat.le_of_ble_eq_true rfl) rfl
theorem frLoop (f : FrFields) : Statement (.frLoop f) := forerunner rfl rfl (Nat.le_of_ble_eq_true rfl) rfl
theorem frBranch (f : FrFields) : Statement (.frBranch f) := forerunner rfl rfl (Nat.le_of_ble_eq_true rfl) rfl
theorem frCall (f : FrFields) : Statement (.frCall f) := forerunner rfl rfl (Nat.le_of_ble_eq_true rfl) rfl
theorem frReturn (f : FrFields) : Statement (.frReturn f) := forerunner rfl rfl (Nat.le_of_ble_eq_true rfl) rfl
theorem frBlockBarrier (f : FrFields) : Statement (.frBlockBarrier f) := forerunner rfl rfl (Nat.le_of_ble_eq_true rfl) rfl
theorem frExit (f : FrFields) : Statement (.frExit f) := forerunner rfl rfl (Nat.le_of_ble_eq_true rfl) rfl
theorem frTrap (f : FrFields) : Statement (.frTrap f) := forerunner rfl rfl (Nat.le_of_ble_eq_true rfl) rfl
theorem gridtabInstall (p : Packet) : Statement (.gridtabInstall p) := event rfl rfl
theorem gridtabRemove (p : Packet) : Statement (.gridtabRemove p) := event rfl rfl
theorem ctxnew (p : Packet) : Statement (.ctxnew p) := event rfl rfl
theorem ctxend (p : Packet) : Statement (.ctxend p) := event rfl rfl
theorem huskCreate (p : Packet) : Statement (.huskCreate p) := event rfl rfl
theorem huskDestroy (p : Packet) : Statement (.huskDestroy p) := event rfl rfl
theorem keyslotLoad (p : Packet) : Statement (.keyslotLoad p) := event rfl rfl
theorem keyslotZeroise (p : Packet) : Statement (.keyslotZeroise p) := event rfl rfl
theorem scrubStart (p : Packet) : Statement (.scrubStart p) := event rfl rfl
theorem scrubContinue (p : Packet) : Statement (.scrubContinue p) := event rfl rfl
theorem attest (p : Packet) : Statement (.attest p) := event rfl rfl
theorem layout (p : Packet) : Statement (.layout p) := event rfl rfl
theorem launch (p : Packet) : Statement (.launch p) := event rfl rfl
theorem nodeOpen (p : Packet) : Statement (.nodeOpen p) := event rfl rfl
theorem nodeClose (p : Packet) : Statement (.nodeClose p) := event rfl rfl
theorem preemptPark (p : Packet) : Statement (.preemptPark p) := event rfl rfl
theorem preemptRequeue (p : Packet) : Statement (.preemptRequeue p) := event rfl rfl
theorem preemptResume (p : Packet) : Statement (.preemptResume p) := event rfl rfl
theorem ckpt (p : Packet) : Statement (.ckpt p) := event rfl rfl
theorem waitmem (p : Packet) : Statement (.waitmem p) := event rfl rfl
theorem signalStore (p : Packet) : Statement (.signalStore p) := event rfl rfl
theorem signalAdd (p : Packet) : Statement (.signalAdd p) := event rfl rfl
theorem signalMax (p : Packet) : Statement (.signalMax p) := event rfl rfl
theorem condSkip (p : Packet) : Statement (.condSkip p) := event rfl rfl
theorem condRepeat (p : Packet) : Statement (.condRepeat p) := event rfl rfl
theorem condJump (p : Packet) : Statement (.condJump p) := event rfl rfl
theorem doorbellTail (queue : BitVec 8) (value : BitVec 64) : Statement (.doorbellTail queue value) := event rfl rfl
theorem doorbellReload (queue : BitVec 8) (value : BitVec 64) : Statement (.doorbellReload queue value) := event rfl rfl
theorem doorbellStop (queue : BitVec 8) (value : BitVec 64) : Statement (.doorbellStop queue value) := event rfl rfl
theorem arnalRound : Statement (.arnalRound) := event rfl rfl
theorem packetUnblock (queue : BitVec 8) : Statement (.packetUnblock queue) := event rfl rfl
theorem waitmemPoll (queue : BitVec 8) : Statement (.waitmemPoll queue) := event rfl rfl
theorem waitmemTimeout (queue : BitVec 8) : Statement (.waitmemTimeout queue) := event rfl rfl
theorem invalRange : Statement (.invalRange) := event rfl rfl
theorem invalAsid : Statement (.invalAsid) := event rfl rfl
theorem invalAll : Statement (.invalAll) := event rfl rfl
theorem invalidationComplete : Statement (.invalidationComplete) := event rfl rfl
theorem faultReplay (seq : BitVec 32) : Statement (.faultReplay seq) := event rfl rfl
theorem faultFail (seq : BitVec 32) : Statement (.faultFail seq) := event rfl rfl
theorem registerWrite (offset : Nat) (value : BitVec 64) : Statement (.registerWrite offset value) := event rfl rfl
theorem bar2Read (offset : Nat) (bytes : Nat) : Statement (.bar2Read offset bytes) := event rfl rfl
theorem bar2Write (offset : Nat) (data : List Byte) : Statement (.bar2Write offset data) := event rfl rfl
theorem blockPlacement : Statement (.blockPlacement) := event rfl rfl
theorem placementWaitExpiry (launch : Nat) : Statement (.placementWaitExpiry launch) := event rfl rfl
theorem startBarrierTimeout (launch : Nat) : Statement (.startBarrierTimeout launch) := event rfl rfl
theorem launchDeadline (launch : Nat) : Statement (.launchDeadline launch) := event rfl rfl
theorem timeSliceExpiry (launch core : Nat) : Statement (.timeSliceExpiry launch core) := event rfl rfl
theorem drainDeadline (ctx : Nat) : Statement (.drainDeadline ctx) := event rfl rfl
theorem preciseSave (ctx : Nat) : Statement (.preciseSave ctx) := event rfl rfl
theorem saveDeadline (ctx : Nat) : Statement (.saveDeadline ctx) := event rfl rfl
theorem contextResume (ctx : Nat) : Statement (.contextResume ctx) := event rfl rfl
theorem hangWatchdog (ctx : Nat) : Statement (.hangWatchdog ctx) := event rfl rfl
theorem barrierTimeoutWatchdog (ctx : Nat) : Statement (.barrierTimeoutWatchdog ctx) := event rfl rfl
theorem yldExpiry (warp : Nat) : Statement (.yldExpiry warp) := event rfl rfl
theorem mmapRendezvousTimeout (warp : Nat) : Statement (.mmapRendezvousTimeout warp) := event rfl rfl
theorem engineOperationStart (core op : Nat) : Statement (.engineOperationStart core op) := event rfl rfl
theorem engineOperationComplete (core op : Nat) : Statement (.engineOperationComplete core op) := event rfl rfl
theorem enginePageFault (core op : Nat) : Statement (.enginePageFault core op) := event rfl rfl
theorem faultQueueRetry (ctx : Nat) : Statement (.faultQueueRetry ctx) := event rfl rfl
theorem matrixSelfTest (core : Nat) (quarter : BitVec 2) (pass : Bool) : Statement (.matrixSelfTest core quarter pass) := event rfl rfl
theorem copyEntryStart (block : Nat) : Statement (.copyEntryStart block) := event rfl rfl
theorem copyEntryComplete (block entry : Nat) : Statement (.copyEntryComplete block entry) := event rfl rfl
theorem l1WritebackTimeout (l1 sector : Nat) : Statement (.l1WritebackTimeout l1 sector) := event rfl rfl
theorem gridOperationComplete (op : Nat) : Statement (.gridOperationComplete op) := event rfl rfl
theorem reductionTimeout (reduction : Nat) : Statement (.reductionTimeout reduction) := event rfl rfl
theorem nodeGroupLaunch (node : Nat) : Statement (.nodeGroupLaunch node) := event rfl rfl
theorem nodeGroupTimer (node : Nat) : Statement (.nodeGroupTimer node) := event rfl rfl
theorem frameStore (f : Frame) : Statement (.frameStore f) := event rfl rfl
theorem frameLdreq (f : Frame) : Statement (.frameLdreq f) := event rfl rfl
theorem frameLdrep (f : Frame) : Statement (.frameLdrep f) := event rfl rfl
theorem frameAtom (f : Frame) : Statement (.frameAtom f) := event rfl rfl
theorem frameAtrep (f : Frame) : Statement (.frameAtrep f) := event rfl rfl
theorem frameExp (f : Frame) : Statement (.frameExp f) := event rfl rfl
theorem frameExpr (f : Frame) : Statement (.frameExpr f) := event rfl rfl
theorem frameRed (f : Frame) : Statement (.frameRed f) := event rfl rfl
theorem frameRedr (f : Frame) : Statement (.frameRedr f) := event rfl rfl
theorem frameTack (f : Frame) : Statement (.frameTack f) := event rfl rfl
theorem frameDone (f : Frame) : Statement (.frameDone f) := event rfl rfl
theorem frameNack (f : Frame) : Statement (.frameNack f) := event rfl rfl
theorem frameLaunch (f : Frame) : Statement (.frameLaunch f) := event rfl rfl
theorem frameStart (f : Frame) : Statement (.frameStart f) := event rfl rfl
theorem uePacket (p : UePacket) : Statement (.uePacket p) := event rfl rfl
theorem retransmissionTimeout (seq : Nat) : Statement (.retransmissionTimeout seq) := event rfl rfl
theorem linkDown (port : BitVec 4) (cause : Nat) : Statement (.linkDown port cause) := event rfl rfl
theorem linkUp (port : BitVec 4) (cause : Nat) : Statement (.linkUp port cause) := event rfl rfl
theorem integrityFailure (port : BitVec 4) : Statement (.integrityFailure port) := event rfl rfl
theorem llrResend (port : BitVec 4) : Statement (.llrResend port) := event rfl rfl
theorem scrubFrame : Statement (.scrubFrame) := event rfl rfl
theorem scrubReceipt : Statement (.scrubReceipt) := event rfl rfl
theorem coldBoot (blobs : Option Blob × Option Blob) (fails : List (Nat × BitVec 2)) : Statement (.coldBoot blobs fails) :=
  event rfl rfl
theorem warmReset (a b : Option Blob) : Statement (.warmReset a b) := event rfl rfl
theorem checkpointStream : Statement (.checkpointStream) := event rfl rfl
theorem checkpointFinish : Statement (.checkpointFinish) := event rfl rfl
theorem healthUpdate (x : Sensors) : Statement (.healthUpdate x) := event rfl rfl
theorem thermalThrottle (x : Sensors) : Statement (.thermalThrottle x) := event rfl rfl
theorem thermalTrip (x : Sensors) : Statement (.thermalTrip x) := event rfl rfl
theorem illegalInstruction : Statement (.illegalInstruction) := event rfl rfl
theorem instructionFetchFault (cause : BitVec 16) (addr : Word) : Statement (.instructionFetchFault cause addr) := event rfl rfl
theorem malformedFrame (f : Frame) : Statement (.malformedFrame f) := event rfl rfl

end Sys2Proof.Laws.Selects
end

