-- ==== Sys2Proof/Tests/Slice0.lean ====
section
/-! SUPPORT. Tests: ill-formed instructions that WellFormed refuses, words of the manual that decode as it says, single
steps, and for each statement states and operands that meet its hypotheses. -/
namespace Sys2Proof.Tests

open Sys2Proof.Machine

set_option Elab.async false

/-! ### WellFormed refuses what each check is for (R79 to R81, R85, R86) -/

theorem test_wf_ok : wellFormed (.vadd { form := .ext, d := 4, a := 5, mod := 0x40, pn := 1, pg := 3, w2 := 1 }) = true := by
  decide
/-- A base form carries no guard (Table 3.1). -/
theorem test_wf_form : wellFormed (.sadd { form := .base, pg := 1 }) = false := by decide
/-- A group instruction has no base form (R85). -/
theorem test_wf_group : wellFormed (.nop { form := .base }) = false := by decide
/-- bsel 0b11 is undefined (R80). -/
theorem test_wf_bsel : wellFormed (.vadd { form := .ext, mod := 0x60 }) = false := by decide
/-- An operand type that the instruction does not define (R80). -/
theorem test_wf_type : wellFormed (.pand { form := .ext, mod := 2 }) = false := by decide
/-- An unused field (R86). -/
theorem test_wf_unused : wellFormed (.nop { form := .ext, b := 1 }) = false := by decide
/-- s128 does not exist (Table 3.4). -/
theorem test_wf_index : wellFormed (.sadd { form := .base, d := 128 }) = false := by decide
/-- A pair begins at an even register (Table 3.4). -/
theorem test_wf_pair : wellFormed (.vadd { form := .ext, mod := 2, d := 1 }) = false := by decide
/-- LA outside the long-latency instructions (R79). -/
theorem test_wf_la : wellFormed (.vmad { form := .ext, la := 1 }) = false := by decide
/-- Word 2 where it is not used (R86). -/
theorem test_wf_word2 : wellFormed (.nop { form := .ext, w2 := 1 }) = false := by decide
/-- A literal wider than its operand (R81). -/
theorem test_wf_literal : wellFormed (.vadd { form := .lit, lit := 0x180000000#64 }) = false := by decide
/-- A field longer than the register (R113). -/
theorem test_wf_ok_field : wellFormed (.sbfe { form := .ext, w2 := 0x4100 }) = false := by decide
/-- A control register index that Table 1.9 does not assign (R43). -/
theorem test_wf_csr : wellFormed (.csrr { form := .ext, w2 := 0x009 }) = false := by decide
/-- Forerunner s registers end at s63 (R100). -/
theorem test_wf_fr_index : wellFormed (.frScalarLoadImmediate { d := 64 }) = false := by decide
/-- A guard on a forerunner control opcode (R101). -/
theorem test_wf_fr_guard : wellFormed (.frElse { pg := 1 }) = false := by decide
/-- An unused forerunner field (R101). -/
theorem test_wf_fr_unused : wellFormed (.frNoOperation { imm := 1 }) = false := by decide

/-! ### Words written from Tables 3.2, 3.3 and 3.13 -/

/-- Word 0 (Table 3.2). -/
def w0 (l : BitVec 2) (op : BitVec 6) (d a b : BitVec 8) : BitVec 32 := b ++ a ++ d ++ op ++ l

/-- Extended word 1 (Table 3.3). -/
def w1 (fn : BitVec 8) (la pg : BitVec 4) (pn : BitVec 1) (c : BitVec 8) (mod : BitVec 7) : BitVec 32 :=
  mod ++ c ++ pn ++ pg ++ la ++ fn

/-- The instruction that words decode to. -/
def read (l : List (BitVec 32)) : Decoded := decodeWords false l

theorem test_decode_sub : read [w0 0 0x01 3 1 2] = .instr (.ssub { form := .base, d := 3, a := 1, b := 2 }) 4 := by decide
theorem test_decode_fadd : read [w0 0 0x1D 3 1 2] = .instr (.fadd { form := .base, d := 3, a := 1, b := 2 }) 4 := by decide
theorem test_decode_pand : read [w0 0 0x22 3 1 2] = .instr (.pand { form := .base, d := 3, a := 1, b := 2 }) 4 := by decide
theorem test_decode_sclz : read [w0 1 0x28 3 1 0, w1 0 0 0 0 0 0, 0] = .instr (.sclz { form := .ext, d := 3, a := 1 }) 12 := by
  decide
theorem test_decode_pcnt : read [w0 1 0x29 3 1 0, w1 3 0 0 0 0 0, 0] = .instr (.pcnt { form := .ext, d := 3, a := 1 }) 12 := by
  decide
theorem test_decode_bra : read [w0 1 0x2A 0 0 0, w1 0 0 0 0 0 0, 64] = .instr (.bra { form := .ext, w2 := 64 }) 12 := by decide
theorem test_decode_trap : read [w0 1 0x2B 0 0 0, w1 5 0 0 0 0 0, 7] = .instr (.trap { form := .ext, w2 := 7 }) 12 := by decide
theorem test_decode_vmad : read [w0 1 0x2C 8 1 2, w1 0 0 0 0 3 0, 0] =
    .instr (.vmad { form := .ext, d := 8, a := 1, b := 2, c := 3 }) 12 := by decide
theorem test_decode_vshf : read [w0 1 0x2D 8 1 2, w1 0 0 0 0 0 0, 0] =
    .instr (.vshf { form := .ext, d := 8, a := 1, b := 2 }) 12 := by decide
theorem test_decode_ffma : read [w0 1 0x2E 8 1 2, w1 0 0 0 0 3 0, 0] =
    .instr (.ffma { form := .ext, d := 8, a := 1, b := 2, c := 3 }) 12 := by decide
theorem test_decode_frcp : read [w0 1 0x2F 8 1 0, w1 0 3 0 0 0 0, 0] =
    .instr (.frcp { form := .ext, d := 8, a := 1, la := 3 }) 12 := by decide
theorem test_decode_fcvt : read [w0 1 0x30 8 1 0, w1 0 0 0 0 0 0, 0xEB] =
    .instr (.fcvt { form := .ext, d := 8, a := 1, w2 := 0xEB }) 12 := by decide
theorem test_decode_ld : read [w0 1 0x31 8 9 1, w1 0 5 0 0 0 4, 16] =
    .instr (.ld { form := .ext, d := 8, a := 9, b := 1, mod := 4, la := 5, w2 := 16 }) 12 := by decide
theorem test_decode_sts : read [w0 1 0x32 8 9 0, w1 1 0 0 0 0 4, 16] =
    .instr (.sts { form := .ext, d := 8, a := 9, mod := 4, w2 := 16 }) 12 := by decide
theorem test_decode_fence : read [w0 1 0x33 0 0 0, w1 2 0 0 0 0 0, 4] = .instr (.fence { form := .ext, w2 := 4 }) 12 := by
  decide
theorem test_decode_cmov : read [w0 1 0x34 3 1 0, w1 2 0 0 0 0 0, 0] = .instr (.cmov { form := .ext, d := 3, a := 1 }) 12 := by
  decide
theorem test_decode_mma : read [w0 1 0x35 3 2 1, w1 2 0 0 0 4 0, 0xB000] =
    .instr (.mma { form := .ext, d := 3, a := 2, b := 1, c := 4, w2 := 0xB000 }) 12 := by decide
theorem test_decode_azero : read [w0 1 0x36 0 2 0, w1 3 0 0 0 0 0, 0x1000] =
    .instr (.azero { form := .ext, a := 2, w2 := 0x1000 }) 12 := by decide
theorem test_decode_agui : read [w0 1 0x37 3 2 0, w1 1 0 0 0 0 0, 0x1000] =
    .instr (.agui { form := .ext, d := 3, a := 2, w2 := 0x1000 }) 12 := by decide
theorem test_decode_mfence : read [w0 1 0x38 3 0 0, w1 0 0 0 0 0 0, 0] = .instr (.mfence { form := .ext, d := 3 }) 12 := by
  decide
theorem test_decode_cpy_init : read [w0 1 0x39 0 2 0, w1 0 0 0 0 0 1, 4] =
    .instr (.cpyInit { form := .ext, a := 2, mod := 1, w2 := 4 }) 12 := by decide
theorem test_decode_bara : read [w0 1 0x3A 3 0 0, w1 1 0 0 0 0 0, 15] = .instr (.bara { form := .ext, d := 3, w2 := 15 }) 12 := by
  decide
theorem test_decode_setj : read [w0 1 0x3B 3 2 0, w1 0 0 0 0 0 0, 0] = .instr (.setj { form := .ext, d := 3, a := 2 }) 12 := by
  decide
theorem test_decode_gcpy : read [w0 1 0x3C 3 2 1, w1 4 0 0 0 4 0, 5] =
    .instr (.gcpy { form := .ext, d := 3, a := 2, b := 1, c := 4, w2 := 5 }) 12 := by decide
theorem test_decode_gwait : read [w0 1 0x3D 3 2 0, w1 0 0 0 0 0 0, 0] = .instr (.gwait { form := .ext, d := 3, a := 2 }) 12 := by
  decide
/-- The reserved group 0x3E and an FN beyond the last (R84). -/
theorem test_decode_reserved_group : read [w0 1 0x3E 0 0 0, w1 0 0 0 0 0 0, 0] = .illegal := by decide
theorem test_decode_fn : read [w0 1 0x2A 0 0 0, w1 9 0 0 0 0 0, 0] = .illegal := by decide
/-- MOD is checked before reserved fields (Table 3.10). -/
theorem test_decode_order : read [w0 1 0x10 0 0 0, w1 1 0 0 0 0 0x60, 0] = .illegal := by decide
theorem test_decode_forerunner : decodeWords true [0x00010204#32, 0x00000012#32] =
    .instr (.frAnd { d := 2, a := 1, pg := 2, sub := 1 }) 8 := by decide

/-! ### Single steps of the first instruction after reset -/

/-- The bits of words, first word lowest. -/
def wordBits : List (BitVec 32) → Nat
  | [] => 0
  | x :: r => x.toNat + 2 ^ 32 * wordBits r

/-- The state in which the next step runs the instruction of these words. -/
def placed (l : List (BitVec 32)) : State := State.reset.withFetchWord (32 * l.length) (wordBits l)

/-- What a step leaves, where it leaves a state. -/
def afterStep {α : Type} (s : State) (g : State → Option α) : Option α :=
  match step s with
  | .next t => g t
  | .fault _ => none
  | .refused _ => none

/-- What the first warp holds after a step. -/
def warpAfter {α : Type} (l : List (BitVec 32)) (g : Warp → α) : Option α :=
  afterStep (placed l) fun t => (mapFind t.warps 0).map g

/-- 0 - 1 wraps in 64 bits (R109). -/
theorem test_sub_wraps : warpAfter [w0 2 0x01 3 1 0, 1, 0] (·.getS 3) = some 0xFFFFFFFFFFFFFFFF#64 := by decide +kernel
/-- The PC moves past three words (R73). -/
theorem test_pc_moves : warpAfter [w0 2 0x01 3 1 0, 1, 0] (·.s0.pc) = some 0x1000C#64 := by decide +kernel
/-- A write of s0 is discarded (R42). -/
theorem test_s0_discards : warpAfter [w0 2 0x01 0 1 0, 1, 0] (·.getS 0) = some 0#64 := by decide +kernel
/-- A signed quotient by zero is -1 (Table 4.2). -/
theorem test_div_zero : warpAfter [w0 0 0x0E 3 1 2] (·.getS 3) = some 0xFFFFFFFFFFFFFFFF#64 := by decide +kernel
/-- 32-bit sums wrap and are sign-extended (R109): 0 + 0x80000000. -/
theorem test_add32 : warpAfter [w0 1 0x00 3 1 0, w1 0 0 0 0 0 0x42, 0x80000000] (·.getS 3) =
    some 0xFFFFFFFF80000000#64 := by decide +kernel
/-- A comparison writes every lane bit: 0 = 0 (R117). -/
theorem test_scmp : warpAfter [w0 1 0x28 3 1 2, w1 7 0 0 0 0 0, 0] (·.getP 3) = some 0xFFFFFFFFFFFFFFFF#64 := by decide +kernel
/-- VMOV from a register of zeros, complemented by VXOR with -1: lane 63 (R141). -/
theorem test_vxor : warpAfter [w0 1 0x16 8 9 0, w1 0 0 0 0 0 0x40, 0xFFFFFFFF] (·.getV 8 63) = some 0xFFFFFFFF#32 := by decide +kernel
/-- A guard that is false on every lane leaves only the PC (R78): p1 is zero. -/
theorem test_guard : warpAfter [w0 1 0x16 8 9 0, w1 0 0 1 0 0 0x40, 0xFFFFFFFF] (fun w => (w.getV 8 0, w.s0.pc)) =
    some (0#32, 0x1000C#64) := by decide +kernel
/-- CSRR of core.id and of warp.lanes (Table 1.9). -/
theorem test_csrr : warpAfter [w0 1 0x2B 3 0 0, w1 7 0 0 0 0 0, 8] (·.getS 3) = some 0xFFFFFFFFFFFFFFFF#64 := by decide +kernel
/-- LD.b32 of the code's own first word, through c1 (R172). -/
theorem test_load : warpAfter [w0 1 0x31 8 9 1, w1 0 0 0 0 0 4, 0] (·.getV 8 5) = some (w0 1 0x31 8 9 1) := by decide +kernel
/-- The last lanes exit, and the warp ends (R25, R128). -/
theorem test_exit : afterStep (placed [w0 1 0x2A 0 0 0, w1 8 0 0 0 0 0, 0]) (fun t => some (t.warps.length)) = some 0 := by
  decide +kernel
/-- A trap with no handler ends the context (R328). -/
theorem test_no_handler : afterStep (placed [0x000000FC#32]) (fun t => (mapFind t.ctxs 0).map (·.dead)) = some true := by
  decide +kernel

/-! ### States and operands that meet the hypotheses of the statements -/

/-- The issue of the placed warp's slot 0. -/
def here : Issue := { warp := 0, slot := 0, pc := 0x10000, len := 12 }

/-- The placed warp about to issue, with words at its PC and a change to it. -/
def demo (l : List (BitVec 32)) (g : Warp → Warp) : State :=
  { (placed l).modWarp 0 g with picks := [], cur := some here }

/-- The placed warp as it starts, over empty code. -/
def plain : State := demo [] id

/-- The plain state with its block changed. -/
def inBlock (g : Block → Block) : State := plain.modBlock 0 g

/-- An extended instruction's fields. -/
def ext (d a b c : BitVec 8) (mod : BitVec 7) (w2 : BitVec 32) : Fields := { form := .ext, d, a, b, c, mod, w2 }

/-- An environment acts, as a truth value. -/
def actsB (en : Env) : Bool :=
  decide (en.s.cur = some en.is) && decide (mapFind en.s.warps en.key = some en.w) && decide (en.e ≠ 0)

/-- An environment runs, as a truth value. -/
def runsB (en : Env) : Bool := actsB en && !(en.s.kindDiffers en.ctx en.is.fr en.is.pc en.fall)

theorem acts_of {en : Env} (h : actsB en = true) : en.Acts := by
  simpa [actsB, Env.Acts, Env.Issues, and_assoc] using h

theorem runs_of {en : Env} (h : runsB en = true) : en.Runs := by
  simp only [runsB, Bool.and_eq_true, Bool.not_eq_true'] at h
  exact ⟨acts_of h.1, h.2⟩

/-- An answer is no failure. -/
def okB {ε α : Type} (x : Except ε α) : Bool :=
  match x with
  | .ok _ => true
  | .error _ => false

/-- A test of the answer of what is no failure. -/
def okAnd {ε α β : Type} (x : Except ε α × β) (p : α → β → Bool) : Bool :=
  match x with
  | (.ok a, t) => p a t
  | (.error _, _) => false

theorem ok_of {ε α β : Type} {x : Except ε α × β} (h : okB x.1 = true) : ∃ a t, x = (.ok a, t) := by
  obtain ⟨a, t⟩ := x
  cases a with
  | ok a => exact ⟨a, t, rfl⟩
  | error e => cases h

theorem okUnit_of {ε β : Type} {x : Except ε Unit × β} (h : okB x.1 = true) : ∃ t, x = (.ok (), t) := by
  obtain ⟨a, t, h⟩ := ok_of h
  exact ⟨t, h⟩

theorem good_of {α β γ : Type} [DecidableEq β] {x : α × List β × γ} (h : x.2.1.isEmpty = true) :
    ∃ good t, x = (good, [], t) := by
  obtain ⟨a, b, c⟩ := x
  exact ⟨a, c, by simp_all⟩

/-- An instruction runs on the plain state: all that most statements ask. -/
theorem meets_runs : (plain.nat here (ext 3 1 2 4 0 0)).Runs := runs_of (by decide +kernel)

/-- The length of a bit field at its greatest, 64 and 32 bits. -/
theorem meets_bit_field : (plain.nat here (ext 3 1 0 0 0 0x4000)).Runs ∧
    (ext 3 1 0 0 0 0x4000).w2.toNat / 256 % 128 ≤ 64 ∧
    (∀ _ : Nat, (ext 3 1 0 0 0 0x2000).w2.toNat / 256 % 64 ≤ 32) :=
  ⟨runs_of (by decide +kernel), by decide, fun _ => by decide⟩

/-- An immediate under a base major stands in a longer form. -/
theorem meets_immediate : (plain.nat here (ext 3 1 0 0 0x40 7)).Runs ∧
    (baseImm (ext 3 1 0 0 0x40 7) = true → (ext 3 1 0 0 0x40 7).form ≠ .base) :=
  ⟨runs_of (by decide +kernel), fun _ => by decide⟩

/-- A branch that acts stays at its target and at the next instruction, taken and not. -/
theorem meets_branch : (plain.nat here (ext 0 0 0 0 0 64)).Acts ∧ (plain.nat here (ext 0 0 0 0 0 64)).Stays 0x10040 ∧
    (plain.nat here (ext 0 0 0 0 0 64)).Stays 0x1000C ∧ (plain.nat here (ext 0 0 0 0 0 64)).Stays 0 ∧
    plain.nat here (ext 0 0 0 0 1 64) = plain.nat here (ext 0 0 0 0 2 64) :=
  ⟨acts_of (by decide +kernel), by unfold Env.Stays; decide +kernel, by unfold Env.Stays; decide +kernel,
    by unfold Env.Stays; decide +kernel, rfl⟩

/-- The warp with p1 naming lane 0. -/
def oneLane (w : Warp) : Warp := w.setP 1 1

/-- The warp with a running slot 1 whose reconvergence point is the greatest. -/
def twoSlots (w : Warp) : Warp :=
  { w with s0 := { w.s0 with mask := 3 }, s1 := { live := true, pc := 0x10200, mask := 4, rpc := 0x10300 } }

/-- BRV: no lane takes it, all do, some do with slot 1 empty, and some do with slot 1 live. -/
theorem meets_brv :
    (let en := plain.nat here (ext 0 1 0 0 0 64)
     en.Acts ∧ en.e &&& en.w.getP 1 = 0 ∧ en.Stays en.fall) ∧
    (let en := plain.nat here (ext 0 0 0 0 0 64)
     en.e &&& en.w.getP 0 ≠ 0 ∧ en.sl.mask &&& ~~~(en.e &&& en.w.getP 0) = 0 ∧ en.Stays 0x10040) ∧
    (let en := (demo [] oneLane).nat here (ext 0 1 0 0 0 64)
     en.Acts ∧ en.e &&& en.w.getP 1 ≠ 0 ∧ en.sl.mask &&& ~~~(en.e &&& en.w.getP 1) ≠ 0 ∧ (en.w.slot 1).live = false) ∧
    (let en := (demo [] fun w => twoSlots (oneLane w)).nat here (ext 0 1 0 0 0 64)
     en.Acts ∧ (en.w.slot 1).live = true ∧
     ∃ u, en.s.stackWrite en.who en.w en.w.dstkSp [(en.w.slot 1).path] = (.ok (), u)) :=
  ⟨⟨acts_of (by decide +kernel), by decide +kernel, by unfold Env.Stays; decide +kernel⟩,
   ⟨by decide +kernel, by decide +kernel, by unfold Env.Stays; decide +kernel⟩,
   ⟨acts_of (by decide +kernel), by decide +kernel⟩,
   ⟨acts_of (by decide +kernel), by decide +kernel, okUnit_of (by decide +kernel)⟩⟩

/-- RCV as the code of the placed warp: both slots stand at it. -/
def rcvCode : List (BitVec 32) := [w0 1 0x2A 0 0 0, w1 3 0 0 0 0 0, 0x100]

/-- RCV: passed, parking beside a running slot, and merging with a parked one. -/
theorem meets_rcv :
    (let en := plain.nat here (ext 0 0 0 0 0 0)
     en.Acts ∧ en.sl.rpc ≠ here.pc ∧ en.Stays en.fall) ∧
    (let en := (demo [] fun w => { twoSlots w with s0 := { w.s0 with mask := 3, rpc := 0x10000 } }).nat here (ext 0 0 0 0 0 0)
     en.Acts ∧ en.sl.rpc = here.pc ∧ en.sl.live = true ∧ (en.w.slot 1).live = true ∧ (en.w.slot 1).parked = false) ∧
    (let s := demo rcvCode fun w =>
       { w with s0 := { w.s0 with mask := 3, rpc := 0x10000 }
                s1 := { live := true, parked := true, pc := 0x10000, mask := 4, rpc := 0x10000 } }
     let en := s.nat here (ext 0 0 0 0 0 0x100)
     en.Acts ∧ en.sl.rpc = here.pc ∧ en.sl.live = true ∧ en.sl.pc = here.pc ∧ (en.w.slot 1).parked = true ∧
     (en.w.slot 1).pc = here.pc ∧ en.w.dstkSp = (en.w.getC 15).base ∧
     let r := s.rcvAt 0 (en.w.setSlot 0 { en.sl.issued here with parked := true, wait := none }) 0x10000
     (∃ a t, r = (.ok a, t)) ∧ r.2.kindDiffers (r.2.ctxOf 0) false 0x10000 0x1000C = false) :=
  ⟨⟨acts_of (by decide +kernel), by decide +kernel, by unfold Env.Stays; decide +kernel⟩,
   ⟨acts_of (by decide +kernel), by decide +kernel⟩,
   ⟨acts_of (by decide +kernel), by decide +kernel, by decide +kernel, by decide +kernel, by decide +kernel,
    by decide +kernel, by decide +kernel, ok_of (by decide +kernel), by decide +kernel⟩⟩

/-- EXIT: of one lane of a warp that goes on, and of every lane. -/
theorem meets_exit :
    (let f : Fields := { form := .ext, pg := 1 }
     let en := (demo [] oneLane).nat here f
     en.Acts ∧ en.sl.live = true ∧ en.sl.mask &&& ~~~en.e ≠ 0 ∧ en.Stays en.fall ∧
     (({ en.w with lanes := en.w.lanes &&& ~~~en.e }.setSlot 0
       { en.sl.issued here with mask := en.sl.mask &&& ~~~en.e, pc := en.fall, wait := none }).Rests)) ∧
    (let en := plain.nat here (ext 0 0 0 0 0 0)
     en.sl.mask &&& ~~~en.e = 0 ∧ en.w.dstkSp = (en.w.getC 15).base ∧ (en.w.slot 1).live = false) :=
  ⟨⟨acts_of (by decide +kernel), by decide +kernel, by decide +kernel, by unfold Env.Stays; decide +kernel,
    by unfold Warp.Rests; decide +kernel⟩,
   by decide +kernel⟩

/-- A yield that has ended, and one that has not. -/
theorem meets_yield : (∃ w, mapFind plain.warps 0 = some w ∧ w.yieldUntil ≤ plain.clk) ∧
    ∃ w, mapFind (demo [] fun w => { w with yieldUntil := 1 }).warps 0 = some w ∧ plain.clk < w.yieldUntil :=
  ⟨⟨_, rfl, by decide +kernel⟩, ⟨_, rfl, by decide +kernel⟩⟩

/-- A stack with records on it: the words of each, lowest address first. -/
def stacked (l : List Rec) : State :=
  let s := demo [] fun w => { w with dstkSp := BitVec.ofNat 64 (0x10000 + 32 * l.length) }
  { s with mem := s.mem.store 0x10000 (l.flatMap Rec.bytes) }

/-- DPSH writes its record; DPOP reads a software record, another record, and an empty stack. -/
theorem meets_records :
    (let en := plain.nat here (ext 1 2 3 0 0 0)
     en.Runs ∧ ∃ t, plain.stackWrite en.who en.w en.w.dstkSp [{ kind := 3 }] = (.ok (), t)) ∧
    (let s := stacked [{ pc := 7, mask := 8, rpc := 9, kind := 3 }]
     let en := s.nat here (ext 1 2 3 0 0 0)
     en.Runs ∧ en.w.dstkSp ≠ (en.w.getC 15).base ∧
     (okAnd (s.stackRead en.who en.w (en.w.dstkSp - 32)) fun r t =>
       decide (r = { pc := r.pc, mask := r.mask, rpc := r.rpc, kind := 3 }) &&
       !(t.kindDiffers en.ctx false here.pc en.fall)) = true ∧
     (({ en.w with dstkSp := en.w.dstkSp - 32 } : Warp).setSlot 0 { en.sl.issued here with pc := en.fall }).Rests) ∧
    (let s := stacked [{ kind := 1 }]
     let en := s.nat here (ext 1 2 3 0 0 0)
     (okAnd (s.stackRead en.who en.w (en.w.dstkSp - 32)) fun r _ => decide (r.kind ≠ 3)) = true) ∧
    (plain.nat here {}).w.dstkSp = ((plain.nat here {}).w.getC 15).base :=
  ⟨⟨runs_of (by decide +kernel), okUnit_of (by decide +kernel)⟩,
   ⟨runs_of (by decide +kernel), by decide +kernel, by decide +kernel, by unfold Warp.Rests; decide +kernel⟩, by decide +kernel⟩

/-- RTT: an entry on top whose slot 0 is live, and a top record that is no trap head. -/
theorem meets_trap_return :
    (let s := stacked [{ kind := 1 }, { pc := 0x10040, mask := 1, rpc := noRpc, kind := 1, flagL := true },
       { kind := 2, auxLo := 0x16 }]
     let en := s.nat here (ext 0 0 0 0 0 0)
     en.Acts ∧ ¬(en.w.s0.live = true ∧ en.w.s1.live = true) ∧ en.w.dstkSp ≠ (en.w.getC 15).base ∧
     (okAnd (s.stackRead en.who en.w (en.w.dstkSp - 32)) fun head s =>
       okAnd (s.stackRead en.who en.w (en.w.dstkSp - 64)) fun r0 s =>
       okAnd (s.stackRead en.who en.w (en.w.dstkSp - 96)) fun r1 _ =>
         decide (head = { kind := 2, auxLo := 0x16 }) && decide (r0.kind = 1 ∧ r0.flagL = true ∧ r0.mask = 1) &&
         decide (r1 = { kind := 1 })) = true ∧
     ({ en.w with s0 := { live := true, pc := 0x10040, mask := 1, rpc := noRpc }, s1 := {}
                  dstkSp := en.w.dstkSp - 96 } : Warp).Rests) ∧
    (let s := stacked [{ kind := 1 }]
     let en := s.nat here (ext 0 0 0 0 0 0)
     (okAnd (s.stackRead en.who en.w (en.w.dstkSp - 32)) fun head _ => decide (head.kind ≠ 2)) = true) :=
  ⟨⟨acts_of (by decide +kernel), by decide +kernel, by decide +kernel, by decide +kernel, by unfold Warp.Rests; decide +kernel⟩,
   by decide +kernel⟩

/-- The plain warp with a trap handler. -/
def handled : State := demo [] fun w => { w with trapVec := 0x10100 }

/-- TRAP, an unarmed and an armed BKPT, and a bad word: the entry can be written. -/
theorem meets_trap :
    (let en := handled.nat here (ext 0 0 0 0 0 5)
     let w := en.w.setSlot 0 { en.sl.issued here with pc := en.fall, wait := none }
     en.Acts ∧ here.paired = false ∧ w.trapVec ≠ 0 ∧
     ∃ t, (en.goesOn handled).stackWrite ((en.goesOn handled).who 0 0) w w.dstkSp
       (trapEntry w 0 here.pc { cause := 0x8005, lanes := en.e } false false) = (.ok (), t)) ∧
    (let en := handled.whole here
     en.Acts ∧ en.w.trapVec ≠ 0 ∧
     ∃ t, handled.stackWrite (handled.who 0 0) en.w en.w.dstkSp
       (trapEntry en.w 0 here.pc { cause := 1, lanes := en.e } false false) = (.ok (), t)) ∧
    (∃ c, mapFind plain.ctxs 0 = some c ∧ c.bkpt = false) ∧
    ∃ c, mapFind (plain.modCtx 0 fun c => { c with bkpt := true }).ctxs 0 = some c ∧ c.bkpt = true :=
  ⟨⟨acts_of (by decide +kernel), rfl, by decide +kernel, okUnit_of (by decide +kernel)⟩,
   ⟨acts_of (by decide +kernel), by decide +kernel, okUnit_of (by decide +kernel)⟩,
   ⟨_, rfl, by decide +kernel⟩, ⟨_, rfl, by decide +kernel⟩⟩

/-- The plain warp with s registers set: a list of a register and a value. -/
def withS (l : List (Nat × Word)) : State := demo [] fun w => l.foldl (fun w x => w.setS x.1 x.2) w

/-- A change of the machine beside the plain warp's. -/
def withCore (s : State) (g : Core → Core) : State := s.putCore 0 (g (s.core 0))

/-- The accumulator window of the placed warp opened over all its rows, with every bank its own. -/
def windowed (s : State) : State :=
  (s.modWarp 0 fun w => { w with accLimit := 4096 }).modBlock 0 fun b => { b with banks := BitVec.allOnes 64 }

/-- Loads whose every lane passes; LDK; and LDS at the last word of the scratchpad. -/
theorem meets_load :
    (let en := plain.nat here (ext 8 9 1 0 4 0)
     en.Runs ∧ ∃ good t, checkLanes (fun s i => s.laneCheck en.who (en.w.getC 1) permR ((en.w.getV 9 i).zeroExtend 64) 4 false)
       plain (maskLanes en.e) = (good, [], t)) ∧
    (let en := plain.nat here (ext 8 9 1 0 4 0)
     ∃ x t, plain.laneCheck en.who (en.w.getC 1) permR (en.sA (ext 8 9 1 0 4 0)) 4 false = (.ok x, t)) ∧
    (let s := withS [(9, 0x7FFFC)]
     let en := s.nat here (ext 8 9 0 0 12 0)
     en.Runs ∧ (en.sA (ext 8 9 0 0 12 0)).toNat < 2 ^ 63 ∧
     (en.sA (ext 8 9 0 0 12 0)).toNat + 4 = 4096 * (s.block 0).spu ∧ (en.sA (ext 8 9 0 0 12 0)).toNat % 4 = 0 ∧ (s.block 0).torn = []) :=
  ⟨⟨runs_of (by decide +kernel), good_of (by decide +kernel)⟩, ok_of (by decide +kernel),
   ⟨runs_of (by decide +kernel), by decide +kernel⟩⟩

/-- Stores whose every lane passes, plain and as a release. -/
theorem meets_store :
    (let en := plain.nat here (ext 8 9 1 0 4 0)
     en.Runs ∧ ∃ good t, checkLanes (fun s i => s.laneCheck en.who (en.w.getC 1) permW ((en.w.getV 9 i).zeroExtend 64) 4 true)
       plain (maskLanes en.e) = (good, [], t)) ∧
    (let en := plain.nat here (ext 8 9 1 0 20 0)
     en.Runs ∧ ∃ good t, checkLanes
       (fun s i => s.homeCheck en.who (en.w.getC 1) permW ((en.w.getV 9 i).zeroExtend 64) 4 4 { w := true })
       plain (maskLanes en.e) = (good, [], t)) :=
  ⟨⟨runs_of (by decide +kernel), good_of (by decide +kernel)⟩, ⟨runs_of (by decide +kernel), good_of (by decide +kernel)⟩⟩

/-- Scratchpad offsets that fail: one past the end, and an unaligned one. -/
theorem meets_scratch_fault :
    (let en := (withS [(9, 0x80000)]).nat here (ext 8 9 0 0 12 0)
     en.Acts ∧ en.e.getLsbD 0 = true ∧ 4096 * en.block.spu < (en.sA (ext 8 9 0 0 12 0)).toNat + 4) ∧
    (let en := (withS [(9, 2)]).nat here (ext 8 9 0 0 12 0)
     en.Acts ∧ (en.sA (ext 8 9 0 0 12 0)).toNat % 4 ≠ 0) :=
  ⟨⟨acts_of (by decide +kernel), by decide +kernel⟩, ⟨acts_of (by decide +kernel), by decide +kernel⟩⟩

/-- A row of the scratchpad in error under its first lane; and a row of the accumulator. -/
theorem meets_torn :
    (let s := plain.modBlock 0 fun b => { b with torn := [(1, 0, 5)] }
     let f := ext 8 9 0 0 12 0
     let en := s.nat here f
     en.Acts ∧ (en.sA f).toNat < 2 ^ 63 ∧ (en.sA f).toNat + 4 ≤ 4096 * en.block.spu ∧ (en.sA f).toNat % 4 = 0 ∧
     f.mod.toNat / 16 % 4 ≠ 1 ∧ en.tornLanes (fun _ => en.sA f) 4 = some (5, BitVec.allOnes 64)) ∧
    (let s := (windowed plain).modBlock 0 fun b => { b with torn := [(2, 0, 6)] }
     let f := ext 8 2 0 0 0 0
     let en := s.nat here f
     windowFault en.w en.block (en.sA f).toNat 1 = none ∧ s.accHeld here.warp [(0, 1, false)] [] true = false ∧
     en.block.tornRow 2 0 0 = some 6) :=
  ⟨⟨acts_of (by decide +kernel), by decide +kernel⟩,
   by decide +kernel⟩

/-- A sector that the L1 of core 0 holds for reading and writing. -/
def heldSector : Sector :=
  { asid := 1, va := 0x800, pa := 0x800, data := List.replicate 32 0, tag := false, read := true, write := true }

/-- An access within a held sector up to its last byte; and within one that no L1 holds. -/
theorem meets_sector :
    (let s := plain.putSectors 0 [heldSector]
     let w := s.who 0 0
     (0x1001C#64).toNat % 32 + [1#8, 2, 3, 4].length = 32 ∧ heldSector.data.length = 32 ∧
     s.sector w.id w.asid ((0x1001C#64).toNat / 32) = some heldSector ∧ heldSector.write = true ∧ heldSector.read = true ∧
     foreign heldSector w = false) ∧
    (let w := plain.who 0 0
     (0x1001C#64).toNat % 32 + 4 ≤ 32 ∧ 0x1001C % 32 = (0x1001C#64).toNat % 32 ∧
     plain.sector w.id w.asid ((0x1001C#64).toNat / 32) = none ∧ (plain.linesOf w.id (l1Array w.id (0x1001C / 128))).length < l1Lines ∧
     (∀ id ∈ plain.l1Ids, ∀ x ∈ plain.sectors id, x.pa = 0x1001C / 32 → x.dirty = 0)) := by decide +kernel

/-- CFLUSH of nothing, and of one line; and each kind of FENCE. -/
theorem meets_cflush :
    (let f := ext 0 3 1 4 0 0
     (plain.nat here f).Runs ∧ ((plain.nat here f).sC f).toNat = 0 ∧ f.mod = 0) ∧
    (let s := withS [(4, 128)]
     let f := ext 0 3 1 4 0 0
     let en := s.nat here f
     en.Runs ∧ (en.sC f).toNat ≠ 0 ∧ s.capCheck en.ctx (en.w.getC 1) permR (en.sA f) 128 0 = none ∧
     ∃ l t, s.translateRange (some en.who.cluster) en.ctx { r := true } 0 (en.w.getC 1).base 128 = (.ok l, t)) ∧
    (ext 0 0 0 0 1 4).mod = 1 ∧ (ext 0 0 0 0 2 4).mod = 2 ∧ (ext 0 0 0 0 3 4).mod = 3 :=
  ⟨⟨runs_of (by decide +kernel), by decide +kernel, rfl⟩,
   ⟨runs_of (by decide +kernel), by decide +kernel, by decide +kernel, ok_of (by decide +kernel)⟩, rfl, rfl, rfl⟩

/-- ATOM on every lane, and ATOMS within the scratchpad. -/
theorem meets_atom :
    (let en := plain.nat here (ext 8 9 1 10 0 0)
     en.Runs ∧ ∃ good t, checkLanes (fun s i => s.homeCheck en.who (en.w.getC 1) (permR ||| permW ||| permAT)
       ((en.w.getV 9 i).zeroExtend 64) 4 4 { r := true, w := true }) plain (maskLanes en.e) = (good, [], t)) ∧
    (∀ i < 64, ((plain.nat here (ext 8 9 1 10 0 0)).w.getV 9 i).toNat + 4 ≤ 4096 * (plain.block 0).spu ∧
      ((plain.nat here (ext 8 9 1 10 0 0)).w.getV 9 i).toNat % 4 = 0) :=
  ⟨⟨runs_of (by decide +kernel), good_of (by decide +kernel)⟩, by decide +kernel⟩

/-- CLD and CST of an aligned granule. -/
theorem meets_capability_access :
    (let en := plain.nat here (ext 3 1 1 2 0 0)
     en.Runs ∧ (∃ x t, plain.laneCheck en.who (en.w.getC 1) (permR ||| permLC) 0 32 false = (.ok x, t)) ∧
     ∃ x t, plain.homeCheck en.who (en.w.getC 1) (permW ||| permSC) 0 32 32 { w := true } = (.ok x, t)) ∧
    (codeCap = codeCap.restrict 0xFF ∧ (codeCap.narrow 32 64).tag = true ∧ (codeCap.restrict 1).tag = true) :=
  ⟨⟨runs_of (by decide +kernel), ok_of (by decide +kernel), ok_of (by decide +kernel)⟩, by decide +kernel⟩

/-! ### Engine -/

/-- An operand pair of one record of four bytes (Table 6.3). -/
def onePair : Word := 0x100000004

/-- A load in h4 that MMA may use. -/
def loaded : State :=
  let s := windowed ((withS [(3, onePair), (5, onePair), (6, 1)]).modWarp 0 fun w => w.setH 4 { value := 1, uid := 7 })
  withCore { s with ops := [(7, { state := 2, desc := some (11, 1, 1) })] } fun c =>
    { c with loads := [(1, { op := 7, ctx := 0, block := 0, buf := 0 })] }

/-- WLD, WSCL, MMA and MSL pass their checks, and the array has rows. -/
theorem meets_matrix :
    (let s := withS [(4, 4)]
     let f := ext 3 2 1 4 0 11
     let en := s.nat here f
     en.Runs ∧ (s.core 0).mxRows ≠ 0 ∧ (en.sC f).toNat % 4 = 0 ∧ recordLen 11 1 false ≤ (en.sC f).toNat ∧
     en.memCheck { cap := en.w.getC 1, off := en.sA f, stride := 4, count := 1 } 4 permR 4 = none ∧
     en.memCheck { cap := en.w.getC 1, off := en.sA f, stride := 256, count := 1 } 256 permR 4 = none) ∧
    (let f := ext 3 2 1 4 0 0xB000
     let en := loaded.nat here f
     let a := en.w.pair 2
     en.Runs ∧ (en.w.getH 4).value ≠ 0 ∧
     mapFind loaded.ops 7 = some { state := 2, desc := some (11, 1, 1) } ∧ pairing 11 11 = true ∧
     a.ok (recordLen 11 1 false) 4096 = true ∧ en.memCheck (a.ref (en.w.getC 1)) (recordLen 11 1 false) permR 4 = none ∧
     windowFault en.w en.block 0 a.count = none ∧
     mapFirst (fun _ (l : Load) => decide (l.op = 7)) (loaded.core 0).loads =
       some (1, { op := 7, ctx := 0, block := 0, buf := 0 }) ∧ (loaded.core 0).displaced 1 = false) ∧
    (let f := ext 3 2 1 4 0 0xB1000
     let en := loaded.nat here f
     1 ≤ (en.w.getS 6).toNat ∧ (en.w.pair 2).ok (recordLen 11 1 false) 64 = true ∧
     (en.w.pair 4).ok (recordLen 11 1 false) 32 = true ∧
     en.memCheck ((en.w.pair 4).ref (en.w.getC 1)) (recordLen 11 1 false) permR 4 = none) :=
  ⟨⟨runs_of (by decide +kernel), by decide +kernel⟩,
   ⟨runs_of (by decide +kernel), by decide +kernel⟩,
   by decide +kernel⟩

/-- AEPI, AGUI in a pod, ATKS and ATOPK pass their checks. -/
theorem meets_epilogue :
    (let f := ext 3 2 1 4 0 0xB000
     let en := (windowed (withS [(3, onePair)])).nat here f
     let a := en.w.pair 2
     en.Runs ∧ a.rsvd = 0 ∧ a.tcol = 0 ∧ a.count = 1 ∧ elemBits 11 / 8 ≤ a.stride ∧
     en.memCheck (a.ref (en.w.getC 1)) (elemBits 11 / 8) permW (elemBits 11 / 8) = none ∧
     windowFault en.w en.block 0 1 = none) ∧
    (let s := (windowed plain).modWarp 0 fun w => { w with pod := { on := true, partner := 1 } }
     let s := { s with warps := mapPut s.warps 1 { placedWarp with accLimit := 4096 } }
     let en := s.nat here (ext 3 2 0 0 0 0x1000)
     en.Runs ∧ en.w.pod.on = true ∧
     (∃ p, mapFind s.warps (warpKey en.bk en.w.pod.partner.toNat) = some p ∧ windowFault p en.block 0 1 = none) ∧
     windowFault en.w en.block 0 1 = none) ∧
    (let f := ext 3 2 1 4 0 1
     let en := (windowed plain).nat here f
     en.memCheck { cap := en.w.getC 1, off := en.sA f, stride := 64, count := 1 } 64 permW 4 = none ∧
     en.memCheck { cap := en.w.getC 1, off := en.sA f, stride := 64, count := 1 } 64 permR 4 = none) ∧
    (let f := ext 0 2 3 0 1 0x1000
     let en := (windowed (withS [(3, 4095)])).nat here f
     en.Runs ∧ (en.sB f).toNat ≤ 4095 ∧ windowFault en.w en.block 0 1 = none ∧ en.s.accHeld here.warp [] [(0, 1, true)] false = false) :=
  ⟨⟨runs_of (by decide +kernel), by decide +kernel⟩,
   ⟨runs_of (by decide +kernel), by decide +kernel, ⟨_, rfl, by decide +kernel⟩, by decide +kernel⟩,
   by decide +kernel, ⟨runs_of (by decide +kernel), by decide +kernel⟩⟩

/-- A machine with doublewords in memory, at the code's address. -/
def withWords (s : State) (l : List Nat) : State :=
  { s with mem := s.mem.store 0x10000 (l.flatMap (leBytes 8)) }

/-- A group descriptor of one group of one row, with a bitmap or not; its vector at 64 and its bitmap at 72. -/
def groupWords (bitmap : Nat) : List Nat :=
  [0, 4 + 2 ^ 32 * 0xBB111, 0, 4, 4, 64, 72, 1 + 2 ^ 15 * bitmap, 2 ^ 32, 1]

/-- MMAG passes its checks, without a bitmap and with one. -/
theorem meets_mmag (k : Nat) (hk : k ≤ 1) :
    let s := withWords (windowed plain) (groupWords k)
    let f := ext 3 2 1 0 0 0
    let en := s.nat here f
    let desc : MatRef := { cap := en.w.getC 1, off := en.sA f, stride := 64, count := 1 }
    let get := fun (s : State) (va : Word) (n : Nat) =>
      (s.flushFor 0 [(va.toNat, n, false)]).engineRead en.block.core en.ctx va n
    let x := get s desc.base 64
    let y := get x.2 0x10040 8
    let z := get y.2 0x10048 1
    en.Runs ∧ (s.core en.block.core).mxRows ≠ 0 ∧ en.memCheck desc 64 permR 4 = none ∧
      s.readsHeld 0 desc.base.toNat 64 = false ∧ x.2.readsHeld 0 0x10040 8 = false ∧ y.2.readsHeld 0 0x10048 1 = false ∧
      okAnd x (fun l _ =>
        let g : GroupDesc := { dw := (bytesDw 8 l).map BitVec.toNat }
        let act : MatRef := { cap := en.w.getC (g.get 1 32 4), off := BitVec.ofNat 64 (g.get 0 0 64)
                              stride := g.get 1 0 32, count := 1 }
        let vec : MatRef := { cap := en.w.getC (g.get 1 40 4), off := BitVec.ofNat 64 (g.get 5 0 64), stride := 0, count := 1 }
        let map : MatRef := { cap := en.w.getC (g.get 1 40 4), off := BitVec.ofNat 64 (g.get 6 0 64), stride := 0, count := 1 }
        g.ok && decide (g.groups = 1) && decide (bit (g.dw.getD 7 0) 15 = true ↔ k = 1) &&
        decide (en.memCheck vec 8 permR 4 = none) && decide (vec.base = 0x10040) && decide (map.base = 0x10048) &&
        decide (en.memCheck act g.recs.1 permR 4 = none) && decide (en.memCheck map 1 permR 4 = none) &&
        decide (en.groupChecks g (en.w.getC (g.get 1 36 4)) g.groups 0 = none)) = true ∧
      okAnd y (fun l _ => decide ((chunks 4 2 l).map leNat = [0, 1])) = true ∧ okB z.1 = true ∧
      windowFault en.w en.block 0 1 = none := by
  have : k = 0 ∨ k = 1 := by omega
  rcases this with rfl | rfl
  · exact ⟨runs_of (by decide +kernel), by decide +kernel⟩
  · exact ⟨runs_of (by decide +kernel), by decide +kernel⟩

/-- A state with a second warp, both in a pod; the partner at a pod sequence number and perhaps waiting at an MMAP. -/
def podded (seq : BitVec 32) (wait : Option Wait) : State :=
  let s := (windowed (withS [(3, onePair), (5, onePair)])).modWarp 0 fun w => { w with pod := { on := true, partner := 1 } }
  { s with warps := mapPut s.warps 1 { placedWarp with
      accLimit := 4096, pod := { on := true, uncond := true, partner := 0, seq }, s0 := { placedWarp.s0 with wait } } }

/-- MMAP's fields: bf16 by bf16, weights on c1, K of 1. -/
def mmapF : Fields := ext 3 2 1 4 0 0xBB1000

/-- The request of the partner that waits at the same MMAP. -/
def mmapReq (shape : List Nat) : MmapReq :=
  { issue := { here with warp := 1 }, mask := BitVec.allOnes 64, d := 3
    p := { row := 0, act := { cap := codeCap, off := 0, stride := 4, count := 1 }, afmt := 11, wfmt := 11, kdim := 1, ndim := 1
           acc := false, rs := false, cs := false }
    seq := 0
    w := { cap := codeCap, off := 0, stride := 4, count := 1 }, shape, since := 0, sregs := [], caps := [] }

/-- MMAP passes its checks beside each kind of partner; and a wait that is over after 1,024 clk. -/
theorem meets_mmap :
    (∀ seq < (2 : Nat), let en := (podded (BitVec.ofNat 32 seq) none).nat here mmapF
      let a := en.w.pair 2
      let c := en.w.pair 4
      en.Runs ∧ ((podded (BitVec.ofNat 32 seq) none).core en.block.core).mxRows ≠ 0 ∧ en.w.pod.on = true ∧ en.sl.wait = none ∧
      pairing 11 11 = true ∧ a.ok (recordLen 11 1 false) 4096 = true ∧ c.ok (recordLen 11 1 false) 64 = true ∧
      en.memCheck (a.ref (en.w.getC 1)) (recordLen 11 1 false) permR 4 = none ∧
      en.memCheck (c.ref (en.w.getC 1)) (recordLen 11 1 false) permR 4 = none ∧
      windowFault en.w en.block 0 a.count = none ∧
      okAnd ((Except.ok () : Except Unit Unit), mapFind en.s.warps (warpKey en.bk en.w.pod.partner.toNat))
        (fun _ p => p.any fun p => decide (p.waitingMmap = none ∧ p.pod.seq.toNat = seq)) = true) ∧
    (let shape := [1, 1, 1, 11, 11, 65536, 4]
     let r := mmapReq shape
     let s := podded 0 (some (.mmap r))
     let en := s.nat here mmapF
     let c := en.w.pair 4
     en.Runs ∧ c.ref (en.w.getC 1) = r.w ∧ shape = [(en.w.pair 2).count, 1, c.count, 11, 11, r.w.base.toNat, r.w.stride] ∧
     (mapFind s.warps 1).any (fun p => decide (p.waitingMmap = some r ∧ r.seq = en.w.pod.seq)) = true ∧
     (mapFind s.warps 1).any (fun p => s.mmapOver 1 p r) = false ∧
     (mapFind s.warps 1).any (fun p => ({ s with clk := 1024 } : State).mmapOver 1 p r) = true) := by
  refine ⟨fun seq h => ?_, runs_of (by decide +kernel), by decide +kernel⟩
  have : seq = 0 ∨ seq = 1 := by omega
  rcases this with rfl | rfl
  · exact ⟨runs_of (by decide +kernel), by decide +kernel⟩
  · exact ⟨runs_of (by decide +kernel), by decide +kernel⟩

/-- AALLOC, AFREE, AWIN, AZERO, LDA and STA with banks free and allocated, at the ends of their ranges. -/
theorem meets_accumulator :
    (let s := withS [(2, 62)]
     let en := s.nat here (ext 3 2 4 5 0 2)
     en.Runs ∧ (en.sA (ext 3 2 4 5 0 2)).toNat + 2 = 64 ∧ (∀ i < 2, en.block.banks.getLsbD (62 + i) = false) ∧
     ((List.range 64).filter fun i => en.block.banks.getLsbD i).length + 2 ≤ en.block.accb ∧
     warpId here.warp = 0 ∧ (en.sC (ext 3 2 4 5 0 2)).toNat ≤ 4096) ∧
    (let s := windowed (withS [(2, 62)])
     let en := s.nat here (ext 3 2 4 5 0 2)
     (∀ i < 2, en.block.banks.getLsbD (62 + i) = true) ∧
     en.s.accHeld here.warp [(64 * 62, 64 * 2, true)] [(64 * 62, 64 * 2, true)] true = false) ∧
    (let s := windowed (withS [(2, 4095)])
     let en := s.nat here (ext 3 2 4 5 0 0x1000)
     (en.sA (ext 3 2 4 5 0 0x1000)).toNat = 4095 ∧ windowFault en.w en.block 4095 1 = none ∧
     en.s.accHeld here.warp [(4095, 1, true)] [(4095, 1, true)] true = false ∧
     en.s.accHeld here.warp [(4095, 1, false)] [] true = false ∧ (s.block 0).torn = [] ∧
     en.s.accHeld here.warp [(4095, 1, true)] [] true = false) ∧
    (let s := withS [(2, 0), (4, 4096), (5, 4096)]
     let en := s.nat here (ext 3 2 4 5 0 0)
     (en.sA (ext 3 2 4 5 0 0)).toNat < en.block.wpb ∧ (en.sC (ext 3 2 4 5 0 0)).toNat = 4096 ∧
     (en.sB (ext 3 2 4 5 0 0)).toNat ≤ 4096) :=
  ⟨⟨runs_of (by decide +kernel), by decide +kernel⟩, by decide +kernel⟩

/-- The plain state with h2 naming an operation in a state. -/
def handled2 (state : Nat) : State :=
  let s := plain.modWarp 0 fun w => w.setH 2 { value := 1, uid := 7 }
  { s with ops := [(7, { state })] }

/-- A queued operation of the placed warp. -/
def queued : EngineOp := { uid := 7, warp := 0, block := 0, ctx := 0, slot := 0, kind := .wscl none, value := 1 }

/-- Handles: zero, and in each kind of state; MWAIT.b with an open operation, with a failure and with neither; HCANCEL
of an operation that has not started. -/
theorem meets_handles :
    (plain.nat here (ext 1 2 0 0 0 0)).Runs ∧ ((plain.nat here (ext 1 2 0 0 0 0)).w.getH 2).value = 0 ∧
    (∀ st < (6 : Nat), ((handled2 st).nat here (ext 1 2 0 0 0 0)).Runs ∧
      (((handled2 st).nat here (ext 1 2 0 0 0 0)).w.getH 2).value ≠ 0 ∧
      mapFind (handled2 st).ops (((handled2 st).nat here (ext 1 2 0 0 0 0)).w.getH 2).uid = some { state := st }) ∧
    (∀ o ∈ (plain.core 0).ops, o.warp ≠ 0) ∧
    ((demo [] fun w => { w with failures := [(1, 0)] }).nat here (ext 1 2 0 0 0 0)).w.failures = [(1, 0)] ∧
    (let s := withCore (handled2 0) fun c => { c with ops := [queued] }
     let en := s.nat here (ext 1 2 0 0 0 0)
     en.Runs ∧ en.block.core = 0 ∧ queued ∈ (s.core 0).ops ∧ queued.batch.toNat = 0 ∧
     (s.core 0).ops.find? (fun o => decide ((en.w.getH 2).value ≠ 0 ∧ o.uid = (en.w.getH 2).uid) && o.cancellable) =
       some queued) := by
  refine ⟨runs_of (by decide +kernel), by decide +kernel, fun st h => ?_, by decide +kernel, by decide +kernel,
    runs_of (by decide +kernel), by decide +kernel⟩
  have : st = 0 ∨ st = 1 ∨ st = 2 ∨ st = 3 ∨ st = 4 ∨ st = 5 := by omega
  rcases this with rfl | rfl | rfl | rfl | rfl | rfl <;>
    exact ⟨runs_of (by decide +kernel), by decide +kernel⟩

/-- Two warps, the second waiting for a pod with the first or not. -/
def twoWarps (wait : Option Wait) : State :=
  let s := (withS [(2, 1)]).modBlock 0 fun b => { b with wpb := 2 }
  { s with warps := mapPut s.warps 1 { placedWarp with s0 := { placedWarp.s0 with wait } } }

/-- POD: a bad partner, one that does not wait, and one that waits in the other role; and POD.off inside a pod. -/
theorem meets_pods :
    (let en := plain.nat here (ext 0 2 0 0 0 0)
     en.Runs ∧ (en.sA (ext 0 2 0 0 0 0)).toNat = warpId here.warp) ∧
    (let en := (twoWarps none).nat here (ext 0 2 0 0 0 0)
     en.Runs ∧ (en.sA (ext 0 2 0 0 0 0)).toNat < en.block.wpb ∧ (en.sA (ext 0 2 0 0 0 0)).toNat ≠ warpId here.warp ∧
     en.w.pod.on = false ∧ (mapFind (twoWarps none).warps 1).any (fun p => decide (p.pod.on = false ∧ p.waitingPod = none)) = true) ∧
    (let s := twoWarps (some (.pod 0 true { here with warp := 1 } 1))
     (s.nat here (ext 0 2 0 0 0 0)).Runs ∧ (mapFind s.warps 1).any (fun p =>
       decide (p.pod.on = false ∧ p.waitingPod = some (0, !false, { here with warp := 1 }, 1))) = true) ∧
    ((podded 0 none).nat here (ext 0 2 0 0 0 0)).Runs ∧ ((podded 0 none).nat here (ext 0 2 0 0 0 0)).w.pod.on = true :=
  ⟨⟨runs_of (by decide +kernel), by decide +kernel⟩,
   ⟨runs_of (by decide +kernel), by decide +kernel⟩,
   ⟨runs_of (by decide +kernel), by decide +kernel⟩, runs_of (by decide +kernel), by decide +kernel⟩

/-! ### Copies, barriers and sets -/

/-- A state with a ring of 16 entries at scratchpad offset 0, its header written with a count of published entries. -/
def ringed (s : State) (r : Ring := { off := 0, k := 4 }) (q : BitVec 32 := 0) : State :=
  s.modBlock 0 fun b => { b with ring := some r }.scratchWrite 0 (r.header q)

/-- CPY's word 2: slots and no barrier. -/
def slots (ss ds : Nat) : BitVec 32 := BitVec.ofNat 32 (ss + 16 * ds + 256 * 31)

/-- The copy instructions publish: room in the ring and operands in range, and a full ring. -/
theorem meets_copy :
    (let s := ringed (withS [(2, 0x7FFFF), (3, 1), (5, 4), (6, 1), (7, 0x1000100000100)])
     let en := s.nat here (ext 1 2 4 6 0 (slots 8 0))
     let q := en.block.scratchWord 0
     en.Runs ∧ en.block.ring = some { off := 0, k := 4 } ∧ (q - 0).toNat < 2 ^ 4 ∧
     (en.w.getS 2).toNat < 2 ^ 63 ∧ (en.w.getS 2).toNat + 1 = en.block.scratchSize) ∧
    (let s := ringed plain { off := 0, k := 4, finished := BitVec.ofNat 32 (2 ^ 32 - 16) }
     let en := s.nat here (ext 1 2 4 6 0 (slots 0 0))
     en.Runs ∧ 2 ^ 4 ≤ (en.block.scratchWord 0 - BitVec.ofNat 32 (2 ^ 32 - 16)).toNat) ∧
    (let n := (0x1000100000100 : Nat)
     n / 2 ^ 32 % 2 ^ 16 = 1 ∧ n / 2 ^ 48 = 1 ∧ n % 2 ^ 32 % 4 = 0 ∧
     n % 2 ^ 32 + 4 * 1 ≤ (plain.block 0).scratchSize) ∧
    (∀ ty < 8, 0 % (if ty = 2 ∨ ty = 3 ∨ ty = 5 then 8 else 4) = 0) :=
  ⟨⟨runs_of (by decide +kernel), by decide +kernel⟩,
   ⟨runs_of (by decide +kernel), by decide +kernel⟩, by decide +kernel, fun _ _ => Nat.zero_mod _⟩

/-- CPY.init and CPY.cap: an offset that fits, no ring, an idle ring, a busy one, and a halted one with and without a
copy that still runs; a slot in use and a free one. -/
theorem meets_rings :
    (let en := plain.nat here (ext 0 2 1 0 0 4)
     en.Runs ∧ (en.sA (ext 0 2 1 0 0 4)).toNat < 2 ^ 63 ∧
     (en.sA (ext 0 2 1 0 0 4)).toNat + (32 + 32 * 2 ^ 4) ≤ en.block.scratchSize ∧ en.block.ring = none ∧
     en.block.slotInUse 4 = false) ∧
    (((ringed plain).nat here (ext 0 2 1 0 0 4)).Runs ∧ ((ringed plain).block 0).scratchWord 0 = 0) ∧
    (let s := ringed plain { off := 0, k := 4, finished := 5 }
     (s.nat here (ext 0 2 1 0 0 4)).Runs ∧ (s.block 0).scratchWord 0 ≠ 5) ∧
    (let s := ringed plain { off := 0, k := 4, halted := true }
     (s.nat here (ext 0 2 1 0 0 4)).Runs ∧ (s.block 0).copies = [] ∧
     ((s.modBlock 0 fun b => { b with copies := [(0, { seq := 0, words := [0, 0, 0, 64] })] }).block 0).slotInUse 4 = true ∧
     ((s.modBlock 0 fun b => { b with copies := [(0, { seq := 0, words := [0, 0, 0, 64] })] }).nat here (ext 0 2 1 0 0 4)).Runs) :=
  ⟨⟨runs_of (by decide +kernel), by decide +kernel⟩,
   ⟨runs_of (by decide +kernel), by decide +kernel⟩, ⟨runs_of (by decide +kernel), by decide +kernel⟩,
   ⟨runs_of (by decide +kernel), by decide +kernel, by decide +kernel, runs_of (by decide +kernel)⟩⟩

/-- A ring whose header stands and whose next entry has been published: its four doublewords. -/
def published (entry : List Nat) : State :=
  (ringed plain { off := 0, k := 4 } 1).modBlock 0 fun b => b.scratchWrite 32 (entry.flatMap (leBytes 8))

/-- An entry that starts, one that is malformed, a corrupt header, and a copy whose sectors have all moved. -/
theorem meets_copy_entry :
    (let s := published [1024, 2048, 32, 8 * 16 + 8 * 256 + 31 * 4096]
     let b := s.block 0
     let r : Ring := { off := 0, k := 4 }
     b.ring = some r ∧ r.begun = [] ∧ b.copies = [] ∧ s.engineStopped b.ctx = false ∧ b.ringCorrupt r = false ∧ b.notify r = 1 ∧
     okB (s.startEntry 0 (entryOf (bytesDw 4 (b.scratchRead (r.entryAt 0) 32)))) = true ∧ (s.core b.core).ops = []) ∧
    (let s := published [0, 0, 0, 15]
     let b := s.block 0
     (entryOf (bytesDw 4 (b.scratchRead 32 32))).malformed = true ∧ b.ringCorrupt { off := 0, k := 4 } = false) ∧
    (let s := (published []).modBlock 0 fun b => b.scratchWrite 8 [1]
     (s.block 0).ringCorrupt { off := 0, k := 4 } = true) ∧
    (let c : CopyOp := { seq := 0, words := [0, 0, 0, 0], progress := 0 }
     mapFind [(0, c)] 0 = some c ∧ c.pieces.length ≤ c.progress ∧ c.fault = none) := by
  refine ⟨by decide +kernel, by decide +kernel⟩

/-- A copy of one sector between scratchpad places. -/
theorem meets_scratch_copy :
    let p : Piece := { dstScratch := true, dst := 2048, len := 32, srcScratch := true, src := 1024, srcLen := 32 }
    let c : CopyOp := { seq := 0, words := [1024, 2048, 32, 8 * 16 + 8 * 256 + 31 * 4096], pieces := [p] }
    let s := (ringed plain).modBlock 0 fun b => { b with copies := [(0, c)] }
    (s.block 0).ring = some { off := 0, k := 4 } ∧ (s.block 0).torn = [] ∧ mapFind (s.block 0).copies c.seq = some c ∧ (entryOf c.words).kind = 0 ∧
    c.pieces[c.progress]? = some p ∧ p.skip = 0 ∧ p.srcLen = p.len ∧ p.len ≠ 0 ∧ p.counted = true := by decide +kernel

/-- The plain state with a named barrier 0. -/
def barred (b : Barrier) (l : List (Nat × Word) := []) : State := (withS l).modBlock 0 fun k => k.setBar 0 b

/-- BARI, BARA, BARW and BART: counts in and out of range, a phase to wait for and a past one, and stopped barriers. -/
theorem meets_barrier :
    (let s := barred {} [(2, 64), (4, 0xFFFFFFFF)]
     let f := ext 1 2 4 0 0 0
     let en := s.nat here f
     en.Runs ∧ (en.block.bar 0).arrivals = 0 ∧ (en.block.bar 0).sectors = 0 ∧ s.barWaited en.bk 0 = false ∧
     (en.sA f).toNat = 64 ∧ (en.sB f).toNat < 2 ^ 32 ∧ (en.block.bar 0).failed = false ∧
     (en.block.bar 0).phase ≠ (en.sA f).extractLsb' 0 32) ∧
    (let en := (barred {}).nat here (ext 1 2 4 0 0 0)
     en.Runs ∧ (en.sA (ext 1 2 4 0 0 0)).toNat = 0 ∧
     (en.block.bar 0).phase = (en.sA (ext 1 2 4 0 0 0)).extractLsb' 0 32) ∧
    ((barred { overflow := true }).nat here (ext 1 2 4 0 0 0)).Runs ∧
    ((barred { failed := true, failSeq := 3 }).nat here (ext 1 2 4 0 0 0)).Runs :=
  ⟨⟨runs_of (by decide +kernel), by decide +kernel⟩, ⟨runs_of (by decide +kernel), by decide +kernel⟩,
   runs_of (by decide +kernel), runs_of (by decide +kernel)⟩

/-- Barriers at each boundary of the counts that they expect. -/
theorem meets_phase :
    (let b : Barrier := { expWarps := 2, expSectors := 1, arrivals := 1, sectors := 1 }
     b.failed = false ∧ b.overflow = false ∧ b.arrivals + 1 = b.expWarps ∧ b.sectors = b.expSectors) ∧
    (let b : Barrier := { expWarps := 2, expSectors := 1, arrivals := 2 }
     b.sectors + 1 = b.expSectors ∧ b.arrivals = b.expWarps) ∧
    (let b : Barrier := { expWarps := 2, expSectors := 2, arrivals := 0 }
     b.arrivals ≠ b.expWarps ∧ ¬(b.arrivals + 1 = b.expWarps ∧ b.sectors = b.expSectors) ∧
     b.sectors ≠ b.expSectors ∧ ¬(b.sectors + 1 = b.expSectors ∧ b.arrivals = b.expWarps)) := by decide

/-- The plain state with package barrier 0 in its context. -/
def sbarred (b : SBar) (l : List (Nat × Word) := []) (wait : Option Wait := none) : State :=
  ((withS l).modWarp 0 fun w => { w with s0 := { w.s0 with wait } }).modCtx 0 fun c => { c with sbars := mapSet {} c.sbars 0 b }

/-- SBAR: counts in and out of range, the last arrival and another, and a generation that is over and one that is not. -/
theorem meets_package_barrier :
    (let s := sbarred {} [(2, 46080)]
     let en := s.nat here (ext 1 2 0 0 0 0)
     en.Runs ∧ (en.sA (ext 1 2 0 0 0 0)).toNat = 46080 ∧ (en.sbar 0).arrivals = 0 ∧ (en.sbar 0).expected = 0 ∧
     (en.sbar 0).gen ≠ en.sA (ext 1 2 0 0 0 0) ∧ en.sl.wait = none) ∧
    (let s := sbarred { gen := 0, arrivals := 1, expected := 2 }
     let en := s.nat here (ext 1 2 0 0 0 0)
     en.Runs ∧ (en.sbar 0).expected ≠ 0 ∧ (en.sbar 0).arrivals + 1 = (en.sbar 0).expected ∧
     (en.sbar 0).gen = en.sA (ext 1 2 0 0 0 0) ∧ (en.sA (ext 1 2 0 0 0 0)).toNat = 0) ∧
    (let s := sbarred { gen := 0, arrivals := 1, expected := 3 } [] (some (.pkg 0 0 true))
     (s.nat here (ext 1 2 0 0 0 0)).Runs ∧ (s.nat here (ext 1 2 0 0 0 0)).sl.wait = some (.pkg 0 0 true)) :=
  ⟨⟨runs_of (by decide +kernel), by decide +kernel⟩, ⟨runs_of (by decide +kernel), by decide +kernel⟩,
   ⟨runs_of (by decide +kernel), by decide +kernel⟩⟩

/-- The plain state with set 31 of some members. -/
def joined (m : MSet) (wait : Option Wait := none) : State :=
  (((withS [(2, 31)]).modWarp 0 fun w => { w with s0 := { w.s0 with wait } }).modBlock 0 fun b => b.putSet 31 m)

/-- SETJ, SETL and SETW: no such set, the last set without and with this warp, alone and with another; and a wait. -/
theorem meets_sets :
    (let s := withS [(2, 32)]
     let en := s.nat here (ext 1 2 0 0 0 0)
     en.Runs ∧ 32 ≤ (en.sA (ext 1 2 0 0 0 0)).toNat) ∧
    (let s := joined {}
     let en := s.nat here (ext 1 2 0 0 0 0)
     en.Runs ∧ (en.sA (ext 1 2 0 0 0 0)).toNat = 31 ∧ (en.block.members 31).getLsbD 0 = false ∧ en.block.members 31 = 0 ∧
     s.liveSets en.block.core < 64) ∧
    (let s := joined { members := 1 }
     let en := s.nat here (ext 1 2 0 0 0 0)
     let t := (s.release 0).modBlock en.bk fun b => b.arriveSet 31 0
     en.Runs ∧ (en.block.members 31).getLsbD 0 = true ∧ (mapGet {} (t.block en.bk).sets 31).phase ≠ 0) ∧
    (let s := joined { members := 3 }
     let en := s.nat here (ext 1 2 0 0 0 0)
     let t := (s.release 0).modBlock en.bk fun b => b.arriveSet 31 0
     en.Runs ∧ (en.block.members 31).getLsbD 0 = true ∧ (mapGet {} (t.block en.bk).sets 31).phase = 0) ∧
    (let s := joined { members := 3 } (some (.set 31 0))
     (s.nat here (ext 1 2 0 0 0 0)).Runs ∧ (s.nat here (ext 1 2 0 0 0 0)).sl.wait = some (.set 31 0)) :=
  ⟨⟨runs_of (by decide +kernel), by decide +kernel⟩, ⟨runs_of (by decide +kernel), by decide +kernel⟩,
   ⟨runs_of (by decide +kernel), by decide +kernel⟩, ⟨runs_of (by decide +kernel), by decide +kernel⟩,
   ⟨runs_of (by decide +kernel), by decide +kernel⟩⟩

/-! ### Grid -/

/-- A pattern that names only this module: mode self on every axis (Table 7.12). -/
def selfPattern : BitVec 128 := BitVec.ofNat 128 ((List.range 5).map fun a => 2 ^ (24 * a + 23) + 2 ^ (24 * a + 22)).sum

/-- The plain state with that pattern in n0, and operands of s6 to s9. -/
def gridded (wait : Option Wait := none) : State :=
  (withS [(6, 0x400), (7, 0x800), (8, 16), (9, 0)]).modWarp 0 fun w =>
    { (w.setN 0 selfPattern).setN 1 (BitVec.ofNat 128 (2 ^ 120)) with s0 := { w.s0 with wait } }

/-- The grid accesses' operands pass: a valid pattern with this module in it, offsets of every lane, and lengths. -/
theorem meets_grid :
    (let en := (gridded).nat here (ext 2 0 1 6 0 1)
     let j := (gridded).jobOf 0
     en.Runs ∧ warpBlock here.warp = 0 ∧ patValid (en.w.getN 0) = true ∧ patCount j (en.w.getN 0) = 1 ∧
     (patIndex j (en.w.getN 0)).isSome = true ∧ redLength 0 0 16 = true ∧ (∀ a < 5, patMode (en.w.getN 0) a = 3)) ∧
    (let en := (gridded).nat here (ext 2 0 1 6 0 1)
     let c := en.w.getC 1
     (∀ i < 64, (gridded).capCheck en.ctx c (permW ||| permRM) ((en.w.getV 0 i).zeroExtend 64) 4 4 = none) ∧
     (∀ i < 64, (gridded).capCheck en.ctx c (permR ||| permRM) ((en.w.getV 0 i).zeroExtend 64) 4 4 = none) ∧
     (∀ i < 64, (gridded).capCheck en.ctx c (permR ||| permW ||| permAT ||| permRM) ((en.w.getV 0 i).zeroExtend 64) 4 4 = none) ∧
     (gridded).capCheck en.ctx c (permW ||| permRM) (en.w.getS 7) 16 4 = none ∧
     (gridded).capCheck en.ctx c permR (en.w.getS 6) 16 4 = none ∧
     (gridded).capCheck en.ctx c (permW ||| permRM) (en.w.getS 7) 16 0 = none ∧
     (gridded).capCheck en.ctx c permR (en.w.getS 6) 16 0 = none) ∧
    (let en := (gridded).nat here (ext 2 1 1 6 0 1)
     en.Acts ∧ patValid (en.w.getN 1) = false) ∧
    (let en := (gridded).nat here (ext 2 0 1 6 0 1)
     (mapFind (gridded).warps en.key).isSome = true ∧ (en.gridOp 0 {} 0).expected = 0 ∧ (en.gridOp 0 {} 1).expected ≠ 0) :=
  ⟨⟨runs_of (by decide +kernel), by decide +kernel⟩, by decide +kernel, ⟨acts_of (by decide +kernel), by decide +kernel⟩,
   by decide +kernel⟩

/-- A GLD that waits for its reply, in each state of it. -/
theorem meets_remote_load :
    (let s := gridded (some (.load 5))
     let en := s.nat here (ext 2 0 1 6 0 0)
     let g := { en.gridOp 1 {} 1 with silent := true }
     let t := fun (g : GridOp) => { s with fab := { s.fab with gridOps := [(5, g)] } }
     en.Runs ∧ en.sl.wait = some (.load 5) ∧ g.fn = 1 ∧ g.failed = none ∧ g.reply = none ∧
     (∀ x ∈ [g, { g with reply := some [] }, { g with failed := some (1, 0x10000) }],
       mapFind (t x).fab.gridOps 5 = some x ∧ actsB ((t x).nat here (ext 2 0 1 6 0 0)) = true) ∧
     (en.w.getC 1).base + (en.w.getV 0 0).zeroExtend 64 = 0x10000) :=
  ⟨runs_of (by decide +kernel), by decide +kernel⟩

/-- What a slot finds is an instruction that passes a test. -/
def finds (x : Look × State) (p : Instr → Bool) : Bool :=
  match x with
  | (.run i _, _) => p i
  | _ => false

theorem run_of {x : Look × State} {p : Instr → Bool} (h : finds x p = true) : ∃ i is u, x = (.run i is, u) ∧ p i = true := by
  obtain ⟨a, u⟩ := x
  cases a <;> first | exact ⟨_, _, _, rfl, h⟩ | cases h

/-- An atomic whose old values have not come, in one and in two registers; and an instruction that reads one of them. -/
theorem meets_atomic_return :
    (∀ n ∈ [4, 8], let s := gridded
     let g := { (s.nat here (ext 2 0 1 6 0 1)).gridOp 2 {} 1 with ret := some (1, 4, n) }
     let t : State := { s with fab := { s.fab with gridOps := [(5, g)] } }
     mapFind t.fab.gridOps 5 = some g ∧ (mapFind t.warps g.warp).isSome = true ∧ g.fn = 2 ∧ g.reply = none) ∧
    (let s := demo [w0 0 0x10 8 4 5] id
     let g := { (s.nat here (ext 2 0 1 6 0 1)).gridOp 2 {} 1 with ret := some (1, 4, 4) }
     let t : State := { s with fab := { s.fab with gridOps := [(5, g)] } }
     (∃ i is u, t.look 0 placedWarp 0 = (.run i is, u) ∧ (regsOf i).1.contains ⟨.v, 4⟩ = true) ∧
     (t.awaited 0).contains ⟨.v, 4⟩ = true ∧ (placedWarp.slot 0).wait = none) :=
  ⟨by decide +kernel, run_of (by decide +kernel), by decide +kernel, rfl⟩

/-- GWAIT on no operation, on one that is no grid operation, and on grid operations; and GCRD of a place and of none. -/
theorem meets_grid_control :
    (plain.nat here (ext 1 2 0 0 0 0)).Runs ∧ ((plain.nat here (ext 1 2 0 0 0 0)).w.getH 2).value = 0 ∧
    (((handled2 0).nat here (ext 1 2 0 0 0 0)).w.getH 2).value.toNat / 2 ^ 36 % 16 ≠ 4 ∧
    (∀ st ∈ [1, 2, 5],
      let s := (handled2 st).modWarp 0 fun w => w.setH 2 { value := 0x4000000001, uid := 7 }
      let en := s.nat here (ext 1 2 0 0 0 0)
      runsB en = true ∧ (en.w.getH 2).value ≠ 0 ∧ (en.w.getH 2).value.toNat / 2 ^ 36 % 16 = 4 ∧
      mapFind s.ops (en.w.getH 2).uid = some { state := st }) ∧
    patIndex ((gridded).jobOf 0) selfPattern = some 0 ∧ patValid (BitVec.ofNat 128 (2 ^ 120)) = false :=
  ⟨runs_of (by decide +kernel), by decide +kernel⟩

/-- A state whose armed table has one entry: its fired word, and the arrivals and the arrivals expected. -/
def tabled (fired arrived expected : Nat) : State :=
  let m := plain.mem.store 0x10000 (codeCap.bytes ++ codeCap.bytes ++
    [0, 0, 0, 0, 2 ^ 63, 0, fired + 2 ^ 32 * arrived, expected].flatMap (leBytes 8))
  { (plain.modBlock 0 fun b => { b with arm := [(0, codeCap)] }) with mem := (m.setTag 0x10000 true).setTag 0x10020 true }

/-- TTFIRE and TTWAIT pass their checks on the entry of such a table. -/
def tilePasses (fired arrived expected : Nat) : Bool :=
  let s := tabled fired arrived expected
  let en := s.nat here (ext 1 0 1 0 0 0)
  runsB en && decide (en.w.getC 1 = codeCap) && decide (en.block.armSlot codeCap = some 0) &&
  decide (s.capCheck en.ctx codeCap (permR ||| permW ||| permLC ||| permEN) 0 128 0 = none) &&
  okAnd ((s.flushFor 0 [(0x10000, 64, false), (0x10040, 64, false)]).tileView en.block.core en.ctx codeCap 0)
    (fun y t => y.src.tag && y.rem.tag && decide (y.fld 4 63 1 = 1 ∧ y.fld 6 0 32 = fired ∧ y.fld 6 32 32 = arrived ∧
      y.fld 7 0 32 = expected) && okB (t.engineWrite 0 en.ctx 0x10070 [1, 0, 0, 0]).1 &&
      okB (((t.release 0).newHandle 0 1 4 3 none).2.engineWrite 0 en.ctx 0x10070 [1, 0, 0, 0]).1)

/-- TTFIRE and TTWAIT: no armed table; an entry that can fire, that is in flight, and that has arrived or not. -/
theorem meets_tile :
    (plain.nat here (ext 1 0 1 0 0 0)).Runs ∧ (plain.nat here (ext 1 0 1 0 0 0)).block.armSlot codeCap = none ∧
    128 ≤ codeCap.len.toNat ∧ tilePasses 0 0 1 = true ∧ tilePasses 2 0 0 = true ∧ tilePasses 0 1 1 = true :=
  ⟨runs_of (by decide +kernel), by decide +kernel⟩

/-! ### Forerunner -/

/-- The placed warp on pages of forerunner code, with a named barrier and a kept phase. -/
def older (g : Warp → Warp) (b : Barrier := {}) : State :=
  let s := (demo [] g).modBlock 0 fun k => k.setBar 0 b
  { s with cur := some { warp := 0, slot := 0, pc := 0x10000, len := 8, fr := true }
           mem := s.mem.store 0x3000 (placedEntry 0xBC 0) }

/-- The issue of forerunner code. -/
def hereFr : Issue := { warp := 0, slot := 0, pc := 0x10000, len := 8, fr := true }

/-- The forerunner instructions run; their offsets fit and their lanes pass. -/
theorem meets_forerunner :
    ((older id).fr hereFr {}).Runs ∧ ((older id).fr hereFr {}).block.core = 0 ∧
    (let en := (older id).fr hereFr { b := 1 }
     (∀ i < 64, ((en.w.getV 0 i).zeroExtend 64 : Word).toNat + 4 ≤ 4096 * ((older id).block 0).spu ∧
       ((en.w.getV 0 i).zeroExtend 64 : Word).toNat % 4 = 0) ∧
     (checkLanes (fun s i => s.laneCheck en.who (en.w.getC 1) permR ((en.w.getV 0 i).zeroExtend 64) 4 false)
       (older id) (maskLanes en.e)).2.1.isEmpty = true ∧
     (checkLanes (fun s i => s.laneCheck en.who (en.w.getC 1) permW ((en.w.getV 0 i).zeroExtend 64) 4 true)
       (older id) (maskLanes en.e)).2.1.isEmpty = true) :=
  ⟨runs_of (by decide +kernel), by decide +kernel⟩

/-- Forerunner control: counters that stay in range at its end and one that passes it, lanes at zero and none, and
targets of forerunner pages. -/
theorem meets_forerunner_control :
    (let en := (older id).whole hereFr
     en.Acts ∧ en.Stays en.fall ∧ en.Stays 0 ∧ en.Stays (hereFr.pc + (8 : Word) <<< 3) ∧ (∀ l < 64, mapGet 0 en.w.nest l = 0) ∧
     en.e.getLsbD 0 = true) ∧
    (let en := (older fun w => { w with nest := [(0, 255)] }).whole hereFr
     en.Acts ∧ mapGet 0 en.w.nest 0 = 255 ∧ 255 < mapGet 0 en.w.nest 0 + 1) ∧
    (let en := (older fun w => { w with nest := (List.range 64).map fun i => (i, 1) }).whole hereFr
     en.Acts ∧ ∀ l < 64, mapGet 0 en.w.nest l ≠ 0) := by
  refine ⟨⟨acts_of (by decide +kernel), ?_, ?_, ?_, by decide +kernel⟩,
    ⟨acts_of (by decide +kernel), by decide +kernel⟩, ⟨acts_of (by decide +kernel), by decide +kernel⟩⟩ <;>
  (unfold Env.Stays; decide +kernel)

/-- The forerunner barrier: the last arrival and another, and a wait for a past phase and for this one; an exit of some
lanes and of all; and a trap whose entry can be written. -/
theorem meets_forerunner_barrier :
    (let s := older id { expWarps := 1 }
     (s.whole hereFr).Runs ∧ (((s.whole hereFr).block.bar 0).arrive 0).phase ≠ 0 ∧ (s.whole hereFr).w.frBarrier = none) ∧
    (let s := older id { expWarps := 2 }
     (s.whole hereFr).Runs ∧ (((s.whole hereFr).block.bar 0).arrive 0).phase = 0 ∧
     (((s.whole hereFr).block.bar 0).arrive 0).overflow = false) ∧
    (let s := older (fun w => { w with frBarrier := some 0 }) { phase := 1 }
     (s.whole hereFr).Runs ∧ (s.whole hereFr).w.frBarrier = some 0) ∧
    (let s := older oneLane
     let en := s.fr hereFr { pg := 1 }
     en.Acts ∧ en.sl.live = true ∧ en.sl.mask &&& ~~~en.e ≠ 0 ∧ en.Stays en.fall ∧
     ({ en.w with lanes := en.w.lanes &&& ~~~en.e }.setSlot 0
       { en.sl.issued hereFr with mask := en.sl.mask &&& ~~~en.e, pc := en.fall, wait := none }).Rests) ∧
    (let en := (older id).fr hereFr {}
     en.Acts ∧ en.sl.mask &&& ~~~en.e = 0 ∧ en.w.dstkSp = (en.w.getC 15).base ∧ (en.w.slot 1).live = false) ∧
    (let s := older fun w => { w with trapVec := 0x20000 }
     let en := s.fr hereFr {}
     let u := en.w.setSlot 0 { en.sl.issued hereFr with pc := en.fall, wait := none }
     hereFr.paired = false ∧ u.trapVec ≠ 0 ∧
     okB ((en.goesOn s).stackWrite ((en.goesOn s).who 0 0) u u.dstkSp
       [{ kind := 1 }, { kind := 1 }, { pc := 0x10000, mask := en.e, rpc := 0, kind := 2, auxLo := 0x8000 }]).1 = true) := by
  refine ⟨⟨runs_of (by decide +kernel), by decide +kernel⟩, ⟨runs_of (by decide +kernel), by decide +kernel⟩,
    ⟨runs_of (by decide +kernel), by decide +kernel⟩,
    ⟨acts_of (by decide +kernel), by decide +kernel, by decide +kernel, ?_, ?_⟩,
    ⟨acts_of (by decide +kernel), by decide +kernel⟩, by decide +kernel⟩
  · unfold Env.Stays; decide +kernel
  · unfold Warp.Rests; decide +kernel

/-! ### Packets -/

/-- A state with a queue 0 in service, its head at packet word 0 and sixteen words published, and the reserved region
beside what the packets name. -/
def serving (s : State) (q : Queue := { priv := true }) : State :=
  { s with cur := none, picks := [], cfg := { s.cfg with resv := 0x40000000 }, arn := { s.arn with
      bstate := 1, enable := true, queues := [(0, { q with latched := true, enable := true, size := 10, tail := 16 })] } }

/-- A packet of queue 0: its opcode, context and further header bits, and its body. -/
def packetOf (op ctx extra : Nat) (body : List Nat) : Packet :=
  { queue := 0, head := 0, words := ((op + 2 ^ 8 * body.length + 2 ^ 16 * ctx + extra) :: body).map (BitVec.ofNat 64) }

/-- A packet is taken, as a truth value. -/
def takesB (s : State) (p : Packet) (op : Nat) : Bool :=
  s.serves p && (s.pk p).whole && decide ((s.pk p).f 0 0 8 = op) && decide (headerError (s.pk p) = none) &&
  !(s.holdsPacket op) && (!(s.pk p).ser || decide ((s.queue p.queue.toNat).stage ≠ 0) || !(s.queueBusy p.queue.toNat))

theorem takes_of {s : State} {p : Packet} {op : Nat} (h : takesB s p op = true) : s.takes p op := by
  simpa [takesB, State.takes, and_assoc, or_assoc] using h

/-- The plain state with its queue in service. -/
def idle : State := serving plain

/-- A packet for each error of R312. -/
theorem meets_header_error :
    ∀ x ∈ [(packetOf 16 0 0 [], true, 1), (packetOf 3 0 (2 ^ 8) [0], true, 2), (packetOf 3 0 0 [2], true, 3),
        (packetOf 3 0 0 [0], false, 4), (packetOf 9 1 0 [0, 0, 0], false, 5)],
      let s := serving plain { priv := x.2.1, ctx := 0 }
      s.serves x.1 = true ∧ (s.pk x.1).whole = true ∧ headerError (s.pk x.1) = some x.2.2 := by decide +kernel

/-- The body of CTXNEW: ASID, generation, kind, and a fault queue of 16 records. -/
def newBody (asid gen prot : Nat) : List Nat :=
  [0x1000, asid + 2 ^ 16 * gen + 2 ^ 48 * prot, 0, 4, 0, 0, 0, 0]

/-- CTXNEW: an ID that is taken, an old generation, no live husk, and one that is created. -/
theorem meets_ctxnew :
    (let p := packetOf 2 0 0 (newBody 2 1 0)
     idle.takes p 2 ∧ (mapFind idle.ctxs (idle.pk p).ctx).isSome = true) ∧
    (let p := packetOf 2 5 0 (newBody 2 1 0)
     idle.takes p 2 ∧ ¬((idle.pk p).ctx = 0xFFF ∨ (mapFind idle.ctxs (idle.pk p).ctx).isSome = true ∨
       ∃ e ∈ idle.ctxs, e.2.asid = BitVec.ofNat 16 ((idle.pk p).f 2 0 16)) ∧ idle.ctxs.length < 1024 ∧
     mapFind idle.lastGen 5 = none ∧ (idle.pk p).f 2 48 1 = 0 ∧
     (let s := { idle with lastGen := [(5, 1)] }
      s.takes p 2 ∧ mapFind s.lastGen 5 = some 1 ∧ (s.pk p).f 2 16 24 ≤ 1)) ∧
    (let p := packetOf 2 5 0 (newBody 2 1 1)
     idle.takes p 2 ∧ (idle.pk p).f 2 48 1 = 1 ∧ idle.huskLive ((idle.pk p).f 2 40 8) = false) ∧
    (let s := { idle with ctxs := (List.range 1024).map fun i => (i, placedCtx) }
     let p := packetOf 2 1024 0 (newBody 2 1 0)
     s.takes p 2 ∧ 1024 ≤ s.ctxs.length ∧ mapFind s.ctxs 1024 = none) :=
  ⟨⟨takes_of (by decide +kernel), by decide +kernel⟩,
   ⟨takes_of (by decide +kernel), by decide +kernel, by decide +kernel, by decide +kernel, by decide +kernel,
    takes_of (by decide +kernel), by decide +kernel⟩,
   ⟨takes_of (by decide +kernel), by decide +kernel⟩,
   ⟨takes_of (by decide +kernel), by decide +kernel⟩⟩

/-- The plain state without a block: no work of its context is left. -/
def drained : State := { idle with blocks := [], warps := [], launches := [] }

/-- CTXEND of no context, of a busy one and of one that has drained. -/
theorem meets_ctxend :
    (idle.takes (packetOf 3 7 0 [0]) 3 ∧ mapFind idle.ctxs 7 = none) ∧
    (let p := packetOf 3 0 0 [0]
     idle.takes p 3 ∧ (idle.pk p).f 1 0 1 = 0 ∧ mapFind idle.ctxs 0 = some placedCtx ∧
     (idle.modCtx 0 fun c => { c with ending := true }).ctxBusy 0 { placedCtx with ending := true } = true ∧
     drained.takes p 3 ∧ mapFind drained.ctxs 0 = some placedCtx ∧
     (drained.modCtx 0 fun c => { c with ending := true }).ctxBusy 0 { placedCtx with ending := true } = false ∧
     placedCtx.scrub = none) :=
  ⟨⟨takes_of (by decide +kernel), by decide +kernel⟩,
   ⟨takes_of (by decide +kernel), by decide +kernel, by decide +kernel, by decide +kernel, takes_of (by decide +kernel), by decide +kernel⟩⟩

/-- A grid table of one module at the code's address, and the same with a count of two. -/
def gridState (count : Nat) : State :=
  withWords idle [1, 1, count, 0, 0, 0, 0, 0, 2 ^ 63 + 2 ^ 32 * idle.cfg.domain.toNat]

/-- GRIDTAB and LAYOUT: a table that is bad and one that is sound; tables to remove, pending or not, of this context
and of another; and layout entries in and out of range. -/
theorem meets_tables :
    (mapFind idle.ctxs 0 = some placedCtx ∧ placedCtx.ending = false) ∧
    (let p := packetOf 1 0 0 [0x10000, 0]
     (gridState 2).takes p 1 ∧ ((gridState 2).pk p).f 2 0 1 = 0 ∧ (gridState 2).readTable 0 0x10000 = none ∧
     (gridState 1).takes p 1 ∧ 64 * ((gridState 1).pk p).f 1 6 46 = 0x10000 ∧
     ((gridState 1).readTable 0 0x10000).isSome = true ∧ (gridState 1).grids.length < 64 ∧
     (gridState 1).tablePending 0 = false) ∧
    (let p := packetOf 1 0 0 [0, 1]
     let t : GridTable := { ctx := 0, gen := 0, axes := 1, sizes := 1, count := 1, ports := [0] }
     idle.takes p 1 ∧ (idle.pk p).f 2 0 1 = 1 ∧ mapFind idle.grids 0 = none ∧
     (let s := { idle with grids := [(0, t)] }
      s.takes p 1 ∧ mapFind s.grids 0 = some t ∧ t.ctx = (s.pk p).ctx ∧ s.tablePending 0 = false) ∧
     (let s := { idle with grids := [(0, { t with ctx := 3 })] }
      s.takes p 1 ∧ mapFind s.grids 0 = some { t with ctx := 3 })) ∧
    (let p := packetOf 8 0 0 (List.replicate 9 0)
     let s := idle.modCtx 0 fun c => { c with lcount := 1 }
     idle.takes p 8 ∧ placedCtx.lcount ≤ (idle.pk p).f 1 0 16 ∧ s.takes p 8 ∧
     mapFind s.ctxs 0 = some { placedCtx with lcount := 1 } ∧ (s.pk p).f 1 0 16 < 1 ∧ (s.pk p).f 2 0 12 = (s.pk p).ctx) :=
  ⟨by decide +kernel,
   ⟨takes_of (by decide +kernel), by decide +kernel, by decide +kernel, takes_of (by decide +kernel), by decide +kernel⟩,
   ⟨takes_of (by decide +kernel), by decide +kernel, by decide +kernel, ⟨takes_of (by decide +kernel), by decide +kernel⟩,
    takes_of (by decide +kernel), by decide +kernel⟩,
   ⟨takes_of (by decide +kernel), by decide +kernel, takes_of (by decide +kernel), by decide +kernel⟩⟩

/-- A state with husk 0, and perhaps a key in its slot. -/
def husked (keys : Map (List Byte)) : State :=
  let s := { idle with prot := { idle.prot with husks := [(0, { slot := 1, ways := 1, root := 0 })], keys } }
  s.modCtx 0 fun c => { c with prot := true, dk := some (0, []) }

/-- HUSK and KEYSLOT: husks that exist and not, in use and not; bad and good ways; keys that stand, and slots named. -/
theorem meets_husk :
    (let p := packetOf 4 0 0 [2 ^ 8 + 2 ^ 16, 0]
     idle.takes p 4 ∧ (idle.pk p).f 1 24 1 = 0 ∧ idle.slotHeld ((idle.pk p).f 1 8 6) = false ∧
     mapFind idle.prot.husks 0 = none ∧ 1 ≤ (idle.pk p).f 1 16 5 ∧ (idle.pk p).f 1 16 5 ≤ 12 ∧
     ({ bits := BitVec.ofNat 256 (leNat (idle.mem.read 0 32)) } : Cap).rsvd = 0 ∧
     ({ bits := BitVec.ofNat 256 (leNat (idle.mem.read 0 32)) } : Cap).otype = 0 ∧
     (husked []).takes p 4 ∧ (mapFind (husked []).prot.husks 0).isSome = true) ∧
    (let p := packetOf 4 0 0 [2 ^ 8 + 13 * 2 ^ 16, 0]
     idle.takes p 4 ∧ 12 < (idle.pk p).f 1 16 5) ∧
    (let p := packetOf 4 0 0 [2 ^ 24, 0]
     let s := { husked [] with ctxs := [] }
     idle.takes p 4 ∧ (idle.pk p).f 1 24 1 = 1 ∧ (husked []).takes p 4 ∧
     (∃ c ∈ (husked []).huskCtxs 0, c.2.ending = false) ∧ s.takes p 4 ∧ s.huskCtxs 0 = [] ∧ s.prot.scrubs = []) ∧
    (let p := packetOf 5 0 0 [2 ^ 8 + 1, 0, 0]
     let s := { husked [] with prot := { (husked []).prot with scrubs := [(0,
       { seq := 1, state := 1, ctx := 0, husk := 0, slot := 1, prot := true, rcpt := none, todo := [], total := 0 })] } }
     idle.takes p 5 ∧ (idle.pk p).f 1 8 2 = 1 ∧ idle.slotHeld 1 = false ∧ idle.slotNamed 1 = false ∧
     (husked []).takes p 5 ∧ (husked []).slotHeld 1 = false ∧ (husked []).slotNamed 1 = true ∧
     s.takes p 5 ∧ s.slotHeld 1 = true) ∧
    (let p := packetOf 5 0 0 [1, 0, 1672]
     (husked []).takes p 5 ∧ ((husked []).pk p).f 1 8 2 = 0 ∧ ((husked []).pk p).f 3 0 16 = 1672 ∧
     mapFind (husked []).prot.keys 1 = none ∧ (husked [(1, [])]).takes p 5 ∧
     (mapFind (husked [(1, [])]).prot.keys 1).isSome = true ∧ idle.takes p 5 ∧ placedCtx.dk = none ∧
     (mapFind (husked []).ctxs 0).any (fun c => decide (c.dk = some (0, []) ∧ c.husk = 0) && c.prot && !c.ending) = true) ∧
    idle.takes (packetOf 7 0 0 (List.replicate 13 0)) 7 := by
  refine ⟨⟨takes_of (by decide +kernel), by decide +kernel, by decide +kernel, by decide +kernel, by decide +kernel,
      by decide +kernel, by decide +kernel, by decide +kernel, takes_of (by decide +kernel), by decide +kernel⟩,
    ⟨takes_of (by decide +kernel), by decide +kernel⟩,
    ⟨takes_of (by decide +kernel), by decide +kernel, takes_of (by decide +kernel), by decide +kernel,
      takes_of (by decide +kernel), by decide +kernel⟩,
    ⟨takes_of (by decide +kernel), by decide +kernel, by decide +kernel, by decide +kernel, takes_of (by decide +kernel),
      by decide +kernel, by decide +kernel, takes_of (by decide +kernel), by decide +kernel⟩,
    ⟨takes_of (by decide +kernel), by decide +kernel, by decide +kernel, by decide +kernel, takes_of (by decide +kernel),
      by decide +kernel, takes_of (by decide +kernel), by decide +kernel⟩,
    takes_of (by decide +kernel)⟩

/-- A scrub of one frame, still to do. -/
def oneScrub : Scrub :=
  { seq := 1, state := 1, ctx := 0, husk := 0, slot := 1, prot := false, rcpt := some 0, todo := [5], total := 1 }

/-- SCRUB: a busy context and a drained one, a bad list and a sound one; and a continuation with and without a scrub. -/
theorem meets_scrub :
    (let p := packetOf 6 0 0 [0x10000, 1, 0x20000, 0]
     let s := withWords drained [16 * 65536]
     idle.takes p 6 ∧ (idle.pk p).f 4 0 1 = 0 ∧ idle.ctxBusy 0 placedCtx = true ∧ s.takes p 6 ∧
     mapFind s.ctxs 0 = some placedCtx ∧ s.ctxBusy 0 placedCtx = false ∧ s.prot.scrubs.length < 64 ∧
     s.listBad 0 0x20000 1 (s.pageList 0x10000 1) = false ∧
     (let t := withWords drained [2 ^ 16 + 1]
      t.takes p 6 ∧ t.listBad 0 0x20000 1 (t.pageList 0x10000 1) = true)) ∧
    (let p := packetOf 6 0 0 [0x10000, 1, 0, 1]
     let s := withWords drained [16 * 65536]
     let t := { s with prot := { s.prot with scrubs := [(0, oneScrub)] } }.modCtx 0 fun c => { c with scrub := some 0 }
     s.takes p 6 ∧ (s.pk p).f 4 0 1 = 1 ∧ placedCtx.scrub.bind (mapFind s.prot.scrubs) = none ∧ t.takes p 6 ∧
     (mapFind t.ctxs 0).any (fun c => decide (c.scrub.bind (mapFind t.prot.scrubs) = some oneScrub)) = true ∧
     oneScrub.todo ≠ [] ∧ (t.pk p).f 3 3 49 = 0 ∧ t.listBad 0 0 1 (t.pageList 0x10000 1) = false) :=
  ⟨⟨takes_of (by decide +kernel), by decide +kernel, by decide +kernel, takes_of (by decide +kernel), by decide +kernel,
    by decide +kernel, by decide +kernel, by decide +kernel, takes_of (by decide +kernel), by decide +kernel⟩,
   ⟨takes_of (by decide +kernel), by decide +kernel, by decide +kernel, takes_of (by decide +kernel), by decide +kernel⟩⟩

/-- A launch record at the code's address: its shape, and one module in its grid. -/
def recorded (shape : Nat) (pending : Bool) : State :=
  let s := drained
  let port : BitVec 48 := BitVec.ofNat 48 (2 ^ 32 * s.cfg.domain.toNat + s.cfg.mnum.toNat)
  let l : Launch := { recordLaunch 0 [] 7 with stage := .waiting 0 }
  { s with
    mem := s.mem.store 0x10000 (codeCap.bytes ++ codeCap.bytes ++ codeCap.bytes ++
      [shape, 1 + 2 ^ 16 + 2 ^ 32, 0, 0].flatMap (leBytes 8))
    grids := [(0, { ctx := 0, gen := 0, axes := 1, sizes := 1, count := 1, ports := [port] })]
    launches := if pending then [(1, l)] else [] }

/-- LAUNCH: a record out of place, one that Table 1.6 refuses, one that waits for its table, one that is accepted, and
one that a husk's root refuses. -/
theorem meets_launch :
    (let p := packetOf 9 0 (2 ^ 14) [1, 0, 0]
     idle.takes p 9 ∧ ((idle.pk p).launchRecord idle).1 = none) ∧
    (let p := packetOf 9 0 (2 ^ 14) [0x10000, 0, 0]
     let ends := fun (s : State) (refused pending : Bool) =>
       let r := (s.pk p).launchRecord s
       r.1.any fun l => ((r.2.refusal l (s.pk p).queue.maxprio false).isSome == refused) && !(r.2.rootRefuses l) &&
         (r.2.tablePending (l.field 12 0 16) == pending)
     (recorded 0 false).takes p 9 ∧ ends (recorded 0 false) true false = true ∧
     ends (recorded (2 ^ 16 + 2 ^ 32) false) false false = true ∧ ends (recorded (2 ^ 16 + 2 ^ 32) true) false true = true ∧
     (recorded (2 ^ 16 + 2 ^ 32) true).takes p 9 ∧
     (let s := (recorded (2 ^ 16 + 2 ^ 32) false).modCtx 0 fun c => { c with prot := true }
      let r := (s.pk p).launchRecord s
      s.takes p 9 ∧ r.1.any (fun l => (r.2.refusal l (s.pk p).queue.maxprio false).isNone && r.2.rootRefuses l) = true)) :=
  ⟨⟨takes_of (by decide +kernel), by decide +kernel⟩,
   ⟨takes_of (by decide +kernel), by decide +kernel, by decide +kernel, by decide +kernel, takes_of (by decide +kernel),
    takes_of (by decide +kernel), by decide +kernel⟩⟩

/-- A node of one record slot at the code's address. -/
def oneNode : Node :=
  { ctx := 0, queue := 0, qprio := 0, savedl := 0, head := 0, packetTag := 0, phys := true, priv := true, tmpl := 0x10000
    ctl := 0x20000, ring := 0x30000, timer := 8, grp := 1, rsz := 1, slog := 1, gtab := 0x40000, ready := [(0, 0)] }

/-- NODE: one that is open, places that hold and do not, one that has drained and one with claims left. -/
theorem meets_node :
    (let p := packetOf 10 0 (2 ^ 14) [0, 0x10000, 0x20000, 0x30000, 1 + 2 ^ 8, 0x40000]
     idle.takes p 10 ∧ (idle.pk p).f 1 8 2 = 0 ∧ mapFind idle.nodes 0 = none ∧ ((idle.pk p).nodePlaces idle).1 = true ∧
     (let t := ((idle.pk p).nodePlaces idle).2
      let u := t.nodeRead ((idle.pk p).node 0 0) ((idle.pk p).dw 3 + 8)
      u.1 = some 0 ∧ (u.2.nodeRead ((idle.pk p).node 0 0) ((idle.pk p).dw 3 + 16)).1 = some 0) ∧
     (let s := { idle with nodes := [(0, oneNode)] }
      s.takes p 10 ∧ (mapFind s.nodes 0).isSome = true)) ∧
    (let p := packetOf 10 0 (2 ^ 14) [0, 1, 0x20000, 0x30000, 1 + 2 ^ 8, 0x40000]
     idle.takes p 10 ∧ ((idle.pk p).nodePlaces idle).1 = false) ∧
    (let p := packetOf 10 0 0 [2 ^ 8, 0, 0, 0, 0, 0]
     let s := { idle with nodes := [(0, oneNode)] }
     let u := ({ s with nodes := mapPut s.nodes 0 { oneNode with closing := true } } : State).flushNode 0 2
     let busy : State := { u with mem := u.mem.store 0x20000 [1] }
     idle.takes p 10 ∧ (idle.pk p).f 1 8 2 = 1 ∧ s.takes p 10 ∧ mapFind s.nodes 0 = some oneNode ∧
     (mapFind u.nodes 0).any (fun y => decide ((u.nodeRead y y.ctl).1 = some (y.consumed % 2 ^ 64) ∧ y.openGroups = [])) = true ∧
     (mapFind busy.nodes 0).any (fun y => decide ((busy.nodeRead y y.ctl).1 = some 1 ∧ 1 ≠ y.consumed % 2 ^ 64)) = true) :=
  ⟨⟨takes_of (by decide +kernel), by decide +kernel, by decide +kernel, by decide +kernel, by decide +kernel,
    takes_of (by decide +kernel), by decide +kernel⟩, ⟨takes_of (by decide +kernel), by decide +kernel⟩,
   ⟨takes_of (by decide +kernel), by decide +kernel, takes_of (by decide +kernel), by decide +kernel⟩⟩

/-- The plain state in service whose context is being pre-empted. -/
def preempted (stage : Nat) (p : Preempt) : State :=
  (serving plain { priv := true, stage }).modCtx 0 fun c => { c with preempt := some p }

/-- PREEMPT of each kind: of no context, of one with blocks and without, at each stage and beside another pre-emption. -/
theorem meets_preempt :
    ∀ k < (3 : Nat),
      (let p := packetOf 11 7 0 [k, 0]
       takesB idle p 11 = true ∧ mapFind idle.ctxs 7 = none ∧ (idle.pk p).queue.stage = 0) ∧
      (let p := packetOf 11 0 0 [k, 0]
       takesB idle p 11 = true ∧ (idle.pk p).f 1 0 2 = k ∧ placedCtx.dead = false ∧ placedCtx.preempt = none ∧
       idle.hasBlocks 0 = true ∧ takesB drained p 11 = true ∧ drained.hasBlocks 0 = false ∧
       takesB (serving plain { priv := true, stage := 1 }) p 11 = true ∧
       ∀ st ∈ [0, 1], takesB (preempted st { level := 1, requeue := true, drain := 0, save := 0 }) p 11 = true ∧
         ((preempted st { level := 1, requeue := true, drain := 0, save := 0 }).pk p).queue.stage = st) := by decide +kernel

/-- CKPT: a body that is sound, with a context on its cores and with none, and one that is not. -/
theorem meets_ckpt :
    (let p := packetOf 12 0 0 [1536 + 2 ^ 32 * idle.cfg.domain.toNat, 0, 0, 0, 0]
     idle.takes p 12 ∧ 1536 ≤ (idle.pk p).f 1 0 11 ∧ (idle.pk p).f 1 11 21 = 0 ∧
     (idle.pk p).f 1 32 16 = idle.cfg.domain.toNat ∧ (idle.pk p).f 3 0 1 = 0 ∧ idle.ckpt = none ∧
     drained.takes p 12 ∧ (∀ c ∈ drained.ctxs, drained.hasBlocks c.1 = false)) ∧
    (let p := packetOf 12 0 0 [0, 0, 0, 0, 0]
     idle.takes p 12 ∧ ¬1536 ≤ (idle.pk p).f 1 0 11) :=
  ⟨⟨takes_of (by decide +kernel), by decide +kernel, by decide +kernel, by decide +kernel, by decide +kernel,
    by decide +kernel, takes_of (by decide +kernel), by decide +kernel⟩, ⟨takes_of (by decide +kernel), by decide +kernel⟩⟩

/-- WAITMEM, COND and SIGNAL: a word in place and one that is not, equal and unequal words, counts in and past the ring,
and packets published and not. -/
theorem meets_wait :
    (∀ x ∈ [(13, 0), (15, 0), (15, 2 ^ 4), (15, 2 ^ 5)],
      (∀ r ∈ [0, 1],
        let p := packetOf x.1 0 (2 ^ 14) [0x10000, r, 1, x.2]
        let k := idle.pk p
        let v := k.place idle (k.dw 1) 4 { r := true }
        takesB idle p x.1 = true ∧ k.queue.stage = 0 ∧ v.1 = some 0x10000 ∧
        leNat ((v.2.settle (0x10000 / 32)).mem.read 0x10000 4) = 0) ∧
      (let p := packetOf x.1 0 (2 ^ 14) [1, 0, 0, x.2]
       let k := idle.pk p
       takesB idle p x.1 = true ∧ (k.place idle (k.dw 1) 4 { r := true }).1 = none)) ∧
    (∀ n ∈ [0, 11, 12, 1024, 1025],
      let p := packetOf 15 0 (2 ^ 14) [0x10000, 0, 0, 2 ^ 5 + 2 ^ 32 * n]
      takesB idle p 15 = true ∧ (idle.pk p).f 4 32 32 = n) ∧ 2 ^ (idle.queue 0).size = 1024 ∧
    (idle.queue 0).published 0 = 16 ∧
    (∀ op < (3 : Nat),
      let p := packetOf 14 0 (2 ^ 14) [0x10000, 1, op]
      let k := idle.pk p
      takesB idle p 14 = true ∧ (k.place idle (k.dw 1) 4 { r := true, w := true }).1 = some 0x10000 ∧
      (k.place idle (k.dw 1) 4 { w := true }).1 = some 0x10000) := by decide +kernel

/-! ### Events -/

/-- A queue whose ring lies at the code's address and holds one packet. -/
def ringState (words : List Nat) (q : Queue) : State :=
  let s := withWords plain words
  { s with arn := { s.arn with
      bstate := 1, enable := true
      queues := [(0, { q with
        latched := true, enable := true, priv := true, size := 10, ring := 0x10000
        tail := BitVec.ofNat 32 words.length })] } }

/-- Doorbells that move a tail in and out of range, beside a halted queue; queues whose descriptor in memory is enabled
and not; rounds with no packet and with one; queues
blocked, timed out and polled; and registers written in service and out of it. -/
theorem meets_queue :
    (let s := ringState [] {}
     s.inService = true ∧ (s.queue 0).latched = true ∧ (s.queue 0).enable = true ∧ (s.queue 0).size = 10 ∧
     (s.queue 1).latched = false ∧ s.selectLanes = [] ∧
     ¬2 ^ (s.queue 0).size < ((1024 : BitVec 32) - (s.queue 0).head).toNat ∧
     2 ^ (s.queue 0).size < ((1025 : BitVec 32) - (s.queue 0).head).toNat ∧ (s.queue 0).blocked = false) ∧
    (let s : State := { plain with arn := { plain.arn with bstate := 1, enable := true } }
     let t := s.put 0 (leBytes 8 (2 ^ 63))
     s.inService = true ∧ (s.queue 0).latched = false ∧ bits ((s.descriptor 0).getD 0 0) 63 1 = 0 ∧
     t.inService = true ∧ (t.queue 0).latched = false ∧ bits ((t.descriptor 0).getD 0 0) 63 1 = 1 ∧
     badDescriptor (t.descriptor 0) = true) ∧
    (let s := ringState [] { halted := true }
     (((s.putQueue 0 { s.queue 0 with tail := 0 }).atHead 0).queue 0).halted = true) ∧
    (let s := ringState [3 + 2 ^ 8, 0] {}
     s.selectLanes.length = 1 ∧ ∀ k ∈ s.selectLanes, (groupOrder.filter fun op => k.is op).length = 1) ∧
    (let s := { ringState [13 + 4 * 2 ^ 8 + 2 ^ 14, 0, 0, 0, 2 ^ 32] { blocked := true, headSince := some 0 } with clk := 1024 }
     s.waitmemDue 0 = some 1024 ∧ 1024 ≤ s.clk ∧ (s.queue 0).blocked = true ∧
     (s.headPacket 0).any (fun k => decide (k.f 0 0 8 = 13) && k.queue.blocked && k.queue.enable) = true ∧
     s.arn.enable = true) ∧
    State.reset.inService = false := by decide +kernel

/-- BAR2: ranges that are open, that are closed, and that do not exist. -/
theorem meets_bar2 :
    (let s := plain
     let pa := s.arn.win.toNat * 2 ^ 32 + (2 ^ 32 - 8)
     s.health.tripped = false ∧ (2 ^ 32 - 8) + 8 ≤ 2 ^ 32 ∧
     (∀ f ∈ unitsOf 65536 pa 8, s.frameClosed f = false ∧ s.regionClosed (65536 * f) = false) ∧
     (s.settleRange pa 8).anyBad pa 8 = false ∧ 2 ^ 32 < (2 ^ 32 - 8) + 9) ∧
    (let s := { plain with prot := { plain.prot with owners := [(1, { state := 2 })] } }
     (unitsOf 65536 0x10000 8).find? s.frameClosed = some 1) := by decide +kernel

/-- The plain state with an operation of core 0. -/
def engined (o : EngineOp) : State :=
  withCore { plain with ops := [(7, { state := 0 })] } fun c => { c with ops := [o] }

/-- A load of a scale that faults: its capability's address is not mapped. -/
def faulting (f : Option FaultWait) : EngineOp :=
  { queued with running := true, fault := f
                kind := .wscl (some { cap := codeCap, off := BitVec.ofNat 64 (2 ^ 40), stride := 256, count := 1 }) }

/-- Invalidations that may start, err and complete; verdicts that name a fault and none; a fault that waits for space in
a queue that is full and one that is not; and an access that faults. -/
theorem meets_translation :
    (plain.xlat.inval = none ∧ plain.xlat.invalLen = 0 ∧
      ({ plain with xlat := { plain.xlat with invalLen := 1, inval := some (1, 1, 0, 0) } } : State).xlat.inval =
        some (1, 1, 0, 0)) ∧
    plain.faultOf 5 = none ∧
    (∀ m ∈ [true, false], (engined (faulting (some (.verdict 5 { va := 0, mem := m })))).faultOf 5 =
      some ((0, 0, 7), { va := 0, mem := m })) ∧
    ((engined (faulting (some (.verdict 5 { va := 0 })))).engineOp 0 7).isSome = true ∧
    (let t := engined (faulting (some (.queue { va := 0 })))
     let s := { t with xlat := { t.xlat with waiting := [(0, 0, 7)] } }
     (s.faultSubject (0, 0, 7)).any (fun f => decide (f.ctx = 0 ∧ f.fault = some (.queue { va := 0 }))) = true ∧
     mapFind s.ctxs 0 = some placedCtx ∧ (s.readDw 0x8000).toNat = 0 ∧ (s.readDw 0x8008).toNat = 0 ∧
     (({ s with mem := s.mem.store 0x8000 [16] } : State).readDw 0x8000).toNat = 2 ^ placedCtx.fqlog) ∧
    (let s := engined (faulting none)
     s.engineIs 0 7 true = some (faulting none) ∧ okB (s.engineUnit 0 (faulting none)).1 = false) := by decide +kernel

/-- A launch of one block of one warp, released, with its deadline over. -/
def released : Launch :=
  { recordLaunch 0 (bytesDw 16 (codeCap.bytes ++ codeCap.bytes ++ codeCap.bytes ++
      [2 ^ 16 + 2 ^ 32, 1 + 2 ^ 16 + 2 ^ 32, 2 ^ 24, 0].flatMap (leBytes 8))) 7 with
    stage := .placing, last := 1, waitSince := some 0, deadline := some 0, slice := [(0, 1024)] }

theorem order_of {s : State} {l : Launch} (h : s.launches = [(1, l)]) (g : l.stage = .placing)
    (e : s.hasNext 1 l = true) : s.placeOrder = [(1, l)] := by simp [State.placeOrder, h, g, e]

/-- A saved block that waits for a core. -/
def waiting : Unplaced := { launch := 1, idx := 0, off := 0x9200, wpb := 1, vregs := 16, spu := 0, accb := 0 }

/-- Placement of a new block on a free core, and of a saved one. -/
theorem meets_placement :
    (let s : State := { drained with launches := [(1, released)] }
     s.ckpt = none ∧ s.placeOrder = [(1, released)] ∧ released.holds = false ∧
     (s.bestCore (s.nextShape 1 released)).isSome = true ∧ s.nextSaved 1 released = none ∧
     released.shape.wpb = 1 ∧ ({ s with ckpt := some { port := 0, roff := 0, one := none, done := 0, dval := 0, queue := 0 } } :
       State).ckpt.isSome = true) ∧
    (let s : State := { drained.modCtx 0 fun c => { c with unplaced := [waiting] } with launches := [(1, released)] }
     s.placeOrder = [(1, released)] ∧ (s.bestCore (s.nextShape 1 released)).isSome = true ∧
     s.nextSaved 1 released = some waiting) :=
  ⟨⟨by decide +kernel, order_of rfl rfl (by decide +kernel), by decide +kernel⟩, order_of rfl rfl (by decide +kernel),
   by decide +kernel⟩

/-- A launch whose next block needs the ways of a husk beside one whose block holds too many. -/
theorem meets_slice_need :
    let l := { released with ctx := 1, slice := [] }
    let husk : Husk := { slot := 1, ways := 12, root := 0 }
    let s : State := { plain with
      launches := [(1, l)], prot := { plain.prot with husks := [(0, husk), (1, husk)] }
      ctxs := [(0, { placedCtx with prot := true }), (1, { placedCtx with asid := 2, prot := true, husk := 1 })] }
    s.placeOrder = [(1, l)] ∧ l.ctx ≠ 0 ∧ s.needs 0 0 (s.nextShape 1 l) = true :=
  ⟨order_of rfl rfl (by decide +kernel), by decide +kernel⟩

/-- Launches that wait too long for a core, at the start barrier and past their deadline; a slice that has expired. -/
theorem meets_launch_time :
    (let s := { drained with launches := [(1, released)], clk := 2 ^ 27 }
     mapFind s.launches 1 = some released ∧ released.waitSince = some 0 ∧ 0 + 2 ^ 20 ≤ s.clk ∧ released.deadline = some 0 ∧
     mapFind s.ctxs released.ctx = some placedCtx ∧ placedCtx.halted = false ∧ mapFind released.slice 0 = some 1024 ∧
     released.tslice = 1024 ∧ placedCtx.stopped = false ∧
     (let l := { released with stage := .waiting 0 }
      l.stage = .waiting 0 ∧ 0 + 2 ^ 27 ≤ s.clk ∧ l.member = true)) ∧
    ({ placedCtx with halted := true } : Context).stopped = true := by decide +kernel

/-- The plain state with its context changed. -/
def withCtx (g : Context → Context) : State := plain.modCtx 0 g

/-- A context whose drain and save have run out, whose warps hang, whose barrier has timed out, and that can be saved. -/
theorem meets_context_time :
    (let p : Preempt := { level := 1, requeue := true, drain := 0, save := 0 }
     (mapFind (withCtx fun c => { c with preempt := some p }).ctxs 0).any (fun c => decide (c.preempt = some p)) = true) ∧
    (let p : Preempt := { level := 2, requeue := true, drain := 0, save := 0 }
     let s := drained.modCtx 0 fun c => { c with preempt := some p }
     let c := { placedCtx with preempt := some p }
     let t := s.stopContext 0 c
     mapFind s.ctxs 0 = some c ∧ s.fab.gridOps = [] ∧
     (let d := (mapFind t.ctxs 0).getD c
      0x9000 + (t.savedState 0 d p.halts).length ≤ d.savelen) ∧ p.ckpt = false) ∧
    (let c := { placedCtx with hang := 1, hangCount := 1024 }
     plain.hangDue 0 c = true ∧ plain.barrierDue 0 c = none) ∧
    (let s := plain.modBlock 0 fun b => b.setBar 3 { timer := some 1024 }
     s.barrierDue 0 { placedCtx with hang := 1 } = some (0, 3)) := by decide +kernel

/-- A save area with one small block: its launch takes 16 vector registers, and its warp has one live slot. -/
def savedSmall : State :=
  let put := fun (m : MemSys) (x : Nat × Nat) => m.store (0x100000 + x.1) (leBytes 8 x.2)
  { drained.modCtx 0 fun c => { c with saved := true, savedLaunches := [(1, 0)] } with
    mem := [(0, 1 + 2 ^ 32 * 0x57205341), (8, 1), (0x18, 0x2400), (0x9000, 1), (0x9008, 1), (0x9170, 1), (0x9210, 1), (0x9218, 1),
      (0x9228, 0x2140), (0x9800, 0x10000), (0x9808, 1), (0x9818, 0x21), (0x9838, 1), (0x9890, 1)].foldl put drained.mem }

/-- A saved context with a block, whose checks pass. -/
theorem meets_resume_block :
    let s := savedSmall
    let c := (mapFind s.ctxs 0).getD placedCtx
    let a : Area := fun o n => s.mem.read (c.save + o) n
    let limit := min c.savelen (0x9000 + (s.readDw (c.save + 24)).toNat)
    c.saved = true ∧ c.parked = false ∧ c.preempt = none ∧ c.savedLaunches.length = 1 ∧ a.headerOk = true ∧
    a.launchesOk 1 = true ∧ (a.blocks a.vregs limit (a.dw 0x9008) (0x9100 + 256 * 1)).any (fun bs =>
      !bs.isEmpty && bs.all fun b => a.blockOk 1 b && b.warps.all fun w => a.forerunnerOk s 0 w.2) = true := by
  decide +kernel

/-- A context saved with no blocks, whose save area is sound; and one whose header is bad. -/
theorem meets_resume :
    let s := { drained with mem := drained.mem.store 0x100000 (leBytes 8 (1 + 2 ^ 32 * 0x57205341) ++ [1]) }
    let c := { placedCtx with saved := true }
    let a : Area := fun o n => s.mem.read (c.save + o) n
    c.saved = true ∧ c.parked = false ∧ c.dead = false ∧ c.preempt = none ∧ s.ckpt = none ∧
    s.anyBad c.save 0x1000 = false ∧ s.anyBad (c.save + 0x9000) 0 = false ∧
    a.headerOk = true ∧ a.launchesOk 0 = true ∧ a.dw 0x9008 = 0 ∧
    a.blocks (fun _ => 0) 0x9000 0 0x9100 = some [] ∧ c.sliceHeld = none ∧
    Area.headerOk (fun o n => drained.mem.read (c.save + o) n) = false := by decide +kernel

/-- A node with a whole group ready, and one with none whose timer has passed. -/
theorem meets_node_group :
    (let s := { drained with mem := drained.mem.store 0x30000 [1], nodes := [(0, oneNode)], clk := 8 }
     mapFind s.nodes 0 = some oneNode ∧ (s.groupReady oneNode).1 = oneNode.grp ∧ mapFind oneNode.ready oneNode.next = some 0 ∧
     0 + oneNode.timer ≤ s.clk ∧ oneNode.timer ≠ 0) ∧
    (({ drained with nodes := [(0, oneNode)] } : State).groupReady oneNode).1 < oneNode.grp := by decide +kernel

/-- A state whose port 0 is up. -/
def linked : State := { plain with fab := { plain.fab with ports := [(0, { up := true })] } }

/-- Frames for this module that are new and old, malformed, and for another; frames sent long ago and just now; grid
operations that are complete and not; and links that are up and down. -/
theorem meets_fabric :
    (let f : Frame := { ty := 1, pattern := BitVec.ofNat 128 (2 ^ 22 + 2 ^ 46 + 2 ^ 70 + 2 ^ 94 + 2 ^ 118) }
     linked.health.tripped = false ∧ linked.portUp 0 = true ∧ (mapGet ({} : Port) linked.fab.ports 0).step none = .take ∧
     (mapGet ({} : Port) linked.fab.ports 0).step (some { seq := 1, pn := 1, acks := 0 }) = .skip ∧
     (mapGet ({} : Port) linked.fab.ports 0).step (some { seq := 0, pn := 0, acks := 0 }) = .stale ∧ f.payload.length = f.plen.toNat ∧
     frameMalformed f = false ∧ linked.admits f = true ∧ mapFind linked.fab.rx 0 = none ∧
     linked.admits { f with wlo := 1, whi := 1 } = false ∧ frameMalformed { f with rsvd := true } = true ∧
     (let w : RxWindow := { high := 5 }
      w.dup 5 = true ∧ w.dup 6 = false ∧ w.dup 4 = false)) ∧
    (let t : TxFrame := { frame := {}, wait := [], sent := 0 }
     let s := { linked with fab := { linked.fab with tx := [(0, t)] }, clk := 2 ^ 22 }
     mapFind s.fab.tx 0 = some t ∧ t.sent + s.rtoClk ≤ s.clk ∧ t.tries < 16 ∧ s.upPorts ≠ [] ∧
     ({ s with clk := 0 } : State).clk < t.sent + s.rtoClk ∧ 16 ≤ ({ t with tries := 16 } : TxFrame).tries) ∧
    (let g : GridOp := { warp := 0, block := 0, ctx := 0, core := 0, fn := 3, sent := true }
     g.complete = true ∧ ({ g with expected := 1 } : GridOp).complete = false ∧
     g.since + 2 ^ 30 ≤ ({ plain with clk := 2 ^ 30 } : State).clk) ∧
    ((mapGet {} linked.fab.ports 0).authFails = 0 ∧ (mapGet {} linked.fab.ports 0).replay = [] ∧
     (mapGet {} linked.fab.ports 1).up = false ∧
     (let t : State := { linked with arn := { linked.arn with bstate := 1 } }
      (mapGet {} (t.emit 0 {} 0).fab.ports 0).replay.length = 1)) := by decide +kernel

/-- Operations that start, fail as they start, and complete; self-tests of a core; a scrub with a frame to do and one
with none; a checkpoint at each phase; readings at each threshold; and copies of a blob that are not valid. -/
theorem meets_package :
    (let s := engined queued
     s.engineIs 0 7 false = some queued ∧ s.startCause 0 queued = none ∧ (mapFind s.warps 0).isSome = true ∧
     (let o := { queued with kind := .mma { row := 0, act := { cap := codeCap, off := 0, stride := 4, count := 1 }
                                            afmt := 11, wfmt := 11, kdim := 1, ndim := 1, acc := false, rs := false
                                            cs := false, load := 0 } 9 }
      (engined o).engineIs 0 7 false = some o ∧ (engined o).startCause 0 o = some 1) ∧
     (let o := { queued with running := true, progress := 1 }
      (engined o).engineIs 0 7 true = some o ∧ o.kind.total ≤ o.progress)) ∧
    (0 ∈ coreIds ∧ plain.health.tripped = false ∧ (plain.core 0).mxFence.getLsbD 3 = false ∧ 64 ≤ (plain.core 0).mxRows ∧
     ((withCore plain fun c => { c with mxFence := 8 }).core 0).mxFence.getLsbD 3 = true) ∧
    (({ plain with prot := { plain.prot with scrubs := [(0, oneScrub)] } } : State).scrubNow = some oneScrub ∧
     oneScrub.todo = [5]) ∧
    (let c : Ckpt := { port := 0, roff := 0, one := none, done := 0, dval := 0, queue := 0 }
     plain.quiesced c = true ∧ (preempted 0 { level := 1, requeue := true, drain := 0, save := 0 }).quiesced c = false ∧
     plain.ckptPending = false) ∧
    (let x : Sensors := { power := 0, tin := 0, tout := 0, tx := 0, tc := 115, flow := 0 }
     hottest x = 115 ∧ hottest { x with tc := 100 } = 100 ∧ hottest { x with tc := 95 } = 95) ∧
    (blobField { bytes := [] } 0 32 32 ≠ 0x57204346 ∧ blobDw { bytes := [1] } 1 ≠ 1 ∧
     blobZeros { bytes := List.replicate 249 1 } = false) := by decide +kernel

/-! ### Whole machine -/

/-- A register instruction and a store that run, as the frames ask; an instruction that no lane takes; and one after
which control would leave the code kind. -/
theorem meets_frames :
    (let f := ext 3 1 2 0 0 0
     wellFormed (.sadd f) = true ∧ (nativeSig (.sadd f)).isSome = true ∧ runsB (plain.nat here f) = true ∧ here.slot < 2) ∧
    (mapFind plain.blocks (warpBlock here.warp)).isSome = true ∧
    (let f : Fields := { form := .ext, pg := 1 }
     let en := plain.nat here f
     plain.cur = some here ∧ (mapFind plain.warps 0).isSome = true ∧ en.e = 0 ∧ plain.kindDiffers 0 false 0x10000 en.fall = false) ∧
    (let f : FrFields := { pg := 1 }
     let s := older id
     (s.fr hereFr f).e = 0 ∧ s.kindDiffers 0 true 0x10000 (s.fr hereFr f).fall = false ∧ actsB (s.fr hereFr {}) = true) ∧
    (let is : Issue := { here with pc := BitVec.ofNat 64 (2 ^ 30 - 12) }
     let s := { plain with mem := plain.mem.store 0x3008 (placedEntry 0xBC (2 ^ 30)), cur := some is }
     actsB (s.nat is (ext 0 0 0 0 0 0)) = true ∧
     s.kindDiffers 0 false is.pc (s.nat is (ext 0 0 0 0 0 0)).fall = true) := by decide +kernel

/-- Finite values of either sign, at each format. -/
theorem meets_convert : (∀ fmt ∈ [3, 4, 5, 6, 7, 10, 11, 14, 15], 0 < 2 ^ (fmtOf fmt).width ∧
    (fmtOf fmt).decode 0 = .fin false 0 ((fmtOf fmt).decode 0 |> fun | .fin _ _ e => e | _ => 0)) ∧
    (fmtOf 15).decode 0xFFF0000000000000 = .inf true := by decide +kernel

/-- Steps: an event that is due, none at all, a warp with no slot to issue, one whose fetch fails, whose word is
undefined or has a reserved bit, whose register the block lacks, and that runs beside its other slot. -/
theorem meets_step :
    (let s := { placed [0x06050400] with inbox := [.blockPlacement] }
     s.inbox = [.blockPlacement]) ∧
    (State.reset.inbox = [] ∧ State.reset.picks = []) ∧
    (∀ x ∈ [([0x06050400], true, true), ([0x000000FC], true, false), ([0x06050441, 1, 0], true, false)],
      let s := { placed x.1 with picks := [] }
      (placed x.1).picks = [0] ∧ (mapFind s.warps 0).any (fun w =>
        w.s0.live && !w.s0.parked && !w.s1.live && (okB (s.fetch 0 w w.s0.pc).1 == x.2.1) &&
        okAnd (s.fetch 0 w w.s0.pc) fun l _ => !l.2 && (match decode false l.1 with
          | .instr _ _ => x.2.2
          | _ => !x.2.2)) = true) ∧
    (let s := (placed [0x06050400]).modWarp 0 fun w => { w with s0 := { w.s0 with pc := BitVec.ofNat 64 (2 ^ 40) } }
     (mapFind s.warps 0).any (fun w => !(okB (s.fetch 0 w w.s0.pc).1)) = true) ∧
    (let s := (placed [0x06050400, 0x09080740]).modWarp 0 fun w =>
       { w with s0 := { w.s0 with mask := 3 }, s1 := { w.s0 with mask := 4, pc := 0x10004 } }
     let s := { s with picks := [] }
     (mapFind s.warps 0).any (fun w => okAnd (s.fetch 0 w w.s0.pc) fun l t => okAnd (t.fetch 0 w w.s1.pc) fun m u =>
       (match decode false l.1, decode false m.1 with
        | .instr i _, .instr j _ =>
          let go := fun (v : State) (k : Nat) (x : Instr) (l : List Byte) =>
            let is : Issue := { warp := 0, slot := k, pc := (w.slot k).pc, len := l.length, paired := true
                                words := (List.range (l.length / 4)).map fun j => wordAt l (4 * j), opens := [], la := 0 }
            exec x { v with cur := some is }
          !(issuesAlone w 0 i) && !(issuesAlone w 1 j) && (unitsOfInstr i).all (fun x => !((unitsOfInstr j).contains x)) &&
          (sharedWrites i).all (fun x => !((sharedWrites j).contains x)) &&
          (match go ((u.setLosses 0 0 0).setLosses 0 1 0) 0 i l.1 with
           | .next v => v.traps.isEmpty && (match go v 1 j m.1 with
             | .next _ => true
             | .fault _ => false
             | .refused _ => false)
           | .fault _ => false
           | .refused _ => false)
        | _, _ => false)) = true) := by
  refine ⟨rfl, by decide +kernel⟩

/-- A well-formed instruction with an encoding, and words that decode. -/
theorem meets_encoding : wellFormed (.vadd { form := .ext, d := 4, a := 5, mod := 0x40, pn := 1, pg := 3, w2 := 1 }) = true ∧
    (encode (.vadd { form := .ext, d := 4, a := 5, mod := 0x40, pn := 1, pg := 3, w2 := 1 })).isSome = true ∧
    wellFormed (.frIntegerAdd { d := 5, b := 4 }) = true ∧ (encode (.frIntegerAdd { d := 5, b := 4 })).isSome = true ∧
    read [0x06050440] = .instr (.vadd { form := .base, d := 4, a := 5, b := 6 }) 4 := by decide

/-- A happening that is no instruction of a warp, an inbox of such, and an instruction that no warp issues. -/
theorem meets_happenings : nativeSig .blockPlacement = none ∧ frSig .blockPlacement = none ∧
    State.reset.inbox = [] ∧ (nativeSig (.sadd {})).isSome = true ∧ State.reset.cur = none := by decide

/-- Memory in its canonical form, empty and not, and a sector that an L1 holds; a write of part of a line in a frame that
no husk holds, one past the end of memory, and one to the tables of the reserved region. -/
theorem meets_memory : State.reset.memOk ∧ plain.memOk ∧ (plain.putSectors 0 [heldSector]).memOk ∧
    0x10010 + [1, 2].length ≤ memBytes ∧ partLines 0x10010 2 = [512] ∧ (plain.owner (512 / 512)).state = 0 ∧
    memBytes < memBytes + [1].length ∧ plain.inTables 0x10010 = false ∧ idle.inTables (0x40000000 + 65536) = true := by
  unfold State.memOk
  decide +kernel

/-! ### Reconvergence, exits and returns beside a stack -/

/-- The issue of an RCV at 0x10100. -/
def hereRcv : Issue := { warp := 0, slot := 0, pc := 0x10100, len := 12 }

/-- A slot that stands at an RCV, with lanes 0 and 1, and one that is parked at another. -/
def atRcv : Slot := { live := true, pc := 0x10100, mask := 3, rpc := 0x10100 }

/-- The placed warp at that RCV over a stack of these records, with this slot 1; another RCV stands at 0x10200. -/
def rcvState (l : List Rec) (s1 : Slot) : State :=
  let s := stacked l
  let code := rcvCode.flatMap fun x => leBytes 4 x.toNat
  { (s.modWarp 0 fun w => { w with s0 := atRcv, s1 }) with
    mem := (s.mem.store 0x10100 code).store 0x10200 code, cur := some hereRcv }

/-- A slot that is parked at the other RCV. -/
def elsewhere : Slot := { live := true, parked := true, pc := 0x10200, mask := 4, rpc := 0x10200 }

/-- What the statements ask of a path record beside a slot. -/
def usableB (w : Warp) (r : Rec) (x : Slot) : Bool :=
  decide (r.kind = 0 ∧ r.mask ≠ 0 ∧ r.mask &&& ~~~w.lanes = 0 ∧ r.rsvd = 0 ∧ r.auxLo = 0 ∧ r.auxHi = 0 ∧ r.mask &&& x.mask = 0)

/-- An RCV alone: on an empty stack; over a path that runs, one that is parked with it, and one that overlaps it. -/
theorem meets_rcv_alone :
    (let s := rcvState [] {}
     let en := s.nat hereRcv (ext 0 0 0 0 0 0)
     let u := en.w.setSlot 0 { en.sl.issued hereRcv with parked := true, wait := none }
     en.Acts ∧ en.sl.rpc = hereRcv.pc ∧ en.sl.live = true ∧ en.sl.pc = hereRcv.pc ∧ (en.w.slot 1).live = false ∧
     en.w.dstkSp = (en.w.getC 15).base ∧
     (okAnd (s.rcvAt 0 u hereRcv.pc) fun x t => !(t.kindDiffers (t.ctxOf 0) false hereRcv.pc x.2)) = true) ∧
    (∀ x ∈ [(({ pc := 0x10040, mask := 4, rpc := 0x10300 } : Rec), true, false),
        ({ pc := 0x10100, mask := 4, rpc := 0x10100, flagP := true }, true, true), ({ pc := 0x10040, mask := 1 }, false, false)],
      let s := rcvState [x.1] {}
      let en := s.nat hereRcv (ext 0 0 0 0 0 0)
      let u := en.w.setSlot 0 { en.sl.issued hereRcv with parked := true, wait := none }
      actsB en = true ∧ en.w.dstkSp ≠ (en.w.getC 15).base ∧ en.w.dstkSp - 32 = (en.w.getC 15).base ∧
      (okAnd (s.stackRead en.who u (en.w.dstkSp - 32)) fun r t =>
        decide (r = x.1) && (usableB en.w r u.s0 == x.2.1) && (!x.2.2 ||
          okAnd (t.rcvAt 0 { u with dstkSp := en.w.dstkSp - 32, s1 := r.slot } hereRcv.pc) fun y t1 =>
            !(t1.kindDiffers (t1.ctxOf 0) false hereRcv.pc y.2))) = true) :=
  ⟨⟨acts_of (by decide +kernel), by decide +kernel⟩, by decide +kernel⟩

/-- An RCV beside a slot that is parked elsewhere: on an empty stack, over a record that is no path, and over a path that is
parked at either point. -/
theorem meets_rcv_exchange :
    (∀ l ∈ [[], [({ kind := 3 } : Rec)]],
      let s := rcvState l elsewhere
      let en := s.nat hereRcv (ext 0 0 0 0 0 0)
      let w := en.w.setSlot 0 { en.sl.issued hereRcv with parked := true, wait := none }
      actsB en = true ∧ (en.w.slot 1).live = true ∧ (en.w.slot 1).parked = true ∧ (en.w.slot 1).pc ≠ hereRcv.pc ∧
      (en.w.dstkSp = (en.w.getC 15).base ↔ l = []) ∧
      (okAnd (s.rcvAt 0 w w.s0.pc) fun x t => !(t.kindDiffers (t.ctxOf 0) false w.s0.pc x.2)) = true ∧
      ¬w.s1.rpc.toNat < w.s0.rpc.toNat) ∧
    (∀ x ∈ [(({ pc := 0x10100, mask := 8, rpc := 0x10100, flagP := true } : Rec), 1),
        ({ pc := 0x10200, mask := 8, rpc := 0x10200, flagP := true }, 0)],
      let s := rcvState [x.1] elsewhere
      let en := s.nat hereRcv (ext 0 0 0 0 0 0)
      let w := en.w.setSlot 0 { en.sl.issued hereRcv with parked := true, wait := none }
      let out := w.slot x.2
      let v := w.setSlot x.2 x.1.slot
      actsB en = true ∧ usableB en.w x.1 (w.slot (1 - x.2)) = true ∧ out.mask ≠ 0 ∧ out.mask &&& ~~~en.w.lanes = 0 ∧
      out.mask &&& (v.s0.mask ||| v.s1.mask) = 0 ∧
      (okAnd (s.stackRead en.who w (en.w.dstkSp - 32)) fun r t => decide (r = x.1) &&
        okAnd (t.stackChecks en.who w (en.w.dstkSp - 32) [out.path]) fun _ t => okAnd (t.rcvAt 0 v r.pc) fun y t =>
          !(t.kindDiffers (t.ctxOf 0) false r.pc y.2)) = true) := by decide +kernel

/-- EXIT of a slot's last lanes: beside a slot that runs and one that is parked, on an empty stack and over a path or a
record that is none; and alone, over a path and over a record that is none. -/
theorem meets_exit_path :
    (∀ x ∈ [(false, true), (true, true), (false, false), (true, false)],
      let o : Slot := { elsewhere with parked := x.1 }
      let s := rcvState (if x.2 then [] else [{ pc := 0x10040, mask := 8, rpc := 0x10300 }]) o
      let en := s.nat hereRcv (ext 0 0 0 0 0 0)
      let w := { en.w with lanes := en.w.lanes &&& ~~~en.e }
      let u := { w with s0 := o, s1 := {} }
      actsB en = true ∧ en.sl.live = true ∧ en.sl.mask &&& ~~~en.e = 0 ∧ en.w.slot 1 = o ∧
      (en.w.dstkSp = (en.w.getC 15).base ↔ x.2 = true) ∧
      (okAnd (s.rcvAt 0 u o.pc) fun y t => !(t.kindDiffers (t.ctxOf 0) false o.pc y.2)) = true ∧
      (x.2 = false → (okAnd (s.stackRead en.who u (en.w.dstkSp - 32)) fun r _ => usableB w r o && !r.flagP) = true)) ∧
    (∀ x ∈ [(({ pc := 0x10040, mask := 8, rpc := 0x10300 } : Rec), true), ({ kind := 3 }, false)],
      ∀ o ∈ [{ elsewhere with parked := false }, ({} : Slot)],
      let s := rcvState [x.1] o
      let en := s.nat hereRcv (ext 0 0 0 0 0 0)
      let w := { en.w with lanes := en.w.lanes &&& ~~~en.e }
      actsB en = true ∧ en.w.dstkSp - 32 = (en.w.getC 15).base ∧
      (okAnd (s.stackRead en.who w (en.w.dstkSp - 32)) fun r _ =>
        if x.2 then usableB w r o && !r.flagP else decide (r.kind ≠ 0)) = true) := by decide +kernel

/-- RTT with both slots live, and on an empty stack. -/
theorem meets_rtt_fault :
    (let en := (rcvState [{ kind := 2 }] elsewhere).nat hereRcv (ext 0 0 0 0 0 0)
     en.Acts ∧ en.w.s0.live = true ∧ en.w.s1.live = true) ∧
    (let en := (rcvState [] {}).nat hereRcv (ext 0 0 0 0 0 0)
     en.Acts ∧ en.w.dstkSp = (en.w.getC 15).base) :=
  ⟨⟨acts_of (by decide +kernel), by decide +kernel⟩, ⟨acts_of (by decide +kernel), by decide +kernel⟩⟩

/-- Valid patterns that a GLD, a GATOM without .nr and a GRED refuse: every axis from 0 to 0 by range, which matches one
module and is not exact; one beyond the axes, which matches none; and a length that does not fit. -/
theorem meets_grid_pattern :
    (let s := (gridded).modWarp 0 fun w => (w.setN 2 (BitVec.ofNat 128 ((List.range 5).map fun a => 2 ^ (24 * a + 23)).sum)).setN 3
       (BitVec.ofNat 128 5)
     let en := s.nat here (ext 2 2 1 6 0 1)
     let j := s.jobOf 0
     en.Acts ∧ patValid (en.w.getN 2) = true ∧ patMode (en.w.getN 2) 0 = 2 ∧ patCount j (en.w.getN 2) = 1 ∧
     patValid (en.w.getN 3) = true ∧ patCount j (en.w.getN 3) = 0 ∧ patIndex j (en.w.getN 3) = none ∧
     (patIndex j (en.w.getN 0)).isSome = true ∧ redLength 0 0 15 = false) :=
  ⟨acts_of (by decide +kernel), by decide +kernel⟩

/-! ### Memory: faults, dirty copies and prefetches -/

/-- A miss beside one dirty copy of the sector in another L1. -/
theorem meets_dirty_copy :
    let x : Sector := { heldSector with dirty := 1 }
    let s := plain.putSectors 1 [x]
    let w := s.who 0 0
    s.sector w.id w.asid ((0x1001C#64).toNat / 32) = none ∧ (s.linesOf w.id (l1Array w.id (0x1001C / 128))).length < l1Lines ∧
    1 ∈ s.l1Ids ∧ x ∈ s.sectors 1 ∧ x.pa = 0x1001C / 32 ∧ x.dirty ≠ 0 ∧
    (∀ i ∈ s.l1Ids, ∀ y ∈ s.sectors i, y.pa = 0x1001C / 32 → y.dirty ≠ 0 → i = 1 ∧ y = x) := by decide +kernel

/-- A capability for each check that it fails, in their order: tag, seal, context, generation, permission, bounds and
alignment; and one whose page is not mapped. -/
theorem meets_access_fault :
    (let c := codeCap
     (mapFind plain.ctxs (plain.who 0 0).ctx).isSome = true ∧ c.tag = true ∧ c.otype = 0 ∧
     c.ctx.toNat = (plain.who 0 0).ctx ∧ (∀ k, mapFind plain.ctxs (plain.who 0 0).ctx = some k → c.gen = k.cgen) ∧
     (mkCap 0 1 0 0 0xFF 64 0 false).tag = false ∧ (mkCap 0 1 0 5 0xFF 64 0 true).otype ≠ 0 ∧
     (mkCap 0 1 3 0 0xFF 64 0 true).ctx.toNat = 3 ∧ (mkCap 0 2 0 0 0xFF 64 0 true).gen = 2 ∧
     c.perms &&& (permR ||| permLC) = permR ||| permLC ∧ (c.restrict 1).perms &&& permW ≠ permW ∧
     c.len.toNat < (0x3FFFFFFD : Word).toNat + 4 ∧ (c.base + 2).toNat % 4 ≠ 0 ∧ 8 + 4 ≤ c.len.toNat) ∧
    (let va : Word := BitVec.ofNat 64 (2 ^ 40)
     let w := plain.who 0 0
     plain.sector w.id w.asid (va.toNat / 32) = none ∧
     ∀ wr, (match (plain.translate (some w.cluster) w.ctx va { r := !wr, w := wr } (b2n wr)).1 with
       | .fail _ => true
       | .ok _ _ => false) = true) ∧
    (let f := ext 8 9 1 0 4 1
     let en := plain.nat here f
     en.Acts ∧
     (match (checkLanes (fun s _ => s.laneCheck en.who (en.w.getC 1) permR (en.sA f + 1) 4 false) plain [0, 1]).2.1 with
       | [] => false
       | x :: _ => decide (x.1 = 0)) = true ∧
     okB (plain.laneCheck en.who (en.w.getC 1) permR 1 4 false).1 = false ∧
     okB (plain.laneCheck en.who (en.w.getC 1) (permR ||| permLC) 1 32 false).1 = false ∧
     okB (plain.homeCheck en.who (en.w.getC 1) (permW ||| permSC) 1 32 32 { w := true }).1 = false) :=
  ⟨by decide +kernel, by decide +kernel, acts_of (by decide +kernel), by decide +kernel⟩

/-- PREF lanes that are kept and dropped; a line that no L1 holds, with readable sectors and, where one is in error, not. -/
theorem meets_pref :
    (let en := plain.nat here (ext 0 9 1 0 0 0)
     en.Runs ∧ plain.capCheck en.ctx (en.w.getC 1) permR 0 1 0 = none ∧ plain.capCheck en.ctx (en.w.getC 2) permR 0 1 0 ≠ none) ∧
    (∀ id ∈ plain.l1Ids, ∀ x ∈ plain.sectors id, x.dirty = 0) ∧
    (let w := plain.who 0 0
     (plain.linesOf w.id (l1Array w.id (0x10000 / 128))).length < l1Lines ∧
     ∀ k < 4, plain.sector w.id w.asid (0x10000 / 128 * 4 + k) = none ∧
       plain.readable 0 (0x10000 / 128 * 128 + 32 * k) 32 = true ∧
       ({ plain with mem := { plain.mem with poison := [(0x800 + k, true)] } } : State).readable 0
         (0x10000 / 128 * 128 + 32 * k) 32 = false) :=
  ⟨⟨runs_of (by decide +kernel), by decide +kernel⟩, by decide +kernel, by decide +kernel⟩

/-- An old dirty sector of an L1, which its owner allows. -/
theorem meets_writeback :
    let x : Sector := { heldSector with dirty := 1 }
    let s := { plain.putSectors 0 [x] with clk := 2 ^ 16 }
    x ∈ s.sectors 0 ∧ x.dirty ≠ 0 ∧ x.since + 2 ^ 16 ≤ s.clk ∧ s.sectorAllowed x = true ∧ 32 * x.pa + 32 ≤ memBytes ∧
    s.inTables (32 * x.pa) = false ∧ ∀ y ∈ s.sectors 0, y = x := by decide +kernel

/-! ### Rows in error, held entries and operations that begin -/

/-- A matrix operation whose column scale is in error; and a copy entry whose ring row is, and one held by its list. -/
theorem meets_torn_start :
    (let o := { queued with kind := .wld { cap := codeCap, off := 0, stride := 4, count := 1 } 11 1 1 1 }
     let s := (engined o).modWarp 0 fun w => { w with tornCols := some 3 }
     s.engineIs 0 7 false = some o ∧ s.startCause 0 o = none ∧ s.tornScale o = some 3) ∧
    (let s := (published [1024, 2048, 32, 8 * 16 + 8 * 256 + 31 * 4096]).modBlock 0 fun b => { b with torn := [(1, 0, 5)] }
     let b := s.block 0
     let r : Ring := { off := 0, k := 4 }
     b.ring = some r ∧ b.ringCorrupt r = false ∧ (b.tornStart r (entryOf (bytesDw 4 (b.scratchRead (r.entryAt 0) 32)))).isSome = true) ∧
    (plain.engineIdle 0 = true ∧ (engined { queued with running := true }).engineIdle 0 = false) := by decide +kernel

/-! ### Packets, rounds and the package -/

/-- HUSK destroy of a husk whose contexts have all begun to end. -/
theorem meets_husk_dying :
    let s := (husked []).modCtx 0 fun c => { c with ending := true }
    let p := packetOf 4 0 0 [2 ^ 24, 0]
    s.takes p 4 ∧ (s.pk p).f 1 24 1 = 1 ∧ (∀ c ∈ s.huskCtxs 0, c.2.ending = true) ∧ s.huskCtxs 0 ≠ [] :=
  ⟨takes_of (by decide +kernel), by decide +kernel⟩

/-- A COND that skips, and what follows it: a CTXEND, and a word of an undefined opcode. -/
def skipWords (count : Nat) : List Nat := [15 + 4 * 2 ^ 8 + 2 ^ 14, 0x18000, 0, 1, 2 ^ 32 * count, 3 + 2 ^ 8, 0, 16, 0]

/-- COND: the packets that it has passed are sound; it has passed all of its count, or meets the end of what is published,
or a header that fails. -/
theorem meets_skip :
    ∀ x ∈ [(1, 9), (2, 7), (2, 9)],
      let s := ringState ((skipWords x.1).take x.2) {}
      let s := { s with cfg := idle.cfg }
      let p := packetOf 15 0 (2 ^ 14) ((skipWords x.1).take 5).tail
      let k := s.pk p
      let j := s.packetAt 0 k.queue 5
      let next := s.packetAt 0 k.queue j.after
      takesB s p 15 = true ∧ k.f 4 4 2 = 0 ∧ k.queue.stage = 0 ∧ k.f 4 32 32 = x.1 ∧
      (k.place s (k.dw 1) 4 { r := true }).1 = some 0x18000 ∧ k.queue.published 0 = x.2 ∧
      headerError j = none ∧ j.whole = true ∧ j.after = 7 ∧
      (x.2 = 7 → k.queue.published 0 ≤ (j.after - 0).toNat) ∧ (x.2 = 9 → (headerError next).isSome = true) := by decide +kernel

/-- A state with a packet in each of two queues. -/
def twoQueues (a b : List Nat) : State :=
  let q : Queue := { latched := true, enable := true, priv := true, size := 10 }
  let s := { plain with mem := (plain.mem.store 0x10000 (a.flatMap (leBytes 8))).store 0x20000 (b.flatMap (leBytes 8)) }
  { s with arn := { s.arn with
      bstate := 1, enable := true
      queues := [(0, { q with ring := 0x10000, tail := BitVec.ofNat 32 a.length }),
                 (1, { q with ring := 0x20000, tail := BitVec.ofNat 32 b.length })] } }

/-- Rounds of two lanes: of different opcodes, the one with the later group first, and of one opcode. -/
theorem meets_round :
    ∀ x ∈ [([9 + 3 * 2 ^ 8, 0x10000, 0, 0], 9), ([3 + 2 ^ 8, 0], 3)],
      let s := twoQueues x.1 [3 + 2 ^ 8, 0]
      s.selectLanes.map (fun k => (k.q, k.f 0 0 8, (headerError k).isNone)) = [(0, x.2, true), (1, 3, true)] := by decide +kernel

/-- A scrub of a frame that leaves no receipt, one that is done, and a checkpoint that holds scrubs. -/
theorem meets_scrub_frame :
    (let x := { oneScrub with rcpt := none }
     let s := { idle with prot := { idle.prot with scrubs := [(0, x)] } }
     s.scrubNow = some x ∧ s.scrubs = true ∧ x.todo = [5] ∧ s.cfg.retired = [] ∧ s.mem.stuck = [] ∧
     s.cfg.resv.toNat % 2 ^ 28 = 0 ∧ s.inRegion (65536 * 5) = false) ∧
    (let x := { oneScrub with todo := [] }
     let s := { idle with prot := { idle.prot with scrubs := [(0, x)] } }
     s.scrubNow = some x ∧ s.arn.bstate = 1 ∧ x.rest = []) := by decide +kernel

/-- A checkpoint with a line to send, in the reserved region and outside it, of a frame that no husk seals. -/
theorem meets_checkpoint_line :
    ∀ pa ∈ [0x10000, 0x40000000],
      let c : Ckpt := { port := 0, roff := 0, one := none, done := 0, dval := 0, queue := 0, phase := 1, todo := [(0, pa, 256)] }
      let s := { idle with ckpt := some c }
      s.ckpt = some c ∧ c.phase = 1 ∧ s.inRegion pa = decide (pa = 0x40000000) ∧ (s.owner (frameOf pa)).seals = false ∧
      ∀ i < 4, s.mem.tag (pa + 32 * i) = false := by decide +kernel

/-- Reductions that have waited too long and not; packets of Ultra Ethernet that act and not; and a happening of a package
that has tripped. -/
theorem meets_happening :
    (let r : Reduction := { head := {}, since := 0 }
     let s := { linked with fab := { linked.fab with reds := [(3, r)] }, clk := 2 ^ 30 }
     mapFind s.fab.reds 3 = some r ∧ r.since + 2 ^ 30 ≤ s.clk ∧ ({ s with clk := 0 } : State).clk < r.since + 2 ^ 30 ∧
     mapFind s.fab.reds 4 = none) ∧
    (let p : UePacket := { frame := { ty := 1 }, mode := .rud, trimmed := false, tssKey := linked.tssKey { ty := 1, via := some .rud } }
     linked.health.tripped = false ∧ linked.portUp p.frame.port.toNat = true ∧ p.frame.link = none ∧
     p.tssKey = linked.tssKey { p.frame with via := some p.mode } ∧ p.mode ≠ .other ∧ linked.ckpt = none) ∧
    (let s := { placed [0x06050400] with inbox := [.blockPlacement], health := { plain.health with tripped := true } }
     s.inbox = [.blockPlacement] ∧ s.health.tripped = true) := by decide +kernel

/-- A write of BAR2 to memory outside the reserved region. -/
theorem meets_bar2_write :
    ∀ i < 8, (plain.settleRange (plain.arn.win.toNat * 2 ^ 32 + (2 ^ 32 - 8)) 8).inRegion
      (plain.arn.win.toNat * 2 ^ 32 + (2 ^ 32 - 8) + i) = false := by decide +kernel

/-- A copy entry that nothing holds, and one that an earlier entry's write of its index list holds. -/
theorem meets_held :
    (let s := published [1024, 2048, 32, 8 * 16 + 8 * 256 + 31 * 4096]
     let b := s.block 0
     let r : Ring := { off := 0, k := 4 }
     let e := entryOf (bytesDw 4 (b.scratchRead (r.entryAt 0) 32))
     s.copyHeld 0 e e.listFoot = false ∧ b.tornStart r e = none ∧
     (match s.startEntry 0 e with
      | .ok ps => !(s.copyHeld 0 e (e.foot ps))
      | .error _ => false) = true) ∧
    (let p : Piece := { srcScratch := false, src := 0, srcLen := 32, dstScratch := true, dst := 4096, len := 32 }
     let s := (published [0, 8192, 4096 + 2 ^ 32 + 2 ^ 48, 2 + 8 * 256 + 31 * 4096 + 2 ^ 32 * 32]).modBlock 0 fun b =>
       { b with copies := [(7, { seq := 7, words := [0, 4096, 32, 8 * 256 + 31 * 4096], pieces := [p], fault := some (.verdict 1 { va := 0 }) })] }
     let b := s.block 0
     let r : Ring := { off := 0, k := 4 }
     let e := entryOf (bytesDw 4 (b.scratchRead (r.entryAt 0) 32))
     s.copyHeld 0 e e.listFoot = true ∧ (∀ c ∈ b.copies, c.2.fault ≠ none)) := by decide +kernel

end Sys2Proof.Tests
end

section
/-! Control registers, the clock and YLD (R4, R136 to R140, Table 1.9). -/
namespace Sys2Proof.Machine

/-! ### Fields and warps -/

/-- A field at the low end of a value. -/
theorem fld_zero {n : Nat} (x : BitVec n) (len : Nat) : fld x 0 len = x.toNat % 2 ^ len := rfl

/-- Changing a resident warp writes the changed warp back. -/
theorem State.modWarp_of_find {s : State} {k : Nat} {w : Warp} (h : mapFind s.warps k = some w) (g : Warp → Warp) :
    s.modWarp k g = s.putWarp k (g w) := by
  simp only [State.modWarp, State.putWarp, mapModify, h]

/-! ### The write of a control register (R137) -/

theorem Warp.setCsr_dstkSp (w : Warp) (x : Word) : w.setCsr 0x020 x = { w with dstkSp := x &&& ~~~31#64 } := rfl

theorem Warp.setCsr_trapVec (w : Warp) (x : Word) : w.setCsr 0x040 x = { w with trapVec := x &&& ~~~3#64 } := rfl

theorem Warp.setCsr_podG (w : Warp) (x : Word) : w.setCsr 0x050 x = { w with podG := x.extractLsb' 0 32 } := rfl

theorem Warp.setCsr_flags (w : Warp) (x : Word) :
    w.setCsr 0x070 x = { w with flags := w.flags &&& ~~~(x.extractLsb' 0 4 &&& ~~~w.flagsNew) } := rfl

/-- No other control register can be written. -/
theorem Warp.setCsr_of_readOnly (w : Warp) {i : Nat} (x : Word) (h : i ∉ [0x020, 0x040, 0x050, 0x070]) :
    w.setCsr i x = w := by
  simp only [List.mem_cons, List.not_mem_nil, or_false, not_or] at h
  obtain ⟨hsp, hvec, hg, hfl⟩ := h
  unfold Warp.setCsr
  split
  · exact absurd rfl hsp
  · exact absurd rfl hvec
  · exact absurd rfl hg
  · exact absurd rfl hfl
  · rfl

/-! ### What each instruction does when it runs -/

section
variable {f : Fields} {s : State} {is : Issue} (h : (s.nat is f).Runs)
include h

theorem exec_nop : exec (.nop f) s = .next ((s.nat is f).goesOn s) := native_next h rfl

theorem exec_clock :
    exec (.clock f) s = .next ((s.nat is f).gives ((s.nat is f).w.setS f.d.toNat (BitVec.ofNat 64 s.clk))) :=
  native_done h rfl

/-- CSRR to s[D] reads as lane 0 does. -/
theorem exec_csrr_scalar (hm : f.mod = 0) :
    exec (.csrr f) s =
      .next ((s.nat is f).gives ((s.nat is f).w.setS f.d.toNat ((s.nat is f).csr (f.w2.toNat % 4096) 0))) :=
  native_done h (by simp [hm, fld_zero])

/-- CSRR to v[D]: the low half on each lane. -/
theorem exec_csrr_vector (hm : f.mod = 1) :
    exec (.csrr f) s =
      .next ((s.nat is f).gives ((s.nat is f).w.setV f.d.toNat (s.nat is f).e fun l =>
        ((s.nat is f).csr (f.w2.toNat % 4096) l).extractLsb' 0 32)) :=
  native_done h (by simp [hm, fld_zero])

/-- CSRR to the pair at D. -/
theorem exec_csrr_pair (hm : f.mod = 2) :
    exec (.csrr f) s =
      .next ((s.nat is f).gives ((s.nat is f).w.setV2 f.d.toNat (s.nat is f).e fun l =>
        (s.nat is f).csr (f.w2.toNat % 4096) l)) :=
  native_done h (by simp [hm, fld_zero])

theorem exec_csrw :
    exec (.csrw f) s =
      .next ((s.nat is f).gives ((s.nat is f).w.setCsr (f.w2.toNat % 4096) ((s.nat is f).sA f))) :=
  native_done h rfl

theorem exec_yld :
    exec (.yld f) s = .next ((s.nat is f).gives
      { (s.nat is f).w with
        yieldUntil := (if f.w2.toNat % 65536 = 0 then 0 else s.clk + f.w2.toNat % 65536 + 1)
        yielded := true, readySince := s.clk + f.w2.toNat % 65536 }) :=
  native_done h rfl

end

/-! ### The end of a yield (R138) -/

/-- The event at the end of a yield, for a resident warp. -/
theorem exec_yldExpiry {k : Nat} {s : State} {w : Warp} (h : mapFind s.warps k = some w) :
    exec (.yldExpiry k) s = .next (s.putWarp k (if w.yieldUntil ≤ s.clk then { w with yieldUntil := 0 } else w)) :=
  congrArg Host.Outcome.next (State.modWarp_of_find h _)

end Sys2Proof.Machine
end

section
open Sys2Proof Sys2Proof.Machine

/-- Settles O5: the instructions by their equations, CSRW by the four writable registers and the rest, and each register
of Table 1.9 by the arm of `Env.csr` at its index. -/
theorem controlRegistersClockAndYieldComplete : Obligations.ControlRegistersClockAndYieldComplete := by
  refine ⟨fun f s is h => ?_, fun f s is h => exec_yld h, fun k s w hw => ?_⟩
  · have csrw := exec_csrw h
    refine ⟨exec_nop h, exec_clock h, exec_csrr_scalar h, exec_csrr_vector h, exec_csrr_pair h, fun l => ?table,
      fun hi => ?sp, fun hi => ?vec, fun hi => ?podG, fun hi => ?flags, fun hi => ?readOnly⟩
    case table => and_intros <;> rfl
    case sp => rwa [hi, Warp.setCsr_dstkSp] at csrw
    case vec => rwa [hi, Warp.setCsr_trapVec] at csrw
    case podG => rwa [hi, Warp.setCsr_podG] at csrw
    case flags => rwa [hi, Warp.setCsr_flags] at csrw
    case readOnly => rwa [Warp.setCsr_of_readOnly _ _ hi] at csrw
  · rw [exec_yldExpiry hw]
    refine ⟨fun hle => ?_, fun hlt => ?_⟩
    · rw [if_pos hle]
    · rw [if_neg (Nat.not_le.mpr hlt)]
end

section
/-! The fields of a capability, and what CBND and CPERM leave of them (R42, R169, R184). -/
namespace Sys2Proof.Machine

/-! ### Fields of a capability made from its fields -/

section
variable (rsvd : Word) (gen : BitVec 24) (ctx otype : BitVec 12) (perms : BitVec 16) (len base : Word) (tag : Bool)

@[simp] theorem mkCap_base : (mkCap rsvd gen ctx otype perms len base tag).base = base := by
  change (rsvd ++ gen ++ ctx ++ otype ++ perms ++ len ++ base).extractLsb' 0 64 = base
  exact BitVec.extractLsb'_append_eq_right

@[simp] theorem mkCap_len : (mkCap rsvd gen ctx otype perms len base tag).len = len := by
  change (rsvd ++ gen ++ ctx ++ otype ++ perms ++ len ++ base).extractLsb' 64 64 = len
  rw [BitVec.extractLsb'_append_eq_of_le (Nat.le_refl 64)]
  exact BitVec.extractLsb'_append_eq_right

@[simp] theorem mkCap_perms : (mkCap rsvd gen ctx otype perms len base tag).perms = perms := by
  change (rsvd ++ gen ++ ctx ++ otype ++ perms ++ len ++ base).extractLsb' 128 16 = perms
  rw [BitVec.extractLsb'_append_eq_of_le (by decide), BitVec.extractLsb'_append_eq_of_le (Nat.le_refl 64)]
  exact BitVec.extractLsb'_append_eq_right

@[simp] theorem mkCap_tag : (mkCap rsvd gen ctx otype perms len base tag).tag = tag := rfl

end

/-! ### What a c register holds -/

section
variable (c : Cap)

@[simp] theorem regCap_tag : (regCap c).tag = c.tag := rfl

/-- A field of the mask that a c register applies. -/
theorem extract_regCap (i n : Nat) :
    (regCap c).bits.extractLsb' i n = c.bits.extractLsb' i n &&& (~~~(0xFF#256 <<< 136)).extractLsb' i n :=
  BitVec.extractLsb'_and

@[simp] theorem regCap_base : (regCap c).base = c.base :=
  (extract_regCap c 0 64).trans BitVec.and_allOnes

@[simp] theorem regCap_len : (regCap c).len = c.len :=
  (extract_regCap c 64 64).trans BitVec.and_allOnes

theorem regCap_perms : (regCap c).perms = c.perms &&& 0xFF := extract_regCap c 128 16

end

/-! ### Capabilities that are no wider than another (R169) -/

/-- What a capability derived from a tagged one may be: unsealed as it was, at an offset within its bounds, with no
further permission. -/
def Cap.Narrows (c a : Cap) : Prop :=
  a.tag = true ∧ a.otype = 0 ∧
    (∃ d : Word, c.base = a.base + d ∧ d.toNat + c.len.toNat ≤ a.len.toNat) ∧ c.perms &&& ~~~a.perms = 0

theorem Cap.narrow_narrows {a : Cap} {by_ len : Word} (h : (a.narrow by_ len).tag = true) :
    (a.narrow by_ len).Narrows a := by
  simp only [Cap.narrow, mkCap_tag, Bool.and_eq_true, decide_eq_true_eq] at h
  obtain ⟨⟨htag, hseal⟩, hfit⟩ := h
  exact ⟨htag, hseal, ⟨by_, by simp [Cap.narrow], by simpa [Cap.narrow] using hfit⟩, by simp [Cap.narrow]⟩

theorem Cap.restrict_narrows {a : Cap} {m : BitVec 16} (h : (a.restrict m).tag = true) :
    (a.restrict m).Narrows a := by
  simp only [Cap.restrict, mkCap_tag, Bool.and_eq_true, decide_eq_true_eq] at h
  obtain ⟨htag, hseal⟩ := h
  refine ⟨htag, hseal, ⟨0, by simp [Cap.restrict], by simp [Cap.restrict]⟩, ?_⟩
  apply BitVec.eq_of_getLsbD_eq
  intro i _
  simp only [Cap.restrict, mkCap_perms, BitVec.getLsbD_and, BitVec.getLsbD_not]
  cases a.perms.getLsbD i <;> simp

end Sys2Proof.Machine
end

section
open Sys2Proof Sys2Proof.Machine

/-- Settles O57: each register class by its law of a read after a write, and the capabilities by `Cap.Narrows` for the
two operations. -/
theorem registersHoldWhatIsWrittenAndCapabilitiesNeverWiden :
    Obligations.RegistersHoldWhatIsWrittenAndCapabilitiesNeverWiden := by
  refine ⟨fun w => ⟨w.getS_zero, w.getP_zero, w.setS_zero, w.setP_zero, fun i j x hi => ?_, fun i j x hi => ?_,
    w.getH_setH, w.getC_setC, w.getN_setN, fun i j l m f hl => w.getV_setV i j l m f hl,
    fun i l m f => w.getV2_setV2 i l m f, fun i j l m f => w.getV_setV2 i j l m f⟩,
    fun a c by_ len m hc htag => ?_⟩
  · simp only [w.getS_setS, hi, ne_eq, not_false_eq_true, and_true]
  · simp only [w.getP_setP, hi, ne_eq, not_false_eq_true, and_true]
  · have narrows : c.Narrows a := by
      rcases hc with rfl | rfl
      · exact Cap.narrow_narrows htag
      · exact Cap.restrict_narrows htag
    obtain ⟨ht, ho, hin, hp⟩ := narrows
    exact ⟨ht, ho, hin, hp, fun w i => (w.getC_setC i i c).trans (if_pos rfl), regCap_perms c, regCap_base c,
      regCap_len c, regCap_tag c⟩
end

section
/-! The warps of a launch as they start (R25), and the registers at reset (Tables 1.9 and 13.1). -/
namespace Sys2Proof.Machine

/-- Every lane of an unlisted v register reads as zero, and so does an element past its end. -/
theorem laneOf_zeroLanes (i : Nat) : laneOf zeroLanes i = 0 := by
  by_cases h : i < 64
  · exact laneOf_lanesOf _ i h
  · exact List.getD_eq_default _ _ (by simpa [zeroLanes, lanesOf] using Nat.not_lt.mp h)

variable (l : Launch) (b w born clk : Nat)

/-- The c registers of a new warp: the entry, the parameters and the stack, and nothing else. -/
theorem Launch.warp_getC (i : Nat) :
    (l.warp b w born clk).getC i =
      if i = 15 then regCap (l.stackCap b w) else if i = 1 then regCap (l.cap 4 1)
      else if i = 0 then regCap (l.cap 0 0) else {} := by
  change ((((({ lanes := BitVec.allOnes 64, born, readySince := clk } : Warp).setC 0 (l.cap 0 0)).setC 1
    (l.cap 4 1)).setC 15 (l.stackCap b w)).getC i) = _
  simp only [Warp.getC_setC, eq_comm]
  rfl

end Sys2Proof.Machine
end

section
open Sys2Proof Sys2Proof.Machine

/-- Settles O56: at reset no core is listed, so that each reads as the default; a new warp's fields are those that
`Launch.warp` lists, with its c registers by `Launch.warp_getC`. -/
theorem resetAndNewWarpsStartAsTheSpecSays : Obligations.ResetAndNewWarpsStartAsTheSpecSays := by
  refine ⟨?reset, fun l b w born clk => ?warp⟩
  case reset =>
    exact ⟨rfl, rfl, rfl, rfl, rfl, rfl, rfl, rfl, rfl, fun _ => ⟨rfl, rfl⟩, rfl, rfl, rfl, rfl, rfl, rfl, rfl, rfl,
      rfl, fun _ => rfl⟩
  case warp =>
    intro x
    have noCap : ∀ i, 2 ≤ i → i ≤ 14 → x.getC i = {} := fun i h2 h14 => by
      rw [l.warp_getC, if_neg (by omega), if_neg (by omega), if_neg (by omega)]
    have noS : ∀ i, x.getS i = 0 := fun i => ite_self 0
    have noP : ∀ i ≠ 0, x.getP i = 0 := fun i hi => if_neg hi
    refine ⟨rfl, rfl, rfl, rfl, rfl, rfl, ?_, ?_, fun i h2 h14 => ⟨noCap i h2 h14, ?_⟩, fun i => ⟨noS i, rfl, rfl⟩,
      fun i lane => ?_, noP, rfl, rfl, rfl, rfl, rfl, rfl, rfl, rfl, rfl, rfl, rfl, rfl, rfl, rfl, rfl⟩
    · exact l.warp_getC b w born clk 0
    · exact l.warp_getC b w born clk 1
    · rw [noCap i h2 h14]
    · exact laneOf_zeroLanes lane
end

section
/-! What a step runs, and what a picked warp issues (R10, R11, R20, R34, R37, R87, R396, R400). -/
namespace Sys2Proof.Machine

/-! ### What a package that has tripped drops (R400) -/

/-- Only a cold boot is one. -/
theorem Instr.isColdBoot_iff (e : Instr) : Instr.isColdBoot e = true ↔ ∃ a b, e = .coldBoot a b := by
  unfold Instr.isColdBoot
  split
  · exact ⟨fun _ => ⟨_, _, rfl⟩, fun _ => rfl⟩
  · next h => exact ⟨fun h => (nomatch h), fun ⟨a, b, e⟩ => absurd e (h a b)⟩

theorem State.holdsStill_eq_false {s : State} {e : Instr}
    (h : s.health.tripped = false ∨ ∃ a b, e = .coldBoot a b) : s.holdsStill e = false := by
  rw [← Instr.isColdBoot_iff] at h
  rcases h with h | h <;> simp [State.holdsStill, h]

theorem State.holdsStill_eq_true {s : State} {e : Instr} (h : s.health.tripped = true)
    (he : ∀ a b, e ≠ .coldBoot a b) : s.holdsStill e = true := by
  have : Instr.isColdBoot e = false := by
    rw [Bool.eq_false_iff, ne_eq, Instr.isColdBoot_iff]
    exact fun ⟨a, b, h⟩ => he a b h
  simp [State.holdsStill, h, this]

/-! ### What the slots of a warp look up -/

/-- The place of an instruction that a slot has fetched. -/
def Warp.fetched (w : Warp) (key k : Nat) (l : List Byte) (fr : Bool) : Issue :=
  { warp := key, slot := k, pc := (w.slot k).pc, len := if fr then 8 else l.length, fr, words := wordsOf l }

/-- An instruction as a slot issues it: with the window that it opens. -/
def Warp.issuing (w : Warp) (key k : Nat) (i : Instr) (l : List Byte) (fr : Bool) : Issue :=
  let (_, dests, ll) := regsOf i
  { w.fetched key k l fr with opens := if ll then dests else [], la := if ll then laOf i else 0 }

/-- The registers that an instruction names lie in its block (R87, check 4). -/
def State.NamesInBlock (s : State) (key : Nat) (i : Instr) : Prop :=
  ∀ x ∈ (regsOf i).1, x.cls = .v → x.idx < (s.block (warpBlock key)).vregs

/-- No open window of a slot covers a register that an instruction names (R37). -/
def Slot.NoWindow (x : Slot) (i : Instr) : Prop := ∀ r ∈ (regsOf i).1, ∀ v ∈ x.windows, r ∉ v.regs

/-- Check 4 of Table 3.10, as the model makes it. -/
theorem State.namesInBlock_iff {s : State} {key : Nat} {i : Instr} :
    s.NamesInBlock key i ↔
      ((regsOf i).1.any fun r => decide (r.cls = .v ∧ (s.block (warpBlock key)).vregs ≤ r.idx)) = false := by
  simp [State.NamesInBlock]

/-- Check 5 of Table 3.10, as the model makes it. -/
theorem Slot.noWindow_iff {x : Slot} {i : Instr} :
    x.NoWindow i ↔ (x.windows.any fun v => (regsOf i).1.any fun r => v.regs.contains r) = false := by
  simp only [Slot.NoWindow, List.any_eq_false, List.contains_iff_mem, Bool.not_eq_true]
  exact ⟨fun h v hv r hr => h r hr v hv, fun h r hr v hv => h v hv r hr⟩

section
variable {s t : State} {key k : Nat} {w : Warp}

theorem State.look_of_fetch_error {cause : BitVec 16} {addr : Word}
    (h : s.fetch key w (w.slot k).pc = (.error (cause, addr), t)) :
    s.look key w k = (.bad cause addr { warp := key, slot := k, pc := (w.slot k).pc }, t) := by
  simp only [State.look, h]

variable {l : List Byte} {fr : Bool} (hf : s.fetch key w (w.slot k).pc = (.ok (l, fr), t))
include hf

theorem State.look_of_illegal (hd : decode fr l = .illegal) :
    s.look key w k = (.run .illegalInstruction (w.fetched key k l fr), t) := by
  simp only [State.look, hf, hd]
  rfl

theorem State.look_of_reserved (hd : decode fr l = .reserved) :
    s.look key w k = (.bad 0x02 0 (w.fetched key k l fr), t) := by
  simp only [State.look, hf, hd]
  rfl

variable {i : Instr} {n : Nat} (hd : decode fr l = .instr i n)
include hd

theorem State.look_of_outside (hb : ¬t.NamesInBlock key i) :
    s.look key w k = (.bad 0x03 0 (w.fetched key k l fr), t) := by
  rw [State.namesInBlock_iff, Bool.not_eq_false] at hb
  simp only [State.look, hf, hd]
  rw [if_pos hb]
  rfl

theorem State.look_of_window (hb : t.NamesInBlock key i) (hw : ¬(w.slot k).NoWindow i) :
    s.look key w k = (.bad 0x04 0 (w.fetched key k l fr), t) := by
  rw [State.namesInBlock_iff, ← Bool.not_eq_true] at hb
  rw [Slot.noWindow_iff, Bool.not_eq_false] at hw
  simp only [State.look, hf, hd]
  rw [if_neg hb, if_pos hw]
  rfl

theorem State.look_of_torn (hb : t.NamesInBlock key i) (hw : (w.slot k).NoWindow i) {row : Nat}
    (ht : w.tornRead i = some row) : s.look key w k = (.torn row (w.fetched key k l fr), t) := by
  rw [State.namesInBlock_iff, ← Bool.not_eq_true] at hb
  rw [Slot.noWindow_iff, ← Bool.not_eq_true] at hw
  simp only [State.look, hf, hd, ht]
  rw [if_neg hb, if_neg hw]
  rfl

theorem State.look_of_run (hb : t.NamesInBlock key i) (hw : (w.slot k).NoWindow i) (ht : w.tornRead i = none) :
    s.look key w k = (.run i (w.issuing key k i l fr), t) := by
  rw [State.namesInBlock_iff, ← Bool.not_eq_true] at hb
  rw [Slot.noWindow_iff, ← Bool.not_eq_true] at hw
  simp only [State.look, hf, hd, ht]
  rw [if_neg hb, if_neg hw]
  rfl

end

/-! ### What a picked warp plans -/

section
variable {s : State} {key : Nat} {w : Warp}

theorem State.plan_idle (h0 : s.slotReady key w 0 = false) (h1 : s.slotReady key w 1 = false) :
    s.plan key w = (.idle, s) := by
  simp only [State.plan, h0, h1]

/-- One slot is ready: it issues what it looks up. -/
theorem State.plan_one {k : Nat} (hk : k < 2) (hr : s.slotReady key w k = true)
    (ho : s.slotReady key w (1 - k) = false) {a : Look} {t : State} (hl : s.look key w k = (a, t)) :
    s.plan key w = (.one k a, t) := by
  match k, hk with
  | 0, _ => simp only [State.plan, hr, ho, hl]
  | 1, _ => simp only [State.plan, hr, ho, hl]

section
variable (h0 : s.slotReady key w 0 = true) (h1 : s.slotReady key w 1 = true) {a b : Look} {t0 t1 : State}
  (ha : s.look key w 0 = (a, t0)) (hb : t0.look key w 1 = (b, t1))
include h0 h1 ha hb

theorem State.plan_beat (hc : conflicts w a b = true) (hl : w.s1.losses < 4) : s.plan key w = (.beat 0 a, t1) := by
  simp only [State.plan, h0, h1, ha, hb, if_pos hc, if_neg (Nat.not_le.mpr hl)]

theorem State.plan_yield (hc : conflicts w a b = true) (hl : 4 ≤ w.s1.losses) : s.plan key w = (.one 1 b, t1) := by
  simp only [State.plan, h0, h1, ha, hb, if_pos hc, if_pos hl]

theorem State.plan_both (hc : conflicts w a b = false) : s.plan key w = (.both a b, t1) := by
  simp only [State.plan, h0, h1, ha, hb, hc, Bool.false_eq_true, if_false]

end

/-- Two instructions that may issue together (R10, R11, R105). -/
theorem conflicts_run {i j : Instr} {a b : Issue} (hi : issuesAlone w 0 i = false) (hj : issuesAlone w 1 j = false)
    (hu : ∀ x ∈ unitsOfInstr i, x ∉ unitsOfInstr j) (hs : ∀ x ∈ sharedWrites i, x ∉ sharedWrites j) :
    conflicts w (.run i a) (.run j b) = false := by
  simpa [conflicts, Look.alone, hi, hj] using And.intro hu hs

/-- A picked warp that issues something settles what its plan made. -/
theorem issueWarp_of_plan {ex : Instr → State → Out} {p : Plan} {t : State} (hw : mapFind s.warps key = some w)
    (hp : s.plan key w = (p, t)) (hi : p ≠ .idle) :
    issueWarp ex s key = w.settled key p t (p.issue ex t key) := by
  simp only [issueWarp, hw, hp, if_neg hi, Warp.settled]
  cases p.issue ex t key <;> rfl

theorem issueWarp_of_idle {ex : Instr → State → Out} (hw : mapFind s.warps key = some w)
    (hp : s.plan key w = (.idle, s)) : issueWarp ex s key = .next s := by
  simp only [issueWarp, hw, hp, if_true]

end

/-- Slot 0 issues, and slot 1 counts a loss. -/
theorem Plan.issue_beat_zero (ex : Instr → State → Out) (s : State) (key : Nat) (a : Look) :
    (Plan.beat 0 a).issue ex s key = issueOne ex
      (s.modWarp key fun w => w.setSlot 1 { w.slot 1 with losses := (w.slot 1).losses + 1 }) key 0 a := rfl

/-- Both slots issue and neither raises an exception (R20). -/
theorem issueBoth_of_next {ex : Instr → State → Out} {s u v : State} {key : Nat} {i j : Instr} {a b : Issue}
    (hi : ex i { (s.setLosses key 0 0).setLosses key 1 0 with cur := some { a with paired := true } } = .next u)
    (hj : ex j { u with cur := some { b with paired := true } } = .next v) (ht : u.traps = []) :
    issueBoth ex s key (.run i a) (.run j b) = .next { v.deliver key false with cur := none } := by
  have one : (!u.traps.isEmpty && decide (1 < v.traps.length)) = false := by rw [ht]; rfl
  simp only [issueBoth, runLook, hi, hj, one, Bool.false_eq_true, if_false]

/-! ### Steps -/

section
variable {s : State} {e : Instr} {r : List Instr} (hi : s.inbox = e :: r)
include hi

theorem step_event (h : s.holdsStill e = false) : step s = exec e { s with inbox := r, cur := none } := by
  simp only [step, hi, h, Bool.false_eq_true, if_false]

theorem step_dropped (h : s.holdsStill e = true) : step s = .next { s with inbox := r } := by
  simp only [step, hi, h, if_true]

end

theorem step_picked {s : State} {key : Nat} {r : List Nat} (hi : s.inbox = []) (hp : s.picks = key :: r) :
    step s = issueWarp exec { s with picks := r } key := by
  simp only [step, hi, hp]

theorem step_late {s : State} {e : Instr} {r : List Instr} (hi : s.inbox = []) (hp : s.picks = [])
    (hl : s.late = e :: r) : step s = exec e { s with late := r, cur := none } := by
  simp only [step, hi, hp, hl]

theorem step_tick {s : State} (hi : s.inbox = []) (hp : s.picks = []) (hl : s.late = []) : step s = .next s.tick := by
  simp only [step, hi, hp, hl]

end Sys2Proof.Machine
end

section
open Sys2Proof Sys2Proof.Machine

/-- Settles O54: each happening by its equation of `step`; a picked warp by what its slots look up, the plan that this
makes, and `issueWarp_of_plan`. -/
theorem stepRunsTheDecodedInstruction : Obligations.StepRunsTheDecodedInstruction := by
  refine ⟨fun s e r hi => ⟨fun h => step_event hi (s.holdsStill_eq_false h),
      fun ht he => step_dropped hi (s.holdsStill_eq_true ht he)⟩,
    fun s e r hi hp hl => step_late hi hp hl, fun s hi hp hl => step_tick hi hp hl,
    fun s key r w hi hp hw => ?_⟩
  intro s0 ready ends place issued inBlock noWindow traps steps
  have settles : ∀ {p : Plan} {t : State}, s0.plan key w = (p, t) → p ≠ .idle → steps p t (p.issue exec t key) :=
    fun hplan hne => (step_picked hi hp).trans (issueWarp_of_plan hw hplan hne)
  refine ⟨fun h0 h1 => ?idle, fun k hk hr ho => ?one, fun h0 h1 a b t0 t1 ha hb hc => ?conflict,
    fun h0 h1 l0 l1 t0 t1 i j n m hf0 hf1 hd0 hd1 hb0 hb1 hw0 hw1 htorn hi0 hj1 hu hs u v => ?both⟩
  case idle =>
    rw [step_picked hi hp]
    exact issueWarp_of_idle hw (State.plan_idle (Bool.eq_false_iff.mpr h0) (Bool.eq_false_iff.mpr h1))
  case one =>
    have only : ∀ {a : Look} {t : State}, s0.look key w k = (a, t) → steps (.one k a) t (issueOne exec t key k a) :=
      fun hl => settles (State.plan_one hk hr (Bool.eq_false_iff.mpr ho) hl) (by simp)
    refine ⟨fun cause addr t hf => only (State.look_of_fetch_error hf), fun l fr t hf => ?_⟩
    refine ⟨fun hd => only (State.look_of_illegal hf hd), fun hd => only (State.look_of_reserved hf hd),
      fun i n hd => ⟨fun hb => only (State.look_of_outside hf hd hb),
        fun hb hwin => only (State.look_of_window hf hd hb hwin),
        fun hb hwin row ht => only (State.look_of_torn hf hd hb hwin ht),
        fun hb hwin ht => only (State.look_of_run hf hd hb hwin ht)⟩⟩
  case conflict =>
    refine ⟨fun hl => ?_, fun hl => settles (State.plan_yield h0 h1 ha hb hc hl) (by simp)⟩
    have := settles (State.plan_beat h0 h1 ha hb hc hl) (by simp)
    rwa [Plan.issue_beat_zero] at this
  case both =>
    intro pair hx hy ht
    have torn : ∀ i, w.tornRead i = none := fun i => by simp [Warp.tornRead, htorn]
    have look0 : s0.look key w 0 = (.run i (issued 0 i l0 false), t0) :=
       State.look_of_run (k := 0) hf0 hd0 hb0 hw0 (torn i)
    have look1 : t0.look key w 1 = (.run j (issued 1 j l1 false), t1) :=
       State.look_of_run (k := 1) hf1 hd1 hb1 hw1 (torn j)
    have := settles (State.plan_both h0 h1 look0 look1 (conflicts_run hi0 hj1 hu hs)) (by simp)
    rwa [Plan.issue, issueBoth_of_next hx hy ht] at this
end

section
/-! Every happening leaves a next state (R10, R87, R327). -/
namespace Sys2Proof.Machine

/-! ### The instructions of warps -/

/-- Instructions that a warp issues, and the events of a word that is none. -/
def Issuable (i : Instr) : Prop :=
  (nativeSig i).isSome = true ∨ (frSig i).isSome = true ∨ i = .illegalInstruction ∨
    ∃ c a, i = .instructionFetchFault c a

/-- The common form of what a warp's instruction means: a body that runs on the lanes of the issuer's slot that a mask
names. -/
def State.issues (s : State) (g : Warp → Word) (body : Env → Res) : Out :=
  match s.cur with
  | none => .fault .noIssuer
  | some is => .next (s.run is g body)

theorem native_eq_issues (f : Fields) (s : State) (body : Env → Res) :
    native f s body = s.issues (fun w => guardOf w f.pg.toNat (f.pn == 1#1)) body := rfl

theorem forerunner_eq_issues (f : FrFields) (s : State) (body : Env → Res) :
    forerunner f s body = s.issues (fun w => guardOf w f.pg.toNat (f.pn == 1#1) &&& w.zeroNest) body := rfl

theorem forerunnerSlot_eq_issues (s : State) (body : Env → Res) :
    forerunnerSlot s body = s.issues (fun _ => BitVec.allOnes 64) body := rfl

/-- Every native meaning is a body under the instruction's guard. -/
theorem exec_of_nativeSig {i : Instr} {f : Fields} {g : Sig} (h : nativeSig i = some (f, g)) (s : State) :
    ∃ body, exec i s = native f s body := by
  cases i <;> cases h <;> exact ⟨_, rfl⟩

/-- Every forerunner meaning is a body on the active lanes, or on the whole slot for the control instructions that move
nesting counters, branch or return. -/
theorem exec_of_frSig {i : Instr} {f : FrFields} {g : FrSig} (h : frSig i = some (f, g)) (s : State) :
    ∃ m body, exec i s = s.issues m body := by
  cases i <;> cases h <;> exact ⟨_, _, rfl⟩

theorem exec_of_issuable {i : Instr} (h : Issuable i) (s : State) : ∃ m body, exec i s = s.issues m body := by
  rcases h with h | h | rfl | ⟨c, a, rfl⟩
  · obtain ⟨⟨f, g⟩, hg⟩ := Option.isSome_iff_exists.mp h
    obtain ⟨body, hb⟩ := exec_of_nativeSig hg s
    exact ⟨_, body, hb⟩
  · obtain ⟨⟨f, g⟩, hg⟩ := Option.isSome_iff_exists.mp h
    exact exec_of_frSig hg s
  · exact ⟨_, _, rfl⟩
  · exact ⟨_, _, rfl⟩

theorem State.issues_of_cur_none {s : State} (h : s.cur = none) (g : Warp → Word) (body : Env → Res) :
    s.issues g body = .fault .noIssuer := by
  simp only [State.issues, h]

theorem State.issues_of_cur {s : State} {is : Issue} (h : s.cur = some is) (g : Warp → Word) (body : Env → Res) :
    s.issues g body = .next (s.run is g body) := by
  simp only [State.issues, h]

/-! ### The other happenings -/

/-- A hang watchdog ends the context, records a barrier timeout instead, or finds nothing to do. -/
theorem execHangWatchdog_next (ctx : Nat) (s : State) : ∃ t, execHangWatchdog ctx s = .next t := by
  unfold execHangWatchdog
  split
  · exact ⟨_, rfl⟩
  · split
    · exact ⟨_, rfl⟩
    · split
      · exact ⟨_, rfl⟩
      · split
        · split <;> exact ⟨_, rfl⟩
        · exact ⟨_, rfl⟩

/-- Packets, frames and events of the device: all but the watchdog answer with a state whatever they find. -/
theorem exec_event_next {i : Instr} (h : ¬Issuable i) (s : State) : ∃ t, exec i s = .next t := by
  obtain ⟨hn, hf, hi, hc⟩ : nativeSig i = none ∧ frSig i = none ∧ i ≠ .illegalInstruction ∧
      ∀ c a, i ≠ .instructionFetchFault c a := by
    simpa [Issuable] using h
  cases i
  case hangWatchdog ctx => exact execHangWatchdog_next ctx s
  case illegalInstruction => exact absurd rfl hi
  case instructionFetchFault c a => exact absurd rfl (hc c a)
  all_goals cases hn <;> cases hf <;> exact ⟨_, rfl⟩

/-- Whatever happens leaves a next state, unless no warp issues it. -/
theorem exec_next_or_noIssuer (i : Instr) (s : State) :
    (∃ t, exec i s = .next t) ∨ (Issuable i ∧ s.cur = none ∧ exec i s = .fault .noIssuer) := by
  by_cases h : Issuable i
  · obtain ⟨m, body, he⟩ := exec_of_issuable h s
    cases hc : s.cur with
    | none => exact .inr ⟨h, rfl, he.trans (State.issues_of_cur_none hc m body)⟩
    | some is => exact .inl ⟨_, he.trans (State.issues_of_cur hc m body)⟩
  · exact .inl (exec_event_next h s)

theorem exec_next_of_cur {s : State} {is : Issue} (h : s.cur = some is) (i : Instr) : ∃ t, exec i s = .next t := by
  rcases exec_next_or_noIssuer i s with ht | ⟨-, hc, -⟩
  · exact ht
  · exact nomatch hc.symm.trans h

/-! ### What a picked warp issues -/

theorem runLook_next (s : State) (l : Look) (paired : Bool) : ∃ t, runLook exec s l paired = .next t := by
  cases l with
  | run i is => exact exec_next_of_cur rfl i
  | bad cause addr is => exact ⟨_, rfl⟩
  | torn row is => exact ⟨_, rfl⟩

theorem issueOne_next (s : State) (key k : Nat) (l : Look) : ∃ t, issueOne exec s key k l = .next t := by
  obtain ⟨t, ht⟩ := runLook_next (s.setLosses key k 0) l false
  simp only [issueOne, ht]
  exact ⟨_, rfl⟩

theorem issueBoth_next (s : State) (key : Nat) (a b : Look) : ∃ t, issueBoth exec s key a b = .next t := by
  obtain ⟨t, ht⟩ := runLook_next ((s.setLosses key 0 0).setLosses key 1 0) a true
  obtain ⟨u, hu⟩ := runLook_next t b true
  simp only [issueBoth, ht, hu]
  exact ⟨_, rfl⟩

theorem Plan.issue_next (s : State) (key : Nat) (p : Plan) : ∃ t, p.issue exec s key = .next t := by
  cases p with
  | idle => exact ⟨_, rfl⟩
  | one k l => exact issueOne_next s key k l
  | beat k l => exact issueOne_next _ key k l
  | both a b => exact issueBoth_next s key a b

theorem Warp.settled_next (w : Warp) (key : Nat) (p : Plan) (t u : State) :
    ∃ v, w.settled key p t (.next u) = .next v := by
  simp only [Warp.settled]
  split <;> exact ⟨_, rfl⟩

theorem issueWarp_next (s : State) (key : Nat) : ∃ t, issueWarp exec s key = .next t := by
  cases hw : mapFind s.warps key with
  | none => exact ⟨s, by simp only [issueWarp, hw]⟩
  | some w =>
    rcases hp : s.plan key w with ⟨p, t⟩
    by_cases hi : p = .idle
    · exact ⟨t, by simp only [issueWarp, hw, hp, hi, if_true]⟩
    · obtain ⟨u, hu⟩ := Plan.issue_next t key p
      rw [issueWarp_of_plan hw hp hi, hu]
      exact w.settled_next key p t u

/-- A step in which no instruction of a warp stands among the events. -/
theorem State.completes_of_events {s : State} (h : ∀ e ∈ s.inbox ++ s.late, ¬Issuable e) : s.completes := by
  unfold State.completes step
  split
  case h_1 e r hi =>
    split
    · exact ⟨_, rfl⟩
    · exact exec_event_next (h e (by simp [hi])) _
  case h_2 =>
    split
    · exact issueWarp_next _ _
    · split
      · next e r hl => exact exec_event_next (h e (by simp [hl])) _
      · exact ⟨_, rfl⟩

end Sys2Proof.Machine
end

section
open Sys2Proof Sys2Proof.Machine

/-- Settles O59: an instruction of a warp ends as its body ends, and a step gives it an issuer. -/
theorem noHappeningStopsTheMachine : Obligations.NoHappeningStopsTheMachine := by
  refine ⟨exec_next_or_noIssuer, fun i s hi hc => ?_, fun s h => State.completes_of_events h⟩
  obtain ⟨m, body, he⟩ := exec_of_issuable hi s
  exact he.trans (State.issues_of_cur_none hc m body)
end

section
/-! Resolve by the rounds that it can take (R16, R17): each round's answer, and what the rounds after it start from. -/
namespace Sys2Proof.Machine

/-! ### Records that are paths (Table 1.2) -/

/-- A path record that may be loaded beside a slot whose lanes are `m`. -/
def Rec.Usable (r : Rec) (lanes m : Word) : Prop :=
  r.kind = 0 ∧ r.mask ≠ 0#64 ∧ r.mask &&& ~~~lanes = 0 ∧ r.rsvd = 0 ∧ r.auxLo = 0 ∧ r.auxHi = 0 ∧ r.mask &&& m = 0

theorem pathBad_eq_false_iff {w : Warp} {r : Rec} {o : Slot} (ho : o.live = true) :
    pathBad w r o = false ↔ r.Usable w.lanes o.mask := by
  simp [pathBad, Rec.Usable, ho, and_assoc]

theorem pathBad_alone {w : Warp} {r : Rec} {o : Slot} (ho : o.live = false) (h : r.Usable w.lanes 0) :
    pathBad w r o = false := by
  obtain ⟨hk, hm, hl, hr, h1, h2, -⟩ := h
  simp [pathBad, ho, hk, hm, hl, hr, h1, h2]

/-- Loading a usable record into a slot. -/
theorem popInto_of_fit {w : Warp} {k : Nat} {r : Rec} (h : pathBad w r (w.slot (1 - k)) = false) :
    popInto w k r = .ok (.again ({ w with dstkSp := w.dstkSp - 32 }.setSlot k r.slot)) := by
  simp only [popInto, h, Bool.false_eq_true, if_false]

theorem popInto_of_bad {w : Warp} {k : Nat} {r : Rec} (h : pathBad w r (w.slot (1 - k)) = true) :
    popInto w k r = .error (0x05, w.dstkSp - 32) := by
  simp only [popInto, h, if_true]

/-! ### The record on top, where a round asks for it -/

/-- What a round is given of the stack. -/
def State.asked (s : State) (who : Who) (w : Warp) : Except Failure (Option Rec) × State :=
  if w.asksTop then s.topRecord who w else (.ok none, s)

section
variable {s t : State} {key : Nat} {who : Who} {w u : Warp} {n : Nat}

theorem State.asked_of_calm (h : w.asksTop = false) : s.asked who w = (.ok none, s) := by
  simp only [State.asked, h, Bool.false_eq_true, if_false]

theorem State.asked_of_empty (h : w.dstkSp = (w.getC 15).base) : s.asked who w = (.ok none, s) := by
  simp only [State.asked, State.topRecord, if_pos h, ite_self]

theorem State.asked_of_read {r : Rec} (ha : w.asksTop = true) (h : w.dstkSp ≠ (w.getC 15).base)
    (hr : s.stackRead who w (w.dstkSp - 32) = (.ok r, t)) : s.asked who w = (.ok (some r), t) := by
  simp only [State.asked, State.topRecord, ha, if_true, if_neg h, hr]

/-- Slots that both run, or of which only the second lives, or that are parked at one RCV, need no record. -/
theorem Warp.asksTop_eq_false_of_running (h0 : w.s0.live = true) (h1 : w.s1.live = true)
    (hp : ¬(w.s0.parked = true ∧ w.s1.parked = true)) : w.asksTop = false := by
  have : (w.s0.parked && w.s1.parked) = false := by simpa using hp
  simp [Warp.asksTop, h0, h1, this]

theorem Warp.asksTop_of_alone (h1 : w.s1.live = false) : w.asksTop = true := by
  simp [Warp.asksTop, h1]

/-! ### One round -/

variable {top : Option Rec}

theorem State.resolve_again {s' : State} (ha : s.asked who w = (.ok top, s'))
    (ht : s'.resolveTurn key who w top = (.ok (.again u), t)) :
    s.resolve key who w (n + 1) = t.resolve key who u n := by
  simp only [State.asked] at ha
  simp only [State.resolve, ha, ht]

theorem State.resolve_done {s' : State} (ha : s.asked who w = (.ok top, s'))
    (ht : s'.resolveTurn key who w top = (.ok .done, t)) : s.resolve key who w (n + 1) = (.ok (some w), t) := by
  simp only [State.asked] at ha
  simp only [State.resolve, ha, ht]

theorem State.resolve_overrun {s' : State} (ha : s.asked who w = (.ok top, s'))
    (ht : s'.resolveTurn key who w top = (.ok .overrun, t)) : s.resolve key who w (n + 1) = (.ok none, t) := by
  simp only [State.asked] at ha
  simp only [State.resolve, ha, ht]

theorem State.resolve_error {s' : State} {e : Failure} (ha : s.asked who w = (.ok top, s'))
    (ht : s'.resolveTurn key who w top = (.error e, t)) : s.resolve key who w (n + 1) = (.error e, t) := by
  simp only [State.asked] at ha
  simp only [State.resolve, ha, ht]

/-! ### Rounds that end -/

/-- Both slots live and not both parked: Resolve has nothing to do. -/
theorem State.resolve_running (h0 : w.s0.live = true) (h1 : w.s1.live = true)
    (hp : ¬(w.s0.parked = true ∧ w.s1.parked = true)) : s.resolve key who w (n + 1) = (.ok (some w), s) := by
  have : (w.s0.parked && w.s1.parked) = false := by simpa using hp
  refine State.resolve_done (State.asked_of_calm (Warp.asksTop_eq_false_of_running h0 h1 hp)) ?_
  simp [State.resolveTurn, h0, h1, this]

/-- The record on top is none, or no path. -/
def NoPath (top : Option Rec) : Prop := ∀ r, top = some r → r.kind ≠ 0

theorem noPath_none : NoPath none := fun _ h => nomatch h

theorem noPath_some {r : Rec} (h : r.kind ≠ 0) : NoPath (some r) := fun _ hr => Option.some.inj hr ▸ h

/-- A record that is no path counts as none. -/
theorem State.resolveTurn_of_noPath (h : NoPath top) :
    s.resolveTurn key who w top = s.resolveTurn key who w none := by
  cases top with
  | none => rfl
  | some r => simp only [State.resolveTurn, if_neg (h r rfl)]

/-- Slot 0 runs alone, and the stack gives no path. -/
theorem State.resolve_alone {s' : State} (h0 : w.s0.live = true) (h1 : w.s1.live = false) (hp : w.s0.parked = false)
    (ha : s.asked who w = (.ok top, s')) (ht : NoPath top) : s.resolve key who w (n + 1) = (.ok (some w), s') := by
  refine State.resolve_done ha ((State.resolveTurn_of_noPath ht).trans ?_)
  simp [State.resolveTurn, h0, h1, hp]

/-- No slot lives, and the stack gives no path. -/
theorem State.resolve_ends {s' : State} (h0 : w.s0.live = false) (h1 : w.s1.live = false)
    (ha : s.asked who w = (.ok top, s')) (ht : NoPath top) : s.resolve key who w (n + 1) = (.ok none, s') := by
  refine State.resolve_overrun ha ((State.resolveTurn_of_noPath ht).trans ?_)
  simp [State.resolveTurn, h0, h1]

/-! ### Rounds that go on -/

/-- Only slot 1 lives: it becomes slot 0. -/
theorem State.resolve_shift (h0 : w.s0.live = false) (h1 : w.s1.live = true) :
    s.resolve key who w (n + 1) = s.resolve key who { w with s0 := w.s1, s1 := {} } n := by
  refine State.resolve_again (State.asked_of_calm (by simp [Warp.asksTop, h0, h1])) ?_
  simp [State.resolveTurn, h0, h1]

/-- A slot past the RCV at which it was parked. -/
def Slot.past (x : Slot) (outer nxt : Word) : Slot := { x with rpc := outer, pc := nxt, parked := false }

theorem State.unpark_eq {k : Nat} {outer nxt : Word} (hr : s.rcvAt key w (w.slot k).pc = (.ok (outer, nxt), t))
    (hk : t.kindDiffers (t.ctxOf (warpBlock key)) false (w.slot k).pc nxt = false) :
    s.unpark key w k = (.ok (w.setSlot k ((w.slot k).past outer nxt)), t) := by
  simp only [State.unpark, hr, hk, Bool.false_eq_true, if_false]
  rfl

/-- A warp whose slots have merged past the RCV at which slot 0 was parked. -/
def Warp.merged (w : Warp) (outer nxt : Word) : Warp :=
  { w with
    s0 := { w.s0 with mask := w.s0.mask ||| w.s1.mask, pc := nxt, rpc := outer, parked := false, windows := [] }
    s1 := {} }

theorem State.mergeSlots_eq {outer nxt : Word} (hr : s.rcvAt key w w.s0.pc = (.ok (outer, nxt), t))
    (hk : t.kindDiffers (t.ctxOf (warpBlock key)) false w.s0.pc nxt = false) :
    s.mergeSlots key w = (.ok (w.merged outer nxt), t) := by
  simp only [State.mergeSlots, State.unpark_eq (k := 0) hr hk]
  rfl

section
variable {outer nxt : Word}

/-- Both slots are parked at one RCV: they merge past it. -/
theorem State.resolve_merge (h0 : w.s0.live = true) (h1 : w.s1.live = true) (hp0 : w.s0.parked = true)
    (hp1 : w.s1.parked = true) (hpc : w.s0.pc = w.s1.pc) (hr : s.rcvAt key w w.s0.pc = (.ok (outer, nxt), t))
    (hk : t.kindDiffers (t.ctxOf (warpBlock key)) false w.s0.pc nxt = false) :
    s.resolve key who w (n + 1) = t.resolve key who (w.merged outer nxt) n := by
  refine State.resolve_again (State.asked_of_calm (by simp [Warp.asksTop, h0, h1, hpc])) ?_
  have hm := State.mergeSlots_eq hr hk
  simp [State.resolveTurn, h0, h1, hp0, hp1, hpc, hm]

/-- Slot 0 is parked alone, and the stack gives no path: it goes past its RCV. -/
theorem State.resolve_unpark {s' : State} (h0 : w.s0.live = true) (h1 : w.s1.live = false) (hp : w.s0.parked = true)
    (ha : s.asked who w = (.ok top, s')) (ht : NoPath top) (hr : s'.rcvAt key w w.s0.pc = (.ok (outer, nxt), t))
    (hk : t.kindDiffers (t.ctxOf (warpBlock key)) false w.s0.pc nxt = false) :
    s.resolve key who w (n + 1) = t.resolve key who { w with s0 := w.s0.past outer nxt } n := by
  refine State.resolve_again ha ((State.resolveTurn_of_noPath ht).trans ?_)
  have hu := State.unpark_eq (k := 0) hr hk
  simp [State.resolveTurn, h0, h1, hp, hu]
  rfl

end

/-- Slot 0 lives alone, and the path on top fits beside it. -/
theorem State.resolve_pop {s' : State} {r : Rec} (h0 : w.s0.live = true) (h1 : w.s1.live = false)
    (ha : s.asked who w = (.ok (some r), s')) (hu : r.Usable w.lanes w.s0.mask) :
    s.resolve key who w (n + 1) = s'.resolve key who { w with dstkSp := w.dstkSp - 32, s1 := r.slot } n := by
  refine State.resolve_again ha ?_
  have hp := popInto_of_fit (k := 1) ((pathBad_eq_false_iff h0).mpr hu)
  simp [State.resolveTurn, h0, h1, hu.1, hp]
  rfl

/-- Slot 0 lives alone, and the path on top is not usable beside it. -/
theorem State.resolve_pop_error {s' : State} {r : Rec} (h0 : w.s0.live = true) (h1 : w.s1.live = false)
    (ha : s.asked who w = (.ok (some r), s')) (hk : r.kind = 0) (hu : ¬r.Usable w.lanes w.s0.mask) :
    s.resolve key who w (n + 1) = (.error (0x05, w.dstkSp - 32), s') := by
  refine State.resolve_error ha ?_
  rw [← pathBad_eq_false_iff h0, Bool.not_eq_false] at hu
  simp [State.resolveTurn, h0, h1, hk, popInto_of_bad (k := 1) hu]

/-- No slot lives, and the path on top is usable: it runs in slot 0. -/
theorem State.resolve_popAlone {s' : State} {r : Rec} (h0 : w.s0.live = false) (h1 : w.s1.live = false)
    (ha : s.asked who w = (.ok (some r), s')) (hu : r.Usable w.lanes 0) :
    s.resolve key who w (n + 1) = s'.resolve key who { w with dstkSp := w.dstkSp - 32, s0 := r.slot } n := by
  refine State.resolve_again ha ?_
  have hp := popInto_of_fit (k := 0) (pathBad_alone (o := w.slot 1) h1 hu)
  simp [State.resolveTurn, h0, h1, hu.1, hp]
  rfl

/-! ### Both slots parked at different points -/

/-- Both slots are live and parked, at different points. -/
structure Warp.Apart (w : Warp) : Prop where
  live0 : w.s0.live = true
  live1 : w.s1.live = true
  parked0 : w.s0.parked = true
  parked1 : w.s1.parked = true
  ne : w.s0.pc ≠ w.s1.pc

theorem Warp.Apart.asksTop (h : w.Apart) : w.asksTop = true := by
  simp [Warp.asksTop, h.live0, h.parked0, h.parked1, h.ne]

/-- A path that is parked at either slot's point. -/
def Warp.Partner (w : Warp) (r : Rec) : Prop :=
  r.kind = 0 ∧ r.flagP = true ∧ (r.pc = w.s0.pc ∨ r.pc = w.s1.pc)

/-- A record that is no partner counts as none. -/
theorem Warp.Apart.resolveTurn_eq (h : w.Apart) (ht : ∀ r, top = some r → ¬w.Partner r) :
    s.resolveTurn key who w top = s.resolveTurn key who w none := by
  cases top with
  | none => rfl
  | some r =>
    have hn := ht r rfl
    by_cases hk : r.kind = 0
    · have : (r.flagP && (decide (r.pc = w.s0.pc) || decide (r.pc = w.s1.pc))) = false := by
        simpa [Warp.Partner, hk] using hn
      simp [State.resolveTurn, h.live0, h.live1, h.parked0, h.parked1, h.ne, hk, Option.filter, this]
    · exact State.resolveTurn_of_noPath (noPath_some hk)

/-- The slot of the smaller reconvergence point goes past its RCV. -/
theorem State.resolve_lesser {s' : State} {outer nxt : Word} (h : w.Apart) (ha : s.asked who w = (.ok top, s'))
    (ht : ∀ r, top = some r → ¬w.Partner r) {k : Nat} (hkk : k = if w.s1.rpc.toNat < w.s0.rpc.toNat then 1 else 0)
    (hr : s'.rcvAt key w (w.slot k).pc = (.ok (outer, nxt), t))
    (hk : t.kindDiffers (t.ctxOf (warpBlock key)) false (w.slot k).pc nxt = false) :
    s.resolve key who w (n + 1) = t.resolve key who (w.setSlot k ((w.slot k).past outer nxt)) n := by
  refine State.resolve_again ha ((h.resolveTurn_eq ht).trans ?_)
  have hu := State.unpark_eq hr hk
  rw [hkk] at hu ⊢
  simp [State.resolveTurn, h.live0, h.live1, h.parked0, h.parked1, h.ne, hu]

/-- The exchange with a partner: its slot merges with it, and the other slot's path takes its place on the stack and is
popped again. -/
theorem State.resolve_exchange {s' t1 : State} {r : Rec} {outer nxt : Word}
    {l : List (Word × Rec × Option (Nat × Word))} (h : w.Apart) (ha : s.asked who w = (.ok (some r), s'))
    (hp : w.Partner r) {j : Nat} (hj : j = if r.pc = w.s0.pc then 1 else 0)
    (hu : r.Usable w.lanes (w.slot (1 - j)).mask)
    (hl : s'.stackChecks who w (w.dstkSp - 32) [(w.slot j).path] = (.ok l, t1))
    (hr : t1.rcvAt key (w.setSlot j r.slot) r.pc = (.ok (outer, nxt), t))
    (hk : t.kindDiffers (t.ctxOf (warpBlock key)) false r.pc nxt = false)
    (ho : (w.slot j).path.Usable w.lanes ((w.setSlot j r.slot).merged outer nxt).s0.mask) :
    s.resolve key who w (n + 1) = (t.stackStore who l).resolve key who
      { (w.setSlot j r.slot).merged outer nxt with dstkSp := w.dstkSp - 32, s1 := (w.slot j).path.slot } n := by
  have hpc : (w.setSlot j r.slot).s0.pc = r.pc := by
    by_cases h0 : r.pc = w.s0.pc
    · simp [hj, h0, Warp.setSlot]
    · simp [hj, h0, Warp.setSlot, Rec.slot]
  have hm := State.mergeSlots_eq (w := w.setSlot j r.slot) (hpc ▸ hr) (hpc ▸ hk)
  have hlive : ((w.setSlot j r.slot).merged outer nxt).s0.live = true := by
    by_cases h0 : r.pc = w.s0.pc
    · simp [hj, h0, Warp.setSlot, Warp.merged, h.live0]
    · simp [hj, h0, Warp.setSlot, Warp.merged, Rec.slot]
  have hlanes : ((w.setSlot j r.slot).merged outer nxt).lanes = w.lanes := by simp [Warp.merged]
  have hsp : ((w.setSlot j r.slot).merged outer nxt).dstkSp = w.dstkSp := by simp [Warp.merged]
  have hpop := popInto_of_fit (k := 1) ((pathBad_eq_false_iff hlive).mpr (hlanes ▸ ho))
  have hbad : pathBad w r (w.slot (1 - j)) = false := by
    refine (pathBad_eq_false_iff ?_).mpr hu
    by_cases h0 : r.pc = w.s0.pc
    · simp [hj, h0, Warp.slot, h.live0]
    · simp [hj, h0, Warp.slot, h.live1]
  have hpath : (r.flagP && (decide (r.pc = w.s0.pc) || decide (r.pc = w.s1.pc))) = true := by
    simpa using ⟨hp.2.1, hp.2.2⟩
  refine State.resolve_again ha ?_
  rw [hsp] at hpop
  subst hj
  simp only [State.resolveTurn, h.live0, h.live1, h.parked0, h.parked1, h.ne, hp.1, Option.filter, hpath, hbad, hl, hm,
    hpop, if_true, if_false, Bool.not_true, Bool.and_false, Bool.and_true, Bool.false_eq_true]
  rfl

end
end Sys2Proof.Machine
end

section
/-! BRV, RCV and EXIT (R12, R13, R16, R126 to R128), by the rounds of Resolve. -/
namespace Sys2Proof.Machine

/-! ### Slots of the issuer -/

@[simp] theorem Slot.issued_live (x : Slot) (is : Issue) : (x.issued is).live = x.live := by
  simp only [Slot.issued, Slot.tick]; split <;> rfl
@[simp] theorem Slot.issued_pc (x : Slot) (is : Issue) : (x.issued is).pc = x.pc := by
  simp only [Slot.issued, Slot.tick]; split <;> rfl
@[simp] theorem Slot.issued_mask (x : Slot) (is : Issue) : (x.issued is).mask = x.mask := by
  simp only [Slot.issued, Slot.tick]; split <;> rfl
@[simp] theorem Slot.issued_rpc (x : Slot) (is : Issue) : (x.issued is).rpc = x.rpc := by
  simp only [Slot.issued, Slot.tick]; split <;> rfl
@[simp] theorem Slot.issued_parked (x : Slot) (is : Issue) : (x.issued is).parked = x.parked := by
  simp only [Slot.issued, Slot.tick]; split <;> rfl

/-- A slot below 2 is slot 0 or slot 1. -/
theorem slot_cases {k : Nat} (h : k < 2) : k = 0 ∨ k = 1 := by omega

/-! ### How an instruction that resolves ends -/

section
variable {en : Env} {s t : State} {w u : Warp}

theorem Env.finish_resolved (h : s.resolve en.key en.who w resolveFuel = (.ok (some u), t)) :
    en.finish (en.resolved w s) = (t.putWarp en.key u).retired en.ctx := by
  simp only [Env.resolved, h, Env.finish]

theorem Env.finish_ended (h : s.resolve en.key en.who w resolveFuel = (.ok none, t)) :
    en.finish (en.resolved w s) = ((t.putWarp en.key w).endWarp en.key).retired en.ctx := by
  simp only [Env.resolved, h, Env.finish]

theorem Env.finish_unresolved {e : Failure} (h : s.resolve en.key en.who w resolveFuel = (.error e, t)) :
    en.finish (en.resolved w s) =
      en.raise (t.putWarp en.key en.w) { cause := e.1, addr := e.2, lanes := en.e } := by
  simp only [Env.resolved, h, Env.failIn, Env.finish]

end

section
variable {f : Fields} {s : State} {is : Issue} (h : (s.nat is f).Acts)
include h

/-- An RCV that is the slot's reconvergence point parks the slot, and Resolve runs. -/
theorem exec_rcv_parks (hr : (s.nat is f).sl.rpc = is.pc) :
    exec (.rcv f) s = .next ((s.nat is f).finish ((s.nat is f).resolved
      ((s.nat is f).w.setSlot is.slot { (s.nat is f).sl.issued is with parked := true, wait := none }) s)) := by
  refine (native_eq h).trans ?_
  simp only [State.nat_is, hr, if_true]
  rfl

theorem exec_rcv_passes (hr : (s.nat is f).sl.rpc ≠ is.pc) (hs : (s.nat is f).Stays (s.nat is f).fall) :
    exec (.rcv f) s = .next ((s.nat is f).goesOn s) := by
  refine native_next ⟨h, hs⟩ ?_
  exact if_neg hr

/-- What an EXIT leaves of the issuing slot. -/
def Env.leftSlot (en : Env) : Slot :=
  if en.sl.mask &&& ~~~en.e = 0 then {}
  else { en.sl.issued en.is with mask := en.sl.mask &&& ~~~en.e, pc := en.fall, wait := none }

/-- An EXIT whose slot stays within pages of one code kind takes its lanes, and Resolve runs. -/
theorem exec_exit_resolves (hs : (s.nat is f).sl.mask &&& ~~~(s.nat is f).e ≠ 0 → (s.nat is f).Stays (s.nat is f).fall) :
    exec (.exit f) s = .next ((s.nat is f).finish ((s.nat is f).resolved
      ({ (s.nat is f).w with lanes := (s.nat is f).w.lanes &&& ~~~(s.nat is f).e }.setSlot is.slot (s.nat is f).leftSlot)
      s)) := by
  refine (native_eq h).trans (congrArg _ (congrArg _ ?_))
  have : (decide ((s.nat is f).sl.mask &&& ~~~(s.nat is f).e ≠ 0) &&
      s.kindDiffers (s.nat is f).ctx is.fr is.pc (s.nat is f).fall) = false := by
    rw [Bool.and_eq_false_imp]
    exact fun hm => hs (of_decide_eq_true hm)
  simp only [Env.exitLanes, State.nat_is, State.nat_s, this, Bool.false_eq_true, if_false]
  rfl

end

/-! ### BRV -/

theorem brvPoint_eq (f : Fields) (pc : Word) :
    brvPoint f pc = pc + ((f.mod ++ f.c ++ f.b : BitVec 23).signExtend 64) * 4 := by
  rw [brvPoint, BitVec.shiftLeft_eq_mul_twoPow]
  rfl

section
variable {f : Fields} {s : State} {is : Issue}

/-- The lanes that take a BRV. -/
def Env.takers (en : Env) (f : Fields) : Word := en.e &&& en.w.getP f.a.toNat

/-- The lanes that do not. -/
def Env.stayers (en : Env) (f : Fields) : Word := en.sl.mask &&& ~~~(en.takers f)

/-- The path of the lanes that take a BRV. -/
def Env.takenPath (en : Env) (f : Fields) : Slot :=
  { live := true, pc := en.is.pc + sx32 f.w2, mask := en.takers f, rpc := brvPoint f en.is.pc }

/-- The path of the lanes that do not. -/
def Env.fallPath (en : Env) (f : Fields) : Slot :=
  { live := true, pc := en.fall, mask := en.stayers f, rpc := brvPoint f en.is.pc }

/-- A warp with a slot and its other slot replaced. -/
def Warp.setBoth (w : Warp) (k : Nat) (x y : Slot) : Warp := (w.setSlot k x).setSlot (1 - k) y

theorem Warp.setBoth_eq {k : Nat} (hk : k < 2) (w : Warp) (x y : Slot) :
    w.setBoth k x y = { w with s0 := if k = 0 then x else y, s1 := if k = 0 then y else x } := by
  rcases slot_cases hk with rfl | rfl <;> rfl

/-- Both sides of a split are lanes of the slot, and no lane is on both. -/
theorem State.nat_sides : (s.nat is f).takers f ||| (s.nat is f).stayers f = (s.nat is f).sl.mask ∧
    (s.nat is f).takers f &&& (s.nat is f).stayers f = 0 := by
  constructor <;> apply BitVec.eq_of_getLsbD_eq <;> intro i _ <;>
    simp only [Env.takers, Env.stayers, State.nat, State.env, BitVec.getLsbD_or, BitVec.getLsbD_and,
      BitVec.getLsbD_not] <;> grind

variable (h : (s.nat is f).Acts)
include h

theorem exec_brv_falls (ht : (s.nat is f).takers f = 0) (hs : (s.nat is f).Stays (s.nat is f).fall) :
    exec (.brv f) s = .next ((s.nat is f).goesOn s) :=
  native_next ⟨h, hs⟩ (if_pos ht)

theorem exec_brv_jumps (ht : (s.nat is f).takers f ≠ 0) (hn : (s.nat is f).stayers f = 0)
    (hs : (s.nat is f).Stays (is.pc + sx32 f.w2)) :
    exec (.brv f) s = .next ((s.nat is f).goesTo s (is.pc + sx32 f.w2)) := by
  refine (native_eq h).trans (congrArg _ ?_)
  rw [← Env.finish_jump _ _ _ hs]
  exact congrArg _ ((if_neg ht).trans (if_pos hn))

section
variable (ht : (s.nat is f).takers f ≠ 0) (hn : (s.nat is f).stayers f ≠ 0)
  (hs : (s.nat is f).Stays (is.pc + sx32 f.w2)) (hf : (s.nat is f).Stays (s.nat is f).fall)
include ht hn hs hf

/-- Both sides have a lane, and the other slot is empty. -/
theorem exec_brv_splits (ho : ((s.nat is f).w.slot (1 - is.slot)).live = false) :
    exec (.brv f) s = .next (((s.nat is f).put
      ((s.nat is f).w.setBoth is.slot ((s.nat is f).takenPath f) ((s.nat is f).fallPath f))).retired (s.nat is f).ctx) := by
  simp only [Env.takers, Env.stayers, Env.Stays] at ht hn hs hf
  refine (native_eq h).trans ?_
  simp only [State.nat_is, State.nat_s, State.nat_k] at ht hn hs hf ⊢
  simp only [ht, hn, hs, hf, ho, if_false, Bool.or_false, Bool.false_eq_true, Bool.not_false, if_true]
  rfl

/-- Both sides have a lane, and the other slot lives: of its path and the path that falls through, the one of the
greater reconvergence point is pushed. -/
theorem exec_brv_pushes {u : State} (ho : ((s.nat is f).w.slot (1 - is.slot)).live = true)
    (hw : s.stackWrite (s.nat is f).who (s.nat is f).w (s.nat is f).w.dstkSp
      [if decide ((brvPoint f is.pc).toNat ≤ ((s.nat is f).w.slot (1 - is.slot)).rpc.toNat) then
        ((s.nat is f).w.slot (1 - is.slot)).path else ((s.nat is f).fallPath f).path] = (.ok (), u)) :
    exec (.brv f) s = .next ((u.putWarp is.warp
      { (s.nat is f).w.setBoth is.slot ((s.nat is f).takenPath f)
          (if decide ((brvPoint f is.pc).toNat ≤ ((s.nat is f).w.slot (1 - is.slot)).rpc.toNat) then
            (s.nat is f).fallPath f else (s.nat is f).w.slot (1 - is.slot)) with
        dstkSp := (s.nat is f).w.dstkSp + 32 }).retired (s.nat is f).ctx) := by
  simp only [Env.takers, Env.stayers, Env.Stays] at ht hn hs hf
  refine (native_eq h).trans ?_
  simp only [Env.fallPath, Env.stayers, Env.takers, State.nat_is, State.nat_s, State.nat_k] at ht hn hs hf hw ⊢
  simp only [ht, hn, hs, hf, ho, if_false, Bool.or_false, Bool.false_eq_true, Bool.not_true]
  by_cases hle : (brvPoint f is.pc).toNat ≤ ((s.nat is f).w.slot (1 - is.slot)).rpc.toNat
  · simp only [hle, decide_true, if_true] at hw ⊢
    simp only [hw]
    rfl
  · simp only [hle, decide_false, if_false, Bool.false_eq_true] at hw ⊢
    simp only [hw]
    rfl

end
end

end Sys2Proof.Machine
end

section
/-! The rounds of Resolve that follow an RCV and an EXIT (R16, R127, R128). -/
namespace Sys2Proof.Machine

/-- A slot that is replaced, and the other one, are the two slots of the warp. -/
theorem Warp.setSlot_slots {k : Nat} (hk : k < 2) (w : Warp) (x : Slot) :
    ((w.setSlot k x).s0 = x ∧ (w.setSlot k x).s1 = w.slot (1 - k)) ∨
      ((w.setSlot k x).s0 = w.slot (1 - k) ∧ (w.setSlot k x).s1 = x) := by
  rcases slot_cases hk with rfl | rfl
  · exact .inl ⟨rfl, rfl⟩
  · exact .inr ⟨rfl, rfl⟩

section
variable {s t : State} {key : Nat} {who : Who} {w : Warp} {outer nxt : Word} {r : Rec}

/-- Slot 0 runs alone and the stack is empty. -/
theorem State.resolve_settled {n : Nat} (h0 : w.s0.live = true) (h1 : w.s1.live = false) (hp : w.s0.parked = false)
    (hb : w.dstkSp = (w.getC 15).base) : s.resolve key who w (n + 1) = (.ok (some w), s) :=
  State.resolve_alone h0 h1 hp (State.asked_of_empty hb) noPath_none

/-- A warp at rest stays as it is. -/
theorem State.resolve_of_rests {n : Nat} (h : w.Rests) : s.resolve key who w (n + 1) = (.ok (some w), s) := by
  obtain ⟨h0, ⟨h1, hp⟩ | ⟨h1, hp, hb⟩⟩ := h
  · exact State.resolve_running h0 h1 hp
  · exact State.resolve_settled h0 h1 hp hb

/-- Both slots are parked at one RCV and the stack is empty: they merge past it. -/
theorem State.resolve_to_merged {n : Nat} (h0 : w.s0.live = true) (h1 : w.s1.live = true)
    (hp0 : w.s0.parked = true) (hp1 : w.s1.parked = true) (hpc : w.s0.pc = w.s1.pc)
    (hb : w.dstkSp = (w.getC 15).base) (hr : s.rcvAt key w w.s0.pc = (.ok (outer, nxt), t))
    (hk : t.kindDiffers (t.ctxOf (warpBlock key)) false w.s0.pc nxt = false) :
    s.resolve key who w (n + 2) = (.ok (some (w.merged outer nxt)), t) :=
  (State.resolve_merge h0 h1 hp0 hp1 hpc hr hk).trans (State.resolve_settled h0 rfl rfl hb)

/-- Slot 0 is parked alone and the stack is empty: it goes past its RCV. -/
theorem State.resolve_to_past {n : Nat} (h0 : w.s0.live = true) (h1 : w.s1.live = false) (hp : w.s0.parked = true)
    (hb : w.dstkSp = (w.getC 15).base) (hr : s.rcvAt key w w.s0.pc = (.ok (outer, nxt), t))
    (hk : t.kindDiffers (t.ctxOf (warpBlock key)) false w.s0.pc nxt = false) :
    s.resolve key who w (n + 2) = (.ok (some { w with s0 := w.s0.past outer nxt }), t) :=
  (State.resolve_unpark h0 h1 hp (State.asked_of_empty hb) noPath_none hr hk).trans (State.resolve_settled h0 h1 rfl hb)

/-- Slot 0 lives alone, and beside it the path on top, which is not parked if slot 0 is. -/
theorem State.resolve_to_popped {n : Nat} (h0 : w.s0.live = true) (h1 : w.s1.live = false)
    (hne : w.dstkSp ≠ (w.getC 15).base) (hr : s.stackRead who w (w.dstkSp - 32) = (.ok r, t))
    (hu : r.Usable w.lanes w.s0.mask) (hp : ¬(w.s0.parked = true ∧ r.flagP = true)) :
    s.resolve key who w (n + 2) = (.ok (some { w with dstkSp := w.dstkSp - 32, s1 := r.slot }), t) :=
  (State.resolve_pop h0 h1 (State.asked_of_read (Warp.asksTop_of_alone h1) hne hr) hu).trans
    (State.resolve_running h0 rfl hp)

/-- A slot of two that were parked apart has gone on: the warp runs. -/
theorem Warp.Apart.resolve_past {n k : Nat} (h : w.Apart) (hk : k < 2) :
    s.resolve key who (w.setSlot k ((w.slot k).past outer nxt)) (n + 1) =
      (.ok (some (w.setSlot k ((w.slot k).past outer nxt))), s) := by
  rcases slot_cases hk with rfl | rfl
  · exact State.resolve_running h.live0 h.live1 (by simp [Warp.setSlot, Slot.past])
  · exact State.resolve_running h.live0 h.live1 (by simp [Warp.setSlot, Slot.past])

/-- Merging with a record that was loaded beside a parked slot leaves slot 0 live. -/
theorem Warp.Apart.merged_live {k : Nat} (h : w.Apart) :
    ((w.setSlot k r.slot).merged outer nxt).s0.live = true := by
  by_cases hk : k = 0
  · simp [Warp.merged, Warp.setSlot, hk, Rec.slot]
  · simp [Warp.merged, Warp.setSlot, hk, h.live0]

/-- A slot has ended and the other slot lives: Resolve goes on with that one as slot 0. -/
theorem State.resolve_left {k : Nat} (hk : k < 2) (ho : (w.slot (1 - k)).live = true)
    {res : Except Failure (Option Warp) × State}
    (h : ∀ n, s.resolve key who { w with s0 := w.slot (1 - k), s1 := {} } (n + 14) = res) :
    s.resolve key who (w.setSlot k {}) resolveFuel = res := by
  rcases slot_cases hk with rfl | rfl
  · exact (State.resolve_shift (w := w.setSlot 0 {}) (n := 15) rfl ho).trans (h 1)
  · exact h 2

/-- A slot has ended beside an empty one. -/
theorem Warp.setSlot_dead {k : Nat} (hk : k < 2) (ho : (w.slot (1 - k)).live = false) :
    (w.setSlot k {}).s0.live = false ∧ (w.setSlot k {}).s1.live = false := by
  rcases slot_cases hk with rfl | rfl
  · exact ⟨rfl, ho⟩
  · exact ⟨ho, rfl⟩

end

end Sys2Proof.Machine
end

section
open Sys2Proof Sys2Proof.Machine

/-- Settles O4: BRV by its four outcomes; RCV and EXIT by the rounds that Resolve takes from the slots that they leave. -/
theorem divergentPathsSplitMergeAndEnd : Obligations.DivergentPathsSplitMergeAndEnd := by
  refine ⟨fun f s is h hk => ?brv, fun f s is h hk => ?rcv, fun f s is h hk hl => ?exit⟩
  case brv =>
    intro en k t n target rpc taken rest o both
    have point : brvPoint f is.pc = rpc := brvPoint_eq f is.pc
    have paths : en.takenPath f = taken ∧ en.fallPath f = rest := by
      constructor <;> simp only [Env.takenPath, Env.fallPath] <;> rw [show en.is.pc = is.pc from rfl, point] <;> rfl
    have put : ∀ x y, en.w.setBoth is.slot x y = both x y en.w.dstkSp := fun x y => Warp.setBoth_eq hk en.w x y
    refine ⟨exec_brv_falls h, exec_brv_jumps h, fun ht hn hs hf => ⟨State.nat_sides.1, State.nat_sides.2, fun ho => ?_,
      fun ho u => ?_⟩⟩
    · have := exec_brv_splits h ht hn hs hf ho
      rwa [paths.1, paths.2, put] at this
    · intro other hw
      have := exec_brv_pushes (u := u) h ht hn hs hf ho
      rw [paths.1, paths.2, point, put] at this
      exact this hw
  case rcv =>
    intro en parked o w
    have resolves : en.sl.rpc = is.pc → ∀ {u : Warp} {t : State},
        s.resolve is.warp en.who w resolveFuel = (.ok (some u), t) →
        exec (.rcv f) s = .next ((t.putWarp is.warp u).retired en.ctx) := fun hr _ _ hres =>
      (exec_rcv_parks h hr).trans (congrArg _ (Env.finish_resolved hres))
    have slots : (w.s0 = parked ∧ w.s1 = o) ∨ (w.s0 = o ∧ w.s1 = parked) := Warp.setSlot_slots hk en.w parked
    have both : ∀ p : Slot → Prop, p parked → p o → p w.s0 ∧ p w.s1 := fun p hx hy => by
      rcases slots with ⟨e0, e1⟩ | ⟨e0, e1⟩
      · exact ⟨e0 ▸ hx, e1 ▸ hy⟩
      · exact ⟨e0 ▸ hy, e1 ▸ hx⟩
    have live : parked.live = en.sl.live := Slot.issued_live _ _
    have pc : parked.pc = en.sl.pc := Slot.issued_pc _ _
    have mask : parked.mask = en.sl.mask := Slot.issued_mask _ _
    have isParked : parked.parked = true := rfl
    have sp : w.dstkSp = en.w.dstkSp := Warp.setSlot_dstkSp ..
    have c15 : w.getC 15 = en.w.getC 15 := Warp.getC_setSlot ..
    have lanes : w.lanes = en.w.lanes := Warp.setSlot_lanes ..
    refine ⟨exec_rcv_passes h, fun hr hl ho hp => ?runs, fun hr hl hpc ho hop hopc hb outer nxt t hrcv hkind => ?merges,
      fun hr hl hpc => ?_⟩
    case runs =>
      obtain ⟨h0, h1⟩ := both (·.live = true) (live.trans hl) ho
      refine resolves hr (State.resolve_running (n := 15) h0 h1 fun hpp => ?_)
      rcases slots with ⟨-, e⟩ | ⟨e, -⟩ <;> simp [e, hp] at hpp
    case merges =>
      obtain ⟨h0, h1⟩ := both (·.live = true) (live.trans hl) ho
      obtain ⟨hp0, hp1⟩ := both (·.parked = true) isParked hop
      obtain ⟨hpc0, hpc1⟩ := both (·.pc = is.pc) (pc.trans hpc) hopc
      have lanesOf : w.s0.mask ||| w.s1.mask = en.sl.mask ||| o.mask := by
        rcases slots with ⟨e0, e1⟩ | ⟨e0, e1⟩
        · rw [e0, e1, mask]
        · rw [e0, e1, mask, BitVec.or_comm]
      have := resolves hr (State.resolve_to_merged (n := 14) h0 h1 hp0 hp1 (hpc0.trans hpc1.symm)
        (by rw [sp, c15, hb]) (by rw [hpc0]; exact hrcv) (by rw [hpc0]; exact hkind))
      rwa [Warp.merged, lanesOf] at this
    intro sp0 empty usable loaded same
    refine ⟨fun ho => ?alone, fun ho hop hne => ?apart⟩
    case alone =>
      intro u
      obtain ⟨us0, us1, usp, uc15, ulanes, start⟩ : u.s0 = parked ∧ u.s1.live = false ∧ u.dstkSp = sp0 ∧
          u.getC 15 = en.w.getC 15 ∧ u.lanes = en.w.lanes ∧
          ∀ {res}, (∀ n, s.resolve is.warp en.who u (n + 14) = res) →
            s.resolve is.warp en.who w resolveFuel = res := by
        rcases slot_cases hk with hk0 | hk1
        · have hw0 : w.s0 = parked := by simp only [w, hk0]; rfl
          have hw1 : w.s1 = o := by simp only [w, o, hk0]; rfl
          have hu : u = w := if_pos hk0
          exact ⟨hu ▸ hw0, by rw [hu, hw1, ho], hu ▸ sp, hu ▸ c15, hu ▸ lanes, fun hres => hu ▸ hres 2⟩
        · have hw0 : w.s0 = o := by simp only [w, o, hk1]; rfl
          have hw1 : w.s1 = parked := by simp only [w, hk1]; rfl
          have hu : u = { w with s0 := parked, s1 := {} } := if_neg (by omega)
          have shift := State.resolve_shift (s := s) (key := is.warp) (who := en.who) (w := w) (n := 15)
            (by rw [hw0, ho]) (by rw [hw1, live, hl])
          rw [hw1, ← hu] at shift
          exact ⟨by rw [hu], by rw [hu], by rw [hu]; exact sp, by rw [hu]; exact c15, by rw [hu]; exact lanes,
            fun hres => shift.trans (hres 1)⟩
      have ulive : u.s0.live = true := by rw [us0, live, hl]
      have upc : u.s0.pc = is.pc := by rw [us0, pc, hpc]
      have upark : u.s0.parked = true := by rw [us0]
      refine ⟨fun hemp outer nxt t hrcv hkind => ?_, fun hemp r t hread => ?_⟩
      · have := resolves hr (start fun n => State.resolve_to_past (n := n + 12) ulive us1 upark
          (by rw [usp, uc15]; exact hemp) (by rw [upc]; exact hrcv) (by rw [upc]; exact hkind))
        rwa [us0] at this
      · have hne : u.dstkSp ≠ (u.getC 15).base := by rw [usp, uc15]; exact hemp
        have hrd : s.stackRead en.who u (u.dstkSp - 32) = (.ok r, t) := by rw [usp]; exact hread
        refine ⟨fun huse hflag => ?_, fun huse hflag hrpc hb outer nxt t1 hrcv hkind => ?_, fun hkd huse => ?_⟩
        · have := resolves hr (start fun n => State.resolve_to_popped (n := n + 12) ulive us1 hne hrd
            (by rw [ulanes, us0]; exact huse) (by simp [hflag]))
          rwa [usp] at this
        · have pop := fun n => State.resolve_pop (key := is.warp) (n := n + 13) ulive us1
            (State.asked_of_read (Warp.asksTop_of_alone us1) hne hrd) (by rw [ulanes, us0]; exact huse)
          have merge := fun n => State.resolve_to_merged (s := t) (key := is.warp) (who := en.who) (n := n + 11)
            (w := { u with dstkSp := u.dstkSp - 32, s1 := r.slot }) ulive rfl upark hflag (upc.trans hrpc.symm)
            (by change u.dstkSp - 32 = (u.getC 15).base; rw [usp, uc15]; exact hb)
            (by change t.rcvAt _ _ u.s0.pc = _; rw [upc, usp]; exact hrcv)
            (by change t1.kindDiffers _ _ u.s0.pc _ = _; rw [upc]; exact hkind)
          have := resolves hr (start fun n => (pop n).trans (merge n))
          rw [Warp.merged, us0, usp] at this
          exact this
        · refine (exec_rcv_parks h hr).trans (congrArg _ ?_)
          have := Env.finish_unresolved (en := en) (start fun n => State.resolve_pop_error (key := is.warp) (n := n + 13)
            ulive us1 (State.asked_of_read (Warp.asksTop_of_alone us1) hne hrd) hkd
            (by rw [ulanes, us0]; exact huse))
          rwa [usp] at this
    case apart =>
      intro k x goes
      have apart : w.Apart := by
        obtain ⟨h0, h1⟩ := both (·.live = true) (live.trans hl) ho
        obtain ⟨hp0, hp1⟩ := both (·.parked = true) isParked hop
        refine ⟨h0, h1, hp0, hp1, fun heq => hne ?_⟩
        rcases slots with ⟨e0, e1⟩ | ⟨e0, e1⟩ <;> rw [e0, e1, pc, hpc] at heq
        · exact heq.symm
        · exact heq
      have hk2 : k < 2 := by simp only [k]; split <;> decide
      have lesser : ∀ {top : Option Rec} {s' : State}, s.asked en.who w = (.ok top, s') →
          (∀ r, top = some r → ¬w.Partner r) → goes s' := fun ha ht outer nxt t1 hrcv hkind =>
        resolves hr ((State.resolve_lesser (n := 15) apart ha ht rfl hrcv hkind).trans (apart.resolve_past hk2))
      refine ⟨fun hemp => lesser (State.asked_of_empty (by rw [sp, c15]; exact hemp)) (fun _ hx => nomatch hx),
        fun hemp r t hread => ?_⟩
      have asked : s.asked en.who w = (.ok (some r), t) :=
        State.asked_of_read apart.asksTop (by rw [sp, c15]; exact hemp) (by rw [sp]; exact hread)
      refine ⟨fun hn => lesser asked fun x hx hpartner => ?_, fun hflag hat => ?_⟩
      · cases hx
        obtain ⟨hk0, hf, hp⟩ := hpartner
        rcases hn with hn | hn | ⟨hn0, hn1⟩
        · exact hn hk0
        · exact nomatch hf.symm.trans hn
        · exact hp.elim hn0 hn1
      · intro j out v m huse hm0 hml hmm l t1 outer nxt t2 hchecks hrcv hkind
        have outParked : out.parked = true := by
          simp only [out, j]
          split
          · exact apart.parked1
          · exact apart.parked0
        have outPath : out.path = { pc := out.pc, mask := out.mask, rpc := out.rpc, flagP := true } := by
          rw [Slot.path, outParked]
        have exchange := State.resolve_exchange (n := 15) apart asked ⟨huse.1, hflag, hat⟩ (j := j) rfl
          (by rw [lanes]; exact huse) (by rw [sp]; exact outPath ▸ hchecks) hrcv hkind
          (by rw [lanes]; exact ⟨rfl, hm0, hml, rfl, rfl, rfl, hmm⟩)
        have := resolves hr (exchange.trans (State.resolve_running (n := 14) apart.merged_live rfl
          fun hpp => nomatch hpp.1))
        change exec _ _ = .next (State.retired (State.putWarp _ _ { v.merged outer nxt with
          dstkSp := w.dstkSp - 32, s1 := out.path.slot }) _) at this
        rw [outPath, sp] at this
        exact this
  case exit =>
    intro en m left w
    have goesOn : m ≠ 0 → en.leftSlot = left := fun hm => if_neg hm
    have gone : m = 0 → en.leftSlot = {} := fun hm => if_pos hm
    refine ⟨fun hm hs hrest => ?_, fun hm hb ho => ?_, fun hm => ?_⟩
    · refine (exec_exit_resolves h fun _ => hs).trans (congrArg _ (Env.finish_resolved ?_))
      rw [goesOn hm]
      exact State.resolve_of_rests (n := 15) hrest
    · have dead := Warp.setSlot_dead (w := w) hk ho
      refine (exec_exit_resolves h fun hne => absurd hm hne).trans (congrArg _ ?_)
      rw [gone hm]
      exact Env.finish_ended (State.resolve_ends (n := 15) dead.1 dead.2
        (State.asked_of_empty (by rw [Warp.setSlot_dstkSp, Warp.getC_setSlot]; exact hb)) noPath_none)
    intro o sp empty usable loaded ends
    have exits : ∀ {u : Warp} {t : State},
        s.resolve is.warp en.who (w.setSlot is.slot {}) resolveFuel = (.ok (some u), t) → ends t u := fun hres => by
      refine (exec_exit_resolves h fun hne => absurd hm hne).trans (congrArg _ (Env.finish_resolved ?_))
      rw [gone hm]
      exact hres
    refine ⟨fun ho => ?other, fun ho hne => ?none⟩
    case other =>
      intro u
      have start : ∀ {res}, (∀ n, s.resolve is.warp en.who u (n + 14) = res) →
          s.resolve is.warp en.who (w.setSlot is.slot {}) resolveFuel = res :=
        fun hres => State.resolve_left (w := w) hk ho hres
      refine ⟨fun hemp hp => ?_, fun hemp hp outer nxt t hrcv hkind => ?_, fun hne r t hread => ?_⟩
      · exact exits (start fun n => State.resolve_settled (n := n + 13) ho rfl hp hemp)
      · exact exits (start fun n => State.resolve_to_past (n := n + 12) ho rfl hp hemp hrcv hkind)
      · refine ⟨fun huse hdis hpp => ?_, fun hkd hp => ?_⟩
        · obtain ⟨hk0, hm0, hml, hr, h1, h2⟩ := huse
          exact exits (start fun n => State.resolve_to_popped (n := n + 12) ho rfl hne hread
            ⟨hk0, hm0, hml, hr, h1, h2, hdis⟩ hpp)
        · exact exits (start fun n => State.resolve_alone (n := n + 13) ho rfl hp
            (State.asked_of_read (Warp.asksTop_of_alone rfl) hne hread) (noPath_some hkd))
    case none =>
      intro u r t hread
      have dead : u.s0.live = false ∧ u.s1.live = false := Warp.setSlot_dead (w := w) hk ho
      have usp : u.dstkSp = sp := Warp.setSlot_dstkSp ..
      have uc15 : u.getC 15 = en.w.getC 15 := Warp.getC_setSlot ..
      have ulanes : u.lanes = w.lanes := Warp.setSlot_lanes ..
      have asked : s.asked en.who u = (.ok (some r), t) :=
        State.asked_of_read (Warp.asksTop_of_alone dead.2) (by rw [usp, uc15]; exact hne) (by rw [usp]; exact hread)
      refine ⟨fun huse hflag hb => ?_, fun hkd => ?_⟩
      · obtain ⟨hk0, hm0, hml, hr, h1, h2⟩ := huse
        have pop := State.resolve_popAlone (key := is.warp) (n := 15) dead.1 dead.2 asked
          (by rw [ulanes]; exact ⟨hk0, hm0, hml, hr, h1, h2, BitVec.and_zero⟩)
        have := exits (pop.trans (State.resolve_settled (n := 14) rfl dead.2 hflag
          (by change u.dstkSp - 32 = (u.getC 15).base; rw [usp, uc15]; exact hb)))
        rw [usp] at this
        exact this
      · refine (exec_exit_resolves h fun hn => absurd hm hn).trans (congrArg _ ?_)
        rw [gone hm]
        exact Env.finish_ended (State.resolve_ends (n := 15) dead.1 dead.2 asked (noPath_some hkd))
end

section
/-! DPSH, DPOP and RTT (R19, R130, R131, R135). -/
namespace Sys2Proof.Machine

/-! ### A trap that an instruction takes -/

section
variable {f : Fields} {s : State} {is : Issue} (h : (s.nat is f).Acts)
include h

/-- A native instruction whose body fails raises its trap on its effective mask. -/
theorem native_failIn {body : Env → Res} {t : State} {x : Failure}
    (hb : body (s.nat is f) = (s.nat is f).failIn t x) :
    native f s body = .next ((s.nat is f).raise t { cause := x.1, addr := x.2, lanes := (s.nat is f).e }) := by
  rw [native_eq h, hb]
  rfl

/-- A native instruction that places the slots by Resolve, and whose warp comes to rest. -/
theorem native_resolved {body : Env → Res} {t : State} {w : Warp}
    (hb : body (s.nat is f) = (s.nat is f).resolved w t) (hr : w.Rests) :
    native f s body = .next ((t.putWarp is.warp w).retired (s.nat is f).ctx) := by
  rw [native_eq h, hb]
  exact congrArg _ (Env.finish_resolved (State.resolve_of_rests (n := 15) hr))

end

/-! ### Records -/

theorem State.topRecord_of_empty {s : State} {who : Who} {w : Warp} (h : w.dstkSp = (w.getC 15).base) :
    s.topRecord who w = (.ok none, s) := if_pos h

theorem State.topRecord_of_read {s t : State} {who : Who} {w : Warp} {r : Rec} (h : w.dstkSp ≠ (w.getC 15).base)
    (hr : s.stackRead who w (w.dstkSp - 32) = (.ok r, t)) : s.topRecord who w = (.ok (some r), t) := by
  simp only [State.topRecord, if_neg h, hr]

/-- The slot that a record of a trap entry gives back: its lanes that have not exited, or none (R19). -/
def Rec.restored (r : Rec) (lanes : Word) : Slot :=
  if r.flagL ∧ r.mask &&& lanes ≠ 0 then { r.slot with mask := r.mask &&& lanes } else {}

/-- A slot record of a trap entry. -/
def Rec.SlotOk (r : Rec) : Prop := r.kind = 1 ∧ r.rsvd = 0 ∧ r.auxLo = 0 ∧ r.auxHi = 0

section
variable {s s1 s2 t : State} {who : Who} {w : Warp} {head r0 r1 : Rec}

theorem State.trapReturn_of_empty (h : w.dstkSp = (w.getC 15).base) :
    s.trapReturn who w = (.error (0x05, w.dstkSp), s) := if_pos h

variable (hne : w.dstkSp ≠ (w.getC 15).base) (hh : s.stackRead who w (w.dstkSp - 32) = (.ok head, s1))
include hne hh

/-- The record on top is no head of a trap entry. -/
theorem State.trapReturn_of_other (hk : head.kind ≠ 2) :
    s.trapReturn who w = (.error (0x05, w.dstkSp - 32), s1) := by
  simp only [State.trapReturn, if_neg hne, hh]
  exact if_pos (.inl hk)

/-- The entry on top is a trap entry. -/
theorem State.trapReturn_of_entry (h0 : s1.stackRead who w (w.dstkSp - 64) = (.ok r0, s2))
    (h1 : s2.stackRead who w (w.dstkSp - 96) = (.ok r1, t))
    (hk : head.kind = 2) (hr : head.rsvd = 0) (ha : head.auxHi = 0) (hr0 : r0.SlotOk) (hr1 : r1.SlotOk)
    (hfr : (r0.restored w.lanes).live = true → (r1.restored w.lanes).live = true →
      t.codeKind who.ctx (r0.restored w.lanes).pc ≠ some true ∧ t.codeKind who.ctx (r1.restored w.lanes).pc ≠ some true) :
    s.trapReturn who w = (.ok { w with
      s0 := r0.restored w.lanes, s1 := r1.restored w.lanes, dstkSp := w.dstkSp - 96 }, t) := by
  have ok0 : decide (r0.kind = 1 ∧ r0.rsvd = 0 ∧ r0.auxLo = 0 ∧ r0.auxHi = 0) = true := decide_eq_true hr0
  have ok1 : decide (r1.kind = 1 ∧ r1.rsvd = 0 ∧ r1.auxLo = 0 ∧ r1.auxHi = 0) = true := decide_eq_true hr1
  have head : ¬(head.kind ≠ 2 ∨ head.rsvd ≠ 0 ∨ head.auxHi ≠ 0) := by simp [hk, hr, ha]
  have native : ((r0.restored w.lanes).live && (r1.restored w.lanes).live &&
      (decide (t.codeKind who.ctx (r0.restored w.lanes).pc = some true) ||
        decide (t.codeKind who.ctx (r1.restored w.lanes).pc = some true))) = false := by
    cases hl0 : (r0.restored w.lanes).live <;> cases hl1 : (r1.restored w.lanes).live <;> simp [hl0, hl1] at hfr ⊢
    exact hfr
  simp only [State.trapReturn, if_neg hne, hh, if_neg head, h0, h1, ok0, ok1, Bool.not_true, Bool.false_eq_true,
    if_false]
  exact if_neg (by rw [Bool.not_eq_true]; exact native)

end

/-! ### The instructions -/

section
variable {f : Fields} {s t : State} {is : Issue} (h : (s.nat is f).Acts)

theorem exec_dpsh (hs : (s.nat is f).Stays (s.nat is f).fall) (h : (s.nat is f).Acts)
    (hw : s.stackWrite (s.nat is f).who (s.nat is f).w (s.nat is f).w.dstkSp
      [{ pc := (s.nat is f).sA f, mask := (s.nat is f).sB f, rpc := (s.nat is f).sC f, kind := 3 }] = (.ok (), t)) :
    exec (.dpsh f) s = .next ((s.nat is f).goesOn
      (t.putWarp is.warp { (s.nat is f).w with dstkSp := (s.nat is f).w.dstkSp + 32 })) := by
  refine native_next ⟨h, hs⟩ ?_
  simp only [State.nat_s, hw]
  rfl

include h

/-- DPOP on an empty stack. -/
theorem exec_dpop_empty (hb : (s.nat is f).w.dstkSp = ((s.nat is f).w.getC 15).base) :
    exec (.dpop f) s = .next ((s.nat is f).raise s
      { cause := 0x05, addr := (s.nat is f).w.dstkSp, lanes := (s.nat is f).e }) := by
  refine native_failIn h (x := (0x05, (s.nat is f).w.dstkSp)) ?_
  simp only [State.nat_s, State.topRecord_of_empty hb]

section
variable {r : Rec} (hne : (s.nat is f).w.dstkSp ≠ ((s.nat is f).w.getC 15).base)
  (hr : s.stackRead (s.nat is f).who (s.nat is f).w ((s.nat is f).w.dstkSp - 32) = (.ok r, t))
include hne hr

/-- DPOP of a record that is no software record. -/
theorem exec_dpop_other (hk : r.kind ≠ 3) :
    exec (.dpop f) s = .next ((s.nat is f).raise t
      { cause := 0x05, addr := (s.nat is f).w.dstkSp - 32, lanes := (s.nat is f).e }) := by
  refine native_failIn h (x := (0x05, (s.nat is f).w.dstkSp - 32)) ?_
  simp only [State.nat_s, State.topRecord_of_read hne hr]
  exact if_pos (.inl hk)

/-- The warp that DPOP leaves. -/
def Env.popped (en : Env) (f : Fields) (r : Rec) : Warp :=
  ((({ en.w with dstkSp := en.w.dstkSp - 32 }.setS f.d.toNat r.pc).setS f.a.toNat r.mask).setS f.b.toNat
    r.rpc).setSlot en.k { en.sl.issued en.is with pc := en.fall, wait := none }

theorem exec_dpop (hk : r = { pc := r.pc, mask := r.mask, rpc := r.rpc, kind := 3 })
    (hs : t.kindDiffers (s.nat is f).ctx is.fr is.pc (s.nat is f).fall = false)
    (hrest : ((s.nat is f).popped f r).Rests) :
    exec (.dpop f) s = .next ((t.putWarp is.warp ((s.nat is f).popped f r)).retired (s.nat is f).ctx) := by
  refine native_resolved h ?_ hrest
  simp only [State.nat_s, State.nat_is, State.topRecord_of_read hne hr, hs, Bool.false_eq_true, if_false]
  exact if_neg (by rw [hk]; simp)

end

/-- RTT while both slots live. -/
theorem exec_rtt_both (hl : (s.nat is f).w.s0.live = true ∧ (s.nat is f).w.s1.live = true) :
    exec (.rtt f) s = .next ((s.nat is f).raise s
      { cause := 0x05, addr := (s.nat is f).w.dstkSp, lanes := (s.nat is f).e }) := by
  refine native_failIn h (x := (0x05, (s.nat is f).w.dstkSp)) ?_
  simp only [hl.1, hl.2, Bool.and_self, if_true]
  rfl

section
variable (hl : ¬((s.nat is f).w.s0.live = true ∧ (s.nat is f).w.s1.live = true))
include hl

theorem exec_rtt_fails {x : Failure} (hx : s.trapReturn (s.nat is f).who (s.nat is f).w = (.error x, t)) :
    exec (.rtt f) s = .next ((s.nat is f).raise t { cause := x.1, addr := x.2, lanes := (s.nat is f).e }) := by
  refine native_failIn h ?_
  rw [← Bool.and_eq_true] at hl
  simp only [State.nat_s, if_neg hl, hx]

theorem exec_rtt {u : Warp} (hx : s.trapReturn (s.nat is f).who (s.nat is f).w = (.ok u, t)) (hrest : u.Rests) :
    exec (.rtt f) s = .next ((t.putWarp is.warp u).retired (s.nat is f).ctx) := by
  refine native_resolved h ?_ hrest
  rw [← Bool.and_eq_true] at hl
  simp only [State.nat_s, if_neg hl, hx]

end
end

end Sys2Proof.Machine
end

section
open Sys2Proof Sys2Proof.Machine

/-- Settles O6: DPSH and DPOP by the record that they push and read, RTT by what `State.trapReturn` makes of the entry. -/
theorem recordsArePushedPoppedAndRestored : Obligations.RecordsArePushedPoppedAndRestored := by
  refine ⟨fun f s t is r h => ⟨exec_dpsh h.2 h.1, fun hne hr hk hs hrest => exec_dpop h.1 hne hr hk hs hrest,
    fun hb => exec_dpop_empty h.1 hb, fun hne hr hk => exec_dpop_other h.1 hne hr hk⟩,
    fun f s s1 s2 t is head r0 r1 h => ?rtt⟩
  intro en w sp restored u slotOk
  refine ⟨fun hx => ?format, fun hl hne hh => ⟨fun hk => ?head, fun h0 h1 hk hr ha hr0 hr1 hrest hfr => ?entry⟩⟩
  case format =>
    by_cases hl : w.s0.live = true ∧ w.s1.live = true
    · exact exec_rtt_both h hl
    · have fails := exec_rtt_fails h hl (State.trapReturn_of_empty (hx.resolve_left hl))
      exact fails
  case head =>
    have fails := exec_rtt_fails h hl (State.trapReturn_of_other hne hh hk)
    exact fails
  case entry =>
    have ctx : en.who.ctx = en.ctx := rfl
    have same : ∀ r, restored r = r.restored w.lanes := fun _ => rfl
    have back : s.trapReturn en.who w = (.ok u, t) := by
      simp only [u, same] at hfr ⊢
      exact State.trapReturn_of_entry hne hh h0 h1 hk hr ha hr0 hr1 fun _ hl1 => ctx ▸ hfr hl1
    exact exec_rtt h hl back hrest
end

section
/-! The memory system as the rest of the machine sees it: an access changes nothing outside it, and keeps the canonical
form of memory (R256, R257). -/
namespace Sys2Proof.Machine

/-! ### What lies outside the memory system -/

/-- The machine without what an access of memory can change: memory and its copies, owners and seals, the registers of
the error ring, the error counts, and the count of choices. -/
def State.outer (s : State) : State := { s with mem := {}, prot := {}, arn := {}, health := {}, free := 0 }

section
variable (s : State)

@[simp] theorem State.outer_mem (m : MemSys) : { s with mem := m }.outer = s.outer := rfl
@[simp] theorem State.outer_prot (p : Protect) : { s with prot := p }.outer = s.outer := rfl
@[simp] theorem State.outer_arn (a : Arnal) : { s with arn := a }.outer = s.outer := rfl
@[simp] theorem State.outer_health (h : Health) : { s with health := h }.outer = s.outer := rfl
@[simp] theorem State.outer_free (n : Nat) : { s with free := n }.outer = s.outer := rfl
@[simp] theorem State.outer_mem_prot (m : MemSys) (p : Protect) : { s with mem := m, prot := p }.outer = s.outer := rfl

end

/-- States that agree outside the memory system have the same contexts and the same blocks. -/
theorem State.ctxs_of_outer {s t : State} (h : t.outer = s.outer) : t.ctxs = s.ctxs :=
  (congrArg State.ctxs h :)
theorem State.blocks_of_outer {s t : State} (h : t.outer = s.outer) : t.blocks = s.blocks :=
  (congrArg State.blocks h :)

/-- A fold of steps that each keep a reading keeps it. -/
theorem foldl_keeps {α β γ : Type} {g : β → γ} {f : β → α → β} (hf : ∀ t x, g (f t x) = g t) (s : β) (l : List α) :
    g (l.foldl f s) = g s :=
  List.foldlRecOn (motive := fun t => g t = g s) l f rfl fun t h x _ => (hf t x).trans h

section
variable (s : State)

@[simp] theorem State.outer_put (a : Nat) (l : List Byte) : (s.put a l).outer = s.outer := by
  unfold State.put
  split <;> rfl

@[simp] theorem State.outer_putRegion (a : Nat) (l : List Byte) : (s.putRegion a l).outer = s.outer := rfl
@[simp] theorem State.outer_putOwner (f : Nat) (o : Owner) : (s.putOwner f o).outer = s.outer := rfl
@[simp] theorem State.outer_cleanLines (a n : Nat) : (s.cleanLines a n).outer = s.outer := rfl
@[simp] theorem State.outer_breakLine (u : Nat) : (s.breakLine u).outer = s.outer := rfl
@[simp] theorem State.outer_dropCopies (f : Nat) : (s.dropCopies f).outer = s.outer := rfl
@[simp] theorem State.outer_putSectors (id : Nat) (l : List Sector) : (s.putSectors id l).outer = s.outer := rfl
@[simp] theorem State.outer_putSector (id : Nat) (x : Sector) : (s.putSector id x).outer = s.outer := rfl
@[simp] theorem State.outer_choose : s.choose.2.outer = s.outer := rfl
@[simp] theorem State.outer_freeWord : s.freeWord.2.outer = s.outer := rfl

@[simp] theorem State.outer_spoil (sec : Nat) (bad : Bool) : (s.spoil sec bad).outer = s.outer := by
  cases bad <;> rfl

@[simp] theorem State.outer_zeroLines (a n : Nat) : (s.zeroLines a n).outer = s.outer :=
  foldl_keeps (fun t e => t.outer_spoil e.1 e.2) _ _

@[simp] theorem State.outer_claim (f h c : Nat) : (s.claim f h c).outer = s.outer := by
  unfold State.claim
  have h : ((s.dropCopies f).zeroLines (65536 * f) 65536).outer = s.outer :=
    (State.outer_zeroLines ..).trans (s.outer_dropCopies f)
  rw [State.outer_prot, State.outer_putOwner, h]

@[simp] theorem State.outer_trimL2 : s.trimL2.outer = s.outer := by
  have drop : ∀ (t : State) (l : List Nat), (l.foldl (fun s u => s.cleanLines (128 * u) 128) t).outer = t.outer :=
    foldl_keeps fun t u => t.outer_cleanLines _ _
  unfold State.trimL2
  exact (foldl_keeps (fun t _ => drop t _) _ _).trans (drop s _)

@[simp] theorem State.outer_putHome (a : Nat) (l : List Byte) : (s.putHome a l).outer = s.outer := by
  unfold State.putHome
  split
  · rfl
  · rw [State.outer_trimL2, State.outer_put]

@[simp] theorem State.outer_ringWrite (a : Nat) (l : List Byte) : (s.ringWrite a l).outer = s.outer :=
  (State.outer_putHome _ _ _).trans (foldl_keeps State.outer_breakLine s _)

@[simp] theorem State.outer_errorRecord (cls code ctx : Nat) (p : Option (Nat × BitVec 32 × BitVec 32)) (d0 d1 : Word) :
    (s.errorRecord cls code ctx p d0 d1).outer = s.outer := by
  unfold State.errorRecord
  dsimp only
  split
  · rfl
  · generalize hr : s.ringWrite _ _ = r
    have h : r.outer = s.outer := hr ▸ State.outer_ringWrite ..
    exact h

@[simp] theorem State.outer_memError (a : Nat) (e : Bool) : (s.memError a e).outer = s.outer := by
  unfold State.memError
  exact (State.outer_errorRecord ..).trans (s.outer_health _)

@[simp] theorem State.outer_sealError (a h : Nat) (e : Bool) : (s.sealError a h e).outer = s.outer := by
  unfold State.sealError
  rw [State.outer_memError, State.outer_errorRecord]

@[simp] theorem State.outer_openLine (u : Nat) : (s.openLine u).outer = s.outer := by
  unfold State.openLine
  split
  · rfl
  · rw [State.outer_breakLine, State.outer_sealError]

@[simp] theorem State.outer_physWrite (a : Nat) (l : List Byte) : (s.physWrite a l).outer = s.outer := by
  unfold State.physWrite
  split
  · rfl
  · exact (State.outer_putHome _ _ _).trans (foldl_keeps State.outer_openLine s _)

/-! ### Translation -/

@[simp] theorem State.outer_makeRoom {α : Type} (l : List α) (n : Nat) : (s.makeRoom l n).2.outer = s.outer := by
  unfold State.makeRoom
  split <;> rfl

@[simp] theorem State.outer_fillTlb (id cap : Nat) (t : TlbEntry) (va : Nat) :
  (s.fillTlb id cap t va).outer = s.outer :=
  State.outer_makeRoom ..

@[simp] theorem State.outer_fillTlbs (c : Option Nat) (asid : BitVec 16) (va : Nat) (w : Walk) :
    (s.fillTlbs c asid va w).outer = s.outer := by
  cases w with
  | leaf pte sh => exact foldl_keeps (fun t x => t.outer_fillTlb ..) s _
  | miss => rfl
  | bad pa => rfl

@[simp] theorem State.outer_findLeaf (c : Option Nat) (asid : BitVec 16) (root va : Nat) :
    (s.findLeaf c asid root va).2.outer = s.outer := by
  grind [State.findLeaf, State.outer_fillTlbs, State.outer_choose]

@[simp] theorem State.outer_ownerCheck (ctx pte pa : Nat) : (s.ownerCheck ctx pte pa).2.outer = s.outer := by
  grind [State.ownerCheck, State.outer_claim]

@[simp] theorem State.outer_translate (c : Option Nat) (ctx : Nat) (va : Word) (need : Need) (acc : Nat) :
    (s.translate c ctx va need acc).2.outer = s.outer := by
  grind [State.translate, State.outer_findLeaf, State.outer_memError, State.outer_ownerCheck]

@[simp] theorem State.outer_noteUnreadable (pte : Word) (pa n : Nat) (e : Bool) :
    (s.noteUnreadable pte pa n e).outer = s.outer := by
  grind [State.noteUnreadable, State.outer_memError, State.outer_sealError]

/-! ### The L1 -/

@[simp] theorem State.outer_writeHome (x : Sector) : (s.writeHome x).outer = s.outer := by
  grind [State.writeHome, State.outer_physWrite, State.outer_mem]

@[simp] theorem State.outer_writeBack (id : Nat) (x : Sector) : (s.writeBack id x).outer = s.outer := by
  grind [State.writeBack, State.outer_writeHome, State.outer_putSector]

@[simp] theorem State.outer_evictWhere (id : Nat) (p : Sector → Bool) : (s.evictWhere id p).outer = s.outer :=
  foldl_keeps State.outer_writeHome s _

@[simp] theorem State.outer_cleanWhere (id : Nat) (p : Sector → Bool) : (s.cleanWhere id p).outer = s.outer :=
  foldl_keeps State.outer_writeHome s _

/-- One copy that may settle. -/
theorem State.outer_settleOne (id pa : Nat) (x : Sector) :
    (if x.pa = pa && s.differs x then
      let (c, s) := s.choose
      if c then s.writeBack id x else s
    else s).outer = s.outer := by
  grind [State.outer_writeBack, State.outer_choose]

@[simp] theorem State.outer_settle (u : Nat) : (s.settle u).outer = s.outer :=
  foldl_keeps (fun t id => foldl_keeps (fun r x => r.outer_settleOne id u x) t _) s _

@[simp] theorem State.outer_l1Room (id : Nat) (asid : BitVec 16) (line : Nat) :
  (s.l1Room id asid line).outer = s.outer := by
  grind [State.l1Room, State.outer_freeWord, State.outer_evictWhere]

@[simp] theorem State.outer_fillSector (w : Who) (va : Word) (pa : Nat) (pte : Word) (r : Bool) :
    (s.fillSector w va pa pte r).2.outer = s.outer := by
  unfold State.fillSector
  rw [State.outer_putSector, State.outer_l1Room, State.outer_settle]

@[simp] theorem State.outer_refresh (id : Nat) (x : Sector) : (s.refresh id x).2.outer = s.outer := by
  grind [State.refresh, State.outer_choose, State.outer_putSector]

@[simp] theorem State.outer_l1Check (w : Who) (va : Word) (n : Nat) (wr : Bool) :
    (s.l1Check w va n wr).2.outer = s.outer := by
  grind [State.l1Check, State.outer_translate, State.outer_noteUnreadable]

@[simp] theorem State.outer_l1Load (w : Who) (va : Word) (n : Nat) (m : Option (Nat × Word)) :
    (s.l1Load w va n m).2.outer = s.outer := by
  grind [State.l1Load, State.outer_writeBack, State.outer_refresh, State.outer_fillSector]

@[simp] theorem State.outer_dirtySector (w : Who) (x : Sector) (o : Nat) (l : List Byte) :
    (s.dirtySector w x o l).outer = s.outer := rfl

@[simp] theorem State.outer_l1Store (w : Who) (va : Word) (l : List Byte) (m : Option (Nat × Word)) :
    (s.l1Store w va l m).outer = s.outer := by
  grind [State.l1Store, State.outer_writeBack, State.outer_fillSector, State.outer_dirtySector]

/-! ### The divergence stack -/

@[simp] theorem State.outer_stackCheck (w : Who) (wp : Warp) (a : Word) (wr : Bool) :
    (s.stackCheck w wp a wr).2.outer = s.outer := by
  grind [State.stackCheck, State.outer_l1Check]

@[simp] theorem State.outer_stackRead (w : Who) (wp : Warp) (a : Word) : (s.stackRead w wp a).2.outer = s.outer := by
  grind [State.stackRead, State.outer_stackCheck, State.outer_l1Load]

@[simp] theorem State.outer_stackStore (w : Who) (l : List (Word × Rec × Option (Nat × Word))) :
    (s.stackStore w l).outer = s.outer :=
  foldl_keeps (fun t _ => t.outer_l1Store ..) s l

end

@[simp] theorem State.outer_stackChecks (w : Who) (wp : Warp) : ∀ (l : List Rec) (s : State) (a : Word),
    (s.stackChecks w wp a l).2.outer = s.outer
  | [], _, _ => rfl
  | _ :: rest, s, a => by
    have ih := State.outer_stackChecks w wp rest
    grind [State.stackChecks, State.outer_stackCheck]

@[simp] theorem State.outer_stackWrite (s : State) (w : Who) (wp : Warp) (a : Word) (l : List Rec) :
    (s.stackWrite w wp a l).2.outer = s.outer := by
  grind [State.stackWrite, State.outer_stackChecks, State.outer_stackStore]

@[simp] theorem State.outer_markEntry (s : State) (key : Nat) (w : Warp) : (s.markEntry key w).outer = s.outer := by
  grind [State.markEntry, State.outer_stackRead, State.outer_stackWrite]

end Sys2Proof.Machine
end

section
/-! Traps and breakpoint halts (R18, R87, R107, R133, R134, R329). -/
namespace Sys2Proof.Machine

/-! ### Taking a trap -/

/-- A slot that waits on nothing has nothing to finish. -/
theorem State.finishSlot_of_idle {s : State} {key k : Nat} {w : Warp} (hw : mapFind s.warps key = some w)
    (h : (w.slot k).wait = none) : s.finishSlot key k = s := by
  simp only [State.finishSlot, hw, Option.getD_some, h]

/-- The entry that a trap pushes is written: the warp enters its handler. -/
theorem State.takeTrap_enters {s t : State} {key k : Nat} {w : Warp} {pc : Word} {x : Trap}
    (hw : mapFind s.warps key = some w) (hv : w.trapVec ≠ 0) (hi : (w.slot (1 - k)).wait = none)
    (hs : s.stackWrite (s.who key k) w w.dstkSp
      (trapEntry w k pc x false ((mapFind s.ctxs (s.ctxOf (warpBlock key))).any fun c => c.halted)) = (.ok (), t)) :
    s.takeTrap key k pc x false false = (t.withdraw key true).putWarp key (w.enterTrap pc x) := by
  simp only [State.takeTrap, State.finishSlot_of_idle hw hi, hw, if_neg hv, Bool.false_or, hs]

section
variable {en : Env} {s : State} {x : Trap} (hp : en.is.paired = false)
include hp

/-- An exception that names its lanes, of an instruction that does not complete. -/
theorem Env.raise_of_fault (hx : x.lanes ≠ 0) (hc : x.completes = false) :
    en.raise s x = s.takeTrap en.key en.k en.is.pc x false false := by
  simp only [Env.raise, if_neg hx, hc, hp, Bool.false_eq_true, if_false]

/-- An exception of an instruction that completes first. -/
theorem Env.raise_of_complete (hx : x.lanes ≠ 0) (hc : x.completes = true) :
    en.raise s x = (en.goesOn s).takeTrap en.key en.k en.is.pc x false false := by
  simp only [Env.raise, if_neg hx, hc, hp, Bool.false_eq_true, if_false, if_true]
  rfl

end

/-- The issuing warp after its instruction has completed. -/
def Env.wentOn (en : Env) : Warp := en.w.setSlot en.k { en.sl.issued en.is with pc := en.fall, wait := none }

/-- The warp that goes on, in the state in which it does. -/
theorem State.find_goesOn {f : Fields} {s : State} {is : Issue} (h : mapFind s.warps is.warp = some (s.nat is f).w) :
    mapFind ((s.nat is f).goesOn s).warps is.warp = some (s.nat is f).wentOn := by
  simp only [Env.goesOn, Env.goesTo, State.retired_warps, State.modWarp_warps, State.nat_key, mapFind_modify,
    if_true, h,
    Option.map_some]
  rfl

/-! ### A halt at a breakpoint -/

/-- Marking the entries of the warps of a halted context leaves its record in the table of contexts. -/
theorem State.startHalt_ctxs {s : State} {key : Nat} {pc : Word} {b : Block}
    (hb : mapFind s.blocks (warpBlock key) = some b)
    {c : Context} (hc : mapFind s.ctxs b.ctx = some c) :
    ∃ p : Preempt, mapFind (s.startHalt key pc).ctxs b.ctx = some { c with halted := true, preempt := some p } ∧
      p.level = 2 ∧ key ∈ p.halts := by
  have marks : ∀ (l : Map Warp) (r : State), (l.foldl (fun s e => s.markEntry e.1 e.2) r).outer = r.outer :=
    fun l r => foldl_keeps (fun t e => t.outer_markEntry e.1 e.2) r l
  simp only [State.startHalt, hb, State.modCtx_ctxs, mapFind_modify, if_true]
  rw [State.ctxs_of_outer ((marks _ _).trans (State.outer_errorRecord ..)), hc]
  exact ⟨_, rfl, rfl, by simp⟩

/-- A context armed for debugging halts the warp that issues a BKPT (R134, R329). -/
theorem exec_bkpt_armed {f : Fields} {s : State} {is : Issue} {c : Context} (h : (s.nat is f).Runs)
    (hp : is.paired = false) (hc : mapFind s.ctxs (s.nat is f).ctx = some c) (ha : c.bkpt = true) :
    exec (.bkpt f) s = .next (((s.nat is f).goesOn s).startHalt is.warp is.pc) := by
  have hd : s.kindDiffers (s.nat is f).ctx is.fr is.pc (s.nat is f).fall = false := h.2
  have hb : execBkpt f s = .next ((s.nat is f).finish (.halt s)) := by
    unfold execBkpt
    rw [native_eq h.1]
    simp only [State.nat_s, hc, ha, if_true]
  refine hb.trans (congrArg _ ?_)
  simp only [Env.finish, State.nat_s, State.nat_is, hd, hp, Bool.false_eq_true, if_false, Env.leave_of_stays _ _ _ h.2]
  rfl

/-! ### TRAP, BKPT and the events of the decoder -/

section
variable {f : Fields} {s t : State} {is : Issue} (h : (s.nat is f).Acts) (hp : is.paired = false)
include h hp

/-- TRAP completes, and then its trap is taken (R133). -/
theorem exec_trap : exec (.trap f) s = .next (((s.nat is f).goesOn s).takeTrap is.warp is.slot is.pc
    { cause := 0x8000#16 ||| f.w2.extractLsb' 0 16, lanes := (s.nat is f).e, completes := true } false false) :=
  (native_eq h).trans (congrArg _ (Env.raise_of_complete hp h.2 rfl))

/-- BKPT of a context that is not armed completes, and then its trap is taken (R134). -/
theorem exec_bkpt (ha : ∀ c, mapFind s.ctxs (s.nat is f).ctx = some c → c.bkpt = false) :
    exec (.bkpt f) s = .next (((s.nat is f).goesOn s).takeTrap is.warp is.slot is.pc
      { cause := 0x40, addr := (f.w2.extractLsb' 0 16).zeroExtend 64, lanes := (s.nat is f).e, completes := true }
      false false) := by
  have hn : BitVec.ofNat 64 (fld f.w2 0 16) = (f.w2.extractLsb' 0 16).zeroExtend 64 :=
    BitVec.eq_of_toNat_eq (by simp [fld, BitVec.extractLsb'_toNat])
  have hb : execBkpt f s = .next ((s.nat is f).finish (.trap s
      { cause := 0x40, addr := (f.w2.extractLsb' 0 16).zeroExtend 64, lanes := (s.nat is f).e, completes := true })) := by
    unfold execBkpt
    rw [native_eq h, hn]
    cases hc : mapFind s.ctxs (s.nat is f).ctx with
    | none => simp only [State.nat_s, hc, Bool.false_eq_true, if_false]
    | some c => simp only [State.nat_s, hc, ha c hc, Bool.false_eq_true, if_false]
  exact hb.trans (congrArg _ (Env.raise_of_complete hp h.2 rfl))

end

section
variable {s : State} {is : Issue} (h : (s.whole is).Acts) (hp : is.paired = false)
include h hp

/-- A word that is no instruction is a fault of the whole slot (R87). -/
theorem exec_illegalInstruction : exec .illegalInstruction s =
    .next (s.takeTrap is.warp is.slot is.pc { cause := 0x01, lanes := (s.whole is).e } false false) :=
  (forerunnerSlot_eq h).trans (congrArg _ (Env.raise_of_fault hp h.2 rfl))

/-- A fetch that fails is a fault of the whole slot (R87, R88). -/
theorem exec_instructionFetchFault (c : BitVec 16) (a : Word) : exec (.instructionFetchFault c a) s =
    .next (s.takeTrap is.warp is.slot is.pc { cause := c, addr := a, lanes := (s.whole is).e } false false) :=
  (forerunnerSlot_eq h).trans (congrArg _ (Env.raise_of_fault hp h.2 rfl))

end

/-- Settles O7: every such instruction ends in `takeTrap`, which writes the entry and enters the handler; an armed BKPT
ends in `startHalt`. -/
theorem trapsEnterTheHandlerAndBreakpointsHalt : Obligations.TrapsEnterTheHandlerAndBreakpointsHalt := by
  unfold Obligations.TrapsEnterTheHandlerAndBreakpointsHalt
  refine ⟨fun s t is cause addr hp _ => ⟨fun f h => ⟨fun hv hi hs => ?_, fun ha hv hi hs => ?_⟩, fun h =>
    ⟨fun hv hi hs => ?_, fun hv hi hs => ?_⟩⟩, fun f s is c h hp hb hc ha => ⟨exec_bkpt_armed h hp hc ha, ?_⟩⟩
  · exact (exec_trap h hp).trans (congrArg _ (State.takeTrap_enters (State.find_goesOn h.1.2) hv hi hs))
  · exact (exec_bkpt h hp ha).trans (congrArg _ (State.takeTrap_enters (State.find_goesOn h.1.2) hv hi hs))
  · exact (exec_illegalInstruction h hp).trans (congrArg _ (State.takeTrap_enters h.1.2 hv hi hs))
  · exact (exec_instructionFetchFault h hp cause addr).trans (congrArg _ (State.takeTrap_enters h.1.2 hv hi hs))
  · obtain ⟨b, hb⟩ := Option.isSome_iff_exists.mp hb
    have hctx : b.ctx = (s.nat is f).ctx := by
      simp only [Env.ctx, State.ctxOf, State.block, State.nat_s, State.nat_key, hb, Option.getD_some]
    rw [← hctx] at hc ⊢
    obtain ⟨p, hp, hl, hk⟩ := State.startHalt_ctxs (s := (s.nat is f).goesOn s) (key := is.warp) (pc := is.pc) hb
      (c := { c with hangCount := 0 }) (by
        simp only [Env.goesOn, Env.goesTo, State.retired, State.modCtx_ctxs, State.modWarp_ctxs, ← hctx,
          mapFind_modify, if_true, hc]
        rfl)
    rw [hp]
    simp [hl, hk]

end Sys2Proof.Machine
end

section
/-! Membership sets: SETJ, SETL and SETW (R23, R234). -/
namespace Sys2Proof.Machine

/-! ### An instruction that fails or waits -/

section
variable {f : Fields} {s : State} {is : Issue} {body : Env → Res}

/-- A native instruction that fails without an effect raises its trap in the state that it found. -/
theorem native_fail {c : BitVec 16} {a : Word} (h : (s.nat is f).Acts)
    (hb : body (s.nat is f) = (s.nat is f).fail c a) :
    native f s body = .next ((s.nat is f).raise s { cause := c, addr := a, lanes := (s.nat is f).e }) :=
  (native_eq h).trans (by rw [hb]; rfl)

/-- An instruction that waits keeps its slot where it is. -/
theorem Env.finish_waits {en : Env} {t : State} {x : Wait} (h : en.Stays en.fall) :
    en.finish (.wait t x) = en.waitsOn t x := by
  have hd : en.s.kindDiffers en.ctx en.is.fr en.is.pc en.fall = false := h
  simp only [Env.finish, hd, Bool.and_false, Bool.false_eq_true, if_false]
  rfl

end

/-- A change of a block is what it makes of the block that is there. -/
theorem State.modBlock_congr {s : State} {k : Nat} {g h : Block → Block} (e : g (s.block k) = h (s.block k)) :
    s.modBlock k g = s.modBlock k h := by
  simp only [State.modBlock, mapModify]
  cases hb : mapFind s.blocks k with
  | none => rfl
  | some b =>
    have hk : s.block k = b := by simp only [State.block, hb, Option.getD_some]
    rw [hk] at e
    simp only [e]

/-! ### SETJ, SETL and SETW -/

/-- What an arrival of a warp leaves in the record of its set. -/
theorem Block.arriveSet_set (b : Block) {n : Nat} (i : Nat) (h0 : n ≠ 0) :
    let y := mapGet {} b.sets n
    let all := b.members n ≠ 0 ∧ b.members n &&& ~~~(y.arrived ||| BitVec.twoPow 64 i) = 0
    (mapGet {} (b.arriveSet n i).sets n).phase = (if all then y.phase + 1 else y.phase) ∧
      (mapGet {} (b.arriveSet n i).sets n).arrived = (if all then 0 else y.arrived ||| BitVec.twoPow 64 i) ∧
      (b.arriveSet n i).members n = b.members n := by
  simp only [Block.arriveSet, Block.settleSet, Block.putSet, Block.members, if_neg h0, mapGet_set, if_true]
  split <;> simp

section
variable {f : Fields} {s : State} {is : Issue} (h : (s.nat is f).Runs)
  (hi : ¬(32 ≤ ((s.nat is f).sA f).toNat ∨ (!(s.nat is f).inSet ((s.nat is f).sA f).toNat) = true))
include h hi

/-- SETW of a warp that does not wait at the set arrives, and waits unless its arrival ends the phase. -/
theorem exec_setw_arrives (hf : ∀ p, (s.nat is f).sl.wait ≠ some (.set ((s.nat is f).sA f).toNat p)) :
    let en := s.nat is f
    let n := (en.sA f).toNat
    let phase := (mapGet {} en.block.sets n).phase
    let t := (s.release is.warp).modBlock en.bk fun b => b.arriveSet n (warpId is.warp)
    exec (.setw f) s = .next (en.finish
      (if (mapGet {} (t.block en.bk).sets n).phase = phase then .wait t (.set n phase) else .next (t.acquire is.warp 1))) := by
  refine (native_eq h.1).trans (congrArg (fun r => Host.Outcome.next ((s.nat is f).finish r)) ((if_neg hi).trans ?_))
  split
  next m p hw =>
    have hm : m ≠ ((s.nat is f).sA f).toNat := by
      rintro rfl
      exact hf p hw
    exact if_pos hm
  next => rfl

/-- SETW of a warp that waits at the set goes on once its phase has ended. -/
theorem exec_setw_waits {p : BitVec 32} (hw : (s.nat is f).sl.wait = some (.set ((s.nat is f).sA f).toNat p)) :
    let en := s.nat is f
    let phase := (mapGet {} en.block.sets (en.sA f).toNat).phase
    exec (.setw f) s = .next (en.finish
      (if p = phase then .wait s (.set (en.sA f).toNat phase) else .next (s.acquire is.warp 1))) := by
  refine (native_eq h.1).trans (congrArg (fun r => Host.Outcome.next ((s.nat is f).finish r)) ((if_neg hi).trans ?_))
  simp only [hw, ne_eq, not_true_eq_false, if_false]
  rfl

end

/-- Settles O33: the branches of the three meanings one by one, with what an arrival leaves in the set. -/
theorem membershipSetsComplete : Obligations.MembershipSetsComplete := by
  unfold Obligations.MembershipSetsComplete
  intro f s is h en n m id me x count traps arrived first
  have out : m.getLsbD id = false → ¬ en.inSet n = true := fun e => ne_true_of_eq_false e
  have notIn : m.getLsbD id = false → (!en.inSet n) = true := fun e => congrArg (!·) e
  have isIn : m.getLsbD id = true → ¬ (!en.inSet n) = true := fun e => ne_true_of_eq_false (congrArg (!·) e)
  refine ⟨fun hn => ⟨?_, ?_, ?_⟩, fun hn hm => ?_, fun hn h0 hm hz hl => ?_, fun hn h0 hm hr => ?_, fun h0 => ?_,
    fun hn hm => ⟨fun h0 => ?_, ?_⟩, fun hn h0 hm => ?_, fun hn hm => ?_, fun b i => b.arriveSet_set i⟩
  · exact native_fail h.1 (if_pos hn)
  · exact native_fail h.1 (if_pos (.inr (.inl hn)))
  · exact native_fail h.1 (if_pos (.inl hn))
  · exact native_done h ((if_neg (Nat.not_le.mpr hn)).trans (if_pos hm))
  · exact native_fail h.1 ((if_neg (Nat.not_le.mpr hn)).trans
      ((if_neg (not_or.mpr ⟨h0, out hm⟩)).trans (if_pos ⟨hz, hl⟩)))
  · have full : ¬ (m = 0 ∧ 64 ≤ s.liveSets en.block.core) := fun e =>
      hr.elim (fun hz => hz e.1) (fun hl => Nat.not_le.mpr hl e.2)
    refine (native_next h ((if_neg (Nat.not_le.mpr hn)).trans
      ((if_neg (not_or.mpr ⟨h0, out hm⟩)).trans (if_neg full)))).trans ?_
    rw [State.modBlock_congr (h := fun b => b.putSet n { x with members := m ||| me }) rfl]
    rfl
  · exact native_fail h.1 (if_pos (.inl h0))
  · exact native_fail h.1 (if_pos (.inr (.inr (notIn hm))))
  · exact native_fail h.1 (if_pos (.inr (notIn hm)))
  · exact native_next h (if_neg (not_or.mpr ⟨h0, not_or.mpr ⟨Nat.not_le.mpr hn, isIn hm⟩⟩))
  · have hi : ¬(32 ≤ n ∨ (!en.inSet n) = true) := not_or.mpr ⟨Nat.not_le.mpr hn, isIn hm⟩
    refine ⟨fun hf hp => ?_, fun hf hp => ?_, fun p hw => ⟨fun hp => ?_, fun hp => ?_⟩⟩
    · exact (exec_setw_arrives h hi hf).trans (by rw [if_pos hp, Env.finish_waits h.2])
    · exact (exec_setw_arrives h hi hf).trans (by rw [if_neg hp, Env.finish_next _ _ h.2])
    · exact (exec_setw_waits h hi hw).trans (by rw [if_pos hp, Env.finish_waits h.2, hp])
    · exact (exec_setw_waits h hi hw).trans (by rw [if_neg hp, Env.finish_next _ _ h.2])

end Sys2Proof.Machine
end

section
/-! Instructions of registers alone: each writes one register or pair, and raises flags (R37, R78, R82, R341). -/
namespace Sys2Proof.Machine

/-! ### One write of registers -/

/-- What an instruction of registers alone writes in its D field: an s register, with the flags that it raises; a p
register, whole or on lanes; a c register; an h register; or the lanes of a v register or pair, with their flags. -/
inductive Write where
  | s (x : Word)
  | sf (x : Word) (fl : FlagSet)
  | p (lane : Bool) (x : Word)
  | c (x : Cap)
  | h (x : Handle)
  | v (wide : Bool) (r : Nat → Word × FlagSet)

/-- The warp after a write at D under an effective mask. -/
def Write.warp (w : Warp) (d : Nat) (e : Word) : Write → Warp
  | .s x => w.setS d x
  | .sf x fl => (w.setS d x).raiseFlags fl
  | .p lane x => if lane then w.setPLanes d e x else w.setP d x
  | .c x => w.setC d x
  | .h x => w.setH d x
  | .v wide r => (w.putV wide d e fun i => (r i).1).raiseFlags (flagsOf e fun i => (r i).2)

/-- The flags that a write raises. -/
def Write.raised (e : Word) : Write → FlagSet
  | .sf _ fl => fl
  | .v _ r => flagsOf e fun i => (r i).2
  | _ => 0

/-- The class of the D field of a write. -/
def Write.field : Write → FieldClass
  | .s _ => .s
  | .sf _ _ => .s
  | .p _ _ => .p
  | .c _ => .c
  | .h _ => .h
  | .v wide _ => vw wide

/-- A warp differs from another in registers that are listed, on lanes of a mask, and in further flags. -/
structure Warp.ChangesOnly (dests : List Reg) (e : Word) (w u : Warp) : Prop where
  rest : ∃ s p v c h fl new, u = { w with s := s, p := p, v := v, c := c, h := h, flags := fl, flagsNew := new }
  flags : u.flags &&& w.flags = w.flags
  getS : ∀ r, ⟨.s, r⟩ ∉ dests → u.getS r = w.getS r
  getP : ∀ r, ⟨.p, r⟩ ∉ dests → u.getP r = w.getP r
  getC : ∀ r, ⟨.c, r⟩ ∉ dests → u.getC r = w.getC r
  getH : ∀ r, ⟨.h, r⟩ ∉ dests → u.getH r = w.getH r
  getV : ∀ r l, l < 64 → ⟨.v, r⟩ ∉ dests ∨ e.getLsbD l = false → u.getV r l = w.getV r l

section
variable {dests : List Reg} {e : Word} {w : Warp} {d : Nat}

theorem Warp.changesOnly_setS (hd : d = 0 ∨ ⟨.s, d⟩ ∈ dests) (x : Word) : w.ChangesOnly dests e (w.setS d x) where
  rest := ⟨_, _, _, _, _, _, _, w.setS_eq d x⟩
  flags := by simp
  getS r hr := by
    rw [Warp.getS_setS, if_neg]
    rintro ⟨rfl, h0⟩
    exact hd.elim h0 hr
  getP r _ := by simp [Warp.getP]
  getC r _ := by simp [Warp.getC]
  getH r _ := by simp [Warp.getH]
  getV r l _ _ := by simp [Warp.getV]

theorem Warp.changesOnly_setP (hd : d = 0 ∨ ⟨.p, d⟩ ∈ dests) (x : Word) : w.ChangesOnly dests e (w.setP d x) where
  rest := ⟨_, _, _, _, _, _, _, w.setP_eq d x⟩
  flags := by simp
  getS r _ := by simp [Warp.getS]
  getP r hr := by
    rw [Warp.getP_setP, if_neg]
    rintro ⟨rfl, h0⟩
    exact hd.elim h0 hr
  getC r _ := by simp [Warp.getC]
  getH r _ := by simp [Warp.getH]
  getV r l _ _ := by simp [Warp.getV]

theorem Warp.changesOnly_setC (hd : ⟨.c, d⟩ ∈ dests) (x : Cap) : w.ChangesOnly dests e (w.setC d x) where
  rest := ⟨_, _, _, _, _, _, _, rfl⟩
  flags := BitVec.and_self
  getS _ _ := rfl
  getP _ _ := rfl
  getC r hr := by
    rw [Warp.getC_setC, if_neg]
    rintro rfl
    exact hr hd
  getH _ _ := rfl
  getV _ _ _ _ := rfl

theorem Warp.changesOnly_setH (hd : ⟨.h, d⟩ ∈ dests) (x : Handle) : w.ChangesOnly dests e (w.setH d x) where
  rest := ⟨_, _, _, _, _, _, _, rfl⟩
  flags := BitVec.and_self
  getS _ _ := rfl
  getP _ _ := rfl
  getC _ _ := rfl
  getH r hr := by
    rw [Warp.getH_setH, if_neg]
    rintro rfl
    exact hr hd
  getV _ _ _ _ := rfl

theorem Warp.changesOnly_putV {wide : Bool} (hd : ⟨.v, d⟩ ∈ dests) (h2 : wide = true → ⟨.v, d + 1⟩ ∈ dests)
    (g : Nat → Word) : w.ChangesOnly dests e (w.putV wide d e g) where
  rest := by cases wide <;> exact ⟨_, _, _, _, _, _, _, rfl⟩
  flags := by cases wide <;> exact BitVec.and_self
  getS _ _ := by cases wide <;> rfl
  getP _ _ := by cases wide <;> rfl
  getC _ _ := by cases wide <;> rfl
  getH _ _ := by cases wide <;> rfl
  getV r l hl hr := by
    cases wide with
    | false =>
      simp only [Warp.putV, Bool.false_eq_true, if_false, Warp.getV_setV _ _ _ _ _ _ hl]
      rw [if_neg]
      rintro ⟨rfl, he⟩
      exact hr.elim (fun h => h hd) (fun h => by simp [h] at he)
    | true =>
      refine w.getV_setV2 d r l e g hl (hr.imp_left fun h => ⟨?_, ?_⟩)
      · rintro rfl
        exact h hd
      · rintro rfl
        exact h (h2 rfl)

/-- Raising flags sets bits of arith.flags alone. -/
theorem Warp.ChangesOnly.raiseFlags {u : Warp} (h : w.ChangesOnly dests e u) (fl : FlagSet) :
    w.ChangesOnly dests e (u.raiseFlags fl) where
  rest := by
    obtain ⟨s, p, v, c, h, f, new, rfl⟩ := h.rest
    exact ⟨_, _, _, _, _, _, _, rfl⟩
  flags := by
    have hf := h.flags
    have he : (u.raiseFlags fl).flags &&& w.flags = (u.flags &&& w.flags) ||| (fl &&& w.flags) := by
      apply BitVec.eq_of_getLsbD_eq
      intro i _
      simp [Warp.raiseFlags, Bool.and_or_distrib_right]
    rw [he, hf]
    apply BitVec.eq_of_getLsbD_eq
    intro i _
    simp
  getS := h.getS
  getP := h.getP
  getC := h.getC
  getH := h.getH
  getV := h.getV

end

/-- A register of the D field of an instruction that writes D is one of its destinations, unless it is s0 or p0. -/
theorem mem_sigDests {f : Fields} {g : Sig} {r : Reg} (hg : g.dst = true) (hr : r ∈ fieldRegs g.d f.d)
    (hs : r ≠ ⟨.s, 0⟩)
    (hp : r ≠ ⟨.p, 0⟩) : r ∈ sigDests f g := by
  simp only [sigDests, hg, if_true, List.mem_filter, List.mem_append, hr, true_or, hs, hp, decide_false, Bool.or_self,
    Bool.not_false, and_self]

/-- A write changes only the registers that the D field of its class names. -/
theorem Write.changesOnly {f : Fields} {g : Sig} (hg : g.dst = true) (x : Write) (hx : g.d = x.field) (w : Warp)
    (e : Word) :
    w.ChangesOnly (sigDests f g) e (x.warp w f.d.toNat e) := by
  have dest : ∀ {r : Reg}, r ∈ fieldRegs x.field f.d → r ≠ ⟨.s, 0⟩ → r ≠ ⟨.p, 0⟩ → r ∈ sigDests f g :=
    fun hr => mem_sigDests hg (hx ▸ hr)
  have destS : x.field = .s → f.d.toNat = 0 ∨ ⟨.s, f.d.toNat⟩ ∈ sigDests f g := fun hs =>
    or_iff_not_imp_left.mpr fun h0 => dest (by simp [hs, fieldRegs, regRange]) (by simpa using h0) (by simp)
  cases x with
  | s x => exact Warp.changesOnly_setS (destS rfl) x
  | sf x fl => exact (Warp.changesOnly_setS (destS rfl) x).raiseFlags fl
  | p lane x =>
    have hd : f.d.toNat = 0 ∨ ⟨.p, f.d.toNat⟩ ∈ sigDests f g :=
      or_iff_not_imp_left.mpr fun h0 => dest (by simp [Write.field, fieldRegs, regRange]) (by simp) (by simpa using h0)
    cases lane <;> exact Warp.changesOnly_setP hd _
  | c x => exact Warp.changesOnly_setC (dest (by simp [Write.field, fieldRegs, regRange]) (by simp) (by simp)) x
  | h x => exact Warp.changesOnly_setH (dest (by simp [Write.field, fieldRegs, regRange]) (by simp) (by simp)) x
  | v wide r =>
    refine (Warp.changesOnly_putV (dest ?_ (by simp) (by simp)) (fun hw => dest ?_ (by simp) (by simp)) _).raiseFlags _
    · cases wide <;> simp [Write.field, vw, fieldRegs, regRange]
    · simp [hw, Write.field, vw, fieldRegs, regRange]

theorem Write.warp_flags (x : Write) (w : Warp) (d : Nat) (e : Word) :
    (x.warp w d e).flags = w.flags ||| x.raised e := by
  cases x with
  | s x => simp [Write.warp, Write.raised]
  | sf x fl => simp [Write.warp, Write.raised, Warp.raiseFlags]
  | p lane x => cases lane <;> simp [Write.warp, Write.raised, Warp.setPLanes]
  | c x => simp [Write.warp, Write.raised, Warp.setC]
  | h x => simp [Write.warp, Write.raised, Warp.setH]
  | v wide r => cases wide <;> rfl

/-! ### The register instructions as writes -/

/-- The whole effect of an instruction is one write in its D field, which raises no flag where it is quiet. -/
def OneWrite (i : Instr) (f : Fields) (quiet : Prop) : Prop :=
  ∃ (x : Env → Write) (g : Sig),
    (∀ s, exec i s = native f s fun en => en.done ((x en).warp en.w f.d.toNat en.e)) ∧
    nativeSig i = some (f, g) ∧ g.dst = true ∧ (wellFormed i = true → ∀ en, g.d = (x en).field) ∧
    (quiet → ∀ en, (x en).raised en.e = 0)

theorem bit_eq_testBit (x i : Nat) : bit x i = x.testBit i := by
  simp only [bit, Nat.testBit, Nat.one_and_eq_mod_two]
  rcases Nat.mod_two_eq_zero_or_one (x >>> i) with h | h <;> simp [h]

/-- A write of lanes that raise no flag raises none. -/
theorem flagsOf_zero (m : Word) (r : Nat → FlagSet) (h : ∀ i, r i = 0) : flagsOf m r = 0 := by
  simp only [flagsOf, h]
  exact foldl_keeps (g := id) (fun t _ => BitVec.or_zero) 0 (maskLanes m)

section
variable {i : Instr} {f : Fields} {g : Sig} (hg : nativeSig i = some (f, g)) (h1 : g.dst = true)
include hg h1

theorem writes_s {x : Env → Word} (hi : ∀ s, exec i s = scalarResult f s x) (h2 : g.d = .s) : OneWrite i f True :=
  ⟨fun en => .s (x en), g, hi, hg, h1, fun _ _ => h2, fun _ _ => rfl⟩

theorem writes_p {lane : Bool} {x : Env → Word} (hi : ∀ s, exec i s = native f s fun en => en.writeP lane f.d.toNat (x en))
    (h2 : g.d = .p) : OneWrite i f True :=
  ⟨fun en => .p lane (x en), g, hi, hg, h1, fun _ _ => h2, fun _ _ => rfl⟩

theorem writes_c {x : Env → Cap} (hi : ∀ s, exec i s = native f s fun en => en.done (en.w.setC f.d.toNat (x en)))
    (h2 : g.d = .c) : OneWrite i f True :=
  ⟨fun en => .c (x en), g, hi, hg, h1, fun _ _ => h2, fun _ _ => rfl⟩

/-- An instruction of lane results, which may raise flags. -/
theorem writes_v {wide : Bool} {r : Env → Nat → Word × FlagSet} {quiet : Prop}
    (hi : ∀ s, exec i s = laneResult f s wide r)
    (h2 : wellFormed i = true → g.d = vw wide) (hq : quiet → ∀ en k, (r en k).2 = 0) : OneWrite i f quiet :=
  ⟨fun en => .v wide (r en), g, hi, hg, h1, fun hw _ => h2 hw, fun h en => flagsOf_zero _ _ (hq h en)⟩

/-- A scalar base major raises a flag only under .sat. -/
theorem writes_scalarBase {op : IntOp} (hi : ∀ s, exec i s = scalarBase op f s) (h2 : g.d = .s) :
    OneWrite i f ((btype f).testBit 2 = false) := by
  refine ⟨fun en => .sf
    (scalarWord (if bit (btype f) 1 then 32 else 64) (bit (btype f) 0) (op.result (if bit (btype f) 1 then 32 else 64)
      (bit (btype f) 0) (bit (btype f) 2) (en.sA f) (en.scalarB f)).1)
    (op.result (if bit (btype f) 1 then 32 else 64) (bit (btype f) 0) (bit (btype f) 2) (en.sA f) (en.scalarB f)).2,
    g, hi, hg, h1, fun _ _ => h2, fun hq en => ?_⟩
  simp only [Write.raised, bit_eq_testBit, hq, IntOp.result, Bool.false_eq_true, if_false]

/-- A vector integer base major gives lane results, with a flag only under .sat. -/
theorem writes_vectorBase {op : IntOp} (hi : ∀ s, exec i s = vectorBase op f s)
    (h2 : wellFormed i = true → g.d = vw (bit (btype f) 1)) : OneWrite i f ((btype f).testBit 2 = false) := by
  refine ⟨fun en => .v (bit (btype f) 1) fun k =>
    (BitVec.ofNat 64 (op.result (if bit (btype f) 1 then 64 else 32) (bit (btype f) 0) (bit (btype f) 2)
        (en.w.vVal (bit (btype f) 1) f.a.toNat k) (en.vectorB f (bit (btype f) 1) (decide (btype f % 4 = 1)) k)).1,
      (op.result (if bit (btype f) 1 then 64 else 32) (bit (btype f) 0) (bit (btype f) 2)
        (en.w.vVal (bit (btype f) 1) f.a.toNat k) (en.vectorB f (bit (btype f) 1) (decide (btype f % 4 = 1)) k)).2),
    g, hi, hg, h1, fun hw _ => h2 hw, fun hq en => flagsOf_zero _ _ fun k => ?_⟩
  simp only [bit_eq_testBit, hq, IntOp.result, Bool.false_eq_true, if_false]

end

/-! ### The table of the register instructions -/

/-- The scalar base majors. -/
def scalarBases : List (Fields → Instr) :=
  [.sadd, .ssub, .smul, .smulh, .sand, .sor, .sxor, .sshl, .sshr, .ssra, .smin, .smax, .smov, .srot, .sdiv, .srem]

/-- The scalar and predicate instructions that raise no flag. -/
def scalarGroup : List (Fields → Instr) :=
  [.sclz, .spopc, .sbfe, .sbfi, .ssel, .sli, .slea, .scmp, .pnot, .pmov, .pset, .pcnt, .pff, .pand, .por, .pxor, .pandn]

/-- The vector integer base majors. -/
def vectorBases : List (Fields → Instr) :=
  [.vadd, .vsub, .vmul, .vmulh, .vand, .vor, .vxor, .vshl, .vshr, .vsra, .vmin, .vmax, .vmov]

/-- The vector integer instructions that raise a flag only under .sat. -/
def vectorSats : List (Fields → Instr) := [.vmad, .vabs, .vneg]

/-- The vector instructions that raise no flag. -/
def quietLanes : List (Fields → Instr) := [.vclz, .vpopc, .vbfe, .vbfi, .vsel, .vcmp, .vbcst, .vshf]

/-- The vector instructions that may raise flags. -/
def flagLanes : List (Fields → Instr) :=
  [.vred, .vscan, .vdot4, .fadd, .fsub, .fmul, .fmin, .fmax, .hadd2, .hmul2, .ffma, .fabs, .fneg]

/-- FCMP and FCLASS. -/
def floatTests : List (Fields → Instr) := [.fcmp, .fclass]

/-- The further vector instructions that may raise flags. -/
def floatLanes : List (Fields → Instr) :=
  [.fscale, .frnd, .hfma2, .frcp, .frsq, .fsqrt, .fexp2, .flog2, .fsin, .fcos, .ftanh, .fcvt, .f2i, .i2f]

/-- The instructions on c and h registers alone, and CLOCK. -/
def capabilityGroup : List (Fields → Instr) := [.cmov, .cbnd, .cperm, .cseal, .cget, .ctest, .clock, .htest, .hmov]

theorem writes_of_scalarBases (f : Fields) : ∀ mk ∈ scalarBases, OneWrite (mk f) f ((btype f).testBit 2 = false) := by
  simp only [scalarBases, List.forall_mem_cons]
  refine ⟨?_, ?_, ?_, ?_, ?_, ?_, ?_, ?_, ?_, ?_, ?_, ?_, ?_, ?_, ?_, ?_, by simp⟩ <;>
    exact writes_scalarBase rfl rfl (fun _ => rfl) rfl

theorem writes_of_vectorSats (f : Fields) : ∀ mk ∈ vectorSats, OneWrite (mk f) f (mb f 2 = false) := by
  simp only [vectorSats, List.forall_mem_cons]
  refine ⟨?_, ?_, ?_, by simp⟩
  · exact writes_v rfl rfl (fun _ => rfl) (fun _ => rfl) fun h _ _ => by simp [narrow, h]
  · exact writes_v rfl rfl (fun _ => rfl) (fun _ => rfl) fun h _ _ => by simp [narrow, h]
  · exact writes_v rfl rfl (fun _ => rfl) (fun _ => rfl) fun h _ _ => by simp [narrow, h]

/-- PMOV writes an s register or a p register, as MOD says. -/
theorem writes_pmov (f : Fields) : OneWrite (.pmov f) f True := by
  cases hm : mb f 1 with
  | true =>
    refine writes_s (x := fun en => en.w.getP f.a.toNat) rfl rfl (fun s => ?_) (by simp only [hm, pick, if_true])
    change execPmov f s = _
    simp only [execPmov, scalarResult, hm, if_true]
  | false =>
    refine writes_p (lane := mb f 0) (x := fun en => en.w.getP f.a.toNat) rfl rfl (fun s => ?_)
      (by simp only [hm, pick, Bool.false_eq_true, if_false])
    change execPmov f s = _
    simp only [execPmov, hm, Bool.false_eq_true, if_false]

theorem writes_of_scalarGroup (f : Fields) : ∀ mk ∈ scalarGroup, OneWrite (mk f) f True := by
  simp only [scalarGroup, List.forall_mem_cons]
  refine ⟨?_, ?_, ?_, ?_, ?_, ?_, ?_, ?_, ?_, writes_pmov f, ?_, ?_, ?_, ?_, ?_, ?_, ?_, by simp⟩
  iterate 7 exact writes_s rfl rfl (fun _ => rfl) rfl
  · exact writes_p rfl rfl (lane := mb f 5) (fun _ => rfl) rfl
  iterate 2 exact writes_p rfl rfl (fun _ => rfl) rfl
  iterate 2 exact writes_s rfl rfl (fun _ => rfl) rfl
  iterate 4 exact writes_p rfl rfl (fun _ => rfl) rfl

theorem bit_one (x : Nat) : bit x 1 = decide (x / 2 % 2 = 1) := by
  simp only [bit, Nat.shiftRight_eq_div_pow, pow_one]

/-- VMOV has types 0 and 2 only. -/
theorem vmov_wide {f : Fields} (h : wellFormed (.vmov f) = true) : (vmovSig f).d = vw (bit (btype f) 1) := by
  have hm : f.mod.toNat = 0 ∨ f.mod.toNat = 2 := by
    simp only [wellFormed, nativeSig, vmovSig, formOk, modIn, xf, Bool.and_eq_true] at h
    obtain ⟨⟨hform, hlegal⟩, -⟩ := h
    cases hf : f.form <;> simp_all
  have ht : btype f = 0 ∨ btype f = 2 := by
    simp only [btype, fld]
    exact hm.imp (fun h => by rw [h]; rfl) (fun h => by rw [h]; rfl)
  exact congrArg vw (by rcases ht with h | h <;> rw [h] <;> rfl)

theorem writes_of_vectorBases (f : Fields) : ∀ mk ∈ vectorBases, OneWrite (mk f) f ((btype f).testBit 2 = false) := by
  simp only [vectorBases, List.forall_mem_cons]
  refine ⟨?_, ?_, ?_, ?_, ?_, ?_, ?_, ?_, ?_, ?_, ?_, ?_, ?_, by simp⟩
  iterate 12 exact writes_vectorBase rfl rfl (fun _ => rfl) fun _ => congrArg vw (bit_one _).symm
  · exact writes_vectorBase rfl rfl (fun _ => rfl) vmov_wide

theorem writes_of_quietLanes (f : Fields) : ∀ mk ∈ quietLanes, OneWrite (mk f) f True := by
  simp only [quietLanes, List.forall_mem_cons]
  refine ⟨?_, ?_, ?_, ?_, ?_, ?_, ?_, ?_, by simp⟩
  iterate 5 exact writes_v rfl rfl (fun _ => rfl) (fun _ => rfl) fun _ _ _ => rfl
  · exact writes_p rfl rfl (lane := true) (fun _ => rfl) rfl
  iterate 2 exact writes_v rfl rfl (fun _ => rfl) (fun _ => rfl) fun _ _ _ => rfl

theorem writes_of_flagLanes (f : Fields) : ∀ mk ∈ flagLanes, OneWrite (mk f) f False := by
  simp only [flagLanes, List.forall_mem_cons]
  refine ⟨?_, ?_, ?_, ?_, ?_, ?_, ?_, ?_, ?_, ?_, ?_, ?_, ?_, by simp⟩
  iterate 3 exact writes_v rfl rfl (fun _ => rfl) (fun _ => rfl) False.elim
  iterate 5 exact writes_v rfl rfl (fun _ => rfl) (fun _ => congrArg vw (by simp [bit, Nat.shiftRight_eq_div_pow])) False.elim
  iterate 5 exact writes_v rfl rfl (fun _ => rfl) (fun _ => rfl) False.elim

theorem writes_of_floatTests (f : Fields) : ∀ mk ∈ floatTests, OneWrite (mk f) f True := by
  simp only [floatTests, List.forall_mem_cons]
  refine ⟨?_, ?_, by simp⟩
  · exact writes_p rfl rfl (lane := true) (fun _ => rfl) rfl
  · exact writes_v rfl rfl (fun _ => rfl) (fun _ => rfl) fun _ _ _ => rfl

/-- F2I writes a pair for the types of 64 bits. -/
theorem f2i_wide (f : Fields) : decide (6 ≤ fld f.w2 4 3) = decide (intWidth (fld f.w2 4 3) = 64) := by
  have hb : fld f.w2 4 3 < 8 := Nat.mod_lt _ (by decide)
  generalize fld f.w2 4 3 = ty at hb
  interval_cases ty <;> rfl

theorem writes_of_floatLanes (f : Fields) : ∀ mk ∈ floatLanes, OneWrite (mk f) f False := by
  simp only [floatLanes, List.forall_mem_cons]
  refine ⟨?_, ?_, ?_, ?_, ?_, ?_, ?_, ?_, ?_, ?_, ?_, ?_, ?_, ?_, by simp⟩
  iterate 12 exact writes_v rfl rfl (fun _ => rfl) (fun _ => rfl) False.elim
  · exact writes_v rfl rfl (fun _ => rfl) (fun _ => congrArg vw (f2i_wide f)) False.elim
  · exact writes_v rfl rfl (fun _ => rfl) (fun _ => rfl) False.elim

theorem writes_of_capabilityGroup (f : Fields) : ∀ mk ∈ capabilityGroup, OneWrite (mk f) f True := by
  simp only [capabilityGroup, List.forall_mem_cons]
  refine ⟨?_, ?_, ?_, ?_, ?_, ?_, ?_, ?_, ?_, by simp⟩
  iterate 4 exact writes_c rfl rfl (fun _ => rfl) rfl
  · exact writes_s rfl rfl (fun _ => rfl) rfl
  · exact writes_p rfl rfl (lane := false) (fun _ => rfl) rfl
  iterate 2 exact writes_s rfl rfl (fun _ => rfl) rfl
  · exact ⟨fun en => .h (en.w.getH f.a.toNat), _, fun _ => rfl, rfl, rfl, fun _ _ => rfl, fun _ _ => rfl⟩

/-! ### What a write leaves unchanged -/

/-- An instruction that is one write gives its write to the warp, and goes on. -/
theorem OneWrite.gives {i : Instr} {f : Fields} {quiet : Prop} {s : State} {is : Issue} (hi : OneWrite i f quiet)
    (h : (s.nat is f).Runs) :
    ∃ u, exec i s = .next ((s.nat is f).gives u) ∧ (quiet → u.flags = (s.nat is f).w.flags) ∧
      ∀ g, nativeSig i = some (f, g) → wellFormed i = true →
        (s.nat is f).w.ChangesOnly (sigDests f g) (s.nat is f).e u := by
  obtain ⟨x, g, he, hg, hd, hx, hq⟩ := hi
  refine ⟨_, (he s).trans (native_done h rfl), fun q => ?_, fun g' hg' hw => ?_⟩
  · rw [Write.warp_flags, hq q]
    exact BitVec.or_zero
  · obtain rfl : g = g' := by
      rw [hg] at hg'
      exact (Prod.ext_iff.mp (Option.some.inj hg')).2
    exact Write.changesOnly hd _ (hx hw _) _ _

theorem Slot.issued_eq (x : Slot) (is : Issue) : x.issued is = { x with windows := (x.issued is).windows } := by
  simp only [Slot.issued, Slot.tick]
  split <;> rfl

section
variable (f : Fields) (s : State) (is : Issue) (u : Warp)

/-- The warp that an instruction gives is resident afterwards, with its slot gone on. -/
theorem State.find_gives :
    mapFind ((s.nat is f).gives u).warps is.warp =
      some (u.setSlot is.slot { (u.slot is.slot).issued is with pc := (s.nat is f).fall, wait := none }) := by
  simp [Env.gives, Env.goesOn, Env.goesTo, Env.put]

/-- An instruction that gives a warp leaves every other warp. -/
theorem State.find_gives_other {key : Nat} (hk : key ≠ is.warp) :
    mapFind ((s.nat is f).gives u).warps key = mapFind s.warps key := by
  simp [Env.gives, Env.goesOn, Env.goesTo, Env.put, hk.symm]

/-- An instruction that gives a warp restarts the hang count of its context, and leaves every other context. -/
theorem State.gives_ctx (c : Nat) :
    mapFind ((s.nat is f).gives u).ctxs c =
      (mapFind s.ctxs c).map fun x => if c = (s.nat is f).ctx then { x with hangCount := 0 } else x := by
  change mapFind (mapModify s.ctxs (s.nat is f).ctx fun x => { x with hangCount := 0 }) c = _
  rw [mapFind_modify]
  by_cases hc : c = (s.nat is f).ctx
  · subst hc
    simp only [if_true]
  · simp only [hc, Ne.symm hc, if_false, Option.map_id']

end

/-- A slot that goes on changes its own slot alone. -/
theorem Warp.ChangesOnly.goesOn {dests : List Reg} {e : Word} {w v : Warp} {k : Nat} (h : w.ChangesOnly dests e v)
    (hk : k < 2)
    (is : Issue) (pc : Word) :
    let u := v.setSlot k { (v.slot k).issued is with pc, wait := none }
    u = { w with s0 := u.s0, s1 := u.s1, s := u.s, p := u.p, v := u.v, c := u.c, h := u.h, flags := u.flags,
                 flagsNew := u.flagsNew } ∧
      u.slot (1 - k) = w.slot (1 - k) ∧
      u.slot k = { w.slot k with pc, wait := none, windows := (u.slot k).windows } := by
  obtain ⟨rs, rp, rv, rc, rh, fl, new, rfl⟩ := h.rest
  rcases slot_cases hk with rfl | rfl
  · exact ⟨rfl, rfl, by simp only [Warp.setSlot, Warp.slot, if_true]; rw [Slot.issued_eq]⟩
  · exact ⟨rfl, rfl, by simp only [Warp.setSlot, Warp.slot, one_ne_zero, if_false]; rw [Slot.issued_eq]⟩

/-- The instructions that raise no flag whatever their modifiers, but for SBFE and VBFE. -/
theorem writes_of_quiet (f : Fields) {mk : Fields → Instr}
    (hm : mk ∈ scalarGroup.take 2 ++ (scalarGroup.drop 3 ++ (quietLanes.take 2 ++ (quietLanes.drop 3 ++
      (floatTests.reverse ++ capabilityGroup))))) : OneWrite (mk f) f True := by
  simp only [List.mem_append, List.mem_reverse] at hm
  rcases hm with hm | hm | hm | hm | hm | hm
  · exact writes_of_scalarGroup f mk (List.mem_of_mem_take hm)
  · exact writes_of_scalarGroup f mk (List.mem_of_mem_drop hm)
  · exact writes_of_quietLanes f mk (List.mem_of_mem_take hm)
  · exact writes_of_quietLanes f mk (List.mem_of_mem_drop hm)
  · exact writes_of_floatTests f mk hm
  · exact writes_of_capabilityGroup f mk hm

/-- Settles O51: every instruction listed is one write in its D field, which changes its destinations alone. -/
theorem registerInstructionsChangeOnlyTheirDestinations :
    Obligations.RegisterInstructionsChangeOnlyTheirDestinations := by
  unfold Obligations.RegisterInstructionsChangeOnlyTheirDestinations
  refine ⟨fun f s t is mk g hm h hk hw hg ht => ?_, fun f s t is mk hm h hk ht => ?_⟩
  · have hm : mk ∈ scalarBases ++ (scalarGroup ++ (vectorBases ++ (vectorSats ++ (quietLanes ++ (flagLanes ++
        (floatTests ++ (floatLanes ++ capabilityGroup))))))) := hm
    have one : ∃ q, OneWrite (mk f) f q := by
      simp only [List.mem_append] at hm
      rcases hm with hm | hm | hm | hm | hm | hm | hm | hm | hm
      · exact ⟨_, writes_of_scalarBases f mk hm⟩
      · exact ⟨_, writes_of_scalarGroup f mk hm⟩
      · exact ⟨_, writes_of_vectorBases f mk hm⟩
      · exact ⟨_, writes_of_vectorSats f mk hm⟩
      · exact ⟨_, writes_of_quietLanes f mk hm⟩
      · exact ⟨_, writes_of_flagLanes f mk hm⟩
      · exact ⟨_, writes_of_floatTests f mk hm⟩
      · exact ⟨_, writes_of_floatLanes f mk hm⟩
      · exact ⟨_, writes_of_capabilityGroup f mk hm⟩
    obtain ⟨q, one⟩ := one
    obtain ⟨v, hv, -, changes⟩ := one.gives h
    obtain rfl : (s.nat is f).gives v = t := Host.Outcome.next.inj (hv.symm.trans ht)
    have changes := changes g hg hw
    obtain ⟨rest, other, own⟩ := changes.goesOn hk is (s.nat is f).fall
    refine ⟨fun _ => rfl, rfl, State.gives_ctx f s is v, fun key hk => State.find_gives_other f s is v hk, _,
      State.find_gives f s is v, rest, other, own, ?_, ?_, ?_, ?_, ?_, ?_⟩
    · exact (congrArg (· &&& (s.nat is f).w.flags) (Warp.setSlot_flags ..)).trans changes.flags
    · exact fun r hr => (Warp.getS_setSlot ..).trans (changes.getS r hr)
    · exact fun r hr => (Warp.getP_setSlot ..).trans (changes.getP r hr)
    · exact fun r hr => (Warp.getC_setSlot ..).trans (changes.getC r hr)
    · exact fun r hr => (Warp.getH_setSlot ..).trans (changes.getH r hr)
    · exact fun r l hl hr => (Warp.getV_setSlot ..).trans (changes.getV r l hl hr)
  · have one : ∃ q : Prop, q ∧ OneWrite (mk f) f q := by
      rcases hm with hm | ⟨hm, hq⟩ | ⟨hm, hq⟩
      · exact ⟨_, trivial, writes_of_quiet f hm⟩
      · have hm : mk ∈ scalarBases ++ vectorBases := hm
        exact (List.mem_append.mp hm).elim (fun hm => ⟨_, hq, writes_of_scalarBases f mk hm⟩)
          (fun hm => ⟨_, hq, writes_of_vectorBases f mk hm⟩)
      · exact ⟨_, hq, writes_of_vectorSats f mk hm⟩
    obtain ⟨q, hq, one⟩ := one
    obtain ⟨v, hv, flags, -⟩ := one.gives h
    obtain rfl : (s.nat is f).gives v = t := Host.Outcome.next.inj (hv.symm.trans ht)
    exact ⟨_, State.find_gives f s is v, (Warp.setSlot_flags ..).trans (flags hq)⟩

end Sys2Proof.Machine
end

section
/-! Grid operations: patterns, starts and returns (R29, R36, R237, R240 to R245). -/
namespace Sys2Proof.Machine

/-! ### The coordinates that a pattern matches -/

/-- A coordinate in the part of an axis that a pattern names. -/
def onAxis (j : Job) (n : BitVec 128) (o : List Nat) (a x : Nat) : Prop :=
  (patAxis j n o a).1 ≤ x ∧ x < (patAxis j n o a).1 + (patAxis j n o a).2

/-- The coordinates on the axes of a list: each coordinate of the first axis before those of the others. -/
def patBox (j : Job) (n : BitVec 128) (o : List Nat) (l : List Nat) : List (List Nat) :=
  l.foldr (fun a acc => (List.range (patAxis j n o a).2).flatMap fun i => acc.map fun c => ((patAxis j n o a).1 + i) :: c) [[]]

section
variable (j : Job) (n : BitVec 128) (o : List Nat)

theorem patCoords_eq_patBox : patCoords j n o = patBox j n o (List.range 5) := List.foldl_reverse

theorem length_patBox (l : List Nat) : (patBox j n o l).length = (l.map fun a => (patAxis j n o a).2).prod := by
  induction l with
  | nil => rfl
  | cons a l ih =>
    change ((List.range (patAxis j n o a).2).flatMap fun i => (patBox j n o l).map _).length = _
    simp only [List.length_flatMap, List.length_map, ih, List.map_const', List.sum_replicate, List.length_range,
      List.map_cons, List.prod_cons, smul_eq_mul]

theorem mem_patBox (l : List Nat) (c : List Nat) : c ∈ patBox j n o l ↔ List.Forall₂ (onAxis j n o) l c := by
  induction l generalizing c with
  | nil => simp [patBox]
  | cons a l ih =>
    change c ∈ ((List.range (patAxis j n o a).2).flatMap fun i => (patBox j n o l).map _) ↔ _
    simp only [List.mem_flatMap, List.mem_range, List.mem_map, ih, List.forall₂_cons_left_iff, onAxis]
    constructor
    · rintro ⟨i, hi, t, ht, rfl⟩
      exact ⟨_, t, ⟨Nat.le_add_right .., Nat.add_lt_add_left hi _⟩, ht, rfl⟩
    · rintro ⟨x, t, ⟨hlo, hhi⟩, ht, rfl⟩
      exact ⟨x - (patAxis j n o a).1, by omega, t, ht, by rw [Nat.add_sub_cancel' hlo]⟩

theorem length_patCoords : (patCoords j n j.coord).length = patCount j n := by
  rw [patCoords_eq_patBox, length_patBox, List.prod_eq_foldl]
  rfl

/-- The listed coordinates are those of five axes in the parts that the pattern names. -/
theorem mem_patCoords (c : List Nat) : c ∈ patCoords j n o ↔ c.length = 5 ∧ patHas j n o c = true := by
  rw [patCoords_eq_patBox, mem_patBox, List.forall₂_iff_get]
  simp only [List.length_range, patHas, List.all_eq_true, List.mem_range, decide_eq_true_eq, List.get_eq_getElem,
    List.getElem_range]
  constructor
  · rintro ⟨hl, h⟩
    refine ⟨hl.symm, fun a ha => ?_⟩
    rw [List.getD_eq_getElem c 0 (hl ▸ ha)]
    exact h a ha (hl ▸ ha)
  · rintro ⟨hl, h⟩
    refine ⟨hl.symm, fun a ha hc => ?_⟩
    have ha := h a ha
    rw [List.getD_eq_getElem c 0 hc] at ha
    exact ha

end

/-! ### Traps of a grid access -/

section
variable {f : Fields} {s : State} {is : Issue} (h : (s.nat is f).Acts) {ok : Job → BitVec 128 → Bool}
  {go : Env → Job → BitVec 128 → Res}
include h

/-- A grid access whose pattern is invalid, or not of the kind that the instruction needs, traps. -/
theorem native_badPattern
    (hp : (patValid ((s.nat is f).w.getN f.a.toNat) && ok (s.nat is f).job ((s.nat is f).w.getN f.a.toNat)) = false) :
    (native f s fun en => en.withPattern f ok (go en)) =
      .next ((s.nat is f).raise s { cause := 0x36, lanes := (s.nat is f).e }) :=
  native_fail h (if_neg (ne_true_of_eq_false hp))

/-- A grid access whose pattern is invalid traps. -/
theorem native_invalidPattern (hp : patValid ((s.nat is f).w.getN f.a.toNat) = false) :
    (native f s fun en => en.withPattern f ok (go en)) =
      .next ((s.nat is f).raise s { cause := 0x36, lanes := (s.nat is f).e }) :=
  native_badPattern h (by rw [hp, Bool.false_and])

/-- A grid access whose pattern is one that the instruction takes goes on with it. -/
theorem native_goodPattern
    (hp : (patValid ((s.nat is f).w.getN f.a.toNat) && ok (s.nat is f).job ((s.nat is f).w.getN f.a.toNat)) = true) :
    (native f s fun en => en.withPattern f ok (go en)) =
      .next ((s.nat is f).finish (go (s.nat is f) (s.nat is f).job ((s.nat is f).w.getN f.a.toNat))) :=
  (native_eq h).trans (congrArg (fun r => Host.Outcome.next ((s.nat is f).finish r)) (if_pos hp))

end

theorem oneExact_iff (j : Job) (n : BitVec 128) :
    oneExact j n = true ↔ (∀ a < 5, patMode n a = 0 ∨ patMode n a = 3) ∧ patCount j n = 1 := by
  simp only [oneExact, Bool.and_eq_true, List.all_eq_true, List.mem_range, decide_eq_true_eq]

/-- Traps of the grid operations, by their patterns. -/
theorem gridOperations_trap {f : Fields} {s : State} {is : Issue} (h : (s.nat is f).Acts) :
    let en := s.nat is f
    let j := s.jobOf (warpBlock is.warp)
    let pat := en.w.getN f.a.toNat
    let traps := fun (i : Instr) (c : BitVec 16) => exec i s = .next (en.raise s { cause := c, lanes := en.e })
    patValid pat = true →
    (¬((∀ a < 5, patMode pat a = 0 ∨ patMode pat a = 3) ∧ patCount j pat = 1) → traps (.gld f) 0x36) ∧
    (mb f 6 = false → patCount j pat ≠ 1 → traps (.gatom f) 0x36) ∧
    (patIndex j pat = none → traps (.gred f) 0x36) ∧
    ((patIndex j pat).isSome = true →
      redLength (f.mod.toNat % 8) (f.mod.toNat / 8 % 8) (en.w.getS (f.c.toNat + 2)).toNat = false →
      traps (.gred f) 0x22) := by
  intro en j pat traps hv
  refine ⟨fun hx => native_badPattern h ?_, fun hr hx => native_badPattern h ?_, fun hx => native_badPattern h ?_,
    fun hx hl => ?_⟩
  · rw [hv, Bool.true_and, ← Bool.not_eq_true, oneExact_iff]
    exact hx
  · rw [hv, hr, Bool.true_and, Bool.false_or]
    exact decide_eq_false hx
  · rw [hv, Bool.true_and]
    exact (congrArg Option.isSome hx :)
  · have member : (patValid pat && isMember j pat) = true := by
      rw [hv, Bool.true_and]
      exact hx
    have op : fld f.mod 0 3 = f.mod.toNat % 8 := rfl
    have ty : fld f.mod 3 3 = f.mod.toNat / 8 % 8 := by
      simp only [fld, Nat.shiftRight_eq_div_pow]
      rfl
    refine (native_goodPattern h member).trans (congrArg (fun r => Host.Outcome.next (en.finish r)) (if_pos ?_))
    rw [op, ty]
    exact congrArg (!·) hl

/-! ### The start of an operation -/

section
variable {en : Env} {t : State} {w : Warp} (hw : mapFind t.warps en.key = some w) (d : Nat) (g : GridOp)
  (send : Nat → State → State)

/-- The status of a new grid operation. -/
def Env.gridStat (en : Env) (w : Warp) (g : GridOp) : OpStat :=
  { warp := en.key, value := handleValue 4 g.fn w.nextSerial, batch := w.batch + 1, desc := none, grp := 4 }

/-- The state with a new grid operation's handle. -/
def Env.gridHeld (en : Env) (t : State) (w : Warp) (d : Nat) (g : GridOp) : State :=
  { t with nextOp := t.nextOp + 1, ops := mapPut t.ops t.nextOp (en.gridStat w g) }.putWarp en.key
    ({ w with serial := w.nextSerial }.setH d { value := handleValue 4 g.fn w.nextSerial, uid := t.nextOp })

/-- The status and the warp of an operation that has its handle. -/
theorem Env.find_gridHeld (x : OpStat → OpStat) :
    mapFind ((en.gridHeld t w d g).modStat t.nextOp x).ops t.nextOp = some (x (en.gridStat w g)) ∧
      mapFind ((en.gridHeld t w d g).modStat t.nextOp x).warps en.key =
        some ({ w with serial := w.nextSerial }.setH d { value := handleValue 4 g.fn w.nextSerial, uid := t.nextOp }) := by
  simp [State.modStat, Env.gridHeld]

include hw

theorem Env.gridStart_eq :
    en.gridStart t d g send =
      if g.expected = 0 then (en.gridHeld t w d g).modStat t.nextOp fun x => { x with state := 2 }
      else send t.nextOp (((en.gridHeld t w d g).modStat t.nextOp fun x => { x with state := 1 }).addGrid t.nextOp
        { g with value := handleValue 4 g.fn w.nextSerial }) := by
  have hv : mapGet {} (en.gridHeld t w d g).ops t.nextOp = en.gridStat w g := by
    simp only [Env.gridHeld, State.putWarp_ops, mapGet_put, if_true]
  have hn : t.newHandle en.key d 4 g.fn none = (t.nextOp, en.gridHeld t w d g) := by
    simp only [State.newHandle, hw]
    rfl
  simp only [Env.gridStart, hn, hv]
  rfl

end

/-! ### Masks of lanes -/

theorem getLsbD_maskOf (p : Nat → Bool) {i : Nat} (hi : i < 64) : (maskOf p).getLsbD i = p i := by
  change (BitVec.ofBoolListLE ((List.range 64).map p)).getLsbD i = p i
  rw [BitVec.getLsbD_ofBoolListLE]
  simp [List.getD_eq_getElem?_getD, hi]

theorem mem_maskLanes {m : Word} {i : Nat} : i ∈ maskLanes m ↔ i < 64 ∧ m.getLsbD i = true := by
  simp [maskLanes, inMask]

/-! ### GLD -/

/-- The checks of a grid access hold on every lane. -/
theorem Env.gridLanes_none {en : Env} {c : Cap} {need : BitVec 16} {n : Nat} {off : Nat → Word}
    (h : ∀ i < 64, en.e.getLsbD i = true → en.s.capCheck en.ctx c need (off i) n n = none) :
    en.gridLanes c need n off = none := by
  have none_bad : (en.lanes.filterMap fun i =>
      (en.s.capCheck en.ctx c need (off i) n n).map fun x => (i, (x, c.base + off i))) = [] := by
    rw [List.filterMap_eq_nil_iff]
    intro i hi
    obtain ⟨hi, he⟩ := mem_maskLanes.mp hi
    rw [h i hi he]
    rfl
  simp only [Env.gridLanes, none_bad, laneTrap]

theorem loadedValue_of_word {size : Nat} (h : 4 ≤ size) (w : Nat) (l : List Byte) : loadedValue size w l = leNat l := by
  match size, h with
  | _ + 4, _ => rfl

section
variable {f : Fields} {s : State} {is : Issue} (h : (s.nat is f).Runs)

/-- What a GLD answers once its checks hold. -/
def Env.gldAnswer (en : Env) (f : Fields) : Res :=
  let c := en.w.getC f.b.toNat
  let off := en.gridOffset (mb f 3) f
  match en.pendingLoad with
  | none => en.sendLoad f c (sizeBytes (gridSize f)) off en.job (en.w.getN f.a.toNat)
  | some (k, g) =>
    match g.failed, g.reply with
    | some (_, va), _ =>
      let s := en.s.dropLoad k
      let hit := maskOf fun i => inMask en.e i && decide (c.base + off i = va)
      let low := (en.lanes.headD 0)
      if hit = 0 then .trap s { cause := 0x37, addr := c.base + off low, lanes := BitVec.twoPow 64 low }
      else .trap s { cause := 0x37, addr := va, lanes := hit }
    | none, some l => .next (en.s.takeLoad en.key k g l)
    | none, none => .wait en.s (.load k)

include h in
theorem exec_gld
    (hp : (patValid ((s.nat is f).w.getN f.a.toNat) && oneExact (s.nat is f).job ((s.nat is f).w.getN f.a.toNat)) = true)
    (hl : (s.nat is f).gridLanes ((s.nat is f).w.getC f.b.toNat) (permR ||| permRM) (sizeBytes (gridSize f))
      ((s.nat is f).gridOffset (mb f 3) f) = none) :
    exec (.gld f) s = .next ((s.nat is f).finish ((s.nat is f).gldAnswer f)) := by
  refine (native_goodPattern h.1 hp).trans (congrArg (fun r => Host.Outcome.next ((s.nat is f).finish r)) ?_)
  simp only [hl]
  rfl

theorem Env.pendingLoad_of_idle {en : Env} (hw : ∀ k, en.sl.wait ≠ some (.load k)) : en.pendingLoad = none := by
  unfold Env.pendingLoad
  split
  next k hk => exact absurd hk (hw k)
  next => rfl

theorem Env.gldAnswer_of_idle {en : Env} (hw : ∀ k, en.sl.wait ≠ some (.load k)) :
    en.gldAnswer f = en.sendLoad f (en.w.getC f.b.toNat) (sizeBytes (gridSize f)) (en.gridOffset (mb f 3) f) en.job
      (en.w.getN f.a.toNat) := by
  simp only [Env.gldAnswer, Env.pendingLoad_of_idle hw]

theorem Env.pendingLoad_of_wait {en : Env} {k : Nat} {g : GridOp} (hw : en.sl.wait = some (.load k))
    (hg : mapFind en.s.fab.gridOps k = some g) (hf : g.fn = 1) : en.pendingLoad = some (k, g) := by
  simp only [Env.pendingLoad, hw, hg, hf, if_true]

include h in
/-- A GLD that waits for its reply: it waits on, takes its bytes, or takes the fault of its target. -/
theorem finish_gldAnswer {k : Nat} {g : GridOp} (hw : (s.nat is f).sl.wait = some (.load k))
    (hg : mapFind s.fab.gridOps k = some g) (hf : g.fn = 1) :
    let en := s.nat is f
    let s' := s.dropLoad k
    let va := fun i => (en.w.getC f.b.toNat).base + en.gridOffset (mb f 3) f i
    (g.failed = none → g.reply = none → en.finish (en.gldAnswer f) = en.waitsOn s (.load k)) ∧
    (∀ l m d sz, g.failed = none → g.reply = some l → g.ret = some (m, d, sz) → 4 ≤ sz →
      en.finish (en.gldAnswer f) = en.goesOn ((if g.acq then s'.acquire is.warp 6 else s').modWarp is.warp fun w =>
        w.putLoaded d sz m fun i => leNat (mapGet [] ((maskLanes m).zip (chunks (sizeBytes sz) 64 l)) i))) ∧
    (∀ x a, g.failed = some (x, a) → (∃ i < 64, en.e.getLsbD i = true ∧ va i = a) →
      ∃ m : Word, (∀ i < 64, m.getLsbD i = true ↔ en.e.getLsbD i = true ∧ va i = a) ∧
        en.finish (en.gldAnswer f) = en.raise s' { cause := 0x37, addr := a, lanes := m }) := by
  intro en s' va
  have pending : en.pendingLoad = some (k, g) := Env.pendingLoad_of_wait hw hg hf
  refine ⟨fun hn hr => ?_, fun l m d sz hn hr ht hs => ?_, fun x a hx hi => ?_⟩
  · simp only [Env.gldAnswer, pending, hn, hr]
    exact Env.finish_waits h.2
  · simp only [Env.gldAnswer, pending, hn, hr]
    refine (Env.finish_next _ _ h.2).trans (congrArg en.goesOn ?_)
    simp only [State.takeLoad, ht, Option.getD_some, loadedValue_of_word hs]
    rfl
  · have bits : ∀ i < 64, (maskOf fun i => inMask en.e i && decide (va i = a)).getLsbD i = true ↔
        en.e.getLsbD i = true ∧ va i = a := fun i hi => by
      rw [getLsbD_maskOf _ hi, Bool.and_eq_true, decide_eq_true_eq]
      rfl
    have hit : (maskOf fun i => inMask en.e i && decide (va i = a)) ≠ 0 := by
      obtain ⟨i, hi, he⟩ := hi
      intro h0
      have hb := (bits i hi).mpr he
      rw [h0] at hb
      simp at hb
    refine ⟨_, bits, ?_⟩
    simp only [Env.gldAnswer, pending, hx]
    exact congrArg en.finish (if_neg hit)

end

/-! ### The old values of a GATOM -/

/-- A value that a key reads as is listed at it. -/
theorem mem_of_mapFind {α : Type} {m : Map α} {k : Nat} {v : α} (h : mapFind m k = some v) : (k, v) ∈ m := by
  induction m with
  | nil => cases h
  | cons e r ih =>
    obtain ⟨a, x⟩ := e
    simp only [mapFind] at h
    split at h
    · next ha =>
      obtain rfl := Option.some.inj h
      exact ha ▸ List.mem_cons_self
    · exact List.mem_cons_of_mem _ (ih h)

section
variable {s : State} {k : Nat} {g : GridOp} (hg : mapFind s.fab.gridOps k = some g)
include hg

/-- The registers of an operation whose old values have not come are awaited. -/
theorem mem_awaited (hf : g.fn = 2) {m : Word} {d n : Nat} (ht : g.ret = some (m, d, n)) (hr : g.reply = none) {r : Reg}
    (h : r ∈ regRange .v d (n / 4)) : r ∈ s.awaited g.warp := by
  refine List.mem_flatMap.mpr ⟨(k, g), mem_of_mapFind hg, ?_⟩
  simp only [ht, hf, hr, Option.isNone_none, and_self, if_true]
  exact h

/-- The return of the old values of a GATOM. -/
theorem State.gatomReturn_eq {m : Word} {d n : Nat} (ht : g.ret = some (m, d, n)) (l : List Byte) :
    s.gatomReturn k g l =
      ((s.modWarp g.warp fun w => w.putV (decide (n = 8)) d m fun i =>
        BitVec.ofNat 64 (leNat (mapGet [] ((maskLanes m).zip (chunks n 64 l)) i))).modGrid k fun _ =>
          { g with reply := some l, flags := g.flags ||| gatomFlags g.head.op.toNat n l g.data }).checkGrid k := by
  simp only [State.gatomReturn, ht, State.modGrid, State.modWarp_fab, mapModify, hg]
  rfl

end

/-- A slot whose instruction names an awaited register does not issue. -/
theorem State.slotReady_of_awaited {s u : State} {key k : Nat} {w : Warp} {i : Instr} {is : Issue}
    (hl : s.look key w k = (.run i is, u)) (hr : ∃ r ∈ s.awaited key, r ∈ (regsOf i).1) (hw : (w.slot k).wait = none) :
    s.slotReady key w k = false := by
  obtain ⟨r, ha, hn⟩ := hr
  have held : s.scoreHeld key w k = true := by
    have some_awaited : (s.awaited key).isEmpty = false := by
      cases hs : s.awaited key with
      | nil => simp [hs] at ha
      | cons x l => rfl
    simp only [State.scoreHeld, hl, some_awaited, Bool.not_false, Bool.true_and, List.any_eq_true]
    exact ⟨r, hn, by simpa using ha⟩
  simp only [State.slotReady, hw, held, Bool.not_true, Bool.and_false]

/-- The offsets of a grid access, in words of Table 7.15. -/
theorem Env.gridOffset_eq (en : Env) (f : Fields) (uni : Bool) : en.gridOffset uni f = fun i =>
    (if uni then en.w.getS (f.w2.toNat / 16 % 256) else (en.w.getV (f.w2.toNat / 16 % 256) i).zeroExtend 64) +
      (f.w2.extractLsb' 12 16).signExtend 64 := by
  have reg : fld f.w2 4 8 = f.w2.toNat / 16 % 256 := by
    simp only [fld, Nat.shiftRight_eq_div_pow]
    rfl
  funext i
  simp only [Env.gridOffset, Env.laneBase, reg]

/-- Settles O35: the traps by the pattern checks, the starts by `gridStart_eq`, the counts by the box of coordinates, and
the returns case by case. -/
theorem gridOperationsStartMatchAndReturn : Obligations.GridOperationsStartMatchAndReturn := by
  unfold Obligations.GridOperationsStartMatchAndReturn
  refine ⟨⟨?_, fun f s is h => gridOperations_trap h, fun en t w d g send hw => ⟨fun h0 => ?_, fun h0 => ?_⟩⟩,
    fun j n => ⟨length_patCoords j n, fun c hc => (mem_patCoords j n _ c).mp hc, fun c hl hc =>
      (mem_patCoords j n _ c).mpr ⟨hl, hc⟩⟩, ?_,
    fun s k g w hg hw hf => ⟨fun l m d n ht => ⟨_, State.gatomReturn_eq hg ht l, rfl⟩, fun m d ht hr => ?_,
      fun m d ht hr => ⟨?_, ?_⟩, fun i is slot u hl hr hn => State.slotReady_of_awaited hl hr hn⟩⟩
  · intro f s is h en traps hp
    exact ⟨native_invalidPattern h hp, native_invalidPattern h hp, native_invalidPattern h hp, native_invalidPattern h hp,
      native_invalidPattern h hp⟩
  · obtain ⟨hops, hwarps⟩ := Env.find_gridHeld (en := en) (t := t) (w := w) d g fun x => { x with state := 2 }
    intro u
    have hu : u = (en.gridHeld t w d g).modStat t.nextOp fun x => { x with state := 2 } :=
      (Env.gridStart_eq hw d g send).trans (if_pos h0)
    rw [hu]
    exact ⟨rfl, hops, hwarps⟩
  · obtain ⟨hops, hwarps⟩ := Env.find_gridHeld (en := en) (t := t) (w := w) d g fun x => { x with state := 1 }
    exact ⟨_, (Env.gridStart_eq hw d g send).trans (if_neg h0), hops, hwarps, by simp [State.addGrid]; rfl, rfl⟩
  · intro f s is h en j pat size n c off hv hm hc hl
    have hoff : off = en.gridOffset (mb f 3) f := (Env.gridOffset_eq en f _).symm
    clear_value off
    subst hoff
    have hp : (patValid pat && oneExact j pat) = true := by
      rw [hv, Bool.true_and, oneExact_iff]
      exact ⟨hm, hc⟩
    have answer := exec_gld h hp (Env.gridLanes_none hl)
    refine ⟨fun hw => ?_, fun k g hw hg hf => ?_⟩
    · refine answer.trans (congrArg _ ?_)
      rw [Env.gldAnswer_of_idle hw]
      exact Env.finish_waits h.2
    · obtain ⟨waits, returns, fails⟩ := finish_gldAnswer h hw hg hf
      refine ⟨fun hn hr => answer.trans (congrArg _ (waits hn hr)), fun l m d sz hn hr ht hs =>
        answer.trans (congrArg _ (returns l m d sz hn hr ht hs)), fun x va hx hi => ?_⟩
      obtain ⟨m, hm, hfin⟩ := fails x va hx hi
      exact ⟨m, hm, answer.trans (congrArg _ hfin)⟩
  · exact mem_awaited hg hf ht hr List.mem_cons_self
  · exact mem_awaited hg hf ht hr List.mem_cons_self
  · exact mem_awaited hg hf ht hr (List.mem_cons_of_mem _ List.mem_cons_self)

end Sys2Proof.Machine
end

section
/-! The checks of memory accesses: scratchpad faults, rows in error, and the order of Table 5.12 (R38, R170, R177,
R396). -/
namespace Sys2Proof.Machine

/-! ### Failing lanes in rising order -/

theorem maskLanes_pairwise (m : Word) : (maskLanes m).Pairwise (· < ·) :=
  List.Pairwise.filter _ List.pairwise_lt_range

/-- The failures of lanes in rising order: the first is the lowest. -/
theorem le_of_failing {m : Word} {bad r : List (Nat × Failure)} {j : Nat} {x : Failure}
    (hs : (bad.map Prod.fst).Sublist (maskLanes m)) (hb : bad = (j, x) :: r) : ∀ y ∈ bad, j ≤ y.1 := by
  subst hb
  have hp : ((j, x) :: r).map Prod.fst |>.Pairwise (· < ·) := (maskLanes_pairwise m).sublist hs
  obtain ⟨hlow, -⟩ := List.pairwise_cons.mp hp
  intro y hy
  rcases List.mem_cons.mp hy with rfl | hy
  · exact Nat.le_refl _
  · exact Nat.le_of_lt (hlow _ (List.mem_map_of_mem hy))

/-- The lanes that the exception of failing lanes names. -/
def badMask (bad : List (Nat × Failure)) : Word := maskOf fun i => bad.any fun x => decide (x.1 = i)

theorem getLsbD_badMask (bad : List (Nat × Failure)) {l : Nat} (hl : l < 64) :
    (badMask bad).getLsbD l = true ↔ ∃ y ∈ bad, y.1 = l := by
  rw [badMask, getLsbD_maskOf _ hl]
  simp

/-- The failures of checks on lanes are of lanes of the list, in its order. -/
theorem checkLanes_sublist {α : Type} (chk : State → Nat → Except Failure α × State) (l : List Nat) (s : State) :
    ((checkLanes chk s l).2.1.map Prod.fst).Sublist l := by
  induction l generalizing s with
  | nil => exact List.Sublist.slnil
  | cons i r ih =>
    simp only [checkLanes]
    split
    next x t h => exact (ih t).cons _
    next e t h => exact (ih t).cons_cons _

/-! ### The scratchpad -/

/-- A lane's access lies outside the allocation. -/
def Block.outside (b : Block) (off : Word) (n : Nat) : Prop := 2 ^ 63 ≤ off.toNat ∨ b.scratchSize < off.toNat + n

theorem Block.scratchCheck_eq (b : Block) (off : Word) (n : Nat) [Decidable (b.outside off n)] :
    b.scratchCheck off n =
      if b.outside off n then some (0x19, off) else if off.toNat % n ≠ 0 then some (0x16, off) else none := by
  have hm : off.msb = decide (2 ^ 63 ≤ off.toNat) := BitVec.msb_eq_decide off
  have hc : (off.msb || decide (b.scratchSize < off.toNat + n)) = true ↔ b.outside off n := by
    simp only [hm, Block.outside, Bool.or_eq_true, decide_eq_true_eq]
  simp only [Block.scratchCheck, hc]

theorem Block.scratchCheck_none {b : Block} {off : Word} {n : Nat} (h1 : off.toNat < 2 ^ 63)
    (h2 : off.toNat + n ≤ b.scratchSize) (h3 : off.toNat % n = 0) : b.scratchCheck off n = none := by
  have hm : off.msb = decide (2 ^ 63 ≤ off.toNat) := BitVec.msb_eq_decide off
  simp only [Block.scratchCheck, hm, h3, decide_eq_false (Nat.not_le.mpr h1),
    decide_eq_false (Nat.not_lt.mpr h2), Bool.or_self, Bool.false_eq_true, if_false, ne_eq, not_true_eq_false]

theorem Block.scratchBad_sublist (b : Block) (n : Nat) (off : Nat → Word) (l : List Nat) :
    ((b.scratchBad n off l).map Prod.fst).Sublist l := by
  induction l with
  | nil => exact List.Sublist.slnil
  | cons i r ih =>
    simp only [Block.scratchBad, List.filterMap_cons]
    cases b.scratchCheck (off i) n with
    | none => exact ih.cons _
    | some e => exact ih.cons_cons _

theorem Block.scratchCheck_isSome (b : Block) (off : Word) (n : Nat) :
    (b.scratchCheck off n).isSome = true ↔ b.outside off n ∨ off.toNat % n ≠ 0 := by
  classical
  rw [Block.scratchCheck_eq]
  split
  next h => simp [h]
  next h => split <;> simp_all

theorem Block.scratchCheck_some {b : Block} {off : Word} {n : Nat} {x : Failure} (h : b.scratchCheck off n = some x) :
    x = (if 2 ^ 63 ≤ off.toNat ∨ b.scratchSize < off.toNat + n then 0x19 else 0x16, off) := by
  classical
  rw [Block.scratchCheck_eq] at h
  by_cases ho : b.outside off n
  · rw [if_pos ho] at h
    rw [if_pos (show _ ∨ _ from ho)]
    exact (Option.some.inj h).symm
  · rw [if_neg ho] at h
    rw [if_neg (show ¬(_ ∨ _) from ho)]
    split at h
    · exact (Option.some.inj h).symm
    · cases h

theorem mem_scratchBad {b : Block} {n : Nat} {off : Nat → Word} {l : List Nat} {y : Nat × Failure} :
    y ∈ b.scratchBad n off l ↔ y.1 ∈ l ∧ b.scratchCheck (off y.1) n = some y.2 := by
  obtain ⟨i, e⟩ := y
  simp only [Block.scratchBad, List.mem_filterMap, Option.map_eq_some_iff, Prod.mk.injEq]
  constructor
  · rintro ⟨j, hj, x, hx, rfl, rfl⟩
    exact ⟨hj, hx⟩
  · rintro ⟨hi, he⟩
    exact ⟨i, hi, e, he, rfl, rfl⟩

/-- The exception of a scratchpad access is that of its lowest failing lane, and names every failing lane. -/
theorem laneTrap_scratchBad {b : Block} {n : Nat} {off : Nat → Word} {m : Word} {i : Nat} {x : Failure}
    (hm : m.getLsbD i = true) (hx : b.scratchCheck (off i) n = some x)
    (hlow : ∀ j < i, ¬(m.getLsbD j = true ∧ (b.scratchCheck (off j) n).isSome = true)) :
    ∃ k : Word, (∀ j < 64, k.getLsbD j = true ↔ m.getLsbD j = true ∧ (b.scratchCheck (off j) n).isSome = true) ∧
      laneTrap (b.scratchBad n off (maskLanes m)) = some { cause := x.1, addr := x.2, lanes := k } := by
  have hi : i < 64 := BitVec.lt_of_getLsbD hm
  have mem : (i, x) ∈ b.scratchBad n off (maskLanes m) := mem_scratchBad.mpr ⟨mem_maskLanes.mpr ⟨hi, hm⟩, hx⟩
  have bits : ∀ j < 64, (badMask (b.scratchBad n off (maskLanes m))).getLsbD j = true ↔
      m.getLsbD j = true ∧ (b.scratchCheck (off j) n).isSome = true := fun j hj => by
    rw [getLsbD_badMask _ hj]
    constructor
    · rintro ⟨y, hy, rfl⟩
      obtain ⟨hl, he⟩ := mem_scratchBad.mp hy
      exact ⟨(mem_maskLanes.mp hl).2, by rw [he]; rfl⟩
    · rintro ⟨hl, he⟩
      obtain ⟨e, he⟩ := Option.isSome_iff_exists.mp he
      exact ⟨(j, e), mem_scratchBad.mpr ⟨mem_maskLanes.mpr ⟨hj, hl⟩, he⟩, rfl⟩
  refine ⟨_, bits, ?_⟩
  cases hb : b.scratchBad n off (maskLanes m) with
  | nil => rw [hb] at mem; cases mem
  | cons y r =>
    obtain ⟨j, e⟩ := y
    have hj : (j, e) ∈ b.scratchBad n off (maskLanes m) := by rw [hb]; exact List.mem_cons_self
    obtain ⟨hjl, hje⟩ := mem_scratchBad.mp hj
    have hle : j ≤ i := le_of_failing (Block.scratchBad_sublist ..) hb _ mem
    have hij : j = i := by
      refine Nat.le_antisymm hle (Nat.not_lt.mp fun hlt => hlow j hlt ⟨(mem_maskLanes.mp hjl).2, ?_⟩)
      exact Option.isSome_iff_exists.mpr ⟨e, hje⟩
    subst hij
    obtain rfl : e = x := Option.some.inj (hje.symm.trans hx)
    rfl

section
variable {en : Env} {size : Nat} {off : Nat → Word}

theorem Env.scratchLoad_of_trap {s : State} {d : Nat} {x : Trap}
    (h : laneTrap (en.block.scratchBad (sizeBytes size) off (maskLanes en.e)) = some x) :
    en.scratchLoad s size d off = .trap en.s x := by
  simp only [Env.scratchLoad, Env.lanes, h]

theorem Env.scratchStore_of_trap {s : State} {d : Nat} {x : Trap}
    (h : laneTrap (en.block.scratchBad (sizeBytes size) off (maskLanes en.e)) = some x) :
    en.scratchStore s size d off = .trap en.s x := by
  simp only [Env.scratchStore, Env.lanes, h]

/-- A load whose lanes are all inside their rows meets a row in error. -/
theorem Env.scratchLoad_of_torn {s : State} {d row : Nat} {m : Word}
    (hx : ∀ i < 64, en.e.getLsbD i = true → en.block.scratchCheck (off i) (sizeBytes size) = none)
    (ht : en.tornLanes off (sizeBytes size) = some (row, m)) :
    en.scratchLoad s size d off = .trap (en.s.sramError en.block.core 1 row) (sramTrap m) := by
  have none_bad : en.block.scratchBad (sizeBytes size) off (maskLanes en.e) = [] := by
    refine List.eq_nil_iff_forall_not_mem.mpr fun y hy => ?_
    obtain ⟨hl, he⟩ := mem_scratchBad.mp hy
    obtain ⟨hi, hm⟩ := mem_maskLanes.mp hl
    rw [hx _ hi hm] at he
    cases he
  simp only [Env.scratchLoad, Env.lanes, none_bad, laneTrap, ht]

end

section
variable {f : Fields} {s : State} {is : Issue}

/-- A native instruction whose body takes a trap raises it. -/
theorem native_trap {body : Env → Res} {t : State} {x : Trap} (h : (s.nat is f).Acts)
    (hb : body (s.nat is f) = .trap t x) :
    native f s body = .next ((s.nat is f).raise t x) :=
  (native_eq h).trans (by rw [hb]; rfl)

/-- The scratchpad offset of a lane (R177). -/
def Env.scratchOff (en : Env) (f : Fields) (i : Nat) : Word := en.laneBase (mb f 3) f.a.toNat i + sx32 f.w2

variable (h : (s.nat is f).Acts)
include h

/-- A scratchpad access that a lane makes outside the allocation or unaligned is without effect. -/
theorem exec_scratch_fails {i : Nat} {x : Failure} (hm : (s.nat is f).e.getLsbD i = true)
    (hx : (s.nat is f).block.scratchCheck ((s.nat is f).scratchOff f i) (sizeBytes (fld f.mod 0 3)) = some x)
    (hlow : ∀ j < i, ¬((s.nat is f).e.getLsbD j = true ∧
      ((s.nat is f).block.scratchCheck ((s.nat is f).scratchOff f j) (sizeBytes (fld f.mod 0 3))).isSome = true)) :
    ∃ k : Word, (∀ j < 64, k.getLsbD j = true ↔ (s.nat is f).e.getLsbD j = true ∧
        ((s.nat is f).block.scratchCheck ((s.nat is f).scratchOff f j) (sizeBytes (fld f.mod 0 3))).isSome = true) ∧
      exec (.lds f) s = .next ((s.nat is f).raise s { cause := x.1, addr := x.2, lanes := k }) ∧
      exec (.sts f) s = .next ((s.nat is f).raise s { cause := x.1, addr := x.2, lanes := k }) := by
  obtain ⟨k, bits, trap⟩ := laneTrap_scratchBad hm hx hlow
  refine ⟨k, bits, native_trap h ?_, native_trap h ?_⟩
  · exact Env.scratchLoad_of_trap trap
  · exact Env.scratchStore_of_trap trap

/-- A scratchpad load that meets a row in error traps (R396). -/
theorem exec_lds_torn {row : Nat} {m : Word}
    (hx : ∀ i < 64, (s.nat is f).e.getLsbD i = true →
      (s.nat is f).block.scratchCheck ((s.nat is f).scratchOff f i) (sizeBytes (fld f.mod 0 3)) = none)
    (ht : (s.nat is f).tornLanes ((s.nat is f).scratchOff f) (sizeBytes (fld f.mod 0 3)) = some (row, m)) :
    exec (.lds f) s = .next ((s.nat is f).raise (s.sramError (s.nat is f).block.core 1 row)
      { cause := 0x18, addr := 0, lanes := m }) :=
  native_trap h (Env.scratchLoad_of_torn hx ht)

/-- A load of an accumulator row in error traps (R396). -/
theorem exec_lda_torn {row : Nat} (hw : windowFault (s.nat is f).w (s.nat is f).block ((s.nat is f).laneRow f) 1 = none)
    (hh : s.accHeld is.warp [((s.nat is f).w.accBase.toNat + (s.nat is f).laneRow f, 1, false)] [] true = false)
    (ht : (s.nat is f).block.tornRow 2 ((s.nat is f).w.accBase.toNat + (s.nat is f).laneRow f)
      ((s.nat is f).w.accBase.toNat + (s.nat is f).laneRow f) = some row) :
    exec (.lda f) s = .next ((s.nat is f).raise (s.sramError (s.nat is f).block.core 2 row)
      { cause := 0x18, addr := 0, lanes := (s.nat is f).e }) := by
  refine native_trap h ?_
  have held : ¬ s.accHeld is.warp [((s.nat is f).w.accBase.toNat + (s.nat is f).laneRow f, 1, false)] [] true = true :=
    ne_true_of_eq_false hh
  simp only [hw, Env.withRows, State.nat_s, State.nat_key, if_neg held, ht]
  rfl

end

/-- The lanes that a row in error stops are those that read a row in error, and there is one. -/
theorem Env.tornLanes_some {en : Env} {off : Nat → Word} {n row : Nat} {m : Word}
    (h : en.tornLanes off n = some (row, m)) :
    m ≠ 0 ∧ ∀ i < 64, m.getLsbD i = true ↔ en.e.getLsbD i = true ∧ (en.block.tornBytes (off i).toNat n).isSome = true := by
  simp only [Env.tornLanes] at h
  split at h
  next row' hr =>
    simp only [Option.some.injEq, Prod.mk.injEq] at h
    obtain ⟨-, rfl⟩ := h
    have bits : ∀ i < 64, (maskOf fun i => en.e.getLsbD i && (en.block.tornBytes (off i).toNat n).isSome).getLsbD i = true ↔
        en.e.getLsbD i = true ∧ (en.block.tornBytes (off i).toNat n).isSome = true := fun i hi => by
      rw [getLsbD_maskOf _ hi, Bool.and_eq_true]
    obtain ⟨i, hi, hrow⟩ := List.exists_of_findSome?_eq_some hr
    obtain ⟨hi, he⟩ := mem_maskLanes.mp hi
    refine ⟨fun h0 => ?_, bits⟩
    have hb := (bits i hi).mpr ⟨he, Option.isSome_iff_exists.mpr ⟨row', hrow⟩⟩
    rw [h0] at hb
    simp at hb
  next => cases h

/-! ### The checks of Table 5.12, in their order -/

section
variable {s : State} {w : Who} {c : Cap} {need : BitVec 16} {off : Word} {n : Nat}

/-- An access whose capability check fails has no effect, through the L1 and at the home slice. -/
theorem checks_of_capCheck {x : BitVec 16} (h : s.capCheck w.ctx c need off n n = some x) :
    (∀ wr, s.laneCheck w c need off n wr = (.error (x, c.base + off), s)) ∧
      ∀ tn, s.homeCheck w c need off n n tn = (.error (x, c.base + off), s) :=
  ⟨fun _ => by simp only [State.laneCheck, h], fun _ => by simp only [State.homeCheck, h]⟩

/-- An access whose capability check passes fails at its translation. -/
theorem checks_of_translate (h : s.capCheck w.ctx c need off n n = none) (i : FaultInfo) (t : State) :
    (∀ wr, s.sector w.id w.asid ((c.base + off).toNat / 32) = none →
      s.translate (some w.cluster) w.ctx (c.base + off) { r := !wr, w := wr } (b2n wr) = (.fail i, t) →
      s.laneCheck w c need off n wr = (.error (if i.mem then 0x18 else 0x17, c.base + off), t)) ∧
    ∀ tn, s.translate (some w.cluster) w.ctx (c.base + off) tn (b2n tn.w) = (.fail i, t) →
      s.homeCheck w c need off n n tn = (.error (if i.mem then 0x18 else 0x17, c.base + off), t) := by
  refine ⟨fun wr hs ht => ?_, fun tn ht => ?_⟩
  · simp only [State.laneCheck, h, State.l1Check, hs, Option.filter_none, ht]
    rfl
  · simp only [State.homeCheck, h, ht]
    rfl

/-- The checks of a capability in the order of Table 5.12. -/
theorem State.capCheck_order {k : Context} (hk : mapFind s.ctxs w.ctx = some k) (hn : 1 ≤ n) :
    let fails := fun (x : BitVec 16) => s.capCheck w.ctx c need off n n = some x
    (c.tag = false → fails 0x10) ∧ (c.tag = true →
      (c.otype ≠ 0 → fails 0x11) ∧ (c.otype = 0 →
        (c.ctx.toNat ≠ w.ctx → fails 0x12) ∧ (c.ctx.toNat = w.ctx →
          (c.gen ≠ k.cgen → fails 0x13) ∧ (c.gen = k.cgen →
            (c.perms &&& need ≠ need → fails 0x14) ∧ (c.perms &&& need = need →
              (c.len.toNat < off.toNat + n → fails 0x15) ∧ (off.toNat + n ≤ c.len.toNat →
                ((c.base + off).toNat % n ≠ 0 → fails 0x16) ∧ ((c.base + off).toNat % n = 0 →
                  s.capCheck w.ctx c need off n n = none))))))) := by
  have h0 : n ≠ 0 := by omega
  have tagged : c.tag = true → ¬ (!c.tag) = true := fun h => by rw [h]; decide
  simp only [State.capCheck, hk]
  refine ⟨fun h => if_pos (congrArg (!·) h), fun h => ?_⟩
  rw [if_neg (tagged h)]
  refine ⟨fun h1 => if_pos h1, fun h1 => ?_⟩
  rw [if_neg (not_not.mpr h1)]
  refine ⟨fun h2 => if_pos h2, fun h2 => ?_⟩
  rw [if_neg (not_not.mpr h2)]
  refine ⟨fun h3 => if_pos h3, fun h3 => ?_⟩
  rw [if_neg (not_not.mpr h3)]
  refine ⟨fun h4 => if_pos h4, fun h4 => ?_⟩
  rw [if_neg (not_not.mpr h4)]
  refine ⟨fun h5 => if_pos h5, fun h5 => ?_⟩
  rw [if_neg (Nat.not_lt.mpr h5)]
  exact ⟨fun h6 => if_pos ⟨h0, h6⟩, fun h6 => if_neg fun hx => hx.2 h6⟩

end

/-! ### The fault of an instruction of many lanes -/

/-- The checks on the lanes of a mask fail: the lowest failing lane is the first listed, and the exception that is taken
names every failing lane. -/
theorem raises_of_bad {α : Type} {chk : State → Nat → Except Failure α × State} {en : Env} {s0 s t : State} {i : Instr}
    {good : List (Nat × α)} {bad : List (Nat × Failure)} (hc : checkLanes chk s0 (maskLanes en.e) = (good, bad, t))
    (hi : ∀ x, laneTrap bad = some x → exec i s = .next (en.raise t x)) :
    ∀ j x r, bad = (j, x) :: r → (∀ y ∈ bad, j ≤ y.1) ∧ ∃ m : Word, (∀ l < 64, m.getLsbD l = true ↔ ∃ y ∈ bad, y.1 = l) ∧
      exec i s = .next (en.raise t { cause := x.1, addr := x.2, lanes := m }) := by
  intro j x r hb
  have hs : (bad.map Prod.fst).Sublist (maskLanes en.e) := by
    have hl := checkLanes_sublist chk (maskLanes en.e) s0
    rw [hc] at hl
    exact hl
  refine ⟨le_of_failing hs hb, badMask bad, fun l hl => getLsbD_badMask bad hl, hi _ ?_⟩
  rw [hb]
  rfl

section
variable {en : Env} {size d n : Nat} {c : Cap} {off : Nat → Word} {bad : List (Nat × Failure)} {s0 t : State} {x : Trap}
  (hx : laneTrap bad = some x)
include hx

theorem Env.globalLoad_of_bad {good : List (Nat × Place)}
    (hc : checkLanes (fun s i => s.laneCheck en.who c permR (off i) (sizeBytes size) false) s0 (maskLanes en.e) =
      (good, bad, t)) : en.globalLoad s0 size d c off = .trap t x := by
  simp only [Env.globalLoad, Env.lanes, hc, hx]

theorem Env.globalStore_of_bad {good : List (Nat × Place)}
    (hc : checkLanes (fun s i => s.laneCheck en.who c permW (off i) (sizeBytes size) true) en.s (maskLanes en.e) =
      (good, bad, t)) : en.globalStore size d c off = .trap t x := by
  simp only [Env.globalStore, Env.lanes, hc, hx]

theorem Env.releaseStore_of_bad {good : List (Nat × Word × Nat)}
    (hc : checkLanes (fun s i => s.homeCheck en.who c permW (off i) (sizeBytes size) (sizeBytes size) { w := true }) en.s
      (maskLanes en.e) = (good, bad, t)) : en.releaseStore size d c off = .trap t x := by
  simp only [Env.releaseStore, Env.lanes, hc, hx]

end

theorem ordered_iff (f : Fields) : ordered f = true ↔ f.mod.toNat / 16 % 4 = 1 := by
  simp only [ordered, fld, Nat.shiftRight_eq_div_pow, decide_eq_true_eq]
  rfl

/-- The scope that an ordered access names (R172). -/
theorem scope_fields (f : Fields) : fld f.c 0 3 = f.c.toNat % 8 ∧ fld f.c 3 5 = f.c.toNat / 8 := by
  refine ⟨rfl, ?_⟩
  simp only [fld, Nat.shiftRight_eq_div_pow]
  have hc := f.c.isLt
  omega

/-- What an ordered load acquires before its accesses. -/
theorem acquired_eq (en : Env) (f : Fields) :
    (if ordered f then en.s.acquire en.key (en.scopeOf (fld f.c 0 3) (fld f.c 3 5)) else en.s) =
      if f.mod.toNat / 16 % 4 = 1 then en.s.acquire en.key (en.scopeOf (f.c.toNat % 8) (f.c.toNat / 8)) else en.s := by
  simp only [ordered_iff, (scope_fields f).1, (scope_fields f).2]

section
variable {f : Fields} {s t : State} {is : Issue} (h : (s.nat is f).Acts)
include h

theorem exec_atom_bad {good : List (Nat × Word × Nat)} {bad : List (Nat × Failure)} {x : Trap}
    (hx : laneTrap bad = some x)
    (hc : checkLanes (fun r i => r.homeCheck (s.nat is f).who ((s.nat is f).w.getC f.b.toNat) (permR ||| permW ||| permAT)
        ((s.nat is f).laneBase (mb f 5) f.a.toNat i + atomOffset f) (if mb f 4 then 8 else 4) (if mb f 4 then 8 else 4)
        { r := true, w := true }) s (maskLanes (s.nat is f).e) = (good, bad, t)) :
    exec (.atom f) s = .next ((s.nat is f).raise t x) :=
  native_trap h (by simp only [Env.lanes, State.nat_s, hc, hx])

theorem exec_ldk_bad {x : Failure}
    (hc : (if f.mod.toNat / 16 % 4 = 1 then s.acquire is.warp ((s.nat is f).scopeOf (f.c.toNat % 8) (f.c.toNat / 8))
      else s).laneCheck
      (s.nat is f).who ((s.nat is f).w.getC f.b.toNat) permR ((s.nat is f).sA f + sx32 f.w2) (sizeBytes (fld f.mod 0 3))
      false = (.error x, t)) :
    exec (.ldk f) s = .next ((s.nat is f).raise t { cause := x.1, addr := x.2, lanes := (s.nat is f).e }) :=
  native_failIn h (by
    have acquired := acquired_eq (s.nat is f) f
    simp only [State.nat_s, State.nat_key] at acquired
    simp only [State.nat_s, State.nat_key, acquired, hc])

theorem exec_cld_bad {x : Failure}
    (hc : s.laneCheck (s.nat is f).who ((s.nat is f).w.getC f.b.toNat) (permR ||| permLC) ((s.nat is f).sA f + sx32 f.w2) 32
      false = (.error x, t)) :
    exec (.cld f) s = .next ((s.nat is f).raise t { cause := x.1, addr := x.2, lanes := (s.nat is f).e }) :=
  native_failIn h (by simp only [State.nat_s, hc])

theorem exec_cst_bad {x : Failure}
    (hc : s.homeCheck (s.nat is f).who ((s.nat is f).w.getC f.b.toNat) (permW ||| permSC) ((s.nat is f).sA f + sx32 f.w2) 32 32
      { w := true } = (.error x, t)) :
    exec (.cst f) s = .next ((s.nat is f).raise t { cause := x.1, addr := x.2, lanes := (s.nat is f).e }) :=
  native_failIn h (by simp only [State.nat_s, hc])

end

end Sys2Proof.Machine
end

section
/-! What an L1 returns: its own stores, and the bytes of the home slice (R174, R253, R256, R257). -/
namespace Sys2Proof.Machine

/-! ### Bytes of a sector -/

/-- A part of 32 bytes whose bytes are those of a list is the list. -/
theorem take_drop_eq {d l : List Byte} {o : Nat} (hd : d.length = 32) (ho : o + l.length ≤ 32)
    (h : ∀ i < l.length, d.getD (o + i) 0 = l.getD i 0) : (d.drop o).take l.length = l := by
  apply List.ext_getElem
  · rw [List.length_take, List.length_drop]
    omega
  · intro i h1 h2
    have hi := h i h2
    rw [List.getD_eq_getElem l 0 h2, List.getD_eq_getElem d 0 (by omega)] at hi
    rw [List.getElem_take, List.getElem_drop]
    exact hi

/-- A part of 32 bytes that are read is what is read there. -/
theorem MemSys.take_drop_read (m : MemSys) {a o n : Nat} (h : o + n ≤ 32) :
    ((m.read a 32).drop o).take n = m.read (a + o) n := by
  have hl : (m.read (a + o) n).length = n := m.length_read n _
  have key := take_drop_eq (d := m.read a 32) (l := m.read (a + o) n) (o := o) (m.length_read 32 _) (by omega) fun i hi => by
    rw [m.read_getD 32 a (o + i) (by omega), m.read_getD n (a + o) i (by omega), Nat.add_assoc]
  rwa [hl] at key

/-- What is read depends on the stored bytes alone. -/
theorem MemSys.read_congr {m k : MemSys} (h : m.bytes = k.bytes) : ∀ (n a : Nat), m.read a n = k.read a n
  | 0, _ => rfl
  | n + 1, a => by
    have hb : m.byte a = k.byte a := by simp only [MemSys.byte, h]
    rw [MemSys.read, MemSys.read, hb, MemSys.read_congr h n (a + 1)]

theorem getLsbD_byteMask {o n i : Nat} (hi : i < 32) : (byteMask o n).getLsbD i = decide (o ≤ i ∧ i < o + n) := by
  simp only [byteMask, BitVec.getLsbD_ofNat, hi, decide_true, Bool.true_and, Nat.testBit_mul_two_pow,
    Nat.testBit_two_pow_sub_one]
  by_cases h : o ≤ i
  · simp only [h, decide_true, Bool.true_and, true_and, decide_eq_decide]
    omega
  · simp [h]

theorem length_overlay (m : BitVec 32) (a b : List Byte) : (overlay m a b).length = 32 := by simp [overlay]

theorem getD_overlay (m : BitVec 32) (a b : List Byte) {i : Nat} (hi : i < 32) :
    (overlay m a b).getD i 0 = if m.getLsbD i then a.getD i 0 else b.getD i 0 := by
  rw [List.getD_eq_getElem _ 0 (by rw [length_overlay]; exact hi)]
  simp [overlay]

/-- An overlay over bytes that it has already overlaid. -/
theorem overlay_overlay (m : BitVec 32) (a b : List Byte) : overlay m a (overlay m a b) = overlay m a b := by
  apply List.ext_getElem (by rw [length_overlay, length_overlay])
  intro i h1 h2
  have hi : i < 32 := by rwa [length_overlay] at h2
  rw [← List.getD_eq_getElem _ 0 h1, ← List.getD_eq_getElem _ 0 h2, getD_overlay m a _ hi, getD_overlay m a _ hi]
  split
  · rfl
  · rfl

/-! ### Copies in an L1 -/

/-- A sector that is put into an L1 is found there. -/
theorem State.sector_putSector (s : State) (id : Nat) (x : Sector) :
    (s.putSector id x).sector id x.asid x.va = some x := by
  have none_left : ((s.sectors id).filter fun y => !(decide (y.asid = x.asid ∧ y.va = x.va))).find?
      (fun y => decide (y.asid = x.asid ∧ y.va = x.va)) = none := by
    rw [List.find?_eq_none]
    intro y hy
    have kept := (List.mem_filter.mp hy).2
    exact ne_true_of_eq_false ((Bool.not_eq_true' _).mp kept)
  simp only [State.sector, State.putSector, State.dropSector, State.sectors_putSectors, if_true, List.find?_append,
    none_left]
  simp

/-- The copy that a hit uses: its bytes where they are dirty are its own, and its rights are those of the copy. -/
theorem State.refresh_data (s : State) (id : Nat) (x : Sector) (hx : x.data.length = 32) :
    (s.refresh id x).1.data.length = 32 ∧
      ∀ i < 32, x.dirty.getLsbD i = true → (s.refresh id x).1.data.getD i 0 = x.data.getD i 0 := by
  have ov : ∀ b, (overlay x.dirty x.data b).length = 32 ∧
      ∀ i < 32, x.dirty.getLsbD i = true → (overlay x.dirty x.data b).getD i 0 = x.data.getD i 0 := fun b =>
    ⟨length_overlay .., fun i hi hd => by rw [getD_overlay _ _ _ hi, if_pos hd]⟩
  simp only [State.refresh]
  split
  · exact ⟨hx, fun _ _ _ => rfl⟩
  · split
    · exact ov _
    · exact ⟨hx, fun _ _ _ => rfl⟩

/-- A load that hits a copy whose dirty bytes are the slot's own takes the bytes that the copy gives. -/
theorem State.l1Load_hit {s : State} {w : Who} {va : Word} {x : Sector}
    (hx : s.sector w.id w.asid (va.toNat / 32) = some x)
    (hr : x.read = true) (own : foreign x w = false) (n : Nat) (miss : Option (Nat × Word)) :
    ((s.l1Load w va n miss).1).1 = ((s.refresh w.id x).1.data.drop (va.toNat % 32)).take n := by
  simp only [State.l1Load, hx, hr, own, Bool.false_eq_true, if_true, if_false]

/-- A copy after a store of bytes into it. -/
def Sector.stored (x : Sector) (w : Who) (clk o : Nat) (l : List Byte) : Sector :=
  { x with
    data := (List.range 32).map fun i => if (byteMask o l.length).getLsbD i then l.getD (i - o) 0 else x.data.getD i 0
    dirty := x.dirty ||| byteMask o l.length, tag := false, warp := w.warp, slot := w.slot
    since := if x.dirty = 0 then clk else x.since }

/-- The bytes that a store has put into a copy are dirty. -/
theorem Sector.stored_byte (x : Sector) (w : Who) (clk : Nat) {o i : Nat} {l : List Byte} (hi : i < l.length)
    (ho : o + l.length ≤ 32) :
    (x.stored w clk o l).dirty.getLsbD (o + i) = true ∧ (x.stored w clk o l).data.getD (o + i) 0 = l.getD i 0 := by
  have hb : (byteMask o l.length).getLsbD (o + i) = true := by
    rw [getLsbD_byteMask (by omega)]
    exact decide_eq_true ⟨by omega, by omega⟩
  refine ⟨by simp [Sector.stored, hb], ?_⟩
  rw [List.getD_eq_getElem _ 0 (by simp [Sector.stored]; omega)]
  simp only [Sector.stored, List.getElem_map, List.getElem_range, hb, if_true, Nat.add_sub_cancel_left]

/-- A store into a copy is what the slot loads from it. -/
theorem State.l1Load_dirtySector (s : State) (w : Who) (x : Sector) (va : Word) (l : List Byte)
    (hl : va.toNat % 32 + l.length ≤ 32) (hasid : x.asid = w.asid) (hva : x.va = va.toNat / 32) (hr : x.read = true) :
    (((s.dirtySector w x (va.toNat % 32) l).l1Load w va l.length none).1).1 = l := by
  have hit : (s.dirtySector w x (va.toNat % 32) l).sector w.id w.asid (va.toNat / 32) =
      some (x.stored w s.clk (va.toNat % 32) l) := by
    rw [← hasid, ← hva]
    exact s.sector_putSector w.id (x.stored w s.clk (va.toNat % 32) l)
  have own : foreign (x.stored w s.clk (va.toNat % 32) l) w = false := by simp [foreign, Sector.stored]
  obtain ⟨len, dirty⟩ := (s.dirtySector w x (va.toNat % 32) l).refresh_data w.id (x.stored w s.clk (va.toNat % 32) l)
    (by simp [Sector.stored])
  rw [State.l1Load_hit hit hr own]
  refine take_drop_eq len hl fun i hi => ?_
  obtain ⟨hd, hb⟩ := x.stored_byte w s.clk hi hl
  rw [dirty _ (by omega) hd, hb]

/-- A store that hits leaves its bytes in the copy, for a copy of the same bytes and rights. -/
theorem State.l1Store_hit (s : State) (w : Who) (va : Word) (l : List Byte) (x : Sector)
    (hx : s.sector w.id w.asid (va.toNat / 32) = some x) (hw : x.write = true) :
    ∃ (t : State) (y : Sector), s.l1Store w va l none = t.dirtySector w y (va.toNat % 32) l ∧ y.asid = x.asid ∧ y.va = x.va ∧
      y.read = x.read := by
  have kept : ∀ (g : Sector → Bool), (g { x with dirty := 0, tag := false } = g x) →
      g (if foreign x w then { x with dirty := 0, tag := false } else x) = g x := fun g h => by
    split
    · exact h
    · rfl
  refine ⟨if foreign x w then s.writeBack w.id x else s, if foreign x w then { x with dirty := 0, tag := false } else x,
    ?_, ?_, ?_, kept Sector.read rfl⟩
  · simp only [State.l1Store, hx]
    exact if_pos ((kept Sector.write rfl).trans hw)
  · split <;> rfl
  · split <;> rfl

/-- A slot's load sees the slot's own store. -/
theorem State.l1Load_l1Store (s : State) (w : Who) (va : Word) (l : List Byte) (x : Sector)
    (hl : va.toNat % 32 + l.length ≤ 32) (hx : s.sector w.id w.asid (va.toNat / 32) = some x) (hw : x.write = true)
    (hr : x.read = true) : (((s.l1Store w va l none).l1Load w va l.length none).1).1 = l := by
  obtain ⟨t, y, hs, hasid, hva, hread⟩ := s.l1Store_hit w va l x hx hw
  have hk : x.asid = w.asid ∧ x.va = va.toNat / 32 := by simpa using List.find?_some hx
  rw [hs]
  exact t.l1Load_dirtySector w y va l hl (hasid.trans hk.1) (hva.trans hk.2) (hread.trans hr)

/-! ### What a write at the home slice leaves there -/

section
variable (s : State)

theorem State.arn_put (a : Nat) (l : List Byte) : (s.put a l).arn = s.arn := by
  unfold State.put
  split <;> rfl

theorem State.arn_cleanLines (a n : Nat) : (s.cleanLines a n).arn = s.arn := rfl
theorem State.arn_breakLine (u : Nat) : (s.breakLine u).arn = s.arn := rfl

/-- A reading that a write-back of lines keeps is kept where the L2 writes lines back. -/
theorem State.trimL2_reading {α : Type} (g : State → α) (hg : ∀ t a n, g (State.cleanLines t a n) = g t) :
    g s.trimL2 = g s := by
  have drop : ∀ (t : State) (l : List Nat), g (l.foldl (fun s u => s.cleanLines (128 * u) 128) t) = g t :=
    foldl_keeps fun t u => hg t _ _
  unfold State.trimL2
  exact (foldl_keeps (fun t _ => drop t _) _ _).trans (drop s _)

theorem State.arn_trimL2 : s.trimL2.arn = s.arn := s.trimL2_reading State.arn State.arn_cleanLines

theorem State.arn_ringWrite (a : Nat) (l : List Byte) : (s.ringWrite a l).arn = s.arn := by
  have home : ∀ t : State, (t.putHome a l).arn = t.arn := fun t => by
    unfold State.putHome
    split
    · rfl
    · rw [State.arn_trimL2, State.arn_put]
  exact (home _).trans (foldl_keeps (g := State.arn) State.arn_breakLine s _)

theorem State.bstate_errorRecord (cls code ctx : Nat) (p : Option (Nat × BitVec 32 × BitVec 32)) (d0 d1 : Word) :
    (s.errorRecord cls code ctx p d0 d1).arn.bstate = s.arn.bstate := by
  unfold State.errorRecord
  dsimp only
  split
  · rfl
  · generalize hr : s.ringWrite _ _ = r
    have h : r.arn = s.arn := hr ▸ State.arn_ringWrite ..
    exact (congrArg Arnal.bstate h :)

theorem State.bstate_memError (a : Nat) (e : Bool) : (s.memError a e).arn.bstate = s.arn.bstate := by
  unfold State.memError
  exact State.bstate_errorRecord ..

theorem State.bstate_sealError (a h : Nat) (e : Bool) : (s.sealError a h e).arn.bstate = s.arn.bstate := by
  unfold State.sealError
  rw [State.bstate_memError, State.bstate_errorRecord]

theorem State.bstate_openLine (u : Nat) : (s.openLine u).arn.bstate = s.arn.bstate := by
  unfold State.openLine
  split
  · rfl
  · rw [State.arn_breakLine, State.bstate_sealError]

theorem State.inTables_openLine (u a : Nat) : (s.openLine u).inTables a = s.inTables a := by
  have cfg : (s.openLine u).cfg = s.cfg := (congrArg State.cfg (s.outer_openLine u) :)
  simp only [State.inTables, State.inRegion, s.bstate_openLine, cfg]

/-- A write at the home slice is made whole, or lost. -/
theorem State.read_physWrite (a : Nat) (l : List Byte) (hl : l.length = 32) :
    (s.physWrite a l).mem.read a 32 = l ∨ s.physWrite a l = s := by
  unfold State.physWrite
  split
  · exact .inr rfl
  next hg =>
    refine .inl ?_
    have tables : ((partLines a l.length).foldl (fun s u => s.openLine u) s).inTables a = s.inTables a :=
      foldl_keeps (g := fun t : State => t.inTables a) (fun t u => t.inTables_openLine u a) _ _
    generalize (partLines a l.length).foldl (fun s u => s.openLine u) s = t at tables ⊢
    rw [State.putHome, tables, if_neg hg]
    apply List.ext_getElem ((MemSys.length_read ..).trans hl.symm)
    intro i h1 h2
    have hi : i < 32 := by omega
    rw [← List.getD_eq_getElem _ 0 h1, ← List.getD_eq_getElem _ 0 h2, MemSys.read_getD _ 32 a i hi]
    have hb := t.byte_put a (a + i) l
    rw [if_pos (by omega), Nat.add_sub_cancel_left] at hb
    rw [← hb]
    simp only [MemSys.byte, (t.put a l).trimL2_keeps.2]

end

/-! ### What a write-back leaves -/

/-- A write-back of a copy leaves at its home what was there, or the copy's dirty bytes over it. -/
theorem State.read_writeHome (s : State) (x : Sector) :
    (s.writeHome x).mem.read (32 * x.pa) 32 = s.mem.read (32 * x.pa) 32 ∨
      (s.writeHome x).mem.read (32 * x.pa) 32 = overlay x.dirty x.data (s.mem.read (32 * x.pa) 32) := by
  have poisoned : ∀ (c : Bool) (t : State) (m : Map Bool),
      (if c then { t with mem := { t.mem with poison := m } } else t).mem.read (32 * x.pa) 32 = t.mem.read (32 * x.pa) 32 := by
    intro c t m
    cases c
    · rfl
    · exact MemSys.read_congr rfl _ _
  unfold State.writeHome
  split
  · exact .inl rfl
  · dsimp only
    rw [poisoned]
    rcases s.read_physWrite (32 * x.pa) (overlay x.dirty x.data (s.mem.read (32 * x.pa) 32)) (length_overlay ..) with h | h
    · exact .inr h
    · exact .inl (by rw [h])

/-- The sectors of every L1 after a write-back of a copy: the copy, clean, in place of those of its address. -/
theorem State.sectors_writeBack (s : State) (id i : Nat) {x : Sector} (hx : x.dirty ≠ 0) :
    (s.writeBack id x).sectors i =
      if id = i then
        ((s.sectors id).filter fun y => !(decide (y.asid = x.asid ∧ y.va = x.va))) ++ [{ x with dirty := 0, tag := false }]
      else s.sectors i := by
  have l1 : (s.writeHome x).mem.l1 = s.mem.l1 := by
    have poisoned : ∀ (c : Bool) (t : State) (m : Map Bool),
        (if c then { t with mem := { t.mem with poison := m } } else t).mem.l1 = t.mem.l1 := fun c t m => by cases c <;> rfl
    unfold State.writeHome
    split
    · rfl
    · dsimp only
      rw [poisoned]
      exact (s.physWrite_keeps _ _).1.1
  have same : ∀ j, (s.writeHome x).sectors j = s.sectors j := fun j => by simp only [State.sectors, l1]
  simp only [State.writeBack, if_neg hx, State.putSector, State.dropSector, State.sectors_putSectors, same]
  split <;> rfl

/-- What the choices of `settle` can come to, for one copy that holds dirty bytes of a home sector: in no L1 is there
another, no L1 gets a further line, and the home is as it was, or has those dirty bytes. -/
structure Settling (s : State) (x : Sector) (t : State) : Prop where
  only : ∀ i ∈ s.l1Ids, ∀ y ∈ t.sectors i, y.pa = x.pa → y.dirty ≠ 0 → y = x
  lines : ∀ i, ∀ y ∈ t.sectors i, ∃ z ∈ s.sectors i, z.asid = y.asid ∧ z.va = y.va
  home : t.mem.read (32 * x.pa) 32 = s.mem.read (32 * x.pa) 32 ∨
    t.mem.read (32 * x.pa) 32 = overlay x.dirty x.data (s.mem.read (32 * x.pa) 32)

/-- One copy that may settle. -/
def State.settleCopy (s : State) (pa32 id : Nat) (x : Sector) : State :=
  if x.pa = pa32 && s.differs x then
    let (c, s) := s.choose
    if c then s.writeBack id x else s
  else s

theorem State.settle_eq (s : State) (pa32 : Nat) :
    s.settle pa32 = s.l1Ids.foldl (fun s id => (s.sectors id).foldl (fun s x => s.settleCopy pa32 id x) s) s := rfl

/-- A write-back of the copy is one that settles it. -/
theorem Settling.writeBack {s t : State} {x : Sector} {id : Nat} (h : Settling s x t) (hx : x.dirty ≠ 0)
    (hl : ∃ z ∈ s.sectors id, z.asid = x.asid ∧ z.va = x.va) : Settling s x (t.writeBack id x) where
  only i hi y hy hp hd := by
    rw [t.sectors_writeBack id i hx] at hy
    split at hy
    next hid =>
      rcases List.mem_append.mp hy with hy | hy
      · exact h.only i hi y (hid ▸ (List.mem_filter.mp hy).1) hp hd
      · rw [List.mem_singleton.mp hy] at hd
        exact absurd rfl hd
    next => exact h.only i hi y hy hp hd
  lines i y hy := by
    rw [t.sectors_writeBack id i hx] at hy
    split at hy
    next hid =>
      subst hid
      rcases List.mem_append.mp hy with hy | hy
      · exact h.lines id y (List.mem_filter.mp hy).1
      · rw [List.mem_singleton.mp hy]
        exact hl
    next => exact h.lines i y hy
  home := by
    have read : (t.writeBack id x).mem.read (32 * x.pa) 32 = (t.writeHome x).mem.read (32 * x.pa) 32 := by
      have put : ∀ (r : State) (y : Sector), (r.putSector id y).mem.bytes = r.mem.bytes := fun _ _ => rfl
      rw [State.writeBack, if_neg hx]
      exact MemSys.read_congr (put ..) _ _
    rw [read]
    rcases t.read_writeHome x with hw | hw <;> rw [hw]
    · exact h.home
    · rcases h.home with hh | hh <;> rw [hh]
      · exact .inr rfl
      · exact .inr (overlay_overlay ..)

theorem Settling.settleCopy {s t : State} {x y : Sector} {id : Nat} (h : Settling s x t)
    (hy : y.pa = x.pa → y.dirty ≠ 0 → y = x) (hl : ∃ z ∈ s.sectors id, z.asid = y.asid ∧ z.va = y.va) :
    Settling s x (t.settleCopy x.pa id y) := by
  have chosen : Settling s x t.choose.2 := ⟨h.only, h.lines, h.home⟩
  unfold State.settleCopy
  split
  next hc =>
    simp only [State.differs, Bool.and_eq_true, decide_eq_true_eq] at hc
    obtain ⟨hp, hd, -⟩ := hc
    obtain rfl := hy hp hd
    dsimp only
    split
    · exact chosen.writeBack hd hl
    · exact chosen
  next => exact h

theorem Settling.settle {s : State} {x : Sector} (h : Settling s x s) : Settling s x (s.settle x.pa) := by
  rw [State.settle_eq]
  refine List.foldlRecOn (motive := Settling s x) _ _ h fun t ht id hid => ?_
  exact List.foldlRecOn (motive := Settling s x) _ _ ht fun r hr y hy =>
    hr.settleCopy (ht.only id hid y hy) (ht.lines id y hy)

theorem State.settleCopy_clean {s : State} {p id : Nat} {x : Sector} (h : x.pa = p → x.dirty = 0) :
    s.settleCopy p id x = s := by
  refine if_neg fun hc => ?_
  simp only [State.differs, Bool.and_eq_true, decide_eq_true_eq] at hc
  obtain ⟨hp, hd, -⟩ := hc
  exact hd (h hp)

/-- Where no copy holds dirty bytes of a home sector, none settles. -/
theorem State.settle_clean {s : State} {p : Nat} (h : ∀ id ∈ s.l1Ids, ∀ x ∈ s.sectors id, x.pa = p → x.dirty = 0) :
    s.settle p = s := by
  rw [State.settle_eq]
  refine List.foldlRecOn (motive := (· = s)) _ _ rfl fun t ht id hid => ?_
  subst ht
  refine List.foldlRecOn (motive := (· = t)) _ _ rfl fun r hr y hy => ?_
  subst hr
  exact State.settleCopy_clean (h id hid y hy)

/-! ### A load that misses -/

/-- Where an L1 has room for a line, none is evicted. -/
theorem State.l1Room_of_room {s : State} {id line : Nat} {asid : BitVec 16}
    (h : (s.linesOf id (l1Array id line)).length < l1Lines) : s.l1Room id asid line = s := by
  unfold State.l1Room
  generalize l1Lines = n at *
  exact if_pos (by simp [h])

theorem nodup_eraseDups {α : Type} [BEq α] [LawfulBEq α] (l : List α) : l.eraseDups.Nodup := by
  induction h : l.length using Nat.strong_induction_on generalizing l with
  | _ n ih =>
    cases l with
    | nil => exact List.nodup_nil
    | cons a r =>
      rw [List.eraseDups_cons, List.nodup_cons]
      refine ⟨fun hm => ?_, ih _ ?_ _ rfl⟩
      · simpa using (List.mem_filter.mp (List.mem_eraseDups.mp hm)).2
      · subst h
        exact Nat.lt_succ_of_le (List.length_filter_le ..)

/-- An L1 that has only lines of another time has no more of them. -/
theorem State.length_linesOf {s t : State} {id : Nat} (a : Nat)
    (h : ∀ y ∈ t.sectors id, ∃ z ∈ s.sectors id, z.asid = y.asid ∧ z.va = y.va) :
    (t.linesOf id a).length ≤ (s.linesOf id a).length := by
  unfold State.linesOf
  refine (List.subperm_of_subset (nodup_eraseDups _) fun e he => ?_).length_le
  simp only [List.mem_eraseDups, List.mem_filterMap] at he ⊢
  obtain ⟨y, hy, he⟩ := he
  obtain ⟨z, hz, hasid, hva⟩ := h y hy
  exact ⟨z, hz, by rw [hasid, hva]; exact he⟩

/-- A load that misses, where there is room for the line: it takes the home's bytes as they are once copies have settled. -/
theorem State.l1Load_miss {s : State} {w : Who} {va pte : Word} {pa n : Nat} (ho : va.toNat % 32 + n ≤ 32)
    (hp : pa % 32 = va.toNat % 32) (hs : s.sector w.id w.asid (va.toNat / 32) = none)
    (hr : ((s.settle (pa / 32)).linesOf w.id (l1Array w.id (va.toNat / 128))).length < l1Lines) :
    (s.l1Load w va n (some (pa, pte))).1 = ((s.settle (pa / 32)).mem.read pa n, (s.settle (pa / 32)).mem.tag pa) ∧
      (s.l1Load w va n (some (pa, pte))).2.mem.bytes = (s.settle (pa / 32)).mem.bytes := by
  have base : pa / 32 * 32 + va.toNat % 32 = pa := by omega
  simp only [State.l1Load, hs, State.fillSector, State.l1Room_of_room hr]
  rw [MemSys.take_drop_read _ ho, base]
  exact ⟨rfl, rfl⟩

end Sys2Proof.Machine
end

section
namespace Sys2Proof.Machine

/-- Settles O18: the scratchpad by `laneTrap_scratchBad`, the L1 by what a hit and a miss take, and the order of the checks
by `capCheck_order` and the lowest failing lane. -/
theorem scratchpadAndSectorAccessesAreExact : Obligations.ScratchpadAndSectorAccessesAreExact := by
  unfold Obligations.ScratchpadAndSectorAccessesAreExact
  refine ⟨?_, ?_, ?_, ?_, ?_, ?_⟩
  · intro f s is i h en n off outside fails hi hlow
    have fails_iff : ∀ j, fails j ↔ en.e.getLsbD j = true ∧ (en.block.scratchCheck (en.scratchOff f j) n).isSome = true :=
      fun j => and_congr_right fun _ => (Block.scratchCheck_isSome ..).symm
    obtain ⟨x, hx⟩ := Option.isSome_iff_exists.mp ((fails_iff i).mp hi).2
    obtain ⟨m, bits, lds, sts⟩ := exec_scratch_fails h hi.1 hx fun j hj he => hlow j hj ((fails_iff j).mpr he)
    refine ⟨m, fun j hj => (bits j hj).trans (fails_iff j).symm, ?_⟩
    have trap := Block.scratchCheck_some hx
    subst trap
    exact ⟨lds, sts⟩
  · exact fun s w va l x hl _ hx hw hr => s.l1Load_l1Store w va l x hl hx hw hr
  · intro s w va pte pa n ho hp hs hroom r
    refine ⟨fun hclean => ?_, fun id x hid hx hxp hd huniq => ?_⟩
    · have settled := State.settle_clean hclean
      obtain ⟨load, bytes⟩ := State.l1Load_miss (pte := pte) ho hp hs (by rw [settled]; exact hroom)
      rw [settled] at load bytes
      exact ⟨congrArg Prod.fst load, congrArg Prod.snd load, bytes⟩
    · have start : Settling s x s :=
        ⟨fun i hi y hy hyp hyd => (huniq i hi y hy (hyp.trans hxp) hyd).2, fun i y hy => ⟨y, hy, rfl, rfl⟩, .inl rfl⟩
      have settled := start.settle
      rw [hxp] at settled
      obtain ⟨load, -⟩ := State.l1Load_miss (pte := pte) ho hp hs
        (Nat.lt_of_le_of_lt (State.length_linesOf _ (settled.lines w.id)) hroom)
      have base : 32 * x.pa + va.toNat % 32 = pa := by omega
      have bytes : r.1.1 = (((s.settle (pa / 32)).mem.read (32 * x.pa) 32).drop (va.toNat % 32)).take n := by
        rw [MemSys.take_drop_read _ ho, base]
        exact congrArg Prod.fst load
      rcases settled.home with home | home <;> rw [home] at bytes
      · rw [MemSys.take_drop_read _ ho, base] at bytes
        exact .inl bytes
      · exact .inr bytes
  · intro f s is row h en b traps
    refine ⟨?_, ?_⟩
    · intro n off m hin _ ht
      obtain ⟨hm, bits⟩ := Env.tornLanes_some ht
      exact ⟨hm, bits, exec_lds_torn h (fun i hi he =>
        Block.scratchCheck_none (hin i hi he).1 (hin i hi he).2.1 (hin i hi he).2.2) ht⟩
    · intro r at_ hw hh ht
      exact exec_lda_torn h hw hh ht
  · intro s w c need off n k hk hn va fails
    obtain ⟨o0, order⟩ := State.capCheck_order (s := s) (w := w) (c := c) (need := need) (off := off) hk hn
    refine ⟨fun h => checks_of_capCheck (o0 h), fun h => ?_⟩
    obtain ⟨o1, order⟩ := order h
    refine ⟨fun h => checks_of_capCheck (o1 h), fun h => ?_⟩
    obtain ⟨o2, order⟩ := order h
    refine ⟨fun h => checks_of_capCheck (o2 h), fun h => ?_⟩
    obtain ⟨o3, order⟩ := order h
    refine ⟨fun h => checks_of_capCheck (o3 h), fun h => ?_⟩
    obtain ⟨o4, order⟩ := order h
    refine ⟨fun h => checks_of_capCheck (o4 h), fun h => ?_⟩
    obtain ⟨o5, order⟩ := order h
    refine ⟨fun h => checks_of_capCheck (o5 h), fun h => ?_⟩
    obtain ⟨o6, order⟩ := order h
    exact ⟨fun h => checks_of_capCheck (o6 h), fun h => checks_of_translate (order h)⟩
  · intro f s is h en size n c lane off aoff ordered an s0 raises stops one
    refine ⟨fun good bad t hc => ?_, fun ho good bad t hc => ?_, fun ho good bad t hc => ?_, fun good bad t hc => ?_,
      fun x t hc => ?_, fun x t hc => ?_, fun x t hc => ?_⟩
    · refine raises_of_bad hc fun x hx => native_trap h (Env.globalLoad_of_bad hx (good := good) ?_)
      rw [acquired_eq]
      exact hc
    · exact raises_of_bad hc fun x hx => native_trap h ((if_neg (mt (ordered_iff f).mp ho)).trans
        (Env.globalStore_of_bad hx hc))
    · exact raises_of_bad hc fun x hx => native_trap h ((if_pos ((ordered_iff f).mpr ho)).trans
        (Env.releaseStore_of_bad hx hc))
    · exact raises_of_bad hc fun x hx => exec_atom_bad h hx hc
    · exact exec_ldk_bad h hc
    · exact exec_cld_bad h hc
    · exact exec_cst_bad h hc

end Sys2Proof.Machine
end

section
/-! Scheduling events: placement, deadlines, pre-emption, save and resume, watchdogs, and node groups (R25, R32, R39,
R41, R320, R323 to R325, R332, R337 to R342). -/
namespace Sys2Proof.Machine

/-! ### Placement -/

theorem exec_blockPlacement {s : State} {k core : Nat} {l : Launch} {r : List (Nat × Launch)} (hc : s.ckpt = none)
    (ho : s.placeOrder = (k, l) :: r) (hh : ∀ e ∈ s.placeOrder, e.2.holds = false)
    (hb : s.bestCore (s.nextShape k l) = some core) :
    exec .blockPlacement s = .next (match s.nextSaved k l with
      | some u => s.placeSaved k l u core
      | none => s.placeBlock k l core) := by
  have none_holds : s.placeOrder.find? (fun e => e.2.holds) = none :=
    List.find?_eq_none.mpr fun e he => by rw [hh e he]; decide
  refine congrArg Host.Outcome.next ?_
  simp only [hc, Option.isSome_none, Bool.false_eq_true, if_false, none_holds]
  rw [ho]
  simp only [State.placeFirst, hb]
  cases s.nextSaved k l <;> rfl

theorem State.births_takeCore (s : State) (x : Shape) (core : Nat) : (s.takeCore x core).births = s.births := by
  have evict : ∀ (t : State) (id : Nat) (p : Sector → Bool), (t.evictWhere id p).births = t.births :=
    fun t id p => (congrArg State.births (t.outer_evictWhere id p) :)
  have refuse : ∀ (t : State) (l : List Nat),
      (l.foldl (fun s id => s.evictWhere id fun _ => true) t).births = t.births :=
    foldl_keeps (g := State.births) fun t id => evict t id _
  have fresh : ∀ t : State, (t.freshL1 x.ctx core).births = t.births := fun t => by
    unfold State.freshL1
    split
    · exact evict ..
    · rfl
  grind [State.takeCore, State.modCtx]

/-- The keys of the warps of one block are distinct. -/
theorem warpKey_inj {b v w : Nat} : warpKey b v = warpKey b w ↔ v = w := by
  simp only [warpKey]
  omega

/-- A warp listed at each key of a block. -/
theorem find_warps (g : Nat → Warp) (b n w : Nat) (hw : w < n) (m : Map Warp) :
    mapFind ((List.range n).foldl (fun m w => mapPut m (warpKey b w) (g w)) m) (warpKey b w) = some (g w) := by
  induction n with
  | zero => omega
  | succ n ih =>
    rw [List.range_succ, List.foldl_append]
    simp only [List.foldl_cons, List.foldl_nil, mapFind_put, warpKey_inj]
    split
    next h => rw [h]
    next h => exact ih (by omega)

/-- The warps of a block that is placed. -/
theorem State.find_placeBlock (s : State) (k core : Nat) (l : Launch) {w : Nat} (hw : w < l.shape.wpb) :
    ∃ b born clk, mapFind (s.placeBlock k l core).warps (warpKey s.births w) = some (l.warp b w born clk) := by
  have listed := find_warps (fun w => l.warp (if l.node.isSome then 0 else l.next) w
    ((s.takeCore l.shape core).births + 1 + w) (s.takeCore l.shape core).clk) (s.takeCore l.shape core).births l.shape.wpb w hw
    (s.takeCore l.shape core).warps
  rw [← s.births_takeCore l.shape core]
  exact ⟨_, _, _, listed⟩

/-- A warp as a launch starts it. -/
theorem Launch.warp_starts (l : Launch) (b w born clk : Nat) :
    let x := l.warp b w born clk
    x.lanes = BitVec.allOnes 64 ∧ x.s0.live = true ∧ x.s0.pc = (l.cap 0 0).base ∧ x.s0.mask = BitVec.allOnes 64 ∧
      x.s0.rpc = BitVec.allOnes 64 ∧ x.s1.live = false ∧ x.getC 0 = regCap (l.cap 0 0) ∧ x.getC 1 = regCap (l.cap 4 1) ∧
      x.dstkSp = (x.getC 15).base :=
  ⟨rfl, rfl, rfl, rfl, rfl, rfl, l.warp_getC b w born clk 0, l.warp_getC b w born clk 1, rfl⟩

/-! ### Deadlines of a launch -/

section
variable {s : State} {k : Nat} {l : Launch} (hl : mapFind s.launches k = some l)
include hl

theorem exec_placementWaitExpiry {t : Nat} (ht : l.waitSince = some t) (hc : t + 2 ^ 20 ≤ s.clk) :
    exec (.placementWaitExpiry k) s = .next { s with launches := mapPut s.launches k { l with holds := true } } := by
  change execPlacementWaitExpiry k s = _
  simp only [execPlacementWaitExpiry, mapModify, hl, ht, hc, if_true]

theorem exec_startBarrierTimeout {t : Nat} (ht : l.stage = .waiting t) (hc : t + 2 ^ 27 ≤ s.clk)
    (hm : l.member = true) :
    exec (.startBarrierTimeout k) s = .next (if l.origin then s.cancelLaunch k l 7
      else (s.discardLaunch k l 7).startTo (l.field 12 0 16) l.opnum l.fromMod startRefuse) := by
  change execStartBarrierTimeout k s = _
  simp only [execStartBarrierTimeout, hl, ht, hc, hm, and_self, if_true]

variable {c : Context} (hc : mapFind s.ctxs l.ctx = some c)
include hc

theorem exec_launchDeadline :
    (l.deadline = some 0 → c.halted = false →
        exec (.launchDeadline k) s = .next (s.forcedReset l.ctx 2 l.name noBlockD0 false none)) ∧
      (c.halted = true → exec (.launchDeadline k) s = .next s) := by
  change (_ → _ → execLaunchDeadline k s = _) ∧ (_ → execLaunchDeadline k s = _)
  constructor
  · intro hd hh
    simp only [execLaunchDeadline, hl, hc, Option.any_some, hh, hd, Bool.not_false, and_self, if_true]
  · intro hh
    simp only [execLaunchDeadline, hl, hc, Option.any_some, hh, Bool.not_true, Bool.false_eq_true, and_false, if_false]

/-- A time slice that has run out: held while the context is stopped, and else taken up. -/
theorem exec_timeSliceExpiry {core n : Nat} (hn : mapFind l.slice core = some n) (h0 : l.tslice ≠ 0)
    (hle : l.tslice ≤ n) :
    exec (.timeSliceExpiry k core) s = .next (if c.stopped then s.modCtx l.ctx fun c => { c with sliceHeld := some (k, core) }
      else s.expireSlice k core l) := by
  change execTimeSliceExpiry k core s = _
  have due : ¬(l.tslice = 0 ∨ n < l.tslice) := not_or.mpr ⟨h0, Nat.not_lt.mpr hle⟩
  simp only [execTimeSliceExpiry, hl, hn, if_neg due, hc]

end

theorem State.expireSlice_alone {s : State} {k core : Nat} {l : Launch}
    (h : ∀ w ∈ s.placeOrder, w.2.ctx = l.ctx ∨ w.2.qprio < l.qprio) :
    s.expireSlice k core l = { s with launches := mapPut s.launches k { l with slice := mapPut l.slice core 0 } } := by
  refine if_neg fun hx => ?_
  obtain ⟨w, hw, hx⟩ := List.any_eq_true.mp hx
  simp only [Bool.and_eq_true, decide_eq_true_eq] at hx
  obtain ⟨⟨hne, hle⟩, -⟩ := hx
  exact (h w hw).elim hne (Nat.not_lt.mpr hle)

theorem State.expireSlice_needed {s : State} {k core : Nat} {l : Launch}
    (h : ∃ w ∈ s.placeOrder, w.2.ctx ≠ l.ctx ∧ l.qprio ≤ w.2.qprio ∧ s.needs l.ctx core (s.nextShape w.1 w.2) = true) :
    s.expireSlice k core l = s.startPreempt l.ctx (1024 * l.savedl) none false := by
  obtain ⟨w, hw, hne, hle, hn⟩ := h
  refine if_pos (List.any_eq_true.mpr ⟨w, hw, ?_⟩)
  rw [decide_eq_true ⟨hne, hle⟩, hn]
  rfl

/-! ### Pre-emption and save -/

section
variable {s : State} {n : Nat} {c : Context} (hc : mapFind s.ctxs n = some c)
include hc

theorem exec_drainDeadline {p : Preempt} (hp : c.preempt = some p) (hl : p.level = 1) (hd : p.drain = 0) :
    exec (.drainDeadline n) s = .next (s.modCtx n fun c => { c with preempt := some { p with level := 2 } }) := by
  change execDrainDeadline n s = _
  simp only [execDrainDeadline, hc, hp, hl, hd, and_self, if_true]

theorem exec_saveDeadline {p : Preempt} (hp : c.preempt = some p) (hl : p.level = 2) (hd : p.save = 0) :
    exec (.saveDeadline n) s = .next (s.forcedReset n 5 p.packet noBlockD0 false none) := by
  change execSaveDeadline n s = _
  simp only [execSaveDeadline, hc, hp, hl, hd, and_self, if_true]

theorem exec_preciseSave_waits {p : Preempt} (hp : c.preempt = some p)
    (hg : ∃ g ∈ s.fab.gridOps, g.2.ctx = n ∧ g.2.fn ≠ 1) :
    exec (.preciseSave n) s = .next s := by
  change execPreciseSave n s = _
  obtain ⟨g, hm, hg⟩ := hg
  have waits : (decide (p.level ≠ 2) || s.fab.gridOps.any fun g => decide (g.2.ctx = n ∧ g.2.fn ≠ 1)) = true := by
    rw [List.any_eq_true.mpr ⟨g, hm, decide_eq_true hg⟩, Bool.or_true]
  simp only [execPreciseSave, hc, hp]
  rw [if_pos waits]

/-- The save header of a context that is saved. -/
def saveHead (n : Nat) (d : Context) (p : Preempt) (t : State) (body : List Byte) : SaveHeader :=
  { status := if !p.halts.isEmpty then 2 else 1, slice := d.sliceHeld.isSome, bkpt := !p.halts.isEmpty, ctx := n
    blocks := (t.ctxBlocks n).length + d.unplaced.length, slen := body.length }

theorem exec_preciseSave {p : Preempt} (hp : c.preempt = some p) (hl : p.level = 2)
    (hg : ∀ g ∈ s.fab.gridOps, g.2.ctx = n → g.2.fn = 1) :
    let t := s.stopContext n c
    let d := (mapFind t.ctxs n).getD c
    let body := t.savedState n d p.halts
    let v := (t.saveWrite d 0x100 (List.replicate 3840 0)).saveWrite d 0x9000 body
    let u := State.saveWrite (v.leaveCores n d) d 0 ((saveHead n d p t body).bytes (v.leaveCores n d).clk)
    let r := u.modCtx n fun x => { x with parked := !p.requeue, resumeBy := if p.requeue then p.packet else none }
    exec (.preciseSave n) s = .next (
      if d.savelen < 0x9000 + body.length then t.forcedReset n 7 p.packet noBlockD0 false none
      else if t.anyBad d.save 0x1000 || t.anyBad (d.save + 0x9000) body.length then
        t.forcedReset n 11 p.packet noBlockD0 false none
      else if p.ckpt then { r with ckpt := r.ckpt.map fun k => { k with saved := k.saved ++ [n] } } else r) := by
  intro t d body v u r
  change execPreciseSave n s = _
  have goes : ¬(decide (p.level ≠ 2) || s.fab.gridOps.any fun g => decide (g.2.ctx = n ∧ g.2.fn ≠ 1)) = true := by
    simpa [hl] using fun a b hm hn => hg (a, b) hm hn
  simp only [execPreciseSave, hc, hp]
  rw [if_neg goes]
  rfl

end

theorem SaveHeader.length_bytes (h : SaveHeader) (clk : Nat) : (h.bytes clk).length = 256 := by
  simp only [SaveHeader.bytes, List.length_append, List.length_flatMap, length_leBytes, List.map_const',
    List.sum_replicate,
    List.length_cons, List.length_nil, List.length_replicate, smul_eq_mul]

/-! ### Resume -/

/-- Restoring a launch record leaves blocks and contexts. -/
theorem State.restoreLaunch_keeps (s : State) (a : Area) (ctx i key : Nat) (word : Word) :
    (s.restoreLaunch a ctx i key word).blocks = s.blocks ∧ (s.restoreLaunch a ctx i key word).ctxs = s.ctxs := by
  have translated : ∀ (va : Word), (s.translate none ctx va { w := true } 1).2.blocks = s.blocks ∧
      (s.translate none ctx va { w := true } 1).2.ctxs = s.ctxs := fun va =>
    ⟨State.blocks_of_outer (s.outer_translate ..), State.ctxs_of_outer (s.outer_translate ..)⟩
  grind [State.restoreLaunch]

/-- The state of a context whose saved blocks wait to be placed. -/
def State.resuming (s : State) (n : Nat) (c : Context) (a : Area) (bs : List SavedBlock) : State :=
  (c.savedLaunches.zip (List.range c.savedLaunches.length)).foldl (fun s x => s.restoreLaunch a n x.2 x.1.1 x.1.2)
    (s.modCtx n fun x => { x with
      saved := false, sbars := a.sbars
      unplaced := bs.map fun b =>
        { launch := (c.savedLaunches.getD b.launch (0, 0)).1, idx := b.idx, off := b.off, wpb := b.wpb, vregs := b.vregs
          spu := b.spu, accb := b.accb } })

/-- The resume of a context from its save area `a`, whose lines are read up to `limit`. -/
def State.resumeFrom (s : State) (n : Nat) (c : Context) (a : Area) (limit : Nat) : State :=
  let m := c.savedLaunches.length
  let fail := fun (code : Nat) => s.forcedReset n code c.resumeBy noBlockD0 false none
  if s.anyBad c.save 0x1000 || s.anyBad (c.save + 0x9000) (limit - 0x9000) then fail 0x0B
  else if !a.headerOk || !(a.launchesOk m) then fail 0x09
  else
    match a.blocks a.vregs limit (a.dw 0x9008) (0x9100 + 256 * m) with
    | none => fail 0x09
    | some bs =>
      if !(bs.all fun b => a.blockOk m b && b.warps.all fun w => a.forerunnerOk s n w.2) then fail 0x09
      else if bs.isEmpty then (s.resuming n c a bs).endResume n c else s.resuming n c a bs

section
variable {s : State} {n : Nat} {c : Context} (hc : mapFind s.ctxs n = some c)
include hc

theorem State.find_resuming (a : Area) (bs : List SavedBlock) :
    (s.resuming n c a bs).blocks = s.blocks ∧
      mapFind (s.resuming n c a bs).ctxs n = some { c with
        saved := false, sbars := a.sbars
        unplaced := bs.map fun b =>
          { launch := (c.savedLaunches.getD b.launch (0, 0)).1, idx := b.idx, off := b.off, wpb := b.wpb, vregs := b.vregs
            spu := b.spu, accb := b.accb } } := by
  have restored : ∀ (t : State) (l : List ((Nat × Word) × Nat)),
      (l.foldl (fun s x => s.restoreLaunch a n x.2 x.1.1 x.1.2) t).blocks = t.blocks ∧
      (l.foldl (fun s x => s.restoreLaunch a n x.2 x.1.1 x.1.2) t).ctxs = t.ctxs := fun t l =>
    ⟨foldl_keeps (g := State.blocks) (fun t x => (t.restoreLaunch_keeps ..).1) t l,
      foldl_keeps (g := State.ctxs) (fun t x => (t.restoreLaunch_keeps ..).2) t l⟩
  obtain ⟨hb, hx⟩ := restored (s.modCtx n _) (c.savedLaunches.zip (List.range c.savedLaunches.length))
  refine ⟨hb, ?_⟩
  unfold State.resuming
  rw [hx, State.modCtx_ctxs, mapFind_modify, if_pos rfl, hc]
  rfl

theorem exec_contextResume_waits (h : c.saved = false ∨ c.parked = true) : exec (.contextResume n) s = .next s := by
  change execContextResume n s = _
  have waits : (!c.saved || c.parked || c.dead || c.preempt.isSome || s.ckpt.isSome) = true := by
    rcases h with h | h <;> simp [h]
  simp only [execContextResume, hc]
  rw [if_pos waits]

/-- What reading the save area of a context that is not parked tells its resume: the rest of it is judged by the area
alone. -/
theorem exec_contextResume_ready (h1 : c.saved = true) (h2 : c.parked = false) (h3 : c.dead = false)
    (h4 : c.preempt = none)
    (h5 : s.ckpt = none) :
    exec (.contextResume n) s = .next (s.resumeFrom n c (fun o n => s.mem.read (c.save + o) n)
      (min c.savelen (0x9000 + (s.readDw (c.save + 24)).toNat))) := by
  change execContextResume n s = _
  have goes : ¬(!c.saved || c.parked || c.dead || c.preempt.isSome || s.ckpt.isSome) = true := by
    simp [h1, h2, h3, h4, h5]
  unfold execContextResume
  rw [hc]
  refine congrArg Host.Outcome.next ?_
  dsimp only
  rw [if_neg goes]
  generalize min c.savelen _ = limit
  generalize (fun o n => s.mem.read (c.save + o) n : Area) = a
  unfold State.resumeFrom State.resuming
  rfl

end

section
variable {s : State} {n limit : Nat} {c : Context} {a : Area}

theorem State.resumeFrom_bad (bad : (s.anyBad c.save 0x1000 || s.anyBad (c.save + 0x9000) (limit - 0x9000)) = true) :
    s.resumeFrom n c a limit = s.forcedReset n 11 c.resumeBy noBlockD0 false none := if_pos bad

theorem State.resumeFrom_header (good : ¬(s.anyBad c.save 0x1000 || s.anyBad (c.save + 0x9000) (limit - 0x9000)) = true)
    (h : a.headerOk = false ∨ a.launchesOk c.savedLaunches.length = false) :
    s.resumeFrom n c a limit = s.forcedReset n 9 c.resumeBy noBlockD0 false none := by
  refine (if_neg good).trans (if_pos ?_)
  rcases h with h | h <;> simp [h]

variable {bs : List SavedBlock}
  (good : ¬(s.anyBad c.save 0x1000 || s.anyBad (c.save + 0x9000) (limit - 0x9000)) = true)
  (header : a.headerOk = true) (launches : a.launchesOk c.savedLaunches.length = true)
  (read : a.blocks a.vregs limit (a.dw 0x9008) (0x9100 + 256 * c.savedLaunches.length) = some bs)
include good header launches read

theorem State.resumeFrom_blocks :
    s.resumeFrom n c a limit =
      if !(bs.all fun b => a.blockOk c.savedLaunches.length b && b.warps.all fun w => a.forerunnerOk s n w.2) then
        s.forcedReset n 9 c.resumeBy noBlockD0 false none
      else if bs.isEmpty then (s.resuming n c a bs).endResume n c else s.resuming n c a bs := by
  have valid : ¬(!a.headerOk || !(a.launchesOk c.savedLaunches.length)) = true := by simp [header, launches]
  refine ((if_neg good).trans (if_neg valid)).trans ?_
  rw [read]

theorem State.resumeFrom_blockBad
    (h : ∃ b ∈ bs, a.blockOk c.savedLaunches.length b = false ∨ ∃ w ∈ b.warps, a.forerunnerOk s n w.2 = false) :
    s.resumeFrom n c a limit = s.forcedReset n 9 c.resumeBy noBlockD0 false none := by
  rw [State.resumeFrom_blocks good header launches read]
  refine if_pos ?_
  obtain ⟨b, hb, h⟩ := h
  simp only [Bool.not_eq_true', List.all_eq_false, Bool.and_eq_true, List.all_eq_true, not_and, not_forall]
  refine ⟨b, hb, fun ok => ?_⟩
  rcases h with h | ⟨w, hw, h⟩
  · simp [h] at ok
  · exact ⟨w, hw, by simp [h]⟩

theorem State.resumeFrom_placed
    (h : ∀ b ∈ bs, a.blockOk c.savedLaunches.length b = true ∧ ∀ w ∈ b.warps, a.forerunnerOk s n w.2 = true) :
    s.resumeFrom n c a limit = if bs.isEmpty then (s.resuming n c a bs).endResume n c else s.resuming n c a bs := by
  rw [State.resumeFrom_blocks good header launches read]
  refine if_neg ?_
  simpa using h

end

/-- Once the last saved block is placed, the context keeps nothing of its save. -/
theorem State.find_endResume {s : State} {n : Nat} {c d : Context} (hd : mapFind s.ctxs n = some d)
    (hs : c.sliceHeld = none) :
    mapFind (s.endResume n c).ctxs n =
      some { d with kept := [], savedLaunches := [], unplaced := [], resumeBy := none } := by
  unfold State.endResume
  rw [hs]
  generalize hp : s.physWrite _ _ = p
  have kept : p.ctxs = s.ctxs := hp ▸ State.ctxs_of_outer (s.outer_physWrite ..)
  change mapFind (State.modCtx p n _).ctxs n = _
  rw [State.modCtx_ctxs, mapFind_modify, if_pos rfl, kept, hd]
  rfl

section
variable {s : State} {n limit : Nat} {c : Context} {a : Area} {bs : List SavedBlock} (hc : mapFind s.ctxs n = some c)
  (good : ¬(s.anyBad c.save 0x1000 || s.anyBad (c.save + 0x9000) (limit - 0x9000)) = true)
  (header : a.headerOk = true) (launches : a.launchesOk c.savedLaunches.length = true)
  (read : a.blocks a.vregs limit (a.dw 0x9008) (0x9100 + 256 * c.savedLaunches.length) = some bs)
include hc good header launches read

/-- A resume with blocks to place leaves them waiting in the context. -/
theorem State.resumeFrom_waiting (some_block : bs ≠ [])
    (h : ∀ b ∈ bs, a.blockOk c.savedLaunches.length b = true ∧ ∀ w ∈ b.warps, a.forerunnerOk s n w.2 = true) :
    (s.resumeFrom n c a limit).blocks = s.blocks ∧ ∃ d, mapFind (s.resumeFrom n c a limit).ctxs n = some d ∧
      d.saved = false ∧ d.sbars = a.sbars ∧
      d.unplaced.map (fun u => (u.idx, u.wpb, u.spu, u.accb)) = bs.map fun b => (b.idx, b.wpb, b.spu, b.accb) := by
  rw [State.resumeFrom_placed good header launches read h, if_neg (mt List.isEmpty_iff.mp some_block)]
  obtain ⟨blocks, found⟩ := s.find_resuming hc a bs
  refine ⟨blocks, _, found, rfl, rfl, ?_⟩
  rw [List.map_map]
  rfl

/-- A resume with no block to place ends at once. -/
theorem State.resumeFrom_over (no_block : bs = []) (slice : c.sliceHeld = none) :
    ∃ d, mapFind (s.resumeFrom n c a limit).ctxs n = some d ∧
      d.saved = false ∧ d.unplaced = [] ∧ d.kept = [] ∧ d.savedLaunches = [] := by
  subst no_block
  rw [State.resumeFrom_placed good header launches read (by simp), if_pos List.isEmpty_nil]
  obtain ⟨-, found⟩ := s.find_resuming hc a []
  exact ⟨_, State.find_endResume found slice, rfl, rfl, rfl, rfl⟩

end

/-! ### Watchdogs -/

section
variable {s : State} {n : Nat} {c : Context} (hc : mapFind s.ctxs n = some c)
include hc

theorem exec_hangWatchdog (hh : s.hangDue n c = true) (hb : s.barrierDue n c = none) :
    (c.preempt = none → exec (.hangWatchdog n) s = .next (s.forcedReset n 3 none noBlockD0 true none)) ∧
      ∀ p, c.preempt = some p → p.level = 2 →
        exec (.hangWatchdog n) s = .next (s.forcedReset n 6 p.packet noBlockD0 true none) := by
  change (_ → execHangWatchdog n s = _) ∧ ∀ p, _ → _ → execHangWatchdog n s = _
  constructor
  · intro hp
    simp only [execHangWatchdog, hc, hh, hb, hp, Bool.not_true, Bool.false_eq_true, Option.isSome_none, if_false]
  · intro p hp hl
    simp only [execHangWatchdog, hc, hh, hb, hp, hl, Bool.not_true, Bool.false_eq_true, Option.isSome_none,
      if_false, if_true]

theorem exec_barrierTimeoutWatchdog {key obj : Nat} (hb : s.barrierDue n c = some (key, obj)) :
    exec (.barrierTimeoutWatchdog n) s = .next (s.forcedReset n 4 (s.launchPacket (s.block key).launch)
      (s.blockD0 key (s.timeoutWarp key obj)) true (some (key, obj))) := by
  change execBarrierTimeoutWatchdog n s = _
  simp only [execBarrierTimeoutWatchdog, hc, hb]

theorem exec_barrierTimeoutWatchdog_idle (hb : s.barrierDue n c = none) : exec (.barrierTimeoutWatchdog n) s = .next s := by
  change execBarrierTimeoutWatchdog n s = _
  simp only [execBarrierTimeoutWatchdog, hc, hb]

end

/-! ### Node groups -/

section
variable {s t : State} {k m : Nat} {n : Node} (hn : mapFind s.nodes k = some n) (hg : s.groupReady n = (m, t))
include hn hg

theorem exec_nodeGroupLaunch :
    exec (.nodeGroupLaunch k) s = .next (if n.grp ≤ m then t.startGroup k n n.grp else t) := by
  change execNodeGroupLaunch k s = _
  simp only [execNodeGroupLaunch, hn, hg]

theorem exec_nodeGroupTimer {since : Nat} (hr : mapFind n.ready n.next = some since) (h0 : n.timer ≠ 0)
    (hd : since + n.timer ≤ s.clk) (hm : 1 ≤ m) : exec (.nodeGroupTimer k) s = .next (t.startGroup k n m) := by
  change execNodeGroupTimer k s = _
  have some_ready : m ≠ 0 := by omega
  simp only [execNodeGroupTimer, hn, hr, h0, hd, hg, some_ready, ne_eq, not_false_eq_true, and_self, if_true, if_false]

end

/-! ### The scheduling events -/

/-- Settles O48, an event at a time. -/
theorem schedulingEventsComplete : Obligations.SchedulingEventsComplete := by
  refine ⟨fun s h => ?_, fun s k core l r hc ho hh hb => ?_, fun s k l hl => ?_, ?_, fun s t k m n hn hg => ?_⟩
  · exact congrArg Host.Outcome.next (if_pos h)
  · have placed := exec_blockPlacement hc ho hh hb
    refine ⟨fun u hu => by rw [placed, hu], fun hu => ⟨by rw [placed, hu], fun _ w hw => ?_⟩⟩
    obtain ⟨b, born, clk, listed⟩ := s.find_placeBlock k core l hw
    exact ⟨_, listed, l.warp_starts b w born clk⟩
  · refine ⟨fun t ht h => exec_placementWaitExpiry hl ht h, fun t ht h hm => exec_startBarrierTimeout hl ht h hm,
      fun c hc => ⟨(exec_launchDeadline hl hc).1, (exec_launchDeadline hl hc).2, fun core n hn h0 hle => ?_⟩⟩
    have expired := exec_timeSliceExpiry hl hc hn h0 hle
    refine ⟨fun hs => by rw [expired, if_pos hs], fun hs h => ?_, fun hs h => ?_⟩
    · rw [expired, hs, if_neg Bool.false_ne_true, State.expireSlice_alone h]
    · rw [expired, hs, if_neg Bool.false_ne_true, State.expireSlice_needed h]
  · intro s n c hc ends
    refine ⟨fun p hp => ⟨fun hl hd => exec_drainDeadline hc hp hl hd, fun hl hd => exec_saveDeadline hc hp hl hd,
      fun _ hg => exec_preciseSave_waits hc hp hg, fun hl hg => ?_⟩, exec_contextResume_waits hc, ?_,
      fun hh hb => exec_hangWatchdog hc hh hb, fun _ _ hb => exec_barrierTimeoutWatchdog hc hb,
      exec_barrierTimeoutWatchdog_idle hc⟩
    · intro t d body bad
      have saved := exec_preciseSave hc hp hl hg
      refine ⟨fun room hb => ?_, fun short => ?_, fun room hb hk => ?_⟩
      · rw [saved, if_neg (Nat.not_lt.mpr room)]
        exact congrArg Host.Outcome.next (if_pos hb)
      · rw [saved]
        exact congrArg Host.Outcome.next (if_pos short)
      · have ended := saved.trans (congrArg Host.Outcome.next ((if_neg (Nat.not_lt.mpr room)).trans
          ((if_neg hb).trans (if_neg (ne_true_of_eq_false hk)))))
        exact ⟨_, ended, _, _, rfl, SaveHeader.length_bytes .., rfl⟩
    · intro h1 h2 h3 h4 h5 a limit m bad
      have resumed : exec (.contextResume n) s = .next (s.resumeFrom n c a limit) := exec_contextResume_ready hc h1 h2 h3 h4 h5
      exact ⟨fun hb => resumed.trans (congrArg Host.Outcome.next (State.resumeFrom_bad hb)),
        fun hb hh => resumed.trans (congrArg Host.Outcome.next (State.resumeFrom_header hb hh)),
        fun bs hb hh hm hbs =>
          ⟨fun h => resumed.trans (congrArg Host.Outcome.next (State.resumeFrom_blockBad hb hh hm hbs h)),
            fun hne h => ⟨_, resumed, State.resumeFrom_waiting hc hb hh hm hbs hne h⟩,
            fun he hs => ⟨_, (State.resumeFrom_over hc hb hh hm hbs he hs).imp fun d hd => ⟨resumed, hd⟩⟩⟩⟩
  · refine ⟨fun h => ?_, fun h => ?_, fun since hr h0 hd hm => exec_nodeGroupTimer hn hg hr h0 hd hm⟩
    · rw [exec_nodeGroupLaunch hn hg, if_pos h]
    · rw [exec_nodeGroupLaunch hn hg, if_neg (Nat.not_le.mpr h)]

end Sys2Proof.Machine
end

section
/-! The canonical form of memory as an invariant: what it says of a result, and the folds that keep it. In the sections
after this one each operation of the model has one lemma, that it keeps memory canonical, which rests on the lemmas of
the operations that it calls. Few operations write bytes themselves: `MemSys.store`, `MemSys.setByte` and `mapClear`,
at the home slices, and a boot, whose memory starts anew. -/
namespace Sys2Proof.Machine

/-- The state that an instruction's body leaves has canonical memory. -/
def Res.memOk : Res → Prop
  | .next s => s.memOk
  | .jump s _ => s.memOk
  | .moved s => s.memOk
  | .trap s _ => s.memOk
  | .wait s _ => s.memOk
  | .halt s => s.memOk

/-- The state that a packet leaves has canonical memory. -/
def PEnd.memOk : PEnd → Prop
  | .retire s => s.memOk
  | .stay s _ => s.memOk
  | .move s _ _ => s.memOk
  | .halt s _ => s.memOk
  | .stop s _ _ _ _ => s.memOk

/-- The next state, where there is one, has canonical memory. -/
def Out.memOk : Out → Prop
  | .next s => s.memOk
  | _ => True

section
variable {α β : Type}

theorem memOk_foldl {f : State → α → State} {s : State} (h : s.memOk) (hf : ∀ t x, t.memOk → (f t x).memOk)
    (l : List α) : (l.foldl f s).memOk :=
  List.foldlRecOn (motive := State.memOk) l f h fun t ht x _ => hf t x ht

theorem memOk_foldl_fst {f : State × β → α → State × β} {a : State × β} (h : a.1.memOk)
    (hf : ∀ b x, b.1.memOk → (f b x).1.memOk) (l : List α) : (l.foldl f a).1.memOk :=
  List.foldlRecOn (motive := fun b => b.1.memOk) l f h fun b hb x _ => hf b x hb

theorem memOk_foldl_snd {f : β × State → α → β × State} {a : β × State} (h : a.2.memOk)
    (hf : ∀ b x, b.2.memOk → (f b x).2.memOk) (l : List α) : (l.foldl f a).2.memOk :=
  List.foldlRecOn (motive := fun b => b.2.memOk) l f h fun b hb x _ => hf b x hb

theorem Restore.memOk_foldl {f : Restore → α → Restore} {r : Restore} (h : r.s.memOk)
    (hf : ∀ t x, t.s.memOk → (f t x).s.memOk) (l : List α) : (l.foldl f r).s.memOk :=
  List.foldlRecOn (motive := fun t => t.s.memOk) l f h fun t ht x _ => hf t x ht

end

end Sys2Proof.Machine
end

section
/-! Memory stays canonical (R10, R256, R257, R261): memory, translation, the caches, the divergence stack, and the end
of an instruction. -/
namespace Sys2Proof.Machine

/-! ### Warps, blocks, cores and contexts -/

section
variable {s : State} (h : s.memOk)
include h

theorem State.memOk_putWarp (key w) : (s.putWarp key w).memOk := h

theorem State.memOk_modWarp (key f) : (s.modWarp key f).memOk := h

theorem State.memOk_modBlock (key f) : (s.modBlock key f).memOk := h

theorem State.memOk_putCore (n c) : (s.putCore n c).memOk := h

theorem State.memOk_modCtx (n f) : (s.modCtx n f).memOk := h

theorem State.memOk_leaveUnits (b) : (s.leaveUnits b).memOk := by grind [State.leaveUnits, State.memOk_putCore]

theorem State.memOk_choose : s.choose.2.memOk := h

theorem State.memOk_freeWord : s.freeWord.2.memOk := h

theorem State.memOk_freeBytes (n) : (s.freeBytes n).2.memOk := by
  induction n generalizing s with
  | zero => exact h
  | succ n ih => exact ih (State.memOk_freeWord h)

theorem State.memOk_post (e) : (s.post e).memOk := h

end

/-! ### Memory at the home slices -/

section
variable {s : State} (h : s.memOk)
include h

omit h in
theorem MemSys.memOk_setTag {m : MemSys} (hm : m.wf = true) (pa t) : (m.setTag pa t).wf = true := hm

theorem State.memOk_putRegion (off l) : (s.putRegion off l).memOk := MemSys.wf_store l _ _ h

theorem State.memOk_putOwner (f o) : (s.putOwner f o).memOk := by
  grind [State.putOwner, State.memOk, State.memOk_putRegion]

theorem State.memOk_spoil (sec bad) : (s.spoil sec bad).memOk := by
  unfold State.spoil
  split
  · exact h
  · exact MemSys.wf_setByte _ _ _ (State.memOk_freeWord h)

theorem State.memOk_zeroLines (pa n) : (s.zeroLines pa n).memOk := by
  refine memOk_foldl ?_ (fun t e ht => State.memOk_spoil ht ..) _
  exact mapWf_filter _ h

theorem State.memOk_cleanLines (pa n) : (s.cleanLines pa n).memOk := h

theorem State.memOk_sealHusk (husk) : (s.sealHusk husk).memOk := h

theorem State.memOk_dropCopies (frame) : (s.dropCopies frame).memOk := h

theorem State.memOk_claim (frame husk ctx) : (s.claim frame husk ctx).memOk := by
  grind [State.claim, State.memOk, State.memOk_zeroLines, State.memOk_dropCopies, State.memOk_putOwner]

theorem State.memOk_setStatus (x) : (s.setStatus x).memOk := h

theorem State.memOk_msi (v) : (s.msi v).memOk := h

theorem State.memOk_trimL2 : s.trimL2.memOk := by
  simpa only [State.memOk, MemSys.wf, s.trimL2_keeps.2] using h

theorem State.memOk_breakLine (line) : (s.breakLine line).memOk := h

theorem State.memOk_putHome (pa l) : (s.putHome pa l).memOk := by
  grind [State.putHome, State.memOk_trimL2, State.memOk_put]

theorem State.memOk_errorRecord (cls code ctx p d0 d1) : (s.errorRecord cls code ctx p d0 d1).memOk :=
  (s.errorRecord_keeps cls code ctx p d0 d1).2 h

theorem State.memOk_memError (pa engine) : (s.memError pa engine).memOk := by
  grind [State.memError, State.memOk, State.memOk_errorRecord]

theorem State.memOk_sealError (pa husk engine) : (s.sealError pa husk engine).memOk := by
  grind [State.sealError, State.memOk_memError, State.memOk_errorRecord]

theorem State.memOk_sramError (core unit row) : (s.sramError core unit row).memOk := by
  grind [State.sramError, State.memOk, State.memOk_errorRecord]

theorem State.memOk_physDw (pa x) : (s.physDw pa x).memOk := by grind [State.physDw, State.memOk_physWrite]

end

/-! ### Translation -/

section
variable {s : State} (h : s.memOk)
include h

theorem State.memOk_makeRoom {α : Type} (l : List α) (cap) : (s.makeRoom l cap).2.memOk := by
  unfold State.makeRoom
  split <;> exact h

theorem State.memOk_fillTlb (id cap t va) : (s.fillTlb id cap t va).memOk := State.memOk_makeRoom h ..

theorem State.memOk_fillTlbs (cluster asid va w) : (s.fillTlbs cluster asid va w).memOk := by
  cases w with
  | leaf pte sh => exact memOk_foldl h (fun _ _ ht => State.memOk_fillTlb ht ..) _
  | miss => exact h
  | bad _ => exact h

theorem State.memOk_findLeaf (cluster asid root va) : (s.findLeaf cluster asid root va).2.memOk := by
  grind [State.findLeaf, State.memOk_fillTlbs, State.memOk_choose]

theorem State.memOk_ownerCheck (ctx pte pa) : (s.ownerCheck ctx pte pa).2.memOk := by
  grind [State.ownerCheck, State.memOk_claim]

theorem State.memOk_translate (cluster ctx va need acc) : (s.translate cluster ctx va need acc).2.memOk := by
  grind [State.translate, State.memOk_findLeaf, State.memOk_memError, State.memOk_ownerCheck]

theorem State.memOk_noteUnreadable (pte pa n engine) : (s.noteUnreadable pte pa n engine).memOk := by
  grind [State.noteUnreadable, State.memOk_memError, State.memOk_sealError]

theorem State.memOk_translatePages (cluster ctx need acc va n fuel) :
    (s.translatePages cluster ctx need acc va n fuel).2.memOk := by
  induction fuel generalizing s va n with
  | zero => exact h
  | succ fuel ih => grind [State.translatePages, State.memOk_translate]

theorem State.memOk_translateRange (cluster ctx need acc va n) :
    (s.translateRange cluster ctx need acc va n).2.memOk := by
  grind [State.translateRange, State.memOk_translatePages]

end

/-! ### The L1s -/

section
variable {s : State} (h : s.memOk)
include h

theorem State.memOk_putSectors (id l) : (s.putSectors id l).memOk := h

theorem State.memOk_putSector (id x) : (s.putSector id x).memOk := h

theorem State.memOk_writeHome (x) : (s.writeHome x).memOk := by
  grind [State.writeHome, State.memOk, State.memOk_physWrite]

theorem State.memOk_writeBack (id x) : (s.writeBack id x).memOk := by
  grind [State.writeBack, State.memOk_putSector, State.memOk_writeHome]

theorem State.memOk_evictWhere (id p) : (s.evictWhere id p).memOk := by
  grind [State.evictWhere, memOk_foldl, State.memOk_writeHome, State.memOk_putSectors]

theorem State.memOk_cleanWhere (id p) : (s.cleanWhere id p).memOk := by
  grind [State.cleanWhere, memOk_foldl, State.memOk_writeHome, State.memOk_putSectors]

theorem State.memOk_evictAll (p) : (s.evictAll p).memOk := by
  grind [State.evictAll, memOk_foldl, State.memOk_evictWhere]

theorem State.memOk_cleanAll (p) : (s.cleanAll p).memOk := by
  grind [State.cleanAll, memOk_foldl, State.memOk_cleanWhere]

theorem State.memOk_settle (pa32) : (s.settle pa32).memOk := by
  grind [State.settle, memOk_foldl, State.memOk_choose, State.memOk_writeBack]

theorem State.memOk_settleRange (pa n) : (s.settleRange pa n).memOk := by
  grind [State.settleRange, memOk_foldl, State.memOk_settle]

theorem State.memOk_refresh (id x) : (s.refresh id x).2.memOk := by
  grind [State.refresh, State.memOk_choose, State.memOk_putSector]

theorem State.memOk_l1Room (id asid line) : (s.l1Room id asid line).memOk := by
  grind [State.l1Room, State.memOk_freeWord, State.memOk_evictWhere]

theorem State.memOk_fillSector (w va pa pte readable) : (s.fillSector w va pa pte readable).2.memOk := by
  grind [State.fillSector, State.memOk_l1Room, State.memOk_settle, State.memOk_putSector]

theorem State.memOk_l1Check (w va n write) : (s.l1Check w va n write).2.memOk := by
  grind [State.l1Check, State.memOk_translate, State.memOk_noteUnreadable]

theorem State.memOk_l1Load (w va n miss) : (s.l1Load w va n miss).2.memOk := by
  grind [State.l1Load, State.memOk_fillSector, State.memOk_writeBack, State.memOk_refresh]

theorem State.memOk_dirtySector (w x o l) : (s.dirtySector w x o l).memOk := h

theorem State.memOk_l1Store (w va l miss) : (s.l1Store w va l miss).memOk := by
  grind [State.l1Store, State.memOk_fillSector, State.memOk_dirtySector, State.memOk_writeBack]

theorem State.memOk_release (warp) : (s.release warp).memOk := by grind [State.release, State.memOk_cleanWhere]

theorem State.memOk_acquire (warp scope) : (s.acquire warp scope).memOk := by
  grind [State.acquire, State.memOk_evictWhere]

theorem State.memOk_discardRange (core pa n) : (s.discardRange core pa n).memOk := by
  grind [State.discardRange, State.memOk_evictWhere]

end

/-! ### The end of a block, and a forced reset -/

section
variable {s : State} (h : s.memOk)
include h

theorem State.memOk_doneOpen (l pa) : (s.doneOpen l pa).2.memOk := by grind [State.doneOpen, State.memOk_ownerCheck]

theorem State.memOk_writeDone (l v) : (s.writeDone l v).memOk := by
  grind [State.writeDone, State.memOk_doneOpen, State.memOk_physDw, State.memOk_settle]

theorem State.memOk_finishLaunch (key) : (s.finishLaunch key).memOk := by
  grind [State.finishLaunch, State.memOk, State.memOk_writeDone]

theorem State.memOk_dropLaunch (key) : (s.dropLaunch key).memOk := by
  grind [State.dropLaunch, State.memOk, State.memOk_writeDone]

theorem State.memOk_releaseWays (husk) : (s.releaseWays husk).memOk := by
  grind [State.releaseWays, State.memOk, State.memOk_sealHusk]

theorem State.memOk_leaveCore (ctx launch core) : (s.leaveCore ctx launch core).memOk := by
  grind [State.leaveCore, State.memOk, State.memOk_evictWhere, State.memOk_releaseWays]

theorem State.memOk_nodeAddr (n a w len) : (s.nodeAddr n a w len).2.memOk := by
  grind [State.nodeAddr, State.memOk_translate, State.memOk_noteUnreadable, State.memOk_settle]

theorem State.memOk_nodeConsumeN (key fuel) : (s.nodeConsumeN key fuel).memOk := by
  induction fuel generalizing s with
  | zero => exact h
  | succ fuel ih => grind [State.memOk, State.nodeConsumeN, State.memOk_nodeAddr, State.memOk_physDw]

theorem State.memOk_nodeConsume (key) : (s.nodeConsume key).memOk := by
  grind [State.nodeConsume, State.memOk_nodeConsumeN]

theorem State.memOk_drained (ctx) : (s.drained ctx).memOk := by grind [State.drained, State.memOk_modCtx]

theorem State.memOk_releaseBlock (key core) : (s.releaseBlock key core).memOk := by
  grind [State.releaseBlock, State.memOk_cleanWhere]

theorem State.memOk_endBlock (key) : (s.endBlock key).memOk := by
  unfold State.endBlock
  split
  · exact h
  next b _ =>
    split
    · exact h
    · have left := State.memOk_leaveUnits h b
      generalize s.leaveUnits b = t at left
      dsimp only
      refine State.memOk_drained (State.memOk_finishLaunch ?_ _) _
      generalize ht : State.leaveCore _ _ _ _ = u
      have freed : u.memOk := by
        rw [← ht]
        refine State.memOk_leaveCore (State.memOk_releaseBlock ?_ ..) ..
        exact left
      grind [State.memOk, State.memOk_nodeConsume]

theorem State.memOk_saveWrite (c off l) : (s.saveWrite c off l).memOk := by
  grind [State.saveWrite, State.memOk_physWrite]

theorem State.memOk_writeDiag (ctx c watchdog off sectors) : (s.writeDiag ctx c watchdog off sectors).2.memOk := by
  unfold State.writeDiag
  dsimp only
  generalize hu : List.foldl _ _ _ = u
  have listed : u.memOk := by
    rw [← hu]
    refine memOk_foldl h (fun t i ht => ?_) _
    split
    · exact State.memOk_saveWrite ht ..
    · exact ht
  exact State.memOk_saveWrite listed ..

theorem State.memOk_offCores (ctx) : (s.offCores ctx).memOk := by
  grind [State.offCores, State.memOk, memOk_foldl, State.memOk_leaveUnits]

theorem State.memOk_discardWork (ctx) : (s.discardWork ctx).memOk := by
  grind [State.discardWork, State.memOk, State.memOk_offCores]

theorem State.memOk_forcedReset (ctx tcode packet d0 watchdog off) :
    (s.forcedReset ctx tcode packet d0 watchdog off).memOk := by
  grind [State.forcedReset, memOk_foldl, State.memOk_cleanAll, State.memOk_writeDiag, State.memOk_discardWork,
    State.memOk_releaseWays, State.memOk_evictAll, State.memOk_saveWrite, State.memOk_dropLaunch,
    State.memOk_errorRecord, State.memOk_modCtx]

end

/-! ### The checks of the lanes -/

section
variable {s : State} (h : s.memOk)
include h

theorem memOk_checkLanes {α : Type} {chk : State → Nat → Except Failure α × State}
    (hc : ∀ t i, t.memOk → (chk t i).2.memOk) (l : List Nat) : (checkLanes chk s l).2.2.memOk := by
  induction l generalizing s with
  | nil => exact h
  | cons i r ih => grind [checkLanes]

theorem State.memOk_laneCheck (w c need off n write) : (s.laneCheck w c need off n write).2.memOk := by
  grind [State.laneCheck, State.memOk_l1Check]

end

/-! ### Engine operations and loads -/

section
variable {s : State} (h : s.memOk)
include h

theorem State.memOk_retired (ctx) : (s.retired ctx).memOk := h

theorem State.memOk_finishWait (is) : (s.finishWait is).memOk := h

theorem State.memOk_engineRead (core ctx va n) : (s.engineRead core ctx va n).2.memOk := by
  grind [State.engineRead, memOk_foldl, State.memOk_translateRange, State.memOk_noteUnreadable,
    State.memOk_settleRange]

theorem State.memOk_writeSpans (l x) : (s.writeSpans l x).memOk := by
  induction l generalizing s x with
  | nil => exact h
  | cons _ _ ih => exact ih (s.memOk_physWrite _ _ h) _

theorem State.memOk_engineWrite (core ctx va l) : (s.engineWrite core ctx va l).2.memOk := by
  grind [State.engineWrite, memOk_foldl, State.memOk_translateRange, State.memOk_settleRange,
    State.memOk_discardRange, State.memOk_writeSpans]

theorem State.memOk_newHandle (key d grp fn desc) : (s.newHandle key d grp fn desc).2.memOk := by
  grind [State.newHandle, State.memOk, State.memOk_putWarp]

theorem State.memOk_newLoad (core l) : (s.newLoad core l).2.memOk := h

theorem State.memOk_flushFor (key mem) : (s.flushFor key mem).memOk := by
  grind [State.flushFor, State.memOk_cleanWhere]

theorem State.memOk_accept (o) : (s.accept o).memOk := by
  grind [State.accept, State.memOk_flushFor, State.memOk_putCore]

theorem State.memOk_modStat (uid f) : (s.modStat uid f).memOk := h

theorem State.memOk_opEnd (core o state cause) : (s.opEnd core o state cause).memOk := by
  grind [State.opEnd, State.memOk_putCore, State.memOk_modStat, State.memOk_modWarp, State.memOk_endBlock]

theorem State.memOk_acceptMmap (r load weights paired) : (s.acceptMmap r load weights paired).memOk := by
  grind [State.acceptMmap, State.memOk_newHandle, State.memOk_modWarp, State.memOk_accept]

theorem State.memOk_loadFor (bk value) : (s.loadFor bk value).2.memOk := h

theorem State.memOk_mmapAlone (r) : (s.mmapAlone r).memOk := by
  grind [State.mmapAlone, State.memOk_loadFor, State.memOk_acceptMmap]

theorem State.memOk_mmapGiveUp (key) : (s.mmapGiveUp key).memOk := by
  grind [State.mmapGiveUp, State.memOk_finishWait, State.memOk_mmapAlone]

theorem State.memOk_failGuides (keys) : (s.failGuides keys).memOk := by
  grind [State.failGuides, memOk_foldl, State.memOk_opEnd]

theorem State.memOk_dissolve (key) : (s.dissolve key).memOk := by
  grind [State.dissolve, State.memOk_failGuides, State.memOk_mmapGiveUp, State.memOk_modWarp]

end

/-! ### Fetch, the divergence stack, traps, and the end of an instruction -/

section
variable {s : State} (h : s.memOk)
include h

theorem State.memOk_codeSector (bkey pa32) : (s.codeSector bkey pa32).2.memOk := by
  grind [State.codeSector, State.memOk_freeWord]

theorem State.memOk_fetchWord (key w va n got) : (s.fetchWord key w va n got).2.memOk := by
  grind [State.fetchWord, State.memOk_translate, State.memOk_codeSector, State.memOk_noteUnreadable]

theorem State.memOk_fetchMore (key w va got n) : (s.fetchMore key w va got n).2.memOk := by
  induction n generalizing s va got with
  | zero => exact h
  | succ n ih => grind [State.fetchMore, State.memOk_fetchWord]

theorem State.memOk_fetch (key w pc) : (s.fetch key w pc).2.memOk := by
  grind [State.fetch, State.memOk_fetchWord, State.memOk_fetchMore]

theorem State.memOk_stackCheck (w wp at_ write) : (s.stackCheck w wp at_ write).2.memOk := by
  grind [State.stackCheck, State.memOk_l1Check]

theorem State.memOk_stackRead (w wp at_) : (s.stackRead w wp at_).2.memOk := by
  grind [State.stackRead, State.memOk_stackCheck, State.memOk_l1Load]

theorem State.memOk_stackChecks (w wp at_ l) : (s.stackChecks w wp at_ l).2.memOk := by
  induction l generalizing s at_ with
  | nil => exact h
  | cons _ _ ih => grind [State.stackChecks, State.memOk_stackCheck]

theorem State.memOk_stackStore (w l) : (s.stackStore w l).memOk := by
  grind [State.stackStore, memOk_foldl, State.memOk_l1Store]

theorem State.memOk_stackWrite (w wp at_ l) : (s.stackWrite w wp at_ l).2.memOk := by
  grind [State.stackWrite, State.memOk_stackChecks, State.memOk_stackStore]

theorem State.memOk_rcvAt (key w a) : (s.rcvAt key w a).2.memOk := by grind [State.rcvAt, State.memOk_fetch]

theorem State.memOk_endWarp (key) : (s.endWarp key).memOk := by
  grind [State.endWarp, State.memOk, State.memOk_dissolve, State.memOk_modBlock, State.memOk_endBlock]

theorem State.memOk_unpark (key w k) : (s.unpark key w k).2.memOk := by grind [State.unpark, State.memOk_rcvAt]

theorem State.memOk_mergeSlots (key w) : (s.mergeSlots key w).2.memOk := by
  grind [State.mergeSlots, State.memOk_unpark]

theorem State.memOk_topRecord (who w) : (s.topRecord who w).2.memOk := by
  grind [State.topRecord, State.memOk_stackRead]

theorem State.memOk_resolveTurn (key who w top) : (s.resolveTurn key who w top).2.memOk := by
  unfold State.resolveTurn
  dsimp only
  split
  · exact h
  · split
    · split
      · grind [State.memOk_mergeSlots]
      · generalize Option.filter _ _ = found
        cases found with
        | some r =>
          dsimp only
          generalize (if r.pc = w.s0.pc then 1 else 0) = k
          grind [State.memOk_mergeSlots, State.memOk_stackChecks, State.memOk_stackStore]
        | none => grind [State.memOk_unpark]
    · grind [State.memOk_unpark]

theorem State.memOk_resolve (key who w fuel) : (s.resolve key who w fuel).2.memOk := by
  induction fuel generalizing s w with
  | zero => exact h
  | succ fuel ih => grind [State.resolve, State.memOk_topRecord, State.memOk_resolveTurn]

theorem State.memOk_dropLoad (op) : (s.dropLoad op).memOk := h

theorem State.memOk_takeLoad (key op g l) : (s.takeLoad key op g l).memOk := by
  grind [State.takeLoad, State.memOk_dropLoad, State.memOk_acquire, State.memOk_modWarp]

theorem State.memOk_finishSlot (key k) : (s.finishSlot key k).memOk := by
  grind [State.finishSlot, State.memOk_finishWait, State.memOk_acquire, State.memOk_takeLoad]

theorem State.memOk_withdrawSlot (key sync x) : (s.withdrawSlot key sync x).memOk := by
  grind [State.withdrawSlot, State.memOk_modBlock, State.memOk_modCtx, State.memOk_dropLoad]

theorem State.memOk_withdraw (key sync) : (s.withdraw key sync).memOk := by
  grind [State.withdraw, State.memOk_withdrawSlot]

theorem State.memOk_takeTrap (key k pc t suppressed halt) : (s.takeTrap key k pc t suppressed halt).memOk := by
  grind [State.takeTrap, State.memOk_finishSlot, State.memOk_forcedReset, State.memOk_stackWrite, State.memOk_putWarp,
    State.memOk_withdraw]

theorem State.memOk_trapReturn (who w) : (s.trapReturn who w).2.memOk := by
  grind [State.trapReturn, State.memOk_stackRead]

theorem State.memOk_markEntry (key w) : (s.markEntry key w).memOk := by
  grind [State.markEntry, State.memOk_stackRead, State.memOk_stackWrite]

theorem State.memOk_startHalt (key pc) : (s.startHalt key pc).memOk := by
  grind [State.startHalt, memOk_foldl, State.memOk_errorRecord, State.memOk_markEntry, State.memOk_modCtx]

omit h in
theorem Env.memOk_put {en : Env} (he : en.s.memOk) (w) : (en.put w).memOk := he

omit h in
theorem Env.memOk_done {en : Env} (he : en.s.memOk) (w) : (en.done w).memOk := he

omit h in
theorem Env.memOk_fail {en : Env} (he : en.s.memOk) (cause addr) : (en.fail cause addr).memOk := he

theorem Env.memOk_failIn {en : Env} (x) : (en.failIn s x).memOk := h

theorem Env.memOk_raise {en : Env} (t) : (en.raise s t).memOk := by
  grind [Env.raise, State.memOk, State.memOk_retired, State.memOk_modWarp, State.memOk_takeTrap]

omit h in
theorem Env.memOk_leave {en : Env} {s : State} (he : en.s.memOk) (h : s.memOk) (pc) : (en.leave s pc).memOk := by
  grind [Env.leave, Env.memOk_raise, State.memOk_retired, State.memOk_modWarp]

omit h in
theorem Env.memOk_finish {en : Env} {r : Res} (he : en.s.memOk) (hr : r.memOk) : (en.finish r).memOk := by
  cases r with
  | next s => exact Env.memOk_leave he hr _
  | jump s pc => exact Env.memOk_leave he hr _
  | moved s => exact State.memOk_retired hr _
  | trap s t => exact Env.memOk_raise hr _
  | wait s x => grind [Env.finish, Res.memOk, Env.memOk_raise, State.memOk_modWarp]
  | halt s => grind [Env.finish, Res.memOk, Env.memOk_leave, State.memOk_modWarp, State.memOk_startHalt]

theorem State.memOk_run (is g) {body : Env → Res} (hb : ∀ en : Env, en.s.memOk → (body en).memOk) :
    (s.run is g body).memOk := by
  have he : (s.env is g).s.memOk := h
  unfold State.run
  dsimp only
  split
  · exact Env.memOk_finish he h
  · exact Env.memOk_finish he (hb _ he)

theorem memOk_native (f) {body : Env → Res} (hb : ∀ en : Env, en.s.memOk → (body en).memOk) :
    Out.memOk (native f s body) := by
  unfold native
  split
  · trivial
  · exact State.memOk_run h _ _ hb

theorem memOk_forerunner (f) {body : Env → Res} (hb : ∀ en : Env, en.s.memOk → (body en).memOk) :
    Out.memOk (forerunner f s body) := by
  unfold forerunner
  split
  · trivial
  · exact State.memOk_run h _ _ hb

theorem memOk_forerunnerSlot {body : Env → Res} (hb : ∀ en : Env, en.s.memOk → (body en).memOk) :
    Out.memOk (forerunnerSlot s body) := by
  unfold forerunnerSlot
  split
  · trivial
  · exact State.memOk_run h _ _ hb

theorem Env.memOk_resolved {en : Env} (w) : (en.resolved w s).memOk := by
  have resolved := State.memOk_resolve h en.key en.who w resolveFuel
  unfold Env.resolved
  generalize s.resolve _ _ _ _ = r at resolved
  split
  · exact State.memOk_putWarp resolved ..
  · exact State.memOk_endWarp (State.memOk_putWarp resolved ..) _
  · exact State.memOk_putWarp resolved ..

end

/-! ### Accumulator rows -/

section
variable {s : State} (h : s.memOk)
include h

omit h in
theorem Env.memOk_withRows {en : Env} (he : en.s.memOk) (rows sides owners) {go : Unit → Res} (hg : (go ()).memOk) :
    (en.withRows rows sides owners go).memOk := by
  unfold Env.withRows
  split
  · exact he
  · exact hg

theorem memOk_execAalloc (f) : Out.memOk (execAalloc f s) :=
  memOk_native h _ fun en he => by grind [Res.memOk, Env.memOk_failIn, Env.memOk_fail, State.memOk_modBlock]

theorem memOk_execAfree (f) : Out.memOk (execAfree f s) :=
  memOk_native h _ fun en he => by grind [Res.memOk, Env.memOk_failIn, Env.memOk_withRows, State.memOk_modBlock]

theorem memOk_execAwin (f) : Out.memOk (execAwin f s) :=
  memOk_native h _ fun en he => by grind [Res.memOk, Env.memOk_fail, State.memOk_modWarp]

theorem memOk_execAzero (f) : Out.memOk (execAzero f s) :=
  memOk_native h _ fun en he => by grind [Res.memOk, Env.memOk_failIn, Env.memOk_withRows, State.memOk_modBlock]

theorem memOk_execLda (f) : Out.memOk (execLda f s) :=
  memOk_native h _ fun en he => by
    grind [Res.memOk, Env.memOk_failIn, Env.memOk_withRows, State.memOk_sramError, Env.memOk_done]

theorem memOk_execSta (f) : Out.memOk (execSta f s) :=
  memOk_native h _ fun en he => by grind [Res.memOk, Env.memOk_failIn, Env.memOk_withRows, State.memOk_modBlock]

end

end Sys2Proof.Machine
end

section
/-! Memory stays canonical: fault queue, fabric, accesses of lanes and barriers. -/
namespace Sys2Proof.Machine

/-! ### The fault queue -/

section
variable {s : State} (h : s.memOk)
include h

theorem State.memOk_modEngineOp (core uid f) : (s.modEngineOp core uid f).memOk := h

theorem State.memOk_setFault (x w) : (s.setFault x w).memOk := by
  unfold State.setFault
  split <;> exact h

theorem State.memOk_appendFault (x) : (s.appendFault x).2.memOk := by
  grind [State.appendFault, State.memOk, State.memOk_physWrite, State.memOk_physDw, State.memOk_setFault,
    State.memOk_msi, State.memOk_setStatus]

theorem State.memOk_appendAll (ctx l) : (s.appendAll ctx l).2.memOk := by
  induction l generalizing s with
  | nil => exact h
  | cons x r ih => grind [State.appendAll, State.memOk_appendFault]

theorem State.memOk_retryFaults (ctx) : (s.retryFaults ctx).memOk := by
  grind [State.retryFaults, State.memOk, State.memOk_appendAll]

theorem State.memOk_stopAt (x i) : (s.stopAt x i).memOk := by
  grind [State.stopAt, State.memOk, State.memOk_setFault, State.memOk_retryFaults]

theorem memOk_execFaultQueueRetry (ctx) : Out.memOk (execFaultQueueRetry ctx s) := by
  grind [execFaultQueueRetry, Out.memOk, State.memOk_retryFaults]

end

/-! ### Frames that are sent and received -/

section
variable {s : State} (h : s.memOk)
include h

theorem State.memOk_emit (port f path) : (s.emit port f path).memOk := h

theorem State.memOk_originate (x) : (s.originate x).memOk := by grind [State.originate, State.memOk, State.memOk_emit]

theorem State.memOk_pumpN (n) : (s.pumpN n).memOk := by
  induction n generalizing s with
  | zero => exact h
  | succ n ih => grind [State.memOk, State.pumpN, State.memOk_originate]

theorem State.memOk_pump : s.pump.memOk := by grind [State.pump, State.memOk_pumpN]

theorem State.memOk_sendFrame (f op path) : (s.sendFrame f op path).memOk := by
  grind [State.sendFrame, State.memOk, State.memOk_pump]

theorem State.memOk_acked (seq who) : (s.acked seq who).memOk := by grind [State.acked, State.memOk, State.memOk_pump]

theorem State.memOk_adapt (f) : (s.adapt f).memOk := h

theorem State.memOk_sendTack (f) : (s.sendTack f).memOk := by
  grind [State.sendTack, State.memOk_acked, State.memOk_emit]

theorem State.memOk_refusedRecord (f) : (s.refusedRecord f).memOk := by
  grind [State.refusedRecord, State.memOk_errorRecord]

theorem State.memOk_nack (f cause va) : (s.nack f cause va).memOk := by
  grind [State.nack, State.memOk_refusedRecord, State.memOk_sendFrame]

theorem State.memOk_nackAnswer (f) : (s.nackAnswer f).memOk := by grind [State.nackAnswer, State.memOk_nack]

theorem State.memOk_dropMalformed (f) : (s.dropMalformed f).memOk := by
  grind [State.dropMalformed, State.memOk, State.memOk_errorRecord]

theorem State.memOk_receive (f) {act : State → State} (ha : ∀ t : State, t.memOk → (act t).memOk) :
    (s.receive f act).memOk := by
  grind [State.memOk, State.receive, State.memOk_dropMalformed, State.memOk_sendTack]

theorem State.memOk_modPort (p f) : (s.modPort p f).memOk := h

theorem State.memOk_takeDown (p cause) : (s.takeDown p cause).memOk := by
  grind [State.takeDown, State.memOk_errorRecord, State.memOk_modPort]

theorem State.memOk_authFail (p) : (s.authFail p).memOk := by
  grind [State.authFail, State.memOk_modPort, State.memOk_takeDown]

theorem State.memOk_arriveOn (f) {act : Frame → State → State} (ha : ∀ f (t : State), t.memOk → (act f t).memOk) :
    (s.arriveOn f act).memOk := by
  grind [State.arriveOn, State.memOk_modPort, State.memOk_authFail]

theorem State.memOk_arrive (f) {act : Frame → State → State} (ha : ∀ f (t : State), t.memOk → (act f t).memOk) :
    (s.arrive f act).memOk :=
  State.memOk_arriveOn h f fun g _ ht => State.memOk_receive ht g (ha g)

end

/-! ### Grid operations at their targets -/

section
variable {s : State} (h : s.memOk)
include h

theorem State.memOk_modGrid (k f) : (s.modGrid k f).memOk := h

theorem State.memOk_tileFlag (g v) : (s.tileFlag g v).2.memOk := by grind [State.tileFlag, State.memOk_engineWrite]

theorem State.memOk_leaveGrid (k g state cause) : (s.leaveGrid k g state cause).memOk := by
  grind [State.leaveGrid, State.memOk, State.memOk_modStat, State.memOk_modWarp, State.memOk_endBlock]

theorem State.memOk_endGrid (k g state cause) : (s.endGrid k g state cause).memOk := by
  grind [State.endGrid, State.memOk_tileFlag, State.memOk_leaveGrid, State.memOk_stopAt, State.memOk_modGrid]

theorem State.memOk_failGrid (k cause va) : (s.failGrid k cause va).memOk := by
  grind [State.failGrid, State.memOk_modGrid, State.memOk_leaveGrid, State.memOk_endGrid]

theorem memOk_execGridOperationComplete (op) : Out.memOk (execGridOperationComplete op s) := by
  grind [execGridOperationComplete, Out.memOk, State.memOk_endGrid]

theorem State.memOk_checkGrid (k) : (s.checkGrid k).memOk := by grind [State.checkGrid, State.memOk_post]

theorem State.memOk_gather (k n) : (s.gather k n).memOk := by
  grind [State.gather, State.memOk_checkGrid, State.memOk_modStat, State.memOk_modGrid]

theorem State.memOk_dropReds (f) : (s.dropReds f).memOk := by grind [State.dropReds, State.memOk]

theorem State.memOk_reportRed (f) : (s.reportRed f).memOk := by grind [State.reportRed, State.memOk_sendFrame]

theorem State.memOk_failRed (f cause) : (s.failRed f cause).memOk := by
  grind [State.failRed, State.memOk_dropReds, State.memOk_failGrid, State.memOk_sendFrame]

theorem State.memOk_reach (ctx va need acc n) : (s.reach ctx va need acc n).2.memOk := by
  grind [State.reach, State.memOk_translate, State.memOk_noteUnreadable, State.memOk_settle]

theorem State.memOk_placeBytes (ctx acc n va l) : (s.placeBytes ctx acc n va l).2.2.memOk := by
  induction n generalizing s va l with
  | zero => exact h
  | succ n ih => grind [State.placeBytes, State.memOk_reach, State.memOk_physWrite]

theorem State.memOk_readLanes (ctx va n l) : (s.readLanes ctx va n l).2.2.2.memOk := by
  induction l generalizing s with
  | nil => exact h
  | cons off r ih => grind [State.readLanes, State.memOk_reach]

theorem State.memOk_raiseGrid (f fl) : (s.raiseGrid f fl).memOk := by grind [State.raiseGrid, State.memOk_modGrid]

theorem State.memOk_placeAtoms (new ctx f n i l) : (s.placeAtoms new ctx f n i l).2.2.2.memOk := by
  induction n generalizing s i l with
  | zero => exact h
  | succ n ih => grind [State.placeAtoms, State.memOk_reach, State.memOk_physWrite, State.memOk_raiseGrid]

theorem State.memOk_putRemote (f) : (s.putRemote f).2.memOk := h

theorem State.memOk_dropRemote (k) : (s.dropRemote k).memOk := h

theorem State.memOk_failRemote (k cause) : (s.failRemote k cause).memOk := by
  grind [State.failRemote, State.memOk, State.memOk_dropRemote, State.memOk_failRed, State.memOk_refusedRecord,
    State.memOk_nack]

theorem State.memOk_tileArrive (ctx f) : (s.tileArrive ctx f).2.memOk := by
  grind [State.tileArrive, State.memOk_translate, State.memOk_noteUnreadable, State.memOk_settle,
    State.memOk_physWrite]

theorem State.memOk_reportDone (f) : (s.reportDone f).memOk := by grind [State.reportDone, State.memOk_sendFrame]

theorem State.memOk_resultPlaced (f) : (s.resultPlaced f).2.memOk := by
  grind [State.resultPlaced, State.memOk_modStat, State.memOk_modGrid, State.memOk_reportRed]

theorem State.memOk_bytesPlaced (f n) : (s.bytesPlaced f n).2.memOk := by
  grind [State.bytesPlaced, State.memOk, State.memOk_reportDone]

theorem State.memOk_workRemote (new k ctx r) : (s.workRemote new k ctx r).2.memOk := by
  grind [State.workRemote, State.memOk, State.memOk_stopAt, State.memOk_readLanes, State.memOk_sendFrame,
    State.memOk_dropRemote, State.memOk_nack, State.memOk_placeAtoms, State.memOk_bytesPlaced, State.memOk_failRemote,
    State.memOk_tileArrive, State.memOk_reportRed, State.memOk_reportDone, State.memOk_placeBytes,
    State.memOk_resultPlaced]

theorem State.memOk_runRemote (new k) : (s.runRemote new k).memOk := by
  grind [State.runRemote, State.memOk_failRemote, State.memOk_workRemote, State.memOk_putRemote]

theorem State.memOk_startRemote (new f) : (s.startRemote new f).memOk := by
  grind [State.startRemote, State.memOk_nack, State.memOk_putRemote, State.memOk_runRemote]

theorem State.memOk_putRed (k r) : (s.putRed k r).memOk := h

theorem State.memOk_sendResult (new k r) : (s.sendResult new k r).memOk := by
  grind [State.sendResult, State.memOk, State.memOk_putRed, State.memOk_modGrid, State.memOk_sendFrame,
    State.memOk_putRemote, State.memOk_runRemote]

theorem State.memOk_sendExps (new k r) : (s.sendExps new k r).memOk := by
  grind [State.sendExps, State.memOk_putRed, State.memOk_sendFrame, State.memOk_modGrid, State.memOk_sendResult]

theorem State.memOk_joinRed (new k r f) : (s.joinRed new k r f).memOk := by
  grind [State.joinRed, State.memOk_sendExps, State.memOk_sendResult]

theorem State.memOk_contribute (new f) : (s.contribute new f).memOk := by
  grind [State.contribute, State.memOk_nack, State.memOk_joinRed, State.memOk_failRed]

theorem State.memOk_sendBins (f) : (s.sendBins f).memOk := by
  grind [State.sendBins, State.memOk_modGrid, State.memOk_sendFrame]

end

/-! ### Tiles -/

section
variable {s : State} (h : s.memOk)
include h

theorem State.memOk_addGrid (k g) : (s.addGrid k g).memOk := h

theorem State.memOk_silentKey : s.silentKey.2.memOk := h

theorem State.memOk_engineCap (core ctx va) : (s.engineCap core ctx va).2.memOk := by
  grind [State.engineCap, State.memOk_engineRead, State.memOk_translate]

theorem State.memOk_tileDws (core ctx t i) : (s.tileDws core ctx t i).2.memOk := by
  grind [State.tileDws, State.memOk_engineRead]

theorem State.memOk_tileViewOf (core ctx t i known) : (s.tileViewOf core ctx t i known).2.memOk := by
  grind [State.tileViewOf, State.memOk_engineCap, State.memOk_tileDws]

theorem State.memOk_tileView (core ctx t i) : (s.tileView core ctx t i).2.memOk := by
  grind [State.tileView, State.memOk_tileViewOf]

theorem State.memOk_fireTile (k warp value silent x) : (s.fireTile k warp value silent x).memOk := by
  grind [State.fireTile, State.memOk_tileDws, State.memOk_addGrid]

theorem State.memOk_startTile (k g) : (s.startTile k g).memOk := by
  grind [State.startTile, State.memOk_tileViewOf, State.memOk_stopAt, State.memOk_failGrid, State.memOk_tileFlag,
    State.memOk_checkGrid, State.memOk_addGrid]

theorem State.memOk_sendRed (k g data) : (s.sendRed k g data).memOk := by
  grind [State.sendRed, memOk_foldl, State.memOk_modGrid, State.memOk_sendFrame]

theorem State.memOk_sendPacked (k g n codes) : (s.sendPacked k g n codes).memOk := by
  grind [State.sendPacked, memOk_foldl, State.memOk_modGrid, State.memOk_sendFrame]

theorem State.memOk_sendContribution (k g data) : (s.sendContribution k g data).memOk := by
  grind [State.sendContribution, State.memOk_sendRed, State.memOk_engineRead, State.memOk_stopAt,
    State.memOk_engineWrite, State.memOk_modGrid, State.memOk_sendPacked]

theorem State.memOk_readSource (k g) : (s.readSource k g).memOk := by
  grind [State.readSource, State.memOk_engineRead, State.memOk_stopAt, State.memOk_sendFrame, State.memOk_modGrid,
    State.memOk_sendContribution]

theorem State.memOk_gridStep (k g) : (s.gridStep k g).memOk := by
  grind [State.gridStep, State.memOk_endGrid, State.memOk_startTile, State.memOk_checkGrid, State.memOk_readSource]

end

/-! ### Loads and stores of global memory -/

section
variable {s : State} (h : s.memOk)
include h

theorem State.memOk_loadLanes (w n l) : (s.loadLanes w n l).2.memOk := by
  induction l generalizing s with
  | nil => exact h
  | cons x r ih => exact ih (State.memOk_l1Load h ..)

theorem Env.memOk_globalLoad {en : Env} (size d c off) : (en.globalLoad s size d c off).memOk := by
  grind [Env.globalLoad, Res.memOk, memOk_checkLanes, State.memOk_laneCheck, State.memOk_loadLanes,
    State.memOk_putWarp]

theorem memOk_execLd (f) : Out.memOk (execLd f s) :=
  memOk_native h _ fun en he => by grind [Res.memOk, State.memOk_acquire, Env.memOk_globalLoad]

theorem State.memOk_homeCheck (w c need off n align tneed) : (s.homeCheck w c need off n align tneed).2.memOk := by
  grind [State.homeCheck, State.memOk_translate, State.memOk_noteUnreadable]

theorem State.memOk_goHome (w va pa) : (s.goHome w va pa).memOk := by
  grind [State.goHome, State.memOk_settle, State.memOk_evictWhere]

omit h in
theorem Env.memOk_globalStore {en : Env} (he : en.s.memOk) (size d c off) : (en.globalStore size d c off).memOk := by
  grind [Env.globalStore, Res.memOk, memOk_foldl, memOk_checkLanes, State.memOk_laneCheck, State.memOk_l1Store]

theorem Env.memOk_homeStore {en : Env} (va pa l) : (en.homeStore s va pa l).memOk := by
  grind [Env.homeStore, State.memOk_goHome, State.memOk_physWrite, State.memOk_silentKey, State.memOk_fireTile]

omit h in
theorem Env.memOk_releaseStore {en : Env} (he : en.s.memOk) (size d c off) :
    (en.releaseStore size d c off).memOk := by
  grind [Env.releaseStore, Res.memOk, memOk_foldl, memOk_checkLanes, State.memOk_homeCheck, Env.memOk_homeStore,
    State.memOk_release]

theorem memOk_execSt (f) : Out.memOk (execSt f s) :=
  memOk_native h _ fun en he => by grind [Res.memOk, Env.memOk_releaseStore, Env.memOk_globalStore]

theorem memOk_execLdk (f) : Out.memOk (execLdk f s) :=
  memOk_native h _ fun en he => by
    grind [Res.memOk, State.memOk_acquire, State.memOk_laneCheck, Env.memOk_failIn, State.memOk_l1Load,
      State.memOk_putWarp]

theorem State.memOk_prefetchLine (w va pa pte) : (s.prefetchLine w va pa pte).memOk := by
  grind [State.prefetchLine, memOk_foldl, State.memOk_fillSector]

theorem memOk_execPref (f) : Out.memOk (execPref f s) :=
  memOk_native h _ fun en he => by grind [Res.memOk, memOk_foldl, State.memOk_translate, State.memOk_prefetchLine]

theorem memOk_execCflush (f) : Out.memOk (execCflush f s) :=
  memOk_native h _ fun en he => by
    grind [Res.memOk, memOk_foldl, Env.memOk_fail, State.memOk_translateRange, Env.memOk_failIn,
      State.memOk_evictWhere, State.memOk_cleanLines]

end

/-! ### The scratchpad -/

section
variable {s : State} (h : s.memOk)
include h

omit h in
theorem Env.memOk_scratchLoad {en : Env} {s : State} (he : en.s.memOk) (h : s.memOk) (size d off) :
    (en.scratchLoad s size d off).memOk := by
  grind [Env.scratchLoad, Res.memOk, State.memOk_sramError, State.memOk_putWarp]

theorem memOk_execLds (f) : Out.memOk (execLds f s) :=
  memOk_native h _ fun en he => by grind [Res.memOk, State.memOk_acquire, Env.memOk_scratchLoad]

omit h in
theorem Env.memOk_scratchStore {en : Env} {s : State} (he : en.s.memOk) (h : s.memOk) (size d off) :
    (en.scratchStore s size d off).memOk := by
  grind [Env.scratchStore, Res.memOk, State.memOk_modBlock]

theorem memOk_execSts (f) : Out.memOk (execSts f s) :=
  memOk_native h _ fun en he => by grind [Res.memOk, State.memOk_release, Env.memOk_scratchStore]

end

/-! ### Atomics and fences -/

section
variable {s : State} (h : s.memOk)
include h

theorem Env.memOk_atomOrder {en : Env} (f) : (en.atomOrder f s).memOk := by
  grind [Env.atomOrder, State.memOk_release, State.memOk_acquire]

theorem Env.memOk_atomResult {en : Env} (f old fl) : (en.atomResult f old fl s).memOk := h

theorem memOk_execAtom (f) : Out.memOk (execAtom f s) := by
  refine memOk_native h f fun en he => ?_
  dsimp only
  generalize hr : checkLanes _ _ _ = r
  have checked : r.2.2.memOk := by
    rw [← hr]
    exact memOk_checkLanes he (fun t i ht => State.memOk_homeCheck ht ..) _
  split
  · exact checked
  · have ordered := Env.memOk_atomOrder (en := en) checked f
    refine Env.memOk_atomResult (memOk_foldl_fst ordered (fun b x hb => ?_) _) ..
    exact State.memOk_physWrite _ _ _ (State.memOk_goHome hb ..)

theorem memOk_execAtoms (f) : Out.memOk (execAtoms f s) :=
  memOk_native h _ fun en he => by
    grind [Res.memOk, State.memOk_sramError, Env.memOk_atomResult, State.memOk_modBlock, Env.memOk_atomOrder]

omit h in
theorem Env.memOk_fenceKind {en : Env} (he : en.s.memOk) (kind scope) : (en.fenceKind kind scope).memOk := by
  grind [Env.fenceKind, State.memOk_release, State.memOk_acquire]

theorem memOk_execFence (f) : Out.memOk (execFence f s) :=
  memOk_native h _ fun en he => by grind [Res.memOk, Env.memOk_fenceKind]

end

/-! ### Barriers -/

section
variable {s : State} (h : s.memOk)
include h

theorem Env.memOk_setBar {en : Env} (n x) : (en.setBar s n x).memOk := h

omit h in
theorem Env.memOk_arrive {en : Env} (he : en.s.memOk) (n) : (en.arrive n).memOk := by
  grind [Env.arrive, Env.memOk_setBar, State.memOk_release]

theorem Env.memOk_waitBarrier {en : Env} (n phase) {passed : State → State}
    (hp : ∀ t : State, t.memOk → (passed t).memOk) : (en.waitBarrier s n phase passed).memOk := by
  unfold Env.waitBarrier
  dsimp only
  split
  · exact h
  · split
    · exact hp s h
    · exact h

theorem memOk_execBari (f) : Out.memOk (execBari f s) :=
  memOk_native h _ fun en he => by grind [Res.memOk, Env.memOk_fail, Env.memOk_setBar]

theorem memOk_execBara (f) : Out.memOk (execBara f s) :=
  memOk_native h _ fun en he => by grind [Res.memOk, Env.memOk_failIn, State.memOk_putWarp, Env.memOk_arrive]

theorem memOk_execBarw (f) : Out.memOk (execBarw f s) :=
  memOk_native h _ fun en he => by grind [Res.memOk, Env.memOk_waitBarrier, State.memOk_acquire]

theorem memOk_execBart (f) : Out.memOk (execBart f s) :=
  memOk_native h _ fun en he => by grind [Res.memOk, Env.memOk_failIn, Env.memOk_done]

theorem Env.memOk_setSbar {en : Env} (n x) : (en.setSbar s n x).memOk := h

theorem memOk_execSbarInit (f) : Out.memOk (execSbarInit f s) :=
  memOk_native h _ fun en he => by grind [Res.memOk, Env.memOk_fail, Env.memOk_setSbar]

theorem memOk_execSbarArrive (f) : Out.memOk (execSbarArrive f s) :=
  memOk_native h _ fun en he => by
    grind [Res.memOk, Env.memOk_fail, Env.memOk_setSbar, State.memOk_release, State.memOk_putWarp]

theorem memOk_execSbarWait (f) : Out.memOk (execSbarWait f s) :=
  memOk_native h _ fun en he => by grind [Res.memOk, State.memOk_acquire]

theorem memOk_execSbarSync (f) : Out.memOk (execSbarSync f s) :=
  memOk_native h _ fun en he => by
    grind [Res.memOk, State.memOk_acquire, Env.memOk_fail, Env.memOk_setSbar, State.memOk_release]

end

end Sys2Proof.Machine
end

section
/-! Memory stays canonical: engines, health, packets, contexts, protection and boot. -/
namespace Sys2Proof.Machine

/-! ### The acceptance of matrix operations -/

section
variable {s : State} (h : s.memOk)
include h

theorem Env.memOk_engineOp {en : Env} (d grp fn desc kind sregs caps) :
    (en.engineOp s d grp fn desc kind sregs caps).memOk := by
  grind [Env.engineOp, State.memOk_newHandle, State.memOk_accept]

theorem Env.memOk_failedOp {en : Env} (d grp fn cause) : (en.failedOp s d grp fn cause).memOk := by
  grind [Env.failedOp, State.memOk_newHandle, State.memOk_modWarp, State.memOk_modStat]

theorem memOk_execWld (f) : Out.memOk (execWld f s) :=
  memOk_native h _ fun en he => by
    grind [Res.memOk, Env.memOk_fail, Env.memOk_failIn, State.memOk_loadFor, Env.memOk_engineOp]

omit h in
theorem Env.memOk_wsclOp {en : Env} (he : en.s.memOk) (m sregs caps) : (en.wsclOp m sregs caps).memOk := by
  grind [Env.wsclOp, State.memOk, State.memOk_accept]

theorem memOk_execWscl (f) : Out.memOk (execWscl f s) :=
  memOk_native h _ fun en he => by grind [Res.memOk, Env.memOk_fail, Env.memOk_failIn, Env.memOk_wsclOp]

theorem memOk_execWsclNone (f) : Out.memOk (execWsclNone f s) :=
  memOk_native h _ fun en he => by grind [Res.memOk, Env.memOk_fail, Env.memOk_wsclOp]

theorem memOk_execMma (f) : Out.memOk (execMma f s) := by
  refine memOk_native h f fun en he => ?_
  dsimp only
  repeat' split
  all_goals grind [Res.memOk, Env.memOk_fail, Env.memOk_failIn, Env.memOk_failedOp, Env.memOk_engineOp]

theorem Env.memOk_readStops {en : Env} (d i) : (en.readStops s d i).memOk := by
  grind [Env.readStops, Res.memOk, State.memOk_stopAt, State.memOk_modWarp]

theorem Env.memOk_issueRead {en : Env} (d va n) {go : State → List Byte → Res}
    (hg : ∀ t l, t.memOk → (go t l).memOk) : (en.issueRead s d va n go).memOk := by
  grind [Env.issueRead, Res.memOk, State.memOk_flushFor, State.memOk_engineRead, Env.memOk_readStops]

theorem State.memOk_groupLoads (bk value weights l) : (s.groupLoads bk value weights l).2.memOk := by
  induction l generalizing s with
  | nil => exact h
  | cons x r ih => exact ih (State.memOk_loadFor h ..)

theorem Env.memOk_acceptMmag {en : Env} (f g act wcap rows) : (en.acceptMmag s f g act wcap rows).memOk := by
  grind [Env.acceptMmag, State.memOk_groupLoads, Env.memOk_engineOp]

theorem Env.memOk_mmagChecks {en : Env} (f g offs) : (en.mmagChecks s f g offs).memOk := by
  unfold Env.mmagChecks
  dsimp only
  split
  · exact h
  · split
    · exact h
    · split
      · exact h
      · split
        · exact h
        · split
          · exact h
          · split
            · exact Env.memOk_issueRead h _ _ _ fun t l ht => Env.memOk_acceptMmag ht ..
            · exact Env.memOk_acceptMmag h ..

theorem State.memOk_failReads (key k) : (s.failReads key k).memOk := by
  grind [State.failReads, State.memOk_newHandle, State.memOk_finishWait, State.memOk_modWarp, State.memOk_modStat]

theorem memOk_execMmag (f) : Out.memOk (execMmag f s) := by
  refine memOk_native h f fun en he => ?_
  dsimp only
  split
  · exact he
  · split
    · exact he
    · refine Env.memOk_issueRead he _ _ _ fun t l ht => ?_
      split
      · exact ht
      · split
        · exact ht
        · exact Env.memOk_issueRead ht _ _ _ fun u l hu => Env.memOk_mmagChecks hu ..

theorem State.memOk_pairMmap (r q waiterUncond) : (s.pairMmap r q waiterUncond).memOk := by
  grind [State.pairMmap, State.memOk_newLoad, State.memOk_acceptMmap, State.memOk_finishWait]

omit h in
theorem Env.memOk_rendezvous {en : Env} (he : en.s.memOk) (q) : (en.rendezvous q).memOk := by
  have alone := State.memOk_mmapAlone he q
  unfold Env.rendezvous
  dsimp only
  generalize en.s.mmapAlone q = t at alone
  repeat' split
  all_goals
    grind [Res.memOk, State.memOk_mmapGiveUp, State.memOk_pairMmap, State.memOk_takeTrap, Env.memOk_failIn,
      Env.memOk_fail]

theorem memOk_execMmap (f) : Out.memOk (execMmap f s) :=
  memOk_native h _ fun en he => by grind [Res.memOk, Env.memOk_fail, Env.memOk_failIn, Env.memOk_rendezvous]

theorem memOk_execMmapRendezvousTimeout (warp) : Out.memOk (execMmapRendezvousTimeout warp s) := by
  grind [execMmapRendezvousTimeout, Out.memOk, State.memOk_mmapGiveUp]

theorem memOk_execMsl (f) : Out.memOk (execMsl f s) :=
  memOk_native h _ fun en he => by grind [Res.memOk, Env.memOk_fail, Env.memOk_failIn, Env.memOk_engineOp]

end

/-! ### The acceptance of epilogue operations -/

section
variable {s : State} (h : s.memOk)
include h

theorem memOk_execAepi (f) : Out.memOk (execAepi f s) :=
  memOk_native h _ fun en he => by grind [Res.memOk, Env.memOk_fail, Env.memOk_failIn, Env.memOk_engineOp]

theorem memOk_execAgui (f) : Out.memOk (execAgui f s) :=
  memOk_native h _ fun en he => by grind [Res.memOk, Env.memOk_fail, Env.memOk_failIn, Env.memOk_engineOp]

theorem memOk_execAtopk (f) : Out.memOk (execAtopk f s) :=
  memOk_native h _ fun en he => by
    grind [Res.memOk, Env.memOk_fail, Env.memOk_failIn, Env.memOk_withRows, State.memOk_modBlock, State.memOk_putWarp]

theorem memOk_sidebandOp (wr f) : Out.memOk (sidebandOp wr f s) :=
  memOk_native h _ fun en he => by grind [Res.memOk, Env.memOk_failIn, Env.memOk_engineOp]

theorem memOk_execAtksRd (f) : Out.memOk (execAtksRd f s) := by grind [execAtksRd, Out.memOk, memOk_sidebandOp]

theorem memOk_execAtksWr (f) : Out.memOk (execAtksWr f s) := by grind [execAtksWr, Out.memOk, memOk_sidebandOp]

end

/-! ### The run of the engines -/

section
variable {s : State} (h : s.memOk)
include h

theorem State.memOk_readRecords (core ctx m rec n i) : (s.readRecords core ctx m rec n i).2.memOk := by
  induction n generalizing s i with
  | zero => exact h
  | succ n ih => grind [State.readRecords, State.memOk_engineRead]

theorem State.memOk_loadWeights (core ctx load w fmt k cs) : (s.loadWeights core ctx load w fmt k cs).2.memOk := by
  grind [State.loadWeights, State.memOk_readRecords, State.memOk_putCore]

theorem State.memOk_productRow (core o p i w cs) : (s.productRow core o p i w cs).2.memOk := by
  grind [State.productRow, State.memOk_engineRead, State.memOk_modBlock]

theorem State.memOk_ownRow (core o p i w) : (s.ownRow core o p i w).2.memOk := by
  grind [State.ownRow, State.memOk_productRow, State.memOk_loadWeights]

theorem State.memOk_epilogueRow (core o row i dst fmt n cs rs int relu ieee mode) :
    (s.epilogueRow core o row i dst fmt n cs rs int relu ieee mode).2.memOk := by
  grind [State.epilogueRow, State.memOk_engineWrite]

theorem State.memOk_sidebandRow (core o row i m wr k) : (s.sidebandRow core o row i m wr k).2.memOk := by
  grind [State.sidebandRow, State.memOk_engineRead, State.memOk_modBlock, State.memOk_engineWrite]

theorem State.memOk_mslPair (core o row a b fmt k slices full wide st) :
    (s.mslPair core o row a b fmt k slices full wide st).2.memOk := by
  grind [State.mslPair, State.memOk_readRecords, State.memOk_modBlock]

omit h in
theorem EngineOp.memOk_goOn (o : EngineOp) {r : Except FaultInfo FlagSet × State} (hr : r.2.memOk) :
    (o.goOn r).2.memOk := by
  unfold EngineOp.goOn
  split <;> exact hr

theorem State.memOk_engineUnit (core) (o : EngineOp) : (s.engineUnit core o).2.memOk := by
  unfold State.engineUnit
  dsimp only
  split
  · exact o.memOk_goOn (State.memOk_loadWeights h ..)
  · exact o.memOk_goOn h
  · grind [EngineOp.memOk_goOn, State.memOk_engineRead, State.memOk_modWarp]
  · grind [EngineOp.memOk_goOn, State.memOk_productRow]
  · grind [EngineOp.memOk_goOn, State.memOk_ownRow]
  · exact o.memOk_goOn (State.memOk_ownRow h ..)
  · grind [State.memOk_mslPair]
  · exact o.memOk_goOn (State.memOk_epilogueRow h ..)
  · exact h
  · exact o.memOk_goOn (State.memOk_sidebandRow h ..)

theorem memOk_execEngineOperationStart (core op) : Out.memOk (execEngineOperationStart core op s) := by
  grind [execEngineOperationStart, Out.memOk, State.memOk_opEnd, State.memOk_sramError, State.memOk_modStat,
    State.memOk_modEngineOp]

theorem memOk_execEngineOperationComplete (core op) : Out.memOk (execEngineOperationComplete core op s) := by
  grind [execEngineOperationComplete, Out.memOk, State.memOk_opEnd]

theorem State.memOk_enginePageFault (core uid i) : (s.enginePageFault core uid i).memOk := by
  grind [State.enginePageFault, State.memOk_stopAt]

theorem State.memOk_engineStep (core o) : (s.engineStep core o).memOk := by
  grind [State.engineStep, State.memOk_opEnd, State.memOk_sramError, State.memOk_engineUnit,
    State.memOk_enginePageFault, State.memOk_modEngineOp, State.memOk_modStat]

theorem memOk_execEnginePageFault (core op) : Out.memOk (execEnginePageFault core op s) := by
  grind [execEnginePageFault, Out.memOk, State.memOk_engineUnit, State.memOk_enginePageFault]

theorem State.memOk_ownTest (core) : (s.ownTest core).memOk := h

theorem State.memOk_engineTick (core) : (s.engineTick core).memOk := by
  grind [State.engineTick, State.memOk_ownTest, State.memOk_post, State.memOk_putCore, State.memOk_engineStep]

theorem State.memOk_failQueue (core) : (s.failQueue core).memOk := by
  grind [State.failQueue, memOk_foldl, State.memOk_opEnd]

end

/-! ### Health and hardware errors -/

section
variable {s : State} (h : s.memOk)
include h

theorem State.memOk_writeHealth (x) : (s.writeHealth x).memOk := by
  grind [State.writeHealth, State.memOk, State.memOk_physWrite]

theorem State.memOk_trip (x) : (s.trip x).memOk := by grind [State.trip, State.memOk, State.memOk_writeHealth]

theorem State.memOk_correctedError (pa) : (s.correctedError pa).memOk := by
  grind [State.correctedError, State.memOk, State.memOk_errorRecord]

theorem State.memOk_poison (pa) : (s.poison pa).memOk := h

theorem State.memOk_strike (e) : (s.strike e).memOk := by
  cases e with
  | corrected pa => exact State.memOk_correctedError h pa
  | sector pa => exact State.memOk_poison h pa
  | stuck pa bad => cases bad <;> exact h
  | register | scratch | columns | accum | buffer => exact h

theorem State.memOk_strikes (l) : (s.strikes l).memOk := by grind [State.strikes, memOk_foldl, State.memOk_strike]

theorem State.memOk_freeSensors : s.freeSensors.2.memOk := h

theorem State.memOk_renewHealth (x) : (s.renewHealth x).memOk := by
  grind [State.renewHealth, State.memOk, State.memOk_strikes, State.memOk_trip, State.memOk_writeHealth]

theorem memOk_execHealthUpdate (x) : Out.memOk (execHealthUpdate x s) := by
  grind [execHealthUpdate, Out.memOk, State.memOk_renewHealth]

theorem memOk_execThermalThrottle (x) : Out.memOk (execThermalThrottle x s) := by
  grind [execThermalThrottle, Out.memOk, State.memOk, State.memOk_strikes]

theorem memOk_execThermalTrip (x) : Out.memOk (execThermalTrip x s) := by
  grind [execThermalTrip, Out.memOk, State.memOk_strikes, State.memOk_trip]

theorem State.memOk_suspectRecords (l) : (s.suspectRecords l).memOk := by
  grind [State.suspectRecords, memOk_foldl, State.memOk_errorRecord]

theorem State.memOk_fence (core q) : (s.fence core q).memOk := by
  grind [State.fence, State.memOk_putCore, State.memOk_errorRecord, State.memOk_suspectRecords, State.memOk_failQueue]

theorem State.memOk_selfTest (core quarter pass) : (s.selfTest core quarter pass).memOk := by
  grind [State.selfTest, State.memOk_putCore, State.memOk_fence]

theorem State.memOk_heldTests (core) : (s.heldTests core).memOk := by
  grind [State.heldTests, memOk_foldl, State.memOk_selfTest, State.memOk_putCore]

theorem memOk_execMatrixSelfTest (core quarter pass) : Out.memOk (execMatrixSelfTest core quarter pass s) := by
  grind [execMatrixSelfTest, Out.memOk, State.memOk_selfTest, State.memOk_putCore]

end

/-! ### Invalidations -/

section
variable {s : State} (h : s.memOk)
include h

theorem State.memOk_invalidate (i) : (s.invalidate i).memOk := by
  grind [State.invalidate, State.memOk, State.memOk_evictAll]

theorem State.memOk_setInval (x) : (s.setInval x).memOk := h

theorem State.memOk_startInval (kind) : (s.startInval kind).memOk := by
  grind [State.startInval, State.memOk, State.memOk_setInval]

theorem State.memOk_writeInval (kind) : (s.writeInval kind).memOk := by
  grind [State.writeInval, State.memOk_startInval]

theorem memOk_execInvalRange : Out.memOk (execInvalRange s) := by
  grind [execInvalRange, Out.memOk, State.memOk_writeInval]

theorem memOk_execInvalAsid : Out.memOk (execInvalAsid s) := by
  grind [execInvalAsid, Out.memOk, State.memOk_writeInval]

theorem memOk_execInvalAll : Out.memOk (execInvalAll s) := by grind [execInvalAll, Out.memOk, State.memOk_writeInval]

theorem memOk_execInvalidationComplete : Out.memOk (execInvalidationComplete s) := by
  grind [execInvalidationComplete, Out.memOk, State.memOk, State.memOk_invalidate, State.memOk_setInval]

end

/-! ### Command packets -/

section
variable {s : State} (h : s.memOk)
include h

theorem State.memOk_putQueue (q x) : (s.putQueue q x).memOk := by
  grind [State.putQueue, State.memOk, State.memOk_physDw]

theorem State.memOk_commandError (q head tag code) : (s.commandError q head tag code).memOk := by
  grind [State.commandError, State.memOk_errorRecord, State.memOk_putQueue]

theorem State.memOk_atHead (q) : (s.atHead q).memOk := by grind [State.atHead, State.memOk, State.memOk_commandError]

theorem State.memOk_moveHead (q head n) : (s.moveHead q head n).memOk := by
  grind [State.moveHead, State.memOk_atHead, State.memOk_putQueue]

omit h in
theorem memOk_finishPacket (p) {r : PEnd} (hr : r.memOk) : (finishPacket p r).memOk := by
  cases r <;> grind [finishPacket, PEnd.memOk, State.memOk_moveHead, State.memOk_putQueue, State.memOk_commandError]

theorem memOk_runPacket {body : Pk → State → PEnd} (p) (hb : ∀ p (t : State), t.memOk → (body p t).memOk) :
    (runPacket body p s).memOk := by
  unfold runPacket
  dsimp only
  split
  · exact State.memOk_commandError h ..
  · exact memOk_finishPacket _ (hb _ s h)

theorem memOk_packetEvent (here p) {body : Pk → State → PEnd} (hb : ∀ p (t : State), t.memOk → (body p t).memOk) :
    Out.memOk (packetEvent here body p s) := by
  unfold packetEvent
  dsimp only [Out.memOk]
  split
  · exact memOk_runPacket h _ hb
  · exact h

theorem Pk.memOk_withCtx (p : Pk) {go : Context → PEnd} (hg : ∀ c, (go c).memOk) : (p.withCtx s go).memOk := by
  unfold Pk.withCtx
  split
  · split
    · exact h
    · exact hg _
  · exact h

theorem Pk.memOk_placeLeaf (p : Pk) (a align need) : (p.placeLeaf s a align need).2.memOk := by
  grind [Pk.placeLeaf, State.memOk_translate]

theorem Pk.memOk_place (p : Pk) (a align need) : (p.place s a align need).2.memOk := by
  grind [Pk.place, Pk.memOk_placeLeaf]

theorem State.memOk_endDestroy (q) : (s.endDestroy q).memOk := h

theorem memOk_held (p) {body : Pk → State → PEnd} (hb : ∀ p (t : State), t.memOk → (body p t).memOk) :
    (held body p s).memOk := by
  unfold held
  split
  · exact h
  · exact hb p s h

/-- A packet that its queue may hold back. -/
theorem memOk_heldPacket (here p) {body : Pk → State → PEnd} (hb : ∀ p (t : State), t.memOk → (body p t).memOk) :
    Out.memOk (packetEvent here (held body) p s) :=
  memOk_packetEvent h here p fun q _ ht => memOk_held ht q hb

end

/-! ### Contexts, grid tables and layouts -/

section
variable {s : State} (h : s.memOk)
include h

theorem State.memOk_extend (ctx ty l) : (s.extend ctx ty l).memOk := h

theorem memOk_ctxnewBody (p) : (ctxnewBody p s).memOk := by grind [ctxnewBody, PEnd.memOk, State.memOk]

theorem memOk_execCtxnew (p) : Out.memOk (execCtxnew p s) :=
  memOk_heldPacket h _ p fun q _ ht => memOk_ctxnewBody ht q

theorem State.memOk_dropTable (tid) : (s.dropTable tid).memOk := by
  grind [State.dropTable, State.memOk, memOk_foldl, State.memOk_failRemote]

theorem memOk_gridtabInstallBody (p) : (gridtabInstallBody p s).memOk := by
  grind [gridtabInstallBody, PEnd.memOk, State.memOk, Pk.memOk_withCtx, State.memOk_dropTable, State.memOk_extend]

theorem memOk_execGridtabInstall (p) : Out.memOk (execGridtabInstall p s) :=
  memOk_heldPacket h _ p fun q _ ht => memOk_gridtabInstallBody ht q

theorem memOk_gridtabRemoveBody (p) : (gridtabRemoveBody p s).memOk := by
  grind [gridtabRemoveBody, PEnd.memOk, Pk.memOk_withCtx, State.memOk_dropTable]

theorem memOk_execGridtabRemove (p) : Out.memOk (execGridtabRemove p s) :=
  memOk_heldPacket h _ p fun q _ ht => memOk_gridtabRemoveBody ht q

theorem memOk_layoutBody (p) : (layoutBody p s).memOk := by
  grind [layoutBody, PEnd.memOk, Pk.memOk_withCtx, State.memOk_extend, State.memOk_physWrite]

theorem memOk_execLayout (p) : Out.memOk (execLayout p s) :=
  memOk_heldPacket h _ p fun q _ ht => memOk_layoutBody ht q

theorem State.memOk_releaseCtx (ctx c) : (s.releaseCtx ctx c).memOk := by
  grind [State.releaseCtx, State.memOk, memOk_foldl, State.memOk_dropTable, State.memOk_invalidate]

theorem memOk_ctxendBody (p) : (ctxendBody p s).memOk := by
  grind [ctxendBody, PEnd.memOk, State.memOk_forcedReset, State.memOk_modCtx, State.memOk_releaseCtx]

theorem memOk_execCtxend (p) : Out.memOk (execCtxend p s) :=
  memOk_heldPacket h _ p fun q _ ht => memOk_ctxendBody ht q

end

/-! ### Protection and scrubs -/

section
variable {s : State} (h : s.memOk)
include h

theorem memOk_huskCreateBody (p) : (huskCreateBody p s).memOk := by grind [huskCreateBody, PEnd.memOk, State.memOk]

theorem memOk_execHuskCreate (p) : Out.memOk (execHuskCreate p s) :=
  memOk_heldPacket h _ p fun q _ ht => memOk_huskCreateBody ht q

theorem State.memOk_zeroise (slot) : (s.zeroise slot).memOk := h

theorem memOk_huskDestroyBody (p) : (huskDestroyBody p s).memOk := by
  grind [huskDestroyBody, PEnd.memOk, State.memOk, State.memOk_endDestroy, State.memOk_zeroise]

theorem memOk_execHuskDestroy (p) : Out.memOk (execHuskDestroy p s) :=
  memOk_heldPacket h _ p fun q _ ht => memOk_huskDestroyBody ht q

theorem memOk_keyslotLoadBody (p) : (keyslotLoadBody p s).memOk := by
  unfold keyslotLoadBody
  -- what the blob holds is not to be evaluated
  generalize unwrapBlob = unwrap
  refine Pk.memOk_withCtx h p fun c => ?_
  grind [PEnd.memOk, State.memOk, State.memOk_modCtx, State.memOk_extend]

theorem memOk_execKeyslotLoad (p) : Out.memOk (execKeyslotLoad p s) :=
  memOk_heldPacket h _ p fun q _ ht => memOk_keyslotLoadBody ht q

theorem memOk_keyslotZeroiseBody (p) : (keyslotZeroiseBody p s).memOk := by
  grind [keyslotZeroiseBody, PEnd.memOk, State.memOk_zeroise]

theorem memOk_execKeyslotZeroise (p) : Out.memOk (execKeyslotZeroise p s) :=
  memOk_heldPacket h _ p fun q _ ht => memOk_keyslotZeroiseBody ht q

theorem memOk_attestBody (p) : (attestBody p s).memOk := by
  grind [attestBody, PEnd.memOk, State.memOk, Pk.memOk_withCtx, State.memOk_modCtx, State.memOk_physWrite]

theorem memOk_execAttest (p) : Out.memOk (execAttest p s) :=
  memOk_heldPacket h _ p fun q _ ht => memOk_attestBody ht q

theorem State.memOk_markFrame (x f) : (s.markFrame x f).2.memOk := by grind [State.markFrame, State.memOk_putOwner]

theorem State.memOk_markFrames (x l) : (s.markFrames x l).2.memOk := by
  induction l generalizing s with
  | nil => exact h
  | cons f r ih => exact ih (State.memOk_markFrame h ..)

theorem State.memOk_setScrub (x) : (s.setScrub x).memOk := by
  grind [State.setScrub, State.memOk, State.memOk_putRegion]

theorem State.memOk_dropScrub (x) : (s.dropScrub x).memOk := by
  grind [State.dropScrub, State.memOk, State.memOk_putRegion]

theorem State.memOk_putScrub (x) : (s.putScrub x).memOk := by
  grind [State.putScrub, State.memOk_setScrub, State.memOk_physWrite]

theorem memOk_scrubStartBody (p) : (scrubStartBody p s).memOk := by
  grind [scrubStartBody, PEnd.memOk, State.memOk, Pk.memOk_withCtx, State.memOk_markFrames, State.memOk_putScrub,
    State.memOk_modCtx]

theorem memOk_execScrubStart (p) : Out.memOk (execScrubStart p s) :=
  memOk_heldPacket h _ p fun q _ ht => memOk_scrubStartBody ht q

theorem memOk_scrubContinueBody (p) : (scrubContinueBody p s).memOk := by
  grind [scrubContinueBody, PEnd.memOk, State.memOk_markFrames, State.memOk_setScrub]

theorem memOk_execScrubContinue (p) : Out.memOk (execScrubContinue p s) :=
  memOk_heldPacket h _ p fun q _ ht => memOk_scrubContinueBody ht q

theorem State.memOk_retireFrame (f) : (s.retireFrame f).memOk := by
  grind [State.retireFrame, State.memOk_putOwner, State.memOk_errorRecord]

theorem State.memOk_scrubOne (f) : (s.scrubOne f).memOk := by
  grind [State.scrubOne, State.memOk, State.memOk_dropCopies, State.memOk_zeroLines, State.memOk_putOwner,
    State.memOk_retireFrame]

theorem memOk_execScrubFrame : Out.memOk (execScrubFrame s) := by
  grind [execScrubFrame, Out.memOk, State.memOk_scrubOne, State.memOk_putScrub]

theorem State.memOk_writeReceipt (x cold) : (s.writeReceipt x cold).memOk := by
  grind [State.writeReceipt, State.memOk_physWrite]

theorem State.memOk_endScrub (x) : (s.endScrub x).memOk := by
  grind [State.endScrub, State.memOk, State.memOk_writeReceipt, State.memOk_putScrub, State.memOk_dropScrub,
    State.memOk_errorRecord]

theorem memOk_execScrubReceipt : Out.memOk (execScrubReceipt s) := by
  grind [execScrubReceipt, Out.memOk, State.memOk_endScrub]

end

/-! ### Boot and reset -/

section
variable {s : State} (h : s.memOk)
include h

theorem State.memOk_bootEnd : s.bootEnd.memOk := by
  grind [State.bootEnd, State.memOk, memOk_foldl, State.memOk_retireFrame, State.memOk_freeSensors,
    State.memOk_writeHealth]

theorem State.memOk_noBlob : s.noBlob.memOk := h

omit h in
theorem State.memOk_fresh (s : State) : s.fresh.memOk := rfl

omit h in
theorem State.memOk_wipe (s : State) : s.wipe.memOk := by
  refine memOk_foldl ?_ (fun t e ht => State.memOk_spoil ht ..) _
  rfl

theorem State.memOk_coldReceipt (owners x) : (s.coldReceipt owners x).memOk := by
  grind [State.coldReceipt, State.memOk_writeReceipt]

omit h in
theorem State.memOk_coldMemory (s old : State) : (s.coldMemory old).memOk :=
  memOk_foldl s.memOk_wipe (fun _ _ ht => State.memOk_coldReceipt ht ..) _

omit h in
theorem State.memOk_coldStart (s : State) (cfg fails) : (s.coldStart cfg fails).memOk :=
  State.memOk_bootEnd (State.memOk_coldMemory _ s)

theorem State.memOk_coldHalt : s.coldHalt.memOk := h

theorem memOk_execColdBoot (blobs fails) : Out.memOk (execColdBoot blobs fails s) := by
  grind [execColdBoot, Out.memOk, State.memOk_coldHalt, State.memOk_coldStart]

theorem State.memOk_dropL1 : s.dropL1.memOk := by
  grind [State.dropL1, State.memOk, memOk_foldl, State.memOk_choose, State.memOk_writeHome]

theorem State.memOk_resumeScrub (x) : (s.resumeScrub x).memOk := by
  grind [State.resumeScrub, State.memOk_putScrub, State.memOk_errorRecord]

theorem State.memOk_orphanScrub : s.orphanScrub.memOk := by
  grind [State.orphanScrub, State.memOk, State.memOk_markFrames, State.memOk_setScrub]

theorem State.memOk_warmKept : s.warmKept.memOk := by
  grind [State.warmKept, State.memOk, memOk_foldl, State.memOk_dropL1, State.memOk_sealHusk, State.memOk_fresh]

theorem State.memOk_warmStart (cfg) : (s.warmStart cfg).memOk := by
  grind [State.warmStart, State.memOk, memOk_foldl, State.memOk_warmKept, State.memOk_bootEnd, State.memOk_wipe,
    State.memOk_errorRecord, State.memOk_resumeScrub, State.memOk_orphanScrub]

theorem memOk_execWarmReset (a b) : Out.memOk (execWarmReset a b s) := by
  grind [execWarmReset, Out.memOk, State.memOk_noBlob, State.memOk_warmKept, State.memOk_warmStart]

end

end Sys2Proof.Machine
end

section
/-! Memory stays canonical: branches, grid accesses, copies, and the issue of a warp. -/
namespace Sys2Proof.Machine

/-! ### Branches and the end of lanes -/

section
variable {s : State} (h : s.memOk)
include h

theorem memOk_execBrc (f) : Out.memOk (execBrc f s) :=
  memOk_native h _ fun en he => by grind [Res.memOk]

theorem memOk_execBrv (f) : Out.memOk (execBrv f s) :=
  memOk_native h _ fun en he => by
    grind [Res.memOk, Env.memOk_fail, Env.memOk_put, State.memOk_stackWrite, Env.memOk_failIn, State.memOk_putWarp]

theorem memOk_execRcv (f) : Out.memOk (execRcv f s) :=
  memOk_native h _ fun en he => by grind [Res.memOk, Env.memOk_resolved]

omit h in
theorem Env.memOk_exitLanes {en : Env} (he : en.s.memOk) : en.exitLanes.memOk := by
  grind [Env.exitLanes, Res.memOk, Env.memOk_fail, Env.memOk_resolved]

theorem memOk_execExit (f) : Out.memOk (execExit f s) :=
  memOk_native h _ fun en he => by grind [Res.memOk, Env.memOk_exitLanes]

end

/-! ### Capabilities -/

section
variable {s : State} (h : s.memOk)
include h

theorem memOk_execCld (f) : Out.memOk (execCld f s) :=
  memOk_native h _ fun en he => by
    grind [Res.memOk, State.memOk_laneCheck, Env.memOk_failIn, State.memOk_l1Load, State.memOk_putWarp]

theorem memOk_execCst (f) : Out.memOk (execCst f s) :=
  memOk_native h _ fun en he => by
    grind [Res.memOk, State.memOk, State.memOk_homeCheck, Env.memOk_failIn, State.memOk_physWrite, State.memOk_goHome,
      MemSys.memOk_setTag]

end

/-! ### Grid accesses -/

section
variable {s : State} (h : s.memOk)
include h

omit h in
theorem Env.memOk_withPattern {en : Env} (he : en.s.memOk) (f ok) {go : Job → BitVec 128 → Res}
    (hg : ∀ j n, (go j n).memOk) : (en.withPattern f ok go).memOk := by
  unfold Env.withPattern
  dsimp only
  split
  · exact hg ..
  · exact he

theorem Env.memOk_gridStart (en : Env) (d g) {send : Nat → State → State}
    (hs : ∀ k (t : State), t.memOk → (send k t).memOk) : (en.gridStart s d g send).memOk := by
  have issued := State.memOk_newHandle h en.key d 4 g.fn none
  unfold Env.gridStart
  dsimp only
  split
  · exact issued
  · exact hs _ _ issued

theorem memOk_execGst (f) : Out.memOk (execGst f s) := by
  refine memOk_native h f fun en he => Env.memOk_withPattern he _ _ fun j n => ?_
  dsimp only
  split
  · exact he
  · refine Env.memOk_gridStart ?_ en _ _ fun k t ht => memOk_foldl ht (fun u r hu => State.memOk_sendFrame hu ..) _
    split
    · exact State.memOk_release he _
    · exact he

omit h in
theorem Env.memOk_sendLoad {en : Env} (he : en.s.memOk) (f c n off j pat) : (en.sendLoad f c n off j pat).memOk := by
  grind [Env.sendLoad, Res.memOk, State.memOk_silentKey, State.memOk_addGrid, State.memOk_sendFrame]

theorem memOk_execGld (f) : Out.memOk (execGld f s) :=
  memOk_native h _ fun en he => by
    grind [Res.memOk, Env.memOk_withPattern, Env.memOk_sendLoad, State.memOk_dropLoad, State.memOk_takeLoad]

theorem memOk_execGatom (f) : Out.memOk (execGatom f s) := by
  refine memOk_native h f fun en he => Env.memOk_withPattern he _ _ fun j n => ?_
  dsimp only
  split
  · exact he
  · exact Env.memOk_gridStart he en _ _ fun k t ht => State.memOk_sendFrame ht ..

theorem State.memOk_gatomReturn (k g l) : (s.gatomReturn k g l).memOk := by
  grind [State.gatomReturn, State.memOk_modWarp, State.memOk_checkGrid, State.memOk_modGrid]

omit h in
theorem Env.memOk_gridRange {en : Env} (he : en.s.memOk) (f align) {go : Cap → Cap → Res} (hg : ∀ c d, (go c d).memOk) :
    (en.gridRange f align go).memOk := by
  unfold Env.gridRange
  dsimp only
  split
  · exact he
  · split
    · exact he
    · exact hg ..

omit h in
theorem Env.memOk_gridSource {en : Env} (he : en.s.memOk) (f src g) : (en.gridSource f src g).memOk :=
  Env.memOk_gridStart (State.memOk_flushFor he ..) en _ _ fun _ _ ht => ht

theorem memOk_execGred (f) : Out.memOk (execGred f s) :=
  memOk_native h _ fun en he => by
    grind [Res.memOk, Env.memOk_withPattern, Env.memOk_fail, Env.memOk_gridRange, Env.memOk_gridSource]

theorem memOk_execGcpy (f) : Out.memOk (execGcpy f s) :=
  memOk_native h _ fun en he => by
    grind [Res.memOk, Env.memOk_withPattern, Env.memOk_gridRange, Env.memOk_gridSource]

end

/-! ### Pre-emption -/

section
variable {s : State} (h : s.memOk)
include h

theorem State.memOk_setMode (ctx park by_) : (s.setMode ctx park by_).memOk := h

theorem State.memOk_unparkCtx (ctx by_) : (s.unparkCtx ctx by_).memOk := h

theorem memOk_preemptBody (park p) : (preemptBody park p s).memOk := by
  grind [preemptBody, PEnd.memOk, State.memOk_setMode, State.memOk_modCtx]

theorem memOk_execPreemptPark (p) : Out.memOk (execPreemptPark p s) :=
  memOk_heldPacket h _ p fun q _ ht => memOk_preemptBody ht _ q

theorem memOk_execPreemptRequeue (p) : Out.memOk (execPreemptRequeue p s) :=
  memOk_heldPacket h _ p fun q _ ht => memOk_preemptBody ht _ q

theorem memOk_resumeBody (p) : (resumeBody p s).memOk := by grind [resumeBody, PEnd.memOk, State.memOk_unparkCtx]

theorem memOk_execPreemptResume (p) : Out.memOk (execPreemptResume p s) :=
  memOk_heldPacket h _ p fun q _ ht => memOk_resumeBody ht q

theorem memOk_execDrainDeadline (ctx) : Out.memOk (execDrainDeadline ctx s) := by
  grind [execDrainDeadline, Out.memOk, State.memOk_modCtx]

theorem memOk_execSaveDeadline (ctx) : Out.memOk (execSaveDeadline ctx s) := by
  grind [execSaveDeadline, Out.memOk, State.memOk_forcedReset]

theorem State.memOk_startPreempt (ctx save packet ckpt) : (s.startPreempt ctx save packet ckpt).memOk := h

end

/-! ### Copies -/

section
variable {s : State} (h : s.memOk)
include h

theorem memOk_execCopyEntryStart (block) : Out.memOk (execCopyEntryStart block s) := by
  unfold execCopyEntryStart
  change State.memOk _
  split
  · exact h
  next r hr =>
  extract_lets b v q words e
  clear_value e words
  have failed : ∀ (t : State) (f : Block → Block), t.memOk → ((t.modBlock block f).endBlock block).memOk :=
    fun t f ht => State.memOk_endBlock (State.memOk_modBlock ht ..) _
  split
  · exact h
  · split
    · exact State.memOk_modBlock h ..
    · split
      · exact h
      · split
        · exact State.memOk_modBlock h ..
        · split
          · exact h
          · split
            · exact failed _ _ (State.memOk_sramError h ..)
            · split
              · refine failed _ _ ?_
                grind [State.memOk_memError]
              · split
                · exact h
                · exact State.memOk_modBlock h ..

theorem State.memOk_copyRead (bk scratch a n) : (s.copyRead bk scratch a n).2.memOk := by
  grind [State.copyRead, State.memOk_engineRead]

theorem State.memOk_copyWrite (bk scratch a l) : (s.copyWrite bk scratch a l).2.memOk := by
  grind [State.copyWrite, State.memOk_modBlock, State.memOk_engineWrite]

theorem State.memOk_redRead (bk p) : (s.redRead bk p).2.memOk := by
  grind [State.redRead, memOk_foldl, State.memOk_translateRange, State.memOk_noteUnreadable, State.memOk_settleRange,
    State.memOk_discardRange]

theorem State.memOk_copyPiece (bk e p) : (s.copyPiece bk e p).2.memOk := by
  grind [State.copyPiece, State.memOk_copyRead, State.memOk_copyWrite, State.memOk_redRead]

theorem State.memOk_failCopy (block q) : (s.failCopy block q).memOk := by
  grind [State.failCopy, State.memOk_endBlock, State.memOk_modBlock]

theorem State.memOk_copyStep (bk c) : (s.copyStep bk c).memOk := by
  grind [State.copyStep, State.memOk_failCopy, State.memOk_sramError, State.memOk_copyPiece, State.memOk_stopAt,
    State.memOk_modBlock]

theorem memOk_execCopyEntryComplete (block entry) : Out.memOk (execCopyEntryComplete block entry s) := by
  grind [execCopyEntryComplete, Out.memOk, State.memOk_modBlock, State.memOk_modWarp, State.memOk_endBlock]

theorem State.memOk_copyTick (bk) : (s.copyTick bk).memOk := by
  grind [State.copyTick, State.memOk_post, State.memOk_copyStep]

omit h in
theorem Env.memOk_publish {en : Env} (he : en.s.memOk) (f e) : (en.publish f e).memOk := by
  grind [Env.publish, Res.memOk, Env.memOk_fail, State.memOk_modBlock, State.memOk_release, State.memOk_putWarp]

theorem memOk_publisher (f scratch bad e) : Out.memOk (publisher f s scratch bad e) :=
  memOk_native h _ fun en he => by grind [Res.memOk, Env.memOk_fail, Env.memOk_failIn, Env.memOk_publish]

theorem memOk_execCpy (f) : Out.memOk (execCpy f s) := by grind [execCpy, Out.memOk, memOk_publisher]

theorem memOk_execCpyr (f) : Out.memOk (execCpyr f s) := by grind [execCpyr, Out.memOk, memOk_publisher]

theorem memOk_execCpyt (f) : Out.memOk (execCpyt f s) := by grind [execCpyt, Out.memOk, memOk_publisher]

theorem memOk_execCpyg (f) : Out.memOk (execCpyg f s) := by grind [execCpyg, Out.memOk, memOk_publisher]

theorem memOk_execCpyx (f) : Out.memOk (execCpyx f s) := by grind [execCpyx, Out.memOk, memOk_publisher]

theorem memOk_execCpyInit (f) : Out.memOk (execCpyInit f s) :=
  memOk_native h _ fun en he => by grind [Res.memOk, Env.memOk_failIn, Env.memOk_fail, State.memOk_modBlock]

theorem memOk_execCpyCap (f) : Out.memOk (execCpyCap f s) :=
  memOk_native h _ fun en he => by grind [Res.memOk, State.memOk_modBlock]

end

/-! ### Issue -/

section
variable {s : State} (h : s.memOk)
include h

theorem State.memOk_look (key w k) : (s.look key w k).2.memOk := by grind [State.look, State.memOk_fetch]

theorem memOk_runLook {ex : Instr → State → Out} (hx : ∀ i (t : State), t.memOk → Out.memOk (ex i t)) (l paired) :
    Out.memOk (runLook ex s l paired) := by
  cases l with
  | run i is => exact hx _ _ h
  | bad cause addr is => exact Env.memOk_raise h _
  | torn row is => exact Env.memOk_raise (State.memOk_sramError h ..) _

theorem State.memOk_deliver (key suppressed) : (s.deliver key suppressed).memOk := by
  grind [State.deliver, State.memOk, State.memOk_modWarp, State.memOk_takeTrap, State.memOk_startHalt]

theorem State.memOk_setLosses (key k n) : (s.setLosses key k n).memOk := h

theorem memOk_issueOne {ex : Instr → State → Out} (hx : ∀ i (t : State), t.memOk → Out.memOk (ex i t)) (key k l) :
    Out.memOk (issueOne ex s key k l) := by
  have looked := memOk_runLook (State.memOk_setLosses h key k 0) hx l false
  unfold issueOne
  split
  next t ht => rwa [ht] at looked
  · trivial
  · trivial

theorem memOk_issueBoth {ex : Instr → State → Out} (hx : ∀ i (t : State), t.memOk → Out.memOk (ex i t)) (key a b) :
    Out.memOk (issueBoth ex s key a b) := by
  have first := memOk_runLook (State.memOk_setLosses (State.memOk_setLosses h key 0 0) key 1 0) hx a true
  unfold issueBoth
  split
  · trivial
  · trivial
  next t ht =>
    rw [ht] at first
    have second := memOk_runLook first hx b true
    split
    · trivial
    · trivial
    next u hu =>
      rw [hu] at second
      have kept : (if !t.traps.isEmpty && decide (1 < u.traps.length) then t else u).memOk := by
        split
        · exact first
        · exact second
      exact State.memOk_deliver kept ..

theorem State.memOk_plan (key w) : (s.plan key w).2.memOk := by grind [State.plan, State.memOk_look]

theorem Plan.memOk_issue {ex : Instr → State → Out} (hx : ∀ i (t : State), t.memOk → Out.memOk (ex i t)) (key)
    (p : Plan) : Out.memOk (p.issue ex s key) := by
  cases p with
  | idle => exact h
  | one k l => exact memOk_issueOne h hx ..
  | beat k l => exact memOk_issueOne (State.memOk_modWarp h ..) hx ..
  | both a b => exact memOk_issueBoth h hx ..

theorem State.memOk_noteIssue (key u hold) : (s.noteIssue key u hold).memOk := by
  grind [State.noteIssue, State.memOk, State.memOk_modWarp, State.memOk_putCore]

theorem State.memOk_mend (key l) : (s.mend key l).memOk := by grind [State.mend, State.memOk_putWarp]

theorem State.memOk_noteLoss (key) : (s.noteLoss key).memOk := h

theorem memOk_issueWarp {ex : Instr → State → Out} (hx : ∀ i (t : State), t.memOk → Out.memOk (ex i t)) (key) :
    Out.memOk (issueWarp ex s key) := by
  unfold issueWarp
  split
  · exact h
  next w _ =>
    have planned := State.memOk_plan h key w
    have issued := Plan.memOk_issue planned hx key (s.plan key w).1
    dsimp only
    generalize s.plan key w = p at planned issued
    split
    · exact planned
    · split
      · trivial
      · trivial
      next t ht =>
        rw [ht] at issued
        split
        · exact State.memOk_noteLoss planned _
        · exact State.memOk_noteIssue (State.memOk_mend issued ..) ..

end

end Sys2Proof.Machine
end

section
/-! Memory stays canonical: placement, launches, frames, checkpoints, nodes and signals. -/
namespace Sys2Proof.Machine

/-! ### The picks of a clk -/

section
variable {s : State} (h : s.memOk)
include h

theorem State.memOk_pickPart (core part l) : (s.pickPart core part l).memOk := by
  grind [State.pickPart, State.memOk, State.memOk_putCore]

theorem State.memOk_ageWarps : s.ageWarps.memOk := h

theorem State.memOk_noteYields (l) : (s.noteYields l).memOk := by grind [State.noteYields, State.memOk]

theorem State.memOk_makePicks : s.makePicks.memOk := by
  grind [State.makePicks, memOk_foldl, State.memOk_ageWarps, State.memOk_noteYields, State.memOk_pickPart]

end

/-! ### Placement -/

section
variable {s : State} (h : s.memOk)
include h

theorem State.memOk_freshL1 (ctx core) : (s.freshL1 ctx core).memOk := by
  grind [State.freshL1, State.memOk_evictWhere]

theorem State.memOk_takeCore (x core) : (s.takeCore x core).memOk := by
  grind [State.takeCore, State.memOk, memOk_foldl, State.memOk_evictWhere, State.memOk_freshL1, State.memOk_modCtx]

theorem State.memOk_placeBlock (key l core) : (s.placeBlock key l core).memOk := by
  grind [State.placeBlock, State.memOk, State.memOk_takeCore]

theorem memOk_execLaunchDeadline (launch) : Out.memOk (execLaunchDeadline launch s) := by
  grind [execLaunchDeadline, Out.memOk, State.memOk_forcedReset]

theorem State.memOk_expireSlice (launch core l) : (s.expireSlice launch core l).memOk := by
  grind [State.expireSlice, State.memOk, State.memOk_startPreempt]

theorem memOk_execTimeSliceExpiry (launch core) : Out.memOk (execTimeSliceExpiry launch core s) := by
  grind [execTimeSliceExpiry, Out.memOk, State.memOk_modCtx, State.memOk_expireSlice]

end

/-! ### Launches -/

section
variable {s : State} (h : s.memOk)
include h

theorem State.memOk_readSpans (l) : (s.readSpans l).2.memOk := by
  induction l generalizing s with
  | nil => exact h
  | cons x r ih => grind [State.readSpans, State.memOk_noteUnreadable, State.memOk_freeBytes]

theorem State.memOk_codeBytes (ctx c) : (s.codeBytes ctx c).2.memOk := by
  grind [State.codeBytes, State.memOk_translateRange, State.memOk_readSpans]

theorem State.memOk_measureLaunch (l) : (s.measureLaunch l).memOk := by
  grind [State.measureLaunch, State.memOk_codeBytes, State.memOk_extend]

theorem State.memOk_refuseRecord (l cause ctx) : (s.refuseRecord l cause ctx).memOk := by
  grind [State.refuseRecord, State.memOk_errorRecord]

theorem State.memOk_sendStart (l sub) : (s.sendStart l sub).memOk := by grind [State.sendStart, State.memOk_sendFrame]

theorem State.memOk_startTo (gtid opnum m sub) : (s.startTo gtid opnum m sub).memOk := by
  grind [State.startTo, State.memOk_sendFrame]

theorem State.memOk_discardLaunch (key l cause) : (s.discardLaunch key l cause).memOk := by
  grind [State.discardLaunch, State.memOk_dropLaunch, State.memOk_refuseRecord]

theorem State.memOk_cancelLaunch (key l cause) : (s.cancelLaunch key l cause).memOk := by
  grind [State.cancelLaunch, State.memOk_discardLaunch, State.memOk_sendStart]

theorem State.memOk_releaseLaunch (key l) : (s.releaseLaunch key l).memOk := by
  grind [State.releaseLaunch, State.memOk, State.memOk_finishLaunch]

theorem State.memOk_startArrived (key l arrivals) : (s.startArrived key l arrivals).memOk := by
  grind [State.startArrived, State.memOk, State.memOk_releaseLaunch, State.memOk_sendStart]

theorem State.memOk_addLaunch (l) : (s.addLaunch l).2.memOk := h

theorem Pk.memOk_launchRecord (p : Pk) : (p.launchRecord s).2.memOk := by
  grind [Pk.launchRecord, Pk.memOk_place, State.memOk_settleRange, Pk.memOk_placeLeaf]

theorem State.memOk_acceptOwn (l) : (s.acceptOwn l).memOk := by
  grind [State.acceptOwn, State.memOk, State.memOk_measureLaunch, State.memOk_addLaunch, State.memOk_sendFrame,
    State.memOk_startArrived]

theorem memOk_launchBody (p) : (launchBody p s).memOk := by
  grind [launchBody, PEnd.memOk, Pk.memOk_withCtx, Pk.memOk_launchRecord, State.memOk_refuseRecord,
    State.memOk_writeDone, State.memOk_acceptOwn]

theorem memOk_execLaunch (p) : Out.memOk (execLaunch p s) :=
  memOk_heldPacket h _ p fun q _ ht => memOk_launchBody ht q

theorem State.memOk_takeLaunch (f) : (s.takeLaunch f).memOk := by
  grind [State.takeLaunch, State.memOk_startTo, State.memOk_refuseRecord, State.memOk_measureLaunch,
    State.memOk_addLaunch]

theorem State.memOk_onLaunch (f) : (s.onLaunch f).memOk := by
  grind [State.onLaunch, State.memOk, State.memOk_takeLaunch]

theorem State.memOk_takeHeld (l) : (s.takeHeld l).memOk := by
  induction l generalizing s with
  | nil => exact h
  | cons f r ih => grind [State.memOk, State.takeHeld, State.memOk_takeLaunch]

theorem State.memOk_onStart (f) : (s.onStart f).memOk := by
  grind [State.onStart, State.memOk, State.memOk_startArrived, State.memOk_startTo, State.memOk_cancelLaunch,
    State.memOk_releaseLaunch, State.memOk_discardLaunch]

theorem memOk_execStartBarrierTimeout (launch) : Out.memOk (execStartBarrierTimeout launch s) := by
  unfold execStartBarrierTimeout
  dsimp only [Out.memOk]
  split
  · split
    · split
      · split
        · exact State.memOk_cancelLaunch h ..
        · exact State.memOk_startTo (State.memOk_discardLaunch h ..) ..
      · exact h
    · exact h
  · exact h

end

/-! ### Verdicts of the fault queue -/

section
variable {s : State} (h : s.memOk)
include h

theorem State.memOk_staleVerdict : s.staleVerdict.memOk := h

theorem State.memOk_failStopped (x) : (s.failStopped x).memOk := by
  unfold State.failStopped
  split
  · grind [State.memOk_opEnd]
  · exact State.memOk_failCopy h ..
  · exact State.memOk_failGrid h ..
  · exact State.memOk_failReads h ..
  · exact State.memOk_failRemote h ..

theorem State.memOk_replayStopped (x) : (s.replayStopped x).memOk := by
  unfold State.replayStopped
  split
  · exact State.memOk_runRemote (State.memOk_setFault h ..) ..
  · exact State.memOk_setFault h ..

theorem State.memOk_giveVerdict (seq replay) : (s.giveVerdict seq replay).memOk := by
  grind [State.giveVerdict, State.memOk_staleVerdict, State.memOk_replayStopped, State.memOk_failStopped]

theorem memOk_execFaultReplay (seq) : Out.memOk (execFaultReplay seq s) := by
  grind [execFaultReplay, Out.memOk, State.memOk_giveVerdict]

theorem memOk_execFaultFail (seq) : Out.memOk (execFaultFail seq s) := by
  grind [execFaultFail, Out.memOk, State.memOk_giveVerdict]

end

/-! ### What frames do -/

section
variable {s : State} (h : s.memOk)
include h

theorem State.memOk_endCkpt (c v code d0 d1) : (s.endCkpt c v code d0 d1).memOk := by
  grind [State.endCkpt, State.memOk, memOk_foldl, State.memOk_physDw, State.memOk_settle, State.memOk_modCtx,
    State.memOk_errorRecord]

theorem State.memOk_failCkpt (d1) : (s.failCkpt d1).memOk := by grind [State.failCkpt, State.memOk_endCkpt]

theorem State.memOk_request (f) {act : State → State} (ha : (act s).memOk) : (s.request f act).memOk := by
  unfold State.request
  split
  · exact State.memOk_nack h ..
  · exact ha

theorem State.memOk_answered (f) {act : State → State} (ha : (act s).memOk) : (s.answered f act).memOk := by
  unfold State.answered
  split
  · exact State.memOk_nackAnswer h _
  · exact ha

theorem memOk_onStartFrame (f) : (onStartFrame f s).memOk := by
  grind [onStartFrame, State.memOk_nackAnswer, State.memOk_nack, State.memOk_onStart]

theorem memOk_onAccess (f) : (onAccess f s).memOk := State.memOk_request h f (State.memOk_startRemote h ..)

theorem memOk_onLdrep (f) : (onLdrep f s).memOk := by
  refine State.memOk_answered h f ?_
  grind [State.memOk_modGrid]

theorem memOk_onAtrep (f) : (onAtrep f s).memOk := by
  refine State.memOk_answered h f ?_
  grind [State.memOk_gatomReturn]

theorem memOk_onContribution (f) : (onContribution f s).memOk := State.memOk_request h f (State.memOk_contribute h ..)

theorem memOk_onExpr (f) : (onExpr f s).memOk := State.memOk_answered h f (State.memOk_sendBins h _)

theorem memOk_onTack (f) : (onTack f s).memOk := by
  grind [onTack, memOk_foldl, State.memOk_pump, State.memOk_acked, State.memOk_adapt]

theorem memOk_onDone (f) : (onDone f s).memOk := by
  refine State.memOk_answered h f ?_
  grind [State.memOk_gather]

theorem State.memOk_nackRed (f) : (s.nackRed f).memOk := by
  grind [State.nackRed, State.memOk, memOk_foldl, State.memOk_failGrid, State.memOk_dropReds]

theorem memOk_onNack (f) : (onNack f s).memOk := by
  grind [onNack, State.memOk_nackAnswer, State.memOk_nackRed, State.memOk_failGrid, State.memOk_cancelLaunch]

theorem memOk_frameAct (f) : (frameAct f s).memOk := by
  generalize ha : frameAct f = act
  unfold frameAct at ha
  split at ha <;> subst ha
  · exact memOk_onAccess h f
  · exact memOk_onAccess h f
  · exact memOk_onLdrep h f
  · exact memOk_onAccess h f
  · exact memOk_onAtrep h f
  · exact memOk_onContribution h f
  · exact memOk_onExpr h f
  · exact memOk_onContribution h f
  · exact memOk_onAccess h f
  · exact memOk_onTack h f
  · exact memOk_onDone h f
  · exact memOk_onNack h f
  · exact State.memOk_request h f (State.memOk_onLaunch h f)
  · exact memOk_onStartFrame h f
  · exact h

theorem memOk_frameEvent (f ty) {act : Frame → State → State} (ha : ∀ f (t : State), t.memOk → (act f t).memOk) :
    Out.memOk (frameEvent f ty act s) :=
  State.memOk_arrive h _ ha

theorem memOk_execMalformedFrame (f) : Out.memOk (execMalformedFrame f s) := by
  grind [execMalformedFrame, Out.memOk, State.memOk_arriveOn, State.memOk_dropMalformed]

theorem State.memOk_receiveOwn (f) : (s.receiveOwn f).memOk := by
  grind [State.receiveOwn, State.memOk_receive, memOk_frameAct]

theorem memOk_ueAct (f) : (ueAct f s).memOk := by
  grind [ueAct, memOk_onTack, State.memOk_nackAnswer, State.memOk_failCkpt, memOk_frameAct]

theorem memOk_execUePacket (p) : Out.memOk (execUePacket p s) := by
  grind [execUePacket, Out.memOk, State.memOk_arrive, memOk_ueAct, State.memOk_arriveOn]

theorem State.memOk_giveUp (seq t) : (s.giveUp seq t).memOk := by
  grind [State.giveUp, State.memOk, State.memOk_errorRecord, State.memOk_failCkpt, State.memOk_failGrid,
    State.memOk_pump]

theorem memOk_execRetransmissionTimeout (seq) : Out.memOk (execRetransmissionTimeout seq s) := by
  grind [execRetransmissionTimeout, Out.memOk, State.memOk, State.memOk_giveUp, State.memOk_emit]

theorem memOk_execReductionTimeout (reduction) : Out.memOk (execReductionTimeout reduction s) := by
  unfold execReductionTimeout
  dsimp only [Out.memOk]
  split
  · split
    · exact State.memOk_failRed h ..
    · exact h
  · exact h

end

/-! ### Checkpoints -/

section
variable {s : State} (h : s.memOk)
include h

theorem memOk_ckptBody (p) : (ckptBody p s).memOk := by
  grind [ckptBody, PEnd.memOk, State.memOk, memOk_foldl, State.memOk_startPreempt]

theorem memOk_execCkpt (p) : Out.memOk (execCkpt p s) := memOk_heldPacket h _ p fun q _ ht => memOk_ckptBody ht q

theorem State.memOk_ckptSend (c off l) : (s.ckptSend c off l).memOk := by
  grind [State.ckptSend, State.memOk_sendFrame]

theorem State.memOk_ckptNext (c) : (s.ckptNext c).memOk := by
  grind [State.ckptNext, State.memOk, State.memOk_settleRange, State.memOk_memError, State.memOk_ckptSend]

theorem memOk_execCheckpointStream : Out.memOk (execCheckpointStream s) := by
  grind [execCheckpointStream, Out.memOk, State.memOk, State.memOk_ckptNext]

theorem memOk_execCheckpointFinish : Out.memOk (execCheckpointFinish s) := by
  grind [execCheckpointFinish, Out.memOk, State.memOk, State.memOk_ckptSend, State.memOk_endCkpt]

end

/-! ### Node groups -/

section
variable {s : State} (h : s.memOk)
include h

theorem Pk.memOk_nodePlaces (p : Pk) : (p.nodePlaces s).2.memOk := by
  refine memOk_foldl_snd h (fun x a hx => ?_) _
  grind [Pk.memOk_place]

theorem State.memOk_nodeRead (n a) : (s.nodeRead n a).2.memOk := by grind [State.nodeRead, State.memOk_nodeAddr]

theorem State.memOk_nodeWrite (n a x) : (s.nodeWrite n a x).memOk := by
  grind [State.nodeWrite, State.memOk_nodeAddr, State.memOk_physDw]

theorem memOk_nodeOpenBody (p) : (nodeOpenBody p s).memOk := by
  refine Pk.memOk_withCtx h p fun _ => ?_
  grind [PEnd.memOk, State.memOk, Pk.memOk_nodePlaces, State.memOk_nodeRead]

theorem memOk_execNodeOpen (p) : Out.memOk (execNodeOpen p s) :=
  memOk_heldPacket h _ p fun q _ ht => memOk_nodeOpenBody ht q

theorem State.memOk_recordReady (n seq) : (s.recordReady n seq).2.memOk := by
  grind [State.recordReady, State.memOk_nodeRead]

theorem State.memOk_noteReady (n seq fuel) : (s.noteReady n seq fuel).2.memOk := by
  induction fuel generalizing s n seq with
  | zero => exact h
  | succ fuel ih => exact ih (State.memOk_recordReady h ..) ..

theorem State.memOk_readyRecords (n seq fuel) : (s.readyRecords n seq fuel).2.memOk := by
  induction fuel generalizing s seq with
  | zero => exact h
  | succ fuel ih => grind [State.readyRecords, State.memOk_recordReady]

theorem State.memOk_groupReady (n) : (s.groupReady n).2.memOk := by grind [State.groupReady, State.memOk_readyRecords]

theorem State.memOk_groupLaunch (key n) : (s.groupLaunch key n).2.memOk := by
  grind [State.groupLaunch, State.memOk_nodeAddr, State.memOk_settleRange]

theorem State.memOk_startGroup (key n count) : (s.startGroup key n count).memOk := by
  grind [State.startGroup, State.memOk, State.memOk_groupLaunch, State.memOk_nodeWrite, State.memOk_refuseRecord,
    State.memOk_nodeConsume, State.memOk_addLaunch, State.memOk_measureLaunch]

theorem memOk_execNodeGroupLaunch (node) : Out.memOk (execNodeGroupLaunch node s) := by
  grind [execNodeGroupLaunch, Out.memOk, State.memOk_groupReady, State.memOk_startGroup]

theorem memOk_execNodeGroupTimer (node) : Out.memOk (execNodeGroupTimer node s) := by
  grind [execNodeGroupTimer, Out.memOk, State.memOk_groupReady, State.memOk_startGroup]

theorem State.memOk_flushNode (key fuel) : (s.flushNode key fuel).memOk := by
  induction fuel generalizing s with
  | zero => exact h
  | succ fuel ih => grind [State.flushNode, State.memOk_groupReady, State.memOk_startGroup]

theorem memOk_nodeCloseBody (p) : (nodeCloseBody p s).memOk := by
  refine Pk.memOk_withCtx h p fun _ => ?_
  grind [PEnd.memOk, State.memOk, State.memOk_flushNode, State.memOk_nodeRead]

theorem memOk_execNodeClose (p) : Out.memOk (execNodeClose p s) :=
  memOk_heldPacket h _ p fun q _ ht => memOk_nodeCloseBody ht q

theorem State.memOk_nodeTick (key n) : (s.nodeTick key n).memOk := by
  grind [State.nodeTick, State.memOk, State.memOk_noteReady, State.memOk_groupReady, State.memOk_post]

end

/-! ### Waits on memory, and signals -/

section
variable {s : State} (h : s.memOk)
include h

theorem Pk.memOk_test (p : Pk) : (p.test s).2.memOk := by grind [Pk.test, Pk.memOk_place, State.memOk_settle]

theorem memOk_waitmemBody (p) : (waitmemBody p s).memOk := by
  grind [waitmemBody, PEnd.memOk, Pk.memOk_withCtx, Pk.memOk_test]

theorem memOk_execWaitmem (p) : Out.memOk (execWaitmem p s) :=
  memOk_heldPacket h _ p fun q _ ht => memOk_waitmemBody ht q

theorem memOk_execWaitmemPoll (queue) : Out.memOk (execWaitmemPoll queue s) := by
  grind [execWaitmemPoll, Out.memOk, memOk_runPacket, memOk_held, memOk_waitmemBody]

theorem memOk_execWaitmemTimeout (queue) : Out.memOk (execWaitmemTimeout queue s) := by
  grind [execWaitmemTimeout, Out.memOk, State.memOk_commandError]

theorem memOk_execPacketUnblock (queue) : Out.memOk (execPacketUnblock queue s) := by
  grind [execPacketUnblock, Out.memOk, State.memOk_putQueue]

theorem Pk.memOk_condTest (p : Pk) : (p.condTest s).2.memOk := by grind [Pk.condTest, Pk.memOk_test]

theorem memOk_condBody (p) {act : Pk → State → PEnd} (ha : ∀ p (t : State), t.memOk → (act p t).memOk) :
    (condBody act p s).memOk := by
  refine Pk.memOk_withCtx h p fun _ => ?_
  have tested := Pk.memOk_condTest h p
  generalize p.condTest s = r at tested
  split
  · exact tested
  · exact tested
  · exact ha p _ tested

theorem memOk_skipWalk (p fuel w left done) : (skipWalk p s fuel w left done).memOk := by
  induction fuel generalizing w left done with
  | zero => exact h
  | succ fuel ih => grind [skipWalk, PEnd.memOk]

theorem memOk_condSkipBody (p) : (condSkipBody p s).memOk := memOk_condBody h p fun _ _ ht => memOk_skipWalk ht ..

theorem memOk_condRepeatBody (p) : (condRepeatBody p s).memOk := by
  refine memOk_condBody h p fun q t ht => ?_
  split <;> exact ht

theorem memOk_condJumpBody (p) : (condJumpBody p s).memOk := by grind [condJumpBody, PEnd.memOk, memOk_condBody]

theorem memOk_execCondSkip (p) : Out.memOk (execCondSkip p s) :=
  memOk_heldPacket h _ p fun q _ ht => memOk_condSkipBody ht q

theorem memOk_execCondRepeat (p) : Out.memOk (execCondRepeat p s) :=
  memOk_heldPacket h _ p fun q _ ht => memOk_condRepeatBody ht q

theorem memOk_execCondJump (p) : Out.memOk (execCondJump p s) :=
  memOk_heldPacket h _ p fun q _ ht => memOk_condJumpBody ht q

theorem memOk_signalBody (p) : (signalBody p s).memOk := by
  grind [signalBody, PEnd.memOk, State.memOk, Pk.memOk_withCtx, Pk.memOk_place, State.memOk_settle,
    State.memOk_physWrite]

theorem memOk_execSignalStore (p) : Out.memOk (execSignalStore p s) :=
  memOk_heldPacket h _ p fun q _ ht => memOk_signalBody ht q

theorem memOk_execSignalAdd (p) : Out.memOk (execSignalAdd p s) :=
  memOk_heldPacket h _ p fun q _ ht => memOk_signalBody ht q

theorem memOk_execSignalMax (p) : Out.memOk (execSignalMax p s) :=
  memOk_heldPacket h _ p fun q _ ht => memOk_signalBody ht q

end

end Sys2Proof.Machine
end

section
/-! Memory stays canonical: rounds, control registers, tiles, save, resume, and one step. -/
namespace Sys2Proof.Machine

/-! ### Doorbells and rounds -/

section
variable {s : State} (h : s.memOk)
include h

theorem State.memOk_latch (q) : (s.latch q).memOk := by
  grind [State.latch, State.memOk, State.memOk_commandError, State.memOk_putQueue]

theorem State.memOk_ringTail (q tail) : (s.ringTail q tail).memOk := by
  grind [State.ringTail, State.memOk_commandError, State.memOk_atHead, State.memOk_putQueue]

theorem State.memOk_ringReload (q) : (s.ringReload q).memOk := by
  grind [State.ringReload, State.memOk_latch, State.memOk_putQueue, State.memOk_atHead]

theorem State.memOk_ringStop (q) : (s.ringStop q).memOk := by
  grind [State.ringStop, State.memOk_physDw, State.memOk_putQueue, State.memOk_endDestroy]

theorem State.memOk_doorbell (q v) : (s.doorbell q v).memOk := by
  grind [State.doorbell, State.memOk_latch, State.memOk_ringTail, State.memOk_ringReload, State.memOk_ringStop]

theorem memOk_execDoorbellTail (queue value) : Out.memOk (execDoorbellTail queue value s) := by
  grind [execDoorbellTail, Out.memOk, State.memOk_doorbell]

theorem memOk_execDoorbellReload (queue value) : Out.memOk (execDoorbellReload queue value s) := by
  grind [execDoorbellReload, Out.memOk, State.memOk_doorbell]

theorem memOk_execDoorbellStop (queue value) : Out.memOk (execDoorbellStop queue value s) := by
  grind [execDoorbellStop, Out.memOk, State.memOk_doorbell]

theorem memOk_packetBody (p q) : (packetBody p q s).memOk := by
  generalize hb : packetBody p = body
  unfold packetBody at hb
  split at hb <;> subst hb
  · split
    · exact memOk_gridtabInstallBody h q
    · exact memOk_gridtabRemoveBody h q
  · exact memOk_ctxnewBody h q
  · exact memOk_ctxendBody h q
  · split
    · exact memOk_huskCreateBody h q
    · exact memOk_huskDestroyBody h q
  · split
    · exact memOk_keyslotLoadBody h q
    · exact memOk_keyslotZeroiseBody h q
  · split
    · exact memOk_scrubStartBody h q
    · exact memOk_scrubContinueBody h q
  · exact memOk_attestBody h q
  · exact memOk_layoutBody h q
  · exact memOk_launchBody h q
  · split
    · exact memOk_nodeOpenBody h q
    · exact memOk_nodeCloseBody h q
  · split
    · exact memOk_preemptBody h _ q
    · split
      · exact memOk_preemptBody h _ q
      · exact memOk_resumeBody h q
  · exact memOk_ckptBody h q
  · exact memOk_waitmemBody h q
  · exact memOk_signalBody h q
  · split
    · exact memOk_condSkipBody h q
    · split
      · exact memOk_condRepeatBody h q
      · exact memOk_condJumpBody h q

theorem State.memOk_movePointers (lanes) : (s.movePointers lanes).memOk := h

theorem memOk_runLanes (l) : (runLanes s l).memOk := by
  grind [runLanes, memOk_foldl, memOk_runPacket, memOk_held, memOk_packetBody]

theorem memOk_execArnalRound : Out.memOk (execArnalRound s) := by
  grind [execArnalRound, Out.memOk, memOk_foldl, memOk_runLanes, State.memOk_movePointers]

end

/-! ### The registers of the package -/

section
variable {s : State} (h : s.memOk)
include h

theorem State.memOk_setEnable (on) : (s.setEnable on).memOk := h

theorem State.memOk_verdict (seq code) : (s.verdict seq code).memOk := by
  unfold State.verdict
  split
  · exact State.memOk_giveVerdict h ..
  · exact State.memOk_giveVerdict h ..
  · exact h

theorem State.memOk_writeXlat (o v) : (s.writeXlat o v).memOk := by
  unfold State.writeXlat
  dsimp only
  split
  case h_4 => exact State.memOk_startInval h _
  case h_6 => exact State.memOk_verdict h ..
  all_goals exact h

theorem State.memOk_writeArnal (o v) : (s.writeArnal o v).memOk := by
  unfold State.writeArnal
  dsimp only
  split
  case h_2 => exact State.memOk_setEnable h _
  case h_3 | h_4 => split <;> exact h
  all_goals exact h

theorem memOk_execRegisterWrite (offset value) : Out.memOk (execRegisterWrite offset value s) := by
  grind [execRegisterWrite, Out.memOk, State.memOk_writeXlat, State.memOk_doorbell, State.memOk_writeArnal]

theorem State.memOk_noteRefusal (pa write) : (s.noteRefusal pa write).memOk := by
  grind [State.noteRefusal, State.memOk, State.memOk_errorRecord]

theorem State.memOk_bar2 (offset n write) : (s.bar2 offset n write).2.memOk := by
  grind [State.bar2, State.memOk_noteRefusal]

theorem memOk_execBar2Read (offset bytes) : Out.memOk (execBar2Read offset bytes s) := by
  grind [execBar2Read, Out.memOk, State.memOk, State.memOk_bar2, State.memOk_settleRange, State.memOk_freeBytes,
    State.memOk_memError]

theorem memOk_execBar2Write (offset data) : Out.memOk (execBar2Write offset data s) := by
  grind [execBar2Write, Out.memOk, State.memOk_bar2, State.memOk_settleRange, State.memOk_physWrite]

end

/-! ### Forerunner instructions -/

section
variable {s : State} (h : s.memOk)
include h

theorem memOk_execFrLoadWord (f) : Out.memOk (execFrLoadWord f s) :=
  memOk_forerunner h _ fun en he => by grind [Res.memOk, Env.memOk_globalLoad]

theorem memOk_execFrStoreWord (f) : Out.memOk (execFrStoreWord f s) :=
  memOk_forerunner h _ fun en he => by grind [Res.memOk, Env.memOk_globalStore]

theorem memOk_execFrScratchpadLoadWord (f) : Out.memOk (execFrScratchpadLoadWord f s) :=
  memOk_forerunner h _ fun en he => by grind [Res.memOk, Env.memOk_scratchLoad]

theorem memOk_execFrScratchpadStoreWord (f) : Out.memOk (execFrScratchpadStoreWord f s) :=
  memOk_forerunner h _ fun en he => by grind [Res.memOk, Env.memOk_scratchStore]

theorem memOk_execFrFence (f) : Out.memOk (execFrFence f s) :=
  memOk_forerunner h _ fun en he => by grind [Res.memOk, Env.memOk_fenceKind]

omit h in
theorem Env.memOk_nestStep {en : Env} (he : en.s.memOk) (g) : (en.nestStep g).memOk := by
  grind [Env.nestStep, Res.memOk, Env.memOk_done]

theorem memOk_execFrIf (f) : Out.memOk (execFrIf f s) :=
  memOk_forerunnerSlot h fun en he => by grind [Res.memOk, Env.memOk_nestStep]

theorem memOk_execFrElse (f) : Out.memOk (execFrElse f s) :=
  memOk_forerunnerSlot h fun en he => by grind [Res.memOk, Env.memOk_nestStep]

theorem memOk_execFrEndIf (f) : Out.memOk (execFrEndIf f s) :=
  memOk_forerunnerSlot h fun en he => by grind [Res.memOk, Env.memOk_nestStep]

theorem memOk_execFrBreak (f) : Out.memOk (execFrBreak f s) :=
  memOk_forerunnerSlot h fun en he => by grind [Res.memOk, Env.memOk_nestStep]

theorem memOk_execFrLoop (f) : Out.memOk (execFrLoop f s) :=
  memOk_forerunnerSlot h fun en he => by grind [Res.memOk, Env.memOk_nestStep]

theorem memOk_execFrBlockBarrier (f) : Out.memOk (execFrBlockBarrier f s) :=
  memOk_forerunnerSlot h fun en he => by
    grind [Res.memOk, State.memOk_modWarp, Env.memOk_waitBarrier, Env.memOk_failIn, Env.memOk_arrive]

theorem memOk_execFrExit (f) : Out.memOk (execFrExit f s) :=
  memOk_forerunner h _ fun en he => by grind [Res.memOk, Env.memOk_exitLanes]

end

/-! ### Waits on grid operations, and tiles -/

section
variable {s : State} (h : s.memOk)
include h

theorem memOk_execGwait (f) : Out.memOk (execGwait f s) :=
  memOk_native h _ fun en he => by grind [Res.memOk, Env.memOk_done, Env.memOk_fail]

omit h in
theorem Env.memOk_withTile {en : Env} (he : en.s.memOk) (f) {go : State → Nat → Nat → Cap → TileView → Res}
    (hg : ∀ t slot i c x, t.memOk → (go t slot i c x).memOk) : (en.withTile f go).memOk := by
  unfold Env.withTile
  dsimp only
  split
  · exact he
  next slot _ =>
    split
    · exact he
    · split
      · exact he
      · have viewed := State.memOk_tileView (State.memOk_flushFor he en.key
          [((en.w.getC f.b.toNat).base.toNat, 64, false),
            ((tileEntry (en.w.getC f.b.toNat) (en.sA f).toNat).toNat, 64, false)])
          en.block.core en.ctx (en.w.getC f.b.toNat) (en.sA f).toNat
        generalize State.tileView _ _ _ _ _ = r at viewed
        split
        · exact viewed
        · split
          · exact viewed
          · exact hg _ _ _ _ _ viewed

theorem memOk_execTtfire (f) : Out.memOk (execTtfire f s) := by
  refine memOk_native h f fun en he => Env.memOk_withTile he f fun t slot i c x ht => ?_
  grind [Res.memOk, State.memOk_release, State.memOk_newHandle, State.memOk_modStat, State.memOk_engineWrite,
    Env.memOk_failIn, State.memOk_putWarp, State.memOk_fireTile]

theorem memOk_execTtwait (f) : Out.memOk (execTtwait f s) := by
  refine memOk_native h f fun en he => Env.memOk_withTile he f fun t slot i c x ht => ?_
  grind [Res.memOk, State.memOk_engineWrite, Env.memOk_failIn, State.memOk_acquire, State.memOk_putWarp]

end

/-! ### Handles and pods -/

section
variable {s : State} (h : s.memOk)
include h

theorem memOk_execMwait (f) : Out.memOk (execMwait f s) :=
  memOk_native h _ fun en he => by grind [Res.memOk, Env.memOk_fail]

theorem memOk_execMwaitB (f) : Out.memOk (execMwaitB f s) :=
  memOk_native h _ fun en he => by grind [Res.memOk, Env.memOk_put]

theorem memOk_execHcancel (f) : Out.memOk (execHcancel f s) :=
  memOk_native h _ fun en he => by grind [Res.memOk, State.memOk_modWarp, State.memOk_opEnd, Env.memOk_done]

theorem State.memOk_podTaken (bk a b) : (s.podTaken bk a b).memOk := by
  grind [State.podTaken, memOk_foldl, State.memOk_takeTrap]

theorem memOk_podJoin (uncond f) : Out.memOk (podJoin uncond f s) :=
  memOk_native h _ fun en he => by
    grind [Res.memOk, Env.memOk_fail, Env.memOk_failIn, State.memOk_takeTrap, State.memOk_modWarp,
      State.memOk_podTaken, State.memOk_finishWait]

theorem memOk_execPodC (f) : Out.memOk (execPodC f s) := by grind [execPodC, Out.memOk, memOk_podJoin]

theorem memOk_execPodU (f) : Out.memOk (execPodU f s) := by grind [execPodU, Out.memOk, memOk_podJoin]

theorem memOk_execPodOff (f) : Out.memOk (execPodOff f s) :=
  memOk_native h _ fun en he => by grind [Res.memOk, State.memOk_dissolve, Env.memOk_fail]

end

/-! ### Links -/

section
variable {s : State} (h : s.memOk)
include h

theorem memOk_execLinkDown (port cause) : Out.memOk (execLinkDown port cause s) := by
  grind [execLinkDown, Out.memOk, State.memOk_takeDown]

theorem memOk_execLinkUp (port cause) : Out.memOk (execLinkUp port cause s) := by
  grind [execLinkUp, Out.memOk, State.memOk_errorRecord, State.memOk_modPort]

theorem memOk_execIntegrityFailure (port) : Out.memOk (execIntegrityFailure port s) := by
  grind [execIntegrityFailure, Out.memOk, State.memOk_authFail, State.memOk_modPort]

theorem memOk_execLlrResend (port) : Out.memOk (execLlrResend port s) := by
  grind [execLlrResend, Out.memOk, State.memOk, State.memOk_takeDown, State.memOk_modPort]

end

/-! ### Predicates -/

section
variable {s : State} (h : s.memOk)
include h

omit h in
theorem Env.memOk_writeP {en : Env} (he : en.s.memOk) (lane d x) : (en.writeP lane d x).memOk := he

theorem memOk_execPmov (f) : Out.memOk (execPmov f s) :=
  memOk_native h _ fun en he => by grind [Res.memOk, Env.memOk_done, Env.memOk_writeP]

end

/-! ### The save of a context -/

section
variable {s : State} (h : s.memOk)
include h

theorem State.memOk_stopContext (ctx c) : (s.stopContext ctx c).memOk := by
  grind [State.stopContext, State.memOk, memOk_foldl, State.memOk_finishSlot, State.memOk_withdraw,
    State.memOk_cleanAll]

theorem State.memOk_leaveCores (ctx c) : (s.leaveCores ctx c).memOk := by
  grind [State.leaveCores, memOk_foldl, State.memOk_offCores, State.memOk_leaveCore, State.memOk_modCtx]

theorem memOk_execPreciseSave (ctx) : Out.memOk (execPreciseSave ctx s) := by
  grind [execPreciseSave, Out.memOk, State.memOk, State.memOk_stopContext, State.memOk_forcedReset,
    State.memOk_saveWrite, State.memOk_leaveCores, State.memOk_modCtx]

end

/-! ### The resume of a context -/

section
variable {s : State} (h : s.memOk)
include h

omit h in
theorem Restore.memOk_link {r : Restore} (h : r.s.memOk) (bk wid v word desc) :
    (r.link bk wid v word desc).2.s.memOk := by
  grind [Restore.link, Res.memOk, State.memOk]

omit h in
theorem Restore.memOk_handles {r : Restore} (h : r.s.memOk) (a bk wid o) : (r.handles a bk wid o).s.memOk := by
  refine Restore.memOk_foldl h (fun t i ht => ?_) _
  grind [Restore.memOk_link]

theorem State.memOk_restoreLoad (core l) : (s.restoreLoad core l).2.memOk := by
  grind [State.restoreLoad, State.memOk_newLoad, State.memOk_putCore]

omit h in
theorem Restore.memOk_image {r : Restore} (h : r.s.memOk) (a ctx bk core wid old o) :
    (r.image a ctx bk core wid old o).s.memOk := by
  grind [Restore.image, Res.memOk, Restore.memOk_link, State.memOk_restoreLoad]

omit h in
theorem Restore.memOk_load {r : Restore} (h : r.s.memOk) (ctx bk core uid wid v old) :
    (r.load ctx bk core uid wid v old).2.s.memOk := by
  grind [Restore.load, Res.memOk, State.memOk_restoreLoad]

omit h in
theorem Restore.memOk_groups {r : Restore} (h : r.s.memOk) (ctx bk core uid wid v done l) :
    (r.groups ctx bk core uid wid v done l).2.s.memOk := by
  induction l generalizing r done with
  | nil => exact h
  | cons x l ih => grind [Restore.groups, Restore.memOk_load]

omit h in
theorem Restore.memOk_kind {r : Restore} (h : r.s.memOk) (a ctx bk core uid done k x i) :
    (r.kind a ctx bk core uid done k x i).2.s.memOk := by
  unfold Restore.kind
  dsimp only
  split
  case h_1 => exact State.memOk_modStat (Restore.memOk_load h ..) ..
  case h_4 => exact Restore.memOk_link h ..
  case h_5 =>
    split
    · exact Restore.memOk_groups h ..
    · exact h
  case h_6 => exact Restore.memOk_load h ..
  all_goals exact h

omit h in
theorem Restore.memOk_op {r : Restore} (h : r.s.memOk) (a ctx bk core k batch cols o) :
    (r.op a ctx bk core k batch cols o).s.memOk := by
  grind [Restore.op, Res.memOk, State.memOk, Restore.memOk_link, Restore.memOk_kind, State.memOk_modStat,
    State.memOk_putCore]

omit h in
theorem Restore.memOk_warp {r : Restore} (h : r.s.memOk) (a bk vregs wid o) : (r.warp a bk vregs wid o).s.memOk := by
  grind [Restore.warp, Res.memOk, State.memOk, Restore.memOk_link, State.memOk_putWarp]

theorem State.memOk_restoreBlock (a ctx kept key x) : (s.restoreBlock a ctx kept key x).memOk := by
  refine memOk_foldl (Restore.memOk_foldl (Restore.memOk_foldl (Restore.memOk_foldl (Restore.memOk_foldl ?_
    (fun r w hr => Restore.memOk_handles hr ..) _) (fun r i hr => Restore.memOk_image hr ..) _)
    (fun r o hr => Restore.memOk_op hr ..) _) (fun r w hr => Restore.memOk_warp hr ..) _)
    (fun t y ht => State.memOk_modWarp ht ..) _
  exact h

theorem State.memOk_restoreLaunch (a ctx i key word) : (s.restoreLaunch a ctx i key word).memOk := by
  grind [State.restoreLaunch, State.memOk, State.memOk_translate]

theorem State.memOk_deliverSlice (ctx held) : (s.deliverSlice ctx held).memOk := by
  unfold State.deliverSlice
  split
  · exact h
  · have freed := State.memOk_modCtx h ctx fun c => { c with sliceHeld := none }
    dsimp only
    split
    · exact State.memOk_expireSlice freed ..
    · exact freed

theorem State.memOk_endResume (ctx c) : (s.endResume ctx c).memOk := by
  grind [State.endResume, State.memOk_physWrite, State.memOk_modCtx, State.memOk_deliverSlice]

theorem memOk_execContextResume (ctx) : Out.memOk (execContextResume ctx s) := by
  grind [execContextResume, Out.memOk, memOk_foldl, State.memOk_forcedReset, State.memOk_modCtx,
    State.memOk_restoreLaunch, State.memOk_endResume]

theorem State.memOk_placeSaved (key l u core) : (s.placeSaved key l u core).memOk := by
  grind [State.placeSaved, State.memOk, State.memOk_forcedReset, State.memOk_takeCore, State.memOk_modCtx,
    State.memOk_restoreBlock, State.memOk_endResume]

theorem State.memOk_placeFirst (l) : (s.placeFirst l).memOk := by
  induction l generalizing s with
  | nil => exact h
  | cons x r ih => grind [State.memOk, State.placeFirst, State.memOk_placeSaved, State.memOk_placeBlock]

theorem memOk_execBlockPlacement : Out.memOk (execBlockPlacement s) := by
  grind [execBlockPlacement, Out.memOk, State.memOk_placeFirst]

end

/-! ### Membership sets -/

section
variable {s : State} (h : s.memOk)
include h

theorem memOk_execSetj (f) : Out.memOk (execSetj f s) :=
  memOk_native h _ fun en he => by
    grind [Res.memOk, Env.memOk_fail, Env.memOk_done, State.memOk_modBlock, State.memOk_putWarp]

theorem memOk_execSetl (f) : Out.memOk (execSetl f s) :=
  memOk_native h _ fun en he => by grind [Res.memOk, Env.memOk_fail, State.memOk_modBlock]

theorem memOk_execSetw (f) : Out.memOk (execSetw f s) :=
  memOk_native h _ fun en he => by
    grind [Res.memOk, Env.memOk_fail, State.memOk_modBlock, State.memOk_release, State.memOk_acquire]

end

/-! ### Divergence-stack records, traps and special registers -/

section
variable {s : State} (h : s.memOk)
include h

theorem memOk_execDpsh (f) : Out.memOk (execDpsh f s) :=
  memOk_native h _ fun en he => by grind [Res.memOk, State.memOk_stackWrite, Env.memOk_failIn, State.memOk_putWarp]

theorem memOk_execDpop (f) : Out.memOk (execDpop f s) :=
  memOk_native h _ fun en he => by
    grind [Res.memOk, State.memOk_topRecord, Env.memOk_failIn, Env.memOk_fail, Env.memOk_resolved]

theorem memOk_execBkpt (f) : Out.memOk (execBkpt f s) :=
  memOk_native h _ fun en he => by grind [Res.memOk]

theorem memOk_execRtt (f) : Out.memOk (execRtt f s) :=
  memOk_native h _ fun en he => by
    grind [Res.memOk, Env.memOk_fail, State.memOk_trapReturn, Env.memOk_failIn, Env.memOk_resolved]

theorem memOk_execCsrr (f) : Out.memOk (execCsrr f s) :=
  memOk_native h _ fun en he => by grind [Res.memOk, Env.memOk_done]

theorem memOk_execIllegalInstruction : Out.memOk (execIllegalInstruction s) :=
  memOk_forerunnerSlot h fun en he => by grind [Res.memOk, Env.memOk_fail]

end

/-! ### Watchdogs -/

section
variable {s : State} (h : s.memOk)
include h

theorem memOk_execBarrierTimeoutWatchdog (ctx) : Out.memOk (execBarrierTimeoutWatchdog ctx s) := by
  grind [execBarrierTimeoutWatchdog, Out.memOk, State.memOk_forcedReset]

theorem memOk_execHangWatchdog (ctx) : Out.memOk (execHangWatchdog ctx s) := by
  grind [execHangWatchdog, Out.memOk, memOk_execBarrierTimeoutWatchdog, State.memOk_forcedReset]

theorem memOk_execL1WritebackTimeout (l1 sector) : Out.memOk (execL1WritebackTimeout l1 sector s) := by
  grind [execL1WritebackTimeout, Out.memOk, State.memOk_cleanWhere]

end

/-! ### A clk -/

section
variable {s : State} (h : s.memOk)
include h

theorem State.memOk_postAll (l) : (s.postAll l).memOk := h

theorem State.memOk_count : s.count.memOk := h

theorem State.memOk_workEngines : s.workEngines.memOk := by
  grind [State.workEngines, memOk_foldl, State.memOk_heldTests, State.memOk_engineTick, State.memOk_copyTick,
    State.memOk_gridStep]

theorem State.memOk_workFabric : s.workFabric.memOk := by
  grind [State.workFabric, State.memOk, memOk_foldl, State.memOk_receiveOwn, State.memOk_takeHeld,
    State.memOk_runRemote]

theorem State.memOk_workRings : s.workRings.memOk := by
  grind [State.workRings, memOk_foldl, State.memOk_nodeTick, State.memOk_retryFaults]

theorem State.memOk_healthTick : s.healthTick.memOk := by
  grind [State.healthTick, State.memOk_freeSensors, State.memOk_renewHealth]

theorem State.memOk_work : s.work.memOk := by
  grind [State.work, State.memOk, State.memOk_workRings, State.memOk_workFabric, State.memOk_workEngines,
    State.memOk_makePicks, State.memOk_postAll]

theorem State.memOk_tick : s.tick.memOk := by
  grind [State.tick, State.memOk, State.memOk_healthTick, State.memOk_count, State.memOk_work]

end

end Sys2Proof.Machine
end

section
/-! Every happening, and every step, keeps memory canonical (R10, R256, R257, R261). -/
namespace Sys2Proof.Machine

section
variable {s : State} (h : s.memOk)
include h

/-- Every happening keeps memory canonical: an instruction whose body writes registers alone has the memory that it
found; any other has a lemma above. -/
theorem memOk_exec (i) : Out.memOk (exec i s) := by
  cases i with
  | sadd _ | ssub _ | smul _ | smulh _ | sand _ | sor _ | sxor _ | sshl _ | sshr _ | ssra _ | smin _ | smax _
    | smov _ | srot _ | sdiv _ | srem _ | vadd _ | vsub _ | vmul _ | vmulh _ | vand _ | vor _ | vxor _ | vshl _
    | vshr _ | vsra _ | vmin _ | vmax _ | vmov _ | fadd _ | fsub _ | fmul _ | fmin _ | fmax _ | pand _ | por _
    | pxor _ | pandn _ | hadd2 _ | hmul2 _ | sclz _ | spopc _ | sbfe _ | sbfi _ | ssel _ | sli _ | slea _
    | scmp _ | pnot _ | pset _ | pcnt _ | pff _ | bra _ | call _ | callx _ | ret _ | jmpx _ | nop _ | yld _
    | trap _ | csrw _ | clock _ | vmad _ | vabs _ | vneg _ | vclz _ | vpopc _ | vbfe _ | vbfi _ | vsel _ | vcmp _
    | vbcst _ | vshf _ | vred _ | vscan _ | vdot4 _ | ffma _ | fabs _ | fneg _ | fcmp _ | fclass _ | fscale _
    | frnd _ | hfma2 _ | frcp _ | frsq _ | fsqrt _ | fexp2 _ | flog2 _ | fsin _ | fcos _ | ftanh _ | fcvt _
    | f2i _ | i2f _ | cmov _ | cbnd _ | cperm _ | cget _ | ctest _ | cseal _ | mfence _ | htest _ | hmov _
    | gpatAx _ | gpatL0 _ | gpatL1 _ | gcrdAx _ | gcrdCnt _ | gcrdIdx _ | ttfireArm _ =>
    exact memOk_native h _ fun _ he => he
  | frNoOperation _ | frIntegerAdd _ | frIntegerSubtract _ | frIntegerMultiply _ | frAnd _ | frOr _ | frXor _
    | frShiftLeft _ | frLogicalShiftRight _ | frArithmeticShiftRight _ | frFp32Add _ | frFp32Multiply _
    | frFp32Fma _ | frMove _ | frLoadImmediate _ | frLaneNumber _ | frIntegerCompare _ | frFp32Compare _
    | frScalarAddImmediate _ | frScalarLoadImmediate _ | frTrap _ => exact memOk_forerunner h _ fun _ he => he
  | frBranch _ | frCall _ | frReturn _ | instructionFetchFault _ _ => exact memOk_forerunnerSlot h fun _ he => he
  | frameStore f | frameLdreq f | frameAtom f | frameRedr f =>
    exact memOk_frameEvent h f _ fun g _ ht => memOk_onAccess ht g
  | frameLdrep f => exact memOk_frameEvent h f _ fun g _ ht => memOk_onLdrep ht g
  | frameAtrep f => exact memOk_frameEvent h f _ fun g _ ht => memOk_onAtrep ht g
  | frameExp f | frameRed f => exact memOk_frameEvent h f _ fun g _ ht => memOk_onContribution ht g
  | frameExpr f => exact memOk_frameEvent h f _ fun g _ ht => memOk_onExpr ht g
  | frameTack f => exact memOk_frameEvent h f _ fun g _ ht => memOk_onTack ht g
  | frameDone f => exact memOk_frameEvent h f _ fun g _ ht => memOk_onDone ht g
  | frameNack f => exact memOk_frameEvent h f _ fun g _ ht => memOk_onNack ht g
  | frameLaunch f => exact memOk_frameEvent h f _ fun g _ ht => State.memOk_request ht g (State.memOk_onLaunch ht g)
  | frameStart f => exact memOk_frameEvent h f _ fun g _ ht => memOk_onStartFrame ht g
  | placementWaitExpiry _ | yldExpiry _ => exact h
  | pmov f => exact memOk_execPmov h f
  | brc f => exact memOk_execBrc h f
  | brv f => exact memOk_execBrv h f
  | rcv f => exact memOk_execRcv h f
  | exit f => exact memOk_execExit h f
  | dpsh f => exact memOk_execDpsh h f
  | dpop f => exact memOk_execDpop h f
  | bkpt f => exact memOk_execBkpt h f
  | rtt f => exact memOk_execRtt h f
  | csrr f => exact memOk_execCsrr h f
  | ld f => exact memOk_execLd h f
  | st f => exact memOk_execSt h f
  | ldk f => exact memOk_execLdk h f
  | pref f => exact memOk_execPref h f
  | cflush f => exact memOk_execCflush h f
  | lds f => exact memOk_execLds h f
  | sts f => exact memOk_execSts h f
  | atom f => exact memOk_execAtom h f
  | atoms f => exact memOk_execAtoms h f
  | fence f => exact memOk_execFence h f
  | cld f => exact memOk_execCld h f
  | cst f => exact memOk_execCst h f
  | wld f => exact memOk_execWld h f
  | wscl f => exact memOk_execWscl h f
  | wsclNone f => exact memOk_execWsclNone h f
  | mma f => exact memOk_execMma h f
  | mmag f => exact memOk_execMmag h f
  | mmap f => exact memOk_execMmap h f
  | msl f => exact memOk_execMsl h f
  | aalloc f => exact memOk_execAalloc h f
  | afree f => exact memOk_execAfree h f
  | awin f => exact memOk_execAwin h f
  | azero f => exact memOk_execAzero h f
  | lda f => exact memOk_execLda h f
  | sta f => exact memOk_execSta h f
  | aepi f => exact memOk_execAepi h f
  | agui f => exact memOk_execAgui h f
  | atopk f => exact memOk_execAtopk h f
  | atksRd f => exact memOk_execAtksRd h f
  | atksWr f => exact memOk_execAtksWr h f
  | mwait f => exact memOk_execMwait h f
  | mwaitB f => exact memOk_execMwaitB h f
  | hcancel f => exact memOk_execHcancel h f
  | podC f => exact memOk_execPodC h f
  | podU f => exact memOk_execPodU h f
  | podOff f => exact memOk_execPodOff h f
  | cpy f => exact memOk_execCpy h f
  | cpyInit f => exact memOk_execCpyInit h f
  | cpyCap f => exact memOk_execCpyCap h f
  | cpyt f => exact memOk_execCpyt h f
  | cpyg f => exact memOk_execCpyg h f
  | cpyx f => exact memOk_execCpyx h f
  | cpyr f => exact memOk_execCpyr h f
  | bari f => exact memOk_execBari h f
  | bara f => exact memOk_execBara h f
  | barw f => exact memOk_execBarw h f
  | bart f => exact memOk_execBart h f
  | sbarInit f => exact memOk_execSbarInit h f
  | sbarArrive f => exact memOk_execSbarArrive h f
  | sbarWait f => exact memOk_execSbarWait h f
  | sbarSync f => exact memOk_execSbarSync h f
  | setj f => exact memOk_execSetj h f
  | setl f => exact memOk_execSetl h f
  | setw f => exact memOk_execSetw h f
  | gst f => exact memOk_execGst h f
  | gld f => exact memOk_execGld h f
  | gatom f => exact memOk_execGatom h f
  | gred f => exact memOk_execGred h f
  | gcpy f => exact memOk_execGcpy h f
  | gwait f => exact memOk_execGwait h f
  | ttfire f => exact memOk_execTtfire h f
  | ttwait f => exact memOk_execTtwait h f
  | frLoadWord f => exact memOk_execFrLoadWord h f
  | frStoreWord f => exact memOk_execFrStoreWord h f
  | frScratchpadLoadWord f => exact memOk_execFrScratchpadLoadWord h f
  | frScratchpadStoreWord f => exact memOk_execFrScratchpadStoreWord h f
  | frFence f => exact memOk_execFrFence h f
  | frIf f => exact memOk_execFrIf h f
  | frElse f => exact memOk_execFrElse h f
  | frEndIf f => exact memOk_execFrEndIf h f
  | frBreak f => exact memOk_execFrBreak h f
  | frLoop f => exact memOk_execFrLoop h f
  | frBlockBarrier f => exact memOk_execFrBlockBarrier h f
  | frExit f => exact memOk_execFrExit h f
  | gridtabInstall p => exact memOk_execGridtabInstall h p
  | gridtabRemove p => exact memOk_execGridtabRemove h p
  | ctxnew p => exact memOk_execCtxnew h p
  | ctxend p => exact memOk_execCtxend h p
  | huskCreate p => exact memOk_execHuskCreate h p
  | huskDestroy p => exact memOk_execHuskDestroy h p
  | keyslotLoad p => exact memOk_execKeyslotLoad h p
  | keyslotZeroise p => exact memOk_execKeyslotZeroise h p
  | scrubStart p => exact memOk_execScrubStart h p
  | scrubContinue p => exact memOk_execScrubContinue h p
  | attest p => exact memOk_execAttest h p
  | layout p => exact memOk_execLayout h p
  | launch p => exact memOk_execLaunch h p
  | nodeOpen p => exact memOk_execNodeOpen h p
  | nodeClose p => exact memOk_execNodeClose h p
  | preemptPark p => exact memOk_execPreemptPark h p
  | preemptRequeue p => exact memOk_execPreemptRequeue h p
  | preemptResume p => exact memOk_execPreemptResume h p
  | ckpt p => exact memOk_execCkpt h p
  | waitmem p => exact memOk_execWaitmem h p
  | signalStore p => exact memOk_execSignalStore h p
  | signalAdd p => exact memOk_execSignalAdd h p
  | signalMax p => exact memOk_execSignalMax h p
  | condSkip p => exact memOk_execCondSkip h p
  | condRepeat p => exact memOk_execCondRepeat h p
  | condJump p => exact memOk_execCondJump h p
  | doorbellTail queue value => exact memOk_execDoorbellTail h queue value
  | doorbellReload queue value => exact memOk_execDoorbellReload h queue value
  | doorbellStop queue value => exact memOk_execDoorbellStop h queue value
  | arnalRound => exact memOk_execArnalRound h
  | packetUnblock queue => exact memOk_execPacketUnblock h queue
  | waitmemPoll queue => exact memOk_execWaitmemPoll h queue
  | waitmemTimeout queue => exact memOk_execWaitmemTimeout h queue
  | invalRange => exact memOk_execInvalRange h
  | invalAsid => exact memOk_execInvalAsid h
  | invalAll => exact memOk_execInvalAll h
  | invalidationComplete => exact memOk_execInvalidationComplete h
  | faultReplay seq => exact memOk_execFaultReplay h seq
  | faultFail seq => exact memOk_execFaultFail h seq
  | registerWrite offset value => exact memOk_execRegisterWrite h offset value
  | bar2Read offset bytes => exact memOk_execBar2Read h offset bytes
  | bar2Write offset data => exact memOk_execBar2Write h offset data
  | blockPlacement => exact memOk_execBlockPlacement h
  | startBarrierTimeout launch => exact memOk_execStartBarrierTimeout h launch
  | launchDeadline launch => exact memOk_execLaunchDeadline h launch
  | timeSliceExpiry launch core => exact memOk_execTimeSliceExpiry h launch core
  | drainDeadline ctx => exact memOk_execDrainDeadline h ctx
  | preciseSave ctx => exact memOk_execPreciseSave h ctx
  | saveDeadline ctx => exact memOk_execSaveDeadline h ctx
  | contextResume ctx => exact memOk_execContextResume h ctx
  | hangWatchdog ctx => exact memOk_execHangWatchdog h ctx
  | barrierTimeoutWatchdog ctx => exact memOk_execBarrierTimeoutWatchdog h ctx
  | mmapRendezvousTimeout warp => exact memOk_execMmapRendezvousTimeout h warp
  | engineOperationStart core op => exact memOk_execEngineOperationStart h core op
  | engineOperationComplete core op => exact memOk_execEngineOperationComplete h core op
  | enginePageFault core op => exact memOk_execEnginePageFault h core op
  | faultQueueRetry ctx => exact memOk_execFaultQueueRetry h ctx
  | matrixSelfTest core quarter pass => exact memOk_execMatrixSelfTest h core quarter pass
  | copyEntryStart block => exact memOk_execCopyEntryStart h block
  | copyEntryComplete block entry => exact memOk_execCopyEntryComplete h block entry
  | l1WritebackTimeout l1 sector => exact memOk_execL1WritebackTimeout h l1 sector
  | gridOperationComplete op => exact memOk_execGridOperationComplete h op
  | reductionTimeout reduction => exact memOk_execReductionTimeout h reduction
  | nodeGroupLaunch node => exact memOk_execNodeGroupLaunch h node
  | nodeGroupTimer node => exact memOk_execNodeGroupTimer h node
  | uePacket p => exact memOk_execUePacket h p
  | retransmissionTimeout seq => exact memOk_execRetransmissionTimeout h seq
  | linkDown port cause => exact memOk_execLinkDown h port cause
  | linkUp port cause => exact memOk_execLinkUp h port cause
  | integrityFailure port => exact memOk_execIntegrityFailure h port
  | llrResend port => exact memOk_execLlrResend h port
  | scrubFrame => exact memOk_execScrubFrame h
  | scrubReceipt => exact memOk_execScrubReceipt h
  | coldBoot blobs fails => exact memOk_execColdBoot h blobs fails
  | warmReset a b => exact memOk_execWarmReset h a b
  | checkpointStream => exact memOk_execCheckpointStream h
  | checkpointFinish => exact memOk_execCheckpointFinish h
  | healthUpdate x => exact memOk_execHealthUpdate h x
  | thermalThrottle x => exact memOk_execThermalThrottle h x
  | thermalTrip x => exact memOk_execThermalTrip h x
  | illegalInstruction => exact memOk_execIllegalInstruction h
  | malformedFrame f => exact memOk_execMalformedFrame h f

theorem memOk_step : Out.memOk (step s) := by
  unfold step
  split
  next e r _ =>
    split
    · exact h
    · exact memOk_exec (s := { s with inbox := r, cur := none }) h e
  · split
    next k r _ => exact memOk_issueWarp (s := { s with picks := r }) h (fun i _ ht => memOk_exec ht i) k
    · split
      next e r _ => exact memOk_exec (s := { s with late := r, cur := none }) h e
      · exact State.memOk_tick h

end

/-- Settles O60: each operation of the model keeps memory canonical, and so does each step. -/
theorem everyStepKeepsMemoryCanonical : Obligations.EveryStepKeepsMemoryCanonical := by
  intro s t h hstep
  have kept := memOk_step h
  rwa [hstep] at kept

end Sys2Proof.Machine
end

section
/-! Rounding (R54, R55): a finite value is rounded to one of the two quanta, and so to one of the two codes of a format,
that enclose it; the value of a code is rounded to that code. -/
namespace Sys2Proof.Machine

/-! ### Finite magnitudes -/

/-- The magnitude of a finite value. -/
def mag (m : ℕ) (e : ℤ) : ℚ := m * (2 : ℚ) ^ e

theorem mag_le_mag {a b : ℕ} {q : ℤ} : mag a q ≤ mag b q ↔ a ≤ b := by
  rw [mag, mag, mul_le_mul_iff_left₀ (by positivity), Nat.cast_le]

theorem mag_lt_mag {a b : ℕ} {q : ℤ} : mag a q < mag b q ↔ a < b := by
  rw [mag, mag, mul_lt_mul_iff_left₀ (by positivity), Nat.cast_lt]

/-- A shift of the mantissa is a shift of the exponent. -/
theorem mag_mul_two_pow (m k : ℕ) (e : ℤ) : mag (m * 2 ^ k) e = mag m (e + k) := by
  rw [mag, mag, zpow_add₀ two_ne_zero, zpow_natCast]
  push_cast
  ring

theorem mag_two_pow (k : ℕ) (e : ℤ) : mag (2 ^ k) e = 2 ^ (e + k) := by
  simpa [mag] using mag_mul_two_pow 1 k e

/-- A magnitude as its part kept above `k` bits and the part discarded. -/
theorem mag_div_add_mod (m k : ℕ) (e : ℤ) :
    mag m e = (m / 2 ^ k : ℕ) * (2 ^ k * (2 : ℚ) ^ e) + (m % 2 ^ k : ℕ) * 2 ^ e := by
  rw [mag]
  nth_rw 1 [← Nat.div_add_mod' m (2 ^ k)]
  push_cast
  ring

theorem lt_two_pow_bitLen (m : ℕ) : m < 2 ^ bitLen m := by
  unfold bitLen
  split
  · next h => simp [h]
  · exact Nat.lt_log2_self

theorem mag_lt_two_zpow (m : ℕ) (e : ℤ) : mag m e < 2 ^ (e + bitLen m) := by
  rw [← mag_two_pow, mag_lt_mag]
  exact lt_two_pow_bitLen m

theorem two_zpow_le_mag {m : ℕ} (hm : m ≠ 0) (e : ℤ) : 2 ^ (e + bitLen m - 1) ≤ mag m e := by
  have hl : e + bitLen m - 1 = e + (Nat.log2 m : ℕ) := by simp [bitLen, hm]; ring
  rw [hl, ← mag_two_pow, mag_le_mag]
  exact Nat.log2_self_le hm

/-! ### Rounding to a neighbour -/

/-- The mode takes a value to the upper one of its two neighbours `lo` and `hi`, the values of `c` and `c + 1` (R54). -/
def RoundsAway (mode : RMode) (neg : Bool) (c : ℕ) (lo hi x : ℚ) : Prop :=
  match mode with
  | 0 => lo + hi < 2 * x ∨ (lo + hi = 2 * x ∧ c % 2 = 1)
  | 1 => False
  | 2 => neg = true ∧ lo ≠ x
  | _ => neg = false ∧ lo ≠ x

/-- On a scale whose points are numbered, a value between the points `c` and `c + 1` is rounded to the point `r`. -/
structure RoundsTo (scale : ℕ → ℚ) (mode : RMode) (neg : Bool) (x : ℚ) (c r : ℕ) : Prop where
  lower : scale c ≤ x
  upper : x < scale (c + 1)
  choice : (RoundsAway mode neg c (scale c) (scale (c + 1)) x ∧ r = c + 1) ∨
    (¬RoundsAway mode neg c (scale c) (scale (c + 1)) x ∧ r = c)

section
variable {mode : RMode} {neg : Bool}

/-- A value that is its lower neighbour stays. -/
theorem not_roundsAway_self {c : ℕ} {x hi : ℚ} (h : x < hi) : ¬RoundsAway mode neg c x hi x := by
  unfold RoundsAway
  split
  · rintro (hlt | ⟨heq, -⟩) <;> linarith
  · exact id
  · exact fun h => h.2 rfl
  · exact fun h => h.2 rfl

theorem RoundsTo.bounds {scale : ℕ → ℚ} {x : ℚ} {c r : ℕ} (h : RoundsTo scale mode neg x c r) :
    c ≤ r ∧ r ≤ c + 1 := by
  have := h.choice
  omega

/-- Points may be numbered from an even number on: the choice of a neighbour depends on the number's parity alone. -/
theorem RoundsTo.shift {scale scale' : ℕ → ℚ} {x : ℚ} {n r o : ℕ} (h : RoundsTo scale mode neg x n r)
    (even : 2 ∣ o) (hn : scale' (o + n) = scale n) (hs : scale' (o + (n + 1)) = scale (n + 1)) :
    RoundsTo scale' mode neg x (o + n) (o + r) := by
  obtain ⟨lower, upper, choice⟩ := h
  have parity : (o + n) % 2 = n % 2 := by omega
  refine ⟨hn ▸ lower, ?_, ?_⟩
  · rwa [add_assoc, hs]
  · simpa only [RoundsAway, parity, hn, hs, add_assoc, add_right_inj] using choice

/-- A point of the scale is rounded to itself. -/
theorem RoundsTo.eq_of_point {scale : ℕ → ℚ} (hs : StrictMono scale) {c r a : ℕ}
    (h : RoundsTo scale mode neg (scale a) c r) : r = a := by
  obtain ⟨lower, upper, choice⟩ := h
  obtain rfl : c = a := le_antisymm (hs.le_iff_le.mp lower) (Nat.lt_succ_iff.mp (hs.lt_iff_lt.mp upper))
  exact (choice.resolve_left fun h => not_roundsAway_self upper h.1).2

/-- The discarded part `r` of `2^k` decides as the neighbours of the exact value do. -/
theorem roundsUp_iff (n r k : ℕ) {v : ℚ} (hv : 0 < v) :
    roundsUp mode neg n r k = true ↔
      RoundsAway mode neg n (n * (2 ^ k * v)) ((n + 1) * (2 ^ k * v)) (n * (2 ^ k * v) + r * v) := by
  have half : n * (2 ^ k * v) + (n + 1) * (2 ^ k * v) = 2 * (n * (2 ^ k * v)) + (2 ^ k : ℕ) * v := by push_cast; ring
  have twice : 2 * (n * (2 ^ k * v) + r * v) = 2 * (n * (2 ^ k * v)) + (2 * r : ℕ) * v := by push_cast; ring
  have differs : n * (2 ^ k * v) ≠ n * (2 ^ k * v) + r * v ↔ r ≠ 0 := by simp [hv.ne']
  unfold roundsUp RoundsAway
  split
  · rw [half, twice, add_lt_add_iff_left, mul_lt_mul_iff_left₀ hv, Nat.cast_lt, add_right_inj,
      mul_left_inj' hv.ne', Nat.cast_inj, eq_comm (a := 2 ^ k)]
    simp
  · simp
  · simp [differs]
  · simp [differs]

/-- Below half a quantum only the value's being nonzero counts. -/
theorem roundsUp_far {m k : ℕ} (hm : m ≠ 0) (hk : bitLen m + 1 < k) :
    roundsUp mode neg 0 (min m 1) 2 = roundsUp mode neg 0 m k := by
  have small : 2 * m < 2 ^ k := calc
    2 * m < 2 ^ (bitLen m + 1) := by rw [pow_succ']; exact Nat.mul_lt_mul_of_pos_left (lt_two_pow_bitLen m) two_pos
    _ ≤ 2 ^ k := Nat.pow_le_pow_right two_pos hk.le
  have one : min m 1 = 1 := min_eq_right (Nat.one_le_iff_ne_zero.mpr hm)
  unfold roundsUp
  split
  · simp [one, small.not_gt, small.ne]
  · rfl
  · simp [one, hm]
  · simp [one, hm]

/-- The quanta of a value whose exponent lies below the quantum's: the kept part, and one more as the discarded part
says. -/
theorem roundQuanta_of_lt {m : ℕ} (hm : m ≠ 0) {e q : ℤ} (h : e < q) :
    roundQuanta mode neg m e q = m / 2 ^ (q - e).toNat +
      b2n (roundsUp mode neg (m / 2 ^ (q - e).toNat) (m % 2 ^ (q - e).toNat) (q - e).toNat) := by
  simp only [roundQuanta, not_le.mpr h, if_false]
  split
  · next far =>
    have small : m < 2 ^ (q - e).toNat :=
      (lt_two_pow_bitLen m).trans_le (Nat.pow_le_pow_right two_pos (by omega))
    rw [Nat.div_eq_of_lt small, Nat.mod_eq_of_lt small, roundsUp_far hm far, Nat.zero_add]
  · cases roundsUp mode neg (m / 2 ^ (q - e).toNat) (m % 2 ^ (q - e).toNat) (q - e).toNat <;> rfl

theorem roundQuanta_roundsTo {m : ℕ} (hm : m ≠ 0) (e q : ℤ) :
    ∃ n, RoundsTo (mag · q) mode neg (mag m e) n (roundQuanta mode neg m e q) := by
  rcases le_or_gt q e with h | h
  · have value : mag (m * 2 ^ (e - q).toNat) q = mag m e := by
      rw [mag_mul_two_pow, Int.toNat_of_nonneg (sub_nonneg.mpr h), add_sub_cancel]
    have upper : mag m e < mag (m * 2 ^ (e - q).toNat + 1) q := value ▸ mag_lt_mag.mpr (Nat.lt_succ_self _)
    refine ⟨m * 2 ^ (e - q).toNat, value.le, upper, .inr ⟨?_, by simp [roundQuanta, h]⟩⟩
    simp only [value]
    exact not_roundsAway_self upper
  · rw [roundQuanta_of_lt hm h]
    have hk : ((q - e).toNat : ℤ) = q - e := Int.toNat_of_nonneg (sub_nonneg.mpr h.le)
    generalize (q - e).toNat = k at hk
    have quantum : (2 : ℚ) ^ q = 2 ^ k * 2 ^ e := by
      rw [← zpow_natCast, hk, ← zpow_add₀ two_ne_zero, sub_add_cancel]
    have value := mag_div_add_mod m k e
    have rest : ((m % 2 ^ k : ℕ) : ℚ) < 2 ^ k := by exact_mod_cast Nat.mod_lt m (Nat.two_pow_pos k)
    have up := roundsUp_iff (mode := mode) (neg := neg) (m / 2 ^ k) (m % 2 ^ k) k (zpow_pos two_pos e)
    rw [← value, ← quantum, ← Nat.cast_succ] at up
    refine ⟨m / 2 ^ k, ?_, ?_, ?_⟩
    · rw [value, mag, quantum]
      exact le_add_of_nonneg_right (by positivity)
    · rw [value, mag, quantum, Nat.cast_succ, add_one_mul]
      exact (add_lt_add_iff_left _).mpr (mul_lt_mul_of_pos_right rest (by positivity))
    · cases hr : roundsUp mode neg (m / 2 ^ k) (m % 2 ^ k) k with
      | true => exact .inl ⟨up.mp hr, rfl⟩
      | false => exact .inr ⟨fun h => by simp [up.mpr h] at hr, rfl⟩

end

/-! ### The codes of a format -/

namespace FFmt

variable (f : FFmt)

theorem magOf_subnormal {t : ℕ} (ht : t < 2 ^ f.mb) : magOf f t = mag t (1 - f.bias - f.mb) := by
  simp only [magOf, Nat.div_eq_of_lt ht, Nat.mod_eq_of_lt ht, if_true, mag]

theorem magOf_normal (j : ℕ) {t : ℕ} (ht : t < 2 ^ f.mb) :
    magOf f ((j + 1) * 2 ^ f.mb + t) = mag (2 ^ f.mb + t) (j + 1 - f.bias - f.mb) := by
  have field : ((j + 1) * 2 ^ f.mb + t) / 2 ^ f.mb = j + 1 := by
    rw [Nat.add_div_of_dvd_right (Nat.dvd_mul_left _ _), Nat.mul_div_cancel _ (Nat.two_pow_pos _),
      Nat.div_eq_of_lt ht, Nat.add_zero]
  have rest : ((j + 1) * 2 ^ f.mb + t) % 2 ^ f.mb = t := by rw [Nat.mul_add_mod', Nat.mod_eq_of_lt ht]
  simp only [magOf, field, rest, Nat.succ_ne_zero, if_false, mag]
  push_cast
  rfl

/-- The codes from `j * 2^mb` on count quanta of one size, up to the first code of the next exponent. -/
theorem magOf_add (j : ℕ) {n : ℕ} (hn : n ≤ 2 ^ (f.mb + 1)) (hj : 2 ^ f.mb ≤ n ∨ j = 0) :
    magOf f (j * 2 ^ f.mb + n) = mag n (j + 1 - f.bias - f.mb) := by
  rcases lt_or_ge n (2 ^ f.mb) with small | large
  · obtain rfl := hj.resolve_left small.not_ge
    simpa using f.magOf_subnormal small
  obtain ⟨t, rfl⟩ := Nat.exists_eq_add_of_le large
  rw [pow_succ] at hn
  rcases Nat.lt_or_ge t (2 ^ f.mb) with ht | ht
  · rw [← f.magOf_normal j ht]
    congr 1
    ring
  · obtain rfl : t = 2 ^ f.mb := by omega
    calc magOf f (j * 2 ^ f.mb + (2 ^ f.mb + 2 ^ f.mb))
        = magOf f ((j + 1 + 1) * 2 ^ f.mb + 0) := by congr 1; ring
      _ = mag (2 ^ f.mb) ((j + 1 : ℕ) + 1 - f.bias - f.mb) := f.magOf_normal (j + 1) (Nat.two_pow_pos f.mb)
      _ = mag (2 ^ f.mb * 2 ^ 1) (j + 1 - f.bias - f.mb) := by rw [mag_mul_two_pow]; congr 1; push_cast; ring
      _ = mag (2 ^ f.mb + 2 ^ f.mb) (j + 1 - f.bias - f.mb) := by rw [pow_one, mul_two]

/-- Every code counts quanta of one size. -/
theorem exists_quanta (c : ℕ) :
    ∃ j n, c = j * 2 ^ f.mb + n ∧ n < 2 ^ (f.mb + 1) ∧ (2 ^ f.mb ≤ n ∨ j = 0) := by
  have rest := Nat.mod_lt c (Nat.two_pow_pos f.mb)
  rcases Nat.lt_or_ge c (2 ^ f.mb) with small | large
  · exact ⟨0, c, by simp, by rw [pow_succ]; omega, .inr rfl⟩
  · obtain ⟨j, hj⟩ := Nat.exists_eq_succ_of_ne_zero (Nat.div_pos large (Nat.two_pow_pos f.mb)).ne'
    refine ⟨j, 2 ^ f.mb + c % 2 ^ f.mb, ?_, by rw [pow_succ]; omega, .inl (Nat.le_add_right _ _)⟩
    rw [← add_assoc, ← Nat.succ_mul, ← hj, Nat.div_add_mod']

theorem magOf_strictMono : StrictMono (magOf f) := by
  refine strictMono_nat_of_lt_succ fun c => ?_
  obtain ⟨j, n, rfl, hn, hj⟩ := f.exists_quanta c
  rw [add_assoc, f.magOf_add j hn.le hj, f.magOf_add j hn (hj.imp_left Nat.le_succ_of_le), mag_lt_mag]
  exact Nat.lt_succ_self n

/-- The exponent of the quantum to which a value is rounded: `mb` places below its leading bit, or the least one. -/
def quantum (m : ℕ) (e : ℤ) : ℤ :=
  (if e + bitLen m - 1 < 1 - (f.bias : ℤ) then 1 - (f.bias : ℤ) else e + bitLen m - 1) - f.mb

/-- The magnitude code of `n` quanta `2^q`. -/
def codeAt (q : ℤ) (n : ℕ) : ℕ :=
  if n < 2 ^ f.mb then n
  else
    let up := decide (2 ^ (f.mb + 1) ≤ n)
    ((if up then q + 1 else q) + f.mb + f.bias).toNat * 2 ^ f.mb + ((if up then n / 2 else n) - 2 ^ f.mb)

theorem roundMag_eq (mode : RMode) (neg : Bool) (m : ℕ) (e : ℤ) :
    f.roundMag mode neg m e = f.codeAt (f.quantum m e) (roundQuanta mode neg m e (f.quantum m e)) := rfl

/-- A magnitude code counts its quanta from `j * 2^mb` on, where the quantum lies `j` places above the least one. -/
theorem codeAt_eq {j n : ℕ} (hn : n ≤ 2 ^ (f.mb + 1)) (hj : 2 ^ f.mb ≤ n ∨ j = 0) :
    f.codeAt (j + 1 - f.bias - f.mb) n = j * 2 ^ f.mb + n := by
  unfold codeAt
  split
  · next small => rw [hj.resolve_left small.not_ge, Nat.zero_mul, Nat.zero_add]
  · next large =>
    rcases hn.lt_or_eq with below | rfl
    · have same : ((j : ℤ) + 1 - f.bias - f.mb + f.mb + f.bias).toNat = j + 1 := by omega
      simp only [below.not_ge, decide_false, Bool.false_eq_true, if_false, same, Nat.succ_mul]
      omega
    · have above : ((j : ℤ) + 1 - f.bias - f.mb + 1 + f.mb + f.bias).toNat = j + 2 := by omega
      have half : 2 ^ (f.mb + 1) / 2 = 2 ^ f.mb := by rw [pow_succ, Nat.mul_div_cancel _ two_pos]
      simp only [le_refl, decide_true, if_true, above, half, Nat.sub_self]
      ring

/-- The quanta of a value at its own quantum: below `2^(mb + 1)`, and at least `2^mb` above the least quantum. -/
theorem quanta_bounds {mode : RMode} {neg : Bool} {m : ℕ} (hm : m ≠ 0) {e : ℤ} {j n r : ℕ}
    (hq : f.quantum m e = j + 1 - f.bias - f.mb) (h : RoundsTo (mag · (f.quantum m e)) mode neg (mag m e) n r) :
    n < 2 ^ (f.mb + 1) ∧ (2 ^ f.mb ≤ n ∨ j = 0) := by
  constructor
  · have top : e + bitLen m ≤ f.quantum m e + (f.mb + 1 : ℕ) := by unfold quantum; split <;> omega
    rw [← mag_lt_mag (q := f.quantum m e), mag_two_pow]
    exact h.lower.trans_lt ((mag_lt_two_zpow m e).trans_le (zpow_le_zpow_right₀ one_le_two top))
  · refine or_iff_not_imp_right.mpr fun hj => Nat.lt_succ_iff.mp ?_
    have top : f.quantum m e + f.mb = e + bitLen m - 1 := by unfold quantum at *; split at * <;> omega
    rw [← mag_lt_mag (q := f.quantum m e), mag_two_pow, top]
    exact (two_zpow_le_mag hm e).trans_lt h.upper

/-- Rounding to a magnitude code is rounding on the scale of the format's codes (R54). -/
theorem roundMag_roundsTo (hf : 1 ≤ f.mb) {mode : RMode} {neg : Bool} {m : ℕ} (hm : m ≠ 0) (e : ℤ) :
    ∃ c, RoundsTo (magOf f) mode neg (mag m e) c (f.roundMag mode neg m e) := by
  obtain ⟨j, hq⟩ : ∃ j : ℕ, f.quantum m e = j + 1 - f.bias - f.mb :=
    ⟨(f.quantum m e - (1 - f.bias - f.mb)).toNat, by unfold quantum; split <;> omega⟩
  obtain ⟨n, rounds⟩ := roundQuanta_roundsTo (mode := mode) (neg := neg) hm e (f.quantum m e)
  obtain ⟨hn, hj⟩ := f.quanta_bounds hm hq rounds
  obtain ⟨least, most⟩ := rounds.bounds
  have even : 2 ∣ j * 2 ^ f.mb := (dvd_pow_self 2 (Nat.one_le_iff_ne_zero.mp hf)).mul_left j
  rw [f.roundMag_eq]
  rw [hq] at rounds least most ⊢
  rw [f.codeAt_eq (most.trans hn) (hj.imp_left fun h => h.trans least)]
  exact ⟨_, rounds.shift even (f.magOf_add j hn.le hj) (f.magOf_add j hn (hj.imp_left Nat.le_succ_of_le))⟩

/-- A value that is no zero converts to the code to which it is rounded, or overflows (R54, R55). -/
theorem convert_fin {mode : RMode} {ieee neg : Bool} {m : ℕ} (hm : m ≠ 0) (e : ℤ) :
    f.convert mode ieee (.fin neg m e) = (
      if f.maxCode < f.roundMag mode neg m e then (f.overflow mode ieee neg, flagOvf)
      else (f.signBit neg + f.roundMag mode neg m e, 0)) := by
  simp only [convert, hm, if_false]

end FFmt

/-- Every format has a mantissa and an exponent field. -/
theorem fmtOf_fields (code : Nat) : 1 ≤ (fmtOf code).mb ∧ 1 ≤ (fmtOf code).eb := by
  unfold fmtOf
  split <;> decide

/-- Settles O15: the code is the point of the format's scale to which the value is rounded. -/
theorem convertRoundsToAnEnclosingCode : Obligations.ConvertRoundsToAnEnclosingCode := by
  intro fmt mode ieee neg m e _ hm _ f x
  obtain ⟨c, lower, upper, choice⟩ := f.roundMag_roundsTo (fmtOf_fields fmt).1 (mode := mode) (neg := neg) hm e
  refine ⟨c, lower, upper, f.roundMag mode neg m e, choice, fun h => ?_, fun h => ?_⟩
  · rw [f.convert_fin hm, if_neg h.not_gt]
  · rw [f.convert_fin hm, if_pos h]

end Sys2Proof.Machine
end

section
/-! Special inputs of the transcendental group (Table 5.6), and codes that convert to themselves (R50, R54). -/
namespace Sys2Proof.Machine

/-! ### What a code decodes to -/

namespace FFmt

variable (f : FFmt)

/-- A code is its sign and the code of its magnitude. -/
theorem sign_add_magnitude {c : ℕ} (hc : c < 2 ^ f.width) :
    f.signBit (bit c (f.eb + f.mb)) + c % 2 ^ (f.eb + f.mb) = c := by
  rw [bit, Nat.shiftRight_eq_div_pow]
  have top : c / 2 ^ (f.eb + f.mb) < 2 := by
    rw [Nat.div_lt_iff_lt_mul (Nat.two_pow_pos _), ← pow_succ']
    simpa [width, add_assoc, add_comm 1] using hc
  have whole := Nat.div_add_mod c (2 ^ (f.eb + f.mb))
  generalize c / 2 ^ (f.eb + f.mb) = t at top whole ⊢
  interval_cases t <;> simpa [signBit] using whole

theorem bits_mantissa (c : ℕ) : bits c 0 f.mb = c % 2 ^ (f.eb + f.mb) % 2 ^ f.mb :=
  (Nat.mod_mod_of_dvd c (pow_dvd_pow 2 (Nat.le_add_left _ _))).symm

theorem bits_exponent (c : ℕ) : bits c f.mb f.eb = c % 2 ^ (f.eb + f.mb) / 2 ^ f.mb := by
  rw [bits, Nat.shiftRight_eq_div_pow, add_comm, pow_add, Nat.mod_mul_right_div_self]

theorem maxCode_succ_ieee (he : 1 ≤ f.eb) (hs : f.specials = .ieee) :
    f.maxCode + 1 = (2 ^ f.eb - 1) * 2 ^ f.mb := by
  have two : 2 ^ 1 ≤ 2 ^ f.eb := Nat.pow_le_pow_right two_pos he
  have pos : 0 < (2 ^ f.eb - 1) * 2 ^ f.mb := Nat.mul_pos (by omega) (Nat.two_pow_pos _)
  simp only [maxCode, hs]
  omega

theorem maxCode_succ_nanOnly (hm : 1 ≤ f.mb) (hs : f.specials = .nanOnly) :
    f.maxCode + 1 = 2 ^ (f.eb + f.mb) - 1 := by
  have two : 2 ^ 1 ≤ 2 ^ (f.eb + f.mb) := Nat.pow_le_pow_right two_pos (by omega)
  simp only [maxCode, hs]
  omega

/-- A code is no number where its magnitude lies above the greatest finite one; else it is read by its fields. -/
theorem decode_eq (hm : 1 ≤ f.mb) (he : 1 ≤ f.eb) (c : ℕ) :
    f.decode c = (
      let a := c % 2 ^ (f.eb + f.mb)
      let neg := bit c (f.eb + f.mb)
      if f.maxCode < a then (if a % 2 ^ f.mb = 0 then .inf neg else .nan)
      else if a / 2 ^ f.mb = 0 then .fin neg (a % 2 ^ f.mb) (1 - f.bias - f.mb)
      else .fin neg (2 ^ f.mb + a % 2 ^ f.mb) ((a / 2 ^ f.mb : ℕ) - f.bias - f.mb)) := by
  have below : c % 2 ^ (f.eb + f.mb) < 2 ^ (f.eb + f.mb) := Nat.mod_lt _ (Nat.two_pow_pos _)
  cases hs : f.specials with
  | ieee =>
    have exponent : c % 2 ^ (f.eb + f.mb) / 2 ^ f.mb < 2 ^ f.eb :=
      Nat.div_lt_of_lt_mul (by rwa [mul_comm, ← pow_add])
    have special : c % 2 ^ (f.eb + f.mb) / 2 ^ f.mb = 2 ^ f.eb - 1 ↔ f.maxCode < c % 2 ^ (f.eb + f.mb) := by
      rw [← Nat.succ_le_iff, Nat.succ_eq_add_one, f.maxCode_succ_ieee he hs,
        ← Nat.le_div_iff_mul_le (Nat.two_pow_pos _)]
      omega
    simp only [decode, hs, bits_mantissa, bits_exponent, decide_eq_true_eq, special]
  | nanOnly =>
    have special : bits c 0 (f.eb + f.mb) = 2 ^ (f.eb + f.mb) - 1 ↔ f.maxCode < c % 2 ^ (f.eb + f.mb) := by
      rw [← Nat.succ_le_iff, Nat.succ_eq_add_one, f.maxCode_succ_nanOnly hm hs]
      change c % 2 ^ (f.eb + f.mb) = _ ↔ _
      omega
    simp only [decode, hs, bits_mantissa, bits_exponent, decide_eq_true_eq, special]
  | none =>
    have number : ¬f.maxCode < c % 2 ^ (f.eb + f.mb) := by
      simp only [maxCode, hs]
      omega
    simp only [decode, hs, bits_mantissa, bits_exponent, Bool.false_eq_true, if_false, number]

/-- A code decodes to a NaN, to an infinity, whose code is the one above the greatest finite one, or to the finite value
that its magnitude's code stands for (R48 to R51). -/
inductive Decodes (c : ℕ) : FVal → Prop where
  | nan (h : f.specials ≠ .none) : Decodes c .nan
  | inf (neg : Bool) (h : f.specials = .ieee) (hc : c = f.signBit neg + f.maxCode + 1) : Decodes c (.inf neg)
  | fin (neg : Bool) (m : ℕ) (e : ℤ) (a : ℕ) (hc : c = f.signBit neg + a) (ha : a ≤ f.maxCode)
    (hv : mag m e = magOf f a) : Decodes c (.fin neg m e)

theorem specials_ne_none {a : ℕ} (below : a < 2 ^ (f.eb + f.mb)) (ha : f.maxCode < a) : f.specials ≠ .none := by
  intro hs
  simp only [maxCode, hs] at ha
  omega

/-- The code above the greatest finite magnitude is infinity where its mantissa is zero, as in IEEE 754 alone. -/
theorem ieee_of_special (hm : 1 ≤ f.mb) (he : 1 ≤ f.eb) {a : ℕ} (below : a < 2 ^ (f.eb + f.mb))
    (ha : f.maxCode < a) (zero : a % 2 ^ f.mb = 0) : f.specials = .ieee ∧ a = f.maxCode + 1 := by
  cases hs : f.specials with
  | ieee =>
    refine ⟨rfl, ?_⟩
    have most := f.maxCode_succ_ieee he hs
    have low : 2 ^ f.eb - 1 ≤ a / 2 ^ f.mb := (Nat.le_div_iff_mul_le (Nat.two_pow_pos _)).mpr (most ▸ ha)
    have high : a / 2 ^ f.mb < 2 ^ f.eb := Nat.div_lt_of_lt_mul (by rwa [mul_comm, ← pow_add])
    rw [most, ← Nat.div_mul_cancel (Nat.dvd_of_mod_eq_zero zero)]
    congr 1
    omega
  | nanOnly =>
    have most := f.maxCode_succ_nanOnly hm hs
    have even : 2 ∣ 2 ^ f.mb := dvd_pow_self 2 (Nat.one_le_iff_ne_zero.mp hm)
    have evenCode : 2 ∣ a := even.trans (Nat.dvd_of_mod_eq_zero zero)
    have evenTop : 2 ∣ 2 ^ (f.eb + f.mb) := pow_add 2 f.eb f.mb ▸ even.mul_left _
    omega
  | none =>
    exact absurd hs (f.specials_ne_none below ha)

theorem decodes (hm : 1 ≤ f.mb) (he : 1 ≤ f.eb) {c : ℕ} (hc : c < 2 ^ f.width) : f.Decodes c (f.decode c) := by
  have code := (f.sign_add_magnitude hc).symm
  have below : c % 2 ^ (f.eb + f.mb) < 2 ^ (f.eb + f.mb) := Nat.mod_lt _ (Nat.two_pow_pos _)
  rw [f.decode_eq hm he]
  dsimp only
  split
  · next special =>
    split
    · next zero =>
      obtain ⟨hs, ha⟩ := f.ieee_of_special hm he below special zero
      exact .inf _ hs (by rw [add_assoc, ← ha, ← code])
    · exact .nan (f.specials_ne_none below special)
  · next number =>
    split
    · next h => exact .fin _ _ _ _ code (not_lt.mp number) (by simp only [magOf, h, if_true, mag])
    · next h => exact .fin _ _ _ _ code (not_lt.mp number) (by simp only [magOf, h, if_false, mag])

theorem convert_nan (mode : RMode) (ieee : Bool) (h : f.specials ≠ .none) :
    f.convert mode ieee .nan = (f.nanCode, flagNan) := by
  cases hs : f.specials with
  | ieee => simp only [convert, hs]
  | nanOnly => simp only [convert, hs]
  | none => exact absurd hs h

theorem convert_inf (mode : RMode) (neg : Bool) (h : f.specials = .ieee) :
    f.convert mode true (.inf neg) = (f.signBit neg + f.maxCode + 1, 0) := by
  simp only [convert, h, if_true]

/-- A finite value that a code stands for converts to that code. -/
theorem convert_of_code (hf : 1 ≤ f.mb) (mode : RMode) (ieee neg : Bool) {m a : ℕ} {e : ℤ} (ha : a ≤ f.maxCode)
    (hv : mag m e = magOf f a) : f.convert mode ieee (.fin neg m e) = (f.signBit neg + a, 0) := by
  by_cases hm : m = 0
  · have zero : magOf f a = magOf f 0 := by rw [← hv, hm]; simp [mag, magOf]
    simp only [convert, hm, if_true, f.magOf_strictMono.injective zero, Nat.add_zero]
  · obtain ⟨c, rounds⟩ := f.roundMag_roundsTo hf (mode := mode) (neg := neg) hm e
    rw [hv] at rounds
    rw [f.convert_fin hm, rounds.eq_of_point f.magOf_strictMono, if_neg ha.not_gt]

theorem convert_decode (hm : 1 ≤ f.mb) (he : 1 ≤ f.eb) (mode : RMode) {ieee : Bool} {c : ℕ} (hc : c < 2 ^ f.width)
    (hi : ∀ neg, f.decode c = .inf neg → ieee = true) :
    f.convert mode ieee (f.decode c) = (if f.decode c = .nan then (f.nanCode, flagNan) else (c, 0)) := by
  have decoded := f.decodes hm he hc
  generalize f.decode c = x at decoded hi
  cases decoded with
  | nan h => exact (f.convert_nan mode ieee h).trans (if_pos rfl).symm
  | inf neg h hc =>
    rw [hi neg rfl, f.convert_inf mode neg h, ← hc]
    exact (if_neg FVal.noConfusion).symm
  | fin neg m e a hc ha hv =>
    rw [f.convert_of_code hm mode ieee neg ha hv, ← hc]
    exact (if_neg FVal.noConfusion).symm

end FFmt

/-! ### Special inputs (Table 5.6) -/

theorem fp32_nan : fp32.convert 0 true .nan = (0x7FC00000, flagNan) := rfl

theorem fp32_inf (neg : Bool) : fp32.convert 0 true (.inf neg) = (if neg then 0xFF800000 else 0x7F800000, 0) := by
  cases neg <;> rfl

theorem fp32_zero (neg : Bool) (e : ℤ) : fp32.convert 0 true (.fin neg 0 e) = (if neg then 0x80000000 else 0, 0) := by
  cases neg <;> rfl

theorem fp32_one (neg : Bool) : fp32.convert 0 true (.fin neg 1 0) = (if neg then 0xBF800000 else 0x3F800000, 0) := by
  cases neg <;> rfl

/-- The logarithm and the roots of a negative value. -/
theorem negative_inputs {m : ℕ} (hm : m ≠ 0) (e : ℤ) :
    (FVal.fin true m e).rsqrt = .nan ∧ (FVal.fin true m e).sqrt = .nan ∧
      log2Float (.fin true m e) = fp32.convert 0 true .nan := by
  simp only [FVal.rsqrt, FVal.sqrt, log2Float, hm, if_false, if_true, and_self]

/-- Settles O14: the table by the branches of the functions, the codes by what a code decodes to. -/
theorem specialInputsAndCodesConvertExactly : Obligations.SpecialInputsAndCodesConvertExactly := by
  refine ⟨fun neg e => ⟨rfl, rfl, rfl, rfl, rfl, rfl, rfl, rfl, rfl, fun m hm => negative_inputs hm e,
    fp32_zero false 0, fp32_one false, fp32_inf false, rfl, fp32_inf true, fp32_inf false, rfl, fp32_zero neg e,
    rfl, fp32_one false, fp32_one neg, fp32_zero neg e, rfl, rfl, rfl, rfl, rfl, fp32_nan, rfl⟩,
    fun fmt mode ieee c _ hc hi => ?_⟩
  obtain ⟨hm, he⟩ := fmtOf_fields fmt
  exact FFmt.convert_decode _ hm he mode hc hi

end Sys2Proof.Machine
end

section
/-! Float base majors, the float group and the transcendental group (R154, R156 to R159), as results on lanes. -/
namespace Sys2Proof.Machine

/-- An instruction of lane results that runs gives them to its destination, and goes on (R141, R142). -/
theorem laneResult_eq {f : Fields} {s : State} {is : Issue} (h : (s.nat is f).Runs) (wide : Bool)
    (g : Env → Nat → Word × FlagSet) :
    laneResult f s wide g = .next ((s.nat is f).lanesGive wide f.d.toNat (g (s.nat is f))) :=
  native_done h rfl

/-- A 32-bit element read in two's complement. -/
theorem signed_toNat (x : Elem) : signed 32 x.toNat = x.toInt := by
  simp only [signed, BitVec.toInt, Nat.mod_eq_of_lt x.isLt]
  rfl

/-! ### The two BF16 elements of a register -/

/-- A BF16 element of a register, the lower one as element 0 (R154). -/
def half (x h : Nat) : FVal := bf16.decode (x / 2 ^ (16 * h) % 2 ^ 16)

theorem halves_eq (x : Nat) : halves x = (half x 0, half x 1) := by
  simp only [halves, half, low, bits, Nat.shiftRight_eq_div_pow, mul_zero, pow_zero, Nat.div_one, mul_one]

theorem Env.packedB_eq (en : Env) (f : Fields) (i : Nat) :
    en.packedB f i = (if baseImm f then (baseImmediate f true).toNat % 2 ^ 32
      else if bsel f = 1 then (en.sB f).toNat % 2 ^ 32 else (en.w.getV f.b.toNat i).toNat) := by
  simp only [Env.packedB, low]
  split
  · rfl
  · split
    · rfl
    · exact Nat.mod_eq_of_lt (en.w.getV f.b.toNat i).isLt

/-! ### The instructions -/

section
variable {f : Fields} {s : State} {is : Issue} (h : (s.nat is f).Runs)
include h

theorem floatBase_eq (g : RMode → FVal → FVal → FVal) :
    floatBase g f s = .next ((s.nat is f).lanesGive ((btype f).testBit 2) f.d.toNat fun l =>
      asLane ((fpOf ((btype f).testBit 2)).convert (btype f % 4) (!(btype f).testBit 3) (g (btype f % 4)
        ((s.nat is f).fpV ((btype f).testBit 2) f.a.toNat l) ((s.nat is f).floatB f ((btype f).testBit 2) l)))) := by
  simp only [floatBase, bit_eq_testBit]
  exact laneResult_eq h ..

theorem floatPick_eq (g : FVal → FVal → FVal) :
    floatPick g f s = .next ((s.nat is f).lanesGive ((btype f).testBit 2) f.d.toNat fun l =>
      asLane ((fpOf ((btype f).testBit 2)).convert 0 true (g
        ((s.nat is f).fpV ((btype f).testBit 2) f.a.toNat l) ((s.nat is f).floatB f ((btype f).testBit 2) l)))) := by
  simp only [floatPick, bit_eq_testBit]
  exact laneResult_eq h ..

theorem execFscale_eq :
    execFscale f s = .next ((s.nat is f).lanesGive (mb f 2) f.d.toNat fun l =>
      asLane ((fpOf (mb f 2)).convert (f.mod.toNat % 4) (!(mb f 3))
        (((s.nat is f).fpV (mb f 2) f.a.toNat l).scale ((s.nat is f).w.getV f.b.toNat l).toInt))) := by
  simp only [← signed_toNat]
  exact laneResult_eq h ..

theorem packedBase_eq (g : RMode → FVal → FVal → FVal) :
    packedBase g f s = .next ((s.nat is f).lanesGive false f.d.toNat fun l =>
      let c := fun k => bf16.convert (btype f % 4) (!(btype f).testBit 3) (g (btype f % 4)
        (half ((s.nat is f).w.getV f.a.toNat l).toNat k) (half ((s.nat is f).packedB f l) k))
      packHalves (c 0) (c 1)) := by
  simp only [packedBase, bit_eq_testBit, halves_eq]
  exact laneResult_eq h ..

theorem execHfma2_eq :
    execHfma2 f s = .next ((s.nat is f).lanesGive false f.d.toNat fun l =>
      let c := fun k => bf16.convert (f.mod.toNat % 4) (!(mb f 3)) (FVal.fma (f.mod.toNat % 4)
        (half ((s.nat is f).w.getV f.a.toNat l).toNat k) (half ((s.nat is f).w.getV f.b.toNat l).toNat k)
        (half ((s.nat is f).w.getV f.c.toNat l).toNat k))
      packHalves (c 0) (c 1)) := by
  simp only [execHfma2, fld_zero, halves_eq]
  exact laneResult_eq h ..

end

/-- Settles O11: each instruction gives its lanes one conversion of its exact value, or one for each half. -/
theorem floatInstructionsCompleteWithConvertedValues : Obligations.FloatInstructionsCompleteWithConvertedValues := by
  refine ⟨fun f s is h => ⟨?fadd, ?fsub, ?fmul, ?fmin, ?fmax, ?ffma, ?fscale, ?frnd, ?frcp, ?frsq, ?fsqrt,
    ?fexp2, ?flog2, ?fsin, ?fcos, ?ftanh⟩, fun f s is h => ?packed⟩
  case fadd => exact floatBase_eq h fun m a b => FVal.add m a b
  case fsub => exact floatBase_eq h fun m a b => FVal.add m a b.flip
  case fmul => exact floatBase_eq h fun _ a b => a.mul b
  case fmin => exact floatPick_eq h FVal.pickMin
  case fmax => exact floatPick_eq h FVal.pickMax
  case fscale => exact execFscale_eq h
  case packed =>
    simp only [← Env.packedB_eq]
    exact ⟨packedBase_eq h fun m a b => FVal.add m a b, packedBase_eq h fun _ a b => a.mul b, execHfma2_eq h⟩
  all_goals exact laneResult_eq h ..

end Sys2Proof.Machine
end

section
/-! Encoding and decoding (R73 to R87, R96): the codes of an instruction and its constructor name each other. -/
namespace Sys2Proof.Laws.Selects

/-- The codes of every instruction's encoding select it. -/
theorem all : ∀ i : Instr, Statement i
  | .sadd f => sadd f | .ssub f => ssub f | .smul f => smul f | .smulh f => smulh f | .sand f => sand f
  | .sor f => sor f | .sxor f => sxor f | .sshl f => sshl f | .sshr f => sshr f | .ssra f => ssra f
  | .smin f => smin f | .smax f => smax f | .smov f => smov f | .srot f => srot f | .sdiv f => sdiv f
  | .srem f => srem f | .vadd f => vadd f | .vsub f => vsub f | .vmul f => vmul f | .vmulh f => vmulh f
  | .vand f => vand f | .vor f => vor f | .vxor f => vxor f | .vshl f => vshl f | .vshr f => vshr f
  | .vsra f => vsra f | .vmin f => vmin f | .vmax f => vmax f | .vmov f => vmov f | .fadd f => fadd f
  | .fsub f => fsub f | .fmul f => fmul f | .fmin f => fmin f | .fmax f => fmax f | .pand f => pand f
  | .por f => por f | .pxor f => pxor f | .pandn f => pandn f | .hadd2 f => hadd2 f | .hmul2 f => hmul2 f
  | .sclz f => sclz f | .spopc f => spopc f | .sbfe f => sbfe f | .sbfi f => sbfi f | .ssel f => ssel f
  | .sli f => sli f | .slea f => slea f | .scmp f => scmp f | .pnot f => pnot f | .pmov f => pmov f
  | .pset f => pset f | .pcnt f => pcnt f | .pff f => pff f | .bra f => bra f | .brc f => brc f | .brv f => brv f
  | .rcv f => rcv f | .call f => call f | .callx f => callx f | .ret f => ret f | .jmpx f => jmpx f
  | .exit f => exit f | .nop f => nop f | .yld f => yld f | .dpsh f => dpsh f | .dpop f => dpop f | .bkpt f => bkpt f
  | .trap f => trap f | .rtt f => rtt f | .csrr f => csrr f | .csrw f => csrw f | .clock f => clock f
  | .vmad f => vmad f | .vabs f => vabs f | .vneg f => vneg f | .vclz f => vclz f | .vpopc f => vpopc f
  | .vbfe f => vbfe f | .vbfi f => vbfi f | .vsel f => vsel f | .vcmp f => vcmp f | .vbcst f => vbcst f
  | .vshf f => vshf f | .vred f => vred f | .vscan f => vscan f | .vdot4 f => vdot4 f | .ffma f => ffma f
  | .fabs f => fabs f | .fneg f => fneg f | .fcmp f => fcmp f | .fclass f => fclass f | .fscale f => fscale f
  | .frnd f => frnd f | .hfma2 f => hfma2 f | .frcp f => frcp f | .frsq f => frsq f | .fsqrt f => fsqrt f
  | .fexp2 f => fexp2 f | .flog2 f => flog2 f | .fsin f => fsin f | .fcos f => fcos f | .ftanh f => ftanh f
  | .fcvt f => fcvt f | .f2i f => f2i f | .i2f f => i2f f | .ld f => ld f | .st f => st f | .ldk f => ldk f
  | .pref f => pref f | .cflush f => cflush f | .lds f => lds f | .sts f => sts f | .atom f => atom f
  | .atoms f => atoms f | .fence f => fence f | .cld f => cld f | .cst f => cst f | .cmov f => cmov f
  | .cbnd f => cbnd f | .cperm f => cperm f | .cget f => cget f | .ctest f => ctest f | .cseal f => cseal f
  | .wld f => wld f | .wscl f => wscl f | .wsclNone f => wsclNone f | .mma f => mma f | .mmag f => mmag f
  | .mmap f => mmap f | .msl f => msl f | .aalloc f => aalloc f | .afree f => afree f | .awin f => awin f
  | .azero f => azero f | .lda f => lda f | .sta f => sta f | .aepi f => aepi f | .agui f => agui f
  | .atopk f => atopk f | .atksRd f => atksRd f | .atksWr f => atksWr f | .mfence f => mfence f | .mwait f => mwait f
  | .mwaitB f => mwaitB f | .htest f => htest f | .hcancel f => hcancel f | .hmov f => hmov f | .podC f => podC f
  | .podU f => podU f | .podOff f => podOff f | .cpy f => cpy f | .cpyInit f => cpyInit f | .cpyCap f => cpyCap f
  | .cpyt f => cpyt f | .cpyg f => cpyg f | .cpyx f => cpyx f | .cpyr f => cpyr f | .bari f => bari f
  | .bara f => bara f | .barw f => barw f | .bart f => bart f | .sbarInit f => sbarInit f
  | .sbarArrive f => sbarArrive f | .sbarWait f => sbarWait f | .sbarSync f => sbarSync f | .setj f => setj f
  | .setl f => setl f | .setw f => setw f | .gst f => gst f | .gld f => gld f | .gatom f => gatom f
  | .gred f => gred f | .gcpy f => gcpy f | .gwait f => gwait f | .gpatAx f => gpatAx f | .gpatL0 f => gpatL0 f
  | .gpatL1 f => gpatL1 f | .gcrdAx f => gcrdAx f | .gcrdCnt f => gcrdCnt f | .gcrdIdx f => gcrdIdx f
  | .ttfire f => ttfire f | .ttfireArm f => ttfireArm f | .ttwait f => ttwait f | .frNoOperation f => frNoOperation f
  | .frIntegerAdd f => frIntegerAdd f | .frIntegerSubtract f => frIntegerSubtract f
  | .frIntegerMultiply f => frIntegerMultiply f | .frAnd f => frAnd f | .frOr f => frOr f | .frXor f => frXor f
  | .frShiftLeft f => frShiftLeft f | .frLogicalShiftRight f => frLogicalShiftRight f
  | .frArithmeticShiftRight f => frArithmeticShiftRight f | .frFp32Add f => frFp32Add f
  | .frFp32Multiply f => frFp32Multiply f | .frFp32Fma f => frFp32Fma f | .frMove f => frMove f
  | .frLoadImmediate f => frLoadImmediate f | .frLaneNumber f => frLaneNumber f
  | .frIntegerCompare f => frIntegerCompare f | .frFp32Compare f => frFp32Compare f
  | .frScalarAddImmediate f => frScalarAddImmediate f | .frScalarLoadImmediate f => frScalarLoadImmediate f
  | .frLoadWord f => frLoadWord f | .frStoreWord f => frStoreWord f
  | .frScratchpadLoadWord f => frScratchpadLoadWord f | .frScratchpadStoreWord f => frScratchpadStoreWord f
  | .frFence f => frFence f | .frIf f => frIf f | .frElse f => frElse f | .frEndIf f => frEndIf f
  | .frBreak f => frBreak f | .frLoop f => frLoop f | .frBranch f => frBranch f | .frCall f => frCall f
  | .frReturn f => frReturn f | .frBlockBarrier f => frBlockBarrier f | .frExit f => frExit f | .frTrap f => frTrap f
  | .gridtabInstall p => gridtabInstall p | .gridtabRemove p => gridtabRemove p | .ctxnew p => ctxnew p
  | .ctxend p => ctxend p | .huskCreate p => huskCreate p | .huskDestroy p => huskDestroy p
  | .keyslotLoad p => keyslotLoad p | .keyslotZeroise p => keyslotZeroise p | .scrubStart p => scrubStart p
  | .scrubContinue p => scrubContinue p | .attest p => attest p | .layout p => layout p | .launch p => launch p
  | .nodeOpen p => nodeOpen p | .nodeClose p => nodeClose p | .preemptPark p => preemptPark p
  | .preemptRequeue p => preemptRequeue p | .preemptResume p => preemptResume p | .ckpt p => ckpt p
  | .waitmem p => waitmem p | .signalStore p => signalStore p | .signalAdd p => signalAdd p
  | .signalMax p => signalMax p | .condSkip p => condSkip p | .condRepeat p => condRepeat p
  | .condJump p => condJump p | .doorbellTail queue value => doorbellTail queue value
  | .doorbellReload queue value => doorbellReload queue value | .doorbellStop queue value => doorbellStop queue value
  | .arnalRound => arnalRound | .packetUnblock queue => packetUnblock queue | .waitmemPoll queue => waitmemPoll queue
  | .waitmemTimeout queue => waitmemTimeout queue | .invalRange => invalRange | .invalAsid => invalAsid
  | .invalAll => invalAll | .invalidationComplete => invalidationComplete | .faultReplay seq => faultReplay seq
  | .faultFail seq => faultFail seq | .registerWrite offset value => registerWrite offset value
  | .bar2Read offset bytes => bar2Read offset bytes | .bar2Write offset data => bar2Write offset data
  | .blockPlacement => blockPlacement | .placementWaitExpiry launch => placementWaitExpiry launch
  | .startBarrierTimeout launch => startBarrierTimeout launch | .launchDeadline launch => launchDeadline launch
  | .timeSliceExpiry launch core => timeSliceExpiry launch core | .drainDeadline ctx => drainDeadline ctx
  | .preciseSave ctx => preciseSave ctx | .saveDeadline ctx => saveDeadline ctx
  | .contextResume ctx => contextResume ctx | .hangWatchdog ctx => hangWatchdog ctx
  | .barrierTimeoutWatchdog ctx => barrierTimeoutWatchdog ctx | .yldExpiry warp => yldExpiry warp
  | .mmapRendezvousTimeout warp => mmapRendezvousTimeout warp
  | .engineOperationStart core op => engineOperationStart core op
  | .engineOperationComplete core op => engineOperationComplete core op
  | .enginePageFault core op => enginePageFault core op | .faultQueueRetry ctx => faultQueueRetry ctx
  | .matrixSelfTest core quarter pass => matrixSelfTest core quarter pass
  | .copyEntryStart block => copyEntryStart block | .copyEntryComplete block entry => copyEntryComplete block entry
  | .l1WritebackTimeout l1 sector => l1WritebackTimeout l1 sector
  | .gridOperationComplete op => gridOperationComplete op | .reductionTimeout reduction => reductionTimeout reduction
  | .nodeGroupLaunch node => nodeGroupLaunch node | .nodeGroupTimer node => nodeGroupTimer node
  | .frameStore f => frameStore f | .frameLdreq f => frameLdreq f | .frameLdrep f => frameLdrep f
  | .frameAtom f => frameAtom f | .frameAtrep f => frameAtrep f | .frameExp f => frameExp f
  | .frameExpr f => frameExpr f | .frameRed f => frameRed f | .frameRedr f => frameRedr f
  | .frameTack f => frameTack f | .frameDone f => frameDone f | .frameNack f => frameNack f
  | .frameLaunch f => frameLaunch f | .frameStart f => frameStart f | .uePacket p => uePacket p
  | .retransmissionTimeout seq => retransmissionTimeout seq | .linkDown port cause => linkDown port cause
  | .linkUp port cause => linkUp port cause | .integrityFailure port => integrityFailure port
  | .llrResend port => llrResend port | .scrubFrame => scrubFrame | .scrubReceipt => scrubReceipt
  | .coldBoot blobs fails => coldBoot blobs fails | .warmReset a b => warmReset a b
  | .checkpointStream => checkpointStream | .checkpointFinish => checkpointFinish | .healthUpdate x => healthUpdate x
  | .thermalThrottle x => thermalThrottle x | .thermalTrip x => thermalTrip x
  | .illegalInstruction => illegalInstruction | .instructionFetchFault cause addr => instructionFetchFault cause addr
  | .malformedFrame f => malformedFrame f

end Sys2Proof.Laws.Selects

namespace Sys2Proof.Machine

/-- What OP, FN and MOD select has these codes, and carries the fields that it was given. -/
theorem nativeSig_of_nativeCtor {op fn : Nat} {f : Fields} {i : Instr} (h : nativeCtor op fn f = some i) :
    ∃ g, nativeSig i = some (f, g) ∧ g.op = op ∧ g.fn = if 0x28 ≤ op then some fn else none := by
  simp only [nativeCtor, baseCtor, group28, group29, group2a, group2b, group2c, group2d, group2e, group2f, group30,
    group31, group32, group33, group34, group35, group36, group37, group38, group39, group3a, group3b, group3c,
    group3d] at h
  repeat' split at h
  all_goals cases h
  all_goals exact ⟨_, rfl, rfl, rfl⟩

/-- What a forerunner opcode selects has this opcode, and carries the fields that it was given. -/
theorem frSig_of_frCtor {fop : Nat} {f : FrFields} {i : Instr} (h : frCtor fop f = some i) :
    ∃ g, frSig i = some (f, g) ∧ g.fop = fop := by
  unfold frCtor at h
  split at h
  all_goals cases h
  all_goals exact ⟨_, rfl, rfl⟩

end Sys2Proof.Machine
end

section
/-! The fields of words, and the words of fields (Tables 3.1 to 3.3 and 3.13). -/
namespace Sys2Proof
open Sys2Proof.Machine

/-! ### The fields of a word that is made of them -/

section
variable (f : Fields) (op : BitVec 6) (fn : BitVec 8)

@[simp] theorem word0_length : (word0 f op).extractLsb' 0 2 = formBits f.form :=
  BitVec.extractLsb'_append_eq_right
@[simp] theorem word0_op : (word0 f op).extractLsb' 2 6 = op := by
  unfold word0
  rw [BitVec.extractLsb'_append_eq_of_le (by decide)]
  exact BitVec.extractLsb'_append_eq_right
@[simp] theorem word0_d : (word0 f op).extractLsb' 8 8 = f.d := by
  unfold word0
  iterate 2 rw [BitVec.extractLsb'_append_eq_of_le (by decide)]
  exact BitVec.extractLsb'_append_eq_right
@[simp] theorem word0_a : (word0 f op).extractLsb' 16 8 = f.a := by
  unfold word0
  iterate 3 rw [BitVec.extractLsb'_append_eq_of_le (by decide)]
  exact BitVec.extractLsb'_append_eq_right
@[simp] theorem word0_b : (word0 f op).extractLsb' 24 8 = f.b := by
  unfold word0
  iterate 3 rw [BitVec.extractLsb'_append_eq_of_le (by decide)]
  exact BitVec.extractLsb'_append_eq_left

@[simp] theorem word1_fn : (word1 f fn).extractLsb' 0 8 = fn :=
  BitVec.extractLsb'_append_eq_right
@[simp] theorem word1_la : (word1 f fn).extractLsb' 8 4 = f.la := by
  unfold word1
  rw [BitVec.extractLsb'_append_eq_of_le (by decide)]
  exact BitVec.extractLsb'_append_eq_right
@[simp] theorem word1_pg : (word1 f fn).extractLsb' 12 4 = f.pg := by
  unfold word1
  iterate 2 rw [BitVec.extractLsb'_append_eq_of_le (by decide)]
  exact BitVec.extractLsb'_append_eq_right
@[simp] theorem word1_pn : (word1 f fn).extractLsb' 16 1 = f.pn := by
  unfold word1
  iterate 3 rw [BitVec.extractLsb'_append_eq_of_le (by decide)]
  exact BitVec.extractLsb'_append_eq_right
@[simp] theorem word1_c : (word1 f fn).extractLsb' 17 8 = f.c := by
  unfold word1
  iterate 4 rw [BitVec.extractLsb'_append_eq_of_le (by decide)]
  exact BitVec.extractLsb'_append_eq_right
@[simp] theorem word1_mod : (word1 f fn).extractLsb' 25 7 = f.mod := by
  unfold word1
  iterate 4 rw [BitVec.extractLsb'_append_eq_of_le (by decide)]
  exact BitVec.extractLsb'_append_eq_left

@[simp] theorem formOf_word0 : formOf (word0 f op) = f.form := by
  simp only [formOf, word0_length]
  cases f.form <;> rfl

end

section
variable (f : FrFields) (fop : BitVec 8)

@[simp] theorem frWord_fop : (frWord f fop).extractLsb' 0 8 = fop :=
  BitVec.extractLsb'_append_eq_right

@[simp] theorem frFieldsOf_frWord : frFieldsOf (frWord f fop) = f := by
  simp only [frFieldsOf, frWord]
  congr 1 <;> refine BitVec.eq_of_getLsbD_eq fun i hi => ?_ <;>
    simp only [BitVec.getLsbD_append, BitVec.getLsbD_extractLsb'] <;> grind

end

/-- The two words of a doubleword. -/
theorem halves (x y : BitVec 32) : [(y ++ x).extractLsb' 0 32, (y ++ x).extractLsb' 32 32] = [x, y] := by
  rw [BitVec.extractLsb'_append_eq_right, BitVec.extractLsb'_append_eq_left]

/-! ### A word that is made of its own fields -/

/-- Two neighbouring fields of a word are one field. -/
theorem extractLsb'_join {n : Nat} (w : BitVec n) (lo a b : Nat) :
    w.extractLsb' (lo + a) b ++ w.extractLsb' lo a = w.extractLsb' lo (b + a) :=
  BitVec.extractLsb'_append_extractLsb'_eq_extractLsb' rfl

@[simp] theorem formBits_formOf (w : BitVec 32) : formBits (formOf w) = w.extractLsb' 0 2 := by
  unfold formOf
  generalize w.extractLsb' 0 2 = l
  revert l
  decide

section
variable (w : BitVec 32) {f : Fields}

theorem word0_eq (hb : f.b = w.extractLsb' 24 8) (ha : f.a = w.extractLsb' 16 8) (hd : f.d = w.extractLsb' 8 8)
    (hl : f.form = formOf w) : word0 f (w.extractLsb' 2 6) = w := by
  rw [word0, hb, ha, hd, hl, formBits_formOf, extractLsb'_join w 16 8, extractLsb'_join w 8 8, extractLsb'_join w 2 6,
    extractLsb'_join w 0 2]
  exact BitVec.extractLsb'_eq_self

theorem word1_eq (hm : f.mod = w.extractLsb' 25 7) (hc : f.c = w.extractLsb' 17 8) (hn : f.pn = w.extractLsb' 16 1)
    (hg : f.pg = w.extractLsb' 12 4) (hl : f.la = w.extractLsb' 8 4) : word1 f (w.extractLsb' 0 8) = w := by
  rw [word1, hm, hc, hn, hg, hl, extractLsb'_join w 17 8, extractLsb'_join w 16 1, extractLsb'_join w 12 4,
    extractLsb'_join w 8 4, extractLsb'_join w 0 8]
  exact BitVec.extractLsb'_eq_self

end

theorem frWord_frFieldsOf (w : BitVec 64) : frWord (frFieldsOf w) (w.extractLsb' 0 8) = w := by
  dsimp only [frWord, frFieldsOf]
  rw [extractLsb'_join w 36 4, extractLsb'_join w 35 1, extractLsb'_join w 32 3, extractLsb'_join w 24 8,
    extractLsb'_join w 16 8, extractLsb'_join w 8 8, extractLsb'_join w 0 8]
  exact BitVec.extractLsb'_eq_self

/-! ### The words of an instruction -/

section
variable {f : Fields} {op : BitVec 6} {fn : BitVec 8}

theorem formWords_getD_zero : (formWords f op fn).getD 0 0 = word0 f op := by
  unfold formWords
  cases f.form <;> rfl

theorem formWords_length : 4 * (formWords f op fn).length = formLen f.form := by
  unfold formWords
  cases f.form <;> rfl

/-- Fields that their form can carry come back from the words. -/
theorem fieldsOf_formWords (h : formOk f = true) :
    fieldsOf (word0 f op) ((formWords f op fn).getD 1 0) ((formWords f op fn).getD 2 0) ((formWords f op fn).getD 3 0)
      ((formWords f op fn).getD 4 0) = f := by
  have hlit : f.lit.extractLsb' 32 32 ++ f.lit.extractLsb' 0 32 = f.lit :=
    (extractLsb'_join f.lit 0 32 32).trans BitVec.extractLsb'_eq_self
  rw [fieldsOf, formOf_word0]
  obtain ⟨form, d, a, b, c, mod, pn, pg, la, w2, lit⟩ := f
  cases form <;> simp_all [formOk, formWords]

/-- FN comes back from the words, where it is zero in a form without extended words. -/
theorem fnOf_formWords (h : f.form = .base ∨ f.form = .lit → fn = 0) :
    fnOf (word0 f op) ((formWords f op fn).getD 1 0) = fn.toNat := by
  rw [fnOf, formOf_word0]
  cases hf : f.form <;> simp_all [formWords]

end

section
variable (w0 w1 w2 w3 w4 : BitVec 32)

/-- The decoder reads no field that the form does not carry. -/
theorem formOk_fieldsOf : formOk (fieldsOf w0 w1 w2 w3 w4) = true := by
  unfold fieldsOf
  cases formOf w0 <;> rfl

theorem form_fieldsOf : (fieldsOf w0 w1 w2 w3 w4).form = formOf w0 := by
  unfold fieldsOf
  cases formOf w0 <;> rfl

theorem fnOf_lt : fnOf w0 w1 < 256 := by
  unfold fnOf
  cases formOf w0
  case ext => exact BitVec.isLt _
  case extLit => exact BitVec.isLt _
  all_goals exact Nat.zero_lt_succ _

theorem word0_fieldsOf : word0 (fieldsOf w0 w1 w2 w3 w4) (w0.extractLsb' 2 6) = w0 := by
  refine word0_eq w0 ?_ ?_ ?_ (form_fieldsOf ..) <;> unfold fieldsOf <;> cases formOf w0 <;> rfl

theorem word1_fieldsOf (h : formOf w0 = .ext ∨ formOf w0 = .extLit) :
    word1 (fieldsOf w0 w1 w2 w3 w4) (BitVec.ofNat 8 (fnOf w0 w1)) = w1 := by
  have hfn : BitVec.ofNat 8 (fnOf w0 w1) = w1.extractLsb' 0 8 := by
    unfold fnOf
    rcases h with h | h <;> rw [h] <;> exact BitVec.eq_of_toNat_eq (by simp)
  rw [hfn]
  refine word1_eq w1 ?_ ?_ ?_ ?_ ?_ <;> unfold fieldsOf <;> rcases h with h | h <;> rw [h]

/-- The words that fields are read from are written from them again. -/
theorem formWords_fieldsOf : formWords (fieldsOf w0 w1 w2 w3 w4) (w0.extractLsb' 2 6) (BitVec.ofNat 8 (fnOf w0 w1)) =
    [w0, w1, w2, w3, w4].take (lenOf w0 / 4) := by
  have h0 := word0_fieldsOf w0 w1 w2 w3 w4
  have h1 := word1_fieldsOf w0 w1 w2 w3 w4
  unfold formWords lenOf
  rw [h0, form_fieldsOf]
  unfold fieldsOf at h1 ⊢
  cases hf : formOf w0 <;> rw [hf] at h1
  case base => rfl
  case ext => rw [h1 (.inl rfl)]; rfl
  case lit => exact congrArg (w0 :: ·) (halves w1 w2)
  case extLit => rw [h1 (.inr rfl)]; exact congrArg ([w0, w1, w2] ++ ·) (halves w3 w4)

end

end Sys2Proof

namespace Sys2Proof
open Sys2Proof.Machine

/-! ### Decoding what is encoded -/

section
variable {i : Instr}

theorem encode_of_nativeSig {f : Fields} {g : Sig} (hn : nativeSig i = some (f, g)) :
    encode i = some (formWords f (BitVec.ofNat 6 g.op) (BitVec.ofNat 8 (g.fn.getD 0))) := by
  simp only [encode, hn]

theorem encode_of_frSig {f : FrFields} {g : FrSig} (hn : nativeSig i = none) (hr : frSig i = some (f, g)) :
    encode i = some [(frWord f (BitVec.ofNat 8 g.fop)).extractLsb' 0 32,
      (frWord f (BitVec.ofNat 8 g.fop)).extractLsb' 32 32] := by
  simp only [encode, hn, hr]

end

/-- The words of a well-formed native instruction decode to it. -/
theorem decodeWords_formWords {i : Instr} {f : Fields} {g : Sig} (hn : nativeSig i = some (f, g))
    (hform : formOk f = true) (hlegal : g.legal = true) (hok : sigOk f g = true) :
    decodeWords false (formWords f (BitVec.ofNat 6 g.op) (BitVec.ofNat 8 (g.fn.getD 0))) =
      .instr i (formLen f.form) := by
  obtain ⟨-, hop, hfn, selects⟩ := (Laws.Selects.all i).1 f g hn
  obtain ⟨hsel, hgroup, hlong⟩ := selects hlegal
  have hop' : (BitVec.ofNat 6 g.op).toNat = g.op := Nat.mod_eq_of_lt hop
  have hfn' : (BitVec.ofNat 8 (g.fn.getD 0)).toNat = g.fn.getD 0 := Nat.mod_eq_of_lt hfn
  have hzero : f.form = .base ∨ f.form = .lit → BitVec.ofNat 8 (g.fn.getD 0) = 0 := fun hf => by
    cases hs : g.fn with
    | none => rfl
    | some x => exact absurd hf (not_or.mpr (hgroup (by rw [hs]; rfl)))
  have hshort : ¬(0x28 ≤ g.op ∧ (f.form = .base ∨ f.form = .lit)) := fun ⟨hlong', hf⟩ =>
    absurd hf (not_or.mpr (hgroup (hlong hlong')))
  have hfn0 : (g.fn.isSome || decide (g.fn.getD 0 = 0)) = true := by cases g.fn <;> rfl
  unfold decodeWords decodeNative
  simp only [formWords_getD_zero, fieldsOf_formWords hform, fnOf_formWords hzero, word0_op, formOf_word0, lenOf, hop',
    hfn', if_neg hshort, hsel, checkNative, hn, hlegal, hfn0, hok, Bool.false_eq_true, if_false, Bool.and_self, if_true,
    reduceCtorEq]

/-- The words of a well-formed forerunner instruction decode to it. -/
theorem decodeFr_frWord {i : Instr} {f : FrFields} {g : FrSig} (hr : frSig i = some (f, g)) (hok : frSigOk f g = true) :
    decodeFr (frWord f (BitVec.ofNat 8 g.fop)) = .instr i 8 := by
  obtain ⟨-, hfop, hsel⟩ := (Laws.Selects.all i).2 f g hr
  have hfop' : (BitVec.ofNat 8 g.fop).toNat = g.fop := Nat.mod_eq_of_lt hfop
  simp only [decodeFr, frWord_fop, frFieldsOf_frWord, hfop', hsel, hr, hok, if_true]

/-! ### What decodes is encoded -/

/-- What the checks of an instruction let through is legal, and its reserved bits are zero. -/
theorem of_checkNative {fn len n : Nat} {i j : Instr} {f : Fields} {g : Sig} (hg : nativeSig j = some (f, g))
    (h : checkNative fn len j = .instr i n) :
    i = j ∧ n = len ∧ g.legal = true ∧ (g.fn = none → fn = 0) ∧ sigOk f g = true := by
  simp only [checkNative, hg] at h
  split at h
  · cases h
  next hlegal =>
    split at h
    next hok =>
      obtain ⟨hfn, hsig⟩ := Bool.and_eq_true_iff.mp hok
      cases h
      exact ⟨rfl, rfl, by simpa using hlegal, fun hnone => by simpa [hnone] using hfn, hsig⟩
    · cases h

/-- What native words decode to is selected by their codes, carries their fields, and passes the checks. -/
theorem of_decodeNative {w0 w1 w2 w3 w4 : BitVec 32} {i : Instr} {n : Nat}
    (h : decodeNative w0 w1 w2 w3 w4 = .instr i n) :
    n = lenOf w0 ∧ ∃ g, nativeSig i = some (fieldsOf w0 w1 w2 w3 w4, g) ∧ g.legal = true ∧
      sigOk (fieldsOf w0 w1 w2 w3 w4) g = true ∧ g.op = (w0.extractLsb' 2 6).toNat ∧ g.fn.getD 0 = fnOf w0 w1 := by
  simp only [decodeNative] at h
  split at h
  · cases h
  split at h
  · cases h
  next j hsel =>
    obtain ⟨g, hg, hop, hfn⟩ := nativeSig_of_nativeCtor hsel
    obtain ⟨rfl, hn, hlegal, hzero, hsig⟩ := of_checkNative hg h
    refine ⟨hn, g, hg, hlegal, hsig, hop, ?_⟩
    split at hfn
    · rw [hfn, Option.getD_some]
    · rw [hfn, Option.getD_none, hzero hfn]

theorem of_decodeFr {w : BitVec 64} {i : Instr} {n : Nat} (h : decodeFr w = .instr i n) :
    n = 8 ∧ ∃ g, frSig i = some (frFieldsOf w, g) ∧ frSigOk (frFieldsOf w) g = true ∧
      g.fop = (w.extractLsb' 0 8).toNat := by
  unfold decodeFr at h
  split at h
  · cases h
  next j hsel =>
    obtain ⟨g, hg, hfop⟩ := frSig_of_frCtor hsel
    simp only [hg] at h
    split at h
    next hok =>
      cases h
      exact ⟨rfl, g, hg, hok, hfop⟩
    · cases h

/-- Native words that decode to an instruction are its encoding, which is well formed. -/
theorem encode_of_decodeNative {l : List (BitVec 32)} {i : Instr} {n : Nat} (h : decodeWords false l = .instr i n) :
    wellFormed i = true ∧ frSig i = none ∧
      ∃ ws, encode i = some ws ∧ n = 4 * ws.length ∧ ∀ k < ws.length, l.getD k 0 = ws.getD k 0 := by
  obtain ⟨rfl, g, hg, hlegal, hsig, hop, hfn⟩ := of_decodeNative h
  have hform := formOk_fieldsOf (l.getD 0 0) (l.getD 1 0) (l.getD 2 0) (l.getD 3 0) (l.getD 4 0)
  have hlen := form_fieldsOf (l.getD 0 0) (l.getD 1 0) (l.getD 2 0) (l.getD 3 0) (l.getD 4 0)
  refine ⟨by simp only [wellFormed, hg, hform, hlegal, hsig, Bool.and_self], ((Laws.Selects.all i).1 _ g hg).1, _,
    encode_of_nativeSig hg, ?_⟩
  rw [formWords_length, hlen, hop, hfn, BitVec.ofNat_toNat, BitVec.setWidth_eq, formWords_fieldsOf]
  refine ⟨rfl, fun k hk => ?_⟩
  rw [List.getD_eq_getElem _ _ hk, List.getElem_take]
  have hk : k < 5 := hk.trans_le (List.length_take_le' ..)
  interval_cases k <;> rfl

/-- A forerunner word that decodes to an instruction is its encoding, which is well formed. -/
theorem encode_of_decodeFr {l : List (BitVec 32)} {i : Instr} {n : Nat} (h : decodeWords true l = .instr i n) :
    wellFormed i = true ∧ (frSig i).isSome = true ∧
      ∃ ws, encode i = some ws ∧ n = 4 * ws.length ∧ ∀ k < ws.length, l.getD k 0 = ws.getD k 0 := by
  obtain ⟨rfl, g, hg, hok, hfop⟩ := of_decodeFr h
  have hn : nativeSig i = none := ((Laws.Selects.all i).2 _ g hg).1
  refine ⟨by simp only [wellFormed, hn, hg, hok], by rw [hg]; rfl, _, encode_of_frSig hn hg, rfl, ?_⟩
  rw [hfop, BitVec.ofNat_toNat, BitVec.setWidth_eq, frWord_frFieldsOf, halves]
  intro k hk
  have hk : k < 2 := hk
  interval_cases k <;> rfl

end Sys2Proof
end

section
open Sys2Proof Sys2Proof.Machine

/-- Settles O58: each word is made of its fields and gives them back, and the codes of an instruction and its
constructor name each other. -/
theorem encodingAndDecodingAgree : Obligations.EncodingAndDecodingAgree := by
  refine ⟨fun i ws hw he => ?_, fun fr l i n h => ?_⟩
  · cases hn : nativeSig i with
    | some x =>
      obtain ⟨f, g⟩ := x
      simp only [wellFormed, hn, Bool.and_eq_true] at hw
      obtain ⟨⟨hform, hlegal⟩, hok⟩ := hw
      obtain rfl := Option.some.inj ((encode_of_nativeSig hn).symm.trans he)
      rw [((Laws.Selects.all i).1 f g hn).1, formWords_length]
      exact decodeWords_formWords hn hform hlegal hok
    | none =>
      cases hr : frSig i with
      | some x =>
        obtain ⟨f, g⟩ := x
        simp only [wellFormed, hn, hr] at hw
        obtain rfl := Option.some.inj ((encode_of_frSig hn hr).symm.trans he)
        have word : (frWord f (BitVec.ofNat 8 g.fop)).extractLsb' 32 32 ++
            (frWord f (BitVec.ofNat 8 g.fop)).extractLsb' 0 32 = frWord f (BitVec.ofNat 8 g.fop) :=
          (extractLsb'_join _ 0 32 32).trans BitVec.extractLsb'_eq_self
        exact (congrArg decodeFr word).trans (decodeFr_frWord hr hw)
      | none => simp only [encode, hn, hr, reduceCtorEq] at he
  · cases fr with
    | false =>
      obtain ⟨hw, hr, rest⟩ := encode_of_decodeNative h
      exact ⟨hw, by rw [hr]; rfl, rest⟩
    | true => exact encode_of_decodeFr h
end

section
open Sys2Proof Sys2Proof.Machine

/-- Settles O55: the decoder evaluates on the words. -/
theorem wordsDecodeToTheirInstructions : Obligations.WordsDecodeToTheirInstructions := by
  unfold Obligations.WordsDecodeToTheirInstructions
  decide
end

section
/-! Instructions that act on no lane, and those after which control would pass to a page of the other code kind (R78, R99,
R102). -/
namespace Sys2Proof.Machine

/-- The end of an instruction that would fall through to a page of the other code kind (R99). -/
theorem Env.finish_crossing (en : Env) (t : State) (h : ¬en.Stays en.fall) :
    en.finish (.next t) = en.raise en.s { cause := 0x01 } := by
  simp only [Env.Stays, Bool.not_eq_false] at h
  simp only [Env.finish, Env.leave, h, if_true]

/-- What an instruction with an empty effective mask leaves: its slot goes on, or takes the fault of R99. -/
def Env.Idles (en : Env) (o : Out) : Prop :=
  (en.Stays en.fall → o = .next (en.goesOn en.s)) ∧ (¬en.Stays en.fall → o = .next (en.raise en.s { cause := 0x01 }))

section
variable {s : State} {is : Issue}

theorem State.run_idles {g : Warp → Word} (he : (s.env is g).e = 0) (body : Env → Res) :
    (s.env is g).Idles (.next (s.run is g body)) := by
  simp only [State.run, he, if_true]
  exact ⟨fun h => congrArg _ (Env.finish_next _ _ h), fun h => congrArg _ (Env.finish_crossing _ _ h)⟩

theorem native_idles {f : Fields} (h : (s.nat is f).Issues) (he : (s.nat is f).e = 0) (body : Env → Res) :
    (s.nat is f).Idles (native f s body) := by
  have hc : s.cur = some is := h.1
  simp only [native, hc]
  exact State.run_idles he body

theorem forerunner_idles {f : FrFields} (h : (s.fr is f).Issues) (he : (s.fr is f).e = 0) (body : Env → Res) :
    (s.fr is f).Idles (forerunner f s body) := by
  have hc : s.cur = some is := h.1
  simp only [forerunner, hc]
  exact State.run_idles he body

/-- A native instruction that acts and falls through to a page of the other code kind has no effect but the fault. -/
theorem native_crossing {f : Fields} {body : Env → Res} {t : State} (h : (s.nat is f).Acts)
    (hs : ¬(s.nat is f).Stays (s.nat is f).fall) (hb : body (s.nat is f) = .next t) :
    native f s body = .next ((s.nat is f).raise s { cause := 0x01 }) := by
  rw [native_eq h, hb]
  exact congrArg _ (Env.finish_crossing _ _ hs)

end

/-- The forerunner opcodes of Table 3.14 that act on lanes. -/
def laneOpcodes : List (FrFields → Instr) :=
  [.frIntegerAdd, .frIntegerSubtract, .frIntegerMultiply, .frAnd, .frOr, .frXor, .frShiftLeft, .frLogicalShiftRight,
    .frArithmeticShiftRight, .frFp32Add, .frFp32Multiply, .frFp32Fma, .frMove, .frLoadImmediate, .frLaneNumber,
    .frIntegerCompare, .frFp32Compare, .frScalarAddImmediate, .frScalarLoadImmediate, .frLoadWord, .frStoreWord,
    .frScratchpadLoadWord, .frScratchpadStoreWord]

/-- Each of them is a body on the active lanes. -/
theorem exec_of_laneOpcodes (f : FrFields) (s : State) :
    ∀ mk ∈ laneOpcodes, ∃ body, exec (mk f) s = forerunner f s body := by
  simp only [laneOpcodes, List.forall_mem_cons]
  and_intros
  iterate 23 exact ⟨_, rfl⟩
  exact fun _ h => nomatch h

end Sys2Proof.Machine
end

section
open Sys2Proof Sys2Proof.Machine

/-- Settles O53: every meaning is a body that an empty mask does not run, and an instruction whose body completes falls
through. -/
theorem emptyMasksOnlyAdvanceThePc : Obligations.EmptyMasksOnlyAdvanceThePc := by
  refine ⟨fun f g i s is hg h he => ?_, fun f s is mk hm h he => ?_, fun f s is h hs => ?_⟩
  · obtain ⟨body, hi⟩ := exec_of_nativeSig hg s
    rw [hi]
    exact native_idles h he body
  · obtain ⟨body, hi⟩ := exec_of_laneOpcodes f s mk hm
    rw [hi]
    exact forerunner_idles h he body
  · simp only [List.forall_mem_cons]
    exact ⟨native_crossing h hs rfl, native_crossing h hs rfl, native_crossing h hs rfl, native_crossing h hs rfl,
      native_crossing h hs rfl, native_crossing h hs rfl, fun _ h => nomatch h⟩
end

section
/-! Integer operations on 32-bit elements (R109): the model's exact results, brought back to 32 bits, are those of two's
complement arithmetic. -/
namespace Sys2Proof.Machine

/-- The low half of a result of 32 bits. -/
theorem extractLsb'_ofNat_wrap (r : Int) : (BitVec.ofNat 64 (wrap 32 r)).extractLsb' 0 32 = BitVec.ofInt 32 r := by
  apply BitVec.eq_of_toNat_eq
  simp only [wrap, BitVec.extractLsb'_toNat, BitVec.toNat_ofNat, BitVec.toNat_ofInt, Nat.shiftRight_zero]
  omega

/-- The low half of a word read in two's complement. -/
theorem signed_word (x : Word) : signed 32 x.toNat = (x.setWidth 32).toInt := by
  rw [← signed_toNat, BitVec.toNat_setWidth, signed, signed, Nat.mod_mod]

/-- A word stands for a 32-bit operand: it has its bits, and counts as many places as a shift. -/
def StandsFor (x : Word) (b : Elem) : Prop :=
  x.setWidth 32 = b ∧ (x.toNat = b.toNat ∨ 32 ≤ x.toNat ∧ 32 ≤ b.toNat)

theorem standsFor_zeroExtend (b : Elem) : StandsFor (b.zeroExtend 64) b :=
  ⟨by simp, .inl (by simp; omega)⟩

/-- A sign-extended immediate. -/
theorem standsFor_signExtend (x : BitVec 24) : StandsFor (x.signExtend 64) (x.signExtend 32) := by
  constructor
  · apply BitVec.eq_of_getLsbD_eq
    intro i hi
    simp only [BitVec.getLsbD_setWidth, BitVec.getLsbD_signExtend]
    grind
  · have := x.isLt
    simp only [BitVec.toNat_signExtend, BitVec.toNat_setWidth]
    split <;> omega

/-- The element that a word stands for is its low half. -/
theorem StandsFor.elem {x : Word} {b : Elem} (h : StandsFor x b) : x.extractLsb' 0 32 = b :=
  (BitVec.setWidth_eq_extractLsb' (by decide)).symm.trans h.1

theorem elem_ofNat (i : Nat) : (BitVec.ofNat 64 i).extractLsb' 0 32 = BitVec.ofNat 32 i := by
  apply BitVec.eq_of_toNat_eq
  simp only [BitVec.extractLsb'_toNat, BitVec.toNat_ofNat, Nat.shiftRight_zero]
  omega

/-- The low 32 bits of the exact result of an operation. -/
def IntOp.elem (op : IntOp) (a : Elem) (x : Word) : Elem := BitVec.ofInt 32 (op.exact 32 false (a.zeroExtend 64) x)

theorem toInt_elem (a : Elem) : toInt 32 false (a.zeroExtend 64 : Word).toNat = a.toInt :=
  (signed_word _).trans (congrArg _ (standsFor_zeroExtend a).1)

/-- Shifting by the width less one or more leaves copies of the sign. -/
theorem sshiftRight_of_le (a : Elem) {n : Nat} (h : 31 ≤ n) : a.sshiftRight n = a.sshiftRight 31 := by
  have sign : ∀ m i, 31 ≤ m → i < 32 → (a.sshiftRight m).getLsbD i = a.msb := fun m i hm hi => by
    rw [BitVec.getLsbD_sshiftRight]
    by_cases hmi : m + i < 32
    · simp [show m + i = 31 by omega, hi, BitVec.msb_eq_getLsbD_last]
    · simp [hmi, hi]
  exact BitVec.eq_of_getLsbD_eq fun i hi => (sign n i h hi).trans (sign 31 i le_rfl hi).symm

section
variable {x : Word} {b : Elem} (a : Elem) (h : StandsFor x b)

include h

theorem toInt_standsFor : toInt 32 false x.toNat = b.toInt :=
  (signed_word _).trans (congrArg _ h.1)

theorem IntOp.elem_add : IntOp.add.elem a x = a + b := by
  simp only [IntOp.elem, IntOp.exact, toInt_elem, toInt_standsFor h, BitVec.ofInt_add, BitVec.ofInt_toInt]

theorem IntOp.elem_sub : IntOp.sub.elem a x = a - b := by
  simp only [IntOp.elem, IntOp.exact, toInt_elem, toInt_standsFor h, Int.sub_eq_add_neg, BitVec.ofInt_add,
    BitVec.ofInt_neg, BitVec.ofInt_toInt, BitVec.sub_eq_add_neg]

theorem IntOp.elem_mul : IntOp.mul.elem a x = a * b := by
  simp only [IntOp.elem, IntOp.exact, toInt_elem, toInt_standsFor h, BitVec.ofInt_mul, BitVec.ofInt_toInt]

theorem IntOp.elem_and : IntOp.and.elem a x = a &&& b := by
  simp only [IntOp.elem, IntOp.exact, BitVec.ofInt_natCast, BitVec.ofNat_toNat, BitVec.setWidth_and,
    (standsFor_zeroExtend a).1, h.1]

theorem IntOp.elem_or : IntOp.or.elem a x = a ||| b := by
  simp only [IntOp.elem, IntOp.exact, BitVec.ofInt_natCast, BitVec.ofNat_toNat, BitVec.setWidth_or,
    (standsFor_zeroExtend a).1, h.1]

theorem IntOp.elem_xor : IntOp.xor.elem a x = a ^^^ b := by
  simp only [IntOp.elem, IntOp.exact, BitVec.ofInt_natCast, BitVec.ofNat_toNat, BitVec.setWidth_xor,
    (standsFor_zeroExtend a).1, h.1]

theorem IntOp.elem_shl : IntOp.shl.elem a x = a <<< b.toNat := by
  simp only [IntOp.elem, IntOp.exact, toInt_elem]
  rcases h.2 with hn | ⟨hx, hb⟩
  · rw [hn]
    split
    next hb => rw [BitVec.shiftLeft_eq_zero hb]; rfl
    next =>
      rw [BitVec.ofInt_mul, BitVec.ofInt_toInt, BitVec.shiftLeft_eq_mul_twoPow, BitVec.ofInt_natCast]
      exact congrArg (a * ·) (BitVec.eq_of_toNat_eq (by simp [BitVec.toNat_twoPow]))
  · rw [if_pos hx, BitVec.shiftLeft_eq_zero hb]; rfl

theorem IntOp.elem_shr : IntOp.shr.elem a x = a >>> b.toNat := by
  simp only [IntOp.elem, IntOp.exact]
  rcases h.2 with hn | ⟨hx, hb⟩
  · rw [hn]
    split
    next hb => rw [BitVec.ushiftRight_eq_zero hb]; rfl
    next =>
      have ha : low 32 (a.zeroExtend 64 : Word).toNat = a.toNat := by
        simp only [low, ← BitVec.toNat_setWidth, (standsFor_zeroExtend a).1]
      rw [BitVec.ofInt_natCast, ha, ← Nat.shiftRight_eq_div_pow, ← BitVec.toNat_ushiftRight, BitVec.ofNat_toNat,
        BitVec.setWidth_eq]
  · rw [if_pos hx, BitVec.ushiftRight_eq_zero hb]; rfl

theorem IntOp.elem_sra : IntOp.sra.elem a x = a.sshiftRight b.toNat := by
  have hs : signed 32 (a.zeroExtend 64 : Word).toNat = a.toInt := toInt_elem a
  have hd : ∀ n : Nat, a.toInt / ((2 ^ n : Nat) : Int) = (a.sshiftRight n).toInt := fun n => by
    rw [BitVec.toInt_sshiftRight, Int.shiftRight_eq_div_pow]
  simp only [IntOp.elem, IntOp.exact, hs, hd, BitVec.ofInt_toInt]
  rcases h.2 with hn | ⟨hx, hb⟩
  · rw [hn]
    split
    next => rfl
    next hn => exact (sshiftRight_of_le a (by omega)).symm
  · rw [if_neg (by omega)]
    exact (sshiftRight_of_le a (by omega)).symm

end

end Sys2Proof.Machine
end

section
/-! Forerunner arithmetic and compares (R100 to R102). -/
namespace Sys2Proof.Machine

/-- Raising no flag leaves the warp as it is. -/
@[simp] theorem Warp.raiseFlags_zero (w : Warp) : w.raiseFlags 0 = w := by
  simp [Warp.raiseFlags]

section
variable {f : FrFields} {s : State} {is : Issue} (h : (s.fr is f).Runs)
include h

/-- A forerunner instruction that runs, and whose body completes, goes on. -/
theorem forerunner_next {t : State} {body : Env → Res} (hb : body (s.fr is f) = .next t) :
    forerunner f s body = .next ((s.fr is f).goesOn t) := by
  rw [forerunner_eq h.1, hb, Env.finish_next _ _ h.2]

/-- An opcode of lane results gives them to v[d]. -/
theorem frLane_eq (g : Env → Nat → Word × FlagSet) :
    frLane f s g = .next ((s.fr is f).lanesGive false f.d.toNat (g (s.fr is f))) :=
  forerunner_done h rfl

/-- An opcode of lane results that raises no flag writes v[d]. -/
theorem frLane_quiet {g : Env → Nat → Word × FlagSet} {r : Nat → Elem}
    (hr : ∀ i, (g (s.fr is f) i).1.extractLsb' 0 32 = r i) (hq : ∀ i, (g (s.fr is f) i).2 = 0) :
    frLane f s g = .next ((s.fr is f).gives ((s.fr is f).w.setV f.d.toNat (s.fr is f).e r)) := by
  rw [frLane_eq h, Env.lanesGive, flagsOf_zero _ _ hq, Warp.raiseFlags_zero]
  simp only [Warp.putV, Bool.false_eq_true, if_false, hr]

/-- The second source of an integer opcode (R101). -/
def Env.frElem (en : Env) (f : FrFields) (i : Nat) : Elem :=
  if f.sub.getLsbD 0 then f.imm.signExtend 32 else en.w.getV f.b.toNat i

omit h in
theorem Env.frB_standsFor (en : Env) (f : FrFields) (i : Nat) : StandsFor (en.frB f i) (en.frElem f i) := by
  unfold Env.frB Env.frElem
  split
  · exact standsFor_signExtend f.imm
  · exact standsFor_zeroExtend _

/-- An integer opcode writes the low 32 bits of its exact result. -/
theorem frInt_eq (op : IntOp) (g : Elem → Elem → Elem) (hg : ∀ {x b} a, StandsFor x b → op.elem a x = g a b) :
    frInt op f s = .next ((s.fr is f).gives ((s.fr is f).w.setV f.d.toNat (s.fr is f).e fun i =>
      g ((s.fr is f).w.getV f.a.toNat i) ((s.fr is f).frElem f i))) :=
  frLane_quiet h (fun i => (extractLsb'_ofNat_wrap _).trans (hg _ (Env.frB_standsFor _ f i))) fun _ => rfl

omit h in
/-- A compare on the lanes of a mask writes their bits of a predicate. -/
theorem Warp.setPLanes_bits (w : Warp) (d : Nat) (e : Word) (c : Nat → Bool) {l : Nat} (hl : l < 64) :
    ((w.getP d &&& ~~~e) ||| (maskOf c &&& e)).getLsbD l = if e.getLsbD l then c l else (w.getP d).getLsbD l := by
  rw [BitVec.getLsbD_or, BitVec.getLsbD_and, BitVec.getLsbD_and, BitVec.getLsbD_not, getLsbD_maskOf _ hl]
  cases e.getLsbD l <;> simp [hl]

/-- A forerunner compare writes the lane bits of p[d] on the active lanes. -/
theorem frCompare_eq {body : Env → Res} {c : Nat → Bool}
    (hb : body (s.fr is f) =
      (s.fr is f).done ((s.fr is f).w.setPLanes f.d.toNat (s.fr is f).e (maskOf c))) :
    ∃ p : Word, forerunner f s body = .next ((s.fr is f).gives ((s.fr is f).w.setP f.d.toNat p)) ∧
      ∀ l < 64, p.getLsbD l =
        if (s.fr is f).e.getLsbD l then c l else ((s.fr is f).w.getP f.d.toNat).getLsbD l :=
  ⟨_, forerunner_done h hb, fun _ hl => Warp.setPLanes_bits _ _ _ c hl⟩

omit h in
theorem Env.fpV_single (en : Env) (r i : Nat) : en.fpV false r i = fp32.decode (en.w.getV r i).toNat := by
  have : ((en.w.getV r i).zeroExtend 64 : Word).toNat = (en.w.getV r i).toNat := by simp; omega
  simp only [Env.fpV, Warp.vVal, fpOf, Bool.false_eq_true, if_false, this]

end

/-! ### Integer compares -/

/-- Below, unsigned or in two's complement. -/
def elemLt (uns : Bool) (x y : Elem) : Bool := if uns then decide (x.toNat < y.toNat) else decide (x.toInt < y.toInt)

section
variable (uns : Bool) (x y : Elem)

theorem toInt_toNat : toInt 32 uns x.toNat = if uns then (x.toNat : Int) else x.toInt := by
  rw [toInt, signed_toNat, Nat.mod_eq_of_lt x.isLt]

theorem toInt_eq_iff : toInt 32 uns x.toNat = toInt 32 uns y.toNat ↔ x = y := by
  rw [toInt_toNat, toInt_toNat]
  cases uns with
  | false => exact BitVec.toInt_inj
  | true => exact Int.ofNat_inj.trans BitVec.toNat_inj

theorem toInt_lt_iff : toInt 32 uns x.toNat < toInt 32 uns y.toNat ↔ elemLt uns x y = true := by
  rw [toInt_toNat, toInt_toNat, elemLt]
  cases uns <;> simp

theorem toInt_le_iff :
    toInt 32 uns x.toNat ≤ toInt 32 uns y.toNat ↔ (elemLt uns x y || decide (x = y)) = true := by
  rw [Bool.or_eq_true, decide_eq_true_iff, ← toInt_lt_iff, ← toInt_eq_iff uns, le_iff_lt_or_eq]

/-- The conditions of Table 3.14 by order and equality. -/
def compareElem (cond : Nat) (uns : Bool) (x y : Elem) : Bool :=
  match cond with
  | 0 => decide (x = y)
  | 1 => decide (x ≠ y)
  | 2 => elemLt uns x y
  | 3 => elemLt uns x y || decide (x = y)
  | 4 => !(elemLt uns x y || decide (x = y))
  | _ => !elemLt uns x y

theorem compareInt_toInt (cond : Nat) :
    compareInt cond (toInt 32 uns x.toNat) (toInt 32 uns y.toNat) = compareElem cond uns x y := by
  rw [Bool.eq_iff_iff]
  match cond with
  | 0 => simp only [compareInt, compareElem, decide_eq_true_iff, toInt_eq_iff]
  | 1 => simp only [compareInt, compareElem, decide_eq_true_iff, ne_eq, toInt_eq_iff]
  | 2 => simp only [compareInt, compareElem, decide_eq_true_iff, toInt_lt_iff]
  | 3 => simp only [compareInt, compareElem, decide_eq_true_iff, toInt_le_iff]
  | 4 =>
    simp only [compareInt, compareElem, decide_eq_true_iff, ← not_le, toInt_le_iff, Bool.not_eq_true,
      Bool.not_eq_true']
  | _ + 5 =>
    simp only [compareInt, compareElem, decide_eq_true_iff, ← not_lt, toInt_lt_iff, Bool.not_eq_true,
      Bool.not_eq_true']

end

end Sys2Proof.Machine
end

section
open Sys2Proof Sys2Proof.Machine

/-- Settles O38: integer opcodes by their exact results brought back to 32 bits, float opcodes by one conversion, and
compares by the bits of the predicate that they leave. -/
theorem forerunnerArithmeticCompletes : Obligations.ForerunnerArithmeticCompletes := by
  intro f s is h
  refine ⟨?nop, ?add, ?sub, ?mul, ?and, ?or, ?xor, ?shl, ?shr, ?sra, ?move, ?imm, ?lane, ?fadd, ?fmul, ?fma, ?icmp,
    ?fcmp, ?sadd, ?sli⟩
  case nop => exact forerunner_next h rfl
  case add => exact frInt_eq h .add (· + ·) IntOp.elem_add
  case sub => exact frInt_eq h .sub (· - ·) IntOp.elem_sub
  case mul => exact frInt_eq h .mul (· * ·) IntOp.elem_mul
  case and => exact frInt_eq h .and (· &&& ·) IntOp.elem_and
  case or => exact frInt_eq h .or (· ||| ·) IntOp.elem_or
  case xor => exact frInt_eq h .xor (· ^^^ ·) IntOp.elem_xor
  case shl => exact frInt_eq h .shl (fun a b => a <<< b.toNat) IntOp.elem_shl
  case shr => exact frInt_eq h .shr (fun a b => a >>> b.toNat) IntOp.elem_shr
  case sra => exact frInt_eq h .sra (fun a b => a.sshiftRight b.toNat) IntOp.elem_sra
  case move => exact frLane_quiet h (fun _ => (standsFor_zeroExtend _).elem) fun _ => rfl
  case imm => exact frLane_quiet h (fun _ => (standsFor_signExtend _).elem) fun _ => rfl
  case lane => exact frLane_quiet h elem_ofNat fun _ => rfl
  case fadd =>
    simp only [← Env.fpV_single]
    exact frLane_eq h _
  case fmul =>
    simp only [← Env.fpV_single]
    exact frLane_eq h _
  case fma =>
    simp only [← Env.fpV_single]
    exact frLane_eq h _
  case fcmp =>
    simp only [← Env.fpV_single]
    exact frCompare_eq h rfl
  case sadd => exact forerunner_done h rfl
  case sli => exact forerunner_done h rfl
  case icmp =>
    refine frCompare_eq h (c := fun l => compareElem (f.sub.toNat % 8) (f.sub.getLsbD 3)
      ((s.fr is f).w.getV f.a.toNat l) ((s.fr is f).w.getV f.b.toNat l)) ?_
    simp only [← compareInt_toInt]
    rfl
end

section
/-! Forerunner memory and control opcodes (R98, R101, R102, R104). -/
namespace Sys2Proof.Machine

/-! ### Accesses whose lanes all pass -/

section
variable {en : Env} {d size : Nat} {off : Nat → Word}

/-- A load whose lanes all pass writes the bytes read. -/
theorem Env.globalLoad_of_good {c : Cap} {s s1 t : State} {good : List (Nat × Place)} {got : List (Nat × List Byte)}
    (hc : checkLanes (fun s i => s.laneCheck en.who c permR (off i) (sizeBytes size) false) s (maskLanes en.e) =
      (good, [], s1)) (hl : s1.loadLanes en.who (sizeBytes size) good = (got, t)) :
    en.globalLoad s size d c off =
      .next (t.putWarp en.key (en.w.putLoaded d size en.e fun i => loadedValue size 32 (mapGet [] got i))) := by
  simp only [Env.globalLoad, Env.lanes, hc, laneTrap, hl]

/-- A store whose lanes all pass stores them in order. -/
theorem Env.globalStore_of_good {c : Cap} {t : State} {good : List (Nat × Place)}
    (hc : checkLanes (fun s i => s.laneCheck en.who c permW (off i) (sizeBytes size) true) en.s (maskLanes en.e) =
      (good, [], t)) :
    en.globalStore size d c off =
      .next (good.foldl (fun s x => s.l1Store en.who x.2.1 (en.w.storedBytes d size x.1) x.2.2) t) := by
  simp only [Env.globalStore, Env.lanes, hc, laneTrap]

/-- The lanes' accesses lie in the scratchpad and are aligned. -/
def Env.ScratchFits (en : Env) (n : Nat) (off : Nat → Word) : Prop :=
  ∀ i < 64, en.e.getLsbD i = true →
    (off i).toNat < 2 ^ 63 ∧ (off i).toNat + n ≤ en.block.scratchSize ∧ (off i).toNat % n = 0

variable (hf : en.ScratchFits (sizeBytes size) off)
include hf

theorem Env.scratchBad_of_fits : en.block.scratchBad (sizeBytes size) off en.lanes = [] := by
  refine List.eq_nil_iff_forall_not_mem.mpr fun y hy => ?_
  obtain ⟨hl, hx⟩ := mem_scratchBad.mp hy
  obtain ⟨hi, he⟩ := mem_maskLanes.mp hl
  obtain ⟨hlow, hsize, halign⟩ := hf y.1 hi he
  rw [Block.scratchCheck_none hlow hsize halign] at hx
  cases hx

theorem Env.scratchLoad_of_fits (ht : en.block.torn = []) (s : State) :
    en.scratchLoad s size d off = .next (s.putWarp en.key (en.w.putLoaded d size en.e fun i =>
      loadedValue size 32 (en.block.scratchRead (off i).toNat (sizeBytes size)))) := by
  have torn : en.tornLanes off (sizeBytes size) = none := by
    have clear : (en.lanes.findSome? fun i => en.block.tornBytes (off i).toNat (sizeBytes size)) = none := by
      simp [Block.tornBytes, Block.tornRow, ht]
    simp only [Env.tornLanes, clear]
  simp only [Env.scratchLoad, Env.scratchBad_of_fits hf, laneTrap, torn]

theorem Env.scratchStore_of_fits (s : State) :
    en.scratchStore s size d off = .next (s.modBlock en.bk fun b =>
      (maskLanes en.e).foldl (fun b i => b.scratchWrite (off i).toNat (en.w.storedBytes d size i)) b) := by
  simp only [Env.scratchStore, Env.scratchBad_of_fits hf, laneTrap]
  rfl

end

/-- Data of 32 bits goes to one register. -/
theorem Warp.putLoaded_word (w : Warp) (d : Nat) (m : Word) (l : Nat → List Byte) :
    w.putLoaded d 4 m (fun i => loadedValue 4 32 (l i)) = w.setV d m fun i => BitVec.ofNat 32 (leNat (l i)) := by
  simp only [Warp.putLoaded, loadedValue_of_word (le_refl 4), mul_zero, pow_zero, Nat.div_one]
  rfl

/-! ### Nesting counters -/

/-- A lane of the slot. -/
def Env.Mine (en : Env) (l : Nat) : Prop := l < 64 ∧ en.e.getLsbD l = true

theorem Env.mem_lanes {en : Env} {l : Nat} : l ∈ en.lanes ↔ en.Mine l := mem_maskLanes

/-- Keys of a list set in turn: those read as set, and every other key as before. -/
theorem mapGet_foldl_set (h : Nat → Nat) (ls : List Nat) (m : Map Nat) (l : Nat) :
    mapGet 0 (ls.foldl (fun m i => mapSet 0 m i (h i)) m) l = if l ∈ ls then h l else mapGet 0 m l := by
  induction ls generalizing m with
  | nil => rfl
  | cons i r ih =>
    rw [List.foldl_cons, ih, mapGet_set]
    by_cases hr : l ∈ r
    · simp [hr]
    · by_cases hi : i = l
      · simp [hi]
      · simp [hr, hi, Ne.symm hi]

section
variable {en : Env} {g : Nat → Nat → Nat}

/-- The counters of the slot's lanes after a change. -/
def Env.newNest (en : Env) (g : Nat → Nat → Nat) : Map Nat :=
  en.lanes.foldl (fun m i => mapSet 0 m i (g i (mapGet 0 en.w.nest i))) en.w.nest

theorem Env.newNest_mine {l : Nat} (h : en.Mine l) : mapGet 0 (en.newNest g) l = g l (mapGet 0 en.w.nest l) := by
  rw [Env.newNest, mapGet_foldl_set, if_pos (Env.mem_lanes.mpr h)]

theorem Env.newNest_other {l : Nat} (h : ¬en.Mine l) : mapGet 0 (en.newNest g) l = mapGet 0 en.w.nest l := by
  rw [Env.newNest, mapGet_foldl_set, if_neg (mt Env.mem_lanes.mp h)]

/-- A lane of the slot is active. -/
theorem Env.any_zero : (en.lanes.any fun i => decide (mapGet 0 en.w.nest i = 0)) = true ↔
    ∃ l, en.Mine l ∧ mapGet 0 en.w.nest l = 0 := by
  simp only [List.any_eq_true, decide_eq_true_eq, Env.mem_lanes]

/-- The lanes whose counter would pass 255. -/
def Env.overNest (en : Env) (g : Nat → Nat → Nat) : List (Nat × Nat) :=
  (en.lanes.map fun i => (i, g i (mapGet 0 en.w.nest i))).filter fun x => decide (255 < x.2)

theorem Env.mem_overNest {x : Nat × Nat} :
    x ∈ en.overNest g ↔ en.Mine x.1 ∧ x.2 = g x.1 (mapGet 0 en.w.nest x.1) ∧ 255 < x.2 := by
  obtain ⟨i, n⟩ := x
  simp only [Env.overNest, List.mem_filter, List.mem_map, Prod.mk.injEq, decide_eq_true_eq]
  constructor
  · rintro ⟨⟨j, hj, rfl, rfl⟩, h⟩
    exact ⟨Env.mem_lanes.mp hj, rfl, h⟩
  · rintro ⟨hi, rfl, h⟩
    exact ⟨⟨i, Env.mem_lanes.mpr hi, rfl, rfl⟩, h⟩

theorem Env.nestStep_eq : en.nestStep g = if (en.overNest g).isEmpty then en.done { en.w with nest := en.newNest g }
    else .trap en.s { cause := 0x06, lanes := maskOf fun i => (en.overNest g).any fun x => decide (x.1 = i) } := by
  simp only [Env.nestStep, List.foldl_map]
  rfl

end

section
variable {s : State} {is : Issue} (h : (s.whole is).Acts) (g : Nat → Nat → Nat) {body : Env → Res}
include h

/-- A forerunner control opcode that changes counters: it gives the slot's lanes theirs, or takes the nesting fault. -/
theorem forerunnerSlot_nest (hb : body (s.whole is) = (s.whole is).nestStep g) :
    let en := s.whole is
    let new := fun l => g l (mapGet 0 en.w.nest l)
    ((∀ l, en.Mine l → new l ≤ 255) → en.Stays en.fall → ∃ m : Map Nat,
      forerunnerSlot s body = .next (en.gives { en.w with nest := m }) ∧
        ∀ l, (en.Mine l → mapGet 0 m l = new l) ∧ (¬en.Mine l → mapGet 0 m l = mapGet 0 en.w.nest l)) ∧
    ((∃ l, en.Mine l ∧ 255 < new l) → ∃ m : Word,
      forerunnerSlot s body = .next (en.raise s { cause := 0x06, lanes := m }) ∧
        ∀ l < 64, m.getLsbD l = true ↔ en.Mine l ∧ 255 < new l) := by
  intro en new
  rw [forerunnerSlot_eq h, hb, Env.nestStep_eq]
  refine ⟨fun hle hs => ?_, fun ⟨l, hl, hover⟩ => ?_⟩
  · have fits : en.overNest g = [] := List.eq_nil_iff_forall_not_mem.mpr fun x hx => by
      obtain ⟨hm, hx, hover⟩ := Env.mem_overNest.mp hx
      rw [hx] at hover
      exact absurd hover (Nat.not_lt.mpr (hle x.1 hm))
    refine ⟨en.newNest g, ?_, fun l => ⟨Env.newNest_mine, Env.newNest_other⟩⟩
    rw [if_pos (by rw [fits]; rfl)]
    exact congrArg _ (Env.finish_next _ _ hs)
  · have passes : (l, new l) ∈ en.overNest g := Env.mem_overNest.mpr ⟨hl, rfl, hover⟩
    rw [if_neg (by rw [List.isEmpty_iff]; exact List.ne_nil_of_mem passes)]
    refine ⟨_, rfl, fun j hj => ?_⟩
    rw [getLsbD_maskOf _ hj, List.any_eq_true]
    constructor
    · rintro ⟨x, hx, hxj⟩
      obtain ⟨hm, hv, ho⟩ := Env.mem_overNest.mp hx
      obtain rfl := of_decide_eq_true hxj
      rw [hv] at ho
      exact ⟨hm, ho⟩
    · rintro ⟨hm, ho⟩
      exact ⟨(j, new j), Env.mem_overNest.mpr ⟨hm, rfl, ho⟩, decide_eq_true rfl⟩

/-- A forerunner control opcode that moves the PC of the whole slot. -/
theorem forerunnerSlot_jump {t : State} {pc : Word} (hb : body (s.whole is) = .jump t pc) (hs : (s.whole is).Stays pc) :
    forerunnerSlot s body = .next ((s.whole is).goesTo t pc) := by
  rw [forerunnerSlot_eq h, hb, Env.finish_jump _ _ _ hs]

end

end Sys2Proof.Machine
end

section
open Sys2Proof Sys2Proof.Machine

/-- Settles O39: accesses whose lanes pass by what they read and write, and control by the counters that it changes. -/
theorem forerunnerMemoryAndControlComplete : Obligations.ForerunnerMemoryAndControlComplete := by
  refine ⟨fun f s is h => ⟨fun good got s1 t hc hl => ?load, fun good t hc => ?store, fun hf ht => ?scratchLoad,
    fun hf => ?scratchStore, ?fence⟩, fun f s is h => ⟨BitVec.and_allOnes, ?raise, ?swap, ?lower, ?break_,
    fun hz hs => ?loop, fun hz => ?done, fun hs => ⟨?branch, ?call⟩, fun hs => ?ret⟩⟩
  case load =>
    refine forerunner_next h ((Env.globalLoad_of_good (size := 4) hc hl).trans ?_)
    rw [Warp.putLoaded_word]
    rfl
  case store => exact forerunner_next h (Env.globalStore_of_good (size := 4) hc)
  case scratchLoad =>
    refine forerunner_done h ((Env.scratchLoad_of_fits (size := 4) hf ht _).trans ?_)
    rw [Warp.putLoaded_word]
    rfl
  case scratchStore => exact forerunner_next h (Env.scratchStore_of_fits (size := 4) hf _)
  case fence => exact forerunner_next h rfl
  case raise =>
    simp only [← Bool.not_eq_true']
    exact forerunnerSlot_nest h (fun l c =>
      if 0 < c ∨ (!((s.whole is).w.getP f.a.toNat).getLsbD l) = true then c + 1 else c) rfl
  case swap => exact forerunnerSlot_nest h (fun _ c => if c = 0 then 1 else if c = 1 then 0 else c) rfl
  case lower => exact forerunnerSlot_nest h (fun _ c => c - 1) rfl
  case break_ =>
    exact forerunnerSlot_nest h (fun l c =>
      if c = 0 ∧ ((s.whole is).w.getP f.a.toNat).getLsbD l = true then c + f.imm.toNat % 256 else c) rfl
  case branch => exact forerunnerSlot_jump h rfl hs
  case call => exact forerunnerSlot_jump h rfl hs
  case ret => exact forerunnerSlot_jump h rfl hs
  case loop => exact forerunnerSlot_jump h (if_pos (Env.any_zero.mpr hz)) hs
  case done =>
    exact forerunnerSlot_nest h (fun _ c => c - 1)
      (if_neg fun hany => (Env.any_zero.mp hany).elim fun l hl => hz l hl.1 hl.2)
end

section
/-! The forerunner barrier, exit and trap (R102, R103, R128, R133). -/
namespace Sys2Proof.Machine

/-! ### Named barriers -/

/-- A barrier without its failed and overflow bits raises no trap. -/
theorem Barrier.trapOf_none {b : Barrier} (hf : b.failed = false) (ho : b.overflow = false) : b.trapOf = none := by
  simp only [Barrier.trapOf, ho, hf, Bool.false_eq_true, if_false]

@[simp] theorem Barrier.settle_failed (b : Barrier) : b.settle.failed = b.failed := by
  unfold Barrier.settle
  split <;> rfl

@[simp] theorem Barrier.settle_overflow (b : Barrier) : b.settle.overflow = b.overflow := by
  unfold Barrier.settle
  split <;> rfl

/-- An arrival too many changes no phase, and any other sets neither bit. -/
theorem Barrier.arrive_cases (b : Barrier) (wid : Nat) :
    ((b.arrive wid).phase = b.phase ∧ (b.arrive wid).overflow = true ∧ b.arrivals = b.expWarps) ∨
      ((b.arrive wid).failed = b.failed ∧ (b.arrive wid).overflow = b.overflow ∧ b.arrivals ≠ b.expWarps) := by
  unfold Barrier.arrive
  split
  next h => exact .inl ⟨rfl, rfl, h⟩
  next h => exact .inr ⟨Barrier.settle_failed _, Barrier.settle_overflow _, h⟩

/-- A named barrier reads as written. -/
@[simp] theorem Block.bar_setBar (b : Block) (n : Nat) (x : Barrier) : (b.setBar n x).bar n = x := by
  simp only [Block.bar, Block.setBar, mapGet_set, if_true]

/-- A barrier of which some warp is expected is one of a resident block. -/
theorem State.find_block_of_bar {s : State} {k n : Nat}
    (h : ((s.block k).bar n).arrivals ≠ ((s.block k).bar n).expWarps) :
    mapFind s.blocks k ≠ none := by
  intro hn
  simp only [State.block, hn, Option.getD_none] at h
  exact h rfl

@[simp] theorem State.release_blocks (s : State) (k : Nat) : (s.release k).blocks = s.blocks :=
  State.blocks_of_outer (State.outer_cleanWhere ..)

/-! ### The forerunner barrier (R103) -/

/-- A warp keeps the phase that it read on its arrival, or forgets it. -/
def State.holdPhase (s : State) (key : Nat) (x : Option (BitVec 32)) : State :=
  s.modWarp key fun w => { w with frBarrier := x }

section
variable {en : Env}

/-- A wait on a barrier without its failed and overflow bits ends once the phase has passed. -/
theorem Env.waitBarrier_of_calm {s : State} {n : Nat} {phase : BitVec 32} {passed : State → State}
    (hf : ((s.block en.bk).bar n).failed = false) (ho : ((s.block en.bk).bar n).overflow = false) :
    en.waitBarrier s n phase passed =
      if ((s.block en.bk).bar n).phase ≠ phase then .next (passed s)
      else .wait (en.setBar s n ((s.block en.bk).bar n).start) (.barrier n phase) := by
  simp only [Env.waitBarrier, Barrier.trapOf_none hf ho]

/-- The barrier that an arrival leaves. -/
def Env.arrived (en : Env) : Barrier := (en.block.bar 0).arrive (warpId en.key)

/-- The state after an arrival at barrier 0, whose phase the warp keeps. -/
def Env.arrivedState (en : Env) : State := (en.arrive 0).holdPhase en.key (some (en.block.bar 0).phase)

theorem Env.bar_arrivedState (hr : mapFind en.s.blocks en.bk ≠ none) :
    (en.arrivedState.block en.bk).bar 0 = en.arrived := by
  have hr' : mapFind (en.s.release en.key).blocks en.bk ≠ none := by rwa [State.release_blocks]
  have hb : en.arrivedState.block en.bk = (((en.s.release en.key).block en.bk).setBar 0 en.arrived) := by
    refine (State.block_modBlock _ _ _ _ hr').trans (if_pos rfl)
  rw [hb, Block.bar_setBar]

end

section
variable {f : FrFields} {s : State} {is : Issue} (h : (s.whole is).Acts)
  (hf : ((s.whole is).block.bar 0).failed = false) (ho : ((s.whole is).block.bar 0).overflow = false)
include h hf ho

/-- A warp that keeps no phase arrives, and then waits for the phase that it read. -/
theorem exec_frBlockBarrier_arrives (hn : (s.whole is).w.frBarrier = none)
    (hc : ((s.whole is).block.bar 0).arrivals ≠ ((s.whole is).block.bar 0).expWarps) :
    exec (.frBlockBarrier f) s = .next ((s.whole is).finish
      (if (s.whole is).arrived.phase ≠ ((s.whole is).block.bar 0).phase then
        .next ((s.whole is).arrivedState.holdPhase is.warp none)
      else .wait ((s.whole is).setBar (s.whole is).arrivedState 0 (s.whole is).arrived.start)
        (.barrier 0 ((s.whole is).block.bar 0).phase))) := by
  obtain ⟨-, -, full⟩ | ⟨hf', ho', -⟩ := ((s.whole is).block.bar 0).arrive_cases (warpId (s.whole is).key)
  · exact absurd full hc
  have bar := Env.bar_arrivedState (en := s.whole is) (State.find_block_of_bar hc)
  have af : (s.whole is).arrived.failed = false := hf'.trans hf
  have ao : (s.whole is).arrived.overflow = false := ho'.trans ho
  have wait := Env.waitBarrier_of_calm (en := s.whole is) (s := (s.whole is).arrivedState) (n := 0)
    (phase := ((s.whole is).block.bar 0).phase) (passed := fun s => s.holdPhase is.warp none)
    (by rw [bar]; exact af) (by rw [bar]; exact ao)
  rw [bar] at wait
  rw [← wait]
  refine (forerunnerSlot_eq h).trans (congrArg (fun r => Host.Outcome.next ((s.whole is).finish r)) ?_)
  simp only [hn, Barrier.trapOf_none hf ho]
  refine if_neg ?_
  rw [Bool.not_eq_true]
  change ((((s.whole is).arrivedState.block (s.whole is).bk).bar 0).stopped) = false
  rw [bar, Barrier.stopped, af, ao]
  rfl

/-- A warp that keeps a phase waits for it, and does not arrive again. -/
theorem exec_frBlockBarrier_waits {n : BitVec 32} (hn : (s.whole is).w.frBarrier = some n) :
    exec (.frBlockBarrier f) s = .next ((s.whole is).finish
      (if ((s.whole is).block.bar 0).phase ≠ n then .next (s.holdPhase is.warp none)
      else .wait ((s.whole is).setBar s 0 ((s.whole is).block.bar 0).start) (.barrier 0 n))) := by
  refine (forerunnerSlot_eq h).trans (congrArg (fun r => Host.Outcome.next ((s.whole is).finish r)) ?_)
  simp only [hn]
  exact Env.waitBarrier_of_calm hf ho

end

/-! ### Exit and trap -/

/-- Lanes of a slot that stays within pages of one code kind exit, and Resolve runs (R128). -/
theorem Env.exitLanes_resolves (en : Env) (hs : en.sl.mask &&& ~~~en.e ≠ 0 → en.Stays en.fall) :
    en.exitLanes = en.resolved
      ({ en.w with lanes := en.w.lanes &&& ~~~en.e }.setSlot en.k en.leftSlot) en.s := by
  have stays : (decide (en.sl.mask &&& ~~~en.e ≠ 0) && en.s.kindDiffers en.ctx en.is.fr en.is.pc en.fall) =
      false := by
    rw [Bool.and_eq_false_imp]
    exact fun hm => hs (of_decide_eq_true hm)
  simp only [Env.exitLanes, stays, Bool.false_eq_true, if_false]
  rfl

section
variable {f : FrFields} {s : State} {is : Issue} (h : (s.fr is f).Acts)
include h

theorem exec_frExit_resolves
    (hs : (s.fr is f).sl.mask &&& ~~~(s.fr is f).e ≠ 0 → (s.fr is f).Stays (s.fr is f).fall) :
    exec (.frExit f) s = .next ((s.fr is f).finish ((s.fr is f).resolved
      ({ (s.fr is f).w with lanes := (s.fr is f).w.lanes &&& ~~~(s.fr is f).e }.setSlot is.slot (s.fr is f).leftSlot)
      s)) :=
  (forerunner_eq h).trans (congrArg _ (congrArg _ (Env.exitLanes_resolves _ hs)))

/-- The trap opcode completes, and then its trap is taken. -/
theorem exec_frTrap (hp : is.paired = false) :
    exec (.frTrap f) s = .next (((s.fr is f).goesOn s).takeTrap is.warp is.slot is.pc
      { cause := 0x8000#16 ||| (f.imm.extractLsb' 0 15).zeroExtend 16, lanes := (s.fr is f).e, completes := true }
      false false) :=
  (forerunner_eq h).trans (congrArg _ (Env.raise_of_complete hp h.2 rfl))

/-- The warp that goes on after a forerunner instruction, in the state in which it does. -/
theorem State.find_goesOn_fr : mapFind ((s.fr is f).goesOn s).warps is.warp = some (s.fr is f).wentOn := by
  have hw : mapFind s.warps (s.fr is f).key = some (s.fr is f).w := h.1.2
  simp only [Env.goesOn, Env.goesTo, State.retired_warps, State.modWarp_warps]
  refine (mapFind_modify ..).trans ((if_pos rfl).trans ?_)
  rw [hw]
  rfl

end

end Sys2Proof.Machine
end

section
open Sys2Proof Sys2Proof.Machine

/-- Settles O40: the barrier by the arrival or the wait that its kept phase selects, the exit by Resolve on the slot
that it leaves, and the trap by its completion and its entry. -/
theorem forerunnerBarrierExitAndTrapComplete : Obligations.ForerunnerBarrierExitAndTrapComplete := by
  intro f s t is
  refine ⟨fun h => ?barrier, fun h hk hl => ?rest⟩
  case barrier =>
    intro en b put a holds hf ho
    refine ⟨fun hn hph => ?passes, fun hn hph hao => ?waits,
      fun n hn => ⟨fun hph => ?passed, fun hph => ?waitsOn⟩⟩
    case passes =>
      obtain ⟨same, -, -⟩ | ⟨-, -, hc⟩ := b.arrive_cases (warpId is.warp)
      · exact absurd same hph
      rw [exec_frBlockBarrier_arrives h.1 hf ho hn hc]
      exact congrArg _ ((congrArg en.finish (if_pos hph)).trans (Env.finish_next _ _ h.2))
    case waits =>
      obtain ⟨-, full, -⟩ | ⟨-, -, hc⟩ := b.arrive_cases (warpId is.warp)
      · exact absurd (full.symm.trans hao) (by decide)
      rw [exec_frBlockBarrier_arrives h.1 hf ho hn hc]
      exact congrArg _ ((congrArg en.finish (if_neg (not_not.mpr hph))).trans (Env.finish_waits h.2))
    case passed =>
      rw [exec_frBlockBarrier_waits h.1 hf ho hn, if_pos hph]
      exact congrArg _ (Env.finish_next _ _ h.2)
    case waitsOn =>
      rw [exec_frBlockBarrier_waits h.1 hf ho hn, if_neg (not_not.mpr hph)]
      exact congrArg _ (Env.finish_waits h.2)
  case rest =>
    intro en m left w
    refine ⟨fun hm hs hrest => ?some, fun hm hb ho => ?all, ?trap⟩
    case some =>
      refine (exec_frExit_resolves h fun _ => hs).trans (congrArg _ (Env.finish_resolved ?_))
      rw [show en.leftSlot = left from if_neg hm]
      exact State.resolve_of_rests (n := 15) hrest
    case all =>
      have dead := Warp.setSlot_dead (w := w) hk ho
      refine (exec_frExit_resolves h fun hne => absurd hm hne).trans (congrArg _ ?_)
      rw [show en.leftSlot = {} from if_pos hm]
      exact Env.finish_ended (State.resolve_ends (n := 15) dead.1 dead.2
        (State.asked_of_empty (by rw [Warp.setSlot_dstkSp, Warp.getC_setSlot]; exact hb)) noPath_none)
    case trap =>
      intro u cause slotRec hp hv hi hs
      exact (exec_frTrap h hp).trans (congrArg _ (State.takeTrap_enters (State.find_goesOn_fr h) hv hi hs))
end

section
/-! The exact results of R109 and R110, as the scalar and the vector integer base majors write them. -/
namespace Sys2Proof.Machine

/-! ### Ranges, and results that are cut to a width -/

theorem rangeLo_eq (w : Nat) (uns : Bool) : rangeLo w uns = if uns then 0 else -2 ^ (w - 1) := by
  simp only [rangeLo, Nat.cast_pow, Nat.cast_ofNat]

theorem rangeHi_eq (w : Nat) (uns : Bool) : rangeHi w uns = if uns then 2 ^ w - 1 else 2 ^ (w - 1) - 1 := by
  simp only [rangeHi, Nat.cast_pow, Nat.cast_ofNat]

theorem wrap_eq (w : Nat) (r : Int) : wrap w r = (r % 2 ^ w).toNat := by
  simp only [wrap, Nat.cast_pow, Nat.cast_ofNat]

theorem clampTo_eq (lo hi r : Int) :
    clampTo lo hi r = (if r < lo then lo else if hi < r then hi else r, decide (r < lo ∨ hi < r)) := by
  unfold clampTo
  split
  next h => simp only [h, true_or, decide_true]
  next h => split <;> simp_all only [false_or, decide_true, decide_false]

/-- A result is cut to its width, after a clamp into its range that raises arith.flags[3] under .sat (R109). -/
theorem IntOp.result_eq (op : IntOp) (w : Nat) (uns sat : Bool) (a b : Word) :
    op.result w uns sat a b =
      (let r := op.exact w uns a b
       let lo := rangeLo w uns
       let hi := rangeHi w uns
       (((if sat ∧ r < lo then lo else if sat ∧ hi < r then hi else r) % 2 ^ w).toNat,
         if sat ∧ (r < lo ∨ hi < r) then 8 else 0)) := by
  cases sat with
  | false => simp only [IntOp.result, wrap_eq, Bool.false_eq_true, false_and, if_false]
  | true => simp only [IntOp.result, clampTo_eq, wrap_eq, flagOn, flagOvf, decide_eq_true_eq, true_and, if_true]

/-- The result of an operation on a lane is its exact result, narrowed. -/
theorem IntOp.result_eq_narrow (op : IntOp) (w : Nat) (uns sat : Bool) (a b : Word) :
    (BitVec.ofNat 64 (op.result w uns sat a b).1, (op.result w uns sat a b).2) =
      narrow w uns sat flagOvf (op.exact w uns a b) := by
  cases sat <;> rfl

theorem scalarWord_eq (w : Nat) (uns : Bool) (x : Nat) :
    scalarWord w uns x = if w = 64 ∨ uns then BitVec.ofNat 64 x else (BitVec.ofNat 32 x).signExtend 64 := by
  rw [ite_or]
  rfl

/-! ### Exact results with powers of two as integers -/

section
variable (w : Nat) (uns : Bool) (a b : Word)

theorem IntOp.exact_mulh : IntOp.mulh.exact w uns a b = toInt w uns a.toNat * toInt w uns b.toNat / 2 ^ w := by
  simp only [IntOp.exact, Nat.cast_pow, Nat.cast_ofNat]

theorem IntOp.exact_shl :
    IntOp.shl.exact w uns a b = if w ≤ b.toNat then 0 else toInt w uns a.toNat * 2 ^ b.toNat := by
  simp only [IntOp.exact, Nat.cast_pow, Nat.cast_ofNat]

theorem IntOp.exact_sra :
    IntOp.sra.exact w uns a b = signed w a.toNat / 2 ^ (if b.toNat ≤ w - 1 then b.toNat else w - 1) := by
  have hn : (if b.toNat < w - 1 then b.toNat else w - 1) = if b.toNat ≤ w - 1 then b.toNat else w - 1 := by
    split <;> split <;> omega
  simp only [IntOp.exact, hn, Nat.cast_pow, Nat.cast_ofNat]

end

/-- The quotient of Table 4.2. -/
theorem divInt_eq (w : Nat) (uns : Bool) (x y : Int) :
    divInt w uns x y = if y = 0 then (if uns then rangeHi w uns else -1)
      else if uns = false ∧ x = rangeLo w uns ∧ y = -1 then rangeLo w uns else x.tdiv y := by
  cases uns <;> simp [divInt]

/-- The remainder of Table 4.2 is what the quotient leaves. -/
theorem remInt_eq (w : Nat) (uns : Bool) (x y : Int) :
    remInt w uns x y = if y = 0 then x else if uns = false ∧ x = rangeLo w uns ∧ y = -1 then 0
      else x - y * divInt w uns x y := by
  rw [divInt_eq]
  unfold remInt
  split
  next => rfl
  next hy =>
    cases uns with
    | true => simp
    | false => by_cases h : x = rangeLo w false ∧ y = -1 <;> simp [h]

/-! ### The base majors -/

section
variable {f : Fields} {s : State} {is : Issue} (h : (s.nat is f).Runs)
include h

/-- A scalar base major gives s[D] the word of its result, and raises the flag of its clamp. -/
theorem scalarBase_eq (op : IntOp) :
    scalarBase op f s =
      (let w := if (btype f).testBit 1 then 32 else 64
       let x := op.result w ((btype f).testBit 0) ((btype f).testBit 2) ((s.nat is f).sA f) ((s.nat is f).scalarB f)
       .next ((s.nat is f).gives
        (((s.nat is f).w.setS f.d.toNat (scalarWord w ((btype f).testBit 0) x.1)).raiseFlags x.2))) := by
  simp only [scalarBase, bit_eq_testBit]
  exact native_done h rfl

/-- A vector integer base major gives each lane its exact result, narrowed. -/
theorem vectorBase_eq (op : IntOp) :
    vectorBase op f s =
      (let wide := (btype f).testBit 1
       let w := if wide then 64 else 32
       .next ((s.nat is f).lanesGive wide f.d.toNat fun i =>
        narrow w ((btype f).testBit 0) ((btype f).testBit 2) flagOvf
          (op.exact w ((btype f).testBit 0) ((s.nat is f).w.vVal wide f.a.toNat i)
            ((s.nat is f).vectorB f wide (decide (btype f % 4 = 1)) i)))) := by
  simp only [vectorBase, bit_eq_testBit, ← IntOp.result_eq_narrow]
  exact native_done h rfl

end

/-- The immediate or literal of a base major in the forms that have one. -/
theorem baseImmediate_eq {f : Fields} (zext : Bool) (h : f.form ≠ .base) :
    baseImmediate f zext =
      if f.form = .ext then (if zext then f.w2.zeroExtend 64 else f.w2.signExtend 64) else f.lit := by
  cases hf : f.form <;> simp_all [baseImmediate, immWord, sx32]

theorem Env.vectorB_eq (en : Env) {f : Fields} (h : baseImm f = true → f.form ≠ .base) (wide zext : Bool) (i : Nat) :
    en.vectorB f wide zext i =
      if baseImm f then (if f.form = .ext then (if zext then f.w2.zeroExtend 64 else f.w2.signExtend 64) else f.lit)
      else if bsel f = 1 then (if wide then en.sB f else en.sB f &&& 0xFFFFFFFF#64)
      else en.w.vVal wide f.b.toNat i := by
  have low32 (x : Word) : (x.truncate 32).zeroExtend 64 = x &&& 0xFFFFFFFF#64 := by
    apply BitVec.eq_of_toNat_eq
    have hx : x.toNat &&& 4294967295 = x.toNat % 4294967296 := Nat.and_two_pow_sub_one_eq_mod x.toNat 32
    simp only [BitVec.toNat_setWidth, BitVec.toNat_and, BitVec.toNat_ofNat, Nat.reducePow, Nat.reduceMod, hx]
    omega
  unfold Env.vectorB
  split
  next hi => rw [baseImmediate_eq zext (h hi)]
  next => rw [low32]

end Sys2Proof.Machine
end

section
open Sys2Proof Sys2Proof.Machine

/-- Settles O1: each scalar base major is one write of its exact result, which Table 4.2 gives for SDIV and SREM. -/
theorem scalarBaseMajorsCompleteWithTheirResults : Obligations.ScalarBaseMajorsCompleteWithTheirResults := by
  intro f s is h en w uns a b x y n lo min max ends quotient
  have hlo : rangeLo w uns = min := rangeLo_eq w uns
  have hhi : rangeHi w uns = max := rangeHi_eq w uns
  have base : ∀ op : IntOp, scalarBase op f s = ends (op.exact w uns a b) := fun op => by
    refine (scalarBase_eq h op).trans ?_
    simp only [IntOp.result_eq, scalarWord_eq]
    rw [show rangeLo (if (btype f).testBit 1 then 32 else 64) ((btype f).testBit 0) = min from hlo,
      show rangeHi (if (btype f).testBit 1 then 32 else 64) ((btype f).testBit 0) = max from hhi]
  have hdiv : divInt w uns x y = quotient := by rw [divInt_eq, hlo, hhi]
  have hrem : remInt w uns x y =
      if y = 0 then x else if uns = false ∧ x = min ∧ y = -1 then 0 else x - y * quotient := by
    rw [remInt_eq, hlo, hdiv]
  exact ⟨base .add, base .sub, base .mul, (base .mulh).trans (congrArg ends (IntOp.exact_mulh ..)), base .and, base .or,
    base .xor, base .mov, base .min, base .max, (base .div).trans (congrArg ends hdiv),
    (base .rem).trans (congrArg ends hrem), (base .shl).trans (congrArg ends (IntOp.exact_shl ..)), base .shr,
    (base .sra).trans (congrArg ends (IntOp.exact_sra ..)), base .rot⟩

/-- Settles O8: each vector integer base major gives its lanes the exact results of R109, narrowed to its type. -/
theorem vectorIntegerMajorsCompleteWithTheirResults : Obligations.VectorIntegerMajorsCompleteWithTheirResults := by
  intro f s is h hf en ty wide w uns read a b x y n lo ends
  have base : ∀ op : IntOp, vectorBase op f s = ends fun i => op.exact w uns (a i) (b i) := fun op => by
    have hb : ∀ i, en.vectorB f wide (decide (ty % 4 = 1)) i = b i := fun i => by
      simp only [Env.vectorB_eq en hf, decide_eq_true_eq]
      rfl
    simp only [← hb]
    exact vectorBase_eq h op
  have lanes : ∀ (op : IntOp) (r : Nat → Int), (∀ i, op.exact w uns (a i) (b i) = r i) → vectorBase op f s = ends r :=
    fun op r hr => (base op).trans (congrArg ends (funext hr))
  exact ⟨base .add, base .sub, base .mul, lanes .mulh _ fun _ => IntOp.exact_mulh .., base .and, base .or, base .xor,
    base .mov, base .min, base .max, lanes .shl _ fun _ => IntOp.exact_shl .., base .shr,
    lanes .sra _ fun _ => IntOp.exact_sra ..⟩
end

section
/-! Targets of the uniform branches and calls (R123, R124). -/
namespace Sys2Proof.Machine

section
variable {f : Fields} {s t : State} {is : Issue} {pc : Word} {body : Env → Res} (h : (s.nat is f).Acts)
include h

/-- A native instruction that acts, and whose body goes to an address of the same code kind. -/
theorem native_jump (hb : body (s.nat is f) = .jump t pc) (hs : (s.nat is f).Stays pc) :
    native f s body = .next ((s.nat is f).goesTo t pc) := by
  rw [native_eq h, hb, Env.finish_jump _ _ _ hs]

/-- A native instruction that goes to an address under a condition, and else to the instruction after it. -/
theorem native_branch {c : Prop} [Decidable c]
    (hb : body (s.nat is f) = if c then .jump t pc else .next t)
    (hs : (s.nat is f).Stays (if c then pc else (s.nat is f).fall)) :
    native f s body = .next ((s.nat is f).goesTo t (if c then pc else (s.nat is f).fall)) := by
  by_cases hc : c
  · simp only [hc, if_true] at hb hs ⊢
    exact native_jump h hb hs
  · simp only [hc, if_false] at hb hs ⊢
    exact native_next ⟨h, hs⟩ hb

end

/-- The condition of a BRC, by its mode (R124). -/
def brcTakes (mode : Nat) (p e : Word) : Bool :=
  match mode with
  | 0 => decide (p &&& e ≠ 0)
  | 1 => decide (e &&& ~~~p = 0)
  | _ => decide (p &&& e = 0)

/-- A BRC goes to its target under the condition of its mode, and else to the instruction after it. -/
theorem execBrc_eq {f : Fields} {s : State} {is : Issue} {m : BitVec 7} {c : Prop} [Decidable c]
    (h : (s.nat is f).Acts) (hm : f.mod = m)
    (hc : brcTakes m.toNat ((s.nat is f).w.getP f.a.toNat) (s.nat is f).e = decide c)
    (hs : (s.nat is f).Stays (if c then branchTarget f is.pc else (s.nat is f).fall)) :
    execBrc f s = .next ((s.nat is f).goesTo s (if c then branchTarget f is.pc else (s.nat is f).fall)) := by
  subst hm
  have taken : c ↔ brcTakes f.mod.toNat ((s.nat is f).w.getP f.a.toNat) (s.nat is f).e = true := by
    rw [hc, decide_eq_true_iff]
  simp only [taken] at hs ⊢
  exact native_branch h rfl hs

end Sys2Proof.Machine
end

section
open Sys2Proof Sys2Proof.Machine

/-- Settles O3: each body jumps to its target, and a BRC that is not taken goes on. -/
theorem uniformBranchesMoveThePc : Obligations.UniformBranchesMoveThePc := by
  intro f s is h en goes target reg after linked p
  exact ⟨native_jump h rfl, fun hm => execBrc_eq h hm rfl, fun hm => execBrc_eq h hm rfl, fun hm => execBrc_eq h hm rfl,
    native_jump h rfl, native_jump h rfl, native_jump h rfl, native_jump h rfl⟩
end

section
/-! The scalar miscellaneous group, comparisons and predicates bit by bit (R112, R113, R116 to R118, R120, R121). -/
namespace Sys2Proof.Machine

/-! ### Counts of bits -/

theorem bit_toNat {n : Nat} (a : BitVec n) : bit a.toNat = a.getLsbD :=
  funext (bit_eq_testBit a.toNat)

theorem popcount_toNat (n : Nat) (a : Word) :
    popcount n a.toNat = ((List.range n).filter fun i => a.getLsbD i).length := by
  rw [popcount, bit_toNat]

theorem lowestOne_toNat (n : Nat) (a : Word) :
    lowestOne n a.toNat = ((List.range n).find? fun i => a.getLsbD i).getD n := by
  rw [lowestOne, bit_toNat]

theorem length_filter_lt (k n : Nat) : ((List.range n).filter fun i => decide (i < k)).length = min k n := by
  induction n with
  | zero => simp
  | succ n ih =>
    rw [List.range_succ, List.filter_append, List.length_append, ih, List.filter_singleton]
    by_cases h : n < k <;> simp [h] <;> omega

/-- The zeros above the highest one of the low `w` bits. -/
theorem leadingZeros_eq (w x : Nat) : leadingZeros w x = w - (x % 2 ^ w).size := by
  have hs : (x % 2 ^ w).size ≤ w := Nat.size_le.mpr (Nat.mod_lt _ (Nat.two_pow_pos w))
  simp only [leadingZeros, ← Nat.lt_size, length_filter_lt, Nat.min_eq_left hs]

/-- The highest bit of a number that is not zero. -/
theorem testBit_size_pred {y : Nat} (h : 0 < y.size) : y.testBit (y.size - 1) = true := by
  have hlo : 2 ^ (y.size - 1) ≤ y := Nat.lt_size.mp (by omega)
  have hhi : y < 2 ^ y.size := Nat.lt_size_self y
  have h2 : 2 ^ y.size = 2 * 2 ^ (y.size - 1) := by rw [← pow_succ', Nat.sub_add_cancel h]
  have hd : y / 2 ^ (y.size - 1) = 1 := Nat.div_eq_of_lt_le (by omega) (by omega)
  rw [Nat.testBit_eq_decide_div_mod_eq, hd]
  rfl

/-- The leading zeros are zeros, and the bit below them is a one. -/
theorem leadingZeros_spec (w x : Nat) :
    leadingZeros w x ≤ w ∧ (∀ i, w - leadingZeros w x ≤ i → i < w → x.testBit i = false) ∧
      (leadingZeros w x < w → x.testBit (w - 1 - leadingZeros w x) = true) := by
  have hs : (x % 2 ^ w).size ≤ w := Nat.size_le.mpr (Nat.mod_lt _ (Nat.two_pow_pos w))
  have low : ∀ i < w, (x % 2 ^ w).testBit i = x.testBit i := fun i hi => by simp [Nat.testBit_mod_two_pow, hi]
  rw [leadingZeros_eq]
  refine ⟨by omega, fun i hi hw => ?_, fun hz => ?_⟩
  · rw [← low i hw]
    exact Nat.testBit_lt_two_pow (Nat.size_le.mp (by omega))
  · rw [show w - 1 - (w - (x % 2 ^ w).size) = (x % 2 ^ w).size - 1 by omega, ← low _ (by omega)]
    exact testBit_size_pred (by omega)

/-! ### Bit fields (R113) -/

theorem signed_ofNat (w x : Nat) : signed w x = (BitVec.ofNat w x).toInt := by
  simp only [signed, BitVec.toInt, BitVec.toNat_ofNat, Nat.cast_pow, Nat.cast_ofNat]

theorem ofNat_wrap (r : Int) : BitVec.ofNat 64 (wrap 64 r) = BitVec.ofInt 64 r := by
  apply BitVec.eq_of_toNat_eq
  simp only [wrap, BitVec.toNat_ofNat, BitVec.toNat_ofInt]
  omega

/-- A field is extracted with its sign, or with zeros above it. -/
theorem ofNat_extractField (a : Word) (pos len : Nat) (sign : Bool) :
    BitVec.ofNat 64 (extractField 64 a.toNat pos len sign) =
      if sign && decide (0 < len) then (a.extractLsb' pos len).signExtend 64
      else (a.extractLsb' pos len).setWidth 64 := by
  have hx : a.toNat % 2 ^ 64 / 2 ^ pos % 2 ^ len = (a.extractLsb' pos len).toNat := by
    rw [BitVec.extractLsb'_toNat, Nat.mod_eq_of_lt a.isLt, Nat.shiftRight_eq_div_pow]
  simp only [extractField, hx, signed_ofNat, BitVec.ofNat_toNat, BitVec.setWidth_eq]
  split
  · exact ofNat_wrap _
  · exact BitVec.ofNat_toNat ..

/-- The bits of an extracted field (R113). -/
theorem getLsbD_extractField (a : Word) (pos len : Nat) (sign : Bool) {i : Nat} (hi : i < 64) :
    (BitVec.ofNat 64 (extractField 64 a.toNat pos len sign)).getLsbD i =
      if i < len then a.getLsbD (pos + i) else sign && decide (0 < len) && a.getLsbD (pos + len - 1) := by
  rw [ofNat_extractField]
  split
  next hs =>
    obtain ⟨rfl, hl⟩ : sign = true ∧ 0 < len := by simpa using hs
    have top : pos + (len - 1) = pos + len - 1 := by omega
    simp only [BitVec.getLsbD_signExtend, BitVec.msb_eq_getLsbD_last, BitVec.getLsbD_extractLsb', hi, hl, top,
      Nat.sub_lt hl Nat.one_pos, decide_true, Bool.true_and]
    by_cases hl : i < len <;> simp [hl]
  next hs =>
    simp only [BitVec.getLsbD_setWidth, BitVec.getLsbD_extractLsb', hi, hs, decide_true, Bool.true_and, Bool.false_and]
    by_cases hl : i < len <;> simp [hl]

/-- The bits of an inserted field (R113). -/
theorem testBit_insertField (w d a pos len : Nat) {i : Nat} (hi : i < w) :
    (insertField w d a pos len).testBit i =
      if pos ≤ i ∧ i < pos + len then a.testBit (i - pos) else d.testBit i := by
  unfold insertField
  split
  next hp => simp [Nat.testBit_mod_two_pow, hi, show ¬pos ≤ i by omega]
  next hp =>
    generalize hn : min len (w - pos) = n
    have parts : d % 2 ^ pos + d % 2 ^ w / 2 ^ (pos + n) * 2 ^ (pos + n) + a % 2 ^ n * 2 ^ pos =
        2 ^ pos * (2 ^ n * (d % 2 ^ w / 2 ^ (pos + n)) + a % 2 ^ n) + d % 2 ^ pos := by
      rw [pow_add]
      ring
    simp only [parts, Nat.testBit_two_pow_mul_add _ (Nat.mod_lt d (Nat.two_pow_pos pos)),
      Nat.testBit_two_pow_mul_add _ (Nat.mod_lt a (Nat.two_pow_pos n)), Nat.testBit_mod_two_pow, Nat.testBit_div_two_pow]
    by_cases hlow : i < pos
    · simp [hlow, show ¬pos ≤ i by omega]
    · by_cases hin : i - pos < n
      · simp [hlow, hin, show pos ≤ i ∧ i < pos + len by omega]
      · simp [hlow, hin, show ¬(pos ≤ i ∧ i < pos + len) by omega, show i - pos - n + (pos + n) = i by omega, hi]

theorem Env.fieldPlace_eq (en : Env) (f : Fields) :
    en.fieldPlace f = (if mb f 1 then min (en.sB f).toNat 64 else f.w2.toNat % 64,
      if mb f 1 then min (en.sC f).toNat 64 else f.w2.toNat / 256 % 128) := by
  unfold Env.fieldPlace
  split
  · rfl
  · simp [fld, Nat.shiftRight_eq_div_pow]

/-! ### Scaled indices and comparisons -/

theorem shiftLeft_eq_mul_ofNat (x : Word) (n : Nat) : x <<< n = x * BitVec.ofNat 64 (2 ^ n) := by
  rw [BitVec.shiftLeft_eq_mul_twoPow]
  exact congrArg (x * ·) (BitVec.eq_of_toNat_eq (by simp [BitVec.toNat_twoPow]))

theorem toInt_word (uns : Bool) (x : Word) : toInt 64 uns x.toNat = if uns then (x.toNat : Int) else x.toInt := by
  rw [toInt, signed_ofNat, Nat.mod_eq_of_lt x.isLt, BitVec.ofNat_toNat, BitVec.setWidth_eq]

section
variable (uns : Bool) (x y : Word)

theorem toInt_word_inj : toInt 64 uns x.toNat = toInt 64 uns y.toNat ↔ x = y := by
  rw [toInt_word, toInt_word]
  cases uns with
  | false => exact BitVec.toInt_inj
  | true => exact Int.ofNat_inj.trans BitVec.toNat_inj

theorem toInt_word_lt :
    decide (toInt 64 uns x.toNat < toInt 64 uns y.toNat) = if uns then x.ult y else x.slt y := by
  rw [toInt_word, toInt_word]
  cases uns with
  | false => rfl
  | true => exact decide_eq_decide.mpr Int.ofNat_lt

theorem toInt_word_le :
    decide (toInt 64 uns x.toNat ≤ toInt 64 uns y.toNat) = if uns then x.ule y else x.sle y := by
  rw [toInt_word, toInt_word]
  cases uns with
  | false => rfl
  | true => exact decide_eq_decide.mpr Int.ofNat_le

/-- The conditions of SCMP on words (R117). -/
def compareWord (cond : Nat) : Bool :=
  match cond with
  | 0 => decide (x = y)
  | 1 => decide (x ≠ y)
  | 2 => if uns then x.ult y else x.slt y
  | 3 => if uns then x.ule y else x.sle y
  | 4 => if uns then y.ult x else y.slt x
  | _ => if uns then y.ule x else y.sle x

theorem compareInt_word (cond : Nat) :
    compareInt cond (toInt 64 uns x.toNat) (toInt 64 uns y.toNat) = compareWord uns x y cond := by
  match cond with
  | 0 => exact decide_eq_decide.mpr (toInt_word_inj uns x y)
  | 1 => exact decide_eq_decide.mpr (not_congr (toInt_word_inj uns x y))
  | 2 => exact toInt_word_lt uns x y
  | 3 => exact toInt_word_le uns x y
  | 4 => exact toInt_word_lt uns y x
  | _ + 5 => exact toInt_word_le uns y x

end

/-! ### Writes of predicates -/

theorem Env.writeP_eq (en : Env) (lane : Bool) (d : Nat) (x : Word) :
    en.writeP lane d x =
      en.done (en.w.setP d (if lane then (en.w.getP d &&& ~~~en.e) ||| (x &&& en.e) else x)) := by
  cases lane <;> rfl

theorem Env.maskB_eq (en : Env) {f : Fields} (h : baseImm f = true → f.form ≠ .base) :
    en.maskB f =
      if baseImm f then (if f.form = .ext then f.w2.signExtend 64 else f.lit)
      else if bsel f = 1 then en.sB f else en.w.getP f.b.toNat := by
  unfold Env.maskB
  split
  next hi => exact baseImmediate_eq false (h hi)
  next => rfl

section
variable {f : Fields} {s : State} {is : Issue} (h : (s.nat is f).Runs)
include h

theorem scalarResult_eq (g : Env → Word) :
    scalarResult f s g = .next ((s.nat is f).gives ((s.nat is f).w.setS f.d.toNat (g (s.nat is f)))) :=
  native_done h rfl

/-- An instruction whose body writes p[D] gives p[D] the whole mask, or its bits on the effective mask. -/
theorem native_writeP {body : Env → Res} {lane : Bool} {x : Word}
    (hb : body (s.nat is f) = (s.nat is f).writeP lane f.d.toNat x) :
    native f s body = .next ((s.nat is f).gives ((s.nat is f).w.setP f.d.toNat
      (if lane then ((s.nat is f).w.getP f.d.toNat &&& ~~~(s.nat is f).e) ||| (x &&& (s.nat is f).e) else x))) :=
  native_done h (hb.trans (Env.writeP_eq ..))

end

end Sys2Proof.Machine
end

section
open Sys2Proof Sys2Proof.Machine

/-- Settles O2: each instruction is one write, of a word that is told by its bits or by its operands, or of a mask. -/
theorem scalarMiscellaneousAndPredicatesComplete : Obligations.ScalarMiscellaneousAndPredicatesComplete := by
  refine ⟨fun f s is h => ?scalars, fun f s is h => ?predicates⟩
  case scalars =>
    intro en writes a n pos len
    have place : (s.nat is f).fieldPlace f = (pos, len) := Env.fieldPlace_eq en f
    refine ⟨⟨_, scalarResult_eq h _, ?clz⟩, ?popc, fun _ => ⟨_, scalarResult_eq h _, fun i hi => ?bfe⟩,
      ⟨_, scalarResult_eq h _, fun i hi => ?bfi⟩, ?sel, scalarResult_eq h _, ?lea⟩
    case clz =>
      have hn : n ≤ 64 := by
        simp only [n]
        split <;> decide
      obtain ⟨hle, zeros, one⟩ := leadingZeros_spec n a.toNat
      have hx : (BitVec.ofNat 64 (leadingZeros n a.toNat)).toNat = leadingZeros n a.toNat := by
        rw [BitVec.toNat_ofNat]
        omega
      exact hx.symm ▸ ⟨hle, zeros, one⟩
    case popc => exact popcount_toNat n a ▸ scalarResult_eq h _
    case bfe =>
      simp only [place]
      exact getLsbD_extractField a pos len (mb f 0) hi
    case bfi =>
      simp only [place, BitVec.getLsbD_ofNat, hi, decide_true, Bool.true_and]
      exact testBit_insertField 64 _ _ pos len hi
    case sel =>
      refine (scalarResult_eq h _).trans ?_
      simp only [ne_eq, ite_not]
      rfl
    case lea =>
      refine (scalarResult_eq h _).trans ?_
      simp only [shiftLeft_eq_mul_ofNat]
      rfl
  case predicates =>
    intro en d p writes b lane y x holds m hf
    have hb : en.maskB f = b := Env.maskB_eq en hf
    have base : ∀ g : Word → Word → Word, predicateBase g f s = .next (en.gives (en.w.setP d
        (if lane then (en.w.getP d &&& ~~~en.e) ||| (g p b &&& en.e) else g p b))) :=
      fun g => native_writeP h (congrArg (fun z => en.writeP lane d (g p z)) hb)
    refine ⟨base (· &&& ·), base (· ||| ·), base (· ^^^ ·), base (· &&& ~~~·), native_writeP h rfl, fun hm => ?pmov,
      fun hm => ?pmovS, native_writeP h rfl, native_writeP h ?scmp, ?pcnt, ?pff⟩
    case pmov =>
      refine native_writeP h ?_
      simp only [hm, Bool.false_eq_true, if_false]
      rfl
    case pmovS => exact native_done h (if_pos hm)
    case scmp =>
      have hc : allOnes (compareInt (f.mod.toNat % 8) (toInt 64 (mb f 3) x.toNat) (toInt 64 (mb f 3) y.toNat)) =
          cond holds (BitVec.allOnes 64) 0 := by
        rw [compareInt_word, Bool.cond_eq_ite]
        rfl
      exact congrArg (en.writeP (mb f 5) d) hc
    case pcnt => exact popcount_toNat 64 m ▸ native_done h rfl
    case pff => exact lowestOne_toNat 64 m ▸ native_done h rfl
end

section
/-! The vector integer group lane by lane (R148 to R152). -/
namespace Sys2Proof.Machine

/-! ### Lane results that raise no flag -/

section
variable {f : Fields} {s : State} {is : Issue} (h : (s.nat is f).Runs)
include h

/-- Lane results that raise no flag are one write of v[D] or of the pair at D. -/
theorem laneResult_quiet (wide : Bool) (g : Env → Nat → Word) :
    laneResult f s wide (fun en i => (g en i, 0)) =
      .next ((s.nat is f).gives ((s.nat is f).w.putV wide f.d.toNat (s.nat is f).e (g (s.nat is f)))) := by
  rw [laneResult_eq h, Env.lanesGive, flagsOf_zero _ _ fun _ => rfl, Warp.raiseFlags_zero]

/-- Lane results of 32 bits that raise no flag are one write of v[D]. -/
theorem laneResult_elem {g : Env → Nat → Word} {x : Nat → Elem}
    (hx : ∀ i, (g (s.nat is f) i).extractLsb' 0 32 = x i) :
    laneResult f s false (fun en i => (g en i, 0)) =
      .next ((s.nat is f).gives ((s.nat is f).w.setV f.d.toNat (s.nat is f).e x)) := by
  rw [laneResult_quiet h, ← funext hx]
  rfl

end

/-- The low half of a number's 64 bits. -/
theorem extractLsb'_ofNat_elem (n : Nat) : (BitVec.ofNat 64 n).extractLsb' 0 32 = BitVec.ofNat 32 n := by
  apply BitVec.eq_of_toNat_eq
  simp only [BitVec.extractLsb'_toNat, BitVec.toNat_ofNat, Nat.shiftRight_zero]
  omega

theorem extractLsb'_zeroExtend_elem (x : Elem) : (x.zeroExtend 64).extractLsb' 0 32 = x := by
  apply BitVec.eq_of_toNat_eq
  simp only [BitVec.extractLsb'_toNat, BitVec.toNat_setWidth, Nat.shiftRight_zero]
  omega

/-! ### Bits of elements -/

theorem popcount_elem (a : Elem) : popcount 32 a.toNat = ((List.range 32).filter fun j => a.getLsbD j).length := by
  rw [popcount, bit_toNat]

/-- A field extracted from an element is the low half of the field extracted from the element as a word (R113, R150). -/
theorem ofNat_extractField_elem (a : Elem) (pos len : Nat) (sign : Bool) :
    BitVec.ofNat 32 (extractField 32 a.toNat pos len sign) =
      (BitVec.ofNat 64 (extractField 64 (a.zeroExtend 64).toNat pos len sign)).setWidth 32 := by
  have ha : a.toNat % 2 ^ 32 = (a.zeroExtend 64).toNat % 2 ^ 64 := by
    simp only [BitVec.toNat_setWidth]
    omega
  apply BitVec.eq_of_toNat_eq
  simp only [extractField, ha, BitVec.toNat_ofNat, BitVec.toNat_setWidth]
  split
  · simp only [wrap]
    omega
  · omega

/-- The bits of a field extracted from an element (R150). -/
theorem getLsbD_extractField_elem (a : Elem) (pos len : Nat) (sign : Bool) {j : Nat} (hj : j < 32) :
    (BitVec.ofNat 32 (extractField 32 a.toNat pos len sign)).getLsbD j =
      if j < len then a.getLsbD (pos + j) else sign && decide (0 < len) && a.getLsbD (pos + len - 1) := by
  have low : ∀ k, (a.zeroExtend 64).getLsbD k = a.getLsbD k := fun k => by
    by_cases hk : k < 64
    · simp [hk]
    · simp [hk, BitVec.getLsbD_of_ge a k (by omega)]
  rw [ofNat_extractField_elem, BitVec.getLsbD_setWidth, getLsbD_extractField _ _ _ _ (by omega)]
  simp only [hj, low, decide_true, Bool.true_and]

/-- The place of a bit field on a lane, from word 2 or from registers (R150). -/
theorem Env.lanePlace_eq (en : Env) (f : Fields) (i : Nat) :
    en.lanePlace f i =
      (if mb f 1 then min (en.w.getV f.b.toNat i).toNat 32 else f.w2.toNat % 32,
        if mb f 1 then min (en.w.getV f.c.toNat i).toNat 32 else f.w2.toNat / 256 % 64) := by
  unfold Env.lanePlace
  split
  · rfl
  · simp [fld, Nat.shiftRight_eq_div_pow]

section
variable {f : Fields} {s : State} {is : Issue} (h : (s.nat is f).Runs)
include h

theorem execVbfe_eq :
    execVbfe f s = .next ((s.nat is f).gives ((s.nat is f).w.setV f.d.toNat (s.nat is f).e fun i =>
      BitVec.ofNat 32 (extractField 32 ((s.nat is f).w.getV f.a.toNat i).toNat ((s.nat is f).lanePlace f i).1
        ((s.nat is f).lanePlace f i).2 (mb f 0)))) :=
  laneResult_elem h (g := fun en i => BitVec.ofNat 64 (extractField 32 (en.w.getV f.a.toNat i).toNat
    (en.lanePlace f i).1 (en.lanePlace f i).2 (mb f 0))) fun _ => extractLsb'_ofNat_elem _

theorem execVbfi_eq :
    execVbfi f s = .next ((s.nat is f).gives ((s.nat is f).w.setV f.d.toNat (s.nat is f).e fun i =>
      BitVec.ofNat 32 (insertField 32 ((s.nat is f).w.getV f.d.toNat i).toNat ((s.nat is f).w.getV f.a.toNat i).toNat
        ((s.nat is f).lanePlace f i).1 ((s.nat is f).lanePlace f i).2))) :=
  laneResult_elem h (g := fun en i => BitVec.ofNat 64 (insertField 32 (en.w.getV f.d.toNat i).toNat
    (en.w.getV f.a.toNat i).toNat (en.lanePlace f i).1 (en.lanePlace f i).2)) fun _ => extractLsb'_ofNat_elem _

end

end Sys2Proof.Machine
end

section
open Sys2Proof Sys2Proof.Machine

/-- Settles O9: each instruction gives its lanes a narrowed result, or bits that are told one by one. -/
theorem vectorIntegerGroupCompletes : Obligations.VectorIntegerGroupCompletes := by
  intro f s is h en d v a wide w uns z pos len lanes w64 pair literal cw ca cb p q holds
  have place : ∀ i, (s.nat is f).lanePlace f i = (pos i, len i) := Env.lanePlace_eq en f
  refine ⟨?vmad, ?vabs, ?vneg, ?vclz, ?vpopc, fun _ => ?vbfe, ?vbfi, ?vsel, ?vbcst, ?vcmp⟩
  case vmad => exact laneResult_eq h ..
  case vabs =>
    refine (laneResult_eq h ..).trans ?_
    simp only [signed_toNat, Int.natCast_natAbs]
    rfl
  case vneg =>
    refine (laneResult_eq h ..).trans ?_
    simp only [signed_toNat]
    rfl
  case vclz => exact laneResult_elem h fun _ => extractLsb'_ofNat_elem _
  case vpopc => exact laneResult_elem h fun i => (extractLsb'_ofNat_elem _).trans (congrArg _ (popcount_elem (a i)))
  case vbfe =>
    refine ⟨_, execVbfe_eq h, fun i j hj => ?_⟩
    rw [getLsbD_extractField_elem _ _ _ _ hj, place]
  case vbfi =>
    refine ⟨_, execVbfi_eq h, fun i j hj => ?_⟩
    rw [BitVec.getLsbD_ofNat, decide_eq_true hj, Bool.true_and, testBit_insertField 32 _ _ _ _ hj, place]
    rfl
  case vsel =>
    have select : ∀ i, en.w.vVal w64 (if inMask (en.w.getP f.c.toNat) i then f.a.toNat else f.b.toNat) i =
        if (en.w.getP f.c.toNat).getLsbD i then pair f.a i else pair f.b i := fun i => apply_ite (en.w.vVal w64 · i) ..
    simp only [← select]
    exact laneResult_quiet h ..
  case vbcst => exact laneResult_quiet h ..
  case vcmp => exact ⟨_, native_writeP h (lane := true) rfl, fun i hi => getLsbD_maskOf _ hi⟩
end

section
/-! Cross-lane instructions (R163 to R167). -/
namespace Sys2Proof.Machine

/-- Lanes of a segment (R163). -/
theorem segSize_eq (f : Fields) : segSize f = 64 / 2 ^ (f.mod.toNat / 16 % 8) := by
  simp only [segSize, fld, Nat.shiftRight_eq_div_pow]
  rfl

/-- The source lane of VSHF by its mode (R165). -/
theorem shuffleLane_eq (mode g n i : Nat) :
    shuffleLane mode g n i =
      (let base := i - i % g
       let j : Int := if mode = 0 then ((base + n % g : Nat) : Int) else if mode = 1 then (i : Int) - n
         else if mode = 2 then (i : Int) + n else ((i ^^^ n : Nat) : Int)
       if (base : Int) ≤ j ∧ j < (base + g : Nat) then j.toNat else i) := by
  match mode with
  | 0 => rfl
  | 1 => rfl
  | 2 => rfl
  | _ + 3 => rfl

/-- The lanes of a segment that are in the effective mask and pass a test, in rising order. -/
theorem Env.segment_eq (en : Env) (f : Fields) (i : Nat) (p : Nat → Bool) :
    en.segment f i p =
      ((List.range 64).filter fun k =>
        en.e.getLsbD k && decide (k / segSize f = i / segSize f) && p k).map fun k => (en.w.getV f.a.toNat k).toNat := by
  simp only [Env.segment, Env.lanes, maskLanes, List.filter_filter, inMask]
  congr 2
  funext k
  cases en.e.getLsbD k <;> simp

/-- A field of a number that is read at its own width is what is read above the field's low end. -/
theorem toInt_bits (w : Nat) (uns : Bool) (x lo : Nat) : toInt w uns (bits x lo w) = toInt w uns (x / 2 ^ lo) := by
  simp only [toInt, signed, bits, Nat.shiftRight_eq_div_pow, Nat.mod_mod]

/-- A sum that starts at a term. -/
theorem foldl_add_eq_sum (g : Nat → Int) (l : List Nat) (d : Int) :
    l.foldl (fun t k => t + g k) d = d + (l.map g).sum := by
  induction l generalizing d with
  | nil => simp
  | cons k r ih => rw [List.foldl_cons, ih, List.map_cons, List.sum_cons, add_assoc]

end Sys2Proof.Machine
end

section
open Sys2Proof Sys2Proof.Machine

/-- Settles O10: a shuffle by its source lane, a fold by the lanes of the segment, and a dot product by its sum. -/
theorem crossLaneGroupCompletes : Obligations.CrossLaneGroupCompletes := by
  intro f s is h en d v g mode op n base j seg dot
  have hg : segSize f = g := segSize_eq f
  have segment : ∀ i p, (s.nat is f).segment f i p = seg i p := fun i p => by
    rw [Env.segment_eq, hg]
  refine ⟨?vshf, ?vred, ?vscan, ?vdot4⟩
  case vshf =>
    refine laneResult_elem h fun i => (extractLsb'_zeroExtend_elem _).trans ?_
    rw [shuffleLane_eq, hg, apply_ite (fun l => (s.nat is f).w.getV f.a.toNat l)]
    rfl
  case vred =>
    refine (laneResult_eq h ..).trans ?_
    simp only [segment]
    rfl
  case vscan =>
    refine (laneResult_eq h ..).trans ?_
    simp only [segment, fld_zero]
    by_cases hx : f.w2.toNat % 2 = 1
    · simp only [pow_one, hx, if_true]
      rfl
    · simp only [pow_one, hx, if_false]
      rfl
  case vdot4 =>
    have sum : ∀ i, (List.range 4).foldl (fun t k => t +
        toInt 8 (mb f 0) (bits (v f.a i).toNat (8 * k) 8) * toInt 8 (mb f 1) (bits (v f.b i).toNat (8 * k) 8))
        (toInt 32 (mb f 0 && mb f 1) (v f.c i).toNat) = toInt 32 (mb f 0 && mb f 1) (v f.c i).toNat + dot i := fun i => by
      simp only [toInt_bits]
      exact foldl_add_eq_sum _ _ _
    simp only [← sum]
    exact laneResult_eq h ..
end

section
/-! FABS, FNEG, FCLASS and FCMP by codes (R157, R158). -/
namespace Sys2Proof.Machine

/-! ### FP32 and FP64 -/

theorem fpOf_specials (dbl : Bool) : (fpOf dbl).specials = .ieee := by cases dbl <;> rfl

theorem fpOf_convert_nan (dbl : Bool) : (fpOf dbl).convert 0 true .nan = ((fpOf dbl).nanCode, flagNan) := by
  cases dbl <;> rfl

/-- What a code decodes to depends on the bits of its format alone. -/
theorem FFmt.decode_mod (f : FFmt) {w : Nat} (h : f.width ≤ w) (x : Nat) : f.decode (x % 2 ^ w) = f.decode x := by
  have hb : ∀ lo len, lo + len ≤ w → bits (x % 2 ^ w) lo len = bits x lo len := fun lo len hl => by
    apply Nat.eq_of_testBit_eq
    intro i
    simp only [bits, Nat.testBit_mod_two_pow, Nat.testBit_shiftRight]
    by_cases hi : i < len
    · simp [hi, show lo + i < w by omega]
    · simp [hi]
  have h1 : bit (x % 2 ^ w) (f.eb + f.mb) = bit x (f.eb + f.mb) := by
    simp only [FFmt.width] at h
    simp only [bit_eq_testBit, Nat.testBit_mod_two_pow, show f.eb + f.mb < w by omega, decide_true, Bool.true_and]
  simp only [FFmt.width] at h
  simp only [FFmt.decode, h1, hb f.mb f.eb (by omega), hb 0 f.mb (by omega), hb 0 (f.eb + f.mb) (by omega)]

/-- A literal as an operand: an FP32 one is the low half of the literal. -/
theorem decode_literal (dbl : Bool) (x : Nat) :
    (fpOf dbl).decode (if dbl then x else low 32 x) = (fpOf dbl).decode x := by
  cases dbl with
  | true => rfl
  | false => exact FFmt.decode_mod fp32 (w := 32) (by decide) x

/-- A register or pair holds a code of its format. -/
theorem Warp.vVal_lt (w : Warp) (dbl : Bool) (r i : Nat) : (w.vVal dbl r i).toNat < 2 ^ (fpOf dbl).width := by
  cases dbl with
  | true => exact (w.getV2 r i).isLt
  | false =>
    have := (w.getV r i).isLt
    simp only [Warp.vVal, Bool.false_eq_true, if_false, BitVec.toNat_setWidth]
    exact Nat.lt_of_le_of_lt (Nat.mod_le _ _) this

/-! ### Sign bits (R157) -/

/-- Adding the highest bit of a width to a number of that width inverts that bit. -/
theorem add_two_pow_mod {k x : Nat} (h : x < 2 ^ (k + 1)) : (x + 2 ^ k) % (2 * 2 ^ k) = x ^^^ 2 ^ k := by
  rw [← pow_succ', Nat.add_comm]
  apply Nat.eq_of_testBit_eq
  intro j
  rw [Nat.testBit_mod_two_pow, Nat.testBit_xor, Nat.testBit_two_pow]
  rcases Nat.lt_trichotomy j k with hj | rfl | hj
  · simp [Nat.testBit_two_pow_add_gt hj, show j < k + 1 by omega, show k ≠ j by omega]
  · simp [Nat.testBit_two_pow_add_eq]
  · have high : x.testBit j = false := Nat.testBit_lt_two_pow (h.trans_le (Nat.pow_le_pow_right two_pos hj))
    simp [high, show ¬j < k + 1 by omega, show k ≠ j by omega]

/-- FABS and FNEG give each lane the canonical NaN for a NaN, and else a change of its code. -/
theorem signOp_eq {f : Fields} {s : State} {is : Issue} (h : (s.nat is f).Runs) (g : Nat → Nat → Nat) :
    signOp g f s = .next ((s.nat is f).lanesGive (mb f 2) f.d.toNat fun i =>
      let x := ((s.nat is f).w.vVal (mb f 2) f.a.toNat i).toNat
      if (fpOf (mb f 2)).decode x = .nan then (BitVec.ofNat 64 (fpOf (mb f 2)).nanCode, flagNan)
      else (BitVec.ofNat 64 (g (2 ^ ((fpOf (mb f 2)).width - 1)) x), 0)) := by
  refine (laneResult_eq h ..).trans ?_
  simp only [FVal.isNan, decide_eq_true_eq, fpOf_convert_nan]
  rfl

/-! ### Classes (R157) -/

/-- The significand of a finite code lacks its leading one where the exponent field is zero. -/
theorem FFmt.exponent_zero_iff {f : FFmt} {x m : Nat} {neg : Bool} {e : Int} (h : f.decode x = .fin neg m e) :
    bits x f.mb f.eb = 0 ↔ m < 2 ^ f.mb := by
  unfold FFmt.decode at h
  extract_lets sign exponent mantissa special at h
  clear_value special
  split at h
  · split at h <;> cases h
  · split at h
    next he =>
      obtain ⟨-, rfl, -⟩ := FVal.fin.inj h
      exact iff_of_true he (Nat.mod_lt _ (Nat.two_pow_pos _))
    next he =>
      obtain ⟨-, rfl, -⟩ := FVal.fin.inj h
      exact iff_of_false he (by omega)

/-- The number of the class of a code's value: a finite value whose significand lacks the leading one is subnormal. -/
theorem classMask_eq (f : FFmt) (x : Nat) :
    classMask f x = 2 ^ (match f.decode x with
      | .nan => 8
      | .inf neg => if neg then 0 else 7
      | .fin neg m _ => if m = 0 then (if neg then 3 else 4)
        else if m < 2 ^ f.mb then (if neg then 2 else 5) else if neg then 1 else 6 : Nat) := by
  cases hd : f.decode x with
  | nan => simp only [classMask, hd]
  | inf neg => cases neg <;> simp only [classMask, hd] <;> rfl
  | fin neg m e =>
    simp only [classMask, hd, FFmt.exponent_zero_iff hd, decide_eq_true_eq]
    split
    · cases neg <;> rfl
    · split <;> cases neg <;> rfl

/-! ### Comparisons (R158) -/

/-- The comparisons of FCMP, where a NaN is unequal to every value. -/
theorem compareFloat_eq (cond : Nat) (a b : FVal) :
    compareFloat cond a b = (match cond with
      | 0 => a.eqv b
      | 1 => !(a.eqv b)
      | 2 => a.lt b
      | 3 => a.lt b || a.eqv b
      | 4 => b.lt a
      | 5 => b.lt a || a.eqv b
      | 6 => decide (a = .nan ∨ b = .nan)
      | _ => decide (a ≠ .nan ∧ b ≠ .nan)) := by
  match cond with
  | 1 => cases ha : a.isNan <;> cases hb : b.isNan <;> simp [compareFloat, FVal.eqv, ha, hb]
  | 6 => simp [compareFloat, FVal.isNan]
  | _ + 7 => simp [compareFloat, FVal.isNan]
  | 0 | 2 | 3 | 4 | 5 => rfl

end Sys2Proof.Machine
end

section
open Sys2Proof Sys2Proof.Machine

/-- Settles O12: the sign bits of codes that are no NaN, the class by the decoded value, and the comparison by its bits. -/
theorem floatBitInstructionsComplete : Obligations.FloatBitInstructionsComplete := by
  intro f s is h en dbl fmt top x signed cls cd a b
  refine ⟨signOp_eq h fun sb x => x % sb, ?fneg, ?fclass, ?fcmp⟩
  case fneg =>
    have width : top + 1 = fmt.width := by
      simp only [top, FFmt.width]
      omega
    have invert : ∀ i, (x i + 2 ^ top) % (2 * 2 ^ top) = x i ^^^ 2 ^ top := fun i =>
      add_two_pow_mod (width ▸ en.w.vVal_lt dbl f.a.toNat i)
    simp only [signed, ← invert]
    exact signOp_eq h fun sb x => (x + sb) % (2 * sb)
  case fclass => exact laneResult_elem h fun i => (extractLsb'_ofNat_elem _).trans (congrArg _ (classMask_eq fmt (x i)))
  case fcmp =>
    refine ⟨_, native_writeP h (lane := true) rfl, fun i hi => ?_⟩
    rw [getLsbD_maskOf _ hi]
    simp only [decode_literal]
    exact compareFloat_eq ..
end

section
/-! Conversions by elements (R160 to R162). -/
namespace Sys2Proof.Machine

theorem elementOf_eq (fmt i x : Nat) :
    elementOf fmt i x = x / 2 ^ (slotBits fmt * i) % 2 ^ (fmtOf fmt).width := by
  rw [elementOf, bits, Nat.shiftRight_eq_div_pow]

/-- The formats of 16 bits are BF16 and FP16 (Table 2.1). -/
theorem width_eq_sixteen (fmt : Nat) : (fmtOf fmt).width = 16 ↔ fmt = 10 ∨ fmt = 11 := by
  unfold fmtOf
  split <;> simp_all [FFmt.width, e2m1, e2m3, e3m2, e4m3, e5m2, bf16, fp16, fp64, fp32]

theorem fld_eq {n : Nat} (x : BitVec n) (lo len : Nat) : fld x lo len = x.toNat / 2 ^ lo % 2 ^ len := by
  rw [fld, Nat.shiftRight_eq_div_pow]

end Sys2Proof.Machine
end

section
open Sys2Proof Sys2Proof.Machine

/-- Settles O13: each conversion reads one element of its source and puts its result at one of its destination. -/
theorem conversionsCompleteWithTheirElements : Obligations.ConversionsCompleteWithTheirElements := by
  intro f s is h en w d mode reg lo hi dsel ssel src x into ty iw hsel
  have hlo : fld f.w2 0 4 = lo := rfl
  have hhi : fld f.w2 4 4 = hi := fld_eq ..
  have hdsel : fld f.w2 8 3 = dsel := fld_eq ..
  have hssel : fld f.w2 12 3 = ssel := fld_eq ..
  have hty : fld f.w2 4 3 = ty := fld_eq ..
  have half : (if (fmtOf lo).width = 16 then fld f.w2 8 1 else 0) = hsel := by
    simp only [width_eq_sixteen, fld_eq]
    rfl
  refine ⟨?fcvt, ?f2i, ?i2f⟩
  case fcvt =>
    refine (laneResult_eq h ..).trans ?_
    simp only [hlo, hhi, hdsel, hssel, elementOf_eq]
    rfl
  case f2i =>
    refine (laneResult_eq h ..).trans ?_
    simp only [hlo, hty, half, elementOf_eq, ofNat_wrap, bit_eq_testBit]
    rfl
  case i2f =>
    refine (laneResult_eq h ..).trans ?_
    simp only [hlo, hty, half, bit_eq_testBit]
    rfl
end

section
/-! Loads, stores and atomics whose lanes all pass their checks (R172, R173, R175, R177, R179 to R181, R253). -/
namespace Sys2Proof.Machine

/-- A loaded value by its size: .s8 and .s16 are extended by their sign (R173). -/
theorem loadedValue_eq (size w : Nat) (l : List Byte) :
    loadedValue size w l =
      if size = 1 then wrap w (signed 8 (leNat l)) else if size = 3 then wrap w (signed 16 (leNat l)) else leNat l := by
  unfold loadedValue
  split <;> simp_all

section
variable {en : Env} {d size : Nat} {off : Nat → Word}

/-- A store at the home slices whose lanes all pass stores them in order, after the release. -/
theorem Env.releaseStore_of_good {c : Cap} {t : State} {good : List (Nat × Word × Nat)}
    (hc : checkLanes (fun s i => s.homeCheck en.who c permW (off i) (sizeBytes size) (sizeBytes size) { w := true }) en.s
      (maskLanes en.e) = (good, [], t)) :
    en.releaseStore size d c off =
      .next (good.foldl (fun s x => en.homeStore s x.2.1 x.2.2 (en.w.storedBytes d size x.1)) (t.release en.key)) := by
  simp only [Env.releaseStore, Env.lanes, hc, laneTrap]

end

/-- A uniform load whose check passes writes the value of the bytes read (R175). -/
theorem exec_ldk_good {f : Fields} {s s1 t : State} {is : Issue} {va : Word} {miss : Option (Nat × Word)} {l : List Byte}
    {tag : Bool} (h : (s.nat is f).Runs)
    (hc : (if f.mod.toNat / 16 % 4 = 1 then s.acquire is.warp ((s.nat is f).scopeOf (f.c.toNat % 8) (f.c.toNat / 8))
      else s).laneCheck (s.nat is f).who ((s.nat is f).w.getC f.b.toNat) permR ((s.nat is f).sA f + sx32 f.w2)
      (sizeBytes (fld f.mod 0 3)) false = (.ok (va, miss), s1))
    (hl : s1.l1Load (s.nat is f).who va (sizeBytes (fld f.mod 0 3)) miss = ((l, tag), t)) :
    exec (.ldk f) s = .next ((s.nat is f).goesOn (t.putWarp is.warp
      ((s.nat is f).w.setS f.d.toNat (BitVec.ofNat 64 (loadedValue (fld f.mod 0 3) 64 l))))) :=
  native_next h (by
    have acquired := acquired_eq (s.nat is f) f
    simp only [State.nat_s, State.nat_key] at acquired
    simp only [State.nat_s, State.nat_key, acquired, hc, hl])

end Sys2Proof.Machine
end

section
open Sys2Proof Sys2Proof.Machine

/-- Settles O16: each load by what it reads once its checks have passed, after the acquire of an ordered one. -/
theorem loadsCompleteWithTheBytesRead : Obligations.LoadsCompleteWithTheBytesRead := by
  intro f s is h en size n c off s0 b value
  have acquired : (if ordered f then en.s.acquire en.key (en.scopeOf (fld f.c 0 3) (fld f.c 3 5)) else en.s) = s0 :=
    acquired_eq en f
  have value_eq : ∀ w l, loadedValue size w l = value w l := loadedValue_eq size
  simp only [← value_eq]
  refine ⟨fun good got s1 t hc hl => native_next h ?ld, fun _ _ _ _ _ => exec_ldk_good h,
    fun hf ht => native_next h ?lds⟩
  case ld =>
    rw [acquired]
    exact Env.globalLoad_of_good hc hl
  case lds =>
    rw [acquired]
    exact Env.scratchLoad_of_fits hf ht s0

/-- Settles O17: each store by the writes that it makes once its checks have passed, in the order of the lanes. -/
theorem storesCompleteInLaneOrder : Obligations.StoresCompleteInLaneOrder := by
  intro f s is h en size n c off rel data bk
  refine ⟨fun hr good t hc => native_next h ?st, fun hr good t hc => native_next h ?stRel, fun hf => native_next h ?sts⟩
  case st => exact (if_neg (mt (ordered_iff f).mp hr)).trans (Env.globalStore_of_good hc)
  case stRel => exact (if_pos ((ordered_iff f).mpr hr)).trans (Env.releaseStore_of_good hc)
  case sts =>
    have released : (if ordered f then en.s.release en.key else en.s) = if rel then s.release is.warp else s := by
      simp only [ordered_iff]
      rfl
    rw [released]
    exact Env.scratchStore_of_fits hf _
end

section
/-! Atomics lane by lane (R179 to R181). -/
namespace Sys2Proof.Machine

/-- Scratchpad bytes of a block without rows in error stop no lane (R396). -/
theorem Env.tornLanes_of_clear {en : Env} (h : en.block.torn = []) (off : Nat → Word) (n : Nat) :
    en.tornLanes off n = none := by
  have clear : (en.lanes.findSome? fun i => en.block.tornBytes (off i).toNat n) = none := by
    simp [Block.tornBytes, Block.tornRow, h]
  simp only [Env.tornLanes, clear]

/-- The bytes of an atomic's access. -/
def atomSize (f : Fields) : Nat := if mb f 4 then 8 else 4

/-- The offset of a lane of an atomic (R178). -/
def Env.atomOff (en : Env) (f : Fields) (i : Nat) : Word := en.laneBase (mb f 5) f.a.toNat i + atomOffset f

/-- The new value of a lane of an atomic, with its flags, from the old one (R179). -/
def Env.atomOp (en : Env) (f : Fields) (old i : Nat) : Nat × FlagSet :=
  atomicNew (fld f.mod 0 4) (mb f 4) old (en.w.vVal (mb f 4) f.c.toNat i).toNat (en.w.vVal (mb f 4) f.d.toNat i).toNat

/-- One lane of ATOM: a step at the home slice, with the old values and flags so far. -/
def Env.atomStep (en : Env) (f : Fields) (a : State × List (Nat × Nat) × FlagSet) (x : Nat × Word × Nat) :
    State × List (Nat × Nat) × FlagSet :=
  let s := a.1.goHome en.who x.2.1 x.2.2
  let old := leNat (s.mem.read x.2.2 (atomSize f))
  (s.physWrite x.2.2 (leBytes (atomSize f) (en.atomOp f old x.1).1), a.2.1 ++ [(x.1, old)],
    a.2.2 ||| (en.atomOp f old x.1).2)

/-- One lane of ATOMS, in the scratchpad. -/
def Env.atomsStep (en : Env) (f : Fields) (a : Block × List (Nat × Nat) × FlagSet) (i : Nat) :
    Block × List (Nat × Nat) × FlagSet :=
  let old := leNat (a.1.scratchRead (en.atomOff f i).toNat (atomSize f))
  (a.1.scratchWrite (en.atomOff f i).toNat (leBytes (atomSize f) (en.atomOp f old i).1), a.2.1 ++ [(i, old)],
    a.2.2 ||| (en.atomOp f old i).2)

/-- The warp after an atomic: the old values in v[D] unless .nr, and the flags of its lanes (R179). -/
def Env.atomWarp (en : Env) (f : Fields) (old : List (Nat × Nat)) (fl : FlagSet) : Warp :=
  if mb f 6 then en.w.raiseFlags fl
  else (en.w.raiseFlags fl).putV (mb f 4) f.d.toNat en.e fun i => BitVec.ofNat 64 (mapGet 0 old i)

section
variable {f : Fields} {s : State} {is : Issue} (h : (s.nat is f).Runs)
include h

/-- An ATOM whose lanes all pass their checks acts on them in order. -/
theorem exec_atom_good {good : List (Nat × Word × Nat)} {t : State}
    (hc : checkLanes (fun r i => r.homeCheck (s.nat is f).who ((s.nat is f).w.getC f.b.toNat) (permR ||| permW ||| permAT)
        ((s.nat is f).atomOff f i) (atomSize f) (atomSize f) { r := true, w := true }) s (maskLanes (s.nat is f).e) =
      (good, [], t)) :
    exec (.atom f) s =
      (let r := good.foldl ((s.nat is f).atomStep f) ((s.nat is f).atomOrder f t, [], 0)
       .next ((s.nat is f).goesOn (r.1.putWarp is.warp ((s.nat is f).atomWarp f r.2.1 r.2.2)))) := by
  simp only [Env.atomOff, atomSize] at hc
  exact native_next h (by simp only [Env.lanes, State.nat_s, hc, laneTrap]; rfl)

/-- An ATOMS whose lanes all lie in the scratchpad acts on them in order. -/
theorem exec_atoms_good (hf : (s.nat is f).ScratchFits (atomSize f) ((s.nat is f).atomOff f))
    (ht : (s.nat is f).block.torn = []) :
    exec (.atoms f) s =
      (let r := (maskLanes (s.nat is f).e).foldl ((s.nat is f).atomsStep f) ((s.nat is f).block, [], 0)
       .next ((s.nat is f).goesOn ((((s.nat is f).atomOrder f s).modBlock (warpBlock is.warp) fun _ => r.1).putWarp is.warp
        ((s.nat is f).atomWarp f r.2.1 r.2.2)))) := by
  have size : atomSize f = sizeBytes (if mb f 4 then 5 else 4) := by
    unfold atomSize
    split <;> rfl
  have inside : (s.nat is f).block.scratchBad (atomSize f)
      (fun i => (s.nat is f).laneBase (mb f 5) f.a.toNat i + atomOffset f) (s.nat is f).lanes = [] := by
    rw [size] at hf ⊢
    exact Env.scratchBad_of_fits hf
  have clear := Env.tornLanes_of_clear ht (fun i => (s.nat is f).laneBase (mb f 5) f.a.toNat i + atomOffset f) (atomSize f)
  simp only [atomSize] at inside clear
  exact native_next h (by simp only [inside, clear, laneTrap]; rfl)

end

end Sys2Proof.Machine
end

section
open Sys2Proof Sys2Proof.Machine

/-- Settles O20: each atomic by its steps on the lanes in order, and the new value by its operator. -/
theorem atomicsActInLaneOrder : Obligations.AtomicsActInLaneOrder := by
  intro f s is h en wide n c off reg op done b
  exact ⟨fun good t hc => exec_atom_good h hc, fun hf ht => exec_atoms_good h hf ht,
    fun old x cmp => ⟨rfl, rfl, rfl, rfl, rfl, rfl, rfl, rfl, rfl, rfl, rfl⟩⟩
end

section
/-! Capability instructions (R169, R183 to R186). -/
namespace Sys2Proof.Machine

/-! ### Fields of a capability made from its fields -/

section
variable (rsvd : Word) (gen : BitVec 24) (ctx otype : BitVec 12) (perms : BitVec 16) (len base : Word) (tag : Bool)

@[simp] theorem mkCap_otype : (mkCap rsvd gen ctx otype perms len base tag).otype = otype := by
  change (rsvd ++ gen ++ ctx ++ otype ++ perms ++ len ++ base).extractLsb' 144 12 = otype
  rw [BitVec.extractLsb'_append_eq_of_le (by decide), BitVec.extractLsb'_append_eq_of_le (by decide),
    BitVec.extractLsb'_append_eq_of_le (by decide)]
  exact BitVec.extractLsb'_append_eq_right

@[simp] theorem mkCap_ctx : (mkCap rsvd gen ctx otype perms len base tag).ctx = ctx := by
  change (rsvd ++ gen ++ ctx ++ otype ++ perms ++ len ++ base).extractLsb' 156 12 = ctx
  rw [BitVec.extractLsb'_append_eq_of_le (by decide), BitVec.extractLsb'_append_eq_of_le (by decide),
    BitVec.extractLsb'_append_eq_of_le (by decide), BitVec.extractLsb'_append_eq_of_le (by decide)]
  exact BitVec.extractLsb'_append_eq_right

@[simp] theorem mkCap_gen : (mkCap rsvd gen ctx otype perms len base tag).gen = gen := by
  change (rsvd ++ gen ++ ctx ++ otype ++ perms ++ len ++ base).extractLsb' 168 24 = gen
  iterate 5 rw [BitVec.extractLsb'_append_eq_of_le (by decide)]
  exact BitVec.extractLsb'_append_eq_right

@[simp] theorem mkCap_rsvd : (mkCap rsvd gen ctx otype perms len base tag).rsvd = rsvd := by
  change (rsvd ++ gen ++ ctx ++ otype ++ perms ++ len ++ base).extractLsb' 192 64 = rsvd
  iterate 6 rw [BitVec.extractLsb'_append_eq_of_le (by decide)]
  exact BitVec.extractLsb'_eq_self

end

/-! ### Validity (R185, R186) -/

/-- A capability of a context and of the context's generation. -/
theorem State.ownCap_iff (s : State) (n : Nat) (c : Cap) :
    s.ownCap n c = true ↔ c.ctx.toNat = n ∧ ∃ k, mapFind s.ctxs n = some k ∧ c.gen = k.cgen := by
  simp only [State.ownCap, Bool.and_eq_true, decide_eq_true_eq]
  cases mapFind s.ctxs n <;> simp

theorem State.validCap_iff (s : State) (n : Nat) (c : Cap) :
    s.validCap n c = true ↔
      c.tag = true ∧ c.otype = 0 ∧ c.ctx.toNat = n ∧ ∃ k, mapFind s.ctxs n = some k ∧ c.gen = k.cgen := by
  simp only [State.validCap, Bool.and_eq_true, decide_eq_true_eq, State.ownCap_iff, and_assoc]

/-! ### Capabilities in memory (R183) -/

section
variable {f : Fields} {s s1 t : State} {is : Issue} {va : Word} (h : (s.nat is f).Runs)
include h

/-- A CLD whose check passes writes the capability read, without its tag where reserved bits are set. -/
theorem exec_cld_good {miss : Option (Nat × Word)} {l : List Byte} {tag : Bool}
    (hc : s.laneCheck (s.nat is f).who ((s.nat is f).w.getC f.b.toNat) (permR ||| permLC) ((s.nat is f).sA f + sx32 f.w2)
      32 false = (.ok (va, miss), s1))
    (hl : s1.l1Load (s.nat is f).who va 32 miss = ((l, tag), t)) :
    exec (.cld f) s = .next ((s.nat is f).goesOn (t.putWarp is.warp ((s.nat is f).w.setC f.d.toNat
      { capOf l false with tag := tag && decide ((capOf l false).rsvd = 0) }))) :=
  native_next h (by
    simp only [State.nat_s, State.nat_key, hc, hl]
    rfl)

/-- A CST whose check passes writes the bytes and then the tag of the capability at the home slice. -/
theorem exec_cst_good {pa : Nat}
    (hc : s.homeCheck (s.nat is f).who ((s.nat is f).w.getC f.b.toNat) (permW ||| permSC) ((s.nat is f).sA f + sx32 f.w2)
      32 32 { w := true } = (.ok (va, pa), t)) :
    exec (.cst f) s =
      (let c := (s.nat is f).w.getC f.c.toNat
       let u := (t.goHome (s.nat is f).who va pa).physWrite pa c.bytes
       .next ((s.nat is f).goesOn { u with mem := u.mem.setTag pa c.tag })) :=
  native_next h (by simp only [State.nat_s, hc])

end

end Sys2Proof.Machine
end

section
open Sys2Proof Sys2Proof.Machine

/-- Settles O21: each capability by its fields and the conditions of its tag, and those in memory by what the access
reads and writes. -/
theorem capabilityInstructionsComplete : Obligations.CapabilityInstructionsComplete := by
  intro f s is h en a b off own valid gives len m
  refine ⟨native_done h rfl, ⟨a.narrow (en.sB f) len, native_done h rfl, ?cbnd⟩,
    ⟨a.restrict m, native_done h rfl, ?cperm⟩, ⟨s.sealCap en.ctx a b (mb f 0), native_done h rfl, ?cseal⟩, ?cget,
    ⟨if mb f 0 then s.validCap en.ctx a && s.validCap en.ctx b && a.inside b && decide (a.perms &&& ~~~b.perms = 0)
      else s.validCap en.ctx a, native_done h rfl, ?ctest⟩,
    fun _ _ _ _ _ hc hl => exec_cld_good h hc hl, fun _ _ hc => exec_cst_good h hc⟩
  case cbnd => simp [Cap.narrow, and_assoc]
  case cperm => simp [Cap.restrict]
  case cseal =>
    cases hm : mb f 0 with
    | true => simp [State.sealCap, State.ownCap_iff, own, and_assoc]
    | false => simp [State.sealCap, State.ownCap_iff, own, and_assoc]
  case cget =>
    have tag : (if a.tag then 1 else 0 : Word) = BitVec.ofNat 64 (b2n a.tag) := by cases a.tag <;> rfl
    simp only [tag]
    exact native_done h rfl
  case ctest =>
    have valid_iff : ∀ x, s.validCap en.ctx x = true ↔ valid x := s.validCap_iff en.ctx
    cases hm : mb f 0 with
    | true => simp [valid_iff, Cap.inside, and_assoc]
    | false => simp [valid_iff]
end

section
/-! PREF, CFLUSH and FENCE (R176, R181), and what a prefetch leaves in the L1. -/
namespace Sys2Proof.Machine

/-! ### The sectors of an L1 after one is put there -/

theorem State.sectors_putSector (s : State) (id i : Nat) (x : Sector) :
    (s.putSector id x).sectors i =
      if id = i then ((s.sectors id).filter fun y => !(decide (y.asid = x.asid ∧ y.va = x.va))) ++ [x]
      else s.sectors i := by
  simp only [State.putSector, State.dropSector, State.sectors_putSectors]
  split <;> rfl

/-- Sectors of other addresses are found as before. -/
theorem State.sector_putSector_other (s : State) (id i : Nat) {x : Sector} {asid : BitVec 16} {va : Nat}
    (h : ¬(x.asid = asid ∧ x.va = va)) : (s.putSector id x).sector i asid va = s.sector i asid va := by
  simp only [State.sector, State.sectors_putSector]
  split
  next hid =>
    subst hid
    rw [List.find?_append, List.find?_singleton]
    rw [if_neg (by simpa using h), Option.or_none, List.find?_filter]
    congr 1
    funext y
    by_cases hy : y.asid = asid ∧ y.va = va
    · obtain ⟨rfl, rfl⟩ := hy
      have kept : ¬(y.asid = x.asid ∧ y.va = x.va) := fun e => h ⟨e.1.symm, e.2.symm⟩
      simp [kept]
    · simp [hy]
  next => rfl

/-- An L1 that holds a sector is one of those that hold sectors. -/
theorem State.mem_l1Ids {s : State} {id : Nat} {x : Sector} (h : x ∈ s.sectors id) : id ∈ s.l1Ids := by
  have listed : ∀ m : Map (List Sector), x ∈ mapGet [] m id → id ∈ m.map Prod.fst := by
    intro m
    induction m with
    | nil => simp [mapGet, mapFind]
    | cons e r ih =>
      obtain ⟨k, v⟩ := e
      intro hx
      by_cases hk : k = id
      · simp [hk]
      · simp only [mapGet, mapFind, if_neg hk] at hx
        exact List.mem_cons_of_mem _ (ih hx)
  exact listed _ h

/-! ### Prefetches (R176) -/

/-- The sector that a fill from the home slice leaves in an L1. -/
def State.homeCopy (s : State) (w : Who) (v p : Nat) (pte : Word) : Sector :=
  { asid := w.asid, va := v, pa := p / 32, data := s.mem.read (p / 32 * 32) 32, tag := s.mem.tag p
    read := bit pte.toNat 2 && true, write := bit pte.toNat 3, ctx := w.ctx, husk := leafHusk pte.toNat }

/-- An L1 has a line, or room for it. -/
def State.HasRoom (s : State) (id : Nat) (asid : BitVec 16) (line : Nat) : Prop :=
  (asid, line) ∈ s.linesOf id (l1Array id line) ∨ (s.linesOf id (l1Array id line)).length < l1Lines

theorem State.HasRoom.l1Room {s : State} {id line : Nat} {asid : BitVec 16} (h : s.HasRoom id asid line) :
    s.l1Room id asid line = s := by
  unfold State.HasRoom at h
  unfold State.l1Room
  generalize l1Lines = n at *
  exact if_pos (by simpa using h)

/-- No L1 holds a dirty byte. -/
def State.L1Clean (s : State) : Prop := ∀ id, ∀ x ∈ s.sectors id, x.dirty = 0

/-- A fill with room and without dirty copies puts the home's bytes into the L1. -/
theorem State.fillSector_clean {s : State} {w : Who} {v : Word} (p : Nat) (pte : Word) (hc : s.L1Clean)
    (hr : s.HasRoom w.id w.asid (v.toNat / 128)) :
    (s.fillSector w v p pte true).2 = s.putSector w.id (s.homeCopy w (v.toNat / 32) p pte) := by
  have settled : s.settle (p / 32) = s := State.settle_clean fun id _ x hx _ => hc id x hx
  simp only [State.fillSector, settled, hr.l1Room]
  rfl

/-- One sector of a line is filled unless the L1 holds it or the home cannot be read. -/
def State.prefetchSector (s : State) (w : Who) (va : Word) (pa : Nat) (pte : Word) (k : Nat) : State :=
  match s.sector w.id w.asid ((BitVec.ofNat 64 (va.toNat / 128 * 128 + 32 * k)).toNat / 32) with
  | some _ => s
  | none =>
    if s.readable pte (pa / 128 * 128 + 32 * k) 32 then
      (s.fillSector w (BitVec.ofNat 64 (va.toNat / 128 * 128 + 32 * k)) (pa / 128 * 128 + 32 * k) pte true).2
    else s

theorem State.prefetchLine_eq (s : State) (w : Who) (va : Word) (pa : Nat) (pte : Word) :
    s.prefetchLine w va pa pte = (List.range 4).foldl (fun s k => s.prefetchSector w va pa pte k) s := rfl

@[simp] theorem State.outer_prefetchSector (s : State) (w : Who) (va : Word) (pa : Nat) (pte : Word) (k : Nat) :
    (s.prefetchSector w va pa pte k).outer = s.outer := by
  unfold State.prefetchSector
  split
  · rfl
  · split
    · exact State.outer_fillSector ..
    · rfl

@[simp] theorem State.outer_prefetchLine (s : State) (w : Who) (va : Word) (pa : Nat) (pte : Word) :
    (s.prefetchLine w va pa pte).outer = s.outer :=
  foldl_keeps (fun t k => t.outer_prefetchSector w va pa pte k) s _

/-- Neither what can be read at the home slices nor what a fill takes from them depends on the L1s. -/
theorem State.home_of_l1 (s : State) (l1 : Map (List Sector)) :
    { s with mem := { s.mem with l1 } }.readable = s.readable ∧
      { s with mem := { s.mem with l1 } }.homeCopy = s.homeCopy := by
  refine ⟨rfl, ?_⟩
  funext w v p pte
  simp only [State.homeCopy, MemSys.read_congr (m := { s.mem with l1 }) (k := s.mem) rfl]
  rfl

/-- The address of a sector of a line lies in that line, at the sector's place. -/
theorem sectorAddress (va : Word) {k : Nat} (hk : k < 4) :
    (BitVec.ofNat 64 (va.toNat / 128 * 128 + 32 * k)).toNat / 32 = va.toNat / 128 * 4 + k ∧
      (BitVec.ofNat 64 (va.toNat / 128 * 128 + 32 * k)).toNat / 128 = va.toNat / 128 := by
  have := va.isLt
  rw [BitVec.toNat_ofNat, Nat.mod_eq_of_lt (by omega)]
  omega

/-- What the L1 holds of a sector of a line after a prefetch of it. -/
def State.prefetched (s : State) (w : Who) (va : Word) (pa : Nat) (pte : Word) (k : Nat) : Option Sector :=
  match s.sector w.id w.asid (va.toNat / 128 * 4 + k) with
  | some x => some x
  | none =>
    if s.readable pte (pa / 128 * 128 + 32 * k) 32 then
      some (s.homeCopy w (va.toNat / 128 * 4 + k) (pa / 128 * 128 + 32 * k) pte)
    else none

section
variable {s : State} {w : Who} {va : Word} {pa : Nat} {pte : Word} {k : Nat}

theorem State.prefetched_of_held {x : Sector} (h : s.sector w.id w.asid (va.toNat / 128 * 4 + k) = some x) :
    s.prefetched w va pa pte k = some x := by
  simp only [State.prefetched, h]

theorem State.prefetched_of_readable (h : s.sector w.id w.asid (va.toNat / 128 * 4 + k) = none)
    (hr : s.readable pte (pa / 128 * 128 + 32 * k) 32 = true) :
    s.prefetched w va pa pte k =
      some (s.homeCopy w (va.toNat / 128 * 4 + k) (pa / 128 * 128 + 32 * k) pte) := by
  simp only [State.prefetched, h, hr, if_true]

theorem State.prefetched_of_unreadable (h : s.sector w.id w.asid (va.toNat / 128 * 4 + k) = none)
    (hr : s.readable pte (pa / 128 * 128 + 32 * k) 32 = false) : s.prefetched w va pa pte k = none := by
  simp only [State.prefetched, h, hr, Bool.false_eq_true, if_false]

end

/-- A state in which the first sectors of a line have been prefetched: only the L1s differ, they have room for the line
and no dirty byte, and those sectors are as the prefetch leaves them. -/
structure Prefetches (t : State) (w : Who) (va : Word) (pa : Nat) (pte : Word) (n : Nat) (u : State) : Prop where
  rest : ∃ l1, u = { t with mem := { t.mem with l1 } }
  clean : u.L1Clean
  room : u.HasRoom w.id w.asid (va.toNat / 128)
  sector : ∀ k, u.sector w.id w.asid (va.toNat / 128 * 4 + k) =
    if k < n then t.prefetched w va pa pte k else t.sector w.id w.asid (va.toNat / 128 * 4 + k)

section
variable {t u : State} {w : Who} {va : Word} {pa : Nat} {pte : Word} {n : Nat}

theorem Prefetches.keeps (h : Prefetches t w va pa pte n u) :
    u.mem.bytes = t.mem.bytes ∧ u.mem.tags = t.mem.tags ∧ u.warps = t.warps ∧ u.blocks = t.blocks := by
  obtain ⟨l1, rfl⟩ := h.rest
  exact ⟨rfl, rfl, rfl, rfl⟩

/-- A sector that is left as it was. -/
theorem Prefetches.skip (h : Prefetches t w va pa pte n u)
    (hk : t.prefetched w va pa pte n = t.sector w.id w.asid (va.toNat / 128 * 4 + n)) :
    Prefetches t w va pa pte (n + 1) u where
  rest := h.rest
  clean := h.clean
  room := h.room
  sector k := by
    rw [h.sector k]
    rcases Nat.lt_trichotomy k n with hlt | rfl | hgt
    · rw [if_pos hlt, if_pos (by omega)]
    · rw [if_neg (by omega), if_pos (by omega), hk]
    · rw [if_neg (by omega), if_neg (by omega)]

/-- A sector that is filled. -/
theorem Prefetches.fill {x : Sector} (h : Prefetches t w va pa pte n u) (hn : n < 4)
    (hk : t.prefetched w va pa pte n = some x) (hasid : x.asid = w.asid) (hva : x.va = va.toNat / 128 * 4 + n) (hd : x.dirty = 0) :
    Prefetches t w va pa pte (n + 1) (u.putSector w.id x) where
  rest := by
    obtain ⟨l1, rfl⟩ := h.rest
    exact ⟨_, rfl⟩
  clean id y hy := by
    rw [State.sectors_putSector] at hy
    split at hy
    · rcases List.mem_append.mp hy with hy | hy
      · exact h.clean _ y (List.mem_filter.mp hy).1
      · rw [List.mem_singleton.mp hy, hd]
    · exact h.clean id y hy
  room := by
    have line : x.va / 4 = va.toNat / 128 := by omega
    refine .inl ?_
    simp only [State.linesOf, List.mem_eraseDups, List.mem_filterMap, State.sectors_putSector, if_true]
    exact ⟨x, List.mem_append_right _ List.mem_cons_self, by rw [line, if_pos rfl, hasid]⟩
  sector k := by
    by_cases hkn : k = n
    · subst hkn
      rw [if_pos (by omega), hk, ← hasid, ← hva]
      exact State.sector_putSector ..
    · rw [State.sector_putSector_other _ _ _ (by omega), h.sector k]
      split
      · rw [if_pos (by omega)]
      · rw [if_neg (by omega)]

/-- Each sector of the line in turn. -/
theorem Prefetches.step (h : Prefetches t w va pa pte n u) (hn : n < 4) :
    Prefetches t w va pa pte (n + 1) (u.prefetchSector w va pa pte n) := by
  obtain ⟨place, line⟩ := sectorAddress va hn
  have held : u.sector w.id w.asid (va.toNat / 128 * 4 + n) = t.sector w.id w.asid (va.toNat / 128 * 4 + n) := by
    rw [h.sector n, if_neg (Nat.lt_irrefl n)]
  have home : u.readable = t.readable ∧ u.homeCopy = t.homeCopy := by
    obtain ⟨l1, rfl⟩ := h.rest
    exact t.home_of_l1 l1
  unfold State.prefetchSector
  rw [place, held]
  cases hs : t.sector w.id w.asid (va.toNat / 128 * 4 + n) with
  | some x => exact h.skip ((State.prefetched_of_held hs).trans hs.symm)
  | none =>
    dsimp only
    rw [home.1]
    split
    next hr =>
      rw [State.fillSector_clean _ _ h.clean (line.symm ▸ h.room), home.2, place]
      exact h.fill hn (State.prefetched_of_readable hs hr) rfl rfl rfl
    next hr => exact h.skip ((State.prefetched_of_unreadable hs (eq_false_of_ne_true hr)).trans hs.symm)

/-- A prefetch of a line that leaves no L1 without room. -/
theorem State.prefetchLine_prefetches (hc : t.L1Clean) (hr : t.HasRoom w.id w.asid (va.toNat / 128)) :
    Prefetches t w va pa pte 4 (t.prefetchLine w va pa pte) := by
  have start : Prefetches t w va pa pte 0 t := ⟨⟨_, rfl⟩, hc, hr, fun k => (if_neg (Nat.not_lt_zero k)).symm⟩
  have first : ∀ n ≤ 4, Prefetches t w va pa pte n
      ((List.range n).foldl (fun s k => s.prefetchSector w va pa pte k) t) := fun n => by
    induction n with
    | zero => exact fun _ => start
    | succ n ih =>
      intro hn
      rw [List.range_succ, List.foldl_append]
      exact (ih (by omega)).step (by omega)
  exact first 4 (le_refl 4)

end

/-! ### PREF on the lanes (R176) -/

/-- One lane of a PREF, which is dropped where it would fail a check. -/
def Env.prefLane (en : Env) (f : Fields) (s : State) (i : Nat) : State :=
  let c := en.w.getC f.b.toNat
  let off := en.laneBase (mb f 3) f.a.toNat i + sx32 f.w2
  match s.capCheck en.ctx c permR off 1 0 with
  | some _ => s
  | none =>
    match s.translate (some en.who.cluster) en.ctx (c.base + off) { r := true } 0 with
    | (.fail _, _) => s
    | (.ok pa pte, s) => if mb f 0 then s else s.prefetchLine en.who (c.base + off) pa pte

theorem Env.prefLane_eq (en : Env) (f : Fields) (s : State) (i : Nat) :
    en.prefLane f s i =
      (let c := en.w.getC f.b.toNat
       let off := en.laneBase (mb f 3) f.a.toNat i + sx32 f.w2
       if s.capCheck en.ctx c permR off 1 0 = none then
         match s.translate (some en.who.cluster) en.ctx (c.base + off) { r := true } 0 with
         | (.fail _, _) => s
         | (.ok pa pte, t) => if mb f 0 then t else t.prefetchLine en.who (c.base + off) pa pte
       else s) := by
  unfold Env.prefLane
  dsimp only
  split
  next h => rw [h, if_neg (by simp)]
  next h => rw [h, if_pos rfl]

@[simp] theorem Env.outer_prefLane (en : Env) (f : Fields) (s : State) (i : Nat) : (en.prefLane f s i).outer = s.outer := by
  unfold Env.prefLane
  dsimp only
  split
  · rfl
  · split
    next => rfl
    next t h =>
      have moved := State.outer_translate s (some en.who.cluster) en.ctx
        ((en.w.getC f.b.toNat).base + (en.laneBase (mb f 3) f.a.toNat i + sx32 f.w2)) { r := true } 0
      rw [h] at moved
      split
      · exact moved
      · exact (State.outer_prefetchLine ..).trans moved

/-- A lane that would fail the check of its capability is dropped without a trace. -/
theorem Env.prefLane_dropped {en : Env} {f : Fields} {s : State} {i : Nat}
    (h : s.capCheck en.ctx (en.w.getC f.b.toNat) permR (en.laneBase (mb f 3) f.a.toNat i + sx32 f.w2) 1 0 ≠ none) :
    en.prefLane f s i = s := by
  rw [en.prefLane_eq]
  exact if_neg h

theorem exec_pref {f : Fields} {s : State} {is : Issue} (h : (s.nat is f).Runs) :
    exec (.pref f) s =
      .next ((s.nat is f).goesOn ((maskLanes (s.nat is f).e).foldl ((s.nat is f).prefLane f) s)) :=
  native_next h rfl

/-! ### CFLUSH (R176) -/

theorem exec_cflush_good {f : Fields} {s t : State} {is : Issue} {spans : List (Nat × Word × Nat)} (h : (s.nat is f).Runs)
    (hn : ((s.nat is f).sC f).toNat ≠ 0)
    (hc : s.capCheck (s.nat is f).ctx ((s.nat is f).w.getC f.b.toNat) permR ((s.nat is f).sA f + sx32 f.w2)
      ((s.nat is f).sC f).toNat 0 = none)
    (ht : s.translateRange (some (s.nat is f).who.cluster) (s.nat is f).ctx { r := true } 0
      (((s.nat is f).w.getC f.b.toNat).base + ((s.nat is f).sA f + sx32 f.w2)) ((s.nat is f).sC f).toNat = (.ok spans, t)) :
    exec (.cflush f) s =
      (let va := ((s.nat is f).w.getC f.b.toNat).base + ((s.nat is f).sA f + sx32 f.w2)
       let u := t.evictWhere (s.nat is f).who.id fun x => decide (x.asid = (s.nat is f).who.asid ∧
         va.toNat / 128 ≤ x.va / 4 ∧ x.va / 4 ≤ (va.toNat + ((s.nat is f).sC f).toNat - 1) / 128)
       .next ((s.nat is f).goesOn (if mb f 0 then spans.foldl (fun s x => s.cleanLines x.1 x.2.2) u else u))) :=
  native_next h (by simp only [State.nat_s, hn, if_false, hc, ht])

theorem exec_fence {f : Fields} {s : State} {is : Issue} (h : (s.nat is f).Runs) :
    exec (.fence f) s = .next ((s.nat is f).goesOn ((s.nat is f).fenceKind (f.mod.toNat % 4)
      ((s.nat is f).scopeOf (f.w2.toNat % 8) (f.w2.toNat / 8 % 32)))) :=
  native_next h (by rw [fld_eq f.w2 3 5]; rfl)

end Sys2Proof.Machine
end

section
open Sys2Proof Sys2Proof.Machine

/-- Settles O19: PREF by its lanes and by what a prefetch of a line leaves in the L1, CFLUSH and FENCE by what they write
back and drop. -/
theorem cacheControlCompletes : Obligations.CacheControlCompletes := by
  intro f s is h en c off va n fence inRange
  refine ⟨?pref, fun t w a pa pte hc hr => ?line, fun hn => native_next h (if_pos hn),
    fun hn hc spans t ht => exec_cflush_good h hn hc ht, fun hm => ?ar, fun hm => ?acq, fun hm => ?rel, fun hm => ?sc⟩
  case pref =>
    intro loff lane
    have lane_eq : en.prefLane f = lane := funext fun s => funext fun i => en.prefLane_eq f s i
    refine ⟨lane_eq ▸ exec_pref h, fun hall => ?_, _, exec_pref h, ?_⟩
    · have dropped : (maskLanes en.e).foldl (en.prefLane f) s = s :=
        List.foldlRecOn (motive := (· = s)) _ _ rfl fun t ht i hi => by
          obtain ⟨hlt, hmem⟩ := mem_maskLanes.mp hi
          subst ht
          exact Env.prefLane_dropped (hall i hlt hmem)
      rw [exec_pref h]
      exact congrArg (fun t => Host.Outcome.next (en.goesOn t)) dropped
    · have outer := foldl_keeps (g := State.outer) (en.outer_prefLane f) s (maskLanes en.e)
      exact ⟨(congrArg State.warps outer :), State.blocks_of_outer outer⟩
  case line =>
    intro u
    have clean : t.L1Clean := fun id x hx => hc id (State.mem_l1Ids hx) x hx
    have done := State.prefetchLine_prefetches (pa := pa) (pte := pte) clean (.inr hr)
    obtain ⟨bytes, tags, warps, blocks⟩ := done.keeps
    refine ⟨bytes, tags, warps, blocks, fun k hk => ?_⟩
    have held : u.sector w.id w.asid (a.toNat / 128 * 4 + k) = t.prefetched w a pa pte k := (done.sector k).trans (if_pos hk)
    intro v p
    rw [held]
    refine ⟨fun _ => State.prefetched_of_held, fun hs => ⟨fun hread => ⟨_, State.prefetched_of_readable hs hread, rfl, rfl, ?_⟩,
      State.prefetched_of_unreadable hs⟩⟩
    have whole : p / 32 * 32 = p := by omega
    exact congrArg (t.mem.read · 32) whole
  case ar => exact (exec_fence h).trans (by rw [hm]; rfl)
  case acq => exact (exec_fence h).trans (by rw [hm]; rfl)
  case rel => exact (exec_fence h).trans (by rw [hm]; rfl)
  case sc => exact (exec_fence h).trans (by rw [hm]; rfl)
end

section
/-! What stores leave unchanged, and the canonical form of memory (R169, R173, R177, R256, R257). -/
namespace Sys2Proof.Machine

/-! ### Stores to the scratchpad (R177) -/

/-- A lane stores as many bytes as its size says (R173). -/
theorem Warp.length_storedBytes (w : Warp) (d size i : Nat) : (w.storedBytes d size i).length = sizeBytes size := by
  unfold Warp.storedBytes
  split
  next h =>
    subst h
    simp [sizeBytes]
  next =>
    split
    next h =>
      subst h
      simp [sizeBytes]
    next => exact length_leBytes ..

/-- Bytes of the scratchpad at which no lane stores. -/
theorem Block.scratchByte_stores {off : Nat → Word} {data : Nat → List Byte} {n a : Nat}
    (hn : ∀ i, (data i).length = n) (ls : List Nat) (b : Block) (ha : ∀ i ∈ ls, ¬((off i).toNat ≤ a ∧ a < (off i).toNat + n)) :
    (ls.foldl (fun b i => b.scratchWrite (off i).toNat (data i)) b).scratchByte a = b.scratchByte a :=
  List.foldlRecOn (motive := fun c : Block => c.scratchByte a = b.scratchByte a) _ _ rfl fun c hc i hi => by
    rw [Block.scratchByte_write, hn, if_neg (ha i hi), hc]

/-- A new slot of a warp is seen in its slots alone. -/
theorem Warp.setSlot_slots_only (w : Warp) (k : Nat) (x : Slot) :
    w.setSlot k x = { w with s0 := (w.setSlot k x).s0, s1 := (w.setSlot k x).s1 } := by
  unfold Warp.setSlot
  split <;> rfl

/-! ### Stores that hit the L1 (R253) -/

/-- A store into a sector of the slot's own changes the copy alone. -/
theorem State.l1Store_own {s : State} {w : Who} {va : Word} {l : List Byte} {x : Sector}
    (hx : s.sector w.id w.asid (va.toNat / 32) = some x) (hw : x.write = true) (own : foreign x w = false) :
    s.l1Store w va l none = s.putSector w.id (x.stored w s.clk (va.toNat % 32) l) := by
  simp only [State.l1Store, hx, own, Bool.false_eq_true, if_false, hw, if_true]
  rfl

/-- The bytes of a copy after a store into it. -/
theorem Sector.getD_stored (x : Sector) (w : Who) (clk o : Nat) (l : List Byte) {i : Nat} (hi : i < 32) :
    (x.stored w clk o l).data.getD i 0 = if o ≤ i ∧ i < o + l.length then l.getD (i - o) 0 else x.data.getD i 0 := by
  rw [List.getD_eq_getElem _ 0 (by simpa [Sector.stored] using hi)]
  simp only [Sector.stored, List.getElem_map, List.getElem_range, getLsbD_byteMask hi, decide_eq_true_eq]

/-! ### Writes at the home slices (R256, R257) -/

/-- The units that a range of bytes touches. -/
theorem mem_unitsOf {size a n u : Nat} (hs : 0 < size) :
    u ∈ unitsOf size a n ↔ n ≠ 0 ∧ u * size < a + n ∧ a < u * size + size := by
  unfold unitsOf
  split
  next h => simp [h]
  next h =>
    have order : a / size ≤ (a + n - 1) / size := Nat.div_le_div_right (by omega)
    have first : a / size ≤ u ↔ a < u * size + size := by
      rw [← Nat.lt_succ_iff, Nat.div_lt_iff_lt_mul hs, Nat.succ_mul]
    have last : u ≤ (a + n - 1) / size ↔ u * size < a + n := by
      rw [Nat.le_div_iff_mul_le hs]
      omega
    rw [← first, ← last]
    simp only [List.mem_map, List.mem_range]
    constructor
    · rintro ⟨i, hi, rfl⟩
      omega
    · rintro ⟨-, hlast, hfirst⟩
      exact ⟨u - a / size, by omega, by omega⟩

theorem mapGet_foldl_erase (us : List Nat) (m : Map Bool) (k : Nat) :
    mapGet false (us.foldl (fun t u => mapErase t u) m) k = if k ∈ us then false else mapGet false m k := by
  induction us generalizing m with
  | nil => simp
  | cons u r ih =>
    rw [List.foldl_cons, ih, mapGet_erase]
    by_cases hr : k ∈ r
    · simp [hr]
    · by_cases hu : u = k
      · simp [hu]
      · simp [hr, hu, Ne.symm hu]

theorem MemSys.store_tags : ∀ (l : List Byte) (m : MemSys) (a : Nat), (m.store a l).tags = m.tags
  | [], _, _ => rfl
  | _ :: r, _, _ => MemSys.store_tags r _ _

/-- A write clears the tags of the granules that it touches (R169). -/
theorem State.tag_put (s : State) (pa a : Nat) (l : List Byte) :
    (s.put pa l).mem.tag a =
      if a / 32 * 32 < pa + l.length ∧ pa < a / 32 * 32 + 32 ∧ l ≠ [] then false else s.mem.tag a := by
  cases l with
  | nil => simp [State.put]
  | cons x r =>
    have tags : (s.mem.store pa (x :: r)).tags = s.mem.tags := MemSys.store_tags ..
    change mapGet false ((unitsOf 32 pa (x :: r).length).foldl (fun t u => mapErase t u) (s.mem.store pa (x :: r)).tags)
      (a / 32) = _
    rw [mapGet_foldl_erase, tags]
    refine if_congr ?_ rfl rfl
    rw [mem_unitsOf (by decide)]
    simp only [List.length_cons, ne_eq, Nat.succ_ne_zero, not_false_eq_true, reduceCtorEq, true_and, and_true]

theorem State.lineOpen_iff {s : State} {u : Nat} :
    s.lineOpen u = true ↔ ((s.owner (u / 512)).state = 1 → s.sealOk (s.owner (u / 512)).husk u = true) := by
  rw [State.lineOpen, Bool.or_eq_true, decide_eq_true_eq, imp_iff_not_or]

theorem State.openLine_open {s : State} {u : Nat} (h : s.lineOpen u = true) : s.openLine u = s := if_pos h

/-- A write of memory whose lines are open puts its bytes, and the L2 and the ways keep within their room. -/
theorem State.physWrite_open {s : State} {pa : Nat} {l : List Byte} (hn : pa + l.length ≤ memBytes)
    (ht : s.inTables pa = false) (ho : ∀ u ∈ partLines pa l.length, s.lineOpen u = true) :
    s.physWrite pa l = (s.put pa l).trimL2 := by
  have opened : (partLines pa l.length).foldl (fun s u => s.openLine u) s = s :=
    List.foldlRecOn (motive := (· = s)) _ _ rfl fun t ht u hu => by rw [ht, State.openLine_open (ho u hu)]
  have made : ¬(memBytes < pa + l.length ∨ s.inTables pa = true) := not_or.mpr ⟨by omega, by simp [ht]⟩
  rw [State.physWrite, if_neg made, opened, State.putHome, if_neg made]

theorem State.tags_trimL2 (s : State) : s.trimL2.mem.tags = s.mem.tags :=
  s.trimL2_reading (fun t => t.mem.tags) fun _ _ _ => rfl

end Sys2Proof.Machine
end

section
open Sys2Proof Sys2Proof.Machine

/-- Settles O52: a scratchpad store by the bytes of its lanes, a store in the L1 by the copy that it changes, a write at
the home slices by its bytes and granules, and the canonical form by the lemma of each operation. -/
theorem storesWriteOnlyTheirBytesInCanonicalForm : Obligations.StoresWriteOnlyTheirBytesInCanonicalForm := by
  refine ⟨⟨fun f s is h ho => ?sts, fun s w va l x hl hx hs hw hf => ?l1, fun s pa l hlost => if_pos hlost,
    fun s pa l hn ht ho => ?home⟩, rfl, fun s h => ?canonical⟩
  case sts =>
    intro en n bk off hb hf
    obtain ⟨b, hb⟩ := hb
    have plain : ¬ordered f = true := fun h1 => by
      rw [ordered_iff, ho] at h1
      cases h1
    have find : mapFind s.warps is.warp = some en.w := h.1.1.2
    have body := Env.scratchStore_of_fits (en := en) (d := f.d.toNat) (size := f.mod.toNat % 8) (off := off) hf s
    refine ⟨_, native_next h ((congrArg (fun t => en.scratchStore t _ _ off) (if_neg plain)).trans body), rfl, rfl,
      ⟨en.wentOn, ?_, ?_⟩, fun key hk => ?_, fun key hk => ?_, fun a ha => ?_⟩
    · exact State.find_goesOn (f := f) (s := s) find
    · exact Warp.setSlot_slots_only ..
    · exact (mapFind_modify ..).trans (if_neg hk.symm)
    · exact (mapFind_modify ..).trans (if_neg hk.symm)
    · have written := (s.block_modBlock bk bk (fun b => (maskLanes en.e).foldl
          (fun b i => b.scratchWrite (off i).toNat (en.w.storedBytes f.d.toNat (f.mod.toNat % 8) i)) b)
        (by simp [hb])).trans (if_pos rfl)
      have outside : ∀ i ∈ maskLanes en.e, ¬((off i).toNat ≤ a ∧ a < (off i).toNat + n) := fun i hi =>
        ha i (mem_maskLanes.mp hi).1 (mem_maskLanes.mp hi).2
      exact (congrArg (Block.scratchByte · a) written).trans
        (Block.scratchByte_stores (fun i => Warp.length_storedBytes ..) _ _ outside)
  case l1 =>
    intro t
    have held : x.asid = w.asid ∧ x.va = va.toNat / 32 := by simpa using List.find?_some hs
    have stored : t = s.putSector w.id (x.stored w s.clk (va.toNat % 32) l) := State.l1Store_own hs hw hf
    rw [stored]
    refine ⟨rfl, rfl, rfl, rfl, fun id hid => ?_, fun asid u hu => ?_, x.stored w s.clk (va.toNat % 32) l, ?_, rfl,
      by simp [Sector.stored], fun i hi => ?_⟩
    · rw [State.sectors_putSector, if_neg hid.symm]
    · exact State.sector_putSector_other _ _ _ fun e => hu ⟨e.1.symm.trans held.1, e.2.symm.trans held.2⟩
    · rw [← held.1, ← held.2]
      exact s.sector_putSector w.id (x.stored w s.clk (va.toNat % 32) l)
    · exact x.getD_stored w s.clk _ l hi
  case home =>
    intro t
    have written : t = (s.put pa l).trimL2 := State.physWrite_open hn ht fun u hu =>
      State.lineOpen_iff.mpr (ho u hu)
    obtain ⟨⟨l1, warps, blocks⟩, -⟩ := s.physWrite_keeps pa l
    refine ⟨fun a => ?_, fun a => ?_, l1, warps, blocks⟩
    · rw [written, MemSys.byte, State.trimL2_keeps .. |>.2]
      exact s.byte_put pa a l
    · have tag : t.mem.tag a = _ :=
        (congrArg (mapGet false · (a / 32)) (written ▸ State.tags_trimL2 _)).trans (s.tag_put pa a l)
      rw [tag]
      exact ⟨fun hin => if_pos hin, fun hout => if_neg hout⟩
  case canonical =>
    exact ⟨fun pa x => MemSys.wf_setByte _ _ _ h, fun pa l => MemSys.wf_store _ _ _ h,
      fun pa l => State.memOk_physWrite s pa l h, State.memOk_physDw h, State.memOk_zeroLines h,
      State.memOk_writeHome h, State.memOk_writeBack h, State.memOk_evictWhere h, State.memOk_cleanWhere h,
      State.memOk_settle h, State.memOk_settleRange h, State.memOk_l1Store h, State.memOk_l1Load h,
      State.memOk_release h, State.memOk_acquire h, State.memOk_errorRecord h,
      fun t ht _ hbytes => map_ext ht h hbytes⟩
end

section
/-! The acceptance of engine operations (R188, R189, R191, R197): the handle, the place in the engine's order, and the
assignment of a weight buffer. -/
namespace Sys2Proof.Machine

/-- The value of a listed key. -/
theorem mapGet_of_find {α : Type} {d v : α} {m : Map α} {k : Nat} (h : mapFind m k = some v) : mapGet d m k = v := by
  simp only [mapGet, h]

@[simp] theorem State.outer_flushFor (s : State) (key : Nat) (mem : List Span) :
    (s.flushFor key mem).outer = s.outer := State.outer_cleanWhere ..

/-- States that agree outside the memory system have the same cores. -/
theorem State.core_of_outer {s t : State} (h : t.outer = s.outer) (n : Nat) : t.core n = s.core n :=
  (congrArg (State.core · n) h :)

/-- An accepted operation is the last of its core's engine, and neither a warp nor a status changes (R188, R191). -/
theorem State.accept_eq (s : State) (o : EngineOp) :
    ((s.accept o).core (s.block o.block).core).ops = (s.core (s.block o.block).core).ops ++ [o] ∧
      (s.accept o).warps = s.warps ∧ (s.accept o).ops = s.ops := by
  have flushed := s.outer_flushFor o.warp o.kind.foot.mem
  refine ⟨?_, (congrArg State.warps flushed :), (congrArg State.ops flushed :)⟩
  simp only [State.accept, State.core_putCore, if_true, State.core_of_outer flushed]

/-- The state with the handle of a new operation in h[d] of a warp (R189). -/
def State.handled (s : State) (key : Nat) (w : Warp) (d grp fn : Nat) (desc : Option (Nat × Nat × Nat)) : State :=
  { s with
    nextOp := s.nextOp + 1
    ops := mapPut s.ops s.nextOp
      { warp := key, value := handleValue grp fn w.nextSerial, batch := w.batch + 1, desc, grp } }.putWarp key
    ({ w with serial := w.nextSerial }.setH d { value := handleValue grp fn w.nextSerial, uid := s.nextOp })

theorem State.newHandle_eq {s : State} {key : Nat} {w : Warp} (hw : mapFind s.warps key = some w) (d grp fn : Nat)
    (desc : Option (Nat × Nat × Nat)) : s.newHandle key d grp fn desc = (s.nextOp, s.handled key w d grp fn desc) := by
  simp only [State.newHandle, hw]
  rfl

section
variable {en : Env} (hi : en.Issues) (d grp fn : Nat) (desc : Option (Nat × Nat × Nat)) (kind : EngineKind)
  (sregs : List Word) (caps : List Cap)
include hi

/-- An operation that the engine accepts in a state with the issuer's warp, block, queue and count of operations. -/
theorem Env.engineOp_accepted {t : State} (hw : t.warps = en.s.warps) (hb : t.blocks = en.s.blocks)
    (hn : t.nextOp = en.s.nextOp) (ho : (t.core en.block.core).ops = (en.s.core en.block.core).ops) :
    en.Accepted (en.engineOp t d grp fn desc kind sregs caps) d grp fn desc kind := by
  have find : mapFind t.warps en.key = some en.w := hw ▸ hi.2
  have block : (t.handled en.key en.w d grp fn desc).block en.bk = en.block :=
    (congrArg (fun l => (mapFind l en.bk).getD _) hb :)
  have stat : mapGet {} (t.handled en.key en.w d grp fn desc).ops t.nextOp =
      { warp := en.key, value := handleValue grp fn en.w.nextSerial, batch := en.w.batch + 1, desc, grp } :=
    mapGet_of_find ((mapFind_put ..).trans (if_pos rfl))
  simp only [Env.engineOp, State.newHandle_eq find, stat]
  generalize hop : (EngineOp.mk ..) = o
  obtain ⟨ops, warps, stats⟩ := (t.handled en.key en.w d grp fn desc).accept_eq o
  have obk : o.block = en.bk := hop ▸ rfl
  rw [obk, block] at ops
  refine ⟨⟨o, ops.trans (congrArg (· ++ [o]) ho), ?_⟩, ?_, ?_⟩
  · subst hop
    exact ⟨rfl, hn, rfl, rfl, rfl, rfl, rfl, rfl, rfl, rfl⟩
  · rw [warps, ← hn]
    exact (mapFind_put ..).trans (if_pos rfl)
  · rw [stats, ← hn]
    exact (mapFind_put ..).trans (if_pos rfl)

/-- An operation that the engine accepts in the state in which its instruction issued. -/
theorem Env.engineOp_accepted_here : en.Accepted (en.engineOp en.s d grp fn desc kind sregs caps) d grp fn desc kind :=
  en.engineOp_accepted hi d grp fn desc kind sregs caps rfl rfl rfl rfl

end

/-- The assignment of a weight buffer takes the core's next number, and changes nothing but the core's loads (R197). -/
theorem State.loadFor_eq (s : State) (bk : Nat) (v : Word) :
    (s.loadFor bk v).1 = (s.core (s.block bk).core).nextLoad ∧ (s.loadFor bk v).2.warps = s.warps ∧
      (s.loadFor bk v).2.blocks = s.blocks ∧ (s.loadFor bk v).2.nextOp = s.nextOp ∧
      ∀ n, ((s.loadFor bk v).2.core n).ops = (s.core n).ops := by
  refine ⟨rfl, rfl, rfl, rfl, fun n => ?_⟩
  simp only [State.loadFor, State.newLoad, State.core_putCore]
  split
  next h => rw [h]
  next => rfl

end Sys2Proof.Machine
end

section
/-! Checks that pass, as the meanings of the matrix instructions branch on them (R191, R195). -/
namespace Sys2Proof.Machine

/-- A check that passes is not a failed one. -/
theorem not_failed {b : Bool} (h : b = true) : ¬(!b) = true := ne_true_of_eq_false (congrArg (!·) h)

/-- The matrix group is available while rows of the array are left (R217). -/
theorem Env.available {en : Env} (h : (en.s.core en.block.core).mxRows ≠ 0) : ¬en.unavailable = true := fun hu =>
  h (of_decide_eq_true hu)

/-- WLD's fields of word 2 (R197). -/
theorem wldShape_eq (f : Fields) :
    wldShape f = (f.w2.toNat % 16, f.w2.toNat / 16 % 128 + 1, f.w2.toNat / 2048 % 64 + 1) := by
  simp only [wldShape, fld_eq, Nat.reducePow, Nat.div_one]

theorem strideOk_iff {stride rec : Nat} : strideOk stride rec = true ↔ stride % 4 = 0 ∧ rec ≤ stride :=
  decide_eq_true_iff

/-- A WSCL operation is the last of its engine, and changes no warp (R198). -/
theorem Env.wsclOp_accepted (en : Env) (m : Option MatRef) (sregs : List Word) (caps : List Cap) :
    ∃ o, ((en.wsclOp m sregs caps).core en.block.core).ops = (en.s.core en.block.core).ops ++ [o] ∧
      o.kind = .wscl m ∧ o.warp = en.key ∧ o.value = 0 ∧ (en.wsclOp m sregs caps).warps = en.s.warps := by
  have flushed := State.outer_flushFor { en.s with nextOp := en.s.nextOp + 1 } en.key (EngineKind.wscl m).foot.mem
  obtain ⟨ops, warps, -⟩ := State.accept_eq { en.s with nextOp := en.s.nextOp + 1 }
    { uid := en.s.nextOp, warp := en.key, block := en.bk, ctx := en.ctx, slot := en.k, kind := .wscl m
      batch := en.w.batch + 1, words := en.is.words, sregs, caps }
  exact ⟨_, ops, rfl, rfl, rfl, warps⟩

/-- A native instruction whose body is the engine's acceptance of an operation. -/
theorem native_accepts {f : Fields} {s : State} {is : Issue} {body : Env → Res} (h : (s.nat is f).Runs) {d grp fn : Nat}
    {desc : Option (Nat × Nat × Nat)} {kind : EngineKind} (sregs : List Word) (caps : List Cap)
    (hb : body (s.nat is f) = .next ((s.nat is f).engineOp s d grp fn desc kind sregs caps)) :
    ∃ t, native f s body = .next ((s.nat is f).goesOn t) ∧ (s.nat is f).Accepted t d grp fn desc kind :=
  ⟨_, native_next h hb, Env.engineOp_accepted_here h.1.1 ..⟩

end Sys2Proof.Machine
end

section
open Sys2Proof Sys2Proof.Machine

/-- Settles O22: each instruction by its checks in their order, and by what the engine's acceptance leaves. -/
theorem matrixOperationsAreAccepted : Obligations.MatrixOperationsAreAccepted := by
  intro f s is h hm en d core accepts b word
  refine ⟨?wld, ⟨?wscl, ?wsclNone⟩, ?mma, ?msl⟩
  case wld =>
    intro fmt k n m h4 hs hc
    obtain ⟨num, warps, blocks, next, ops⟩ := s.loadFor_eq en.bk (s.nextValue en.key 0 0)
    refine ⟨_, native_next h ?_, en.engineOp_accepted h.1.1 d 0 0 _ (.wld m fmt k n _) [en.sA f, en.sC f]
      [m.cap] warps blocks next (ops _)⟩
    simp only [wldShape_eq]
    refine (if_neg (Env.available hm)).trans ((if_neg (not_failed (strideOk_iff.mpr ⟨h4, hs⟩))).trans ?_)
    rw [hc]
    rfl
  case wscl =>
    intro hc
    obtain ⟨o, ho⟩ := en.wsclOp_accepted (some { cap := b, off := en.sA f, stride := 256, count := 1 }) [en.sA f] [b]
    refine ⟨_, o, native_next h ((if_neg (Env.available hm)).trans ?_), ho⟩
    rw [hc]
  case wsclNone =>
    obtain ⟨o, ho⟩ := en.wsclOp_accepted none [] []
    exact ⟨_, o, native_next h (if_neg (Env.available hm)), ho⟩
  case mma =>
    intro st wfmt k n num ld h' a afmt act topk hv hst hd hp ht ha hc hw hl hdis h4 h5
    have row : fld f.w2 0 12 = word % 4096 := fld_zero ..
    have fmt : fld f.w2 12 4 = afmt := fld_eq ..
    have good : ¬(!(pairing afmt wfmt) ||
        (topk && (intPath wfmt || decide (en.w.topk = 0 ∨ 4095 < en.w.ib + 64 * a.tcol + n - 1))) ||
        !({ a with tcol := if topk then 0 else a.tcol : Pair }.ok (recordLen afmt k (mb f 1)) 4096)) = true := by
      rw [hp, ha]
      cases hk : topk
      · simp
      · obtain ⟨hi, h0, hb⟩ := ht hk
        simp [hi, h0, hb]
    refine native_accepts h [en.w.getS f.a.toNat, en.w.getS (f.a.toNat + 1)] [act.cap]
      ((if_neg (Env.available hm)).trans ?_)
    rw [row, fmt, State.nat_s, if_neg hv, show mapGet {} s.ops h'.uid = st from mapGet_of_find hst, hd]
    refine (if_neg good).trans ?_
    dsimp only
    rw [hc, hw, hl]
    exact (if_neg (not_or.mpr ⟨h4, h5⟩)).trans (if_neg (ne_true_of_eq_false hdis))
  case msl =>
    intro a c k fmt len ra rb hk hk' ha hc hca hcb hw
    have row : fld f.w2 0 12 = word % 4096 := fld_zero ..
    have fmt_eq : fld f.w2 16 4 = fmt := fld_eq ..
    have cap : fld f.w2 12 4 = word / 4096 % 16 := fld_eq ..
    have slices : fld f.w2 20 3 = word / 2 ^ 20 % 8 := fld_eq ..
    refine native_accepts h [en.w.getS f.a.toNat, en.w.getS (f.a.toNat + 1), en.w.getS f.c.toNat,
      en.w.getS (f.c.toNat + 1), en.w.getS (f.c.toNat + 2)] [ra.cap, rb.cap] ((if_neg (Env.available hm)).trans ?_)
    rw [row, fmt_eq, cap, slices]
    have good : ¬(k = 0 ∨ 2 ^ 31 < k ∨ (!a.ok len 64) = true ∨ (!c.ok len 32) = true) := not_or.mpr
      ⟨Nat.one_le_iff_ne_zero.mp hk, not_or.mpr ⟨Nat.not_lt.mpr hk', not_or.mpr ⟨not_failed ha, not_failed hc⟩⟩⟩
    refine (if_neg good).trans ?_
    dsimp only
    rw [hca, hcb, hw]
    rfl

end

section
/-! Checks of the epilogue instructions that pass (R210), and rows that nothing holds (R190, R192). -/
namespace Sys2Proof.Machine

/-- Row scales inside the scratchpad, at an offset of whole words, pass their check (R177, R210). -/
theorem Block.scaleFault_none {b : Block} {off : Word} {n : Nat} (h63 : off.toNat < 2 ^ 63)
    (hn : off.toNat + 4 * n ≤ 4096 * b.spu) (h4 : off.toNat % 4 = 0) : b.scaleFault off n = none := by
  have msb : off.msb = false := BitVec.msb_eq_false_iff_two_mul_lt.mpr (by omega)
  have inside : ¬(off.msb || decide (b.scratchSize < off.toNat + 4 * n)) = true := by
    rw [msb, Bool.false_or, decide_eq_true_eq]
    exact Nat.not_lt.mpr hn
  exact (if_neg inside).trans (if_neg (not_not_intro h4))

/-- The window row of the epilogue group. -/
theorem Env.rowOf_eq (en : Env) (f : Fields) :
    en.rowOf f = (en.sA f + BitVec.ofNat 64 (f.w2.toNat % 4096)).toNat := by
  simp only [Env.rowOf, fld_zero, Nat.reducePow]

/-- Rows and sidebands that nothing holds. -/
theorem Env.withRows_free {en : Env} {rows sides : List Span} {owners : Bool} {go : Unit → Res}
    (h : en.s.accHeld en.key rows sides owners = false) : en.withRows rows sides owners go = go () :=
  if_neg (ne_true_of_eq_false h)

/-- The common part of ATKS.rd and ATKS.wr once its checks have passed (R212). -/
theorem sidebandOp_accepts {f : Fields} {s : State} {is : Issue} (h : (s.nat is f).Runs) (wr : Bool) :
    let en := s.nat is f
    let n := f.w2.toNat % 8192
    let row := (en.sC f).toNat
    let m : MatRef := { cap := en.w.getC f.b.toNat, off := en.sA f, stride := 64, count := n }
    windowFault en.w en.block row n = none → en.memCheck m 64 (if wr then permR else permW) 4 = none →
    ∃ t, sidebandOp wr f s = .next (en.goesOn t) ∧
      en.Accepted t f.d.toNat 2 3 none (.atks (en.w.accBase.toNat + row) n m wr en.w.topk en.w.ib) := by
  intro en n row m hw hc
  have rows : fld f.w2 0 13 = n := fld_zero ..
  refine native_accepts h [en.sA f, en.sC f] [m.cap] ?_
  rw [rows]
  dsimp only
  rw [hc, hw]
  rfl

end Sys2Proof.Machine
end

section
open Sys2Proof Sys2Proof.Machine

/-- Settles O23: each instruction by its checks in their order; ATOPK, which the engine does not run, by the rows that
nothing holds. -/
theorem epilogueOperationsAreAccepted : Obligations.EpilogueOperationsAreAccepted := by
  intro f s is h en accepts word base
  have rows : fld f.w2 12 13 = word / 4096 % 8192 := fld_eq ..
  have low : fld f.w2 0 12 = word % 4096 := fld_zero ..
  refine ⟨?aepi, ?agui, ?atks, ?atopk⟩
  case aepi =>
    intro a fmt size n dst off hr ht h1 h2 h3 h4 hc hs hw
    have code : fld f.w2 12 4 = fmt := fld_eq ..
    have cols : fld f.w2 16 6 = word / 65536 % 64 := fld_eq ..
    have mode : fld f.mod 5 2 = f.mod.toNat / 32 % 4 := fld_eq ..
    have good : ¬(a.rsvd ≠ 0 ∨ a.tcol ≠ 0 ∨ a.count = 0 ∨ 4096 < a.count ∨ a.stride % size ≠ 0 ∨ a.stride < n * size) := by
      omega
    have scales : (if mb f 1 then en.block.scaleFault (en.sC f) a.count else none) = none :=
      if h : mb f 1 then
        let ⟨h63, hn, hmod⟩ := hs h
        (if_pos h).trans (Block.scaleFault_none h63 hn hmod)
      else if_neg h
    refine native_accepts h ([en.w.getS f.a.toNat, en.w.getS (f.a.toNat + 1)] ++ (if mb f 1 then [en.sC f] else []))
      [dst.cap] ?_
    rw [code, cols, mode, low]
    refine (if_neg good).trans ?_
    dsimp only
    rw [hc, scales, hw]
    rfl
  case agui =>
    intro p n row hon hp hw hwp
    have partner : en.partner = some p := (if_pos hon).trans hp
    refine native_accepts h [en.sA f] [] ?_
    rw [rows, Env.rowOf_eq]
    dsimp only
    rw [partner, hw]
    dsimp only
    rw [hwp]
    rfl
  case atks =>
    intro n row m hw
    exact ⟨sidebandOp_accepts h false hw, sidebandOp_accepts h true hw⟩
  case atopk =>
    intro n row hb hw hh
    have topk : fld f.mod 0 4 = f.mod.toNat % 16 := fld_zero ..
    refine native_next h ?_
    rw [rows, Env.rowOf_eq, topk]
    refine (if_neg (Nat.not_lt.mpr hb)).trans ?_
    rw [hw]
    exact Env.withRows_free hh

end

section
/-! The reads of MMAG at its issue, and its checks after them (R190, R200). -/
namespace Sys2Proof.Machine

/-- A native instruction that waits keeps its slot where it is. -/
theorem native_waits {f : Fields} {s t : State} {is : Issue} {x : Wait} {body : Env → Res} (h : (s.nat is f).Runs)
    (hb : body (s.nat is f) = .wait t x) : native f s body = .next ((s.nat is f).waitsOn t x) := by
  rw [native_eq h.1, hb, Env.finish_waits h.2]

section
variable {en : Env} {s : State} {d n : Nat} {va : Word} {go : State → List Byte → Res}

/-- MMAG waits for the earlier operations of its warp that write what it reads (R190). -/
theorem Env.issueRead_held (h : s.readsHeld en.key va.toNat n = true) :
    en.issueRead s d va n go = .wait s (.reads va.toNat n) := if_pos h

/-- Nothing holds the bytes that MMAG reads at its issue, and the engine reads them. -/
def Env.Reads (en : Env) (s : State) (va : Word) (n : Nat) (l : List Byte) (t : State) : Prop :=
  ¬s.readsHeld en.key va.toNat n = true ∧
    (s.flushFor en.key [(va.toNat, n, false)]).engineRead en.block.core en.ctx va n = (.ok l, t)

/-- MMAG goes on with the bytes that it has read. -/
theorem Env.issueRead_ok {t : State} {l : List Byte} (h : en.Reads s va n l t) : en.issueRead s d va n go = go t l := by
  rw [Env.issueRead, if_neg h.1, h.2]

end

/-- The descriptor that MMAG reads. -/
abbrev Env.mmagDesc (en : Env) (f : Fields) : MatRef :=
  { cap := en.w.getC f.b.toNat, off := en.sA f, stride := 64, count := 1 }

/-- The group descriptor in the bytes read (Table 6.5). -/
abbrev GroupDesc.ofBytes (l : List Byte) : GroupDesc := { dw := (bytesDw 8 l).map BitVec.toNat }

/-- The offset vector that a group descriptor names. -/
abbrev Env.mmagVec (en : Env) (g : GroupDesc) : MatRef :=
  { cap := en.w.getC (g.get 1 40 4), off := BitVec.ofNat 64 (g.get 5 0 64), stride := 0, count := 1 }

/-- The bitmap that a group descriptor names. -/
abbrev Env.mmagMap (en : Env) (g : GroupDesc) : MatRef :=
  { cap := en.w.getC (g.get 1 40 4), off := BitVec.ofNat 64 (g.get 6 0 64), stride := 0, count := 1 }

/-- The activations of a number of rows that a group descriptor names. -/
abbrev Env.mmagAct (en : Env) (g : GroupDesc) (total : Nat) : MatRef :=
  { cap := en.w.getC (g.get 1 32 4), off := BitVec.ofNat 64 (g.get 0 0 64), stride := g.get 1 0 32, count := total }

/-- A bitmap of rows is read (R200). -/
abbrev GroupDesc.mapped (g : GroupDesc) (total : Nat) : Prop := bit (g.dw.getD 7 0) 15 = true ∧ total ≠ 0

/-- The checks of MMAG between its offset vector and its bitmap have passed (R200). -/
structure Env.MmagFits (en : Env) (f : Fields) (g : GroupDesc) (offs : List Nat) : Prop where
  rise : ∀ i < g.groups, offs.getD i 0 ≤ offs.getD (i + 1) 0
  act : offs.getD g.groups 0 ≠ 0 → en.memCheck (en.mmagAct g (offs.getD g.groups 0)) g.recs.1 permR 4 = none
  weights : en.groupChecks g (en.w.getC (g.get 1 36 4)) g.groups 0 = none
  map : g.mapped (offs.getD g.groups 0) → en.memCheck (en.mmagMap g) (ceilDiv (offs.getD g.groups 0) 8) permR 4 = none
  window : windowFault en.w en.block (fld f.w2 0 12 + offs.getD 0 0) (offs.getD g.groups 0 - offs.getD 0 0) = none

/-- Offsets that never fall pass their check (R200). -/
theorem offsets_rise {offs : List Nat} {n : Nat} (h : ∀ i < n, offs.getD i 0 ≤ offs.getD (i + 1) 0) :
    ¬((List.range n).any fun i => decide (offs.getD (i + 1) 0 < offs.getD i 0)) = true := by
  simpa using h

/-- An MMAG that the engine accepts with the rows that a test passes. -/
def Env.acceptRows (en : Env) (s : State) (f : Fields) (g : GroupDesc) (offs : List Nat) (valid : Nat → Bool) : State :=
  en.acceptMmag s f g (en.mmagAct g (offs.getD g.groups 0)) (en.w.getC (g.get 1 36 4)) (groupRows offs valid g.groups 0)

/-- MMAG whose checks have passed reads its bitmap, or is accepted with every row. -/
theorem Env.mmagChecks_of_fits {en : Env} {f : Fields} {g : GroupDesc} {offs : List Nat} (hf : en.MmagFits f g offs)
    (s : State) :
    en.mmagChecks s f g offs =
      if g.mapped (offs.getD g.groups 0) then
        en.issueRead s f.d.toNat (en.mmagMap g).base (ceilDiv (offs.getD g.groups 0) 8) fun s l =>
          .next (en.acceptRows s f g offs fun r => (l.getD (r / 8) 0).getLsbD (r % 8))
      else .next (en.acceptRows s f g offs fun _ => true) := by
  obtain ⟨rise, act, weights, map, window⟩ := hf
  unfold Env.mmagChecks
  dsimp only
  simp only [bit_toNat]
  rw [if_neg (offsets_rise rise), ite_eq_left_iff.mpr act, weights, ite_eq_right_iff.mpr map, window]
  rfl

section
variable {f : Fields} {s : State} {is : Issue} (h : (s.nat is f).Runs)
  (hm : (s.core (s.nat is f).block.core).mxRows ≠ 0)
  (hd : (s.nat is f).memCheck ((s.nat is f).mmagDesc f) 64 permR 4 = none)
include h hm hd

/-- MMAG waits for the operations that write its descriptor. -/
theorem exec_mmag_held (hh : s.readsHeld is.warp ((s.nat is f).mmagDesc f).base.toNat 64 = true) :
    exec (.mmag f) s =
      .next ((s.nat is f).waitsOn s (.reads ((s.nat is f).mmagDesc f).base.toNat 64)) := by
  refine native_waits h ((if_neg (Env.available hm)).trans ?_)
  rw [hd]
  exact Env.issueRead_held hh

/-- MMAG with a good descriptor goes on with its offset vector. -/
theorem exec_mmag_vector {s1 s2 : State} {l l2 : List Byte}
    (hr : (s.nat is f).Reads s ((s.nat is f).mmagDesc f).base 64 l s1) (hg : (GroupDesc.ofBytes l).ok = true)
    (hv : (s.nat is f).memCheck ((s.nat is f).mmagVec (.ofBytes l)) (4 * ((GroupDesc.ofBytes l).groups + 1)) permR 4 = none)
    (hr2 : (s.nat is f).Reads s1 ((s.nat is f).mmagVec (.ofBytes l)).base (4 * ((GroupDesc.ofBytes l).groups + 1)) l2 s2) :
    exec (.mmag f) s = .next ((s.nat is f).finish ((s.nat is f).mmagChecks s2 f (.ofBytes l)
      ((chunks 4 ((GroupDesc.ofBytes l).groups + 1) l2).map leNat))) := by
  refine (native_eq h.1).trans (congrArg (fun r => Host.Outcome.next ((s.nat is f).finish r)) ?_)
  refine (if_neg (Env.available hm)).trans ?_
  rw [hd]
  refine (Env.issueRead_ok hr).trans ?_
  dsimp only
  rw [if_neg (not_failed hg), hv]
  exact Env.issueRead_ok hr2

end

end Sys2Proof.Machine
end

section
open Sys2Proof Sys2Proof.Machine

/-- Settles O24: MMAG by its three reads and the checks between them. -/
theorem groupedProductIsAccepted : Obligations.GroupedProductIsAccepted := by
  intro f s s1 s2 s3 is l l2 l3 h hm en desc g ocap wcap vec map offs first total act bitmap held reads hd
  refine ⟨exec_mmag_held h hm hd, fun hr hg hv hr2 hrise hact hgroups hwin => ?_⟩
  have reached := exec_mmag_vector h hm hd hr hg hv hr2
  have fits (hmap : g.mapped total → en.memCheck map (ceilDiv total 8) permR 4 = none) : en.MmagFits f g offs :=
    ⟨hrise, hact, hgroups, hmap, hwin⟩
  refine ⟨fun hb => ?plain, fun hb hmap hr3 => ?mapped⟩
  case plain =>
    rw [reached, Env.mmagChecks_of_fits (fits fun h => absurd h hb), if_neg hb, Env.finish_next _ _ h.2]
    rfl
  case mapped =>
    have read : en.Reads s2 map.base (ceilDiv total 8) l3 s3 := hr3
    rw [reached, Env.mmagChecks_of_fits (fits fun _ => hmap), if_pos hb, Env.issueRead_ok read, Env.finish_next _ _ h.2]
    rfl

end

section
/-! The rendezvous of MMAP (R202, R289). -/
namespace Sys2Proof.Machine

/-- An MMAP goes unpaired, and so does the partner's where it has waited long enough. -/
def Env.alone (en : Env) (pk : Nat) (q : MmapReq) : State :=
  match mapFind (en.s.mmapAlone q).warps pk with
  | some u =>
    match u.waitingMmap with
    | some r => if (en.s.mmapAlone q).mmapOver pk u r then (en.s.mmapAlone q).mmapGiveUp pk else en.s.mmapAlone q
    | none => en.s.mmapAlone q
  | none => en.s.mmapAlone q

section
variable {en : Env} {q : MmapReq} {p : Warp} {pk : Nat} (hk : warpKey en.bk en.w.pod.partner.toNat = pk)
  (hp : mapFind en.s.warps pk = some p)
include hk hp

/-- A partner that waits at an MMAP: the two pair or trap together, or the issuer's goes unpaired. -/
theorem Env.rendezvous_of_waiting {r : MmapReq} (hr : p.waitingMmap = some r) :
    en.rendezvous q =
      if r.seq ≠ q.seq then .next (en.alone pk q)
      else if r.shape = q.shape then .next (en.s.pairMmap r q p.pod.uncond)
      else en.failIn (en.s.takeTrap pk r.issue.slot r.issue.pc { cause := 0x24, lanes := r.mask } false false)
        (0x24, 0) := by
  unfold Env.rendezvous
  dsimp only
  rw [hk, hp]
  dsimp only
  rw [hr]
  rfl

/-- A partner that waits at none: the issuer's MMAP waits for it, or goes unpaired where its number has passed. -/
theorem Env.rendezvous_of_calm (hr : p.waitingMmap = none) (hs : en.Stays en.fall) :
    en.rendezvous q =
      if q.seq.toNat < p.pod.seq.toNat then .next (en.alone pk q) else .wait en.s (.mmap q) := by
  unfold Env.rendezvous
  dsimp only
  rw [hk, hp]
  dsimp only
  rw [hr, if_neg (ne_true_of_eq_false hs)]
  rfl

end

/-- Where a warp waits at an MMAP, the event at the end of its wait sends it on unpaired once the wait is over, and
changes nothing before (R202, R289). -/
theorem exec_mmapRendezvousTimeout {s : State} {key : Nat} {w : Warp} {r : MmapReq} (hw : mapFind s.warps key = some w)
    (hr : w.waitingMmap = some r) :
    exec (.mmapRendezvousTimeout key) s =
      .next (if s.mmapOver key w r then (s.mmapAlone r).finishWait r.issue else s) := by
  have givesUp : s.mmapGiveUp key = (s.mmapAlone r).finishWait r.issue := by
    simp only [State.mmapGiveUp, hw, hr]
  change execMmapRendezvousTimeout key s = _
  simp only [execMmapRendezvousTimeout, hw, hr, givesUp]

end Sys2Proof.Machine
end

section
open Sys2Proof Sys2Proof.Machine

/-- Settles O25: MMAP by its checks, which end in the rendezvous, and by what the partner does there. -/
theorem pairedProductMeetsItsPartner : Obligations.PairedProductMeetsItsPartner := by
  refine ⟨?mmap, fun key s w r hw hr => ?timeout⟩
  case mmap =>
    intro f s is p h hm hon hidle en a c word afmt wfmt k act w q hpair ha hc hca hcw hwin hp pk
    have row : fld f.w2 0 12 = word % 4096 := fld_zero ..
    have cap : fld f.w2 12 4 = word / 4096 % 16 := fld_eq ..
    have aCode : fld f.w2 16 4 = afmt := fld_eq ..
    have wCode : fld f.w2 20 4 = wfmt := fld_eq ..
    have depth : fld f.w2 24 7 + 1 = k := congrArg (· + 1) (fld_eq ..)
    have met : exec (.mmap f) s = .next (en.finish (en.rendezvous q)) := by
      refine (native_eq h.1).trans (congrArg (fun r => Host.Outcome.next (en.finish r)) ?_)
      dsimp only
      split
      next r hr => exact absurd hr (hidle r)
      next =>
      rw [if_neg (Env.available hm), if_neg (not_failed hon), row, cap, aCode, wCode, depth]
      have good : ¬(!(pairing afmt wfmt) || !(a.ok (recordLen afmt k (mb f 1)) 4096) ||
          !(c.ok (recordLen wfmt k false) 64)) = true := by
        rw [hpair, ha, hc]
        decide
      refine (if_neg good).trans ?_
      rw [hca, hcw, hwin]
      rfl
    refine ⟨fun r hr hq => ⟨fun hs => ?_, fun hs => ?_⟩, ?_, fun hr hq => ?_⟩
    · rw [met, Env.rendezvous_of_waiting rfl hp hr, if_neg (not_not_intro hq), if_pos hs, Env.finish_next _ _ h.2]
      rfl
    · rw [met, Env.rendezvous_of_waiting rfl hp hr, if_neg (not_not_intro hq), if_neg hs]
      rfl
    · rintro (⟨r, hr, hq⟩ | ⟨hr, hq⟩)
      · rw [met, Env.rendezvous_of_waiting rfl hp hr, if_pos hq, Env.finish_next _ _ h.2]
        rfl
      · rw [met, Env.rendezvous_of_calm rfl hp hr h.2, if_pos hq, Env.finish_next _ _ h.2]
        rfl
    · rw [met, Env.rendezvous_of_calm rfl hp hr h.2, if_neg (Nat.not_lt.mpr hq), Env.finish_waits h.2]
      rfl
  case timeout =>
    rw [exec_mmapRendezvousTimeout hw hr]
    refine ⟨fun ho => by rw [if_pos ho], fun hc => ?_, fun ho => by rw [if_neg (ne_true_of_eq_false ho)]⟩
    rw [State.mmapOver, decide_eq_true hc, Bool.true_or]

end

section
/-! Accumulator banks, windows and rows (R206 to R208). -/
namespace Sys2Proof.Machine

/-- What a key reads as after the entries of a range are removed. -/
theorem mapGet_clear {α : Type} (d : α) (m : Map α) (lo n k : Nat) :
    mapGet d (mapClear m lo n) k = if lo ≤ k ∧ k < lo + n then d else mapGet d m k := by
  simp only [mapGet, mapClear, mapFind_keep]
  by_cases h : lo ≤ k ∧ k < lo + n
  · simp [h]
  · simp [h]

/-- Rows after the rows of a range are zeroed. -/
theorem Block.accRow_clearRows (b : Block) (row n r : Nat) :
    (b.clearRows row n).accRow r = if row ≤ r ∧ r < row + n then zeroLanes else b.accRow r := mapGet_clear ..

/-- Sidebands after those of a range are emptied. -/
theorem Block.sideRow_clearRows (b : Block) (row n r : Nat) :
    (b.clearRows row n).sideRow r = if row ≤ r ∧ r < row + n then noSide else b.sideRow r := mapGet_clear ..

/-- Banks below 64 that are all in the state asked for pass their check (R206). -/
theorem Env.bankFault_none {en : Env} {a n : Nat} {want : Bool} (h : a + n ≤ 64)
    (hb : ∀ i < n, en.block.banks.getLsbD (a + i) = want) : en.bankFault a n want = none := by
  have all : ((List.range n).find? fun i => en.block.hasBank (a + i) != want) = none :=
    List.find?_eq_none.mpr fun i hi => by simp [Block.hasBank, hb i (List.mem_range.mp hi)]
  rw [Env.bankFault, if_neg (Nat.not_lt.mpr h), all]
  rfl

/-- A block without rows in error reads none. -/
theorem Block.tornRow_none {b : Block} (h : b.torn = []) (unit lo hi : Nat) : b.tornRow unit lo hi = none := by
  simp [Block.tornRow, h]

end Sys2Proof.Machine
end

section
open Sys2Proof Sys2Proof.Machine

/-- Settles O26: each instruction by its checks, by the rows that nothing holds, and by what clearing rows leaves. -/
theorem accumulatorInstructionsComplete : Obligations.AccumulatorInstructionsComplete := by
  intro f s is h en b base word
  have count : bankCount f = word % 128 := fld_zero ..
  have rows : fld f.w2 12 13 = word / 4096 % 8192 := fld_eq ..
  refine ⟨?banks, ?awin, ?azero, ?lanes, fun b row n r => ⟨b.accRow_clearRows row n r, b.sideRow_clearRows row n r⟩⟩
  case banks =>
    intro a n m ha
    refine ⟨fun free room => native_next h ?_, fun owned hh => native_next h ?_⟩
    · dsimp only
      rw [count, Env.bankFault_none ha free]
      refine if_neg (Nat.not_lt.mpr ?_)
      rw [popcount_toNat]
      exact room
    · dsimp only
      rw [count, Env.bankFault_none ha owned]
      exact Env.withRows_free hh
  case awin =>
    intro t k h0 hk ht hhi hlo
    have good : ¬(warpId is.warp ≠ 0 ∨ b.wpb ≤ k ∨ (mapFind s.warps (warpKey en.bk k)).isNone ∨ 4096 < (en.sC f).toNat ∨
        (en.sC f).toNat < (en.sB f).toNat) :=
      not_or.mpr ⟨not_not_intro h0, not_or.mpr ⟨Nat.not_le.mpr hk, not_or.mpr ⟨by simp [ht],
        not_or.mpr ⟨Nat.not_lt.mpr hhi, Nat.not_lt.mpr hlo⟩⟩⟩⟩
    refine native_next h ((if_neg good).trans (congrArg Res.next ((State.modWarp_of_find ht _).trans ?_)))
    rfl
  case azero =>
    intro n row hw hh
    refine native_next h ?_
    dsimp only
    rw [rows, Env.rowOf_eq, hw]
    exact Env.withRows_free hh
  case lanes =>
    intro row hw
    refine ⟨fun hh ht => native_done h ?_, fun hh => native_next h ?_⟩
    · have window : windowFault en.w en.block (en.laneRow f) 1 = none := hw
      rw [window]
      refine (Env.withRows_free hh).trans ?_
      rw [Block.tornRow_none ht]
      rfl
    · have window : windowFault en.w en.block (en.laneRow f) 1 = none := hw
      rw [window]
      exact Env.withRows_free hh
end

section
/-! Handles, batches and the failures that MWAIT.b reports (R213 to R215). -/
namespace Sys2Proof.Machine

/-! ### The least value of some failures -/

/-- The least of a value and those of some failures is one of them, and no greater than any. -/
theorem foldl_least (l : List (Word × Word)) (a : Word) :
    let r := l.foldl (fun a x => if x.1 < a then x.1 else a) a
    (r = a ∨ ∃ v ∈ l, r = v.1) ∧ r.toNat ≤ a.toNat ∧ ∀ x ∈ l, r.toNat ≤ x.1.toNat := by
  induction l generalizing a with
  | nil => simp
  | cons y l ih =>
    obtain ⟨hmem, hle, hall⟩ := ih (if y.1 < a then y.1 else a)
    have least : (if y.1 < a then y.1 else a).toNat ≤ a.toNat ∧ (if y.1 < a then y.1 else a).toNat ≤ y.1.toNat := by
      split
      next h => exact ⟨(BitVec.lt_def.mp h).le, le_rfl⟩
      next h => exact ⟨le_rfl, Nat.not_lt.mp fun hlt => h (BitVec.lt_def.mpr hlt)⟩
    refine ⟨?_, hle.trans least.1, fun x hx => ?_⟩
    · rcases hmem with h | ⟨v, hv, h⟩
      · by_cases hy : y.1 < a
        · exact .inr ⟨y, List.mem_cons_self, h.trans (if_pos hy)⟩
        · exact .inl (h.trans (if_neg hy))
      · exact .inr ⟨v, List.mem_cons_of_mem _ hv, h⟩
    · rcases List.mem_cons.mp hx with rfl | hx
      · exact hle.trans least.2
      · exact hall x hx

/-- The value that a report of failures names is the least of them (R214). -/
theorem leastValue_spec {l : List (Word × Word)} (h : l ≠ []) :
    ∃ v ∈ l, (∀ x ∈ l, v.1.toNat ≤ x.1.toNat) ∧ leastValue l = v.1 := by
  obtain ⟨hmem, -, hall⟩ := foldl_least l (BitVec.allOnes 64)
  obtain ⟨y, hy⟩ := List.exists_mem_of_ne_nil l h
  obtain ⟨v, hv, hr⟩ : ∃ v ∈ l, leastValue l = v.1 := by
    rcases hmem with hr | hr
    · have top : (BitVec.allOnes 64).toNat ≤ y.1.toNat := hr ▸ hall y hy
      refine ⟨y, hy, hr.trans (BitVec.eq_of_toNat_eq (le_antisymm ?_ ?_))⟩
      · exact top
      · rw [BitVec.toNat_allOnes]
        have := y.1.isLt
        omega
    · exact hr
  exact ⟨v, hv, fun x hx => hr ▸ hall x hx, hr⟩

/-! ### What MWAIT.b reports -/

section
variable {w : Warp} {b : Word}

theorem Warp.report_none (hd : (w.failures.filter fun x => decide (x.2.toNat ≤ b.toNat)) = [])
    (ho : w.ovlo = 0 ∨ b.toNat < w.ovlo.toNat) : w.report b = (none, w) := by
  have none_over : ¬(w.ovlo ≠ 0 ∧ w.ovlo ≤ b) := fun ⟨h0, hle⟩ =>
    ho.elim h0 fun hlt => Nat.not_lt.mpr (BitVec.le_def.mp hle) hlt
  simp only [BitVec.le_def] at none_over
  simp only [Warp.report, BitVec.le_def, hd]
  exact if_neg none_over

theorem Warp.report_overflow (hd : (w.failures.filter fun x => decide (x.2.toNat ≤ b.toNat)) = []) (h0 : w.ovlo ≠ 0)
    (hb : w.ovlo.toNat ≤ b.toNat) : w.report b = (some (BitVec.allOnes 64),
      if w.ovhi.toNat ≤ b.toNat then { w with ovlo := 0, ovhi := 0 } else { w with ovlo := b + 1 }) := by
  simp only [Warp.report, BitVec.le_def, hd]
  exact if_pos ⟨h0, hb⟩

theorem Warp.report_failures (hd : (w.failures.filter fun x => decide (x.2.toNat ≤ b.toNat)) ≠ []) :
    w.report b = (some (leastValue (w.failures.filter fun x => decide (x.2.toNat ≤ b.toNat))),
      { w with failures := w.failures.filter fun x => decide (b.toNat < x.2.toNat) }) := by
  obtain ⟨y, r, hl⟩ := List.exists_cons_of_ne_nil hd
  simp only [Warp.report, BitVec.le_def, hl, ← decide_not, Nat.not_le]

end

/-! ### The handle instructions -/

section
variable {en : Env} {o : Out} {r : Res} (ho : o = .next (en.finish r))
include ho

/-- An outcome whose instruction completes. -/
theorem Env.ends_next {t : State} (hs : en.Stays en.fall) (e : r = .next t) : o = .next (en.goesOn t) := by
  rw [ho, e, Env.finish_next _ _ hs]

/-- An outcome whose instruction waits. -/
theorem Env.ends_waits {t : State} {x : Wait} (hs : en.Stays en.fall) (e : r = .wait t x) : o = .next (en.waitsOn t x) := by
  rw [ho, e, Env.finish_waits hs]

/-- An outcome whose instruction traps. -/
theorem Env.ends_trap {t : State} {x : Trap} (e : r = .trap t x) : o = .next (en.raise t x) := by
  rw [ho, e]
  rfl

end

/-- The status word of Table 6.12. -/
theorem OpStat.word_eq (x : OpStat) : x.word =
    x.state + 2 ^ 8 * x.cause + (if x.overflow then 2 ^ 16 else 0) + 2 ^ 32 * (x.progress % 2 ^ 32) := by
  rw [OpStat.word]
  cases x.overflow <;> rfl

section
variable {f : Fields} {s : State} {is : Issue} (h : (s.nat is f).Runs)
include h

/-- What MWAIT.b answers with a report, the one effect of a faulting one. -/
def Env.reported (en : Env) (x : Option Word × Warp) : Res :=
  match x.1 with
  | some v => .trap (en.put x.2) { cause := 0x26, addr := v, lanes := en.e }
  | none => .next en.s

/-- The batch up to which MWAIT.b waits: no higher than the batches that are closed (R214). -/
def Env.waitedBatch (en : Env) (f : Fields) : Word :=
  if (en.sA f).toNat < en.w.batch.toNat then en.sA f else en.w.batch

/-- MWAIT.b ends as the batches up to its own stand. -/
theorem exec_mwaitB :
    let en := s.nat is f
    let b := en.waitedBatch f
    exec (.mwaitB f) s = .next (en.finish (
      if s.batchOpen is.warp b then .wait s (.batch b)
      else en.reported (en.w.report b))) := by
  intro en b
  have hb : (if en.sA f < en.w.batch then en.sA f else en.w.batch) = b := by
    simp only [BitVec.lt_def]
    rfl
  refine (native_eq h.1).trans (congrArg (fun r => Host.Outcome.next (en.finish r)) ?_)
  dsimp only
  rw [hb]
  rfl

/-- MWAIT of a handle ends as the operation that it names stands (R214). -/
theorem exec_mwait {x : OpStat} (hx : (s.nat is f).statOf ((s.nat is f).w.getH f.a.toNat) = some x) :
    let en := s.nat is f
    let hA := en.w.getH f.a.toNat
    exec (.mwait f) s = .next (en.finish (
      if x.open then .wait s (.handle hA.uid true) else if x.state = 5 then en.fail 0x26 hA.value else .next s)) := by
  refine (native_eq h.1).trans (congrArg (fun r => Host.Outcome.next ((s.nat is f).finish r)) ?_)
  dsimp only
  rw [hx]
  rfl

/-- MWAIT of a handle that names no operation goes on. -/
theorem exec_mwait_none (hx : (s.nat is f).statOf ((s.nat is f).w.getH f.a.toNat) = none) :
    exec (.mwait f) s = .next ((s.nat is f).goesOn s) := by
  refine native_next h ?_
  dsimp only
  rw [hx]
  rfl

/-- HTEST reads the status of the operation that a handle names, or 15 (R215). -/
theorem exec_htest {n : Nat} {o : Option OpStat} (hx : (s.nat is f).statOf ((s.nat is f).w.getH f.a.toNat) = o)
    (hn : o.elim 15 OpStat.word = n) :
    exec (.htest f) s = .next ((s.nat is f).gives ((s.nat is f).w.setS f.d.toNat (BitVec.ofNat 64 n))) := by
  refine native_done h ?_
  dsimp only
  rw [hx, ← hn]
  cases o <;> rfl

/-- HCANCEL acts on the operation that it finds (R215). -/
theorem exec_hcancel :
    let en := s.nat is f
    let hA := en.w.getH f.a.toNat
    let found := (s.core en.block.core).ops.find? fun o => decide (hA.value ≠ 0 ∧ o.uid = hA.uid) && o.cancellable
    (found = none → exec (.hcancel f) s = .next (en.gives (en.w.setS f.d.toNat 1))) ∧
      ∀ o, found = some o → exec (.hcancel f) s =
        .next (en.goesOn ((s.opEnd en.block.core o 4 0).modWarp is.warp fun w => w.setS f.d.toNat 0)) := by
  refine ⟨fun hf => native_done h ?_, fun o ho => native_next h ?_⟩
  · dsimp only
    rw [State.nat_s, hf]
  · dsimp only
    rw [State.nat_s, ho]
    rfl

end

end Sys2Proof.Machine
end

section
/-! Pods (R201). -/
namespace Sys2Proof.Machine

/-- The two warps of a POD form the pod, each in the role that it asks for: the partner's POD completes, and those that
wait for either of the two trap. -/
def Env.podFormed (en : Env) (t : Nat) (uncond role : Bool) (js : Issue) : State :=
  let s := en.s.modWarp en.key fun w => { w with pod := { on := true, uncond, partner := BitVec.ofNat 6 t } }
  let s := s.modWarp (warpKey en.bk t) fun w =>
    { w with pod := { on := true, uncond := role, partner := BitVec.ofNat 6 (warpId en.key) } }
  (s.finishWait js).podTaken en.bk (warpId en.key) t

/-- What POD answers where the warp that it names is in no pod: it waits for a warp that does not wait for the issuer,
traps with one that waits for it in the same role, and joins one in the other role. -/
def Env.podAnswer (en : Env) (t : Nat) (uncond : Bool) : Option (Nat × Bool × Issue × Word) → Res
  | none => .wait en.s (.pod t uncond en.is en.e)
  | some (q, role, js, m) =>
    if q ≠ warpId en.key then .wait en.s (.pod t uncond en.is en.e)
    else if role = uncond then
      en.failIn (en.s.takeTrap (warpKey en.bk t) js.slot js.pc { cause := 0x23, lanes := m } false false) (0x23, 0)
    else .next (en.podFormed t uncond role js)

section
variable {f : Fields} {s : State} {is : Issue} (h : (s.nat is f).Runs) (uncond : Bool)
include h

/-- POD with a warp that cannot be a partner, or of a warp in a pod, traps. -/
theorem podJoin_bad (hb : (s.nat is f).block.wpb ≤ ((s.nat is f).sA f).toNat ∨
      ((s.nat is f).sA f).toNat = warpId is.warp ∨ (s.nat is f).w.pod.on = true) :
    podJoin uncond f s = .next ((s.nat is f).raise s { cause := 0x23, lanes := (s.nat is f).e }) :=
  native_fail h.1 (if_pos hb)

variable (hg : ¬((s.nat is f).block.wpb ≤ ((s.nat is f).sA f).toNat ∨
  ((s.nat is f).sA f).toNat = warpId is.warp ∨ (s.nat is f).w.pod.on = true))
include hg

/-- POD with a warp that is not resident traps. -/
theorem podJoin_absent (hp : mapFind s.warps (warpKey (s.nat is f).bk ((s.nat is f).sA f).toNat) = none) :
    podJoin uncond f s = .next ((s.nat is f).raise s { cause := 0x23, lanes := (s.nat is f).e }) := by
  refine native_fail h.1 ((if_neg hg).trans ?_)
  rw [State.nat_s, hp]

variable {p : Warp} (hp : mapFind s.warps (warpKey (s.nat is f).bk ((s.nat is f).sA f).toNat) = some p)
include hp

/-- POD with a warp that is in a pod traps. -/
theorem podJoin_taken (hon : p.pod.on = true) :
    podJoin uncond f s = .next ((s.nat is f).raise s { cause := 0x23, lanes := (s.nat is f).e }) := by
  refine native_fail h.1 ((if_neg hg).trans ?_)
  rw [State.nat_s, hp]
  exact if_pos hon

/-- POD with a warp that is in no pod answers as that warp waits. -/
theorem podJoin_free (hoff : p.pod.on = false) :
    podJoin uncond f s =
      .next ((s.nat is f).finish ((s.nat is f).podAnswer ((s.nat is f).sA f).toNat uncond p.waitingPod)) := by
  refine (native_eq h.1).trans (congrArg (fun r => Host.Outcome.next ((s.nat is f).finish r)) ((if_neg hg).trans ?_))
  rw [State.nat_s, hp]
  refine (if_neg (ne_true_of_eq_false hoff)).trans ?_
  rw [show s.kindDiffers (s.nat is f).ctx (s.nat is f).is.fr (s.nat is f).is.pc (s.nat is f).fall = false from h.2]
  rcases p.waitingPod with _ | ⟨q, role, js, m⟩ <;> rfl

end

end Sys2Proof.Machine
end

section
open Sys2Proof Sys2Proof.Machine

/-- Settles O27: the handle instructions by their equations, MWAIT.b by its report, and the pods by what the named warp
waits for. -/
theorem handleAndPodInstructionsComplete : Obligations.HandleAndPodInstructionsComplete := by
  refine ⟨fun f s is h => ?handles, fun f s is h => ?pods⟩
  case handles =>
    intro en d hA core b open_ due can
    have held : s.batchOpen is.warp b = true ↔ ∃ o ∈ (s.core core).ops, open_ o := by
      simp only [State.batchOpen, List.any_eq_true, decide_eq_true_eq, BitVec.le_def]
      rfl
    have mwaitB := exec_mwaitB h
    refine ⟨native_done h rfl, native_done h rfl, fun h0 => ?unnamed, fun x hv hx => ?named,
      fun ho => Env.ends_waits mwaitB h.2 (if_pos (held.mpr ho)), fun ho => ?complete,
      fun hn => (exec_hcancel h).1 ?none, (exec_hcancel h).2⟩
    case unnamed =>
      have stat : en.statOf hA = none := if_pos h0
      exact ⟨exec_mwait_none h stat, exec_htest h stat rfl⟩
    case named =>
      have stat : en.statOf hA = some x := (if_neg hv).trans hx
      have mwait := exec_mwait h stat
      have closed (h1 : 1 < x.state) : ¬x.open = true := fun h => Nat.not_le.mpr h1 (of_decide_eq_true h)
      exact ⟨fun h1 => Env.ends_waits mwait h.2 (if_pos (decide_eq_true h1)),
        fun h5 => Env.ends_trap mwait ((if_neg (closed (by omega))).trans (if_pos h5)),
        fun h1 h5 => Env.ends_next mwait h.2 ((if_neg (closed h1)).trans (if_neg h5)),
        exec_htest h stat x.word_eq⟩
    case complete =>
      have free : ¬s.batchOpen is.warp b = true := fun hb =>
        let ⟨o, hmem, hopen⟩ := held.mp hb
        ho o hmem hopen
      refine ⟨fun hd ho => Env.ends_next mwaitB h.2 ((if_neg free).trans (congrArg en.reported (Warp.report_none hd ho))),
        fun hd h0 hb => Env.ends_trap mwaitB ((if_neg free).trans (congrArg en.reported (Warp.report_overflow hd h0 hb))),
        fun hd => ?_⟩
      obtain ⟨v, hv, hmin, hleast⟩ := leastValue_spec hd
      refine ⟨v, hv, hmin, Env.ends_trap mwaitB ((if_neg free).trans ?_)⟩
      rw [← hleast]
      exact congrArg en.reported (Warp.report_failures hd)
    case none =>
      refine List.find?_eq_none.mpr fun o ho => ?_
      simpa [can, and_assoc] using hn o ho
  case pods =>
    intro en t me pk bad joins
    have pods (i : Instr) (uncond : Bool) (hi : exec i s = podJoin uncond f s) : joins i uncond := by
      have good (h1 : t < en.block.wpb) (h2 : t ≠ me) (h3 : en.w.pod.on = false) :
          ¬(en.block.wpb ≤ t ∨ t = me ∨ en.w.pod.on = true) :=
        not_or.mpr ⟨Nat.not_le.mpr h1, not_or.mpr ⟨h2, ne_true_of_eq_false h3⟩⟩
      refine ⟨fun hb => hi.trans (podJoin_bad h uncond hb),
        fun h1 h2 h3 hp => hi.trans (podJoin_absent h uncond (good h1 h2 h3) hp),
        fun h1 h2 h3 p hp hon => hi.trans (podJoin_taken h uncond (good h1 h2 h3) hp hon),
        fun h1 h2 h3 p hp hoff => ?_⟩
      have answers := hi.trans (podJoin_free h uncond (good h1 h2 h3) hp hoff)
      refine ⟨fun hw => Env.ends_waits answers h.2 (congrArg _ hw),
        fun q u js m hw hq => Env.ends_waits answers h.2 ((congrArg _ hw).trans (if_pos hq)),
        fun js m hw => Env.ends_trap answers ((congrArg _ hw).trans ((if_neg (not_not_intro rfl)).trans (if_pos rfl))),
        fun js m hw => Env.ends_next answers h.2
          ((congrArg _ hw).trans ((if_neg (not_not_intro rfl)).trans (if_neg (Bool.not_ne_self uncond))))⟩
    refine ⟨pods _ false rfl, pods _ true rfl, fun hon => native_next h (if_pos hon),
      fun hoff => native_fail h.1 (if_neg (ne_true_of_eq_false hoff))⟩

end

section
/-! What the device's own writes of memory leave: its tables, records, health blocks and scrubs (R309, R353, R396, R398). -/
namespace Sys2Proof.Machine

/-- The machine without what a write at the home slices, an error record and an owner entry can change. -/
def State.steady (s : State) : State :=
  { s with
    mem := {}, free := 0, arn := {}, health := { tripped := s.health.tripped }
    prot := { husks := s.prot.husks, keys := s.prot.keys, scrubs := s.prot.scrubs } }

section
variable (s : State)

@[simp] theorem State.steady_arn (a : Arnal) : { s with arn := a }.steady = s.steady := rfl
@[simp] theorem State.steady_putOwner (f : Nat) (o : Owner) : (s.putOwner f o).steady = s.steady := rfl
@[simp] theorem State.steady_cleanLines (a n : Nat) : (s.cleanLines a n).steady = s.steady := rfl
@[simp] theorem State.steady_breakLine (u : Nat) : (s.breakLine u).steady = s.steady := rfl
@[simp] theorem State.steady_dropCopies (f : Nat) : (s.dropCopies f).steady = s.steady := rfl

@[simp] theorem State.steady_trimL2 : s.trimL2.steady = s.steady :=
  s.trimL2_reading State.steady State.steady_cleanLines

@[simp] theorem State.steady_put (a : Nat) (l : List Byte) : (s.put a l).steady = s.steady := by
  unfold State.put
  split <;> rfl

@[simp] theorem State.steady_putHome (a : Nat) (l : List Byte) : (s.putHome a l).steady = s.steady := by
  unfold State.putHome
  split
  · rfl
  · rw [State.steady_trimL2, State.steady_put]

@[simp] theorem State.steady_ringWrite (a : Nat) (l : List Byte) : (s.ringWrite a l).steady = s.steady :=
  (State.steady_putHome _ _ _).trans (foldl_keeps State.steady_breakLine s _)

@[simp] theorem State.steady_errorRecord (cls code ctx : Nat) (p : Option (Nat × BitVec 32 × BitVec 32)) (d0 d1 : Word) :
    (s.errorRecord cls code ctx p d0 d1).steady = s.steady := by
  unfold State.errorRecord
  dsimp only
  split
  · rfl
  · generalize hr : s.ringWrite _ _ = r
    have h : r.steady = s.steady := hr ▸ State.steady_ringWrite ..
    exact h

@[simp] theorem State.steady_memError (a : Nat) (e : Bool) : (s.memError a e).steady = s.steady := by
  unfold State.memError
  exact (State.steady_errorRecord ..).trans rfl

@[simp] theorem State.steady_sealError (a h : Nat) (e : Bool) : (s.sealError a h e).steady = s.steady := by
  unfold State.sealError
  rw [State.steady_memError, State.steady_errorRecord]

@[simp] theorem State.steady_openLine (u : Nat) : (s.openLine u).steady = s.steady := by
  unfold State.openLine
  split
  · rfl
  · rw [State.steady_breakLine, State.steady_sealError]

@[simp] theorem State.steady_physWrite (a : Nat) (l : List Byte) : (s.physWrite a l).steady = s.steady := by
  unfold State.physWrite
  split
  · rfl
  · exact (State.steady_putHome _ _ _).trans (foldl_keeps State.steady_openLine s _)

@[simp] theorem State.steady_spoil (sec : Nat) (bad : Bool) : (s.spoil sec bad).steady = s.steady := by
  cases bad <;> rfl

@[simp] theorem State.steady_zeroLines (a n : Nat) : (s.zeroLines a n).steady = s.steady :=
  foldl_keeps (fun t e => t.steady_spoil e.1 e.2) _ _

@[simp] theorem State.steady_retireFrame (f : Nat) : (s.retireFrame f).steady = s.steady := by
  unfold State.retireFrame
  split
  · rw [State.steady_errorRecord, State.steady_putOwner]
  · rfl

@[simp] theorem State.steady_scrubOne (f : Nat) : (s.scrubOne f).steady = s.steady := by
  unfold State.scrubOne
  refine (State.steady_retireFrame ..).trans ?_
  exact (State.steady_zeroLines (s.dropCopies f) _ _).trans (s.steady_dropCopies f)

@[simp] theorem State.steady_writeReceipt (x : Scrub) (cold : Bool) : (s.writeReceipt x cold).steady = s.steady := by
  unfold State.writeReceipt
  split
  · rfl
  · exact State.steady_physWrite ..

@[simp] theorem State.steady_writeHealth (x : Sensors) : (s.writeHealth x).steady = s.steady := by
  unfold State.writeHealth
  rw [State.steady_physWrite, State.steady_physWrite]
  rfl

end

end Sys2Proof.Machine
end

section
/-! The events of the engines and the self-test (R190, R217, R397). -/
namespace Sys2Proof.Machine

/-! ### Start and end -/

/-- An operation that has a cause to fail ends as it starts (R199, R203, R217). -/
theorem exec_engineOperationStart_fails {s : State} {core op c : Nat} {o : EngineOp} (ho : s.engineIs core op false = some o)
    (hc : s.startCause core o = some c) : exec (.engineOperationStart core op) s = .next (s.opEnd core o 5 c) := by
  change execEngineOperationStart core op s = _
  unfold execEngineOperationStart
  rw [ho]
  dsimp only
  rw [hc]

/-- An uncorrectable error of the column scales fails an operation that reads them (R396). -/
theorem exec_engineOperationStart_torn {s : State} {core op row : Nat} {o : EngineOp} (ho : s.engineIs core op false = some o)
    (hc : s.startCause core o = none) (hr : s.tornScale o = some row) :
    exec (.engineOperationStart core op) s = .next ((s.sramError core 0 row).opEnd core o 5 6) := by
  change execEngineOperationStart core op s = _
  unfold execEngineOperationStart
  rw [ho]
  dsimp only
  rw [hc, hr]

/-- An operation starts with the column scales of its warp (R190, R197). -/
theorem exec_engineOperationStart_runs {s : State} {core op : Nat} {o : EngineOp} {w : Warp}
    (ho : s.engineIs core op false = some o) (hc : s.startCause core o = none) (hr : s.tornScale o = none)
    (hw : mapFind s.warps o.warp = some w) :
    exec (.engineOperationStart core op) s =
      .next ((s.modEngineOp core op fun o => { o with running := true, colScale := w.colScale }).modStat op fun x =>
        { x with state := 1 }) := by
  change execEngineOperationStart core op s = _
  unfold execEngineOperationStart
  rw [ho]
  dsimp only
  rw [hc, hr, hw]

/-- An operation whose units are done ends, unpaired or complete (R55, R202). -/
theorem exec_engineOperationComplete_ends {s : State} {core op : Nat} {o : EngineOp}
    (ho : s.engineIs core op true = some o) (hp : o.kind.total ≤ o.progress) :
    exec (.engineOperationComplete core op) s = .next (s.opEnd core o (if o.kind.unpaired then 3 else 2) 0) := by
  change execEngineOperationComplete core op s = _
  unfold execEngineOperationComplete
  rw [ho]
  exact congrArg Host.Outcome.next (if_pos hp)

/-! ### The self-test -/

theorem State.core_of_steady {s t : State} (h : t.steady = s.steady) (n : Nat) : t.core n = s.core n :=
  (congrArg (State.core · n) h :)

/-- The records of a fenced sub-array change nothing but memory and what belongs to it (R397). -/
theorem State.steady_suspectRecords (s : State) (l : Map (Nat × Nat × Nat)) : (s.suspectRecords l).steady = s.steady :=
  foldl_keeps (fun t _ => t.steady_errorRecord ..) s l

/-- The core of a fenced sub-array (R217). -/
def Core.fenced (c : Core) (q : Nat) : Core :=
  { c with mxFence := c.mxFence ||| BitVec.ofNat 4 (2 ^ q), mxRows := c.mxRows - 32 }

/-- Without operations there is none to fail (R217). -/
theorem State.failQueue_nil {s : State} {core : Nat} (h : (s.core core).ops = []) : s.failQueue core = s := by
  rw [State.failQueue, h]
  rfl

/-- The machine with a sub-array fenced and the records of the fence written (R217, R397). -/
def State.fenceNoted (s : State) (core q : Nat) : State :=
  let c := (s.core core).fenced q
  ((s.putCore core c).errorRecord 0x05 0x01 0xFFF none (BitVec.ofNat 64 (core + 2 ^ 12 * q + 2 ^ 16 * c.mxFence.toNat))
    c.testClk).suspectRecords c.testSerials

theorem State.fence_eq (s : State) (core q : Nat) :
    s.fence core q = if (s.core core).mxRows - 32 = 0 then
      ((s.fenceNoted core q).failQueue core).errorRecord 0x05 0x03 0xFFF none (BitVec.ofNat 64 core) 0
    else s.fenceNoted core q := by
  unfold State.fence State.fenceNoted Core.fenced
  rfl

theorem State.steady_fenceNoted (s : State) (core q : Nat) :
    (s.fenceNoted core q).steady = (s.putCore core ((s.core core).fenced q)).steady := by
  rw [State.fenceNoted, State.steady_suspectRecords, State.steady_errorRecord]

/-- A fence sets its bit and takes 32 rows. While rows are left or no operation is queued, nothing else of the machine
changes but records (R217). -/
theorem State.steady_fence {s : State} {core : Nat} (q : Nat)
    (hr : (s.core core).mxRows - 32 ≠ 0 ∨ (s.core core).ops = []) :
    (s.fence core q).steady = (s.putCore core ((s.core core).fenced q)).steady := by
  rw [State.fence_eq]
  split
  next rows =>
    have none : ((s.fenceNoted core q).core core).ops = [] := by
      rw [State.core_of_steady (s.steady_fenceNoted core q), State.core_putCore, if_pos rfl]
      exact hr.resolve_left (· rows)
    rw [State.steady_errorRecord, State.failQueue_nil none, State.steady_fenceNoted]
  next => exact s.steady_fenceNoted core q

theorem State.core_fence {s : State} {core : Nat} (q : Nat)
    (hr : (s.core core).mxRows - 32 ≠ 0 ∨ (s.core core).ops = []) :
    (s.fence core q).core core = (s.core core).fenced q :=
  (State.core_of_steady (State.steady_fence q hr) core).trans ((State.core_putCore ..).trans (if_pos rfl))

section
variable {s : State} {core : Nat} {q : BitVec 2} {pass : Bool}

theorem State.selfTest_free (hc : core ∈ coreIds) (hf : (s.core core).mxFence.getLsbD q.toNat = false) :
    s.selfTest core q pass =
      if pass then s.putCore core { s.core core with testClk := BitVec.ofNat 64 s.clk, testSerials := [] }
      else s.fence core q.toNat := by
  refine if_neg ?_
  rw [bit_toNat, hf, List.contains_iff_mem.mpr hc]
  decide

theorem State.selfTest_fenced (hf : (s.core core).mxFence.getLsbD q.toNat = true) : s.selfTest core q pass = s :=
  if_pos (.inr ((congrFun (bit_toNat _) _).trans hf))

end

section
variable {s : State} {core : Nat} {q : BitVec 2} {pass : Bool} (ht : s.health.tripped = false)
include ht

/-- A self-test between two operations is made at once (R217). -/
theorem exec_matrixSelfTest_idle (hi : s.engineIdle core = true) :
    exec (.matrixSelfTest core q pass) s = .next (s.selfTest core q pass) := by
  change execMatrixSelfTest core q pass s = _
  unfold execMatrixSelfTest
  rw [ht, hi]
  rfl

/-- A self-test waits for the end of the operation under way (R217). -/
theorem exec_matrixSelfTest_waits (hi : s.engineIdle core = false) :
    exec (.matrixSelfTest core q pass) s =
      .next (s.putCore core { s.core core with tests := (s.core core).tests ++ [(q, pass)] }) := by
  change execMatrixSelfTest core q pass s = _
  unfold execMatrixSelfTest
  rw [ht, hi]
  rfl

end

end Sys2Proof.Machine
end

section
/-! The scrub engine's events (R364, R367): what a frame's scrub leaves in the machine's copies, in memory and in the
scrub's own record. -/
namespace Sys2Proof.Machine

/-! ### The record of a scrub -/

/-- A scrub that is written back is found at its place (R353). -/
theorem State.scrubs_putScrub (s : State) (x : Scrub) :
    (s.putScrub x).prot.scrubs = mapPut s.prot.scrubs x.accepted x := by
  unfold State.putScrub
  cases x.rcpt with
  | none => rfl
  | some pa => exact congrArg (fun t : State => t.prot.scrubs) ((s.setScrub x).steady_physWrite pa _)

theorem length_fixLen (n : Nat) (l : List Byte) : (fixLen n l).length = n := by
  simp [fixLen]

/-- The scrub record has 64 bytes (R353). -/
theorem Scrub.length_record (x : Scrub) : x.record.length = 64 := by
  simp [Scrub.record, dwBytes, length_fixLen]

/-! ### The copies in the L1s -/

/-- No L1 holds a sector of a frame whose copies are dropped (R364). -/
theorem State.l1_dropCopies (s : State) (f : Nat) : ∀ l ∈ (s.dropCopies f).mem.l1, ∀ y ∈ l.2, y.pa / 2048 ≠ f := by
  intro l hl y hy
  obtain ⟨e, -, he⟩ := List.mem_filterMap.mp hl
  dsimp only at he
  split at he
  · cases he
  · cases he
    exact of_decide_eq_true (List.mem_filter.mp hy).2

theorem State.l1_putOwner (s : State) (f : Nat) (o : Owner) : (s.putOwner f o).mem.l1 = s.mem.l1 := MemSys.store_l1 ..

theorem State.l1_spoil (s : State) (sec : Nat) (bad : Bool) : (s.spoil sec bad).mem.l1 = s.mem.l1 := by
  cases bad <;> rfl

theorem State.l1_zeroLines (s : State) (a n : Nat) : (s.zeroLines a n).mem.l1 = s.mem.l1 :=
  foldl_keeps (g := fun t : State => t.mem.l1) (fun t (e : Nat × Bool) => t.l1_spoil e.1 e.2) _ _

theorem State.l1_retireFrame (s : State) (f : Nat) : (s.retireFrame f).mem.l1 = s.mem.l1 := by
  unfold State.retireFrame
  split
  · exact (State.errorRecord_keeps ..).1.1.trans (s.l1_putOwner f _)
  · rfl

/-- A scrub of a frame takes its copies out of the L1s and no others (R364). -/
theorem State.l1_scrubOne (s : State) (f : Nat) : (s.scrubOne f).mem.l1 = (s.dropCopies f).mem.l1 := by
  unfold State.scrubOne
  exact (State.l1_retireFrame ..).trans ((State.l1_putOwner ..).trans ((s.dropCopies f).l1_zeroLines ..))

theorem State.l1_putScrub (s : State) (x : Scrub) : (s.putScrub x).mem.l1 = s.mem.l1 := by
  have set : (s.setScrub x).mem.l1 = s.mem.l1 := MemSys.store_l1 ..
  unfold State.putScrub
  cases x.rcpt with
  | none => exact set
  | some pa => exact ((s.setScrub x).physWrite_keeps pa _).1.1.trans set

/-! ### The bytes of a scrubbed frame -/

/-- A write in the reserved region leaves the bytes outside what it writes. -/
theorem State.byte_putRegion (s : State) {off a : Nat} {l : List Byte}
    (h : ¬(s.cfg.resv.toNat + off ≤ a ∧ a < s.cfg.resv.toNat + off + l.length)) :
    (s.putRegion off l).mem.byte a = s.mem.byte a :=
  (MemSys.byte_store ..).trans (if_neg h)

/-- Where every sector can be mended, zeroed lines read as zero (R364). -/
theorem State.byte_zeroLines {s : State} (hs : s.mem.stuck = []) (a n b : Nat) :
    (s.zeroLines a n).mem.byte b = if a ≤ b ∧ b < a + n then 0 else s.mem.byte b := by
  unfold State.zeroLines
  rw [hs]
  exact mapGet_clear ..

/-- An address of a frame that is not in the reserved region, once it is placed (R390). -/
theorem State.apart_of_inRegion {s : State} {f a : Nat} (hb : s.arn.bstate = 1) (hv : s.cfg.resv.toNat % 2 ^ 28 = 0)
    (ho : s.inRegion (65536 * f) = false) (hl : 65536 * f ≤ a) (hh : a < 65536 * f + 65536) :
    a < s.cfg.resv.toNat ∨ s.cfg.resv.toNat + 2 ^ 28 ≤ a := by
  have other : 65536 * f / 2 ^ 28 ≠ s.cfg.resv.toNat / 2 ^ 28 := fun e => of_decide_eq_false ho ⟨hb, e⟩
  omega

theorem State.retireFrame_unlisted {s : State} {f : Nat} (h : s.cfg.retired.contains f = false) : s.retireFrame f = s :=
  if_neg (by rw [h]; exact fun g => Bool.false_ne_true g.1)

theorem State.cfg_zeroed (s : State) (f : Nat) : ((s.dropCopies f).zeroLines (65536 * f) 65536).cfg = s.cfg :=
  (congrArg State.cfg ((s.dropCopies f).steady_zeroLines (65536 * f) 65536) :)

section
variable {s : State} {f a : Nat} (apart : a < s.cfg.resv.toNat ∨ s.cfg.resv.toNat + 2 ^ 28 ≤ a)
include apart

/-- A scrubbed frame outside the reserved region is zero where every sector can be mended (R364, R390). -/
theorem State.byte_scrubOne (hs : s.mem.stuck = []) (hr : s.cfg.retired.contains f = false) (hf : f < 2 ^ 24)
    (hl : 65536 * f ≤ a) (hh : a < 65536 * f + 65536) : (s.scrubOne f).mem.byte a = 0 := by
  have cfg := s.cfg_zeroed f
  unfold State.scrubOne
  refine (congrArg (fun t : State => t.mem.byte a) (State.retireFrame_unlisted (cfg ▸ hr))).trans ?_
  refine (State.byte_putRegion _ ?apart).trans ?zero
  case apart =>
    rw [length_leBytes]
    change ¬(((s.dropCopies f).zeroLines (65536 * f) 65536).cfg.resv.toNat + _ ≤ a ∧ _)
    rw [cfg]
    omega
  case zero => exact (State.byte_zeroLines (s := s.dropCopies f) hs ..).trans (if_pos ⟨hl, hh⟩)

/-- A scrub without a receipt writes its record alone, in the reserved region (R353). -/
theorem State.byte_putScrub {x : Scrub} (hx : x.rcpt = none) : (s.putScrub x).mem.byte a = s.mem.byte a := by
  unfold State.putScrub
  rw [hx]
  refine State.byte_putRegion _ ?_
  rw [Scrub.length_record]
  dsimp only
  omega

end

/-! ### The events -/

/-- A scrub after one more of its frames: `f` was the first of its list, and `r` follows (R364). -/
structure Scrub.Advanced (x y : Scrub) (f : Nat) (r : List Nat) : Prop where
  accepted : y.accepted = x.accepted
  rcpt : y.rcpt = x.rcpt
  todo : y.todo = r
  rest : y.rest = x.rest
  doneFrames : y.doneFrames = x.doneFrames + 1
  did : y.did = x.did ++ [f]
  state : y.state = if r = [] ∧ x.rest = [] then 3 else 2

/-- A scrub with a frame in its list does that frame, and is written back (R364). -/
theorem exec_scrubFrame_frame {s : State} {x : Scrub} {f : Nat} {r : List Nat} (hn : s.scrubNow = some x)
    (hs : s.scrubs = true) (ht : x.todo = f :: r) :
    ∃ y, exec .scrubFrame s = .next ((s.scrubOne f).putScrub y) ∧ x.Advanced y f r := by
  change ∃ y, execScrubFrame s = _ ∧ _
  unfold execScrubFrame
  rw [hs, hn]
  have rest : (if f :: r = [] then x.rest.drop 1 else x.rest) = x.rest := if_neg (List.cons_ne_nil f r)
  dsimp only
  rw [ht, rest]
  exact ⟨_, rfl, rfl, rfl, rfl, rfl, rfl, rfl, rfl⟩

/-- A checkpoint holds the scrub engine (R393). -/
theorem exec_scrubFrame_held {s : State} (hc : s.ckpt.isSome = true) : exec .scrubFrame s = .next s := by
  have held : s.scrubs = false := by
    unfold State.scrubs
    rw [Option.isNone_eq_false_iff.mpr hc, Bool.and_false]
  change execScrubFrame s = _
  unfold execScrubFrame
  rw [held]
  rfl

/-- A scrub with no frame left ends (R367). -/
theorem exec_scrubReceipt_ends {s : State} {x : Scrub} (hn : s.scrubNow = some x) (hb : s.arn.bstate = 1)
    (ht : x.todo = []) (hr : x.rest = []) : exec .scrubReceipt s = .next (s.endScrub x) := by
  change execScrubReceipt s = _
  unfold execScrubReceipt
  rw [hn]
  exact congrArg Host.Outcome.next (if_pos ⟨hb, ht, hr⟩)

/-- A scrub that has ended has left its place (R367). -/
theorem State.scrub_endScrub (s : State) (x : Scrub) : mapFind (s.endScrub x).prot.scrubs x.accepted = none := by
  have erased (l : Map Scrub) : mapFind (mapErase l x.accepted) x.accepted = none :=
    (mapFind_erase l ..).trans (if_pos rfl)
  have record (t : State) (a b c : Nat) (d e : Word) :
      (t.errorRecord a b c none d e).prot.scrubs = t.prot.scrubs :=
    (congrArg (fun t : State => t.prot.scrubs) (t.steady_errorRecord a b c none d e) :)
  unfold State.endScrub
  dsimp only
  split
  · rw [record]
    exact erased _
  · rw [record]
    exact erased _


end Sys2Proof.Machine
end

section
/-! The events of a checkpoint (R392, R394). -/
namespace Sys2Proof.Machine

/-- The address that the sideband record of a line carries (R258, R394). -/
theorem Ckpt.lineAddress (c : Ckpt) (off : Nat) :
    (if c.one.isSome then fullVa off else off) = if c.one = none then off else fullVa off := by
  cases c.one <;> rfl

section
variable {s : State} {c : Ckpt} (hc : s.ckpt = some c)
include hc

/-- The first line is due once the package is quiet (R392). -/
theorem exec_checkpointStream_quiesced (hp : c.phase = 0) (hq : s.quiesced c = true) :
    exec .checkpointStream s = .next { s with
      ckpt := some { c with phase := 1, todo := s.ckptRanges c, clkEnd := BitVec.ofNat 64 s.clk } } := by
  change execCheckpointStream s = _
  unfold execCheckpointStream
  rw [hc]
  dsimp only
  rw [if_pos hp, if_pos hq]

/-- The stream waits until the package is quiet (R392). -/
theorem exec_checkpointStream_busy (hp : c.phase = 0) (hq : s.quiesced c = false) :
    exec .checkpointStream s = .next s := by
  change execCheckpointStream s = _
  unfold execCheckpointStream
  rw [hc]
  dsimp only
  rw [if_pos hp, hq]
  rfl

/-- In its streaming phase a checkpoint goes to its next line (R394). -/
theorem exec_checkpointStream_next (hp : c.phase = 1) : exec .checkpointStream s = .next (s.ckptNext c) := by
  change execCheckpointStream s = _
  unfold execCheckpointStream
  rw [hc]
  dsimp only
  rw [if_neg (hp.symm ▸ Nat.one_ne_zero), if_pos hp]

/-- The manifest follows the last line (R392). -/
theorem exec_checkpointFinish_manifest (hp : c.phase = 2) :
    exec .checkpointFinish s =
      .next { s.ckptSend c c.tops.1 c.manifest with ckpt := some { c with phase := 3, reach := c.tops.1 + 256 } } := by
  change execCheckpointFinish s = _
  unfold execCheckpointFinish
  rw [hc]
  exact congrArg Host.Outcome.next (if_pos hp)

/-- A checkpoint ends once its last frame is acknowledged (R392). -/
theorem exec_checkpointFinish_ends (hp : c.phase = 3) (hd : s.ckptPending = false) :
    exec .checkpointFinish s =
      .next (s.endCkpt c c.dval 1 (BitVec.ofNat 64 c.sent.length) (BitVec.ofNat 64 s.clk - c.clkEnd)) := by
  have sent : c.phase = 3 ∧ (!s.ckptPending) = true := ⟨hp, by rw [hd]; rfl⟩
  change execCheckpointFinish s = _
  unfold execCheckpointFinish
  rw [hc]
  dsimp only
  rw [if_neg (by rw [hp]; decide), if_pos sent]

end

/-! ### The next line -/

theorem State.ckptNext_nil {s : State} {c : Ckpt} (ht : c.todo = []) :
    s.ckptNext c = { s with ckpt := some { c with phase := 2 } } := by
  unfold State.ckptNext
  rw [ht]

section
variable {s : State} {c : Ckpt} {off pa n : Nat} {rest : List (Nat × Nat × Nat)} (ht : c.todo = (off, pa, n) :: rest)
include ht

/-- A line of the reserved region is left out (R394). -/
theorem State.ckptNext_region (hr : s.inRegion pa = true) :
    s.ckptNext c = { s with ckpt := some { c with
      todo := if n ≤ 128 then rest else (off + 128, pa + 128, n - 128) :: rest } } := by
  unfold State.ckptNext
  rw [ht]
  exact if_pos hr

/-- A line outside the reserved region is sent, with its sideband record where it has one (R394). -/
theorem State.ckptNext_line (hr : s.inRegion pa = false) :
    s.ckptNext c =
      let todo := if n ≤ 128 then rest else (off + 128, pa + 128, n - 128) :: rest
      let t := s.settleRange pa 128
      let u := if t.anyBad pa 128 then t.memError pa true else t
      let l := u.ckptLine (if c.one = none then off else fullVa off) pa
      let v := u.ckptSend c off l.1
      let w := if l.2 = [] then v else v.ckptSend c (c.tops.2 + c.side.length) l.2
      { w with ckpt := some { c with
          todo, reach := off + 128, sent := c.sent ++ l.1, side := c.side ++ l.2, clkLast := BitVec.ofNat 64 w.clk } } := by
  unfold State.ckptNext
  rw [ht]
  dsimp only
  rw [hr, c.lineAddress]
  simp only [List.isEmpty_iff, Bool.false_eq_true, if_false]

end

/-- A line without tags has none in its sideband record (R394). -/
theorem State.lineTags_clear {s : State} {pa : Nat} (clear : ∀ i < 4, s.mem.tag (pa + 32 * i) = false) :
    ((List.range 4).map fun i => 2 ^ i * b2n (s.mem.tag (pa + 32 * i))).sum = 0 := by
  have zero : (List.range 4).map (fun i => 2 ^ i * b2n (s.mem.tag (pa + 32 * i))) = (List.range 4).map fun _ => 0 :=
    List.map_congr_left fun i hi => by rw [clear i (List.mem_range.mp hi)]; rfl
  rw [zero]
  rfl

/-- A line of a frame that no husk seals is sent as it is, with no sideband record where it has no tag (R394). -/
theorem State.ckptLine_plain {s : State} {pa : Nat} (at_ : Nat) (ho : (s.owner (frameOf pa)).seals = false) :
    (s.ckptLine at_ pa).1 = s.mem.read pa 128 ∧
      ((∀ i < 4, s.mem.tag (pa + 32 * i) = false) → (s.ckptLine at_ pa).2 = []) := by
  unfold State.ckptLine
  dsimp only
  rw [ho, if_neg Bool.false_ne_true]
  exact ⟨rfl, fun clear => by rw [State.lineTags_clear clear, if_pos rfl]⟩

end Sys2Proof.Machine
end

section
/-! The health block and the limits of power and temperature (R398 to R400). -/
namespace Sys2Proof.Machine

/-! ### The limits -/

section
variable {h : Health} {x : Sensors}

theorem Health.heat_hot (hh : 100 ≤ hottest x) : h.heat x = { h with thermal := true } := if_pos hh

theorem Health.heat_cool (hh : hottest x ≤ 95) : h.heat x = { h with thermal := false } :=
  (if_neg (by omega)).trans (if_pos hh)

/-- The thermal limit holds from 100 °C until 95 °C (R400). -/
theorem Health.thermal_heat :
    (h.heat x).thermal = if 100 ≤ hottest x then true else if hottest x ≤ 95 then false else h.thermal := by
  simp only [Health.heat, apply_ite Health.thermal]

/-- The limits do not change the duty or the power limit until the duty turns (R399, R400). -/
theorem Health.rest_heat : (h.heat x).plim = h.plim ∧ (h.heat x).duty = h.duty := by
  simp only [Health.heat, apply_ite Health.plim, apply_ite Health.duty, ite_self, and_self]

theorem Health.rest_turn (h : Health) (p : Nat) : (h.turn p).plim = h.plim ∧ (h.turn p).thermal = h.thermal :=
  ⟨rfl, rfl⟩

/-- The duty falls while a limit is exceeded, and rises while power stays below its own (R399, R400). -/
theorem Health.duty_turn (p : Nat) :
    (h.turn p).duty = if h.plim.toNat < p ∨ h.thermal = true then max 31 (h.duty - 4)
      else if p < h.plim.toNat then min 255 (h.duty + 4) else h.duty := by
  simp only [Health.turn, Bool.or_eq_true, decide_eq_true_eq]

end

/-- The limits and the duty after the thermal limit and the duty of a health update (R399, R400). -/
theorem Health.limits_turn (h : Health) (x : Sensors) :
    let g := (h.heat x).turn x.power.toNat
    g.plim = h.plim ∧ g.thermal = (if 100 ≤ hottest x then true else if hottest x ≤ 95 then false else h.thermal) ∧
      g.duty = if g.plim.toNat < x.power.toNat ∨ g.thermal = true then max 31 (h.duty - 4)
        else if x.power.toNat < g.plim.toNat then min 255 (h.duty + 4) else h.duty := by
  obtain ⟨plim, duty⟩ := Health.rest_heat (h := h) (x := x)
  obtain ⟨limit, thermal⟩ := (h.heat x).rest_turn x.power.toNat
  dsimp only
  rw [limit, thermal, Health.duty_turn, duty]
  exact ⟨plim, Health.thermal_heat, rfl⟩

/-- The health that an update without errors writes, with the power limit in force (R399). -/
def State.nextHealth (s : State) (x : Sensors) : Health :=
  ({ s.health with plim := s.nextLimit }.heat x).turn x.power.toNat

/-! ### The events -/

/-- States that agree outside what the device's own writes change agree on whether the package has tripped. -/
theorem State.tripped_of_steady {s t : State} (h : t.steady = s.steady) : t.health.tripped = s.health.tripped :=
  (congrArg (fun t : State => t.health.tripped) h :)

theorem State.strikes_nil (s : State) : s.strikes [] = s := by
  unfold State.strikes
  split <;> rfl

section
variable (s : State) (x : Sensors)

/-- A health event first lets its errors strike, and goes on as one without errors (R396, log 48). -/
theorem exec_healthUpdate_strikes :
    exec (.healthUpdate x) s = exec (.healthUpdate { x with errors := [] }) (s.strikes x.errors) := by
  change Host.Outcome.next (s.renewHealth x) = .next ((s.strikes x.errors).renewHealth { x with errors := [] })
  unfold State.renewHealth
  rw [State.strikes_nil]
  rfl

theorem exec_thermalThrottle_strikes :
    exec (.thermalThrottle x) s = exec (.thermalThrottle { x with errors := [] }) (s.strikes x.errors) := by
  change execThermalThrottle x s = execThermalThrottle { x with errors := [] } (s.strikes x.errors)
  unfold execThermalThrottle
  rw [State.strikes_nil]
  rfl

theorem exec_thermalTrip_strikes :
    exec (.thermalTrip x) s = exec (.thermalTrip { x with errors := [] }) (s.strikes x.errors) := by
  change execThermalTrip x s = execThermalTrip { x with errors := [] } (s.strikes x.errors)
  unfold execThermalTrip
  rw [State.strikes_nil]
  rfl

theorem State.tripped_writeHealth : (s.writeHealth x).health.tripped = s.health.tripped :=
  State.tripped_of_steady (s.steady_writeHealth x)

/-- A package that trips holds (R400). -/
theorem State.tripped_trip : (s.trip x).health.tripped = true := by
  rw [State.trip, State.tripped_writeHealth]

end

section
variable {s : State} {x : Sensors} (ht : s.health.tripped = false) (hb : s.arn.bstate = 1) (he : x.errors = [])
include ht hb he

/-- The three events without errors in a package that runs. -/
theorem exec_thermalTrip_runs :
    exec (.thermalTrip x) s = .next (if hottest x < 115 then s else s.trip x) := by
  change execThermalTrip x s = _
  unfold execThermalTrip
  simp only [he, State.strikes_nil, ht, hb, Bool.false_eq_true, ne_eq, not_true_eq_false, false_or]

theorem exec_healthUpdate_runs :
    exec (.healthUpdate x) s = .next (if 115 ≤ hottest x then s.trip x else
      { s with health := s.nextHealth x }.writeHealth x) := by
  change Host.Outcome.next (s.renewHealth x) = _
  unfold State.renewHealth State.nextHealth
  simp only [he, State.strikes_nil, ht, hb, Bool.false_eq_true, ne_eq, not_true_eq_false, or_self, if_false]

theorem exec_thermalThrottle_runs :
    exec (.thermalThrottle x) s = .next { s with
      health := let h := s.health.heat x; if h.thermal then { h with duty := max 31 (h.duty - 4) } else h } := by
  change execThermalThrottle x s = _
  unfold execThermalThrottle
  simp only [he, State.strikes_nil, ht, hb, Bool.false_eq_true, ne_eq, not_true_eq_false, or_self, if_false]

end

end Sys2Proof.Machine
end

section
/-! The two resets (R368, R369, R388, R391). -/
namespace Sys2Proof.Machine

/-! ### What both resets do -/

/-- The machine, without what the device's own writes change, as the end of a boot leaves it (R391). -/
def State.booted (s : State) : State := { s with fab := { s.fab with ports := freshPorts }, health := {} }

/-- The end of a boot brings the ports up and ends a trip (R391). -/
theorem State.steady_bootEnd (s : State) : s.bootEnd.steady = s.steady.booted := by
  have retired : (s.cfg.retired.foldl (fun s f => s.retireFrame f) s).steady = s.steady :=
    foldl_keeps (g := State.steady) (fun t (f : Nat) => t.steady_retireFrame f) s _
  unfold State.bootEnd
  generalize s.cfg.retired.foldl _ s = r at retired ⊢
  refine (State.steady_arn ..).trans ((State.steady_writeHealth ..).trans ?_)
  exact congrArg State.booted retired

/-- The wipe leaves no husk, key or scrub (R369). -/
theorem State.steady_wipe (s : State) : s.wipe.steady = { s.steady with prot := {} } :=
  foldl_keeps (g := State.steady) (fun t (e : Nat × Bool) => t.steady_spoil e.1 e.2) _ _

/-- The machine without its cores, scrubs and what the device's own writes change: what it holds for its tenants. -/
def State.tenants (s : State) : State :=
  { s.steady with cores := [], prot := { husks := s.prot.husks, keys := s.prot.keys } }

theorem State.tenants_steady (s : State) : s.steady.tenants = s.tenants := rfl

theorem State.tenants_of_steady {s t : State} (h : t.steady = s.steady) : t.tenants = s.tenants := by
  rw [← State.tenants_steady, h, State.tenants_steady]

/-- What the tenants' reading shows of a machine. -/
theorem State.read_tenants {s t : State} (h : s.tenants = t) :
    s.ctxs = t.ctxs ∧ s.warps = t.warps ∧ s.blocks = t.blocks ∧ s.lastGen = t.lastGen ∧ s.warmResets = t.warmResets ∧
      s.health.tripped = t.health.tripped ∧ s.cfg = t.cfg ∧ s.prot.husks = t.prot.husks ∧ s.prot.keys = t.prot.keys := by
  subst h
  exact ⟨rfl, rfl, rfl, rfl, rfl, rfl, rfl, rfl, rfl⟩

theorem State.tenants_wipe (s : State) : s.wipe.tenants = { s.tenants with prot := {} } := by
  rw [← State.tenants_steady, State.steady_wipe]
  rfl

theorem State.tenants_bootEnd (s : State) : s.bootEnd.tenants = s.tenants.booted := by
  rw [← State.tenants_steady, State.steady_bootEnd]
  rfl

theorem State.core_steady (s : State) (n : Nat) : s.steady.core n = s.core n := rfl

theorem State.core_booted (s : State) (n : Nat) : ({ s.steady with prot := {} } : State).booted.core n = s.core n := rfl

/-! ### Cold boot -/

/-- A self-test of a core with no operation queued changes no more than that core, and leaves it with none (R217). -/
theorem State.selfTest_quiet {s : State} (h : ∀ n, (s.core n).ops = []) (core : Nat) (q : BitVec 2) (pass : Bool) :
    (s.selfTest core q pass).tenants = s.tenants ∧ ∀ n, ((s.selfTest core q pass).core n).ops = [] := by
  have put : ∀ c : Core, c.ops = [] → ∀ t : State, t.steady = (s.putCore core c).steady →
      t.tenants = s.tenants ∧ ∀ n, (t.core n).ops = [] := by
    intro c hc t ht
    refine ⟨(State.tenants_of_steady ht).trans rfl, fun n => ?_⟩
    rw [State.core_of_steady ht, State.core_putCore]
    split
    · exact hc
    · exact h n
  unfold State.selfTest
  dsimp only
  split
  · exact ⟨rfl, h⟩
  · split
    · refine put _ ?_ _ rfl
      exact h core
    · exact put ((s.core core).fenced q.toNat) (h core) _ (State.steady_fence q.toNat (.inr (h core)))

/-- The self-tests of a boot find no operation queued (R217). -/
theorem State.selfTests_quiet (l : List (Nat × BitVec 2)) : ∀ {s : State}, (∀ n, (s.core n).ops = []) →
    (l.foldl (fun t q => t.selfTest q.1 q.2 false) s).tenants = s.tenants := by
  induction l with
  | nil => exact fun _ => rfl
  | cons x r ih =>
    intro s h
    obtain ⟨kept, quiet⟩ := State.selfTest_quiet h x.1 x.2 false
    exact (ih quiet).trans kept

/-- Memory as a cold boot makes it differs from a wiped one in receipts alone (R369). -/
theorem State.steady_coldMemory (s old : State) : (s.coldMemory old).steady = { s.steady with prot := {} } :=
  (foldl_keeps (g := State.steady) (fun t (_ : Nat × Scrub) => State.steady_writeReceipt t _ _) _ _).trans s.steady_wipe

/-- The machine as a cold boot begins it (R391). -/
def State.coldBegun (s : State) (cfg : BlobConfig) : State :=
  { s.fresh with cfg, mem := { stuck := s.mem.stuck }, prot := { keygens := s.prot.keygens } }

/-- The machine of a cold boot once its failing sub-arrays are fenced (R217). -/
def State.coldTested (s : State) (cfg : BlobConfig) (fails : List (Nat × BitVec 2)) : State :=
  fails.foldl (fun t q => t.selfTest q.1 q.2 false) (s.coldBegun cfg)

theorem State.coldStart_eq (s : State) (cfg : BlobConfig) (fails : List (Nat × BitVec 2)) :
    s.coldStart cfg fails = ((s.coldTested cfg fails).coldMemory s).bootEnd := rfl

theorem State.tenants_coldStart (s : State) (cfg : BlobConfig) (fails : List (Nat × BitVec 2)) :
    (s.coldStart cfg fails).tenants = { (s.coldBegun cfg).tenants with prot := {} }.booted := by
  have tested : (s.coldTested cfg fails).tenants = (s.coldBegun cfg).tenants := State.selfTests_quiet fails fun _ => rfl
  have wiped : ((s.coldTested cfg fails).coldMemory s).tenants = { (s.coldTested cfg fails).tenants with prot := {} } := by
    rw [← State.tenants_steady, State.steady_coldMemory]
    rfl
  rw [State.coldStart_eq, State.tenants_bootEnd, wiped, tested]

/-- A cold boot fences the sub-array that fails its test (R217). -/
theorem State.mxFence_coldStart (s : State) (cfg : BlobConfig) {core : Nat} (q : BitVec 2) (hc : core ∈ coreIds) :
    ((s.coldStart cfg [(core, q)]).core core).mxFence = BitVec.ofNat 4 (2 ^ q.toNat) := by
  have kept : (s.coldStart cfg [(core, q)]).core core = (s.coldTested cfg [(core, q)]).core core := by
    rw [State.coldStart_eq, ← State.core_steady, State.steady_bootEnd, State.steady_coldMemory, State.core_booted]
  have begun : (s.coldBegun cfg).core core = {} := rfl
  have tested : s.coldTested cfg [(core, q)] = (s.coldBegun cfg).fence core q.toNat :=
    (State.selfTest_free hc (by rw [begun]; simp)).trans (if_neg Bool.false_ne_true)
  rw [kept, tested, State.core_fence q.toNat (.inr (by rw [begun])), begun]
  exact BitVec.zero_or

/-! ### Warm reset -/

theorem State.outer_sealHusk (s : State) (h : Nat) : (s.sealHusk h).outer = s.outer := rfl

theorem State.outer_dropL1 (s : State) : s.dropL1.outer = s.outer :=
  foldl_keeps (g := State.outer)
    (fun t (e : Nat × List Sector) => foldl_keeps (g := State.outer) (fun t (x : Sector) => by
      dsimp only
      split
      · split
        · rw [State.outer_writeHome, State.outer_choose]
        · rfl
      · rfl) t e.2) s s.mem.l1

/-- A warm reset keeps the last generation of every context number, and counts itself (R368). -/
theorem State.counts_warmKept (s : State) :
    s.warmKept.lastGen = s.lastGen ∧ s.warmKept.warmResets = s.warmResets + 1 := by
  have sealed : ((s.dropL1.prot.husks.map Prod.fst).foldl (fun s h => s.sealHusk h) s.dropL1).outer = s.outer :=
    (foldl_keeps (g := State.outer) State.outer_sealHusk _ _).trans s.outer_dropL1
  exact ⟨(congrArg State.lastGen sealed :), (congrArg (fun t : State => t.warmResets + 1) sealed :)⟩

/-! ### Scrubs across a warm reset -/

theorem State.tenants_setScrub (s : State) (x : Scrub) : (s.setScrub x).tenants = s.tenants := rfl

theorem State.tenants_putScrub (s : State) (x : Scrub) : (s.putScrub x).tenants = s.tenants := by
  unfold State.putScrub
  cases x.rcpt with
  | none => exact s.tenants_setScrub x
  | some pa => exact (State.tenants_of_steady (State.steady_physWrite ..)).trans (s.tenants_setScrub x)

theorem State.tenants_resumeScrub (s : State) (x : Scrub) : (s.resumeScrub x).tenants = s.tenants := by
  unfold State.resumeScrub
  exact (State.tenants_of_steady (State.steady_errorRecord ..)).trans (State.tenants_putScrub ..)

theorem State.tenants_resumeScrubs (s : State) (l : Map Scrub) :
    (l.foldl (fun t e => t.resumeScrub e.2) s).tenants = s.tenants :=
  foldl_keeps (g := State.tenants) (fun t (e : Nat × Scrub) => t.tenants_resumeScrub e.2) s l

theorem State.steady_markFrames (x : Scrub) : ∀ (l : List Nat) (s : State), (s.markFrames x l).2.steady = s.steady
  | [], _ => rfl
  | f :: r, s => by
    have marked : (s.markFrame x f).2.steady = s.steady := by
      unfold State.markFrame
      dsimp only
      split
      · rfl
      · exact s.steady_putOwner f _
    exact (State.steady_markFrames x r _).trans marked

theorem State.tenants_orphanScrub (s : State) : s.orphanScrub.tenants = s.tenants := by
  unfold State.orphanScrub
  dsimp only
  split
  · rfl
  · generalize hm : s.markFrames _ _ = m
    have marked : m.2.tenants = s.tenants := hm ▸ State.tenants_of_steady (State.steady_markFrames ..)
    exact (State.tenants_setScrub ..).trans marked

/-- A warm reset with a configuration leaves the tenants nothing, and counts itself (R368). -/
theorem State.tenants_warmStart (s : State) (cfg : BlobConfig) :
    (s.warmStart cfg).tenants = { s.warmKept with cfg }.tenants.booted := by
  have noKeys : { ({ s.warmKept with cfg } : State).tenants with prot := {} } = ({ s.warmKept with cfg } : State).tenants := rfl
  unfold State.warmStart
  dsimp only
  split
  · rw [State.tenants_bootEnd, State.tenants_wipe, State.tenants_of_steady (State.steady_errorRecord ..), noKeys]
  · generalize hu : State.orphanScrub _ = u
    have kept : u.tenants = ({ s.warmKept with cfg } : State).tenants := by
      rw [← hu, State.tenants_orphanScrub, State.tenants_resumeScrubs]
    exact (State.tenants_bootEnd _).trans (congrArg State.booted kept)

theorem State.bstate_warmStart (s : State) (cfg : BlobConfig) : (s.warmStart cfg).arn.bstate = 1 := by
  unfold State.warmStart
  dsimp only
  split <;> rfl

/-! ### The configuration blob -/

/-- A copy is valid only where each of its checks passes (R388, R389). -/
theorem blobOk_checks {x : Blob} (h : blobOk x = true) :
    blobField x 0 32 32 = 0x57204346 ∧ blobDw x 1 = x.bytes.length ∧ blobZeros x = true ∧ blobSigned x = true ∧
      blobSecret x ≠ none := by
  simp only [blobOk, blobLengthOk, Bool.and_eq_true, decide_eq_true_eq, Option.isSome_iff_ne_none] at h
  obtain ⟨⟨⟨⟨magic, -, length⟩, zeros⟩, signed⟩, secret⟩ := h
  exact ⟨magic, length, zeros, signed, secret⟩

/-- Of one copy, that copy where it is valid (R388). -/
theorem chooseBlob_left (x : Blob) : chooseBlob (some x) none = if blobOk x = true then some x else none := by
  rw [chooseBlob, Option.filter_some]
  cases blobOk x <;> rfl

theorem chooseBlob_right (x : Blob) : chooseBlob none (some x) = if blobOk x = true then some x else none := by
  rw [chooseBlob, Option.filter_some]
  cases blobOk x <;> rfl

/-- Of two copies, the valid one with the higher version, or the first of equals (R388). -/
theorem chooseBlob_both (x y : Blob) :
    chooseBlob (some x) (some y) =
      if blobOk x = true then
        (if blobOk y = true then (if blobVersion x < blobVersion y then some y else some x) else some x)
      else if blobOk y = true then some y else none := by
  rw [chooseBlob, Option.filter_some, Option.filter_some]
  cases blobOk x <;> cases blobOk y <;> rfl

end Sys2Proof.Machine
end

section
open Sys2Proof Sys2Proof.Machine

/-- Settles O50: each event by its branches; a scrub's and a boot's own writes by what they keep of the machine. -/
theorem packageEventsComplete : Obligations.PackageEventsComplete := by
  refine ⟨?engine, ?selfTest, ?scrub, ?checkpoint, ?strikes, ?health, ?boot⟩
  case engine =>
    intro s core op o
    refine ⟨fun ho => ⟨fun c hc => exec_engineOperationStart_fails ho hc, fun hc row hr => ?_, fun hc hr w hw => ?_⟩,
      fun ho hp => exec_engineOperationComplete_ends ho hp⟩
    · exact exec_engineOperationStart_torn ho hc hr
    · exact exec_engineOperationStart_runs ho hc hr hw
  case selfTest =>
    intro s core q ht hc c
    refine ⟨fun hi pass => exec_matrixSelfTest_waits ht hi, fun hi hf => ?free, fun hi hf pass => ?fenced⟩
    case free =>
      have tested (pass : Bool) := (exec_matrixSelfTest_idle (q := q) (pass := pass) ht hi).trans
        (congrArg Host.Outcome.next (State.selfTest_free hc hf))
      refine ⟨tested true, _, tested false, fun rows => ?_⟩
      have rowsLeft : (s.core core).mxRows - 32 ≠ 0 := Nat.sub_ne_zero_of_lt (Nat.lt_of_lt_of_le (by decide) rows)
      have core_eq : (s.fence core q.toNat).core core = c.fenced q.toNat := State.core_fence q.toNat (.inl rowsLeft)
      exact ⟨congrArg Core.mxFence core_eq, congrArg Core.mxRows core_eq⟩
    case fenced =>
      exact (exec_matrixSelfTest_idle ht hi).trans (congrArg Host.Outcome.next (State.selfTest_fenced hf))
  case scrub =>
    intro s x hn
    refine ⟨fun f r hs ht => ?frame, exec_scrubFrame_held, fun hb ht hr => ?receipt⟩
    case frame =>
      obtain ⟨y, run, done⟩ := exec_scrubFrame_frame hn hs ht
      refine ⟨_, run, ⟨y, ?_, done.todo, done.rest, done.doneFrames, done.did, done.state⟩, ?_, ?_⟩
      · rw [State.scrubs_putScrub, ← done.accepted]
        exact (mapFind_put ..).trans (if_pos rfl)
      · rw [State.l1_putScrub, State.l1_scrubOne]
        exact s.l1_dropCopies f
      · intro none listed stuck low placed outside a hl hh
        have running : s.arn.bstate = 1 := of_decide_eq_true (Bool.and_eq_true_iff.mp hs).1
        have apart := State.apart_of_inRegion running placed outside hl hh
        have cfg : (s.scrubOne f).cfg = s.cfg := (congrArg State.cfg (s.steady_scrubOne f) :)
        rw [State.byte_putScrub (cfg ▸ apart) (done.rcpt.trans none)]
        exact State.byte_scrubOne apart stuck listed low hl hh
    case receipt => exact ⟨_, exec_scrubReceipt_ends hn hb ht hr, s.scrub_endScrub x⟩
  case checkpoint =>
    intro s c hc
    have next := fun hp => exec_checkpointStream_next (s := s) hc hp
    refine ⟨exec_checkpointStream_quiesced hc, exec_checkpointStream_busy hc, fun hp ht => ?_, fun hp off pa n rest ht => ?line,
      exec_checkpointFinish_manifest hc, exec_checkpointFinish_ends hc⟩
    · exact (next hp).trans (congrArg Host.Outcome.next (State.ckptNext_nil ht))
    case line =>
      refine ⟨fun hr => ?_, fun hr => ?_, State.ckptLine_plain _⟩
      · exact (next hp).trans (congrArg Host.Outcome.next (State.ckptNext_region ht hr))
      · exact (next hp).trans (congrArg Host.Outcome.next (State.ckptNext_line ht hr))
  case strikes =>
    exact fun s x => ⟨exec_healthUpdate_strikes s x, exec_thermalThrottle_strikes s x, exec_thermalTrip_strikes s x⟩
  case health =>
    intro s x ht hb he h hot
    have trip := exec_thermalTrip_runs ht hb he
    have update := exec_healthUpdate_runs ht hb he
    have throttle := exec_thermalThrottle_runs ht hb he
    refine ⟨fun hh => ⟨?_, ?_, s.tripped_trip x⟩, fun hh => ⟨?_, s.nextHealth x, ?_, Health.limits_turn _ x⟩, fun hh => ?_,
      fun hh => ?_⟩
    · rw [trip, if_neg (Nat.not_lt.mpr hh)]
    · rw [update, if_pos hh]
    · rw [trip, if_pos hh]
    · rw [update, if_neg (Nat.not_le.mpr hh)]
    · rw [throttle, Health.heat_hot hh]
      rfl
    · rw [throttle, Health.heat_cool hh]
      rfl
  case boot =>
    intro s a b fails
    refine ⟨rfl, ⟨rfl, rfl, rfl, rfl⟩, fun cfg => ?cold, fun ht => congrArg Host.Outcome.next (if_pos ht),
      fun ht => congrArg Host.Outcome.next (if_neg (ne_true_of_eq_false ht)), ⟨rfl, rfl⟩, fun cfg => ?warm, fun x hx => ?bad,
      rfl, fun x => ⟨chooseBlob_left x, chooseBlob_right x⟩, chooseBlob_both⟩
    case cold =>
      obtain ⟨ctxs, warps, blocks, gens, resets, tripped, config, husks, keys⟩ :=
        State.read_tenants (s.tenants_coldStart cfg fails)
      refine ⟨rfl, ctxs, warps, blocks, gens, resets, tripped, config, husks, keys, ?_⟩
      rintro core q hc rfl
      exact s.mxFence_coldStart cfg q hc
    case warm =>
      obtain ⟨ctxs, warps, blocks, gens, resets, -, -, husks, keys⟩ := State.read_tenants (s.tenants_warmStart cfg)
      obtain ⟨gen, count⟩ := s.counts_warmKept
      exact ⟨s.bstate_warmStart cfg, ctxs, warps, blocks, gens.trans gen, resets.trans count, husks, keys⟩
    case bad =>
      refine Bool.eq_false_iff.mpr fun ok => ?_
      obtain ⟨magic, length, zeros, signed, secret⟩ := blobOk_checks ok
      rcases hx with h | h | h | h | h
      · exact h magic
      · exact h length
      · exact Bool.false_ne_true (h.symm.trans zeros)
      · exact Bool.false_ne_true (h.symm.trans signed)
      · exact secret h

end

section
/-! Named barriers and package barriers: what an arrival and a counted sector do, and their instructions (R231 to
R233, R235). -/
namespace Sys2Proof.Machine

/-! ### Arrivals and counted sectors -/

/-- What the end of a phase makes of a barrier that has not stopped (R232). -/
def Barrier.Ended (b x : Barrier) : Prop :=
  x.phase = b.phase + 1 ∧ x.arrivals = 0 ∧ x.sectors = 0 ∧ x.timer = none ∧ x.expWarps = b.expWarps ∧
    x.expSectors = b.expSectors ∧ x.overflow = false ∧ x.failed = false

section
variable {b : Barrier}

/-- A phase whose expectations are met ends. -/
theorem Barrier.settle_met (hf : b.failed = false) (ho : b.overflow = false) (ha : b.arrivals = b.expWarps)
    (hs : b.sectors = b.expSectors) : b.Ended b.settle := by
  have met : (!b.stopped && decide (b.arrivals = b.expWarps) && decide (b.sectors = b.expSectors)) = true := by
    rw [Barrier.stopped, hf, ho, decide_eq_true ha, decide_eq_true hs]
    rfl
  rw [Barrier.settle, if_pos met]
  exact ⟨rfl, rfl, rfl, rfl, rfl, rfl, ho, hf⟩

/-- A phase that misses an arrival or a sector goes on. -/
theorem Barrier.settle_unmet (h : ¬(b.arrivals = b.expWarps ∧ b.sectors = b.expSectors)) : b.settle = b := by
  refine if_neg fun hc => h ?_
  simp only [Bool.and_eq_true, decide_eq_true_eq] at hc
  exact ⟨hc.1.2, hc.2⟩

/-- A barrier that has failed counts no sector (R233). -/
theorem Barrier.sector_of_failed (h : b.failed = true) : b.sector = b :=
  if_pos (by rw [Barrier.stopped, h, Bool.true_or])

variable (hf : b.failed = false) (ho : b.overflow = false)
include hf ho

theorem Barrier.sector_of_running :
    b.sector = if b.sectors = b.expSectors then { b with overflow := true }
      else ({ b with sectors := b.sectors + 1 }.start).settle :=
  if_neg (by rw [Barrier.stopped, hf, ho]; exact Bool.false_ne_true)

/-- An arrival at a barrier that has not stopped. -/
theorem Barrier.arrive_counts (me : Nat) :
    (b.arrivals + 1 = b.expWarps → b.sectors = b.expSectors → b.Ended (b.arrive me)) ∧
    (b.arrivals ≠ b.expWarps → ¬(b.arrivals + 1 = b.expWarps ∧ b.sectors = b.expSectors) →
      (b.arrive me).phase = b.phase ∧ (b.arrive me).arrivals = b.arrivals + 1 ∧ (b.arrive me).sectors = b.sectors) ∧
    (b.arrivals = b.expWarps → b.arrive me = { b with overflow := true }) := by
  have counted (hn : b.arrivals ≠ b.expWarps) : b.arrive me =
      ({ b with arrivals := b.arrivals + 1, who := b.who ||| BitVec.twoPow 64 me }.start).settle := if_neg hn
  refine ⟨fun ha hs => ?_, fun hn hm => ?_, fun ha => if_pos ha⟩
  · rw [counted (by omega)]
    exact Barrier.settle_met hf ho ha hs
  · rw [counted hn, Barrier.settle_unmet hm]
    exact ⟨rfl, rfl, rfl⟩

/-- A counted sector at a barrier that has not stopped. -/
theorem Barrier.sector_counts :
    (b.sectors + 1 = b.expSectors → b.arrivals = b.expWarps → b.Ended b.sector) ∧
    (b.sectors ≠ b.expSectors → ¬(b.sectors + 1 = b.expSectors ∧ b.arrivals = b.expWarps) →
      b.sector.phase = b.phase ∧ b.sector.sectors = b.sectors + 1 ∧ b.sector.arrivals = b.arrivals) ∧
    (b.sectors = b.expSectors → b.sector = { b with overflow := true }) := by
  have running := Barrier.sector_of_running hf ho
  have counted (hn : b.sectors ≠ b.expSectors) : b.sector = ({ b with sectors := b.sectors + 1 }.start).settle :=
    running.trans (if_neg hn)
  refine ⟨fun hs ha => ?_, fun hn hm => ?_, fun hs => running.trans (if_pos hs)⟩
  · rw [counted (by omega)]
    exact Barrier.settle_met hf ho ha hs
  · have unmet := Barrier.settle_unmet (b := ({ b with sectors := b.sectors + 1 } : Barrier).start) (mt And.symm hm)
    rw [counted hn, unmet]
    exact ⟨rfl, rfl, rfl⟩

end

/-! ### The barrier group -/

section
variable {f : Fields} {s : State} {is : Issue} (h : (s.nat is f).Runs)
include h

/-- A stopped barrier traps the instructions that arrive at it, wait at it and read it (R233). -/
theorem exec_barrier_traps {x : Failure} (hx : ((s.nat is f).block.bar (f.w2.toNat % 16)).trapOf = some x) :
    let en := s.nat is f
    let trapped : Out := .next (en.raise s { cause := x.1, addr := x.2, lanes := en.e })
    exec (.bara f) s = trapped ∧ exec (.barw f) s = trapped ∧ exec (.bart f) s = trapped := by
  have hx : ((s.nat is f).block.bar (barNo f)).trapOf = some x := hx
  refine ⟨native_failIn h.1 ?_, native_failIn h.1 ?_, native_failIn h.1 ?_⟩
  · simp only [hx]
    rfl
  · have hx : (((s.nat is f).s.block (s.nat is f).bk).bar (barNo f)).trapOf = some x := hx
    simp only [Env.waitBarrier, hx]
    rfl
  · simp only [hx]
    rfl

/-- BARI changes a quiet barrier at which no slot waits, to counts that it may expect (R232). -/
theorem exec_bari :
    let en := s.nat is f
    let n := f.w2.toNat % 16
    let b := en.block.bar n
    let warps := (en.sA f).toNat
    let secs := (en.sB f).toNat
    let bad := b.arrivals ≠ 0 ∨ b.sectors ≠ 0 ∨ s.barWaited en.bk n = true ∨ warps = 0 ∨ 64 < warps ∨ 2 ^ 32 ≤ secs
    (bad → exec (.bari f) s = .next (en.raise s { cause := 0x31, lanes := en.e })) ∧
    (¬bad → exec (.bari f) s = .next (en.goesOn (s.modBlock en.bk fun k =>
      k.setBar n { phase := b.phase, expWarps := warps, expSectors := secs }))) := by
  intro en n b warps secs bad
  have refused : (!b.quiet || s.barWaited en.bk n || decide (warps = 0 ∨ 64 < warps ∨ 2 ^ 32 ≤ secs)) = true ↔ bad := by
    simp only [Barrier.quiet, Bool.or_eq_true, Bool.not_eq_true', decide_eq_false_iff_not, decide_eq_true_eq,
      not_and_or, or_assoc, bad]
  exact ⟨fun hb => native_fail h.1 (if_pos (refused.mpr hb)), fun hb => native_next h (if_neg (mt refused.mp hb))⟩

section
variable (hf : ((s.nat is f).block.bar (f.w2.toNat % 16)).failed = false)
  (ho : ((s.nat is f).block.bar (f.w2.toNat % 16)).overflow = false)
include hf ho

theorem exec_bara : let en := s.nat is f
    let n := f.w2.toNat % 16
    exec (.bara f) s = .next (en.goesOn (((s.release is.warp).modBlock en.bk fun k =>
      k.setBar n ((en.block.bar n).arrive (warpId is.warp))).putWarp is.warp
        (en.w.setS f.d.toNat ((en.block.bar n).phase.zeroExtend 64)))) := by
  have calm : ((s.nat is f).block.bar (barNo f)).trapOf = none := Barrier.trapOf_none hf ho
  refine native_next h ?_
  simp only [calm]
  rfl

theorem exec_barw : let en := s.nat is f
    let n := f.w2.toNat % 16
    let b := en.block.bar n
    exec (.barw f) s = .next (en.finish (if b.phase ≠ (en.sA f).extractLsb' 0 32 then .next (s.acquire is.warp 2)
      else .wait (s.modBlock en.bk fun k => k.setBar n b.start) (.barrier n ((en.sA f).extractLsb' 0 32)))) :=
  (native_eq h.1).trans (congrArg (fun r => Host.Outcome.next ((s.nat is f).finish r)) (Env.waitBarrier_of_calm hf ho))

theorem exec_bart : let en := s.nat is f
    let b := en.block.bar (f.w2.toNat % 16)
    exec (.bart f) s = .next (en.gives (en.w.setS f.d.toNat (BitVec.ofNat 64
      (if mb f 0 then b.sectors else b.phase.toNat + 2 ^ 32 * b.arrivals)))) := by
  intro en b
  have calm : ((s.nat is f).block.bar (barNo f)).trapOf = none := Barrier.trapOf_none hf ho
  have shown (sec : Bool) : b.test sec = if sec then b.sectors else b.phase.toNat + 2 ^ 32 * b.arrivals := by
    simp only [Barrier.test, show b.failed = false from hf, show b.overflow = false from ho, b2n, Bool.false_eq_true,
      if_false, Nat.mul_zero, Nat.add_zero]
  rw [← shown]
  refine native_done h ?_
  simp only [calm]
  rfl

end

end

end Sys2Proof.Machine
end

section
open Sys2Proof Sys2Proof.Machine

/-- Settles O31: the instructions by the state of their barrier, and the two counts by what each of them does. -/
theorem namedBarriersCompleteAndTheirPhasesEnd : Obligations.NamedBarriersCompleteAndTheirPhasesEnd := by
  unfold Obligations.NamedBarriersCompleteAndTheirPhasesEnd
  refine ⟨?group, fun b me hf ho => ?counts⟩
  case group =>
    intro f s is h en n b me warps secs put traps runs
    obtain ⟨refused, sets⟩ := exec_bari h
    refine ⟨fun ha hs hw h1 h64 hc => sets ?_, refused, fun ⟨hf, ho⟩ => exec_bara h hf ho, fun ⟨hf, ho⟩ hp => ?_,
      fun ⟨hf, ho⟩ hp => ?_, fun ⟨hf, ho⟩ => exec_bart h hf ho, 
      fun ho => exec_barrier_traps (x := (0x32, 0)) h (if_pos ho),
      fun ho hf => exec_barrier_traps (x := (0x33, BitVec.ofNat 64 b.failSeq)) h ?_⟩
    · have idle : ¬s.barWaited en.bk n = true := ne_true_of_eq_false hw
      rintro (bad | bad | bad | bad | bad | bad)
      exacts [bad ha, bad hs, idle bad, absurd bad (Nat.ne_of_gt h1), absurd bad (Nat.not_lt.mpr h64),
        absurd bad (Nat.not_le.mpr hc)]
    · rw [exec_barw h hf ho, if_pos hp, Env.finish_next _ _ h.2]
    · rw [exec_barw h hf ho, if_neg (not_not_intro hp), Env.finish_waits h.2, hp]
    · exact (if_neg (ne_true_of_eq_false ho)).trans (if_pos hf)
  case counts =>
    obtain ⟨arriveEnds, arriveCounts, arriveOver⟩ := Barrier.arrive_counts hf ho me
    obtain ⟨sectorEnds, sectorCounts, sectorOver⟩ := Barrier.sector_counts hf ho
    exact ⟨arriveEnds, sectorEnds, arriveCounts, sectorCounts, arriveOver, sectorOver⟩

end

section
/-! The package barriers (R235). -/
namespace Sys2Proof.Machine

/-! ### Package barriers -/

/-- A generation ends with its last expected arrival, and with no other. -/
theorem SBar.gen_arrive (b : SBar) : b.arrive.gen = b.gen ↔ b.arrivals + 1 ≠ b.expected := by
  have moved : b.gen + 1 ≠ b.gen := by simp
  unfold SBar.arrive
  split
  next h => exact iff_of_false moved (not_not_intro h)
  next h => exact iff_of_true rfl h

section
variable {f : Fields} {s : State} {is : Issue} (h : (s.nat is f).Runs)
include h

/-- SBAR.sync of a slot that has not arrived. -/
theorem exec_sbarSync_first (hw : ∀ m g, (s.nat is f).sl.wait ≠ some (.pkg m g true)) :
    let en := s.nat is f
    let n := f.w2.toNat % 8
    let b := en.sbar n
    let t := en.setSbar (s.release is.warp) n b.arrive
    exec (.sbarSync f) s = .next (en.finish (if b.expected = 0 then en.fail 0x31
      else if b.arrive.gen = b.gen then .wait t (.pkg n b.gen true) else .next (t.acquire is.warp 5))) := by
  refine (native_eq h.1).trans (congrArg (fun r => Host.Outcome.next ((s.nat is f).finish r)) ?_)
  dsimp only
  split
  next m g hg => exact absurd hg (hw m g)
  next => rfl

/-- SBAR.sync of a slot that has arrived at this barrier goes on once the generation has ended. -/
theorem exec_sbarSync_again {g : Word} (hw : (s.nat is f).sl.wait = some (.pkg (f.w2.toNat % 8) g true)) :
    let en := s.nat is f
    let n := f.w2.toNat % 8
    exec (.sbarSync f) s = .next (en.finish (if (en.sbar n).gen = g then .wait s (.pkg n g true)
      else .next (s.acquire is.warp 5))) := by
  refine (native_eq h.1).trans (congrArg (fun r => Host.Outcome.next ((s.nat is f).finish r)) ?_)
  have hn : f.w2.toNat % 8 = sbarNo f := rfl
  simp only [hw, hn, true_and]
  rfl

end

end Sys2Proof.Machine
end

section
open Sys2Proof Sys2Proof.Machine

/-- Settles O32: each instruction by its branches; an arrival ends the generation where it is the last expected. -/
theorem packageBarriersComplete : Obligations.PackageBarriersComplete := by
  unfold Obligations.PackageBarriersComplete
  intro f s is h en k b n put traps last arrived first
  have ended : last → ¬b.arrive.gen = b.gen := fun hl he => b.gen_arrive.mp he hl
  have open_ : ¬last → b.arrive.gen = b.gen := b.gen_arrive.mpr
  refine ⟨fun h1 hm ha => native_next h (if_neg ?_), fun hb => native_fail h.1 (if_pos hb),
    fun he => native_next h (if_neg he), fun he => ⟨native_fail h.1 (if_pos he), fun hw => ?_⟩,
    fun hg => native_waits h (if_pos hg), fun hg => native_next h (if_neg hg), fun hw he hl => ?_, fun hw he hl => ?_,
    fun g hw => ⟨fun hg => ?_, fun hg => ?_⟩⟩
  · rintro (bad | bad | bad)
    exacts [absurd bad (Nat.ne_of_gt h1), absurd bad (Nat.not_lt.mpr hm), bad ha]
  · exact (exec_sbarSync_first h hw).trans (by rw [if_pos he]; rfl)
  · exact (exec_sbarSync_first h hw).trans (by rw [if_neg he, if_neg (ended hl), Env.finish_next _ _ h.2]; rfl)
  · exact (exec_sbarSync_first h hw).trans (by rw [if_neg he, if_pos (open_ hl), Env.finish_waits h.2]; rfl)
  · exact (exec_sbarSync_again h hw).trans (by rw [if_pos hg, Env.finish_waits h.2])
  · exact (exec_sbarSync_again h hw).trans (by rw [if_neg hg, Env.finish_next _ _ h.2])

end

section
/-! The copy group: what its instructions publish (R222, R226 to R228), and the setting of rings and slots (R221). -/
namespace Sys2Proof.Machine

/-! ### Operands -/

theorem firstSome_pair {α : Type} {x y : Option α} (hx : x = none) (hy : y = none) : firstSome [x, y] = none := by
  rw [hx, hy]
  rfl

/-- A scratchpad operand inside the block's scratchpad passes its check (R177). -/
theorem Block.copyBounds_none {b : Block} {off : Word} {n : Nat} (h1 : off.toNat < 2 ^ 63)
    (h2 : off.toNat + n ≤ b.scratchSize) : b.copyBounds off n = none := by
  have low : off.msb = false := BitVec.msb_eq_false_iff_two_mul_lt.mpr (by omega)
  exact if_neg (by rw [low, Bool.false_or, decide_eq_true_eq]; exact Nat.not_lt.mpr h2)

theorem copySel_eq (f : Fields) :
    copySel f = (f.w2.toNat % 16, f.w2.toNat / 16 % 16, f.w2.toNat / 256 % 32) := by
  simp only [copySel, fld_eq, Nat.pow_zero, Nat.div_one]
  rfl

/-- DW3 of an entry, with the slots and the barrier of word 2 (Table 7.3). -/
theorem Env.entryTail_eq (en : Env) (f : Fields) (kind aux rop rtype : Nat) :
    en.entryTail f kind aux rop rtype =
      kind + 2 ^ 4 * (f.w2.toNat % 16) + 2 ^ 8 * (f.w2.toNat / 16 % 16) + 2 ^ 12 * (f.w2.toNat / 256 % 32) +
        2 ^ 17 * rop + 2 ^ 20 * rtype + 2 ^ 23 + 2 ^ 24 * warpId en.key + 2 ^ 32 * aux := by
  simp only [Env.entryTail, copySel_eq]

/-- The checks of the operands of CPY and CPYR. -/
theorem Env.rangeBounds_none {en : Env} {f : Fields}
    (hs : f.w2.toNat % 16 = 8 → (en.w.getS f.a.toNat).toNat < 2 ^ 63 ∧
      (en.w.getS f.a.toNat).toNat + (en.sB f).toNat % 2 ^ 32 ≤ en.block.scratchSize)
    (hd : f.w2.toNat / 16 % 16 = 8 → (en.w.getS (f.a.toNat + 1)).toNat < 2 ^ 63 ∧
      (en.w.getS (f.a.toNat + 1)).toNat + (en.sB f).toNat % 2 ^ 32 ≤ en.block.scratchSize) :
    firstSome (en.rangeBounds f) = none := by
  simp only [Env.rangeBounds, copySel_eq, Env.copyOffs, fld_zero]
  refine firstSome_pair ?_ ?_
  · split
    next h => exact Block.copyBounds_none (hs h).1 (hs h).2
    next => rfl
  · split
    next h => exact Block.copyBounds_none (hd h).1 (hd h).2
    next => rfl

/-- The checks of the index list and the image of CPYG and CPYX. -/
theorem Env.listBounds_none {en : Env} {f : Fields} {image : Word}
    (hl : (en.sB f).toNat % 2 ^ 32 + 4 * ((en.sB f).toNat / 2 ^ 32 % 2 ^ 16) ≤ en.block.scratchSize)
    (h1 : image.toNat < 2 ^ 63)
    (h2 : image.toNat + 32 * ((en.sB f).toNat / 2 ^ 32 % 2 ^ 16) * ((en.sB f).toNat / 2 ^ 48) ≤ en.block.scratchSize) :
    firstSome (en.listBounds f image) = none := by
  have rs : (en.sB f).toNat / 2 ^ 48 % 2 ^ 16 = (en.sB f).toNat / 2 ^ 48 := by omega
  have list : (BitVec.ofNat 64 ((en.sB f).toNat % 2 ^ 32)).toNat = (en.sB f).toNat % 2 ^ 32 :=
    Nat.mod_eq_of_lt (by omega)
  simp only [Env.listBounds, fld_eq, Nat.pow_zero, Nat.div_one, rs]
  refine firstSome_pair (Block.copyBounds_none ?_ ?_) (Block.copyBounds_none h1 h2)
  · omega
  · rw [list]
    exact hl

/-- The counts, alignment and pairing that CPYG and CPYX take. -/
theorem Env.listBad_eq_false {en : Env} {f : Fields} {gather : Bool}
    (hrows : (en.sB f).toNat / 2 ^ 32 % 2 ^ 16 ≠ 0) (h0 : (en.sB f).toNat / 2 ^ 48 ≠ 0)
    (hrs : (en.sB f).toNat / 2 ^ 48 ≤ 2047) (hl : (en.sB f).toNat % 2 ^ 32 % 4 = 0)
    (hp : if gather then f.w2.toNat / 16 % 16 = 8 ∧ f.w2.toNat % 16 ≠ 8
      else f.w2.toNat % 16 = 8 ∧ f.w2.toNat / 16 % 16 ≠ 8) : en.listBad f gather = false := by
  have rs : (en.sB f).toNat / 2 ^ 48 % 2 ^ 16 = (en.sB f).toNat / 2 ^ 48 := by omega
  have counts : ¬((en.sB f).toNat / 2 ^ 32 % 2 ^ 16 = 0 ∨ (en.sB f).toNat / 2 ^ 48 = 0 ∨ 2047 < (en.sB f).toNat / 2 ^ 48 ∨
      (en.sB f).toNat % 2 ^ 32 % 4 ≠ 0) := by omega
  simp only [Env.listBad, copySel_eq, fld_eq, Nat.pow_zero, Nat.div_one, rs, decide_eq_false counts, Bool.false_or]
  cases gather with
  | true => exact decide_eq_false (not_or.mpr ⟨not_not_intro hp.1, hp.2⟩)
  | false => exact decide_eq_false (not_or.mpr ⟨not_not_intro hp.1, hp.2⟩)

/-! ### Publication -/

/-- An instruction that publishes an entry in a ring (R222): it waits for space, and else writes the entry and notify
after a release. -/
def Env.Publishes (en : Env) (f : Fields) (r : Ring) (i : Instr) (e : Entry) : Prop :=
  let q := en.block.scratchWord r.off
  ((q - r.finished).toNat < 2 ^ r.k →
    exec i en.s = .next (en.goesOn (((en.s.release en.key).modBlock en.bk fun b =>
      (b.scratchWrite (r.off + 32 + 32 * (q.toNat % 2 ^ r.k)) ([e.soff, e.doff, e.p, e.x].flatMap (leBytes 8))).scratchWrite
        r.off (leBytes 4 (q + 1).toNat)).putWarp en.key (en.w.setS f.d.toNat (q.zeroExtend 64))))) ∧
  (2 ^ r.k ≤ (q - r.finished).toNat → exec i en.s = .next (en.waitsOn en.s .ringSpace))

section
variable {f : Fields} {s : State} {is : Issue} {i : Instr} {scratch : Env → List (Option Failure)} {bad : Env → Bool}
  {e : Env → Entry} (hi : exec i s = publisher f s scratch bad e)
include hi

/-- An instruction of the copy group that passes its checks publishes its entry. -/
theorem publishes_of_checks {r : Ring} (h : (s.nat is f).Runs) (hr : (s.nat is f).block.ring = some r)
    (hh : r.halted = false) (hs : firstSome (scratch (s.nat is f)) = none) (hb : bad (s.nat is f) = false) :
    (s.nat is f).Publishes f r i (e (s.nat is f)) := by
  have answer : exec i s = .next ((s.nat is f).finish ((s.nat is f).publish f (e (s.nat is f)))) := by
    refine hi.trans ((native_eq h.1).trans (congrArg (fun x => Host.Outcome.next ((s.nat is f).finish x)) ?_))
    simp only [hr, hh, hs, hb, Bool.false_eq_true, if_false]
  simp only [Env.publish, hr] at answer
  refine ⟨fun hq => answer.trans ?_, fun hq => answer.trans ?_⟩
  · have free : ¬(s.nat is f).block.ringFull r = true := by
      rw [Block.ringFull, decide_eq_true_eq]
      exact Nat.not_le.mpr hq
    rw [if_neg free, Env.finish_next _ _ h.2]
    rfl
  · have full : (s.nat is f).block.ringFull r = true := decide_eq_true hq
    rw [if_pos full, Env.finish_waits h.2]

/-- An instruction of the copy group of a block without a ring, or with a halted one, traps (R226). -/
theorem publisher_trap (h : (s.nat is f).Runs)
    (hr : (s.nat is f).block.ring = none ∨ ∃ r, (s.nat is f).block.ring = some r ∧ r.halted = true) :
    exec i s = .next ((s.nat is f).raise s { cause := 0x30, lanes := (s.nat is f).e }) := by
  refine hi.trans (native_fail h.1 ?_)
  obtain none_ | ⟨r, some_, halted⟩ := hr
  · simp only [none_]
  · simp only [some_, halted, if_true]

end

/-! ### CPYT -/

/-- The offset in memory of a CPYT (R227): a load has its destination in the scratchpad. -/
def Env.boxMem (en : Env) (f : Fields) : Word :=
  if f.w2.toNat / 16 % 16 = 8 then en.w.getS f.a.toNat else en.w.getS (f.a.toNat + 1)

/-- The scratchpad offset of a CPYT. -/
def Env.boxScratch (en : Env) (f : Fields) : Word :=
  if f.w2.toNat / 16 % 16 = 8 then en.w.getS (f.a.toNat + 1) else en.w.getS f.a.toNat

/-- The coordinates c2 and c3 of a CPYT (R227). -/
def Env.outerCoords (en : Env) (f : Fields) : Int × Int :=
  let x := (en.w.getS (f.c.toNat + 1)).toNat
  (signed 32 (x % 2 ^ 32), signed 32 (x / 2 ^ 32 % 2 ^ 32))

theorem exec_cpyt_eq (f : Fields) (s : State) : exec (.cpyt f) s =
    publisher f s
      (fun en => [if f.w2.toNat % 16 = 8 ∨ f.w2.toNat / 16 % 16 = 8 then en.block.copyBounds (en.boxScratch f) 1 else none])
      (fun en => decide ((f.w2.toNat % 16 = 8) = (f.w2.toNat / 16 % 16 = 8)) ||
        decide ((en.outerCoords f).1 < -32768 ∨ 32767 < (en.outerCoords f).1 ∨
          (en.outerCoords f).2 < -32768 ∨ 32767 < (en.outerCoords f).2))
      fun en =>
        { soff := (en.boxMem f).toNat, doff := (en.boxScratch f).toNat % 2 ^ 19 + 2 ^ 48 * ((en.sB f).toNat % 2 ^ 16)
          p := (en.sC f).toNat
          x := en.entryTail f 1 (wrap 16 (en.outerCoords f).1 + 2 ^ 16 * wrap 16 (en.outerCoords f).2) 0 0 } := by
  change execCpyt f s = _
  have halves (x lo : Nat) : bits x lo 32 = x / 2 ^ lo % 2 ^ 32 := by rw [bits, Nat.shiftRight_eq_div_pow]
  simp only [execCpyt, copySel_eq, halves, fld_zero, Env.copyOffs, Env.boxMem, Env.boxScratch, Env.outerCoords,
    decide_eq_true_eq, apply_ite BitVec.toNat, Nat.pow_zero, Nat.div_one]
  congr!

section
variable {f : Fields} {s : State} {is : Issue} {r : Ring} (h : (s.nat is f).Runs)
  (hr : (s.nat is f).block.ring = some r) (hh : r.halted = false)
include h hr hh

/-- CPYT names the scratchpad in exactly one slot, and its outer coordinates fit 16 bits (R227). -/
theorem exec_cpyt_publishes {sp : Word} {c2 c3 : Int} (hsp : (s.nat is f).boxScratch f = sp)
    (hc : (s.nat is f).outerCoords f = (c2, c3)) (one : f.w2.toNat % 16 = 8 ↔ f.w2.toNat / 16 % 16 ≠ 8)
    (inside : sp.toNat < 2 ^ 63 ∧ sp.toNat + 1 ≤ (s.nat is f).block.scratchSize)
    (l2 : -32768 ≤ c2) (u2 : c2 ≤ 32767) (l3 : -32768 ≤ c3) (u3 : c3 ≤ 32767) :
    let en := s.nat is f
    en.Publishes f r (.cpyt f)
      { soff := (en.boxMem f).toNat, doff := sp.toNat % 2 ^ 19 + 2 ^ 48 * ((en.sB f).toNat % 2 ^ 16)
        p := (en.sC f).toNat, x := en.entryTail f 1 (wrap 16 c2 + 2 ^ 16 * wrap 16 c3) 0 0 } := by
  subst hsp
  have checks := publishes_of_checks (exec_cpyt_eq f s) h hr hh
  simp only [hc] at checks
  refine checks ?_ ?_
  · rw [Block.copyBounds_none inside.1 inside.2, ite_self]
    rfl
  · have apart : ¬((f.w2.toNat % 16 = 8) = (f.w2.toNat / 16 % 16 = 8)) := fun same =>
      iff_not_self ((Iff.of_eq same).symm.trans one)
    have fits : ¬(c2 < -32768 ∨ 32767 < c2 ∨ c3 < -32768 ∨ 32767 < c3) := by omega
    rw [decide_eq_false apart, decide_eq_false fits]
    rfl

end

end Sys2Proof.Machine
end

section
open Sys2Proof Sys2Proof.Machine

/-- Settles O28: each instruction passes its checks, and then publishes its entry or waits for space. CPYT's check of its
scratchpad operand takes one byte (log 50), and c2 and c3 are the halves of s[C + 1] (log 15). -/
theorem copyInstructionsPublishTheirEntries : Obligations.CopyInstructionsPublishTheirEntries := by
  unfold Obligations.CopyInstructionsPublishTheirEntries
  intro f s is r h en b word ss ds bar a a1 x n list rows rs stride q inScratch publishes hr hh
  have published {i : Instr} {kind soff doff p aux rop rtype : Nat}
      (hp : en.Publishes f r i { soff, doff, p, x := en.entryTail f kind aux rop rtype }) :
      publishes i kind soff doff p aux rop rtype := by
    rw [Env.entryTail_eq] at hp
    exact hp
  refine ⟨fun hs hd => published ?cpy, fun hs hd ha ha1 hn => published ?cpyr,
    fun one hsp l2 u2 l3 u3 => published ?cpyt, fun hrows h0 hrs hl hb => ⟨fun hds hss hi => published ?cpyg,
      fun hss hds hi => published ?cpyx⟩⟩
  case cpy => exact publishes_of_checks (i := .cpy f) rfl h hr hh (Env.rangeBounds_none hs hd) rfl
  case cpyr =>
    have fields : fld f.mod 0 3 = f.mod.toNat % 8 ∧ fld f.mod 3 3 = f.mod.toNat / 8 % 8 := ⟨rfl, fld_eq f.mod 3 3⟩
    have checks := publishes_of_checks (i := .cpyr f) rfl h hr hh (Env.rangeBounds_none hs hd)
    simp only [fields] at checks
    refine checks (decide_eq_false ?_)
    rintro (bad | bad | bad)
    exacts [bad ha, bad ha1, bad hn]
  case cpyt =>
    exact exec_cpyt_publishes h hr hh rfl rfl one hsp l2 u2 l3 u3
  case cpyg =>
    exact publishes_of_checks (i := .cpyg f) rfl h hr hh (Env.listBounds_none hb hi.1 hi.2)
      (Env.listBad_eq_false hrows h0 hrs hl ⟨hds, hss⟩)
  case cpyx =>
    exact publishes_of_checks (i := .cpyx f) rfl h hr hh (Env.listBounds_none hb hi.1 hi.2)
      (Env.listBad_eq_false hrows h0 hrs hl ⟨hss, hds⟩)

end

section
/-! Rings and copy slots (R221). -/
namespace Sys2Proof.Machine

/-- A block's new ring, with a header of zeros. -/
def Block.freshRing (b : Block) (off k : Nat) : Block :=
  ({ b with ring := some { off, k } }.scratchWrite off (List.replicate 32 0)).putRing { off, k }

/-- What a CPY.init with sound operands answers, by the ring that the block has. -/
def Env.ringAnswer (en : Env) (off k : Nat) : Res :=
  match en.block.ring with
  | none => .next (en.s.modBlock en.bk fun b => b.freshRing off k)
  | some r =>
    if !r.halted && decide (en.block.notify r ≠ r.finished) then en.fail 0x30
    else if r.halted && !(en.block.drained r) then .wait en.s .ringDrain
    else .next (en.s.modBlock en.bk fun b => (if r.halted then b.abandon r else b).freshRing off k)

section
variable {en : Env} {off k : Nat}

theorem Env.ringAnswer_none (hr : en.block.ring = none) :
    en.ringAnswer off k = .next (en.s.modBlock en.bk fun b => b.freshRing off k) := by
  simp only [Env.ringAnswer, hr]

/-- A ring that runs is replaced where it is empty; its halt is asked for otherwise. -/
theorem Env.ringAnswer_running {r : Ring} (hr : en.block.ring = some r) (hh : r.halted = false) :
    en.ringAnswer off k = if en.block.notify r ≠ r.finished then en.fail 0x30
      else .next (en.s.modBlock en.bk fun b => b.freshRing off k) := by
  simp only [Env.ringAnswer, hr, hh, Bool.not_false, Bool.true_and, decide_eq_true_eq, Bool.false_and, Bool.false_eq_true,
    if_false]

/-- A halted ring is replaced once its started entries have ended, and the others are abandoned. -/
theorem Env.ringAnswer_halted {r : Ring} (hr : en.block.ring = some r) (hh : r.halted = true) :
    en.ringAnswer off k = if en.block.drained r = false then .wait en.s .ringDrain
      else .next (en.s.modBlock en.bk fun b => (b.abandon r).freshRing off k) := by
  simp only [Env.ringAnswer, hr, hh, Bool.not_true, Bool.false_and, Bool.false_eq_true, if_false, Bool.true_and,
    Bool.not_eq_true', if_true]

end

/-- CPY.init whose ring lies in the scratchpad. -/
theorem exec_cpyInit {f : Fields} {s : State} {is : Issue} (h : (s.nat is f).Runs)
    (h1 : ((s.nat is f).sA f).toNat < 2 ^ 63)
    (h2 : ((s.nat is f).sA f).toNat + (32 + 32 * 2 ^ (f.w2.toNat % 16)) ≤ (s.nat is f).block.scratchSize) :
    let en := s.nat is f
    let off := (en.sA f).toNat
    let k := f.w2.toNat % 16
    exec (.cpyInit f) s =
      .next (en.finish (if off % 32 ≠ 0 ∨ k < 4 ∨ 8 < k then en.fail 0x22 else en.ringAnswer off k)) := by
  have inside : (s.nat is f).block.copyBounds ((s.nat is f).sA f) (32 + 32 * 2 ^ fld f.w2 0 4) = none :=
    Block.copyBounds_none h1 h2
  refine (native_eq h.1).trans (congrArg (fun x => Host.Outcome.next ((s.nat is f).finish x)) ?_)
  simp only [inside]
  rfl

end Sys2Proof.Machine
end

section
open Sys2Proof Sys2Proof.Machine

/-- Settles O29: CPY.init by the ring that the block has, CPY.cap by the use of its slot, and the trap by the form that
the copy instructions share. -/
theorem ringsAndSlotsAreSet : Obligations.RingsAndSlotsAreSet := by
  unfold Obligations.RingsAndSlotsAreSet
  intro f s is h en b off k n fails zeroed
  refine ⟨fun h1 h2 => ⟨fun bad => (exec_cpyInit h h1 h2).trans (by rw [if_pos bad]; rfl), fun ha h4 h8 => ?init⟩,
    fun hn => native_next h (if_neg (ne_true_of_eq_false hn)), fun hn => native_waits h (if_pos hn), fun hr =>
      ⟨publisher_trap (i := .cpy f) rfl h hr, publisher_trap (i := .cpyt f) rfl h hr, publisher_trap (i := .cpyg f) rfl h hr,
        publisher_trap (i := .cpyx f) rfl h hr, publisher_trap (i := .cpyr f) rfl h hr⟩⟩
  case init =>
    have good : ¬(off.toNat % 32 ≠ 0 ∨ k < 4 ∨ 8 < k) := by omega
    have answer : exec (.cpyInit f) s = .next (en.finish (en.ringAnswer off.toNat k)) :=
      (exec_cpyInit h h1 h2).trans (by rw [if_neg good])
    refine ⟨fun hr => ?_, fun r hr => ⟨fun hh hq => ?_, fun hh hq => ?_, fun hh hd => ?_, fun hh hd => ?_⟩⟩
    · exact answer.trans (by rw [Env.ringAnswer_none hr, Env.finish_next _ _ h.2]; rfl)
    · exact answer.trans (by rw [Env.ringAnswer_running hr hh, if_pos (c := b.notify r ≠ r.finished) hq]; rfl)
    · exact answer.trans (by 
        rw [Env.ringAnswer_running hr hh, if_neg (c := b.notify r ≠ r.finished) (not_not_intro hq), Env.finish_next _ _ h.2]
        rfl)
    · exact answer.trans (by rw [Env.ringAnswer_halted hr hh, if_pos hd, Env.finish_waits h.2]; rfl)
    · exact answer.trans (by
        rw [Env.ringAnswer_halted hr hh, if_neg (ne_false_of_eq_true hd), Env.finish_next _ _ h.2]; rfl)

end

section
/-! Grid accesses, grid control and tile tables (R238 to R249). -/
namespace Sys2Proof.Machine

section
variable {f : Fields} {s : State} {is : Issue} (h : (s.nat is f).Runs)

include h in
/-- A grid access whose pattern it takes, and whose checks its answer passes, goes on. -/
theorem native_gridAccess {ok : Job → BitVec 128 → Bool} {go : Env → Job → BitVec 128 → Res} {t : State}
    (hp : (patValid ((s.nat is f).w.getN f.a.toNat) && ok (s.nat is f).job ((s.nat is f).w.getN f.a.toNat)) = true)
    (hb : go (s.nat is f) (s.nat is f).job ((s.nat is f).w.getN f.a.toNat) = .next t) :
    (native f s fun en => en.withPattern f ok (go en)) = .next ((s.nat is f).goesOn t) :=
  (native_goodPattern h.1 hp).trans (by rw [hb, Env.finish_next _ _ h.2])

/-- The destination and the source of a GRED or GCPY pass their checks (R241). -/
theorem Env.gridRange_passes {en : Env} {align : Nat} {go : Cap → Cap → Res}
    (hd : en.s.capCheck en.ctx (en.w.getC f.b.toNat) (permW ||| permRM) (en.w.getS (f.c.toNat + 1))
      (en.w.getS (f.c.toNat + 2)).toNat align = none)
    (hs : en.s.capCheck en.ctx (en.w.getC (f.w2.toNat % 16)) permR (en.w.getS (f.c.toNat + 0))
      (en.w.getS (f.c.toNat + 2)).toNat align = none) :
    en.gridRange f align go = go (en.w.getC f.b.toNat) (en.w.getC (f.w2.toNat % 16)) := by
  have src : fld f.w2 0 4 = f.w2.toNat % 16 := rfl
  simp only [Env.gridRange, Env.quad, src, hd, hs]

end

end Sys2Proof.Machine
end

section
open Sys2Proof Sys2Proof.Machine

/-- Settles O34: each access by its pattern and its checks, which `passes` and the ranges make good. -/
theorem gridAccessesAreIssued : Obligations.GridAccessesAreIssued := by
  unfold Obligations.GridAccessesAreIssued
  intro f s is h en j pat c src hd off passes n q len sees hv
  have hoff (uni : Bool) : off uni = en.gridOffset uni f := (Env.gridOffset_eq en f uni).symm
  have valid {x : Bool} (hx : x = true) : (patValid pat && x) = true := by
    rw [hv, hx]
    rfl
  clear_value off
  obtain rfl : off = fun uni => en.gridOffset uni f := funext hoff
  refine ⟨?gst, ?gatom, ?gred, ?gcpy⟩
  case gst =>
    intro size bytes t head hp
    refine native_gridAccess (ok := fun _ _ => true) h (valid rfl) ?_
    have clear : (s.nat is f).gridLanes ((s.nat is f).w.getC f.b.toNat) (permW ||| permRM) (sizeBytes (gridSize f))
        ((s.nat is f).gridOffset (mb f 3) f) = none :=
      Env.gridLanes_none hp
    simp only [clear]
    rfl
  case gatom =>
    intro wide w op head val payload started hp
    have clear : (s.nat is f).gridLanes ((s.nat is f).w.getC f.b.toNat) (permR ||| permW ||| permAT ||| permRM)
        (if mb f 4 then 8 else 4) ((s.nat is f).gridOffset (mb f 5) f) = none :=
      Env.gridLanes_none hp
    have issued (hk : (mb f 6 || decide (patCount j pat = 1)) = true) : exec (.gatom f) s =
        .next (en.goesOn (started (if mb f 6 then none else some (en.e, f.d.toNat, w)))) := by
      refine native_gridAccess (ok := fun j n => mb f 6 || decide (patCount j n = 1)) h (valid hk) ?_
      simp only [clear]
      rfl
    refine ⟨fun hr => (issued (by rw [hr, Bool.true_or])).trans (by rw [if_pos hr]), fun hr hn => ?_⟩
    rw [issued (by rw [decide_eq_true hn, Bool.or_true]), if_neg (ne_true_of_eq_false hr)]
  case gred =>
    intro op ty head hm hl hd hs
    have types : fld f.mod 0 3 = op ∧ fld f.mod 3 3 = ty := ⟨rfl, fld_eq f.mod 3 3⟩
    refine native_gridAccess (ok := isMember) h (valid hm) ?_
    have fits : redLength op ty ((s.nat is f).quad f 2).toNat = true := hl
    simp only [types, fits, Bool.not_true, Bool.false_eq_true, if_false]
    exact Env.gridRange_passes hd hs
  case gcpy =>
    intro hd hs
    refine native_gridAccess (ok := fun _ _ => true) h (valid rfl) ?_
    exact Env.gridRange_passes hd hs

end

section
/-! The grid control group: GWAIT, GPAT and GCRD (R238, R239, R242). -/
namespace Sys2Proof.Machine

/-! ### The axes of a pattern -/

theorem fld_extract {n : Nat} (x : BitVec n) {lo m k len : Nat} (h : k + len ≤ m) :
    fld (x.extractLsb' lo m) k len = fld x (lo + k) len := by
  simp only [fld, BitVec.extractLsb'_toNat, Nat.shiftRight_add]
  refine Nat.eq_of_testBit_eq fun i => ?_
  simp only [Nat.testBit_mod_two_pow, Nat.testBit_shiftRight]
  by_cases hi : i < len
  · rw [decide_eq_true hi, decide_eq_true (show k + i < m by omega)]
    rfl
  · rw [decide_eq_false hi]
    rfl

/-- The 24 bits of an axis of a pattern. -/
def patField (n : BitVec 128) (a : Nat) : BitVec 24 := n.extractLsb' (24 * a) 24

theorem patLo_eq (n : BitVec 128) (a : Nat) : patLo n a = fld (patField n a) 0 11 :=
  (fld_extract n (lo := 24 * a) (m := 24) (k := 0) (len := 11) (by decide)).symm

theorem patHi_eq (n : BitVec 128) (a : Nat) : patHi n a = fld (patField n a) 11 11 := (fld_extract n (by decide)).symm

theorem patMode_eq (n : BitVec 128) (a : Nat) : patMode n a = fld (patField n a) 22 2 := (fld_extract n (by decide)).symm

theorem getLsbD_ofNat_mul_two_pow (x k j : Nat) :
    (BitVec.ofNat 128 (x * 2 ^ k)).getLsbD j = (decide (j < 128) && (decide (k ≤ j) && x.testBit (j - k))) := by
  rw [BitVec.getLsbD_ofNat, Nat.testBit_mul_two_pow]

/-- An axis of a pattern after one axis is replaced. -/
theorem patField_patSetAxis (n : BitVec 128) {a b mode lo hi : Nat} (hb : b < 5)
    (hv : lo + 2 ^ 11 * hi + 2 ^ 22 * mode < 2 ^ 24) :
    patField (patSetAxis n a mode lo hi) b =
      if b = a then BitVec.ofNat 24 (lo + 2 ^ 11 * hi + 2 ^ 22 * mode) else patField n b := by
  refine BitVec.eq_of_getLsbD_eq fun i hi' => ?_
  have inside : 24 * b + i < 128 := by omega
  simp only [patField, patSetAxis, BitVec.getLsbD_extractLsb', BitVec.getLsbD_or, BitVec.getLsbD_and, BitVec.getLsbD_not,
    getLsbD_ofNat_mul_two_pow, hi', inside, decide_true, Bool.true_and, Nat.testBit_two_pow_sub_one]
  split
  next h =>
    subst h
    have here : 24 * b + i - 24 * b = i := by omega
    rw [here, decide_eq_true hi', decide_eq_true (Nat.le_add_right ..), BitVec.getLsbD_ofNat, decide_eq_true hi']
    simp
  next h =>
    have outside : (decide (24 * a ≤ 24 * b + i) && decide (24 * b + i - 24 * a < 24)) = false := by
      rw [Bool.and_eq_false_iff, decide_eq_false_iff_not, decide_eq_false_iff_not]
      omega
    have clear : (decide (24 * a ≤ 24 * b + i) &&
        (lo + 2 ^ 11 * hi + 2 ^ 22 * mode).testBit (24 * b + i - 24 * a)) = false := by
      rw [Bool.and_eq_false_iff, decide_eq_false_iff_not]
      by_cases ha : 24 * a ≤ 24 * b + i
      · exact .inr (Nat.testBit_lt_two_pow (Nat.lt_of_lt_of_le hv (Nat.pow_le_pow_right (by decide) (by omega))))
      · exact .inl ha
    rw [outside, clear]
    simp [hi']

/-- GPAT.ax replaces the fields of its axis and keeps those of the others (R239). -/
theorem patSetAxis_fields (n : BitVec 128) {a mode lo hi : Nat} (ha : a < 5) (hl : lo < 2 ^ 11) (hh : hi < 2 ^ 11)
    (hm : mode < 4) :
    let m := patSetAxis n a mode lo hi
    patLo m a = lo ∧ patHi m a = hi ∧ patMode m a = mode ∧
      ∀ b < 5, b ≠ a → patLo m b = patLo n b ∧ patHi m b = patHi n b ∧ patMode m b = patMode n b := by
  have hv : lo + 2 ^ 11 * hi + 2 ^ 22 * mode < 2 ^ 24 := by omega
  have here := (patField_patSetAxis n (a := a) (b := a) ha hv).trans (if_pos rfl)
  have value : (BitVec.ofNat 24 (lo + 2 ^ 11 * hi + 2 ^ 22 * mode)).toNat = lo + 2 ^ 11 * hi + 2 ^ 22 * mode :=
    Nat.mod_eq_of_lt hv
  simp only [patLo_eq, patHi_eq, patMode_eq, here, fld_eq, value]
  refine ⟨by omega, by omega, by omega, fun b hb hn => ?_⟩
  rw [(patField_patSetAxis n (a := a) hb hv).trans (if_neg hn)]
  exact ⟨rfl, rfl, rfl⟩

/-! ### The coordinates of this module -/

/-- A job has five coordinates (R29). -/
theorem Job.length_coord (j : Job) : j.coord.length = 5 := List.length_map ..

/-! ### The instructions -/

section
variable {f : Fields} {s : State} {is : Issue} (h : (s.nat is f).Runs)
include h

/-- GWAIT on the handle of a grid operation, by the status of the operation (R242). -/
theorem exec_gwait_grid {x : OpStat} (h0 : ((s.nat is f).w.getH f.a.toNat).value ≠ 0)
    (h4 : ((s.nat is f).w.getH f.a.toNat).value.toNat / 2 ^ 36 % 16 = 4)
    (hx : mapFind s.ops ((s.nat is f).w.getH f.a.toNat).uid = some x) :
    let en := s.nat is f
    let v := en.w.getH f.a.toNat
    exec (.gwait f) s = .next (en.finish (if x.open then .wait s (.handle v.uid false)
      else if x.state = 5 then en.fail 0x38 v.value
      else en.done (en.w.setS f.d.toNat (BitVec.ofNat 64 x.progress)))) := by
  have grp : fld ((s.nat is f).w.getH f.a.toNat).value 36 4 = 4 := (fld_eq ..).trans h4
  refine (native_eq h.1).trans (congrArg (fun r => Host.Outcome.next ((s.nat is f).finish r)) ?_)
  refine (if_neg h0).trans ((if_neg (not_not_intro grp)).trans ?_)
  simp only [State.nat_s, hx]

/-- GCRD.idx reads this module's position among the matched ones, or all ones (R239). -/
theorem exec_gcrdIdx {o : Option Nat}
    (ho : (if patValid ((s.nat is f).w.getN f.a.toNat) = true then
      patIndex (s.nat is f).job ((s.nat is f).w.getN f.a.toNat) else none) = o) :
    exec (.gcrdIdx f) s = .next ((s.nat is f).gives ((s.nat is f).w.setS f.d.toNat
      ((o.map (BitVec.ofNat 64)).getD (BitVec.allOnes 64)))) := by
  refine native_done h ?_
  simp only [ho]
  cases o <;> rfl

end

end Sys2Proof.Machine
end

section
open Sys2Proof Sys2Proof.Machine

/-- Settles O36: GWAIT by the status of its operation, GPAT by the fields of the axes, GCRD by what it reads. -/
theorem gridControlCompletes : Obligations.GridControlCompletes := by
  unfold Obligations.GridControlCompletes
  intro f s is h en j d v n word reads
  refine ⟨fun h0 => native_done h (if_pos h0), fun h0 h4 => ?_, fun h0 h4 x hx => ?wait,
    ⟨_, native_done h rfl, fun ha => ?axis⟩, native_done h rfl, native_done h rfl, native_done h ?coord, native_done h rfl,
    fun hv i hi => exec_gcrdIdx (o := some i) h ((if_pos hv).trans hi), fun hn => exec_gcrdIdx (o := none) h ?absent⟩
  · have grp : fld v.value 36 4 ≠ 4 := fun e => h4 ((fld_eq ..).symm.trans e)
    exact native_fail h.1 ((if_neg h0).trans (if_pos grp))
  case wait =>
    have answer := exec_gwait_grid h h0 h4 hx
    refine ⟨fun hs => ?_, fun hs => ?_, fun h1 h5 => ?_⟩
    · rw [answer, if_pos (show x.open = true from decide_eq_true hs), Env.finish_waits h.2]
    · have ended : ¬x.open = true := by simp only [OpStat.open, hs]; decide
      rw [answer, if_neg ended, if_pos hs]
      rfl
    · have ended : ¬x.open = true := by rw [OpStat.open, decide_eq_true_eq]; exact Nat.not_le.mpr h1
      exact answer.trans (by rw [if_neg ended, if_neg h5]; exact congrArg _ (Env.finish_next _ _ h.2))
  case axis =>
    have mode : fld f.w2 4 2 = word / 16 % 4 := fld_eq ..
    rw [← mode]
    exact patSetAxis_fields n ha (Nat.mod_lt _ (by decide)) (Nat.mod_lt _ (by decide)) (Nat.mod_lt _ (by decide))
  case coord =>
    refine congrArg (fun x => en.done (en.w.setS d (BitVec.ofNat 64 x))) ?_
    change j.coord.getD (word % 8) 0 = _
    split
    next => rfl
    next hw => exact List.getD_eq_default _ _ (by rw [j.length_coord]; exact Nat.not_lt.mp hw)
  case absent =>
    obtain invalid | outside := hn
    · exact if_neg (ne_true_of_eq_false invalid)
    · exact (if_congr Iff.rfl outside rfl).trans (ite_self _)

end

section
/-! Tile tables: the entry that TTFIRE and TTWAIT name (R247 to R249). -/
namespace Sys2Proof.Machine

section
variable {en : Env} {f : Fields} {go : State → Nat → Nat → Cap → TileView → Res}

/-- A table that is placed in no arm slot, and an entry beyond the table's end, trap. -/
theorem Env.withTile_outside (h : en.block.armSlot (en.w.getC f.b.toNat) = none ∨
      (en.w.getC f.b.toNat).len.toNat < 64 + 64 * ((en.sA f).toNat + 1)) :
    en.withTile f go = en.fail 0x39 := by
  cases ha : en.block.armSlot (en.w.getC f.b.toNat) with
  | none => simp only [Env.withTile, ha]
  | some slot =>
    have short := h.resolve_left (by rw [ha]; exact Option.some_ne_none _)
    have beyond : tileFits (en.w.getC f.b.toNat) (en.sA f).toNat = false := decide_eq_false (Nat.not_le.mpr short)
    simp only [Env.withTile, ha, beyond, Bool.not_false, if_true]

/-- An entry of an armed table that passes its checks and is in use is read, and the instruction goes on with it. -/
theorem Env.withTile_read {slot : Nat} {x : TileView} {s1 : State}
    (ha : en.block.armSlot (en.w.getC f.b.toNat) = some slot)
    (hl : 64 + 64 * ((en.sA f).toNat + 1) ≤ (en.w.getC f.b.toNat).len.toNat)
    (hc : en.s.capCheck en.ctx (en.w.getC f.b.toNat) (permR ||| permW ||| permLC ||| permEN) 0
      (64 + 64 * ((en.sA f).toNat + 1)) 0 = none)
    (hv : (en.s.flushFor en.key [((en.w.getC f.b.toNat).base.toNat, 64, false),
      ((tileEntry (en.w.getC f.b.toNat) (en.sA f).toNat).toNat, 64, false)]).tileView en.block.core en.ctx
        (en.w.getC f.b.toNat) (en.sA f).toNat = (.ok x, s1))
    (hs : x.src.tag = true) (hr : x.rem.tag = true) (hu : x.fld 4 63 1 = 1) :
    en.withTile f go = go s1 slot (en.sA f).toNat (en.w.getC f.b.toNat) x := by
  have fits : tileFits (en.w.getC f.b.toNat) (en.sA f).toNat = true := decide_eq_true hl
  have used : decide (x.fld 4 63 1 = 0) = false := decide_eq_false (by rw [hu]; decide)
  simp only [Env.withTile, ha, fits, hc, hv, hs, hr, used, Bool.not_true, Bool.or_self, Bool.false_eq_true, if_false]

end

section
variable {f : Fields} {s s1 u : State} {is : Issue} {slot i k : Nat} {t : Cap} {x : TileView} (h : (s.nat is f).Runs)
  (read : ∀ {go}, (s.nat is f).withTile f go = go s1 slot i t x)
  (hk : (s1.release is.warp).newHandle is.warp f.d.toNat 4 3 none = (k, u))
include h read hk

/-- TTFIRE of an entry in flight has a complete handle (log 16). -/
theorem exec_ttfire_inFlight (h2 : x.fld 6 0 32 = 2) :
    exec (.ttfire f) s = .next ((s.nat is f).goesOn (u.modStat k fun y => { y with state := 2 })) := by
  refine native_next h (read.trans ?_)
  simp only [State.nat_key, hk, h2, if_true]

/-- TTFIRE marks an entry as fired, and starts its operation. -/
theorem exec_ttfire_fires {v : State} (h2 : x.fld 6 0 32 ≠ 2)
    (hw : u.engineWrite (s.nat is f).block.core (s.nat is f).ctx (tileEntry t i + 48) (leBytes 4 1) = (.ok (), v)) :
    exec (.ttfire f) s = .next ((s.nat is f).goesOn ((v.modStat k fun y => { y with state := 1 }).fireTile k is.warp
      (mapGet {} v.ops k).value false (slot, i, t))) := by
  refine native_next h (read.trans ?_)
  simp only [State.nat_key, hk, h2, hw, if_false]

end

end Sys2Proof.Machine
end

section
open Sys2Proof Sys2Proof.Machine

/-- Settles O37: an entry outside its table traps; one that is read goes on by the fields that the instruction asks of
it. -/
theorem tileTablesArmFireAndWait : Obligations.TileTablesArmFireAndWait := by
  unfold Obligations.TileTablesArmFireAndWait
  intro f s is h en t i at_ s0 traps
  refine ⟨native_next h rfl, fun hb => ⟨native_fail h.1 (Env.withTile_outside hb), native_fail h.1 (Env.withTile_outside hb)⟩,
    fun slot x s1 ha hl hc hv hs hr hu => ?_⟩
  have read {go : State → Nat → Nat → Cap → TileView → Res} : (s.nat is f).withTile f go = go s1 slot i t x :=
    Env.withTile_read ha hl hc hv hs hr hu
  refine ⟨⟨fun h2 => ?fired, fun h2 v hw => ?fires⟩, fun hn => ?waits, fun hn v hw => ?takes⟩
  case fired => exact exec_ttfire_inFlight h read rfl h2
  case fires => exact exec_ttfire_fires h read rfl h2 hw
  case waits => exact native_waits h (read.trans (if_pos hn))
  case takes =>
    refine native_next h (read.trans ((if_neg (Nat.not_lt.mpr hn)).trans ?_))
    have wrote : s1.engineWrite (s.nat is f).block.core (s.nat is f).ctx (tileEntry t i + 52)
      (leBytes 4 (x.fld 6 32 32 - x.fld 7 0 32)) = (.ok (), v) := hw
    simp only [wrote]
    rfl

end

section
/-! The copy ring: the start, the failure and the end of an entry, and the sectors that it moves (R220 to R225, R230,
R233). -/
namespace Sys2Proof.Machine

/-! ### Changes of one key and of one block -/

/-- Of two values put at one key the second is listed. -/
theorem mapPut_mapPut {α : Type} (m : Map α) (a : Nat) (v w : α) : mapPut (mapPut m a v) a w = mapPut m a w := by
  induction m with
  | nil => simp [mapPut]
  | cons e r ih =>
    obtain ⟨k, x⟩ := e
    simp only [mapPut]
    split
    next hlt => simp [mapPut]
    next hge =>
      split
      next he => simp [mapPut]
      next hn => simp [mapPut, hge, hn, ih]

theorem mapModify_mapModify {α : Type} (m : Map α) (a : Nat) (f g : α → α) :
    mapModify (mapModify m a f) a g = mapModify m a fun x => g (f x) := by
  cases h : mapFind m a with
  | none => simp only [mapModify, h]
  | some v => simp only [mapModify, h, mapFind_put, if_true, mapPut_mapPut]

theorem State.modBlock_modBlock (s : State) (k : Nat) (f g : Block → Block) :
    (s.modBlock k f).modBlock k g = s.modBlock k fun b => g (f b) := by
  simp only [State.modBlock, mapModify_mapModify]

theorem Block.length_scratchRead (b : Block) (i n : Nat) : (b.scratchRead i n).length = n := by
  induction n generalizing i with
  | zero => rfl
  | succ n ih => rw [Block.scratchRead, List.length_cons, ih]

/-! ### The start of an entry -/

/-- What a ring that may start an entry makes of the next one (R224, R225, R396). -/
def State.startNext (s : State) (bk : Nat) (r : Ring) : State :=
  let b := s.block bk
  let words := bytesDw 4 (b.scratchRead (r.entryAt r.head) 32)
  let e := entryOf words
  if s.copyHeld bk e e.listFoot then s
  else
    match b.tornStart r e with
    | some row =>
      ((s.sramError b.core 1 row).modBlock bk fun b => b.failEntry r r.head (r.head + 1) e.bar 6).endBlock bk
    | none =>
      match s.startEntry bk e with
      | .error c =>
        let s := match s.layoutError bk e with
          | some pa => if c = 6 then s.memError pa true else s
          | none => s
        (s.modBlock bk fun b => b.failEntry r r.head (r.head + 1) e.bar c).endBlock bk
      | .ok ps => if s.copyHeld bk e (e.foot ps) then s else s.modBlock bk fun b => b.startCopy r words ps

/-- A ring that runs, none of whose started entries moves sectors, and whose context's engines run, starts its next
entry (R224). -/
def State.RingWaits (s : State) (bk : Nat) (r : Ring) : Prop :=
  r.halted = false ∧ r.begun = [] ∧ (∀ c ∈ (s.block bk).copies, c.2.fault ≠ none) ∧
    s.engineStopped (s.block bk).ctx = false

/-- An entry is published that has not started, and the header is as the engine left it (R220, R222). -/
def Block.RingSound (b : Block) (r : Ring) : Prop :=
  b.ringCorrupt r = false ∧ (b.notify r - r.finished).toNat ≤ 2 ^ r.k ∧ b.notify r ≠ r.head

section
variable {s : State} {bk : Nat} {r : Ring} (hr : (s.block bk).ring = some r)
include hr

/-- A halted ring starts nothing (R222). -/
theorem exec_copyEntryStart_halted (hh : r.halted = true) (hb : r.begun = []) :
    exec (.copyEntryStart bk) s = .next s := by
  change execCopyEntryStart bk s = _
  have ended : (r.resumed r.head.toNat).isNone = true := by rw [Ring.resumed, hb]; rfl
  simp only [execCopyEntryStart, hr, hh, ended, Bool.and_self, Bool.true_or, if_true]

section
variable (hw : s.RingWaits bk r)
include hw

theorem exec_copyEntryStart_waiting :
    exec (.copyEntryStart bk) s = .next
      (if ((s.block bk).ringCorrupt r || decide (2 ^ r.k < ((s.block bk).notify r - r.finished).toNat)) = true then
        s.modBlock bk fun b => b.putRing (r.halt r.head 5)
      else if (s.block bk).notify r = r.head then s else s.startNext bk r) := by
  change execCopyEntryStart bk s = _
  obtain ⟨runs, fresh, stuck, goes⟩ := hw
  have new : r.resumed r.head.toNat = none := by rw [Ring.resumed, fresh]; rfl
  have all : ((s.block bk).copies.all fun c => c.2.fault.isSome) = true :=
    List.all_eq_true.mpr fun c hc => Option.isSome_iff_ne_none.mpr (stuck c hc)
  simp only [execCopyEntryStart, hr, runs, new, all, goes, Bool.false_and, Bool.not_true, Bool.or_self, Bool.false_eq_true,
    if_false, Bool.not_false, Bool.true_and, reduceCtorEq]
  refine congrArg Host.Outcome.next (if_congr Iff.rfl rfl (if_congr Iff.rfl rfl ?_))
  delta State.startNext
  refine if_congr Iff.rfl rfl ?_
  generalize entryOf (bytesDw 4 ((s.block bk).scratchRead (r.entryAt r.head) 32)) = e
  cases (s.block bk).tornStart r e with
  | some row => rfl
  | none =>
    cases s.startEntry bk e with
    | error c => cases s.layoutError bk e <;> rfl
    | ok ps => rfl

theorem exec_copyEntryStart_corrupt
    (h : (s.block bk).ringCorrupt r = true ∨ 2 ^ r.k < ((s.block bk).notify r - r.finished).toNat) :
    exec (.copyEntryStart bk) s = .next (s.modBlock bk fun b => b.putRing (r.halt r.head 5)) := by
  rw [exec_copyEntryStart_waiting hr hw, if_pos]
  rwa [Bool.or_eq_true, decide_eq_true_eq]

theorem exec_copyEntryStart_sound (h : (s.block bk).RingSound r) :
    exec (.copyEntryStart bk) s = .next (s.startNext bk r) := by
  obtain ⟨intact, room, pending⟩ := h
  rw [exec_copyEntryStart_waiting hr hw, intact, decide_eq_false (Nat.not_lt.mpr room), if_neg (by decide), if_neg pending]

end

end

section
variable {s : State} {bk : Nat} {r : Ring} {words : List Word} {e : Entry}
  (hx : bytesDw 4 ((s.block bk).scratchRead (r.entryAt r.head) 32) = words) (he : entryOf words = e)
include hx he

/-- An entry whose index list an earlier one holds waits (log 15). -/
theorem State.startNext_listHeld (hl : s.copyHeld bk e e.listFoot = true) : s.startNext bk r = s := by
  subst hx he
  exact if_pos hl

variable (hl : s.copyHeld bk e e.listFoot = false)
include hl

/-- A start that reads a row with an uncorrectable error fails its entry (R396). -/
theorem State.startNext_torn {row : Nat} (ht : (s.block bk).tornStart r e = some row) :
    s.startNext bk r = ((s.sramError (s.block bk).core 1 row).modBlock bk fun b =>
      b.failEntry r r.head (r.head + 1) e.bar 6).endBlock bk := by
  subst hx he
  simp only [State.startNext, hl, ht, Bool.false_eq_true, if_false]

variable (ht : (s.block bk).tornStart r e = none)
include ht

/-- An entry that fails a check fails with its cause (R225). -/
theorem State.startNext_error {c : Nat} (hs : s.startEntry bk e = .error c) (h6 : c ≠ 6) :
    s.startNext bk r = (s.modBlock bk fun b => b.failEntry r r.head (r.head + 1) e.bar c).endBlock bk := by
  subst hx he
  simp only [State.startNext, hl, ht, hs, Bool.false_eq_true, if_false, h6]
  cases s.layoutError bk _ <;> rfl

/-- An entry that passes its checks starts, unless an earlier one holds its sectors (R224). -/
theorem State.startNext_ok {ps : List Piece} (hs : s.startEntry bk e = .ok ps) :
    s.startNext bk r =
      if s.copyHeld bk e (e.foot ps) = true then s else s.modBlock bk fun b => b.startCopy r words ps := by
  subst hx he
  simp only [State.startNext, hl, ht, hs, Bool.false_eq_true, if_false]

end

theorem Block.startCopy_fresh (b : Block) {r : Ring} (hb : r.begun = []) (words : List Word) (ps : List Piece) :
    b.startCopy r words ps =
      { b with copies := mapPut b.copies r.head.toNat
                 { seq := r.head.toNat, words, pieces := ps, progress := if b.copies.isEmpty then r.progress else 0 } }.writeRing
        r { r with head := r.head + 1 } := by
  obtain ⟨off, k, head, finished, halted, failSeq, cause, progress, begun⟩ := r
  obtain rfl : begun = [] := hb
  rfl

/-- What holds an entry: an earlier one of its ring, or an operation of the warp that published it (R190, R224). -/
theorem State.copyHeld_iff (s : State) (bk : Nat) (e : Entry) (foot : Foot) : s.copyHeld bk e foot = true ↔
    (∃ c ∈ (s.block bk).copies, ((entryOf c.2.words).foot c.2.pieces).meets foot = true) ∨
      (e.pub = true ∧ ∃ o ∈ (s.core (s.block bk).core).ops, o.warp = warpKey bk e.warp ∧ o.kind.foot.meets foot = true) := by
  simp only [State.copyHeld, Bool.or_eq_true, Bool.and_eq_true, List.any_eq_true, decide_eq_true_eq]

/-! ### The end of an entry -/

/-- An entry whose sectors have all moved ends (R220, R228). -/
theorem exec_copyEntryComplete_ends {s : State} {bk x : Nat} {r : Ring} {c : CopyOp} (hr : (s.block bk).ring = some r)
    (hc : mapFind (s.block bk).copies x = some c) (hp : c.pieces.length ≤ c.progress) (hf : c.fault = none) :
    let e := entryOf c.words
    let t := s.modBlock bk fun b =>
      { b with copies := mapErase b.copies x }.writeRing r { r with finished := r.finished + 1, progress := 0 }
    exec (.copyEntryComplete bk x) s = .next ((if e.pub then
      t.modWarp (warpKey bk e.warp) fun w => w.raiseFlags c.flags else t).endBlock bk) := by
  intro e t
  change execCopyEntryComplete bk x s = _
  simp only [execCopyEntryComplete, hr, hc, hp, hf, and_self, if_true]
  rfl

/-- The engine's write of a header that software has stored to halts the ring (R220). -/
theorem Block.writeRing_cases (b : Block) (old new : Ring) :
    (b.ringCorrupt old = true → new.halted = false → b.writeRing old new = b.putRing (new.halt new.head 5)) ∧
      (b.ringCorrupt old = false → b.writeRing old new = b.putRing new) := by
  refine ⟨fun hc hh => ?_, fun hc => ?_⟩
  · rw [Block.writeRing, hc, hh]
    rfl
  · rw [Block.writeRing, hc]
    rfl

/-! ### A sector within the scratchpad -/

theorem Block.tornPiece_of_sound {b : Block} (h : b.torn = []) (e : Entry) (p : Piece) : b.tornPiece e p = none := by
  have sound (i n : Nat) : b.tornBytes i n = none := by simp only [Block.tornBytes, Block.tornRow, h]; rfl
  simp only [Block.tornPiece, sound, ite_self]
  rfl

/-- A sector that a CPY moves within the scratchpad carries its bytes (R230). -/
theorem State.copyPiece_scratch {s : State} {bk : Nat} {e : Entry} {p : Piece} (hk : e.kind = 0)
    (hs : p.srcScratch = true) (hd : p.dstScratch = true) (h0 : p.skip = 0) (hl : p.srcLen = p.len) (hn : p.len ≠ 0) :
    s.copyPiece bk e p =
      (.ok 0, s.modBlock bk fun b => b.scratchWrite p.dst ((s.block bk).scratchRead p.src p.len)) := by
  have plain : ¬e.kind = 4 := by rw [hk]; decide
  have whole : p.len - 0 - ((s.block bk).scratchRead p.src p.len).length = 0 := by
    rw [Block.length_scratchRead]
    omega
  simp only [State.copyPiece, State.copyRead, State.copyWrite, hs, hd, h0, hl, hn, plain, whole, if_false, if_true,
    List.replicate_zero, List.nil_append, List.append_nil]

@[simp] theorem Block.scratchWrite_ring (l : List Byte) (b : Block) (i : Nat) : (b.scratchWrite i l).ring = b.ring := by
  induction l generalizing b i with
  | nil => rfl
  | cons x l ih => exact ih ..

/-- A block with a ring is resident. -/
theorem State.find_block_of_ring {s : State} {bk : Nat} {r : Ring} (hr : (s.block bk).ring = some r) :
    mapFind s.blocks bk = some (s.block bk) := by
  cases hb : mapFind s.blocks bk with
  | none => simp only [State.block, hb, Option.getD_none, reduceCtorEq] at hr
  | some b => simp only [State.block, hb, Option.getD_some]

/-- The copy engine moves one sector of a CPY within the scratchpad, and counts it (R230, R233). -/
theorem State.copyStep_scratch {s : State} {bk : Nat} {r : Ring} {c : CopyOp} {p : Piece}
    (hr : (s.block bk).ring = some r) (ht : (s.block bk).torn = []) (hk : (entryOf c.words).kind = 0)
    (hp : c.pieces[c.progress]? = some p) (hs : p.srcScratch = true) (hd : p.dstScratch = true) (h0 : p.skip = 0)
    (hl : p.srcLen = p.len) (hn : p.len ≠ 0) (hc : p.counted = true) :
    s.copyStep bk c = (s.modBlock bk fun b =>
      let b := b.scratchWrite p.dst ((s.block bk).scratchRead p.src p.len)
      let b := { b with copies := mapModify b.copies c.seq fun c => { c with progress := c.progress + 1 } }
      (b.writeRing r { r with progress := c.progress + 1 }).onBar (entryOf c.words).bar fun x => x.sector) := by
  have same (x : CopyOp) : { x with progress := x.progress + 1, flags := x.flags ||| 0 } =
      { x with progress := x.progress + 1 } := by
    simp only [BitVec.ofNat_eq_ofNat, BitVec.or_zero]
  simp only [State.copyStep, hp, Block.tornPiece_of_sound ht, State.copyPiece_scratch hk hs hd h0 hl hn, hc, if_true,
    State.modBlock_modBlock, same]
  refine State.modBlock_congr ?_
  simp only [Block.scratchWrite_ring, hr]

end Sys2Proof.Machine
end

section
open Sys2Proof Sys2Proof.Machine

/-- Settles O30: the start by the checks in their order, the end and the header's write by their branches, and the sector
by what the copy engine makes of the block. That an entry whose index list an earlier one holds waits before its checks
is log 15. -/
theorem copyEntriesStartFailAndComplete : Obligations.CopyEntriesStartFailAndComplete := by
  unfold Obligations.CopyEntriesStartFailAndComplete
  refine ⟨fun s bk r hr => ?start, fun s bk r c p hr ht _ hk hp hs hd h0 hl hn hc =>
    State.copyStep_scratch hr ht hk hp hs hd h0 hl hn hc⟩
  case start =>
    intro b v q words e held fails waits sound
    have next (hw : waits) (ho : sound) := exec_copyEntryStart_sound hr hw ho
    refine ⟨fun hw hc => exec_copyEntryStart_corrupt hr hw hc, fun hw ho row hl ht => ?torn, fun hw ho c hl ht hs h6 => ?error,
      fun hw ho hl ht ps hs hf => ?starts, fun hw ho hl => ?list, fun hw ho ht ps hs hf => ?sectors,
      s.copyHeld_iff bk e, fun hm => if_pos hm, exec_copyEntryStart_halted hr, fun x c => exec_copyEntryComplete_ends hr,
      fun x n hx => ?fail, fun old new => ?header⟩
    case torn => exact (next hw ho).trans (congrArg _ (State.startNext_torn rfl rfl hl ht))
    case error => exact (next hw ho).trans (congrArg _ (State.startNext_error rfl rfl hl ht hs h6))
    case starts =>
      rw [next hw ho, State.startNext_ok rfl rfl hl ht hs, if_neg (ne_true_of_eq_false hf)]
      simp only [Block.startCopy_fresh _ hw.2.1]
      rfl
    case list => exact (next hw ho).trans (congrArg _ (State.startNext_listHeld rfl rfl hl))
    case sectors =>
      refine (next hw ho).trans (congrArg _ ?_)
      cases hl : held e.listFoot with
      | true => exact State.startNext_listHeld rfl rfl hl
      | false => exact (State.startNext_ok rfl rfl hl ht hs).trans (if_pos hf)
    case fail =>
      have failed : x.fail n = { x with failed := true, failSeq := n } := if_neg (ne_true_of_eq_false hx)
      rw [failed]
      exact ⟨rfl, rfl, Barrier.sector_of_failed rfl⟩
    case header =>
      obtain ⟨halts, writes⟩ := b.writeRing_cases old new
      exact ⟨fun _ hc hh => halts hc hh, writes⟩

end

section
/-! Frames, Ultra Ethernet packets, retransmission and links (R242, R245, R374 to R380, R385 to R387). -/
namespace Sys2Proof.Machine

/-! ### What sending leaves unchanged -/

/-- The machine without its fabric endpoint. -/
def State.offFabric (s : State) : State := { s with fab := {} }

theorem State.offFabric_originate (s : State) (x : Frame × Nat × Nat) : (s.originate x).offFabric = s.offFabric := by
  unfold State.originate
  dsimp only
  split
  · rfl
  · split <;> rfl

theorem State.offFabric_pumpN (s : State) (n : Nat) : (s.pumpN n).offFabric = s.offFabric := by
  induction n generalizing s with
  | zero => rfl
  | succ n ih =>
    unfold State.pumpN
    split
    · rfl
    · rw [ih, State.offFabric_originate]
      rfl

theorem State.offFabric_acked (s : State) (q : BitVec 32) (m : BitVec 11) : (s.acked q m).offFabric = s.offFabric := by
  unfold State.acked
  split
  · rfl
  · exact State.offFabric_pumpN ..

/-- An acknowledgement changes nothing but the fabric endpoint. -/
theorem State.offFabric_sendTack (s : State) (f : Frame) : (s.sendTack f).offFabric = s.offFabric := by
  unfold State.sendTack
  split
  · exact State.offFabric_acked ..
  · rfl

/-! ### The link of an arriving frame -/

/-- The other end of a frame's link tells which link frames it has accepted (R385). -/
def State.heard (s : State) (f : Frame) : State :=
  match f.link with
  | some l => s.modPort f.port.toNat fun x => x.accepted l.acks
  | none => s

theorem State.heard_frame (s : State) (f : Frame) :
    (s.heard f).offFabric = s.offFabric ∧ (s.heard f).fab.rx = s.fab.rx := by
  unfold State.heard
  split <;> exact ⟨rfl, rfl⟩

/-- The link step of a frame on its port. -/
def State.linkStep (s : State) (f : Frame) : LinkStep :=
  (mapGet ({} : Port) (s.heard f).fab.ports f.port.toNat).step f.link

/-- A port has passed a frame on (R385, R386). -/
def State.carried (s : State) (f : Frame) : State := (s.heard f).modPort f.port.toNat fun x => x.take f.link

theorem State.carried_offFabric (s : State) (f : Frame) : (s.carried f).offFabric = s.offFabric :=
  (s.heard_frame f).1

theorem State.carried_rx (s : State) (f : Frame) : (s.carried f).fab.rx = s.fab.rx :=
  (s.heard_frame f).2

/-- What a port in service makes of an arriving frame (R385, R386). -/
def State.onLink (s : State) (f : Frame) (act : Frame → State → State) : State :=
  match s.linkStep f with
  | .skip => s.heard f
  | .stale => ((s.heard f).modPort f.port.toNat fun x => { x with rxSeq := x.rxSeq + 1 }).authFail f.port.toNat
  | .take => act { f with link := none } (s.carried f)

theorem State.arriveOn_eq {s : State} {f : Frame} (ht : s.health.tripped = false) (hu : s.portUp f.port.toNat = true)
    (hl : f.payload.length = f.plen.toNat) (act : Frame → State → State) : s.arriveOn f act = s.onLink f act := by
  have whole : f.payload.take f.plen.toNat = f.payload := List.take_of_length_le (Nat.le_of_eq hl)
  simp only [State.arriveOn, ht, hu, whole]
  rfl

/-! ### The reception of a frame -/

section Reception

variable {t : State} {g : Frame} {act : State → State} (ht : t.health.tripped = false)
include ht

theorem State.receive_malformed (hm : frameMalformed g = true) : t.receive g act = t.dropMalformed g := by
  simp [State.receive, ht, hm]

variable (hm : frameMalformed g = false)
include hm

theorem State.receive_foreign (ha : t.admits g = false) : t.receive g act = t := by
  simp [State.receive, ht, hm, ha]

variable (ha : t.admits g = true)
include ha

theorem State.receive_tack (hy : g.ty = 0x0A) : t.receive g act = act t := by
  simp [State.receive, ht, hm, ha, hy]

variable (hy : g.ty ≠ 0x0A)
include hy

theorem State.receive_first (hw : mapFind t.fab.rx g.src.toNat = none) : t.receive g act =
    act ({ t with fab := { t.fab with rx := mapPut t.fab.rx g.src.toNat { high := g.seq } } }.sendTack g) := by
  simp only [State.receive, ht, hm, ha, hy, hw, if_false, Bool.not_true, Bool.false_eq_true]

variable {w : RxWindow} (hw : mapFind t.fab.rx g.src.toNat = some w)
include hw

theorem State.receive_dup (hd : w.dup g.seq = true) : t.receive g act = t.sendTack g := by
  simp only [State.receive, ht, hm, ha, hy, hw, hd, if_true, if_false, Bool.not_true, Bool.false_eq_true]

theorem State.receive_new (hd : w.dup g.seq = false) : t.receive g act =
    act ({ t with fab := { t.fab with rx := mapPut t.fab.rx g.src.toNat (w.add g.seq) } }.sendTack g) := by
  simp only [State.receive, ht, hm, ha, hy, hw, hd, if_false, Bool.not_true, Bool.false_eq_true]

end Reception

/-- An event that brings a frame of a type to its port: the link passes it on, and it acts once (R376 to R379). -/
theorem frameEvent_arrives {f : Frame} {s : State} (ht : s.health.tripped = false) (hu : s.portUp f.port.toNat = true)
    (hl : f.payload.length = f.plen.toNat) {i : Instr} {ty : BitVec 8} {act : Frame → State → State}
    (hi : exec i s = frameEvent f ty act s) :
    let g : Frame := { f with ty, via := none, link := none }
    let t := s.carried f
    (s.linkStep f = .skip → exec i s = .next (s.heard f)) ∧
    (s.linkStep f = .stale → exec i s =
      .next (((s.heard f).modPort f.port.toNat fun x => { x with rxSeq := x.rxSeq + 1 }).authFail f.port.toNat)) ∧
    (s.linkStep f = .take →
      (frameMalformed g = true → exec i s = .next (t.dropMalformed g)) ∧
      (frameMalformed g = false → t.admits g = false → exec i s = .next t) ∧
      (frameMalformed g = false → t.admits g = true → ty ≠ 10 →
        (∀ w, mapFind s.fab.rx f.src.toNat = some w → w.dup f.seq = true → exec i s = .next (t.sendTack g)) ∧
        (∀ w, mapFind s.fab.rx f.src.toNat = some w → w.dup f.seq = false → exec i s = .next (act g
          ({ t with fab := { t.fab with rx := mapPut t.fab.rx f.src.toNat (w.add f.seq) } }.sendTack g))) ∧
        (mapFind s.fab.rx f.src.toNat = none → exec i s = .next (act g
          ({ t with fab := { t.fab with rx := mapPut t.fab.rx f.src.toNat { high := f.seq } } }.sendTack g)))) ∧
      (frameMalformed g = false → t.admits g = true → ty = 10 → exec i s = .next (act g t))) := by
  intro g t
  have linked : exec i s = .next (s.onLink { f with ty, via := none } fun f s => s.receive f (act f)) :=
    hi.trans (congrArg _ (State.arriveOn_eq (f := { f with ty, via := none }) ht hu hl _))
  have tripped : t.health.tripped = false := (congrArg (·.health.tripped) (s.carried_offFabric f)).trans ht
  refine ⟨fun hs => linked.trans ?_, fun hs => linked.trans ?_, fun hs => ?_⟩
  · have hs : s.linkStep { f with ty, via := none } = .skip := hs
    rw [State.onLink, hs]
    rfl
  · have hs : s.linkStep { f with ty, via := none } = .stale := hs
    rw [State.onLink, hs]
    rfl
  have received : exec i s = .next (t.receive g (act g)) := by
    have hs : s.linkStep { f with ty, via := none } = .take := hs
    rw [linked, State.onLink, hs]
    rfl
  have step {u : State} (h : t.receive g (act g) = u) : exec i s = .next u := received.trans (congrArg _ h)
  have seen {o : Option RxWindow} (h : mapFind s.fab.rx f.src.toNat = o) : mapFind t.fab.rx g.src.toNat = o :=
    (congrArg (mapFind · f.src.toNat) (s.carried_rx f)).trans h
  exact ⟨fun hm => step (State.receive_malformed tripped hm),
    fun hm ha => step (State.receive_foreign tripped hm ha),
    fun hm ha hy => ⟨fun w hw hd => step (State.receive_dup tripped hm ha hy (seen hw) hd),
      fun w hw hd => step (State.receive_new tripped hm ha hy (seen hw) hd),
      fun hw => step (State.receive_first tripped hm ha hy (seen hw))⟩,
    fun hm ha hy => step (State.receive_tack tripped hm ha hy)⟩

/-- The refusal of a START frame, by whose launch it names (R31, R378). -/
theorem onStartFrame_eq : onStartFrame = fun f s =>
    if s.held f = true ∨ s.boundCtx f.gtid f.gen = none then
      (if f.tag = startArrive ∨ f.tag = startRefuse then s.nackAnswer f else s.nack f 0x13 f.va)
    else s.onStart f := by
  funext f s
  simp only [onStartFrame, startNamesOurs, decide_eq_true_eq, Option.isNone_iff_eq_none]

/-- A frame of an unassigned type is dropped once its port has passed it on (R376). -/
theorem malformedFrame_take {f : Frame} {s : State} (ht : s.health.tripped = false) (hu : s.portUp f.port.toNat = true)
    (hl : f.payload.length = f.plen.toNat) (hy : f.ty = 0 ∨ 15 ≤ f.ty.toNat) (hs : s.linkStep f = .take) :
    exec (.malformedFrame f) s = .next ((s.carried f).dropMalformed { f with link := none }) := by
  have unassigned : (f.ty = 0 ∨ 0x0F ≤ f.ty) ∧ (!s.health.tripped) = true := ⟨hy, by rw [ht]; rfl⟩
  change execMalformedFrame f s = _
  rw [execMalformedFrame, if_pos unassigned, State.arriveOn_eq ht hu hl, State.onLink, hs]

/-! ### The receive window -/

theorem RxWindow.dup_high (w : RxWindow) : w.dup w.high = true := by
  simp [RxWindow.dup]

/-- A number is a duplicate when the window has seen it, or it is the highest, or too far below it (R379). -/
theorem RxWindow.dup_iff {w : RxWindow} {q : BitVec 32} : w.dup q = true ↔ (w.high - q).toNat < 2 ^ 31 ∧
    (q = w.high ∨ 4095 < (w.high - q).toNat ∨ q ∈ w.seen) := by
  have same : (w.high - q).toNat = 0 ↔ q = w.high := by bv_omega
  simp only [RxWindow.dup, same, Bool.and_eq_true, Bool.or_eq_true, decide_eq_true_eq, List.contains_iff_mem, or_assoc]

/-- An accepted number is a duplicate from then on. -/
theorem RxWindow.dup_add (w : RxWindow) (q : BitVec 32) : (w.add q).dup q = true := by
  by_cases below : (w.high - q).toNat < 2 ^ 31
  · have high : (w.add q).high = w.high := if_pos below
    by_cases top : q = w.high
    · exact RxWindow.dup_iff.mpr ⟨high ▸ below, .inl (top.trans high.symm)⟩
    · by_cases far : 4095 < (w.high - q).toNat
      · exact RxWindow.dup_iff.mpr ⟨high ▸ below, .inr (.inl (high ▸ far))⟩
      · have seen : q ∈ (w.add q).seen := by
          simp only [RxWindow.add, below, Ne.symm top, if_true, if_false, List.mem_filter, List.mem_cons, true_or,
            true_and, decide_eq_true_eq]
          omega
        exact RxWindow.dup_iff.mpr ⟨high ▸ below, .inr (.inr seen)⟩
  · have high : (w.add q).high = q := if_neg below
    have dup := (w.add q).dup_high
    rwa [high] at dup

/-! ### Ultra Ethernet packets -/

/-- A frame without a link's numbers is passed on (R374, R385). -/
theorem State.arriveOn_unlinked {s : State} {f : Frame} (ht : s.health.tripped = false)
    (hu : s.portUp f.port.toNat = true) (hl : f.link = none) (act : Frame → State → State) :
    s.arriveOn f act = act { f with payload := f.payload.take f.plen.toNat, link := none }
      (s.modPort f.port.toNat fun x => x.take none) := by
  simp only [State.arriveOn, ht, hu, hl]
  rfl

theorem State.sendTack_ckpt (s : State) (f : Frame) : (s.sendTack f).ckpt = s.ckpt :=
  congrArg (·.ckpt) (s.offFabric_sendTack f)

/-- Reception leaves a checkpoint as it is, up to what the frame then does. -/
theorem State.receive_congr {s : State} {f : Frame} {act act' : State → State}
    (h : ∀ u : State, u.ckpt = s.ckpt → act u = act' u) : s.receive f act = s.receive f act' := by
  unfold State.receive
  split
  · rfl
  split
  · rfl
  split
  · rfl
  split
  · exact h s rfl
  dsimp only
  split
  · exact h _ (State.sendTack_ckpt ..)
  · split
    · rfl
    · exact h _ (State.sendTack_ckpt ..)

/-- Unordered delivery of a store or an answer, while there is no checkpoint, does what the frame does (R373). -/
theorem ueAct_rud {f : Frame} {s : State} (hv : f.via = some .rud) (hc : s.ckpt = none)
    (hy : f.ty = 1 ∨ f.ty = 10 ∨ f.ty = 11 ∨ f.ty = 12) : ueAct f s = frameAct f s := by
  have tier : s.fromTier f = false := by rw [State.fromTier, hc]; rfl
  have carriedTy : [0x01, 0x0A, 0x0B, 0x0C].contains f.ty.toNat = true := by
    rcases hy with h | h | h | h <;> rw [h] <;> decide
  simp only [ueAct, hv, tier, carriedTy, Bool.false_eq_true, and_false, if_true, if_false]

section Packets

variable {p : UePacket} {s : State} (ht : s.health.tripped = false) (hu : s.portUp p.frame.port.toNat = true)
  (hl : p.frame.link = none)

include ht hu hl in
theorem uePacket_dropped
    (h : p.trimmed = true ∨ p.tssKey ≠ s.tssKey { p.frame with via := some p.mode } ∨ p.mode = .other) :
    exec (.uePacket p) s = .next (s.modPort p.frame.port.toNat fun x => x.take none) := by
  have dropped : ¬(decide (p.mode ≠ .other) && !p.trimmed &&
      decide (p.tssKey = s.tssKey { p.frame with via := some p.mode })) = true := by
    simp only [Bool.and_eq_true, decide_eq_true_eq, Bool.not_eq_true']
    rintro ⟨⟨mode, trimmed⟩, key⟩
    rcases h with h | h | h
    · exact absurd h (ne_true_of_eq_false trimmed)
    · exact h key
    · exact mode h
  exact congrArg _ ((if_neg dropped).trans
    (State.arriveOn_unlinked (f := { p.frame with via := some p.mode }) ht hu hl _))

theorem uePacket_kept (h1 : p.trimmed = false) (h2 : p.tssKey = s.tssKey { p.frame with via := some p.mode })
    (h3 : p.mode ≠ .other) : exec (.uePacket p) s = .next (s.arrive { p.frame with via := some p.mode } ueAct) :=
  congrArg _ (if_pos (by simp only [h1, ← h2, h3, ne_eq, not_false_eq_true, decide_true, Bool.not_false, Bool.and_self]))

include ht hu hl in
theorem arrive_rud (hm : p.mode = .rud) (hc : s.ckpt = none)
    (hy : p.frame.ty = 1 ∨ p.frame.ty = 10 ∨ p.frame.ty = 11 ∨ p.frame.ty = 12) :
    s.arrive { p.frame with via := some p.mode } ueAct = s.arrive { p.frame with via := some p.mode } frameAct := by
  simp only [State.arrive, State.arriveOn_unlinked (f := { p.frame with via := some p.mode }) ht hu hl]
  exact State.receive_congr fun u hk => ueAct_rud (congrArg some hm) (hk.trans hc) hy

end Packets

/-! ### Time limits and the end of a grid operation -/

section Retransmission

variable {s : State} {n : Nat} {t : TxFrame} (h : mapFind s.fab.tx n = some t)
include h

theorem retransmissionTimeout_early (hc : s.clk < t.sent + s.rtoClk) : exec (.retransmissionTimeout n) s = .next s := by
  change execRetransmissionTimeout n s = _
  simp only [execRetransmissionTimeout, h, if_pos hc]

theorem retransmissionTimeout_last (hc : t.sent + s.rtoClk ≤ s.clk) (hn : 16 ≤ t.tries) :
    exec (.retransmissionTimeout n) s = .next (s.giveUp n t) := by
  change execRetransmissionTimeout n s = _
  simp only [execRetransmissionTimeout, h, if_neg (Nat.not_lt.mpr hc), if_pos hn]

theorem retransmissionTimeout_again (hc : t.sent + s.rtoClk ≤ s.clk) (hn : t.tries < 16) :
    ∃ u, exec (.retransmissionTimeout n) s = .next u ∧
      mapFind u.fab.tx n = some { t with sent := s.clk, tries := t.tries + 1 } ∧
      (s.upPorts ≠ [] → ∃ g : Sent, u.fab.wire = s.fab.wire ++ [g] ∧ g.frame.retx = true ∧ g.frame.seq = t.frame.seq ∧
        g.frame.payload = t.frame.payload ∧ g.frame.wlo = t.frame.wlo ∧ g.frame.whi = t.frame.whi ∧
        g.entropy = t.path) := by
  change ∃ u, execRetransmissionTimeout n s = _ ∧ _
  simp only [execRetransmissionTimeout, h, if_neg (Nat.not_lt.mpr hc), if_neg (Nat.not_le.mpr hn)]
  refine ⟨_, rfl, ?_, fun up => ?_⟩
  · rw [mapFind_put, if_pos rfl]
    split <;> rfl
  · rw [if_neg (by simpa using up)]
    exact ⟨_, rfl, rfl, rfl, rfl, rfl, rfl, rfl⟩

end Retransmission

/-! ### Links -/

theorem State.modPort_modPort (s : State) (p : Nat) (f g : Port → Port) :
    (s.modPort p f).modPort p g = s.modPort p fun x => g (f x) := by
  simp only [State.modPort, mapGet_put, if_true, mapPut_mapPut]

theorem State.port_modPort (s : State) (p : Nat) (f : Port → Port) :
    mapGet {} (s.modPort p f).fab.ports p = f (mapGet {} s.fab.ports p) := by
  rw [State.modPort, mapGet_put, if_pos rfl]

/-- A port in service leaves it, with a record (R387). -/
theorem State.takeDown_up {s : State} {p : Nat} (h : s.portUp p = true) (cause : Nat) : s.takeDown p cause =
    (s.modPort p fun x => { x with up := false, rekey := decide (cause = 1), replay := [] }).errorRecord 8 1 0xFFF none
      (BitVec.ofNat 64 p) (BitVec.ofNat 64 cause) := by
  simp only [State.takeDown, h, Bool.not_true, Bool.false_eq_true, if_false]

section Events

variable {s : State} {port : BitVec 4} (ht : s.health.tripped = false)

theorem linkDown_down (hu : s.portUp port.toNat = false) (cause : Nat) : exec (.linkDown port cause) s = .next s := by
  change execLinkDown port cause s = _
  simp only [execLinkDown, State.takeDown, hu, Bool.not_false, if_true, ite_self]

theorem integrityFailure_down (hu : s.portUp port.toNat = false) : exec (.integrityFailure port) s = .next s :=
  congrArg _ (if_pos (.inr (by rw [hu]; rfl)))

include ht in
theorem linkUp_down (hu : s.portUp port.toNat = false) (hb : s.arn.bstate = 1) (cause : Nat) :
    exec (.linkUp port cause) s = .next ((s.modPort port.toNat fun x =>
      let y := { x with up := true, rekey := false, lseq := 0, rxSeq := 0, replay := [] }
      if cause = 1 then { y with authFails := 0, pn := 1, rxPn := 0 } else y).errorRecord 8 2 0xFFF none
        (BitVec.ofNat 64 port.toNat) (BitVec.ofNat 64 cause)) :=
  congrArg _ (if_neg (by simp [ht, hu, hb]))

variable (hu : s.portUp port.toNat = true)
include ht hu

/-- A tripped machine and a port out of service are the two cases in which a link's event does nothing. -/
theorem State.port_serves : ¬(s.health.tripped = true ∨ (!s.portUp port.toNat) = true) := by
  simp [ht, hu]

theorem linkDown_up (cause : Nat) : exec (.linkDown port cause) s =
    .next ((s.modPort port.toNat fun x => { x with up := false, rekey := decide (cause = 1), replay := [] }).errorRecord
      8 1 0xFFF none (BitVec.ofNat 64 port.toNat) (BitVec.ofNat 64 cause)) :=
  congrArg _ ((if_neg (ne_true_of_eq_false ht)).trans (State.takeDown_up hu cause))

theorem integrityFailure_first (h : (mapGet ({} : Port) s.fab.ports port.toNat).authFails = 0) :
    exec (.integrityFailure port) s =
      .next (s.modPort port.toNat fun x => { x with rxSeq := x.rxSeq + 1, authFails := x.authFails + 1 }) := by
  refine congrArg _ ((if_neg (State.port_serves ht hu)).trans ?_)
  simp only [State.authFail, State.modPort_modPort, State.port_modPort, h]
  rfl

/-- The second failure under one key takes the link down (R386). -/
theorem integrityFailure_second (h : (mapGet ({} : Port) s.fab.ports port.toNat).authFails = 1) :
    exec (.integrityFailure port) s = .next ((s.modPort port.toNat fun x =>
      { x with rxSeq := x.rxSeq + 1, authFails := x.authFails + 1, up := false, rekey := true, replay := [] }).errorRecord
        8 1 0xFFF none (BitVec.ofNat 64 port.toNat) (BitVec.ofNat 64 1)) := by
  have still (f : Port → Port) (hf : (f (mapGet {} s.fab.ports port.toNat)).up = true) :
      (s.modPort port.toNat f).portUp port.toNat = true := by
    rw [State.portUp, State.port_modPort, hf]
  refine congrArg _ ((if_neg (State.port_serves ht hu)).trans ?_)
  simp only [State.authFail, State.modPort_modPort, State.port_modPort, h]
  refine (if_pos (by decide)).trans ?_
  rw [State.takeDown_up (still _ hu), State.modPort_modPort]
  rfl

theorem llrResend_empty (h : (mapGet ({} : Port) s.fab.ports port.toNat).replay = []) :
    exec (.llrResend port) s = .next s := by
  refine congrArg _ ((if_neg (State.port_serves ht hu)).trans ?_)
  rw [h]

variable {f : Sent} {n : Nat} {r : List (Sent × Nat)}
  (h : (mapGet ({} : Port) s.fab.ports port.toNat).replay = (f, n) :: r)
include h

theorem llrResend_again (hn : n < 8) : exec (.llrResend port) s =
    .next (let t := s.modPort port.toNat fun x => { x with replay := (f, n + 1) :: r }
      { t with fab := { t.fab with wire := s.fab.wire ++ [f] } }) := by
  refine congrArg _ ((if_neg (State.port_serves ht hu)).trans ?_)
  rw [h]
  exact if_neg (Nat.not_le.mpr hn)

theorem llrResend_last (hn : 8 ≤ n) : exec (.llrResend port) s =
    .next ((s.modPort port.toNat fun x => { x with up := false, rekey := false, replay := [] }).errorRecord
      8 1 0xFFF none (BitVec.ofNat 64 port.toNat) (BitVec.ofNat 64 3)) := by
  refine congrArg _ ((if_neg (State.port_serves ht hu)).trans ?_)
  rw [h]
  exact (if_pos hn).trans (State.takeDown_up hu 3)

end Events

end Sys2Proof.Machine
end

section
open Sys2Proof Sys2Proof.Machine

/-- Settles O49: each event goes by what its port makes of the frame, by what reception makes of it, or by the state of
the frame, operation, reduction or port that it names. A START frame of a launch of this module, or of one of its
sender's, is refused without an operation number (logs 18 and 21); the limit of a reduction runs from its root's record
of the first contribution (log 17). -/
theorem fabricEventsComplete : Obligations.FabricEventsComplete := by
  unfold Obligations.FabricEventsComplete
  refine ⟨fun f s ht hu hl => ?_, fun w q => ⟨w.dup_high, w.dup_add q, fun hd _ => (RxWindow.dup_iff.mp hd).2⟩,
    fun p s ht hu hl => ⟨uePacket_dropped ht hu hl, fun h1 h2 h3 => ?_⟩,
    fun s n t h => ⟨retransmissionTimeout_early h, retransmissionTimeout_last h, retransmissionTimeout_again h⟩,
    fun s k g h => ?_, fun s k => ?_, fun s port cause ht => ?_⟩
  · intro p o step u arrives
    have arrived (i ty act) (hi : exec i s = frameEvent f ty act s) : arrives i ty act :=
      frameEvent_arrives ht hu hl hi
    exact ⟨arrived _ _ _ rfl, arrived _ _ _ rfl, arrived _ _ _ rfl, arrived _ _ _ rfl, arrived _ _ _ rfl,
      arrived _ _ _ rfl, arrived _ _ _ rfl, arrived _ _ _ rfl, arrived _ _ _ rfl, arrived _ _ _ rfl,
      arrived _ _ _ rfl, arrived _ _ _ rfl, arrived (.frameLaunch f) 0x0D _ rfl,
      arrived (.frameStart f) 0x0E _ (congrArg (frameEvent f 0x0E · s) onStartFrame_eq), malformedFrame_take ht hu hl⟩
  · have kept := uePacket_kept h1 h2 h3
    exact ⟨kept, fun hm hc hy => kept.trans (congrArg _ (arrive_rud ht hu hl hm hc hy))⟩
  · have answer : exec (.gridOperationComplete k) s = .next (if g.complete then s.endGrid k g 2 0 else s) := by
      change execGridOperationComplete k s = _
      simp only [execGridOperationComplete, h]
    exact ⟨fun hg => answer.trans (congrArg _ (if_pos hg)),
      fun hg => answer.trans (congrArg _ (if_neg (ne_true_of_eq_false hg)))⟩
  · refine ⟨fun r h => ?_, fun h => ?_⟩
    · have answer : exec (.reductionTimeout k) s =
          .next (if r.since + 2 ^ 30 ≤ s.clk then s.failRed r.head 0x12 else s) := by
        change execReductionTimeout k s = _
        simp only [execReductionTimeout, h]
      exact ⟨fun hc => answer.trans (congrArg _ (if_pos hc)),
        fun hc => answer.trans (congrArg _ (if_neg (Nat.not_le.mpr hc)))⟩
    · change execReductionTimeout k s = _
      simp only [execReductionTimeout, h]
  · refine ⟨fun hu => ⟨linkDown_down hu cause, integrityFailure_down hu⟩,
      fun hu => ⟨linkDown_up ht hu cause, fun h => ?_, fun h => ?_, llrResend_empty ht hu,
        fun f n r h => ⟨llrResend_again ht hu h, llrResend_last ht hu h⟩⟩,
      fun hu hb => ⟨linkUp_down ht hu hb 1, fun hc => ?_⟩⟩
    · rw [integrityFailure_first ht hu h, State.modPort, h]
    · rw [integrityFailure_second ht hu h, State.modPort, h]
    · rw [linkUp_down ht hu hb cause, State.modPort]
      simp only [if_neg hc]
end

section
/-! Invalidations, the write-back of old dirty sectors, fault queues and verdicts (R253, R261, R262, R264 to R266). -/
namespace Sys2Proof.Machine

/-! ### The start of an invalidation (R261) -/

section
variable {s : State}

/-- While BAR0 is in service, a write of inval.start starts an invalidation of its kind. -/
theorem exec_inval (h : s.inService = true) : exec .invalRange s = .next (s.startInval 0) ∧
    exec .invalAsid s = .next (s.startInval 1) ∧ exec .invalAll s = .next (s.startInval 2) :=
  ⟨congrArg _ (if_pos h), congrArg _ (if_pos h), congrArg _ (if_pos h)⟩

theorem State.startInval_busy (h : s.xlat.inval.isSome = true) (kind : Nat) : s.startInval kind = s.setInval 4 :=
  if_pos (.inl h)

theorem State.startInval_empty (h : s.xlat.invalLen = 0) : s.startInval 0 = s.setInval 4 :=
  if_pos (.inr (.inr ⟨rfl, h⟩))

theorem State.startInval_starts (h : s.xlat.inval = none) {kind : Nat} (hk : kind < 3)
    (hl : kind = 0 → s.xlat.invalLen ≠ 0) :
    s.startInval kind = { s with xlat := { s.xlat with
      invalStatus := s.xlat.invalStatus ||| 1
      inval := some (kind, s.xlat.invalAsid, s.xlat.invalVa.toNat * 65536, s.xlat.invalLen.toNat * 65536) } } := by
  refine if_neg ?_
  rintro (busy | bad | ⟨rfl, empty⟩)
  · rw [h] at busy
    exact Bool.false_ne_true busy
  · omega
  · exact hl rfl empty

end

/-! ### What an invalidation leaves in the copies -/

/-- A write-back changes no L1. -/
theorem State.sectors_writeHome (s : State) (x : Sector) (i : Nat) : (s.writeHome x).sectors i = s.sectors i := by
  have l1 : (s.writeHome x).mem.l1 = s.mem.l1 := by
    unfold State.writeHome
    split
    · rfl
    · dsimp only
      split <;> exact (s.physWrite_keeps ..).1.1
  simp only [State.sectors, l1]

theorem State.sectors_writeHomes (s : State) (l : List Sector) (i : Nat) :
    (l.foldl (fun s x => s.writeHome x) s).sectors i = s.sectors i :=
  foldl_keeps (g := fun t : State => t.sectors i) (fun t x => t.sectors_writeHome x i) s l

theorem State.sectors_evictWhere (s : State) (id i : Nat) (p : Sector → Bool) :
    (s.evictWhere id p).sectors i = if id = i then (s.sectors id).filter fun x => !(p x) else s.sectors i := by
  simp only [State.evictWhere, State.sectors_putSectors, State.sectors_writeHomes]

/-- Evictions put nothing into an L1, and none of them leaves in its own L1 a sector that passes the test. -/
theorem State.mem_evictEach {p : Sector → Bool} {i : Nat} {y : Sector} (ids : List Nat) {s : State}
    (h : y ∈ (ids.foldl (fun s i => s.evictWhere i p) s).sectors i) : y ∈ s.sectors i ∧ (i ∈ ids → p y = false) := by
  induction ids generalizing s with
  | nil => exact ⟨h, fun hi => absurd hi List.not_mem_nil⟩
  | cons k ids ih =>
    obtain ⟨held, rest⟩ := ih h
    rw [State.sectors_evictWhere] at held
    split at held
    next hk =>
      obtain ⟨held, kept⟩ := List.mem_filter.mp held
      exact ⟨hk ▸ held, fun _ => (Bool.not_eq_true' _).mp kept⟩
    next hk => exact ⟨held, fun hi => rest ((List.mem_cons.mp hi).resolve_left (Ne.symm hk))⟩

/-- No L1 keeps a sector that passes the test of an eviction of all L1s. -/
theorem State.evictAll_clears {s : State} {p : Sector → Bool} {i : Nat} {y : Sector}
    (h : y ∈ (s.evictAll p).sectors i) : p y = false := by
  obtain ⟨held, test⟩ := State.mem_evictEach s.l1Ids h
  exact test (State.mem_l1Ids held)

/-- The leaves that an invalidation leaves do not match it. -/
theorem State.tlb_invalidate {s : State} {i : Nat × BitVec 16 × Nat × Nat} {l : Nat × List TlbEntry}
    (hl : l ∈ (s.invalidate i).mem.tlb) {e : TlbEntry} (he : e ∈ l.2) :
    invalMatches i e.asid e.va (2 ^ e.level) = false := by
  obtain ⟨k, -, kept⟩ := List.mem_filterMap.mp hl
  dsimp only at kept
  split at kept
  · cases kept
  · cases kept
    exact (Bool.not_eq_true' _).mp (List.mem_filter.mp he).2

/-- The sectors that an invalidation leaves do not match it. -/
theorem State.sectors_invalidate {s : State} {i : Nat × BitVec 16 × Nat × Nat} {l1 : Nat} {y : Sector}
    (h : y ∈ (s.invalidate i).sectors l1) : invalMatches i y.asid (32 * y.va) 32 = false :=
  State.evictAll_clears (p := fun x => invalMatches i x.asid (32 * x.va) 32) h

theorem exec_invalidationComplete_idle {s : State} (h : s.xlat.inval = none) :
    exec .invalidationComplete s = .next s := by
  change execInvalidationComplete s = _
  simp only [execInvalidationComplete, h]

theorem exec_invalidationComplete_performs {s : State} {i : Nat × BitVec 16 × Nat × Nat} (h : s.xlat.inval = some i) :
    exec .invalidationComplete s = .next { s.invalidate i with xlat := { (s.invalidate i).xlat with
      inval := none
      invalStatus := ((s.invalidate i).xlat.invalStatus &&& 6) ||| 2
      invalNew := (s.invalidate i).xlat.invalNew ||| 2 } } := by
  change execInvalidationComplete s = _
  simp only [execInvalidationComplete, h]
  rfl

/-! ### The write-back of old dirty sectors (R253) -/

/-- A write at the home slice of memory that the device does not keep for itself is made, whatever its lines' seals. -/
theorem State.read_physWrite_made {s : State} {a : Nat} {l : List Byte} (hl : l.length = 32)
    (hn : a + 32 ≤ memBytes) (ht : s.inTables a = false) : (s.physWrite a l).mem.read a 32 = l := by
  have made : ¬(memBytes < a + l.length ∨ s.inTables a = true) := not_or.mpr ⟨by omega, by simp [ht]⟩
  have tables : ((partLines a l.length).foldl (fun s u => s.openLine u) s).inTables a = s.inTables a :=
    foldl_keeps (g := fun t : State => t.inTables a) (fun t u => t.inTables_openLine u a) _ _
  rw [State.physWrite, if_neg made]
  generalize (partLines a l.length).foldl (fun s u => s.openLine u) s = t at tables ⊢
  rw [State.putHome, tables, if_neg made, MemSys.read_congr (t.put a l).trimL2_keeps.2]
  refine List.ext_getElem ((MemSys.length_read ..).trans hl.symm) fun i hi hi' => ?_
  rw [← List.getD_eq_getElem _ 0 hi, ← List.getD_eq_getElem _ 0 hi', MemSys.read_getD _ 32 a i (by omega),
    State.byte_put, if_pos (by omega), Nat.add_sub_cancel_left]

/-- A write-back that the owner check allows leaves the sector's dirty bytes over those of its home. -/
theorem State.read_writeHome_made {s : State} {x : Sector} (hd : x.dirty ≠ 0) (ha : s.sectorAllowed x = true)
    (hn : 32 * x.pa + 32 ≤ memBytes) (ht : s.inTables (32 * x.pa) = false) :
    (s.writeHome x).mem.read (32 * x.pa) 32 = overlay x.dirty x.data (s.mem.read (32 * x.pa) 32) := by
  have written : (s.writeHome x).mem.bytes =
      (s.physWrite (32 * x.pa) (overlay x.dirty x.data (s.mem.read (32 * x.pa) 32))).mem.bytes := by
    simp only [State.writeHome, hd, ha, decide_false, Bool.not_true, Bool.or_self, Bool.false_eq_true, if_false]
    split <;> rfl
  rw [MemSys.read_congr written, State.read_physWrite_made (length_overlay ..) hn ht]

/-- Further write-backs of one sector leave at its home the bytes that the first has left there. -/
theorem State.read_writeHomes_again {s : State} {x : Sector} {old : List Byte} {l : List Sector}
    (hl : ∀ y ∈ l, y = x) (hs : s.mem.read (32 * x.pa) 32 = overlay x.dirty x.data old) :
    (l.foldl (fun s x => s.writeHome x) s).mem.read (32 * x.pa) 32 = overlay x.dirty x.data old := by
  refine List.foldlRecOn (motive := fun t : State => t.mem.read (32 * x.pa) 32 = overlay x.dirty x.data old) l _ hs
    fun t ht y hy => ?_
  obtain rfl := hl y hy
  rcases t.read_writeHome y with h | h
  · exact h.trans ht
  · rw [h, ht, overlay_overlay]

theorem State.sectors_cleanWhere (s : State) (id : Nat) (p : Sector → Bool) :
    (s.cleanWhere id p).sectors id = (s.sectors id).map fun x =>
      if p x && decide (x.dirty ≠ 0) then { x with dirty := 0, tag := false } else x := by
  simp only [State.cleanWhere, State.sectors_putSectors, if_true]

/-- A clean that finds one sector leaves that sector's dirty bytes over those of its home. -/
theorem State.read_cleanWhere {s : State} {id : Nat} {p : Sector → Bool} {x : Sector} (hx : x ∈ s.sectors id)
    (hp : p x = true) (only : ∀ y ∈ s.sectors id, p y = true → y = x) (hd : x.dirty ≠ 0)
    (ha : s.sectorAllowed x = true) (hn : 32 * x.pa + 32 ≤ memBytes) (ht : s.inTables (32 * x.pa) = false) :
    (s.cleanWhere id p).mem.read (32 * x.pa) 32 = overlay x.dirty x.data (s.mem.read (32 * x.pa) 32) := by
  have found : ∀ y ∈ (s.sectors id).filter p, y = x := fun y hy =>
    only y (List.mem_filter.mp hy).1 (List.mem_filter.mp hy).2
  have some_found : x ∈ (s.sectors id).filter p := List.mem_filter.mpr ⟨hx, hp⟩
  have written : (s.cleanWhere id p).mem.bytes =
      (((s.sectors id).filter p).foldl (fun s x => s.writeHome x) s).mem.bytes := rfl
  rw [MemSys.read_congr written]
  cases hl : (s.sectors id).filter p with
  | nil => rw [hl] at some_found; exact absurd some_found List.not_mem_nil
  | cons y r =>
    rw [hl] at found
    obtain rfl := found y List.mem_cons_self
    have again : ∀ z ∈ r, z = y := fun z hz => found z (List.mem_cons_of_mem _ hz)
    rw [List.foldl_cons]
    exact State.read_writeHomes_again again (State.read_writeHome_made hd ha hn ht)

theorem Sector.old_iff {x : Sector} {clk : Nat} : x.old clk = true ↔ x.dirty ≠ 0 ∧ x.since + 2 ^ 16 ≤ clk :=
  decide_eq_true_iff

/-- The sectors that a write-back timeout names: those of its address that have been dirty for 2^16 clk. -/
def State.dueSector (s : State) (va : Nat) (x : Sector) : Bool := decide (x.va = va) && x.old s.clk

theorem State.dueSector_iff {s : State} {va : Nat} {x : Sector} :
    s.dueSector va x = true ↔ x.va = va ∧ x.dirty ≠ 0 ∧ x.since + 2 ^ 16 ≤ s.clk := by
  rw [State.dueSector, Bool.and_eq_true, decide_eq_true_iff, Sector.old_iff]

theorem exec_l1WritebackTimeout (s : State) (l1 va : Nat) :
    exec (.l1WritebackTimeout l1 va) s = .next (s.cleanWhere l1 (s.dueSector va)) := rfl

/-- A write-back timeout leaves a sector that it does not name, or one without dirty bytes. -/
theorem State.not_due_after_clean {s : State} {l1 va : Nat} {x : Sector}
    (hx : x ∈ (s.cleanWhere l1 (s.dueSector va)).sectors l1) (hv : x.va = va) :
    ¬(x.dirty ≠ 0 ∧ x.since + 2 ^ 16 ≤ s.clk) := by
  rintro ⟨hd, ho⟩
  rw [State.sectors_cleanWhere] at hx
  obtain ⟨y, -, rfl⟩ := List.mem_map.mp hx
  by_cases cleaned : (s.dueSector va y && decide (y.dirty ≠ 0)) = true
  · rw [if_pos cleaned] at hd
    exact hd rfl
  · rw [if_neg cleaned] at hv hd ho
    exact cleaned (by rw [State.dueSector_iff.mpr ⟨hv, hd, ho⟩, decide_eq_true hd]; rfl)

/-- A sector that a write-back timeout names stays in its L1, clean. -/
theorem State.clean_of_due {s : State} {l1 va : Nat} {x : Sector} (hx : x ∈ s.sectors l1)
    (hp : s.dueSector va x = true) :
    ({ x with dirty := 0, tag := false } : Sector) ∈ (s.cleanWhere l1 (s.dueSector va)).sectors l1 := by
  have hd : x.dirty ≠ 0 := (State.dueSector_iff.mp hp).2.1
  rw [State.sectors_cleanWhere]
  exact List.mem_map.mpr ⟨x, hx, if_pos (by rw [hp, decide_eq_true hd]; rfl)⟩

/-! ### The fault queue (R264) -/

theorem queueFull_iff {wr rd log : Nat} :
    queueFull wr rd log = true ↔ 2 ^ log ≤ (wr + 2 ^ 32 - rd % 2 ^ 32) % 2 ^ 32 := decide_eq_true_iff

section
variable {s : State} {x : Stopped} {f : FaultSubject} {i : FaultInfo} {c : Context} (hx : s.faultSubject x = some f)
include hx

/-- A re-read of rd tries the one operation that waits. -/
theorem exec_faultQueueRetry_one (hw : s.xlat.waiting = [x]) :
    exec (.faultQueueRetry f.ctx) s = .next { (s.appendFault x).2 with
      xlat := { (s.appendFault x).2.xlat with waiting := if (s.appendFault x).1 then [] else [x] } } := by
  change execFaultQueueRetry f.ctx s = _
  simp only [execFaultQueueRetry, State.retryFaults, hw, State.appendAll, hx, if_true]
  rcases s.appendFault x with ⟨_ | _, t⟩ <;> rfl

variable (hf : f.fault = some (.queue i)) (hc : mapFind s.ctxs f.ctx = some c)
include hf hc

theorem State.appendFault_full
    (full : queueFull ((s.readDw c.fq).toNat % 2 ^ 32) (s.readDw (c.fq + 8)).toNat c.fqlog = true) :
    s.appendFault x = (false, s) := by
  simp only [State.appendFault, hx, hf, hc, full, if_true]

/-- A record that is appended takes a sequence number, the next of which is not zero, and is announced. -/
theorem State.appendFault_room
    (room : queueFull ((s.readDw c.fq).toNat % 2 ^ 32) (s.readDw (c.fq + 8)).toNat c.fqlog = false) :
    ∃ t, s.appendFault x = (true, t) ∧ t.xlat.faultSeq ≠ 0 ∧ t.arn.status.getLsbD 2 = true ∧
      t.arn.msix.getLast? = some 0 := by
  simp only [State.appendFault, hx, hf, hc, room, Bool.false_eq_true, if_false]
  refine ⟨_, rfl, ?_, ?_, List.getLast?_concat⟩
  · change (if s.xlat.faultSeq + 1 = 0 then 1 else s.xlat.faultSeq + 1) ≠ 0
    split
    · decide
    · assumption
  · exact (BitVec.getLsbD_or ..).trans (Bool.or_true _)

end

/-! ### Verdicts (R265, R266) -/

section
variable {s : State} (hs : s.inService = true)
include hs

theorem exec_faultFail (seq : BitVec 32) : exec (.faultFail seq) s = .next (s.giveVerdict seq false) :=
  congrArg _ (if_pos hs)

theorem exec_faultReplay (seq : BitVec 32) : exec (.faultReplay seq) s = .next (s.giveVerdict seq true) :=
  congrArg _ (if_pos hs)

end

section
variable {s : State} {seq : BitVec 32}

theorem State.giveVerdict_stale (h : s.faultOf seq = none) (replay : Bool) :
    s.giveVerdict seq replay = s.staleVerdict := by
  simp only [State.giveVerdict, h]

variable {x : Stopped} {i : FaultInfo} (h : s.faultOf seq = some (x, i))
include h

theorem State.giveVerdict_fail {replay : Bool} (hr : (replay && !i.mem) = false) :
    s.giveVerdict seq replay = s.failStopped x := by
  simp only [State.giveVerdict, h, hr, Bool.false_eq_true, if_false]

/-- A replay of a source's operation restarts it: it waits for nothing. -/
theorem State.giveVerdict_replay (hm : i.mem = false) (hx : x.1 < 3) : s.giveVerdict seq true = s.setFault x none := by
  have here : x.1 ≠ 3 := by omega
  simp only [State.giveVerdict, h, hm, Bool.not_false, Bool.and_self, if_true]
  unfold State.replayStopped
  split
  · exact absurd rfl here
  · rfl

end

theorem State.failStopped_engine {s : State} {core uid : Nat} {o : EngineOp} (h : s.engineOp core uid = some o) :
    s.failStopped (0, core, uid) = s.opEnd core o 5 5 := by
  simp only [State.failStopped, h]

/-- The unit in which an engine operation stands is tried, and stops where it faults (R262). -/
theorem exec_enginePageFault_stops {s t : State} {core op : Nat} {o : EngineOp} {i : FaultInfo}
    (ho : s.engineIs core op true = some o) (hu : s.engineUnit core o = (.error i, t)) :
    exec (.enginePageFault core op) s = .next (t.stopAt (0, core, op) i) := by
  change execEnginePageFault core op s = _
  simp only [execEnginePageFault, ho, hu]
  rfl

end Sys2Proof.Machine
end

section
open Sys2Proof Sys2Proof.Machine

/-- Settles O47: an invalidation by its start and by the evictions that perform it, verdicts by the record they name,
the fault queue by the record that is appended, and the write-back by what a clean of an L1 makes of its sectors and of
their homes. That an event whose condition does not hold changes nothing is log 38. -/
theorem translationEventsComplete : Obligations.TranslationEventsComplete := by
  unfold Obligations.TranslationEventsComplete
  refine ⟨fun s hs => ?invalidation, fun s seq hs => ?verdict, fun s ctx x f i c hw hx hctx hf hc => ?queue,
    fun s core op o i t => exec_enginePageFault_stops, fun s l1 va => ?writeBack⟩
  case invalidation =>
    intro x starts errs
    obtain ⟨range, asid, all⟩ := exec_inval hs
    refine ⟨fun hi => ⟨fun hl => ?start, fun hl => range.trans (congrArg _ (State.startInval_empty hl)), ?asid, ?all⟩,
      fun hi => ?busy, exec_invalidationComplete_idle, fun i hi => ⟨exec_invalidationComplete_performs hi,
        fun l hl e => State.tlb_invalidate hl, fun l1 y => State.sectors_invalidate⟩⟩
    case start => exact range.trans (congrArg _ (State.startInval_starts hi (by decide) fun _ => hl))
    case asid => exact asid.trans (congrArg _ (State.startInval_starts hi (by decide) nofun))
    case all => exact all.trans (congrArg _ (State.startInval_starts hi (by decide) nofun))
    case busy =>
      have errs (kind : Nat) := State.startInval_busy hi kind
      exact ⟨range.trans (congrArg _ (errs 0)), asid.trans (congrArg _ (errs 1)), all.trans (congrArg _ (errs 2))⟩
  case verdict =>
    rw [exec_faultFail hs, exec_faultReplay hs]
    refine ⟨fun h => ⟨congrArg _ (State.giveVerdict_stale h _), congrArg _ (State.giveVerdict_stale h _)⟩,
      fun x i h => ?_⟩
    have fails : s.giveVerdict seq false = s.failStopped x := State.giveVerdict_fail h rfl
    refine ⟨congrArg _ fails, fun hm => congrArg _ (State.giveVerdict_fail h (by rw [hm]; rfl)),
      fun hm hx => congrArg _ (State.giveVerdict_replay h hm hx), fun core uid o hx ho => congrArg _ ?_⟩
    subst hx
    exact fails.trans (State.failStopped_engine ho)
  case queue =>
    subst hctx
    intro wr rd
    have retry := exec_faultQueueRetry_one hx hw
    refine ⟨fun full => ?_, fun room => ?_⟩
    · rw [retry, State.appendFault_full hx hf hc (queueFull_iff.mpr full)]
      simp only [Bool.false_eq_true, if_false, ← hw]
    · have fits : queueFull wr _ c.fqlog = false := decide_eq_false (Nat.not_le.mpr room)
      obtain ⟨t, ht, told⟩ := State.appendFault_room hx hf hc fits
      rw [ht] at retry
      exact ⟨_, retry, rfl, told⟩
  case writeBack =>
    refine ⟨_, exec_l1WritebackTimeout s l1 va, fun x => State.not_due_after_clean,
      fun x hx hv hd ho ha hn ht only => ?_⟩
    have due : s.dueSector va x = true := State.dueSector_iff.mpr ⟨hv, hd, ho⟩
    refine ⟨State.read_cleanWhere hx due (fun y hy hp => ?_) hd ha hn ht, State.clean_of_due hx due⟩
    obtain ⟨yv, yd, yo⟩ := State.dueSector_iff.mp hp
    exact only y hy yv yd yo

end

section
/-! How the event of a packet ends (R311, R312, R326), and the fields of its words. -/
namespace Sys2Proof.Machine

/-! ### Fields of a packet -/

/-- A bit of a packet as the field of length 1. -/
theorem Pk.bit_eq_f (k : Pk) (dw i : Nat) : bit (k.words.getD dw 0) i = decide (k.f dw i 1 = 1) := rfl

/-- A field of a field that starts at bit 0. -/
theorem bits_bits {x n lo len : Nat} (h : lo + len ≤ n) : bits (bits x 0 n) lo len = bits x lo len := by
  refine Nat.eq_of_testBit_eq fun i => ?_
  simp only [bits, Nat.shiftRight_zero, Nat.testBit_mod_two_pow, Nat.testBit_shiftRight]
  by_cases hi : i < len
  · simp [hi, show lo + i < n by omega]
  · simp [hi]

theorem bits_lt (x lo len : Nat) : bits x lo len < 2 ^ len := Nat.mod_lt _ (Nat.two_pow_pos len)

theorem Pk.toNat_dw (k : Pk) (i : Nat) : (k.dw i).toNat = k.f i 0 64 := rfl

/-- The kind of a packet: its opcode, and the field that selects among the kinds of the opcode. -/
theorem Pk.kind {k : Pk} {op x v : Nat} (hop : k.f 0 0 8 = op) (hx : x = v) : (k.is op && decide (x = v)) = true := by
  simp [Pk.is, hop, hx]

/-! ### The checks of the header (R312) -/

/-- The opcodes of Table 13.4 are 1 to 15. -/
theorem bodyMasks_isNone_iff (op : Nat) : (bodyMasks op).isNone = true ↔ op = 0 ∨ 16 ≤ op := by
  by_cases h : op < 16
  · interval_cases op <;> simp [bodyMasks]
  · have none : bodyMasks op = none := by
      unfold bodyMasks
      split
      case h_16 => rfl
      all_goals omega
    simp [none, Nat.not_lt.mp h]

/-- Which check a header with an error fails, and that it passes those before. -/
theorem headerError_cases {k : Pk} {c : Nat} (h : headerError k = some c) :
    let op := k.f 0 0 8
    (c = 1 ∧ (op = 0 ∨ 16 ≤ op)) ∨
    (¬(op = 0 ∨ 16 ≤ op) ∧
      ((c = 2 ∧ k.f 0 8 5 + 1 ≠ opWords op) ∨
       (k.f 0 8 5 + 1 = opWords op ∧
        (c = 3 ∨ (c = 4 ∧ k.queue.priv = false ∧ (op ≤ 8 ∨ op = 11 ∨ op = 12)) ∨
         (c = 5 ∧ k.queue.priv = false ∧ (k.ctx ≠ k.queue.ctx ∨ k.pa = true)))))) := by
  intro op
  rw [← bodyMasks_isNone_iff]
  unfold headerError at h
  dsimp only at h
  split at h
  next none => exact .inl ⟨(Option.some.inj h).symm, none⟩
  next known =>
  refine .inr ⟨known, ?_⟩
  split at h
  next len => exact .inl ⟨(Option.some.inj h).symm, len⟩
  next len =>
  refine .inr ⟨not_not.mp len, ?_⟩
  split at h
  · exact .inl (Option.some.inj h).symm
  split at h
  next priv => exact .inr (.inl ⟨(Option.some.inj h).symm, by simpa [privOnly, and_comm] using priv⟩)
  split at h
  next ctx => exact .inr (.inr ⟨(Option.some.inj h).symm, by simpa using ctx⟩)
  · cases h

/-! ### How the event of a packet ends -/

section
variable {p : Packet} {s : State} (h : s.serves p = true)
include h

/-- A packet that its queue serves stands at the head of the queue. -/
theorem State.serves_head : (s.queue p.queue.toNat).head = p.head := by
  simp only [State.serves, Bool.and_eq_true, decide_eq_true_eq] at h
  exact h.1.2

/-- A packet that its queue serves is wholly published. -/
theorem State.serves_published : p.words.length ≤ (s.queue p.queue.toNat).published p.head := by
  have head := State.serves_head h
  simp only [State.serves, Bool.and_eq_true, decide_eq_true_eq] at h
  exact head ▸ h.2

end

section
variable {p : Packet} {s : State} {here : Pk → Bool} {body : Pk → State → PEnd}

/-- A packet that its queue serves runs where it is of the kind of the event. -/
theorem packetEvent_runs (hs : s.serves p = true) (hw : (s.pk p).whole = true) (hh : here (s.pk p) = true) :
    packetEvent here body p s = .next (runPacket body (s.pk p) s) :=
  congrArg _ (if_pos (show (s.serves p && (s.pk p).whole && here (s.pk p)) = true by rw [hs, hw, hh]; rfl))

/-- A packet whose header fails a check is a command error, whatever its body (R326). -/
theorem packetEvent_headerError {c : Nat} (hs : s.serves p = true) (hw : (s.pk p).whole = true)
    (he : headerError (s.pk p) = some c) (hh : here (s.pk p) = true) :
    packetEvent here body p s = .next (s.commandError p.queue.toNat p.head (s.pk p).tag c) := by
  rw [packetEvent_runs hs hw hh]
  have he : headerError { s.pk p with queue := s.queue (s.pk p).q } = some c := he
  simp only [runPacket, he]
  rfl

variable {op : Nat} (h : s.takes p op) (hh : here (s.pk p) = true)
include h

theorem State.takes_is : (s.pk p).is op = true := decide_eq_true h.2.2.1

theorem State.takes_kind {x v : Nat} (hx : x = v) : ((s.pk p).is op && decide (x = v)) = true := Pk.kind h.2.2.1 hx

include hh

/-- A packet that is taken up runs its body. -/
theorem packetEvent_takes :
    packetEvent here (held body) p s = .next (finishPacket (s.pk p) (body (s.pk p) s)) := by
  obtain ⟨hs, hw, hop, he, hold, hser⟩ := h
  have go : held body (s.pk p) s = body (s.pk p) s := by
    refine if_neg ?_
    rw [hop, hold]
    rcases hser with hser | hser | hser
    · simp [hser]
    · simp [show (s.pk p).queue.stage ≠ 0 from hser]
    · simp [show s.queueBusy (s.pk p).q = false from hser]
  rw [packetEvent_runs hs hw hh]
  have he : headerError { s.pk p with queue := s.queue (s.pk p).q } = none := he
  simp only [runPacket, he]
  exact congrArg (fun r => Host.Outcome.next (finishPacket (s.pk p) r)) go

theorem packetEvent_retires {t : State} (hb : body (s.pk p) s = .retire t) :
    packetEvent here (held body) p s = p.retires t := by
  rw [packetEvent_takes h hh, hb, finishPacket, Packet.retires]
  simp only [State.pk, List.length_map]

theorem packetEvent_waits {t : State} {stage : Nat} (hb : body (s.pk p) s = .stay t stage) :
    packetEvent here (held body) p s = p.waits t stage := by
  rw [packetEvent_takes h hh, hb]
  rfl

theorem packetEvent_errs {t : State} {code : Nat} (hb : body (s.pk p) s = .halt t code) :
    packetEvent here (held body) p s = p.errs s t code := by
  rw [packetEvent_takes h hh, hb]
  rfl

end

/-! ### The event of each packet (Tables 13.4 and 13.5) -/

section
variable {p : Packet} {s : State}

theorem exec_gridtabInstall : exec (.gridtabInstall p) s =
    packetEvent (fun k => k.is 0x01 && decide (k.f 2 0 1 = 0)) (held gridtabInstallBody) p s := rfl
theorem exec_gridtabRemove : exec (.gridtabRemove p) s =
    packetEvent (fun k => k.is 0x01 && decide (k.f 2 0 1 = 1)) (held gridtabRemoveBody) p s := rfl
theorem exec_ctxnew : exec (.ctxnew p) s = packetEvent (fun k => k.is 0x02) (held ctxnewBody) p s := rfl
theorem exec_ctxend : exec (.ctxend p) s = packetEvent (fun k => k.is 0x03) (held ctxendBody) p s := rfl
theorem exec_huskCreate : exec (.huskCreate p) s =
    packetEvent (fun k => k.is 0x04 && decide (k.f 1 24 1 = 0)) (held huskCreateBody) p s := rfl
theorem exec_huskDestroy : exec (.huskDestroy p) s =
    packetEvent (fun k => k.is 0x04 && decide (k.f 1 24 1 = 1)) (held huskDestroyBody) p s := rfl
theorem exec_keyslotLoad : exec (.keyslotLoad p) s =
    packetEvent (fun k => k.is 0x05 && decide (k.f 1 8 2 = 0)) (held keyslotLoadBody) p s := rfl
theorem exec_keyslotZeroise : exec (.keyslotZeroise p) s =
    packetEvent (fun k => k.is 0x05 && decide (k.f 1 8 2 = 1)) (held keyslotZeroiseBody) p s := rfl
theorem exec_scrubStart : exec (.scrubStart p) s =
    packetEvent (fun k => k.is 0x06 && decide (k.f 4 0 1 = 0)) (held scrubStartBody) p s := rfl
theorem exec_scrubContinue : exec (.scrubContinue p) s =
    packetEvent (fun k => k.is 0x06 && decide (k.f 4 0 1 = 1)) (held scrubContinueBody) p s := rfl
theorem exec_attest : exec (.attest p) s = packetEvent (fun k => k.is 0x07) (held attestBody) p s := rfl
theorem exec_layout : exec (.layout p) s = packetEvent (fun k => k.is 0x08) (held layoutBody) p s := rfl
theorem exec_launch : exec (.launch p) s = packetEvent (fun k => k.is 0x09) (held launchBody) p s := rfl
theorem exec_nodeOpen : exec (.nodeOpen p) s =
    packetEvent (fun k => k.is 0x0A && decide (k.f 1 8 2 = 0)) (held nodeOpenBody) p s := rfl
theorem exec_nodeClose : exec (.nodeClose p) s =
    packetEvent (fun k => k.is 0x0A && decide (k.f 1 8 2 = 1)) (held nodeCloseBody) p s := rfl
theorem exec_preemptPark : exec (.preemptPark p) s =
    packetEvent (fun k => k.is 0x0B && decide (k.f 1 0 2 = 0)) (held (preemptBody true)) p s := rfl
theorem exec_preemptRequeue : exec (.preemptRequeue p) s =
    packetEvent (fun k => k.is 0x0B && decide (k.f 1 0 2 = 1)) (held (preemptBody false)) p s := rfl
theorem exec_preemptResume : exec (.preemptResume p) s =
    packetEvent (fun k => k.is 0x0B && decide (k.f 1 0 2 = 2)) (held resumeBody) p s := rfl
theorem exec_ckpt : exec (.ckpt p) s = packetEvent (fun k => k.is 0x0C) (held ckptBody) p s := rfl
theorem exec_waitmem : exec (.waitmem p) s = packetEvent (fun k => k.is 0x0D) (held waitmemBody) p s := rfl
theorem exec_signalStore : exec (.signalStore p) s =
    packetEvent (fun k => k.is 0x0E && decide (k.f 3 0 2 = 0)) (held signalBody) p s := rfl
theorem exec_signalAdd : exec (.signalAdd p) s =
    packetEvent (fun k => k.is 0x0E && decide (k.f 3 0 2 = 1)) (held signalBody) p s := rfl
theorem exec_signalMax : exec (.signalMax p) s =
    packetEvent (fun k => k.is 0x0E && decide (k.f 3 0 2 = 2)) (held signalBody) p s := rfl
theorem exec_condSkip : exec (.condSkip p) s =
    packetEvent (fun k => k.is 0x0F && decide (k.f 4 4 2 = 0)) (held condSkipBody) p s := rfl
theorem exec_condRepeat : exec (.condRepeat p) s =
    packetEvent (fun k => k.is 0x0F && decide (k.f 4 4 2 = 1)) (held condRepeatBody) p s := rfl
theorem exec_condJump : exec (.condJump p) s =
    packetEvent (fun k => k.is 0x0F && decide (k.f 4 4 2 = 2)) (held condJumpBody) p s := rfl

end

/-- A packet whose context is live and not ending goes on (R312). -/
theorem Pk.withCtx_live {k : Pk} {s : State} {c : Context} (hc : mapFind s.ctxs k.ctx = some c) (he : c.ending = false)
    (go : Context → PEnd) : k.withCtx s go = go c := by
  simp [Pk.withCtx, hc, he]

end Sys2Proof.Machine
end

section
/-! What the writes of a queue's descriptor and the error records leave of Arnal's registers, and of the queue itself
(R309, R311). -/
namespace Sys2Proof.Machine

/-! ### Arnal's registers but those that an error record writes -/

/-- Arnal's registers but those that an error record writes (R309). -/
def State.settings (s : State) : Arnal := { s.arn with errwr := 0, status := 0, statusNew := 0, msix := [] }

theorem State.queue_of_settings {s t : State} (h : t.settings = s.settings) (q : Nat) : t.queue q = s.queue q :=
  (congrArg (fun a => mapGet {} (Arnal.queues a) q) h :)

section
variable (s : State)

theorem State.settings_of_arn {s t : State} (h : t.arn = s.arn) : t.settings = s.settings := by
  rw [State.settings, State.settings, h]

@[simp] theorem State.settings_errorRecord (cls code ctx : Nat) (p : Option (Nat × BitVec 32 × BitVec 32))
    (d0 d1 : Word) : (s.errorRecord cls code ctx p d0 d1).settings = s.settings := by
  unfold State.errorRecord
  dsimp only
  split
  · rfl
  · generalize hr : s.ringWrite _ _ = r
    have h : r.settings = s.settings := State.settings_of_arn (hr ▸ State.arn_ringWrite ..)
    exact h

@[simp] theorem State.settings_memError (a : Nat) (e : Bool) : (s.memError a e).settings = s.settings := by
  unfold State.memError
  exact (State.settings_errorRecord ..).trans rfl

@[simp] theorem State.settings_sealError (a h : Nat) (e : Bool) : (s.sealError a h e).settings = s.settings := by
  unfold State.sealError
  rw [State.settings_memError, State.settings_errorRecord]

@[simp] theorem State.settings_openLine (u : Nat) : (s.openLine u).settings = s.settings := by
  unfold State.openLine
  split
  · rfl
  · exact (State.settings_of_arn (State.arn_breakLine ..)).trans (State.settings_sealError ..)

theorem State.arn_putHome (a : Nat) (l : List Byte) : (s.putHome a l).arn = s.arn := by
  unfold State.putHome
  split
  · rfl
  · rw [State.arn_trimL2, State.arn_put]

@[simp] theorem State.settings_physWrite (a : Nat) (l : List Byte) : (s.physWrite a l).settings = s.settings := by
  unfold State.physWrite
  split
  · rfl
  · exact (State.settings_of_arn (State.arn_putHome ..)).trans (foldl_keeps State.settings_openLine s _)

@[simp] theorem State.settings_physDw (a : Nat) (x : Word) : (s.physDw a x).settings = s.settings :=
  State.settings_physWrite ..

/-! ### The queue after its own writes -/

theorem State.settings_putQueue (q : Nat) (x : Queue) :
    (s.putQueue q x).settings = { s.settings with queues := mapPut s.arn.queues q x } := by
  rw [State.putQueue, State.settings_physDw, State.settings_physDw]
  rfl

@[simp] theorem State.queue_putQueue (q : Nat) (x : Queue) : (s.putQueue q x).queue q = x := by
  have h : (s.putQueue q x).queue q = mapGet {} (mapPut s.arn.queues q x) q :=
    (congrArg (fun a => mapGet {} (Arnal.queues a) q) (s.settings_putQueue q x) :)
  rw [h, mapGet_put, if_pos rfl]

@[simp] theorem State.queue_commandError (q : Nat) (head tag : BitVec 32) (code : Nat) :
    (s.commandError q head tag code).queue q =
      { s.queue q with halted := true, blocked := false, err := code, stage := 0 } := by
  rw [State.commandError, State.queue_of_settings (State.settings_errorRecord ..), State.queue_putQueue]

end

end Sys2Proof.Machine
end

section
open Sys2Proof Sys2Proof.Machine

/-- Settles O41: a packet with a failed check ends as a command error before its body, and the check that fails is told
by the code. -/
theorem headerChecksHaltTheQueue : Obligations.HeaderChecksHaltTheQueue := by
  unfold Obligations.HeaderChecksHaltTheQueue
  intro p s c hs hw he k op q t halts
  have fails {here : Pk → Bool} {body : Pk → State → PEnd} (hh : here (s.pk p) = true) :
      packetEvent here body p s = .next t :=
    packetEvent_headerError hs hw he hh
  have opcode {n : Nat} {body : Pk → State → PEnd} (hop : op = n) : packetEvent (fun k => k.is n) body p s = .next t :=
    fails (decide_eq_true hop)
  have kind {n v : Nat} {x : Pk → Nat} {body : Pk → State → PEnd} (hop : op = n) (hx : x k = v) :
      packetEvent (fun k => k.is n && decide (x k = v)) body p s = .next t :=
    fails (Pk.kind hop hx)
  have queue : t.queue q = { s.queue q with halted := true, blocked := false, err := c, stage := 0 } :=
    s.queue_commandError q p.head k.tag c
  refine ⟨fun hop hx => exec_gridtabInstall.trans (kind hop hx), fun hop hx => exec_gridtabRemove.trans (kind hop hx),
    fun hop => exec_ctxnew.trans (opcode hop), fun hop => exec_ctxend.trans (opcode hop),
    fun hop hx => exec_huskCreate.trans (kind hop hx), fun hop hx => exec_huskDestroy.trans (kind hop hx),
    fun hop hx => exec_keyslotLoad.trans (kind hop hx), fun hop hx => exec_keyslotZeroise.trans (kind hop hx),
    fun hop hx => exec_scrubStart.trans (kind hop hx), fun hop hx => exec_scrubContinue.trans (kind hop hx),
    fun hop => exec_attest.trans (opcode hop), fun hop => exec_layout.trans (opcode hop),
    fun hop => exec_launch.trans (opcode hop), fun hop hx => exec_nodeOpen.trans (kind hop hx),
    fun hop hx => exec_nodeClose.trans (kind hop hx), fun hop hx => exec_preemptPark.trans (kind hop hx),
    fun hop hx => exec_preemptRequeue.trans (kind hop hx), fun hop hx => exec_preemptResume.trans (kind hop hx),
    fun hop => exec_ckpt.trans (opcode hop), fun hop => exec_waitmem.trans (opcode hop),
    fun hop hx => exec_signalStore.trans (kind hop hx), fun hop hx => exec_signalAdd.trans (kind hop hx),
    fun hop hx => exec_signalMax.trans (kind hop hx), fun hop hx => exec_condSkip.trans (kind hop hx),
    fun hop hx => exec_condRepeat.trans (kind hop hx), fun hop hx => exec_condJump.trans (kind hop hx),
    congrArg Queue.halted queue, congrArg Queue.err queue,
    (congrArg Queue.head queue).trans (State.serves_head hs), congrArg Queue.blocked queue, fun none => ?unknown,
    fun lo hi => ?known⟩
  case unknown =>
    rcases headerError_cases he with ⟨rfl, -⟩ | ⟨known, -⟩
    · rfl
    · exact absurd none known
  case known =>
    rcases headerError_cases he with ⟨-, none⟩ | ⟨-, ⟨rfl, len⟩ | ⟨len, rfl | ⟨rfl, priv, ops⟩ | ⟨rfl, priv, ctx⟩⟩⟩
    · exact absurd (show op = 0 ∨ 16 ≤ op from none) (by omega)
    · exact ⟨iff_of_true rfl len, nofun, nofun⟩
    · exact ⟨iff_of_false nofun (not_not.mpr len), nofun, nofun⟩
    · exact ⟨iff_of_false nofun (not_not.mpr len), fun _ => ⟨priv, ops⟩, nofun⟩
    · exact ⟨iff_of_false nofun (not_not.mpr len), nofun, fun _ => ⟨priv, ctx⟩⟩

end

section
/-! The packets of contexts and their tables (R317 to R319). -/
namespace Sys2Proof.Machine

section
variable {k : Pk} {s : State}

/-! ### CTXNEW -/

/-- The ID or the ASID that CTXNEW names is in use. -/
def Pk.Taken (k : Pk) (s : State) : Prop :=
  k.ctx = 0xFFF ∨ (mapFind s.ctxs k.ctx).isSome = true ∨ ∃ e ∈ s.ctxs, e.2.asid = BitVec.ofNat 16 (k.f 2 0 16)

/-- CTXNEW has a generation that is not new, or names a husk that is not live. -/
def Pk.Stale (k : Pk) (s : State) : Prop :=
  (∃ g, mapFind s.lastGen k.ctx = some g ∧ k.f 2 16 24 ≤ g) ∨ (k.f 2 48 1 = 1 ∧ s.huskLive (k.f 2 40 8) = false)

theorem Pk.taken_iff : (k.ctx = 0xFFF ∨ (mapFind s.ctxs k.ctx).isSome = true ∨
    (s.ctxs.any fun e => decide (e.2.asid = BitVec.ofNat 16 (k.f 2 0 16))) = true) ↔ k.Taken s := by
  simp only [Pk.Taken, List.any_eq_true, decide_eq_true_eq]

theorem Pk.stale_iff : ((mapFind s.lastGen k.ctx).any (fun g => decide (k.f 2 16 24 ≤ g)) = true ∨
    (bit (k.words.getD 2 0) 48 = true ∧ (!s.huskLive (k.f 2 40 8)) = true)) ↔ k.Stale s := by
  simp only [Pk.Stale, Option.any_eq_true, Pk.bit_eq_f, Bool.not_eq_true', decide_eq_true_eq]

theorem ctxnewBody_taken (h : k.Taken s) : ctxnewBody k s = .halt s 7 := if_pos (Pk.taken_iff.mpr h)

theorem ctxnewBody_full (h : ¬k.Taken s) (hf : 1024 ≤ s.ctxs.length) : ctxnewBody k s = .halt s 8 :=
  (if_neg (mt Pk.taken_iff.mp h)).trans (if_pos hf)

theorem ctxnewBody_stale (h : ¬k.Taken s) (hf : s.ctxs.length < 1024) (hs : k.Stale s) : ctxnewBody k s = .halt s 9 :=
  (if_neg (mt Pk.taken_iff.mp h)).trans ((if_neg (Nat.not_le.mpr hf)).trans (if_pos (Pk.stale_iff.mpr hs)))

/-- The context that CTXNEW creates (R317). -/
def Pk.newContext (k : Pk) (s : State) : Context :=
  { asid := BitVec.ofNat 16 (k.f 2 0 16), root := BitVec.ofNat 52 (4096 * k.f 1 12 40)
    cgen := BitVec.ofNat 24 (k.f 2 16 24), prot := bit (k.words.getD 2 0) 48, husk := k.f 2 40 8
    bkpt := bit (k.words.getD 2 0) 49, fq := 32 * k.f 3 5 47
    fqlog := k.f 4 0 5, save := 128 * k.f 5 7 45, savelen := k.f 6 0 48, ltab := 64 * k.f 7 6 46, lcount := k.f 8 0 16
    hang := k.f 8 16 32
    measure :=
      if bit (k.words.getD 2 0) 48 then
        shake512 (ascii "VRS5 CTX" ++ dwBytes ((k.words.drop 1).map (BitVec.ofNat 64)) ++
          leBytes 32 (s.huskRoot (k.f 2 40 8)).toNat)
      else [] }

theorem ctxnewBody_creates (h : ¬k.Taken s) (hf : s.ctxs.length < 1024) (hs : ¬k.Stale s) :
    ctxnewBody k s = .retire { s with
      ctxs := mapPut s.ctxs k.ctx (k.newContext s), lastGen := mapPut s.lastGen k.ctx (k.f 2 16 24) } :=
  (if_neg (mt Pk.taken_iff.mp h)).trans ((if_neg (Nat.not_le.mpr hf)).trans (if_neg (mt Pk.stale_iff.mp hs)))

/-- The page-table root of a new context is the page that CTXNEW names. -/
theorem Pk.root_newContext : (k.newContext s).root.toNat = 4096 * k.f 1 12 40 := by
  have : k.f 1 12 40 < 2 ^ 40 := bits_lt ..
  simp only [Pk.newContext, BitVec.toNat_ofNat]
  omega

theorem Pk.cgen_newContext : (k.newContext s).cgen.toNat = k.f 2 16 24 := by
  simp only [Pk.newContext, BitVec.toNat_ofNat]
  exact Nat.mod_eq_of_lt (bits_lt ..)

/-! ### CTXEND -/

theorem ctxendBody_none (h : mapFind s.ctxs k.ctx = none) : ctxendBody k s = .halt s 5 := by
  simp only [ctxendBody, h]

/-- CTXEND without force marks its context as ending, and goes on by what the context still holds. -/
theorem ctxendBody_live {c : Context} (h : mapFind s.ctxs k.ctx = some c) (hf : k.f 1 0 1 = 0) :
    ctxendBody k s =
      let t := s.modCtx k.ctx fun c => { c with ending := true }
      let c := { c with ending := true }
      if t.ctxBusy k.ctx c = true ∨ c.scrub.isSome = true then .stay t 1 else .retire (t.releaseCtx k.ctx c) := by
  have force : ¬(bit (k.words.getD 1 0) 0 = true ∧ (!c.dead) = true) := by
    rw [Pk.bit_eq_f, hf]
    simp
  have ending : mapFind (s.modCtx k.ctx fun c => { c with ending := true }).ctxs k.ctx =
      some { c with ending := true } := by
    simp [State.modCtx, h]
  simp only [ctxendBody, h, if_neg force, ending]

theorem State.ctxs_releaseCtx (s : State) (ctx : Nat) (c : Context) : mapFind (s.releaseCtx ctx c).ctxs ctx = none := by
  simp only [State.releaseCtx, mapFind_erase, if_true]

/-! ### GRIDTAB and LAYOUT -/

section
variable {c : Context} (hc : mapFind s.ctxs k.ctx = some c) (he : c.ending = false)
include hc he

theorem gridtabInstallBody_bad (hr : s.readTable k.ctx (64 * k.f 1 6 46) = none) :
    gridtabInstallBody k s = .halt s 9 := by
  simp only [gridtabInstallBody, Pk.withCtx_live hc he, hr]

/-- A table that is read, and for which there is room, is installed once no launch on it is pending (R318). -/
theorem gridtabInstallBody_good {tid : Nat} {t : GridTable} (hr : s.readTable k.ctx (64 * k.f 1 6 46) = some (tid, t))
    (room : (mapFind s.grids tid).isSome = true ∨ s.grids.length < 64) :
    gridtabInstallBody k s =
      if s.tablePending tid then .stay s 1
      else
        let u := s.dropTable tid
        .retire ({ u with grids := mapPut u.grids tid t }.extend k.ctx 3
          (u.mem.read (64 * k.f 1 6 46) (64 + 8 * t.count))) := by
  have free : ¬((mapFind s.grids tid).isNone = true ∧ 64 ≤ s.grids.length) := by
    rintro ⟨none, full⟩
    rcases room with found | room
    · simp [Option.isNone_iff_eq_none.mp none] at found
    · omega
  simp only [gridtabInstallBody, Pk.withCtx_live hc he, hr, if_neg free]

theorem gridtabRemoveBody_none (h : mapFind s.grids (k.f 2 16 16) = none) : gridtabRemoveBody k s = .halt s 9 := by
  simp only [gridtabRemoveBody, Pk.withCtx_live hc he, h]

theorem gridtabRemoveBody_some {t : GridTable} (h : mapFind s.grids (k.f 2 16 16) = some t) :
    gridtabRemoveBody k s =
      if t.ctx ≠ k.ctx then .halt s 9
      else if s.tablePending (k.f 2 16 16) then .stay s 1
      else .retire (s.dropTable (k.f 2 16 16)) := by
  simp only [gridtabRemoveBody, Pk.withCtx_live hc he, h]

theorem layoutBody_live :
    layoutBody k s =
      let entry := dwBytes ((k.words.drop 2).map (BitVec.ofNat 64))
      if c.lcount ≤ k.f 1 0 16 ∨ k.f 2 0 12 ≠ k.ctx then .halt s 9
      else .retire ((s.physWrite (c.ltab + 64 * k.f 1 0 16) entry).extend k.ctx 2 (leBytes 2 (k.f 1 0 16) ++ entry)) :=
  Pk.withCtx_live hc he _

end

end

/-- The body words of a packet as bytes. -/
theorem State.dwBytes_pk (s : State) (p : Packet) (i : Nat) :
    dwBytes (((s.pk p).words.drop i).map (BitVec.ofNat 64)) = (p.words.drop i).flatMap fun w => leBytes 8 w.toNat := by
  simp [State.pk, dwBytes, List.flatMap_map, ← List.map_drop]

end Sys2Proof.Machine
end

section
open Sys2Proof Sys2Proof.Machine

/-- Settles O42: each packet by the branches of its body. -/
theorem contextPacketsComplete : Obligations.ContextPacketsComplete := by
  unfold Obligations.ContextPacketsComplete
  intro p s k id
  refine ⟨fun h => ?ctxnew, fun h => ?ctxend,
    fun c hc he => ⟨fun h hk => ?install, fun h hk => ?remove, fun h => ?layout⟩⟩
  case ctxnew =>
    intro asid gen prot husk taken old
    have here := State.takes_is h
    refine ⟨fun ht => exec_ctxnew.trans (packetEvent_errs h here (ctxnewBody_taken ht)),
      fun ht hf => exec_ctxnew.trans (packetEvent_errs h here (ctxnewBody_full ht hf)),
      fun ht hf hs => exec_ctxnew.trans (packetEvent_errs h here (ctxnewBody_stale ht hf hs)),
      fun ht hf hg hl => ⟨k.newContext s, ?_, rfl, Pk.root_newContext, Pk.cgen_newContext, decide_eq_true_iff, rfl,
        decide_eq_true_iff, rfl, rfl, rfl, rfl, rfl, rfl, rfl, rfl, rfl, rfl, rfl, rfl⟩⟩
    have fresh : ¬k.Stale s := by
      rintro (gone | ⟨hp, dead⟩)
      · exact hg gone
      · exact Bool.false_ne_true (dead.symm.trans (hl hp))
    exact exec_ctxnew.trans (packetEvent_retires h here (ctxnewBody_creates ht hf fresh))
  case ctxend =>
    have here := State.takes_is h
    refine ⟨fun hn => exec_ctxend.trans (packetEvent_errs h here (ctxendBody_none hn)), fun c hc hf => ?_⟩
    intro t c'
    have ends := ctxendBody_live hc hf
    refine ⟨fun busy => exec_ctxend.trans (packetEvent_waits h here (ends.trans (if_pos ?_))),
      fun idle none => ⟨exec_ctxend.trans (packetEvent_retires h here (ends.trans (if_neg ?_))),
        State.ctxs_releaseCtx ..⟩⟩
    · exact busy
    · rintro (busy | scrub)
      · exact Bool.false_ne_true (idle.symm.trans busy)
      · exact Bool.false_ne_true ((congrArg Option.isSome none).symm.trans scrub)
  case install =>
    intro pa
    have here := State.takes_kind h hk
    refine ⟨fun hr => exec_gridtabInstall.trans (packetEvent_errs h here (gridtabInstallBody_bad hc he hr)),
      fun tid t hr room => ?_⟩
    have installs := gridtabInstallBody_good hc he hr room
    exact ⟨fun wait => exec_gridtabInstall.trans (packetEvent_waits h here (installs.trans (if_pos wait))),
      fun free => exec_gridtabInstall.trans
        (packetEvent_retires h here (installs.trans (if_neg (ne_true_of_eq_false free))))⟩
  case remove =>
    intro tid
    have here := State.takes_kind h hk
    refine ⟨fun hn => exec_gridtabRemove.trans (packetEvent_errs h here (gridtabRemoveBody_none hc he hn)),
      fun t ht => ?_⟩
    have removes := gridtabRemoveBody_some hc he ht
    refine ⟨fun other => exec_gridtabRemove.trans (packetEvent_errs h here (removes.trans (if_pos other))),
      fun own wait => exec_gridtabRemove.trans (packetEvent_waits h here ?_),
      fun own free => exec_gridtabRemove.trans (packetEvent_retires h here ?_)⟩
    · exact removes.trans ((if_neg (not_not.mpr own)).trans (if_pos wait))
    · exact removes.trans ((if_neg (not_not.mpr own)).trans (if_neg (ne_true_of_eq_false free)))
  case layout =>
    intro n entry
    have here := State.takes_is h
    have lays : layoutBody k s = if c.lcount ≤ n ∨ k.f 2 0 12 ≠ id then .halt s 9
        else .retire ((s.physWrite (c.ltab + 64 * n) entry).extend id 2 (leBytes 2 n ++ entry)) := by
      rw [layoutBody_live hc he, s.dwBytes_pk p 2]
    refine ⟨fun bad => exec_layout.trans (packetEvent_errs h here (lays.trans (if_pos bad))),
      fun hl hi => exec_layout.trans (packetEvent_retires h here (lays.trans (if_neg ?_)))⟩
    rintro (out | other)
    · exact absurd hl (Nat.not_lt.mpr out)
    · exact other hi

end

section
/-! The packets that give a context work or take it off its cores: LAUNCH, NODE, PREEMPT and CKPT (R314, R320, R322,
R323, R392). -/
namespace Sys2Proof.Machine

section
variable {k : Pk} {s : State}

/-! ### LAUNCH and NODE -/

section
variable {c : Context} (hc : mapFind s.ctxs k.ctx = some c) (he : c.ending = false)
include hc he

theorem launchBody_fails {t : State} (hr : k.launchRecord s = (none, t)) : launchBody k s = .halt t 6 := by
  simp only [launchBody, Pk.withCtx_live hc he, hr]

section
variable {l : Launch} {t : State} (hr : k.launchRecord s = (some l, t))
include hr

theorem launchBody_refused {cause : Nat} (h : t.refusal l k.queue.maxprio false = some cause) :
    launchBody k s = .retire ((t.refuseRecord l cause k.ctx).writeDone l (BitVec.allOnes 64)) := by
  simp only [launchBody, Pk.withCtx_live hc he, hr, h]

/-- A record that passes Table 1.6 goes on by the husk's checks (R348) and by the launches on its table (R318). -/
theorem launchBody_passed (h : t.refusal l k.queue.maxprio false = none) :
    launchBody k s =
      if t.rootRefuses l then .halt t 9
      else if t.tablePending (l.field 12 0 16) then .stay t 1
      else .retire (t.acceptOwn l) := by
  simp only [launchBody, Pk.withCtx_live hc he, hr, h]

end

theorem nodeOpenBody_open (h : (mapFind s.nodes (nodeKey k.ctx (k.f 1 0 6))).isSome = true) :
    nodeOpenBody k s = .halt s 7 := by
  simp only [nodeOpenBody, Pk.withCtx_live hc he, h, if_true]

section
variable (hn : mapFind s.nodes (nodeKey k.ctx (k.f 1 0 6)) = none) {t : State}
include hn

theorem nodeOpenBody_misplaced (h : k.nodePlaces s = (false, t)) : nodeOpenBody k s = .halt t 6 := by
  simp only [nodeOpenBody, Pk.withCtx_live hc he, hn, Option.isSome_none, Bool.false_eq_true, if_false, h]

/-- A node opens with the counts that its control area holds (log 22). -/
theorem nodeOpenBody_opens {u v : State} {consumed groups : Nat} (h : k.nodePlaces s = (true, t))
    (h1 : t.nodeRead (k.node 0 0) (k.dw 3 + 8) = (some consumed, u))
    (h2 : u.nodeRead (k.node 0 0) (k.dw 3 + 16) = (some groups, v)) :
    nodeOpenBody k s =
      .retire { v with nodes := mapPut v.nodes (nodeKey k.ctx (k.f 1 0 6)) (k.node consumed groups) } := by
  simp only [nodeOpenBody, Pk.withCtx_live hc he, hn, Option.isSome_none, Bool.false_eq_true, if_false, h, h1, h2]

end

theorem nodeCloseBody_none (h : mapFind s.nodes (nodeKey k.ctx (k.f 1 0 6)) = none) :
    nodeCloseBody k s = .halt s 9 := by
  simp only [nodeCloseBody, Pk.withCtx_live hc he, h]

/-- A node closes once its claims are consumed, after its ready records have been launched (R323). -/
theorem nodeCloseBody_some {n : Nat} (hk : n = nodeKey k.ctx (k.f 1 0 6)) {x y : Node} {t u : State} {claims : Nat}
    (h : mapFind s.nodes n = some x)
    (hu : u = ({ s with nodes := mapPut s.nodes n { x with closing := true } } : State).flushNode n (2 ^ x.slog))
    (hy : mapFind u.nodes n = some y) (hr : u.nodeRead y y.ctl = (some claims, t)) :
    nodeCloseBody k s =
      if claims = y.consumed % 2 ^ 64 ∧ y.openGroups = [] then .retire { t with nodes := mapErase t.nodes n }
      else .stay t 1 := by
  subst hk hu
  simp only [nodeCloseBody, Pk.withCtx_live hc he, h, hy, hr]

end

/-! ### PREEMPT -/

/-- The pre-emption that PREEMPT park or requeue starts (R320). -/
def Pk.preemption (k : Pk) (park : Bool) : Preempt :=
  { level := 1, requeue := !park, drain := 1024 * k.f 1 32 32, save := 1024 * k.f 2 0 32, packet := some k.name }

theorem preemptBody_none (park : Bool) (h : mapFind s.ctxs k.ctx = none) (h0 : k.queue.stage = 0) :
    preemptBody park k s = .halt s 5 := by
  simp only [preemptBody, h, h0]
  rfl

theorem resumeBody_none (h : mapFind s.ctxs k.ctx = none) (h0 : k.queue.stage = 0) : resumeBody k s = .halt s 5 := by
  simp only [resumeBody, h, h0]
  rfl

section
variable {c : Context} (hc : mapFind s.ctxs k.ctx = some c) (hd : c.dead = false)
include hc hd

/-- PREEMPT of a context that no forced reset has ended, by the stage of the packet (R320). -/
theorem preemptBody_live (park : Bool) :
    preemptBody park k s =
      if k.queue.stage = 1 then (if c.preempt.isSome then .stay s 1 else .retire s)
      else if c.preempt.isSome then .stay s 2
      else if k.queue.stage = 2 ∨ (!s.hasBlocks k.ctx) = true then .retire (s.setMode k.ctx park k.name)
      else .stay (s.modCtx k.ctx fun c => { c with preempt := some (k.preemption park) }) 1 := by
  simp only [preemptBody, hc]
  exact if_neg (ne_true_of_eq_false hd)

section
variable (hn : c.preempt = none) (park : Bool)
include hn

theorem preemptBody_done (h1 : k.queue.stage = 1) : preemptBody park k s = .retire s :=
  (preemptBody_live hc hd park).trans ((if_pos h1).trans (if_neg (by simp [hn])))

variable (h0 : k.queue.stage = 0)
include h0

theorem preemptBody_starts (hb : s.hasBlocks k.ctx = true) : preemptBody park k s =
    .stay (s.modCtx k.ctx fun c => { c with preempt := some (k.preemption park) }) 1 := by
  rw [preemptBody_live hc hd park, if_neg (by simp [h0]), if_neg (by simp [hn]), if_neg (by simp [h0, hb])]

theorem preemptBody_sets (hb : s.hasBlocks k.ctx = false) :
    preemptBody park k s = .retire (s.setMode k.ctx park k.name) := by
  rw [preemptBody_live hc hd park, if_neg (by simp [h0]), if_neg (by simp [hn]), if_pos (by simp [hb])]

end

section
variable (hp : c.preempt.isSome = true) (park : Bool)
include hp

theorem preemptBody_own (h1 : k.queue.stage = 1) : preemptBody park k s = .stay s 1 :=
  (preemptBody_live hc hd park).trans ((if_pos h1).trans (if_pos hp))

theorem preemptBody_other (h0 : k.queue.stage = 0) : preemptBody park k s = .stay s 2 :=
  (preemptBody_live hc hd park).trans ((if_neg (by simp [h0])).trans (if_pos hp))

end

theorem resumeBody_live :
    resumeBody k s = if c.preempt.isSome then .stay s 2 else .retire (s.unparkCtx k.ctx k.name) := by
  simp only [resumeBody, hc, hd, preOther, Bool.false_eq_true, false_and, if_false]

end

/-! ### CKPT -/

/-- CKPT names a module of the safe tier by its module number, its reserved bits and its domain (R392). -/
theorem Pk.tierOk_iff : s.tierOk (k.f 1 0 48) = true ↔
    1536 ≤ k.f 1 0 11 ∧ k.f 1 11 21 = 0 ∧ k.f 1 32 16 = s.cfg.domain.toNat := by
  simp only [State.tierOk, decide_eq_true_eq]
  rw [Pk.f, bits_bits (by decide), bits_bits (by decide), bits_bits (by decide)]
  rfl

theorem ckptBody_bad (h : ¬s.tierOk (k.f 1 0 48) = true) : ckptBody k s = .halt s 9 :=
  if_pos (by simpa using h)

/-- The checkpoint of the whole memory that CKPT starts (R392). -/
def Pk.wholeCkpt (k : Pk) : Ckpt :=
  { port := BitVec.ofNat 48 (k.f 1 0 48), roff := k.dw 2, one := none, done := 8 * k.f 4 3 49, dval := k.dw 5
    queue := k.q, name := k.name }

section
variable (h : s.tierOk (k.f 1 0 48) = true) (h0 : k.f 3 0 1 = 0)
include h h0

theorem ckptBody_busy (hb : s.ckpt.isSome = true) : ckptBody k s = .stay s 1 := by
  simp [ckptBody, h, h0, hb]

/-- A checkpoint of the whole memory pre-empts no context where none has a block or waits for a place. -/
theorem ckptBody_accepts (hn : s.ckpt = none)
    (idle : ∀ c ∈ s.ctxs, s.hasBlocks c.1 = false ∧ s.awaitsPlace c.1 c.2 = false) :
    ckptBody k s = .retire { s with ckpt := some k.wholeCkpt } := by
  have due : (s.ctxs.filter fun c => (!decide (k.f 3 0 1 = 1) || decide (c.1 = k.ctx)) && !c.2.dead && !c.2.saved &&
      (s.hasBlocks c.1 || s.awaitsPlace c.1 c.2)) = [] := by
    refine List.filter_eq_nil_iff.mpr fun c hc => ?_
    obtain ⟨blocks, waits⟩ := idle c hc
    simp [blocks, waits]
  unfold ckptBody
  dsimp only
  rw [due]
  simp [h, h0, hn, Pk.wholeCkpt]

end

end

end Sys2Proof.Machine
end

section
open Sys2Proof Sys2Proof.Machine

/-- Settles O44: each packet by the branches of its body, PREEMPT by the stage of its packet (log 28), and an open of a
node by the counts that it reads (log 22). -/
theorem workPacketsComplete : Obligations.WorkPacketsComplete := by
  unfold Obligations.WorkPacketsComplete
  intro p s k
  refine ⟨fun c hc he => ⟨fun h => ⟨?fails, fun l t hr => ?launch⟩, fun h hk => ?nodeOpen, fun h hk => ?nodeClose⟩,
    fun h => ?preempt, fun h => ?ckpt⟩
  case fails =>
    exact fun t hr => exec_launch.trans (packetEvent_errs h (State.takes_is h) (launchBody_fails hc he hr))
  case launch =>
    have here := State.takes_is h
    have passed := launchBody_passed hc he hr
    refine ⟨fun cause hf => exec_launch.trans (packetEvent_retires h here (launchBody_refused hc he hr hf)),
      fun hf root => exec_launch.trans (packetEvent_errs h here ((passed hf).trans (if_pos root))),
      fun hf root wait => exec_launch.trans (packetEvent_waits h here ?_),
      fun hf root free => exec_launch.trans (packetEvent_retires h here ?_)⟩
    · exact (passed hf).trans ((if_neg (ne_true_of_eq_false root)).trans (if_pos wait))
    · exact (passed hf).trans ((if_neg (ne_true_of_eq_false root)).trans (if_neg (ne_true_of_eq_false free)))
  case nodeOpen =>
    intro n
    have here := State.takes_kind h hk
    exact ⟨fun ho => exec_nodeOpen.trans (packetEvent_errs h here (nodeOpenBody_open hc he ho)), fun hn =>
      ⟨fun t hp => exec_nodeOpen.trans (packetEvent_errs h here (nodeOpenBody_misplaced hc he hn hp)),
        fun t hp consumed u groups v h1 h2 =>
          ⟨exec_nodeOpen.trans (packetEvent_retires h here (nodeOpenBody_opens hc he hn hp h1 h2)), rfl⟩⟩⟩
  case nodeClose =>
    intro n
    have here := State.takes_kind h hk
    refine ⟨fun hn => exec_nodeClose.trans (packetEvent_errs h here (nodeCloseBody_none hc he hn)),
      fun x u hx hu y claims t hy hr => ?_⟩
    have closes := nodeCloseBody_some hc he rfl hx hu hy hr
    refine ⟨fun hcl ho => exec_nodeClose.trans (packetEvent_retires h here (closes.trans (if_pos ⟨hcl, ho⟩))),
      fun more => exec_nodeClose.trans (packetEvent_waits h here (closes.trans (if_neg ?_)))⟩
    rintro ⟨hcl, ho⟩
    exact more.elim (absurd hcl) (absurd ho)
  case preempt =>
    intro pre
    have body {i : Instr} {here : Pk → Bool} (park : Bool)
        (hi : exec i s = packetEvent here (held (preemptBody park)) p s) (hh : here k = true) : pre i park := by
      refine ⟨fun hn h0 => hi.trans (packetEvent_errs h hh (preemptBody_none park hn h0)), fun c hc hd => ?_⟩
      exact ⟨fun hn h0 hb => hi.trans (packetEvent_waits h hh (preemptBody_starts hc hd hn park h0 hb)),
        fun hn h0 hb => hi.trans (packetEvent_retires h hh (preemptBody_sets hc hd hn park h0 hb)),
        fun hn h1 => hi.trans (packetEvent_retires h hh (preemptBody_done hc hd hn park h1)),
        fun hp h1 => hi.trans (packetEvent_waits h hh (preemptBody_own hc hd hp park h1)),
        fun hp h0 => hi.trans (packetEvent_waits h hh (preemptBody_other hc hd hp park h0))⟩
    refine ⟨fun hk => body true exec_preemptPark (State.takes_kind h hk),
      fun hk => body false exec_preemptRequeue (State.takes_kind h hk), fun hk => ?_⟩
    have here := State.takes_kind h hk
    refine ⟨fun hn h0 => exec_preemptResume.trans (packetEvent_errs h here (resumeBody_none hn h0)), fun c hc hd => ?_⟩
    have live := resumeBody_live hc hd
    refine ⟨fun hp => exec_preemptResume.trans (packetEvent_waits h here (live.trans (if_pos hp))),
      fun hn => exec_preemptResume.trans (packetEvent_retires h here (live.trans (if_neg ?_)))⟩
    rw [hn]
    decide
  case ckpt =>
    intro ok
    have here := State.takes_is h
    refine ⟨fun bad => exec_ckpt.trans (packetEvent_errs h here (ckptBody_bad (mt Pk.tierOk_iff.mp bad))),
      fun good h0 => ⟨fun busy => ?_, fun hn idle => ?_⟩⟩
    · exact exec_ckpt.trans (packetEvent_waits h here (ckptBody_busy (Pk.tierOk_iff.mpr good) h0 busy))
    · exact exec_ckpt.trans (packetEvent_retires h here (ckptBody_accepts (Pk.tierOk_iff.mpr good) h0 hn idle))

end

section
/-! WAITMEM, COND and SIGNAL (R315, R316): the test of their word, the walk over the packets that COND skips, and the
write of SIGNAL. -/
namespace Sys2Proof.Machine

/-! ### The test of a word (R315) -/

/-- Bytes of the word that WAITMEM or COND tests. -/
def Pk.testSize (k : Pk) : Nat := if k.f 4 3 1 = 1 then 8 else 4

/-- The word of WAITMEM or COND compares, under its mask. -/
def Pk.Holds (k : Pk) (u : State) (pa : Nat) : Prop :=
  memCompare (k.f 4 0 3) (8 * k.testSize) (leNat (u.mem.read pa k.testSize) &&& k.f 3 0 64)
    (k.f 2 0 64 &&& k.f 3 0 64) = true

section
variable {k : Pk} {s t : State}

theorem Pk.testSize_eq : (if bit (k.words.getD 4 0) 3 then 8 else 4) = k.testSize := by
  simp only [Pk.bit_eq_f, decide_eq_true_eq, Pk.testSize]

theorem Pk.test_fails (h : k.place s (k.dw 1) k.testSize { r := true } = (none, t)) : k.test s = (none, t) := by
  unfold Pk.test
  simp only [Pk.testSize_eq, h]

section
variable {pa : Nat} (h : k.place s (k.dw 1) k.testSize { r := true } = (some pa, t))
include h

theorem Pk.test_holds (hh : k.Holds (t.settle (pa / 32)) pa) : k.test s = (some true, t.settle (pa / 32)) := by
  unfold Pk.test
  simp only [Pk.testSize_eq, h, Pk.toNat_dw]
  rw [show memCompare .. = true from hh]

theorem Pk.test_not_holds (hh : ¬k.Holds (t.settle (pa / 32)) pa) : k.test s = (some false, t.settle (pa / 32)) := by
  unfold Pk.test
  simp only [Pk.testSize_eq, h, Pk.toNat_dw]
  rw [show memCompare .. = false from Bool.eq_false_of_not_eq_true hh]

end

variable {c : Context} (hc : mapFind s.ctxs k.ctx = some c) (he : c.ending = false)
include hc he

theorem waitmemBody_fails (h : k.test s = (none, t)) : waitmemBody k s = .halt t 6 := by
  simp only [waitmemBody, Pk.withCtx_live hc he, h]

theorem waitmemBody_retires (h : k.test s = (some true, t)) : waitmemBody k s = .retire t := by
  simp only [waitmemBody, Pk.withCtx_live hc he, h]

theorem waitmemBody_waits (h : k.test s = (some false, t)) : waitmemBody k s = .stay t 1 := by
  simp only [waitmemBody, Pk.withCtx_live hc he, h]

variable {act : Pk → State → PEnd}

theorem condBody_fails (h : k.condTest s = (none, t)) : condBody act k s = .halt t 6 := by
  simp only [condBody, Pk.withCtx_live hc he, h]

theorem condBody_retires (h : k.condTest s = (some false, t)) : condBody act k s = .retire t := by
  simp only [condBody, Pk.withCtx_live hc he, h]

theorem condBody_acts (h : k.condTest s = (some true, t)) : condBody act k s = act k t := by
  simp only [condBody, Pk.withCtx_live hc he, h]

end

theorem Pk.condTest_first {k : Pk} {s : State} (h : k.queue.stage = 0) : k.condTest s = k.test s :=
  if_neg (by rw [h]; decide)

theorem Pk.condTest_again {k : Pk} {s : State} (h : k.queue.stage = 1) : k.condTest s = (some true, s) := if_pos h

/-! ### The walk over the packets that COND skips (R315) -/

section
variable {k : Pk} {u : State} {l : List Pk}

/-- Nothing is published at a ring word, from a packet on. -/
def Pk.Out (k : Pk) (w : BitVec 32) : Prop := k.queue.published k.head ≤ (w - k.head).toNat

/-- The ring word of the next packet after some of the listed ones, which follow a packet. -/
def Pk.skipPlace (k : Pk) (l : List Pk) (i : Nat) : BitVec 32 := if i = 0 then k.after else (l.getD (i - 1) k).after

/-- The listed packets follow a packet in the ring, whole and with headers that pass their checks. -/
def Pk.Skips (k : Pk) (u : State) (l : List Pk) : Prop :=
  ∀ i x, l[i]? = some x → ¬k.Out (k.skipPlace l i) ∧ x = u.packetAt k.q k.queue (k.skipPlace l i) ∧
    headerError x = none ∧ x.whole = true

/-- A walk has fuel for every ring word that is published from its place on, and its place is not past the tail. -/
def Pk.Fuelled (k : Pk) (fuel : Nat) (w : BitVec 32) : Prop :=
  k.queue.published k.head < fuel + (w - k.head).toNat ∧ (w - k.head).toNat ≤ k.queue.published k.head

theorem Pk.after_sub_head (h : k.words.length ≤ k.queue.published k.head) :
    (k.after - k.head).toNat = k.words.length := by
  have tail : k.queue.published k.head < 2 ^ 32 := BitVec.isLt _
  rw [Pk.after, add_comm, add_sub_cancel_right, BitVec.toNat_ofNat]
  exact Nat.mod_eq_of_lt (by omega)

/-- A whole packet has a word, and ends no later than the tail. -/
theorem State.packetAt_after {x : Pk} {w : BitVec 32} (hw : ¬k.Out w) (hx : x = u.packetAt k.q k.queue w)
    (whole : x.whole = true) :
    (w - k.head).toNat < (x.after - k.head).toNat ∧ (x.after - k.head).toNat ≤ k.queue.published k.head := by
  have head : x.head = w := by rw [hx, State.packetAt]
  have pos : 0 < x.words.length := List.length_pos_of_ne_nil (of_decide_eq_true whole).1
  have len : x.words.length ≤ k.queue.published w := by
    rw [hx]
    simp only [State.packetAt, List.length_map, List.length_range]
    exact Nat.min_le_left ..
  simp only [Pk.Out, Queue.published, Pk.after, head] at *
  generalize x.words.length = n at *
  have : n < 2 ^ 32 := len.trans_lt (BitVec.isLt _)
  generalize hb : BitVec.ofNat 32 n = b
  have : b.toNat = n := by rw [← hb, BitVec.toNat_ofNat, Nat.mod_eq_of_lt this]
  subst this
  bv_omega

/-- A packet of a ring has the queue that it was read from. -/
theorem State.packetAt_queue (s : State) (q : Nat) (x : Queue) (w : BitVec 32) :
    ({ s.packetAt q x w with queue := x } : Pk) = s.packetAt q x w := rfl

section
variable {fuel left done : Nat} {w : BitVec 32}

theorem skipWalk_ends : skipWalk k u (fuel + 1) w 0 done = .move u w done := rfl

theorem skipWalk_out (h0 : left ≠ 0) (hw : k.Out w) : skipWalk k u (fuel + 1) w left done = .stay u 1 :=
  (if_neg h0).trans (if_pos hw)

variable (h0 : left ≠ 0) (hw : ¬k.Out w)
include h0 hw

theorem skipWalk_stops {c : Nat} (he : headerError (u.packetAt k.q k.queue w) = some c) :
    skipWalk k u (fuel + 1) w left done = .stop u w done (u.packetAt k.q k.queue w).tag c := by
  refine (if_neg h0).trans ((if_neg hw).trans ?_)
  simp only [State.packetAt_queue, he]

variable (he : headerError (u.packetAt k.q k.queue w) = none)
include he

theorem skipWalk_part (hp : (u.packetAt k.q k.queue w).whole = false) :
    skipWalk k u (fuel + 1) w left done = .stay u 1 := by
  refine (if_neg h0).trans ((if_neg hw).trans ?_)
  simp only [State.packetAt_queue, he, hp, Bool.false_eq_true, if_false]

theorem skipWalk_next (hp : (u.packetAt k.q k.queue w).whole = true) :
    skipWalk k u (fuel + 1) w left done =
      skipWalk k u fuel (u.packetAt k.q k.queue w).after (left - 1) (done + 1) := by
  refine (if_neg h0).trans ((if_neg hw).trans ?_)
  simp only [State.packetAt_queue, he, hp, if_true]

end

/-- The walk passes the listed packets. -/
theorem skipWalk_passes (hl : k.Skips u l) {count : Nat} (hc : l.length ≤ count)
    (hp : k.words.length ≤ k.queue.published k.head) {i : Nat} (hi : i ≤ l.length) :
    ∃ fuel, k.Fuelled fuel (k.skipPlace l i) ∧
      skipWalk k u (k.queue.published k.head + 1) k.after count 1 =
        skipWalk k u fuel (k.skipPlace l i) (count - i) (1 + i) := by
  induction i with
  | zero =>
    have start := Pk.after_sub_head hp
    exact ⟨_, ⟨by change _ < _ + (k.after - k.head).toNat; omega, start.trans_le hp⟩, rfl⟩
  | succ i ih =>
    obtain ⟨fuel, ⟨more, -⟩, walk⟩ := ih (by omega)
    obtain ⟨x, hx⟩ : ∃ x, l[i]? = some x := ⟨l[i], List.getElem?_eq_getElem (by omega)⟩
    obtain ⟨here, rfl, header, whole⟩ := hl i x hx
    have next : k.skipPlace l (i + 1) = (u.packetAt k.q k.queue (k.skipPlace l i)).after := by simp [Pk.skipPlace, hx]
    obtain ⟨on, upto⟩ := State.packetAt_after here rfl whole
    obtain ⟨fuel, rfl⟩ : ∃ n, fuel = n + 1 := ⟨fuel - 1, by simp only [Pk.Out] at here; omega⟩
    refine ⟨fuel, ⟨by rw [next]; omega, by rw [next]; exact upto⟩, ?_⟩
    rw [walk, skipWalk_next (by omega) here header whole, next, Nat.sub_sub, Nat.add_assoc]

/-- What the walk does past the listed packets: the fuel lasts to the tail. -/
theorem skipWalk_after (hl : k.Skips u l) {count : Nat} (hc : l.length ≤ count)
    (hp : k.words.length ≤ k.queue.published k.head) :
    ∃ fuel, skipWalk k u (k.queue.published k.head + 1) k.after count 1 =
      skipWalk k u (fuel + 1) (k.skipPlace l l.length) (count - l.length) (1 + l.length) := by
  obtain ⟨fuel, ⟨more, upto⟩, walk⟩ := skipWalk_passes hl hc hp le_rfl
  obtain ⟨n, rfl⟩ : ∃ n, fuel = n + 1 := ⟨fuel - 1, by omega⟩
  exact ⟨n, walk⟩

end

/-! ### SIGNAL (R316) -/

/-- Bytes of the word that SIGNAL writes. -/
def Pk.signalSize (k : Pk) : Nat := if k.f 3 2 1 = 1 then 8 else 4

/-- What SIGNAL needs of its address. -/
def Pk.signalNeed (k : Pk) : Need := if k.f 3 0 2 = 0 then { w := true } else { r := true, w := true }

theorem Pk.signalNeed_store {k : Pk} (h : k.f 3 0 2 = 0) : k.signalNeed = { w := true } := if_pos h

theorem Pk.signalNeed_modify {k : Pk} (h : k.f 3 0 2 ≠ 0) : k.signalNeed = { r := true, w := true } := if_neg h

/-- What SIGNAL makes of the old word. -/
def Pk.signalNew (k : Pk) (old : Nat) : Nat :=
  signalValue (k.f 3 0 2) k.signalSize old (k.f 2 0 64 % 2 ^ (8 * k.signalSize))

/-- The state after SIGNAL's write of a function of the old word, and its vector. -/
def Pk.signalled (k : Pk) (u : State) (pa : Nat) (new : Nat → Nat) : State :=
  let x := u.physWrite pa (leBytes k.signalSize (new (leNat (u.mem.read pa k.signalSize))))
  if k.f 3 3 1 = 1 then { x with arn := { x.arn with msix := x.arn.msix ++ [k.f 3 16 8] } } else x

section
variable {k : Pk} {s t : State}

theorem Pk.signalSize_eq : (if bit (k.words.getD 3 0) 2 then 8 else 4) = k.signalSize := by
  simp only [Pk.bit_eq_f, decide_eq_true_eq, Pk.signalSize]

variable {c : Context} (hc : mapFind s.ctxs k.ctx = some c) (he : c.ending = false)
include hc he

theorem signalBody_fails (h : k.place s (k.dw 1) k.signalSize k.signalNeed = (none, t)) :
    signalBody k s = .halt t 6 := by
  rw [signalBody, Pk.withCtx_live hc he]
  simp only [Pk.signalSize_eq]
  rw [← Pk.signalNeed, h]

theorem signalBody_writes {pa : Nat} (h : k.place s (k.dw 1) k.signalSize k.signalNeed = (some pa, t)) :
    signalBody k s = .retire (k.signalled (t.settle (pa / 32)) pa k.signalNew) := by
  rw [signalBody, Pk.withCtx_live hc he]
  simp only [Pk.signalSize_eq]
  rw [← Pk.signalNeed, h]
  simp only [Pk.bit_eq_f, decide_eq_true_eq, Pk.toNat_dw, Pk.signalled, Pk.signalNew]

end

end Sys2Proof.Machine
end

section
/-! How WAITMEM, COND and SIGNAL end (R315, R316). -/
namespace Sys2Proof.Machine

section
variable {p : Packet} {s t : State} {c : Context}
  (hc : mapFind s.ctxs (s.pk p).ctx = some c) (he : c.ending = false)
include hc he

/-! ### COND (R315) -/

section
variable (h : s.takes p 15) {here : Pk → Bool} {act : Pk → State → PEnd} (hh : here (s.pk p) = true)
include h hh

theorem cond_fails (h0 : (s.pk p).queue.stage = 0) (ht : (s.pk p).test s = (none, t)) :
    packetEvent here (held (condBody act)) p s = p.errs s t 6 :=
  packetEvent_errs h hh (condBody_fails hc he ((Pk.condTest_first h0).trans ht))

theorem cond_retires (h0 : (s.pk p).queue.stage = 0) (ht : (s.pk p).test s = (some false, t)) :
    packetEvent here (held (condBody act)) p s = p.retires t :=
  packetEvent_retires h hh (condBody_retires hc he ((Pk.condTest_first h0).trans ht))

/-- COND whose test has held ends as its action does. -/
theorem cond_acts (ht : (s.pk p).condTest s = (some true, t)) {e : PEnd} (ha : act (s.pk p) t = e) :
    packetEvent here (held (condBody act)) p s = .next (finishPacket (s.pk p) e) := by
  rw [packetEvent_takes h hh, condBody_acts hc he ht, ha]

end

/-- COND skip whose test has held ends as its walk does past the packets that it passes. -/
theorem condSkip_ends (h : s.takes p 15) (hk : (s.pk p).f 4 4 2 = 0) (ht : (s.pk p).condTest s = (some true, t))
    {l : List Pk} (hl : (s.pk p).Skips t l) (fits : l.length ≤ (s.pk p).f 4 32 32) :
    ∃ fuel, exec (.condSkip p) s = .next (finishPacket (s.pk p) (skipWalk (s.pk p) t (fuel + 1)
      ((s.pk p).skipPlace l l.length) ((s.pk p).f 4 32 32 - l.length) (1 + l.length))) := by
  have whole : (s.pk p).words.length ≤ (s.pk p).queue.published (s.pk p).head :=
    (List.length_map _).trans_le (State.serves_published h.1)
  obtain ⟨fuel, walk⟩ := skipWalk_after hl fits whole
  exact ⟨fuel, exec_condSkip.trans (cond_acts hc he h (State.takes_kind h hk) ht walk)⟩

/-! ### SIGNAL (R316) -/

theorem signal_writes (h : s.takes p 14) {here : Pk → Bool} (hh : here (s.pk p) = true) {i : Instr}
    (hi : exec i s = packetEvent here (held signalBody) p s) {need : Need} (hn : (s.pk p).signalNeed = need)
    {new : Nat → Nat} (hv : (s.pk p).signalNew = new) :
    (∀ t, (s.pk p).place s ((s.pk p).dw 1) (s.pk p).signalSize need = (none, t) → exec i s = p.errs s t 6) ∧
    ∀ pa t, (s.pk p).place s ((s.pk p).dw 1) (s.pk p).signalSize need = (some pa, t) →
      exec i s = p.retires ((s.pk p).signalled (t.settle (pa / 32)) pa new) := by
  subst hn hv
  exact ⟨fun _ hp => hi.trans (packetEvent_errs h hh (signalBody_fails hc he hp)),
    fun _ _ hp => hi.trans (packetEvent_retires h hh (signalBody_writes hc he hp))⟩

end

end Sys2Proof.Machine
end

section
open Sys2Proof Sys2Proof.Machine

/-- Settles O45: the test by the comparison of its word, COND by the action of its kind, the walk of COND skip by
induction on the packets that it passes, and SIGNAL by its write. -/
theorem waitAndSignalPacketsComplete : Obligations.WaitAndSignalPacketsComplete := by
  unfold Obligations.WaitAndSignalPacketsComplete
  intro p s c hc he k n after count meets
  refine ⟨fun t hp => ?fails, fun pa t hp => ?tested, fun h hk u hu l hl => ?skip, fun h => ?signal⟩
  case fails =>
    have test := Pk.test_fails hp
    exact ⟨fun h => exec_waitmem.trans (packetEvent_errs h (State.takes_is h) (waitmemBody_fails hc he test)),
      fun h h0 hk => exec_condJump.trans (cond_fails hc he h (State.takes_kind h hk) h0 test)⟩
  case tested =>
    intro u holds
    refine ⟨fun h hh => exec_waitmem.trans (packetEvent_retires h (State.takes_is h)
        (waitmemBody_retires hc he (Pk.test_holds hp hh))),
      fun h hh => exec_waitmem.trans (packetEvent_waits h (State.takes_is h)
        (waitmemBody_waits hc he (Pk.test_not_holds hp hh))),
      fun h h0 => ⟨fun hh => ?not, fun hh hk => ?repeat_, fun hh hk => ?jump⟩⟩
    case not =>
      have test := Pk.test_not_holds hp hh
      exact ⟨fun hk => exec_condSkip.trans (cond_retires hc he h (State.takes_kind h hk) h0 test),
        fun hk => exec_condRepeat.trans (cond_retires hc he h (State.takes_kind h hk) h0 test),
        fun hk => exec_condJump.trans (cond_retires hc he h (State.takes_kind h hk) h0 test)⟩
    all_goals have test := (Pk.condTest_first h0).trans (Pk.test_holds hp hh)
    case repeat_ =>
      have acts {e : PEnd} (ha : _ = e) := exec_condRepeat.trans (cond_acts hc he h (State.takes_kind h hk) test ha)
      exact ⟨fun past => acts (if_pos past), fun fits => acts (if_neg (Nat.not_lt.mpr fits))⟩
    case jump =>
      have acts {e : PEnd} (ha : _ = e) := exec_condJump.trans (cond_acts hc he h (State.takes_kind h hk) test ha)
      have len : (s.pk p).words.length = p.words.length := List.length_map _
      refine ⟨fun past => acts (if_pos past),
        fun fits early => acts ((if_neg (Nat.not_lt.mpr fits)).trans (if_pos ?_)),
        fun fits there => (acts ((if_neg (Nat.not_lt.mpr fits)).trans (if_neg ?_))).trans ?_⟩
      · rw [len]
        exact early
      · rw [len]
        exact Nat.not_lt.mpr there
      · rw [Pk.after, len]
        rfl
  case skip =>
    intro q place w out j skips
    have after_eq : k.after = after := by
      rw [Pk.after, show k.words.length = p.words.length from List.length_map _]
      rfl
    have place_eq (i : Nat) : place i = k.skipPlace l i := by rw [Pk.skipPlace, after_eq]
    have test : k.condTest s = (some true, u) := by
      rcases hu with ⟨again, rfl⟩ | ⟨first, pa, t, hp, rfl, holds⟩
      · exact Pk.condTest_again again
      · exact (Pk.condTest_first first).trans (Pk.test_holds hp holds)
    have listed : k.Skips u l := fun i x hx => place_eq i ▸ skips i x hx
    obtain ⟨fuel, ends⟩ := condSkip_ends hc he h hk test listed hl
    rw [← place_eq l.length] at ends
    have acts {e : PEnd} (ha : _ = e) := ends.trans (congrArg (fun e => Host.Outcome.next (finishPacket k e)) ha)
    refine ⟨fun all => ?all, fun more => ?more⟩
    case all =>
      rw [← all]
      exact acts (e := .move u w _) (by rw [Nat.sub_eq_zero_of_le all.ge]; exact skipWalk_ends)
    case more =>
      have left : count - l.length ≠ 0 := by omega
      refine ⟨fun waits => acts (e := .stay u 1) ?_, fun c hw hj => acts (e := .stop u w _ _ c) ?_⟩
      · by_cases hw : k.Out w
        · exact skipWalk_out left hw
        · obtain ⟨header, part⟩ := waits.resolve_left hw
          exact skipWalk_part left hw header part
      · exact skipWalk_stops left hw hj
  case signal =>
    intro n v writes
    have kind {x : Nat} (hx : k.f 3 0 2 = x) := State.takes_kind h hx
    have writes_of (i : Instr) (need : Need) (new : Nat → Nat) {here : Pk → Bool}
        (hi : exec i s = packetEvent here (held signalBody) p s) (hh : here k = true) (hn : k.signalNeed = need)
        (hv : k.signalNew = new) : writes i need new :=
      signal_writes hc he h hh hi hn hv
    have new_eq {sop : Nat} (hk : k.f 3 0 2 = sop) : k.signalNew = fun old => signalValue sop n old v := by
      rw [← hk]
      rfl
    refine ⟨fun hk => writes_of (.signalStore p) { w := true } (fun _ => v) exec_signalStore (kind hk)
        (Pk.signalNeed_store hk) (new_eq hk),
      fun hk => writes_of (.signalAdd p) { r := true, w := true } (fun old => (old + v) % 2 ^ (8 * n)) exec_signalAdd
        (kind hk) (Pk.signalNeed_modify (by omega)) (new_eq hk),
      fun hk => writes_of (.signalMax p) { r := true, w := true } (fun old => max old v) exec_signalMax (kind hk)
        (Pk.signalNeed_modify (by omega)) (new_eq hk)⟩

end

section
/-! Doorbells and the descriptor that they latch (R310, R311). -/
namespace Sys2Proof.Machine

/-! ### Errors that Arnal notes (R309) -/

/-- Between the two states Arnal has noted between `lo` and `hi` errors: in its ring, or by the bit for dropped ones. -/
def State.Noted (s t : State) (lo hi : Nat) : Prop :=
  (s.arn.status.getLsbD 0 = true → t.arn.status.getLsbD 0 = true) ∧
  (t.arn.status.getLsbD 0 = true ∨ ∃ n, lo ≤ n ∧ n ≤ hi ∧ t.arn.errwr = s.arn.errwr + BitVec.ofNat 32 n)

section
variable {s t u : State} {lo hi lo' hi' : Nat}

theorem State.Noted.of_arn (h1 : t.arn.status = s.arn.status) (h2 : t.arn.errwr = s.arn.errwr) : s.Noted t 0 0 :=
  ⟨fun h => h1 ▸ h, .inr ⟨0, le_rfl, le_rfl, by simp [h2]⟩⟩

theorem State.Noted.trans (h : s.Noted t lo hi) (g : t.Noted u lo' hi') : s.Noted u (lo + lo') (hi + hi') := by
  obtain ⟨h0, h⟩ := h
  obtain ⟨g0, g⟩ := g
  refine ⟨fun e => g0 (h0 e), ?_⟩
  rcases h with h | ⟨n, hn, hn', h⟩
  · exact .inl (g0 h)
  rcases g with g | ⟨m, hm, hm', g⟩
  · exact .inl g
  · exact .inr ⟨n + m, by omega, by omega, by rw [g, h, BitVec.ofNat_add, BitVec.add_assoc]⟩

theorem State.Noted.weaken (h : s.Noted t lo hi) (hl : lo' ≤ lo) (hh : hi ≤ hi') : s.Noted t lo' hi' := by
  obtain ⟨h0, h⟩ := h
  exact ⟨h0, h.imp_right fun ⟨n, hn, hn', h⟩ => ⟨n, by omega, by omega, h⟩⟩

/-- A count of errors that does not come round shows in the registers. -/
theorem State.Noted.seen (h : s.Noted t lo hi) (hl : 1 ≤ lo) (hh : hi < 2 ^ 32) :
    t.arn.errwr ≠ s.arn.errwr ∨ t.arn.status.getLsbD 0 = true := by
  obtain ⟨-, dropped | ⟨n, hn, hn', h⟩⟩ := h
  · exact .inr dropped
  · refine .inl fun same => ?_
    have : (BitVec.ofNat 32 n).toNat = 0 := by
      rw [same] at h
      exact congrArg BitVec.toNat (BitVec.self_eq_add_right.mp h)
    rw [BitVec.toNat_ofNat, Nat.mod_eq_of_lt (by omega)] at this
    omega

end

section
variable (s : State)

theorem State.noted_errorRecord (cls code ctx : Nat) (p : Option (Nat × BitVec 32 × BitVec 32)) (d0 d1 : Word) :
    s.Noted (s.errorRecord cls code ctx p d0 d1) 1 1 := by
  unfold State.errorRecord
  dsimp only
  split
  · have dropped : (s.setStatus 1).arn.status.getLsbD 0 = true := by simp [State.setStatus]
    exact ⟨fun _ => dropped, .inl dropped⟩
  · generalize hr : s.ringWrite _ _ = r
    have h : r.arn = s.arn := hr ▸ State.arn_ringWrite ..
    refine ⟨fun e => ?_, .inr ⟨1, le_rfl, le_rfl, rfl⟩⟩
    simp [State.setStatus, State.msi, h, e]

theorem State.noted_memError (a : Nat) (e : Bool) : s.Noted (s.memError a e) 1 1 := by
  let t : State := { s with health := { s.health with uncorrected := s.health.uncorrected + 1 } }
  have counted : s.Noted t 0 0 := State.Noted.of_arn rfl rfl
  exact counted.trans (t.noted_errorRecord 0x06 0x02 0xFFF none (BitVec.ofNat 64 a) (BitVec.ofNat 64 (b2n e)))

theorem State.noted_sealError (a h : Nat) (e : Bool) : s.Noted (s.sealError a h e) 2 2 := by
  unfold State.sealError
  exact (s.noted_errorRecord ..).trans (State.noted_memError ..)

theorem State.noted_openLine (u : Nat) : s.Noted (s.openLine u) 0 2 := by
  unfold State.openLine
  split
  · exact (State.Noted.of_arn rfl rfl).weaken le_rfl (by omega)
  · have noted := (s.noted_sealError (128 * u) (s.owner (u / 512)).husk false).weaken (lo' := 0) (by omega) le_rfl
    exact noted.trans (State.Noted.of_arn rfl rfl)

theorem State.noted_foldl {α : Type} {f : State → α → State} {n : Nat}
    (hf : ∀ (t : State) x, t.Noted (f t x) 0 n) (l : List α) : s.Noted (l.foldl f s) 0 (n * l.length) := by
  induction l generalizing s with
  | nil => exact State.Noted.of_arn rfl rfl
  | cons x l ih => exact ((hf s x).trans (ih _)).weaken le_rfl (by simp [Nat.mul_add, Nat.add_comm])

theorem State.noted_physWrite (a : Nat) (l : List Byte) :
    s.Noted (s.physWrite a l) 0 (2 * (partLines a l.length).length) := by
  unfold State.physWrite
  split
  · exact (State.Noted.of_arn rfl rfl).weaken le_rfl (by omega)
  · have opens := s.noted_foldl (f := fun s u => s.openLine u) State.noted_openLine (partLines a l.length)
    have home := State.arn_putHome (s := (partLines a l.length).foldl (fun s u => s.openLine u) s) a l
    exact opens.trans (State.Noted.of_arn (congrArg Arnal.status home) (congrArg Arnal.errwr home))

/-- A doubleword lies in at most two lines. -/
theorem State.noted_physDw (a : Nat) (x : Word) : s.Noted (s.physDw a x) 0 4 := by
  refine (s.noted_physWrite a _).weaken le_rfl ?_
  have lines : (partLines a 8).length ≤ (unitsOf 128 a 8).length := List.length_filter_le ..
  have two : (unitsOf 128 a 8).length ≤ 2 := by
    simp only [unitsOf, if_neg (show ¬8 = 0 by decide), List.length_map, List.length_range]
    omega
  rw [length_leBytes]
  omega

theorem State.noted_putQueue (q : Nat) (x : Queue) : s.Noted (s.putQueue q x) 0 8 := by
  let t : State := { s with arn := { s.arn with queues := mapPut s.arn.queues q x } }
  have put : s.Noted t 0 0 := State.Noted.of_arn rfl rfl
  exact (put.trans (t.noted_physDw ..)).trans (State.noted_physDw ..)

theorem State.noted_commandError (q : Nat) (head tag : BitVec 32) (code : Nat) :
    s.Noted (s.commandError q head tag code) 1 9 := by
  unfold State.commandError
  exact (s.noted_putQueue q _).trans (State.noted_errorRecord ..)

theorem State.noted_atHead (q : Nat) : s.Noted (s.atHead q) 0 9 := by
  have same : s.Noted s 0 9 := (State.Noted.of_arn rfl rfl).weaken le_rfl (by omega)
  unfold State.atHead
  dsimp only
  split
  · exact same
  split
  · split <;> exact same
  · split
    · exact (s.noted_commandError ..).weaken (by omega) le_rfl
    · exact same

theorem State.noted_ringTail (q : Nat) (tail : BitVec 32) : s.Noted (s.ringTail q tail) 0 17 := by
  unfold State.ringTail
  dsimp only
  split
  · exact (State.Noted.of_arn rfl rfl).weaken le_rfl (by omega)
  split
  · exact (s.noted_commandError ..).weaken (by omega) (by omega)
  · exact (s.noted_putQueue q _).trans (State.noted_atHead ..)

theorem State.noted_ringStop (q : Nat) : s.Noted (s.ringStop q) 0 12 := by
  have ends : s.Noted (s.endDestroy q) 0 0 := State.Noted.of_arn rfl rfl
  unfold State.ringStop
  exact (ends.trans (State.noted_putQueue ..)).trans (State.noted_physDw ..)

end

end Sys2Proof.Machine
end

section
/-! Doorbell writes (R310, R311): the tail, the reload and the stop of a queue in service, and the latch of one that is
not. -/
namespace Sys2Proof.Machine

/-! ### The acts of a doorbell on its queue -/

/-- What a queue has latched of its descriptor, as far as the statements name it. -/
def Queue.latchedFields (x : Queue) : Bool × Nat × Nat := (x.latched, x.ctx, x.ring)

section
variable (s : State) (q : Nat)

theorem State.atHead_halted {s : State} {q : Nat} (h : (s.queue q).halted = true) : s.atHead q = s := if_pos (.inl h)

theorem State.latchedFields_atHead : ((s.atHead q).queue q).latchedFields = (s.queue q).latchedFields := by
  unfold State.atHead
  dsimp only
  split
  · rfl
  split
  · split
    · simp [State.queue, Queue.latchedFields]
    · rfl
  · split
    · rw [State.queue_commandError]
      rfl
    · rfl

theorem State.latchedFields_ringTail (tail : BitVec 32) :
    ((s.ringTail q tail).queue q).latchedFields = (s.queue q).latchedFields := by
  unfold State.ringTail
  dsimp only
  split
  · rfl
  split
  · rw [State.queue_commandError]
    rfl
  · rw [State.latchedFields_atHead, State.queue_putQueue]
    rfl

/-- A halted queue stays halted while its tail moves. -/
theorem State.halted_ringTail {s : State} {q : Nat} (h : (s.queue q).halted = true) (tail : BitVec 32) :
    ((s.ringTail q tail).queue q).halted = true := by
  unfold State.ringTail
  dsimp only
  split
  · exact h
  split
  · rw [State.queue_commandError]
  · have put : ((s.putQueue q { s.queue q with tail }).queue q).halted = true := by rw [State.queue_putQueue, h]
    rw [State.atHead_halted put, put]

theorem State.queue_ringStop : (s.ringStop q).queue q =
    { s.queue q with enable := false, blocked := false, stage := 0, headSince := none } := by
  rw [State.ringStop, State.queue_of_settings (State.settings_physDw ..), State.queue_putQueue]

variable {s q}

theorem State.ringTail_late (h9 : 9 ≤ (s.queue q).size) (h20 : (s.queue q).size ≤ 20) {tail : BitVec 32}
    (late : 2 ^ (s.queue q).size < (tail - (s.queue q).head).toNat) :
    ∃ tag, s.ringTail q tail = s.commandError q (s.queue q).head tag 11 :=
  ⟨_, (if_neg (by omega)).trans (if_pos late)⟩

theorem State.ringTail_moves (h9 : 9 ≤ (s.queue q).size) (h20 : (s.queue q).size ≤ 20) {tail : BitVec 32}
    (fits : ¬2 ^ (s.queue q).size < (tail - (s.queue q).head).toNat) :
    s.ringTail q tail = (s.putQueue q { s.queue q with tail }).atHead q :=
  (if_neg (by omega)).trans (if_neg fits)

/-! ### The latch of a descriptor (R311) -/

/-- A queue that has latched the doublewords of a descriptor (Table 13.2). -/
def Queue.latchedBy (x : Queue) (d : List Nat) : Queue :=
  { x with
    latched := true, enable := bit (d.getD 0 0) 63, priv := bit (d.getD 0 0) 62, size := bits (d.getD 0 0) 56 5
    ring := 4096 * bits (d.getD 0 0) 12 40, ctx := bits (d.getD 2 0) 0 12, qprio := bits (d.getD 2 0) 12 2
    maxprio := bits (d.getD 2 0) 14 2, savedl := bits (d.getD 2 0) 32 32 }

theorem State.latch_good (h : badDescriptor (s.descriptor q) = false) :
    s.latch q = s.putQueue q ((s.queue q).latchedBy (s.descriptor q)) := if_neg (ne_true_of_eq_false h)

/-- The state in which a bad descriptor halts its queue, which has latched it. -/
def State.latching (s : State) (q : Nat) : State :=
  { s with arn := { s.arn with queues := mapPut s.arn.queues q ((s.queue q).latchedBy (s.descriptor q)) } }

theorem State.latch_bad (h : badDescriptor (s.descriptor q) = true) :
    s.latch q = (s.latching q).commandError q (s.queue q).head 0 3 := if_pos h

theorem State.halted_latch_bad (h : badDescriptor (s.descriptor q) = true) : ((s.latch q).queue q).halted = true := by
  rw [State.latch_bad h, State.queue_commandError]

theorem State.noted_latch_bad (h : badDescriptor (s.descriptor q) = true) : s.Noted (s.latch q) 1 9 := by
  have same : s.Noted (s.latching q) 0 0 := State.Noted.of_arn rfl rfl
  rw [State.latch_bad h]
  exact same.trans (State.noted_commandError ..)

/-- What a queue has latched shows, whether it halts or not. -/
theorem State.queue_latch : ((s.latch q).queue q).enable = bit ((s.descriptor q).getD 0 0) 63 ∧
    ((s.latch q).queue q).latchedFields =
      (true, bits ((s.descriptor q).getD 2 0) 0 12, 4096 * bits ((s.descriptor q).getD 0 0) 12 40) := by
  cases h : badDescriptor (s.descriptor q)
  · rw [State.latch_good h, State.queue_putQueue]
    exact ⟨rfl, rfl⟩
  · have held : (s.latching q).queue q = (s.queue q).latchedBy (s.descriptor q) := by
      simp [State.queue, State.latching]
    rw [State.latch_bad h, State.queue_commandError, held]
    exact ⟨rfl, rfl⟩

/-! ### A doorbell write -/

section
variable (v : Word) (b : BitVec 8)

theorem exec_doorbellTail : exec (.doorbellTail b v) s = .next (s.doorbell b.toNat v) := rfl

theorem exec_doorbellReload :
    exec (.doorbellReload b v) s = .next (s.doorbell b.toNat (v ||| BitVec.twoPow 64 62)) := rfl

theorem exec_doorbellStop : exec (.doorbellStop b v) s = .next (s.doorbell b.toNat (v ||| BitVec.twoPow 64 63)) := rfl

end

/-- What a doorbell write does to a queue in service: the tail, the reload and the stop, in that order (log 25). -/
def State.rung (s : State) (q : Nat) (v : Word) : State :=
  let s := s.ringTail q (v.extractLsb' 0 32)
  let s := if v.getLsbD 62 then s.ringReload q else s
  if v.getLsbD 63 then s.ringStop q else s

section
variable {v : Word}

/-- Setting a bit of a doorbell's value above its tail field. -/
theorem tail_setBit (n : Nat) (hn : 32 ≤ n) :
    (v ||| BitVec.twoPow 64 n).extractLsb' 0 32 = v.extractLsb' 0 32 := by
  ext i hi
  simp [show n ≠ i by omega]

theorem getLsbD_setBit {n : Nat} (hn : n < 64) (i : Nat) :
    (v ||| BitVec.twoPow 64 n).getLsbD i = (v.getLsbD i || decide (n = i)) := by
  rw [BitVec.getLsbD_or, BitVec.getLsbD_twoPow]
  simp [hn]

theorem State.rung_unreloaded (h62 : v.getLsbD 62 = false) :
    s.rung q v =
      if v.getLsbD 63 then (s.ringTail q (v.extractLsb' 0 32)).ringStop q else s.ringTail q (v.extractLsb' 0 32) := by
  simp only [State.rung, h62, Bool.false_eq_true, if_false]

theorem State.rung_tail (h62 : v.getLsbD 62 = false) (h63 : v.getLsbD 63 = false) :
    s.rung q v = s.ringTail q (v.extractLsb' 0 32) := by
  rw [State.rung_unreloaded h62, if_neg (ne_true_of_eq_false h63)]

theorem State.rung_reload (h63 : v.getLsbD 63 = false) :
    s.rung q (v ||| BitVec.twoPow 64 62) = (s.ringTail q (v.extractLsb' 0 32)).ringReload q := by
  have set (i : Nat) := getLsbD_setBit (v := v) (n := 62) (by decide) i
  simp only [State.rung, tail_setBit 62 (by decide), set, h63]
  simp

theorem State.rung_stop (h62 : v.getLsbD 62 = false) :
    s.rung q (v ||| BitVec.twoPow 64 63) = (s.ringTail q (v.extractLsb' 0 32)).ringStop q := by
  have set (i : Nat) := getLsbD_setBit (v := v) (n := 63) (by decide) i
  simp only [State.rung, tail_setBit 63 (by decide), set, h62]
  simp

variable (hs : s.inService = true) (he : s.arn.enable = true)
include hs he

theorem State.doorbell_served (hl : (s.queue q).latched = true) (hq : (s.queue q).enable = true) :
    s.doorbell q v = s.rung q v := by
  simp [State.doorbell, hs, he, hl, hq, State.rung]

variable (hx : (s.queue q).latched = false ∨ (s.queue q).enable = false)
include hx

/-- The enable bit of the descriptor of a queue that is not in service. -/
theorem State.doorbell_unserved :
    s.doorbell q v =
      let t := if bits ((s.descriptor q).getD 0 0) 63 1 = 1 then s.latch q else s
      if (!(t.queue q).latched || !(t.queue q).enable) = true then t else t.rung q v := by
  have off : ((s.queue q).latched && (s.queue q).enable) = false := by rcases hx with h | h <;> simp [h]
  have enabled : bit ((s.descriptor q).headD 0) 63 = decide (bits ((s.descriptor q).getD 0 0) 63 1 = 1) := rfl
  simp only [State.doorbell, hs, he, off, enabled, State.rung]
  simp

/-- A queue that is not in service latches a descriptor that is enabled, and then serves the write. -/
theorem State.doorbell_latches (hd : bits ((s.descriptor q).getD 0 0) 63 1 = 1) :
    s.doorbell q v = (s.latch q).rung q v := by
  obtain ⟨enable, fields⟩ := State.queue_latch (s := s) (q := q)
  have latched : ((s.latch q).queue q).latched = true := congrArg Prod.fst fields
  have enable : ((s.latch q).queue q).enable = true := enable.trans (decide_eq_true hd)
  rw [State.doorbell_unserved hs he hx]
  simp only [if_pos hd, latched, enable]
  rfl

/-- One whose descriptor is not enabled has no doorbell. -/
theorem State.doorbell_disabled (hd : bits ((s.descriptor q).getD 0 0) 63 1 = 0) : s.doorbell q v = s := by
  have off : (!(s.queue q).latched || !(s.queue q).enable) = true := by rcases hx with h | h <;> simp [h]
  rw [State.doorbell_unserved hs he hx]
  simp only [hd, if_neg (show ¬0 = 1 by decide), if_pos off]

end

/-- What a write that does not reload leaves of a queue: its latched fields, its halt, and the errors that it notes. -/
theorem State.queue_rung {v : Word} (h62 : v.getLsbD 62 = false) :
    ((s.rung q v).queue q).latchedFields = (s.queue q).latchedFields ∧
    ((s.queue q).halted = true → ((s.rung q v).queue q).halted = true) ∧ s.Noted (s.rung q v) 0 29 := by
  have tail := s.noted_ringTail q (v.extractLsb' 0 32)
  rw [State.rung_unreloaded h62]
  split
  · rw [State.queue_ringStop]
    exact ⟨s.latchedFields_ringTail q _, fun h => State.halted_ringTail h _, tail.trans (State.noted_ringStop ..)⟩
  · exact ⟨s.latchedFields_ringTail q _, fun h => State.halted_ringTail h _, tail.weaken le_rfl (by omega)⟩

end

end Sys2Proof.Machine
end

section
/-! The rounds in which Arnal serves queues, and the events of a queue that waits (R315, R321). -/
namespace Sys2Proof.Machine

/-! ### The lanes of a round (R321) -/

/-- A round has at most 32 lanes, also where it starves no priority. -/
theorem State.length_selectLanes (s : State) : s.selectLanes.length ≤ 32 := by
  unfold State.selectLanes
  dsimp only
  generalize ([3, 2, 1, 0].map s.readyAt).flatten = all
  have lanes : (all.take 32).length ≤ 32 := List.length_take_le ..
  split
  · exact lanes
  split
  · split
    · exact lanes
    · have first : ((all.take 32).take 31).length ≤ 31 := List.length_take_le ..
      rw [List.length_append, List.length_singleton]
      omega
  · exact lanes

/-! ### The groups of a round (Table 13.7) -/

/-- Run the groups of a round one after another. -/
def runGroups (s : State) (good : List Pk) : State :=
  groupOrder.foldl (fun s op => runLanes s (good.filter fun p => p.is op)) s

theorem exec_arnalRound_idle {s : State} (h : s.selectLanes = []) : exec .arnalRound s = .next s :=
  congrArg _ (if_pos (by rw [h]; rfl))

/-- A round runs the lanes whose headers fail, and then the groups of the others (log 33). -/
theorem exec_arnalRound_runs {s : State} (h : s.selectLanes ≠ []) :
    exec .arnalRound s =
      .next ((runGroups (runLanes s (s.selectLanes.filter fun k => (headerError k).isSome))
        (s.selectLanes.filter fun k => (headerError k).isNone)).movePointers s.selectLanes) :=
  congrArg _ (if_neg (by simpa using h))

theorem runGroups_nil (s : State) : runGroups s [] = s := rfl

theorem filter_groupOrder {op : Nat} (h : op ∈ groupOrder) : groupOrder.filter (fun o => decide (op = o)) = [op] := by
  revert op
  decide

/-- Lanes of one opcode run in one group. -/
theorem runGroups_same {good : List Pk} {op : Nat} (hg : ∀ k ∈ good, k.f 0 0 8 = op) (ho : op ∈ groupOrder)
    (s : State) : runGroups s good = runLanes s good := by
  have group (o : Nat) : (good.filter fun k => k.is o) = if decide (op = o) = true then good else [] := by
    split
    next h => exact List.filter_eq_self.mpr fun k hk => decide_eq_true ((hg k hk).trans (of_decide_eq_true h))
    next h => exact List.filter_eq_nil_iff.mpr fun k hk => by simpa [Pk.is, hg k hk] using h
  have step (s : State) (o : Nat) : runLanes s (good.filter fun k => k.is o) =
      if decide (op = o) = true then runLanes s good else s := by
    rw [group]
    split <;> rfl
  simp only [runGroups, step]
  rw [← List.foldl_filter, filter_groupOrder ho]
  rfl

/-- A lane of an opcode that has a group runs in it. -/
theorem mem_groupOrder {k : Pk} (h : (groupOrder.filter fun op => k.is op).length = 1) : k.f 0 0 8 ∈ groupOrder := by
  obtain ⟨op, hop⟩ := List.exists_mem_of_length_pos (Nat.lt_of_lt_of_eq Nat.one_pos h.symm)
  obtain ⟨mem, is⟩ := List.mem_filter.mp hop
  rwa [of_decide_eq_true is]

/-- A CTXEND runs before a LAUNCH that was selected before it. -/
theorem runGroups_ctxend_launch {j k : Pk} (hj : j.f 0 0 8 = 9) (hk : k.f 0 0 8 = 3) (s : State) :
    runGroups s [j, k] = runLanes (runLanes s [k]) [j] := by
  simp [runGroups, groupOrder, List.filter_cons, Pk.is, hj, hk, runLanes]

theorem exec_arnalRound_one {s : State} {k : Pk} (one : s.selectLanes = [k])
    (group : (headerError k).isSome = true ∨ (groupOrder.filter fun op => k.is op).length = 1) :
    exec .arnalRound s = .next ((runPacket (held (packetBody k)) k s).movePointers [k]) := by
  rw [exec_arnalRound_runs (one ▸ List.cons_ne_nil k []), one]
  cases header : headerError k with
  | some c => simp [header, runGroups_nil, runLanes]
  | none =>
    have mem := mem_groupOrder (group.resolve_left (by simp [header]))
    simp [header, runGroups_same (good := [k]) (by simp) mem, runLanes]

/-- A round of two lanes whose headers pass runs their groups alone. -/
theorem exec_arnalRound_two {s : State} {j k : Pk} (two : s.selectLanes = [j, k]) (hj : headerError j = none)
    (hk : headerError k = none) : exec .arnalRound s = .next ((runGroups s [j, k]).movePointers [j, k]) := by
  rw [exec_arnalRound_runs (two ▸ List.cons_ne_nil j [k]), two]
  simp [hj, hk, runLanes]

/-! ### Queues that wait (R315, R321) -/

theorem exec_packetUnblock (s : State) (q : BitVec 8) : exec (.packetUnblock q) s =
    .next (if (s.queue q.toNat).blocked then s.putQueue q.toNat { s.queue q.toNat with blocked := false } else s) := rfl

theorem exec_waitmemTimeout_due {s : State} {q : BitVec 8} {t : Nat} (h : s.waitmemDue q.toNat = some t)
    (ht : t ≤ s.clk) :
    ∃ tag, exec (.waitmemTimeout q) s = .next (s.commandError q.toNat (s.queue q.toNat).head tag 10) := by
  refine ⟨(s.packetAt q.toNat (s.queue q.toNat) (s.queue q.toNat).head).tag, ?_⟩
  change execWaitmemTimeout q s = _
  simp only [execWaitmemTimeout, h, if_pos ht]

theorem exec_waitmemPoll_polls {s : State} {q : BitVec 8} {k : Pk} (h : s.headPacket q.toNat = some k)
    (hop : k.f 0 0 8 = 13) (hb : k.queue.blocked = true) (hq : k.queue.enable = true) (he : s.arn.enable = true) :
    exec (.waitmemPoll q) s = .next (runPacket (held waitmemBody) k s) := by
  have polls : k.is 13 = true ∧ k.queue.blocked = true ∧ k.queue.enable = true ∧ s.arn.enable = true :=
    ⟨decide_eq_true hop, hb, hq, he⟩
  change execWaitmemPoll q s = _
  simp only [execWaitmemPoll, h, if_pos polls]

end Sys2Proof.Machine
end

section
/-! The control port (R308, R309, R355): writes to BAR0 registers, and accesses through the BAR2 window. -/
namespace Sys2Proof.Machine

/-! ### BAR0 (R308, R309, R391) -/

section
variable {s : State} {v : Word}

theorem exec_registerWrite_boot (h : s.inService = false) (o : Nat) : exec (.registerWrite o v) s = .next s :=
  congrArg _ (if_pos (by rw [h]; rfl))

variable (hs : s.inService = true)
include hs

theorem exec_registerWrite_served (o : Nat) : exec (.registerWrite o v) s =
    .next (if 0x20000 ≤ o then s.writeXlat (o - 0x20000) v
      else if 0x10000 ≤ o ∧ o < 0x10800 ∧ o % 8 = 0 then s.doorbell ((o - 0x10000) / 8) v
      else s.writeArnal o v) :=
  congrArg _ (if_neg (by rw [hs]; decide))

theorem exec_registerWrite_arnal {o : Nat} (ho : o < 0x10000) :
    exec (.registerWrite o v) s = .next (s.writeArnal o v) := by
  rw [exec_registerWrite_served hs, if_neg (by omega), if_neg (by omega)]

theorem exec_registerWrite_doorbell {q : Nat} (hq : q < 256) :
    exec (.registerWrite (0x10000 + 8 * q) v) s = .next (s.doorbell q v) := by
  rw [exec_registerWrite_served hs, if_neg (by omega), if_pos (by omega), Nat.add_sub_cancel_left,
    Nat.mul_div_cancel_left q (by decide)]

theorem exec_registerWrite_xlat (o : Nat) : exec (.registerWrite (0x20000 + o) v) s = .next (s.writeXlat o v) := by
  rw [exec_registerWrite_served hs, if_pos (by omega), Nat.add_sub_cancel_left]

end

/-- A write of inval.start with kind 3 errs (R261). -/
theorem State.startInval_reserved (s : State) : s.startInval 3 = s.setInval 4 := if_pos (.inr (.inl le_rfl))

/-- Clearing the bits of a mask, but those that an event of this clk has set (R5). -/
theorem not_and_not {n : Nat} (x new : BitVec n) : ~~~(x &&& ~~~new) = ~~~x ||| new := by
  ext i hi
  simp

/-! ### BAR2 (R308, R355) -/

section
variable {s : State} {o n : Nat}

/-- The physical address of an offset of the BAR2 window. -/
def State.windowAt (s : State) (o : Nat) : Nat := s.arn.win.toNat * 2 ^ 32 + o

/-- An access lies in the window and in memory, and no frame of it is closed. -/
def State.windowOpen (s : State) (o n : Nat) : Prop :=
  1 ≤ n ∧ o + n ≤ 2 ^ 32 ∧ s.windowAt o + n ≤ memBytes ∧ ∀ f ∈ unitsOf 65536 (s.windowAt o) n,
    s.frameClosed f = false ∧ s.regionClosed (65536 * f) = false

theorem State.bar2_outside (h : n = 0 ∨ 2 ^ 32 < o + n) (w : Bool) : s.bar2 o n w = (none, s) := if_pos h

theorem State.bar2_open (h : s.windowOpen o n) (w : Bool) : s.bar2 o n w = (some (s.windowAt o, false), s) := by
  obtain ⟨pos, inside, mem, frames⟩ := h
  have none : (unitsOf 65536 (s.windowAt o) n).find? s.frameClosed = none :=
    List.find?_eq_none.mpr fun f hf => ne_true_of_eq_false (frames f hf).1
  have fits : decide (memBytes < s.windowAt o + n) = false := decide_eq_false (by omega)
  have free : ((unitsOf 65536 (s.windowAt o) n).any fun f => s.regionClosed (65536 * f)) = false :=
    List.any_eq_false.mpr fun f hf => ne_true_of_eq_false (frames f hf).2
  rw [State.bar2, ← State.windowAt]
  simp only [if_neg (show ¬(n = 0 ∨ 2 ^ 32 < o + n) by omega), none, fits, free, Bool.or_self]

theorem State.bar2_closed (pos : 1 ≤ n) (inside : o + n ≤ 2 ^ 32) {f : Nat}
    (h : (unitsOf 65536 (s.windowAt o) n).find? s.frameClosed = some f) (w : Bool) :
    s.bar2 o n w = (some (s.windowAt o, true), s.noteRefusal (max (s.windowAt o) (65536 * f)) w) := by
  rw [State.bar2, ← State.windowAt]
  simp only [if_neg (show ¬(n = 0 ∨ 2 ^ 32 < o + n) by omega), h]

/-- The reply to the last read through BAR2. -/
def State.replies (s : State) (l : Option (List Byte)) : State := { s with arn := { s.arn with hostReply := l } }

variable (ht : s.health.tripped = false)
include ht

theorem exec_bar2Read_outside (h : n = 0 ∨ 2 ^ 32 < o + n) : exec (.bar2Read o n) s = .next (s.replies none) := by
  change execBar2Read o n s = _
  simp only [execBar2Read, ht, State.bar2_outside h, Bool.false_eq_true, if_false]
  rfl

theorem exec_bar2Read_open (h : s.windowOpen o n)
    (good : (s.settleRange (s.windowAt o) n).anyBad (s.windowAt o) n = false) :
    exec (.bar2Read o n) s = .next ((s.settleRange (s.windowAt o) n).replies
      (some ((s.settleRange (s.windowAt o) n).mem.read (s.windowAt o) n))) := by
  change execBar2Read o n s = _
  simp only [execBar2Read, ht, State.bar2_open h, good, Bool.false_eq_true, if_false]
  rfl

theorem exec_bar2Read_closed (pos : 1 ≤ n) (inside : o + n ≤ 2 ^ 32) {f : Nat}
    (h : (unitsOf 65536 (s.windowAt o) n).find? s.frameClosed = some f) :
    exec (.bar2Read o n) s = .next ((s.noteRefusal (max (s.windowAt o) (65536 * f)) false).replies
      (some (List.replicate n 0xFF))) := by
  change execBar2Read o n s = _
  simp only [execBar2Read, ht, State.bar2_closed pos inside h, Bool.false_eq_true, if_false]
  rfl

variable {l : List Byte}

theorem exec_bar2Write_closed (pos : 1 ≤ l.length) (inside : o + l.length ≤ 2 ^ 32) {f : Nat}
    (h : (unitsOf 65536 (s.windowAt o) l.length).find? s.frameClosed = some f) :
    exec (.bar2Write o l) s = .next (s.noteRefusal (max (s.windowAt o) (65536 * f)) true) := by
  change execBar2Write o l s = _
  simp only [execBar2Write, ht, State.bar2_closed pos inside h, Bool.false_eq_true, if_false]

theorem exec_bar2Write_open (h : s.windowOpen o l.length) :
    exec (.bar2Write o l) s =
      .next ((s.settleRange (s.windowAt o) l.length).physWrite (s.windowAt o)
        ((s.settleRange (s.windowAt o) l.length).hostBytes (s.windowAt o) l)) := by
  change execBar2Write o l s = _
  simp only [execBar2Write, ht, State.bar2_open h, Bool.false_eq_true, if_false]

end

/-- A host write beside the reserved region stores its own bytes. -/
theorem State.hostBytes_outside (s : State) (l : List Byte) (pa : Nat)
    (h : ∀ i < l.length, s.inRegion (pa + i) = false) : s.hostBytes pa l = l := by
  induction l generalizing pa with
  | nil => rfl
  | cons x r ih =>
    have here : s.inRegion pa = false := h 0 (by simp)
    have byte : s.healthByte pa x = x := if_pos (by rw [here]; rfl)
    have rest := ih (pa + 1) fun i hi => by simpa [Nat.add_comm, Nat.add_left_comm] using h (i + 1) (by simpa using hi)
    rw [State.hostBytes, byte, rest]

end Sys2Proof.Machine
end

section
open Sys2Proof Sys2Proof.Machine

/-- Settles O46: a doorbell by the acts of its fields in order (log 25), a round by its groups (log 33), a register
write by its offset (log 34), BAR2 by what it makes of its request. -/
theorem queueAndHostEventsComplete : Obligations.QueueAndHostEventsComplete := by
  unfold Obligations.QueueAndHostEventsComplete
  refine ⟨fun s q v x hs he hx hl hq h9 h20 => ?served, fun s q v x hs he hx hoff => ?unserved, fun s => ?round,
    fun s q x hx => ?waiting, fun s o v => ⟨fun hs => exec_registerWrite_boot hs o, fun hs => ?register⟩,
    fun s o n l ht => ?window⟩
  case served =>
    intro tail late moved h62 h63
    subst hx
    have rings (w : Word) : s.doorbell q.toNat w = s.rung q.toNat w := State.doorbell_served hs he hl hq
    refine ⟨fun fits => (exec_doorbellTail v q).trans (congrArg _ ?tail), fun past => ?late,
      fun fits halted => (exec_doorbellReload v q).trans (congrArg _ ?reload),
      fun fits => (exec_doorbellStop v q).trans (congrArg _ ?stop)⟩
    case tail => exact (rings v).trans ((State.rung_tail h62 h63).trans (State.ringTail_moves h9 h20 fits))
    case late =>
      obtain ⟨tag, errs⟩ := State.ringTail_late h9 h20 past
      exact ⟨tag, (exec_doorbellTail v q).trans
        (congrArg _ ((rings v).trans ((State.rung_tail h62 h63).trans errs)))⟩
    case reload =>
      refine (rings _).trans ((State.rung_reload h63).trans ?_)
      rw [State.ringTail_moves h9 h20 fits]
      exact if_pos (.inl halted)
    case stop =>
      refine (rings _).trans ((State.rung_stop h62).trans ?_)
      rw [State.ringTail_moves h9 h20 fits]
      rfl
  case unserved =>
    intro d
    subst hx
    refine ⟨fun hd => (exec_doorbellTail v q).trans (congrArg _ (State.doorbell_disabled hs he hoff hd)),
      fun hd h62 => ?_⟩
    have rings := State.doorbell_latches (v := v) hs he hoff hd
    obtain ⟨-, latched⟩ := State.queue_latch (s := s) (q := q.toNat)
    obtain ⟨fields, halted, noted⟩ := State.queue_rung (s := s.latch q.toNat) (q := q.toNat) h62
    have fields := fields.trans latched
    refine ⟨_, (exec_doorbellTail v q).trans (congrArg _ rings), congrArg Prod.fst fields,
      congrArg (·.2.1) fields, congrArg (·.2.2) fields, fun bad => ⟨halted (State.halted_latch_bad bad), ?_⟩⟩
    exact ((State.noted_latch_bad bad).trans noted).seen (by decide) (by decide)
  case round =>
    refine ⟨exec_arnalRound_idle, s.length_selectLanes, fun k => exec_arnalRound_one, exec_arnalRound_runs,
      fun j k two hj hk => ?_⟩
    have runs := exec_arnalRound_two two hj hk
    refine ⟨fun h9 h3 => ?_, fun same mem => ?_⟩
    · rw [runs, runGroups_ctxend_launch h9 h3]
      rfl
    · rw [runs, runGroups_same (op := k.f 0 0 8) (by simp [same]) mem]
      rfl
  case waiting =>
    subst hx
    refine ⟨fun hb => (exec_packetUnblock s q).trans (congrArg _ (if_pos hb)),
      fun hb => (exec_packetUnblock s q).trans (congrArg _ (if_neg (ne_true_of_eq_false hb))),
      fun t due ht => exec_waitmemTimeout_due due ht, fun k hk hop hb hq he => exec_waitmemPoll_polls hk hop hb hq he⟩
  case register =>
    refine ⟨exec_registerWrite_arnal hs (by decide), fun he => ⟨?base, ?log⟩, exec_registerWrite_arnal hs (by decide),
      ?status, exec_registerWrite_arnal hs (by decide), fun n hn => ?doorbell, ?start, ?clear, ?verdict⟩
    case base => exact (exec_registerWrite_arnal hs (by decide)).trans (congrArg _ (if_pos he))
    case log => exact (exec_registerWrite_arnal hs (by decide)).trans (congrArg _ (if_pos he))
    case status =>
      rw [exec_registerWrite_arnal hs (by decide), State.writeArnal, not_and_not]
    case doorbell =>
      rw [exec_registerWrite_doorbell hs hn, exec_doorbellTail, BitVec.toNat_ofNat, Nat.mod_eq_of_lt hn]
    case start =>
      obtain ⟨range, asid, all⟩ := exec_inval hs
      refine (exec_registerWrite_xlat hs 0x18).trans ?_
      rw [State.writeXlat]
      have kind : v.toNat % 4 < 4 := Nat.mod_lt _ (by decide)
      generalize v.toNat % 4 = k at kind ⊢
      match k, kind with
      | 0, _ => exact range.symm
      | 1, _ => exact asid.symm
      | 2, _ => exact all.symm
      | 3, _ => exact congrArg _ s.startInval_reserved
    case clear =>
      refine (exec_registerWrite_xlat hs 0x20).trans ?_
      rw [State.writeXlat, not_and_not]
    case verdict =>
      have field : bits v.toNat 32 2 = v.toNat / 2 ^ 32 % 4 :=
        congrArg (· % 4) (Nat.shiftRight_eq_div_pow v.toNat 32)
      refine (exec_registerWrite_xlat hs 0x40).trans ?_
      rw [State.writeXlat, field]
      have code : v.toNat / 2 ^ 32 % 4 < 4 := Nat.mod_lt _ (by decide)
      generalize v.toNat / 2 ^ 32 % 4 = k at code ⊢
      match k, code with
      | 0, _ => rfl
      | 1, _ => exact (exec_faultReplay hs _).symm
      | 2, _ => exact (exec_faultFail hs _).symm
      | 3, _ => rfl
  case window =>
    intro pa open_ reply
    exact ⟨exec_bar2Read_outside ht, fun h good => exec_bar2Read_open ht h good,
      fun f pos inside h => exec_bar2Read_closed ht pos inside h,
      fun f pos inside h => exec_bar2Write_closed ht pos inside h,
      fun h => ⟨exec_bar2Write_open ht h, State.hostBytes_outside _ l _⟩⟩

end
